-- ==== Sys2Proof/Word.lean ====
section
/-! DEFINITION. The word types, the sparse map with natural-number keys, and their plainest operations. -/

namespace Sys2Proof

/-- One byte of memory, a packet or a frame (R8: multi-byte fields are little-endian). -/
abbrev Byte := BitVec 8
/-- A 32-bit lane, FP32 encoding or handle. -/
abbrev W32 := BitVec 32
/-- A 64-bit register, parameter word or result word. -/
abbrev W64 := BitVec 64

/-- Sparse data by key, in ascending key order. -/
abbrev AMap (α : Type) := List (Nat × α)

/-- The entry of key `k`, if there is one. -/
def AMap.get? {α : Type} (m : AMap α) (k : Nat) : Option α :=
  match m with
  | [] => none
  | (k', v) :: t => if k' = k then some v else AMap.get? t k

/-- The entry of key `k`, or `d`. -/
def AMap.getD {α : Type} (m : AMap α) (k : Nat) (d : α) : α := (AMap.get? m k).getD d

/-- Is key `k` present? -/
def AMap.has {α : Type} (m : AMap α) (k : Nat) : Bool := (AMap.get? m k).isSome

/-- Set key `k` to `v`, keeping the keys ascending. -/
def AMap.put {α : Type} (m : AMap α) (k : Nat) (v : α) : AMap α :=
  match m with
  | [] => [(k, v)]
  | (k', v') :: t =>
    if k < k' then (k, v) :: (k', v') :: t
    else if k = k' then (k, v) :: t
    else (k', v') :: AMap.put t k v

/-- Remove key `k`. -/
def AMap.drop {α : Type} (m : AMap α) (k : Nat) : AMap α :=
  match m with
  | [] => []
  | (k', v') :: t => if k' = k then AMap.drop t k else (k', v') :: AMap.drop t k

/-- Apply `f` to every value. -/
def AMap.mapVals {α : Type} (m : AMap α) (f : Nat → α → α) : AMap α :=
  m.map fun kv => (kv.1, f kv.1 kv.2)

/-- Change the value at `k` (starting from `d` when absent). -/
def AMap.upd {α : Type} (m : AMap α) (k : Nat) (d : α) (f : α → α) : AMap α :=
  AMap.put m k (f (AMap.getD m k d))

/-- The keys, ascending. -/
def AMap.keyList {α : Type} (m : AMap α) : List Nat := m.map (·.1)

/-- The values in key order. -/
def AMap.valList {α : Type} (m : AMap α) : List α := m.map (·.2)

/-- Keep the entries that `p` accepts. -/
def AMap.keep {α : Type} (m : AMap α) (p : Nat → α → Bool) : AMap α :=
  m.filter fun kv => p kv.1 kv.2

/-- The sum of `f` over the entries. -/
def AMap.sumBy {α : Type} (m : AMap α) (f : Nat → α → Nat) : Nat :=
  (m.map fun kv => f kv.1 kv.2).sum

/-- The smallest natural number below `n` that `free` accepts, or `none`. -/
def lowestFree (n : Nat) (free : Nat → Bool) : Option Nat := (List.range n).find? free

/-- A choice the spec leaves to the module arrives as an operand: `pick` is taken where it is allowed,
and the lowest allowed number below `n` where it is not. -/
def choose (n pick : Nat) (ok : Nat → Bool) : Option Nat :=
  if pick < n && ok pick then some pick else lowestFree n ok

end Sys2Proof
end

