-- ==== Sys2Proof/Messages.lean ====
section
/-! DEFINITION. The operands that commands carry in from outside: packets, messages between modules, frames,
and the choices the spec leaves to the module. Where the spec gives a record a bit layout the operand is the raw word. -/

namespace Sys2Proof

/-- A fabric transport packet as it leaves a port: the 256-bit header of the transport header table and its payload (R247, R248). -/
structure TPacket where
  /-- the arrival port -/
  port : Nat
  hdr : BitVec 256
  payload : List Byte
  deriving DecidableEq, Repr

/-- A flit: header, payload bytes and CRC-32 (R239). -/
structure Flit where
  hdr : BitVec 64
  payload : List Byte
  crc : BitVec 32
  deriving DecidableEq, Repr

/-- A far-transport UDP packet (R259 to R261): its IPv6 source address, UDP destination port, UDP checksum verdict, congestion mark, header and
payload. -/
structure FarPkt where
  src : BitVec 128
  udpPort : Nat
  udpOk : Bool
  ce : Bool
  hdr : List Byte
  payload : List Byte
  deriving DecidableEq, Repr

/-- An Ethernet frame as its bytes stand on the wire, in network byte order (R8, R262): from the destination address to the end of the payload. -/
structure Frame where
  bytes : List Byte
  deriving DecidableEq, Repr

/-- The parameters R179 requires to be equal on every participant. -/
structure PlanParams where
  layer : Nat
  experts : Nat
  topk : Nat
  depth : Nat
  cap : Nat
  fmt : Nat
  width : Nat
  parts : BitVec 128
  deriving DecidableEq, Repr

/-- An open marker (R180): the sender's verdict and status, its owner table's CRC-64 and its shared parameters. -/
structure OpenMarker where
  ok : Bool
  status : Nat
  crc : BitVec 64
  params : PlanParams
  deriving DecidableEq, Repr

/-- A contribution announcement header with its granule mask (R220). -/
structure Announce where
  src : Nat
  kind : Nat
  width : Nat
  empty : Bool
  nslice : Nat
  tokens : Nat
  n : Nat
  step : BitVec 32
  gcrc : BitVec 64
  granules : List Nat
  deriving DecidableEq, Repr

/-- A message of GATHER, BROADCAST, PERMUTE or BARRIER (R299): the sender's parameters and its bytes, each with its destination offset. -/
structure CollMsg where
  length : Nat
  root : Nat
  parts : BitVec 128
  far : List Nat
  bytes : List (Nat × List Byte)
  deriving DecidableEq, Repr

/-- A page move, replica creation or replica drop that the Harbourmaster chooses at an epoch (R131, R135, R136). -/
inductive MoveKind where
  | move | addReplica | dropReplica
  deriving DecidableEq, Repr

/-- One placement choice: the berth map entry, the page number, what happens to it, and bits [63:18] of its new home. -/
structure Move where
  berth : Nat
  page : Nat
  kind : MoveKind
  base : BitVec 46
  deriving DecidableEq, Repr

/-- An address lock (R264). -/
structure AddrLock where
  mac : BitVec 48
  ips : List (BitVec 128)
  vlans : List (BitVec 12)
  /-- transmit rate limit in Mb/s -/
  rate : Nat
  deriving DecidableEq, Repr

/-- The two register spaces with registers that have no behaviour of their own (R9): the ring register block and the I3C window. -/
inductive RegSpace where
  | rings | window
  deriving DecidableEq, Repr

/-- The functions of the shut-down table (R351), by unit. -/
inductive PowerFn where
  | cluster (c : Nat)
  | rechar (c : Nat)
  | thinPath (c : Nat)
  | port (p : Nat)
  | module
  deriving DecidableEq, Repr

/-- The retiring units of R332 and R331. -/
inductive RetUnit where
  | pc (stack pc : Nat)
  | stack (stack : Nat)
  deriving DecidableEq, Repr

/-- The duplicated control blocks of R317. -/
inductive CtlBlock where
  | cluster (c : Nat)
  | quay
  | ferry
  deriving DecidableEq, Repr

/-- What an SRAM patrol reads (R316). -/
inductive SramUnit where
  | harbour (cluster : Nat)
  | operand (core : Nat)
  | accumulator (core : Nat)
  | instruction (core : Nat)
  deriving DecidableEq, Repr

/-- Who reports to the watchdog (R340). -/
inductive Reporter where
  | pair (p : Nat)
  | romPath
  deriving DecidableEq, Repr

/-- What waits up to a job's wait limit: a core's bundle (R105), or a launch that no cluster can take (R354). -/
inductive Waiter where
  | core (k : Nat)
  | launch (l : Nat)
  deriving DecidableEq, Repr

/-- Energy that one meter measured in an interval, in µJ, and the cycles or bytes that each job used there (R369). -/
structure EnergyUse where
  energy : Nat
  uses : List (Nat × Nat)
  deriving DecidableEq, Repr

/-- What wakes a gated cluster (R352). -/
inductive WakeBy where
  | binding | retainedAccess | command
  deriving DecidableEq, Repr

/-- A write of a ring's status register (R269, R283): the ring and the word. -/
structure RingWord where
  ring : Nat
  word : BitVec 64
  deriving DecidableEq, Repr

/-- What a core's self-test finds (R321, R329): a pass, or the row and the column of the array that fail, 255 for none. -/
structure TestResult where
  pass : Bool
  row : Nat
  col : Nat
  deriving DecidableEq, Repr

/-- A mismatch of a wide core's sequencer pair (R317, R319): the core, and how often the same request has now failed. -/
structure CoreMismatch where
  core : Nat
  same : Nat
  deriving DecidableEq, Repr

/-- What arrives for a core over the dies' networks (R106, R314): the number of the load or the tag of the DMA, and the erroneous symbols of one of its
blocks, 0 for none. -/
structure Arrival where
  n : Nat
  symbols : Nat
  block : Nat
  deriving DecidableEq, Repr

/-- A frame in one of the operating system's transmit queues of a port (R262). -/
structure QueuedFrame where
  queue : Nat
  frame : Frame
  deriving DecidableEq, Repr

end Sys2Proof
end

