-- ==== Sys2Proof/Syntax.lean ====
section
/-! DEFINITION. The commands: one constructor for each row of spec/opcode_table.json, in the table's order. A slot row of a kernel
names the core (positional index, R324) whose bundle issues it: its operands stand in that core's instruction memory. A packet row
names the ring (R269) whose oldest unaccepted packet it is; the admin-only rows name none. -/

namespace Sys2Proof

/-- The commands and events of the block. -/
inductive Instr where
  /-- R91: Scalar slot ADD writes sa plus sb modulo 2^64 into sd. -/
  | add (k : Nat)
  /-- R91: Scalar slot ADDI writes sa plus the sign-extended immediate into sd. -/
  | addi (k : Nat)
  /-- R91: Scalar slot SUB writes sa minus sb modulo 2^64 into sd. -/
  | sub (k : Nat)
  /-- R91: Scalar slot MUL writes the low 64 bits of sa times sb into sd. -/
  | mul (k : Nat)
  /-- R91: Scalar slot AND writes the bitwise AND of sa and sb into sd. -/
  | and (k : Nat)
  /-- R91: Scalar slot OR writes the bitwise OR of sa and sb into sd. -/
  | or (k : Nat)
  /-- R91: Scalar slot XOR writes the bitwise exclusive-or of sa and sb into sd. -/
  | xor (k : Nat)
  /-- R91: Scalar slot SHL shifts sa left logically by sb[5:0]. -/
  | shl (k : Nat)
  /-- R91: Scalar slot SHR shifts sa right logically by sb[5:0]. -/
  | shr (k : Nat)
  /-- R91: Scalar slot SRA shifts sa right arithmetically by sb[5:0]. -/
  | sra (k : Nat)
  /-- R91: Scalar slot LIH writes the immediate shifted left by 32, ORed with sa[31:0], into sd. -/
  | lih (k : Nat)
  /-- R91: Scalar slot SLT writes 1 into sd when sa is below sb (signed), else 0. -/
  | slt (k : Nat)
  /-- R91: Scalar slot SLTU writes 1 into sd when sa is below sb (unsigned), else 0. -/
  | sltu (k : Nat)
  /-- R91: Scalar slot BEQ branches by the immediate when sa equals sb. -/
  | beq (k : Nat)
  /-- R91: Scalar slot BNE branches by the immediate when sa differs from sb. -/
  | bne (k : Nat)
  /-- R91: Scalar slot BLT branches by the immediate when sa is below sb (signed). -/
  | blt (k : Nat)
  /-- R91: Scalar slot BGE branches by the immediate when sa is at least sb (signed). -/
  | bge (k : Nat)
  /-- R91: Scalar slot JMP continues at this bundle plus the immediate. -/
  | jmp (k : Nat)
  /-- R92: Scalar slot CALL pushes the next bundle and jumps; a full return stack raises the call-depth fault. -/
  | call (k : Nat)
  /-- R92: Scalar slot RET pops the return stack and continues there; an empty stack raises the illegal-operation fault. -/
  | ret (k : Nat)
  /-- R92: Scalar slot GETSR reads a special register into sd, ordered with the tile it names. -/
  | getsr (k : Nat)
  /-- R92: Scalar slot SETSR writes a special register, clearing TSTAT bits as W1C, or faults on a read-only or unassigned register. -/
  | setsr (k : Nat)
  /-- R93: Load/store slot LDS issues an 8-byte load into a scalar register through an address generator. -/
  | lds (k : Nat)
  /-- R93: Load/store slot STS stores 8 bytes from a scalar register through an address generator. -/
  | sts (k : Nat)
  /-- R93: Load/store slot LDV issues a 512-byte load into a vector register under a lane predicate. -/
  | ldv (k : Nat)
  /-- R93: Load/store slot STV stores 512 bytes from a vector register under a lane predicate. -/
  | stv (k : Nat)
  /-- R93: Load/store slot LDVC loads 128 elements of a format and widens them exactly to FP32. -/
  | ldvc (k : Nat)
  /-- R93: Load/store slot PLD loads 16 bytes into a predicate register. -/
  | pld (k : Nat)
  /-- R93: Load/store slot PST stores 16 bytes from a predicate register. -/
  | pst (k : Nat)
  /-- R94: Load/store slot DMA starts a copy, optionally transposing or expanding, whose completion sets a tag. -/
  | dma (k : Nat)
  /-- R93: Load/store slot GCFG loads an address generator from 32 bytes of operand SRAM. -/
  | gcfg (k : Nat)
  /-- R93: Load/store slot GSET sets a generator's IDX0 and IDX1 from a scalar register. -/
  | gset (k : Nat)
  /-- R93: Load/store slot GADV advances a generator without an access. -/
  | gadv (k : Nat)
  /-- R95: Vector slot FADD adds two vectors lane-wise in IEEE binary32. -/
  | fadd (k : Nat)
  /-- R95: Vector slot FSUB subtracts two vectors lane-wise in IEEE binary32. -/
  | fsub (k : Nat)
  /-- R95: Vector slot FMUL multiplies two vectors lane-wise in IEEE binary32. -/
  | fmul (k : Nat)
  /-- R95: Vector slot FMA computes va times vb plus vc with one rounding. -/
  | fma (k : Nat)
  /-- R95: Vector slot FMAX takes the larger lane value with canonical NaN. -/
  | fmax (k : Nat)
  /-- R95: Vector slot FMIN takes the smaller lane value with canonical NaN. -/
  | fmin (k : Nat)
  /-- R95: Vector slot FABS clears each lane's sign. -/
  | fabs (k : Nat)
  /-- R95: Vector slot FNEG inverts each lane's sign. -/
  | fneg (k : Nat)
  /-- R95: Vector slot FRCP computes a correctly rounded reciprocal per lane. -/
  | frcp (k : Nat)
  /-- R95: Vector slot FDIV computes a correctly rounded quotient per lane. -/
  | fdiv (k : Nat)
  /-- R95: Vector slot FSQRT computes a correctly rounded square root per lane. -/
  | fsqrt (k : Nat)
  /-- R95: Vector slot FCMP writes a predicate from a lane-wise comparison chosen by SUB. -/
  | fcmp (k : Nat)
  /-- R95: Vector slot SEL selects lanes of va or vb by a predicate. -/
  | sel (k : Nat) (b : Bool)
  /-- R95: Vector slot VIMM sets every lane to the immediate. -/
  | vimm (k : Nat) (b : Bool)
  /-- R95: Vector slot IADD adds 32-bit integer lanes modulo 2^32. -/
  | iadd (k : Nat) (b : Bool)
  /-- R95: Vector slot ISUB subtracts 32-bit integer lanes modulo 2^32. -/
  | isub (k : Nat) (b : Bool)
  /-- R95: Vector slot IAND takes the bitwise AND of integer lanes. -/
  | iand (k : Nat) (b : Bool)
  /-- R95: Vector slot IOR takes the bitwise OR of integer lanes. -/
  | ior (k : Nat) (b : Bool)
  /-- R95: Vector slot IXOR takes the bitwise exclusive-or of integer lanes. -/
  | ixor (k : Nat) (b : Bool)
  /-- R95: Vector slot ISHL shifts integer lanes left by vb lane [4:0]. -/
  | ishl (k : Nat) (b : Bool)
  /-- R95: Vector slot ISHR shifts integer lanes right by vb lane [4:0]. -/
  | ishr (k : Nat) (b : Bool)
  /-- R95: Vector slot BCAST copies one lane of va into every lane. -/
  | bcast (k : Nat)
  /-- R95: Vector slot PERM permutes the lanes of va by the indices in vb. -/
  | perm (k : Nat)
  /-- R95: Vector slot FRSUM sums the selected lanes in a fixed tree into lane 0. -/
  | frsum (k : Nat)
  /-- R95: Vector slot FRMAX takes the maximum of the selected lanes into lane 0. -/
  | frmax (k : Nat)
  /-- R116: Vector slot TRD reads one row of an accumulator tile into a vector register in tile order. -/
  | trd (k : Nat)
  /-- R95: Vector slot PLOG combines predicate registers by a logical operation. -/
  | plog (k : Nat) (b : Bool)
  /-- R95: Vector slot PSET sets the first imm lanes of a predicate. -/
  | pset (k : Nat) (b : Bool)
  /-- R65: Array slot ALDW starts loading the shadow weight tile, dense, sparse, transposed or split-pair. -/
  | aldw (k : Nat)
  /-- R96: Array slot AMUL streams input rows through the active tile into an accumulator tile or split-pair records. -/
  | amul (k : Nat)
  /-- R98: Array slot AFLUSH adds tile entries into long-accumulator records after their residue verdicts. -/
  | aflush (k : Nat)
  /-- R97: Array slot ACLR sets tile rows to +0 and resets the slab cursor. -/
  | aclr (k : Nat)
  /-- R98: Array slot LINIT initialises long-accumulator records addressed through GL. -/
  | linit (k : Nat)
  /-- R101: Out-path slot OREAD reads out records, applies scale, bias, activation and conversion, and writes the destination. -/
  | oread (k : Nat)
  /-- R101: Out-path slot OVEC applies the out path to a vector register as one row and writes it. -/
  | ovec (k : Nat)
  /-- R103: Sync slot SWAIT holds its bundle until a semaphore reaches the count, then subtracts it. -/
  | swait (k : Nat)
  /-- R103: Sync slot SPOST adds to a semaphore with cluster release, or raises sync overflow. -/
  | spost (k : Nat)
  /-- R103: Sync slot ESET sets an event line with cluster release. -/
  | eset (k : Nat)
  /-- R103: Sync slot ECLR clears an event line. -/
  | eclr (k : Nat)
  /-- R103: Sync slot EWAIT holds its bundle until an event line is set. -/
  | ewait (k : Nat)
  /-- R104: Sync slot SGWAIT holds its bundle until a signal word reaches a value. -/
  | sgwait (k : Nat)
  /-- R104: Sync slot SGADD adds to a local or remote signal word with release of its scope. -/
  | sgadd (k : Nat)
  /-- R106: Sync slot DWAIT holds its bundle until a DMA tag completes. -/
  | dwait (k : Nat)
  /-- R107: Sync slot FENCE holds later bundles until earlier accesses, DMAs and flushes are visible within its scope. -/
  | syncFence (k : Nat)
  /-- R113: Sync slot RESTART marks a restart point that commits held effects and the save area. -/
  | restart (k : Nat)
  /-- R295: Sync slot END ends the kernel instance. -/
  | endKernel (k : Nat)
  /-- R108: A waiting sync operation's condition becomes true and its held bundle issues with acquire. -/
  | waitSatisfied (k : Nat)
  /-- R105: A wait unsatisfied at the job's wait limit raises the wait-timeout fault. -/
  | waitTimeout (w : Waiter)
  /-- R106: Data of an outstanding load arrives and its destination register is written. -/
  | loadComplete (k : Nat) (x : Arrival)
  /-- R106: A DMA transfer finishes and its completion tag is set. -/
  | dmaComplete (k : Nat) (x : Arrival)
  /-- R65: A shadow weight-tile load completes, releasing a stalled swap or raising the sparse-mask fault. -/
  | shadowTileLoaded (k : Nat)
  /-- R73: A slab's residue verdict arrives; a mismatch poisons the tile, stops the core and raises the arithmetic-check event. -/
  | residueVerdict (k : Nat) (err : Int)
  /-- R113: Once residue verdicts on held flushes arrive, held effects and the save area commit as one transaction. -/
  | restartPointCommit (k : Nat)
  /-- R68: After 32 cycles with no array operation the whole array is clock-gated. -/
  | arrayGate (k : Nat)
  /-- R111: A fault ends a kernel instance and its fault record passes to the Harbourmaster. -/
  | kernelFault (k : Nat)
  /-- R43: An addend reaches its record's home long accumulator and is added exactly, counted in ADDS or setting flags. -/
  | laAddend (i : Nat)
  /-- R109: A long-accumulator entry is evicted and written back to its record in memory. -/
  | laWriteBack (key : Nat)
  /-- R127: A translation cache miss finishes reading the page entry and fills a way. -/
  | translationFill (cluster : Nat) (handle : BitVec 32) (page : Nat)
  /-- R283: A write of a ring's TAIL announces packets, or stops the ring on a bad value. -/
  | doorbell (n : Nat) (w : BitVec 64)
  /-- R277: The Harbourmaster reads announced packets ahead of acceptance to place berths, bind kernels and prefetch. -/
  | lookAheadRead (n : Nat)
  /-- R275: A command's work ends; the reply is written with DONE last, releases take effect and DONE advances. -/
  | commandComplete (n at_ : Nat)
  /-- R283: Writing RESTART to a stopped ring discards unaccepted packets and sets it running. -/
  | ringRestart (x : RingWord)
  /-- R270: A write of VALID 1 to the admin ring descriptor opens the admin ring or is ignored. -/
  | adminRingOpen (w : BitVec 64)
  /-- R270: A write of VALID 0 to the admin ring descriptor closes the admin ring or is ignored. -/
  | adminRingClose (w : BitVec 64)
  /-- R9: A write to a register with no behaviour of its own stores its RW fields. -/
  | registerWrite (space : RegSpace) (ofs : Nat) (w : BitVec 64)
  /-- R287: NOP completes with no effect. -/
  | nop (n : Nat)
  /-- R288: JOB_OPEN creates a job with seed, class, limits, signal words, granule table and rings. -/
  | jobOpen (slot sigBase : Nat)
  /-- R289: JOB_CLOSE stops acceptance, waits or aborts, then frees the job's resources. -/
  | jobClose
  /-- R289: A non-abort JOB_CLOSE whose drain passes the wait limit completes TIMEOUT and the rings resume. -/
  | jobCloseTimeout (job : Nat)
  /-- R287: JOB_PRIORITY sets a job's look-ahead priority and returns the previous one. -/
  | jobPriority
  /-- R290: FENCE command completes when earlier packets of its ring, or of the job, have completed. -/
  | fence (n : Nat)
  /-- R290: SIGNAL adds to a local or remote signal word with domain-scope release. -/
  | signal (n : Nat)
  /-- R290: WAIT completes when a signal word reaches a value, or times out. -/
  | wait (n : Nat)
  /-- R120: BERTH_ALLOC reserves capacity and returns a handle for a new zero-reading berth. -/
  | berthAlloc (n pick cluster : Nat)
  /-- R123: BERTH_FREE waits for earlier accesses, abandons moves and returns the reservation. -/
  | berthFree (n : Nat)
  /-- R125: BERTH_HINT changes hint bits and freezes or unfreezes the job's placement. -/
  | berthHint (n : Nat)
  /-- R138: BERTH_PIN changes a hot berth to pinned or back, within the pin limits. -/
  | berthPin (n cluster : Nat)
  /-- R292: BERTH_QUERY returns a descriptor, page entries, job counters, bindings or capacity. -/
  | berthQuery (n : Nat)
  /-- R293: BERTH_COPY copies bytes or one transposed tile between berths and the system region. -/
  | berthCopy (n : Nat)
  /-- R293: BERTH_FILL writes a pattern or Philox random words, bits or uniforms into a berth. -/
  | berthFill (n : Nat)
  /-- R294: KERNEL_LOAD loads a kernel image, optionally restartable, and returns its number. -/
  | kernelLoad (n pick : Nat)
  /-- R295: KERNEL_LAUNCH maps instances to cores or the thin path in groups and starts them. -/
  | kernelLaunch (n : Nat) (places : List Nat)
  /-- R296: KERNEL_ABORT ends the oldest matching launch's instances with TARGET_RESET. -/
  | kernelAbort (n : Nat)
  /-- R180: ROUTE_PLAN makes the participant check, takes receive buffers and sends open markers. -/
  | routePlan (n : Nat)
  /-- R194: DISPATCH initialises combine records and sends each served choice's row to its expert. -/
  | dispatch (n : Nat)
  /-- R195: COMBINE sends expert output rows back to token holders for gate-weighted exact summation. -/
  | combine (n : Nat)
  /-- R197: COMBINE_GRAD initialises gradient records and sends output-gradient rows to experts. -/
  | combineGrad (n : Nat)
  /-- R198: DISPATCH_GRAD sends input-gradient rows to token holders and retires the plan. -/
  | dispatchGrad (n : Nat)
  /-- R177: EXPERT_MAP adds or removes an expert binding. -/
  | expertMap (n : Nat)
  /-- R210: SCALE_AGREE computes block exponents and sends its contribution to every reducer. -/
  | scaleAgree (n : Nat)
  /-- R218: REDUCE quantises slices at the agreed scale and sends sums to reducers. -/
  | reduce (n : Nat)
  /-- R299: GATHER collects each participant's bytes into every destination by rank. -/
  | gather (n : Nat)
  /-- R299: BROADCAST writes the root's bytes into every participant's berth. -/
  | broadcast (n : Nat)
  /-- R227: PERMUTE reads its outgoing bytes and re-shards a tensor in place among participants. -/
  | permute (n : Nat)
  /-- R299: BARRIER sends its arrival and completes when every participant's has arrived. -/
  | barrier (n : Nat)
  /-- R223: STASH_PUT stages plain, packed or narrowed data into a stash berth. -/
  | stashPut (n : Nat)
  /-- R224: STASH_GET takes landing buffers and has the Tug bring a stash back with a landing index. -/
  | stashGet (n : Nat)
  /-- R301: PREFETCH fetches a berth range into shadow lines of the clusters of a later launch. -/
  | prefetch (n : Nat) (lines : Nat)
  /-- R157: POOL_CREATE carves a pool of buffers from a backing berth. -/
  | poolCreate (n pick first : Nat)
  /-- R160: POOL_QUOTA binds a requester to a pool and sets its MIN and MAX. -/
  | poolQuota (n : Nat)
  /-- R302: POOL_QUOTA with UNBIND releases a requester's binding when it holds nothing. -/
  | unbind (n : Nat)
  /-- R167: POOL_STATUS returns pool, requester and descriptor entries and may clear latches. -/
  | poolStatus (n : Nat)
  /-- R359: POWER_CAP sets the power cap and returns the previous one. -/
  | powerCap
  /-- R364: CLOCK_MODE sets governed or fixed clock mode and the step. -/
  | clockMode
  /-- R369: ENERGY_READ returns a job's or the module's energy. -/
  | energyRead (n : Nat)
  /-- R354: CLUSTER_STATE with action 0 returns every cluster's state byte. -/
  | clusterStateRead
  /-- R354: CLUSTER_STATE gate moves a cluster's work, gates it and keeps it gated. -/
  | clusterStateGate
  /-- R354: CLUSTER_STATE wake wakes a cluster and keeps it awake, possibly HELD or MERGED. -/
  | clusterStateWake
  /-- R354: CLUSTER_STATE automatic clears MANUAL. -/
  | clusterStateAutomatic
  /-- R325: HEALTH_READ returns health records of one scope. -/
  | healthRead (n : Nat)
  /-- R328: REPAIR FUSE_ROW programs a free row fuse entry effective at the core's next reset. -/
  | fuseRow
  /-- R328: REPAIR FUSE_COL programs a free column fuse entry effective at the core's next reset. -/
  | fuseCol
  /-- R329: REPAIR SPARE_CORE drains and retires a core, putting the spare in its place. -/
  | spareCore
  /-- R329: REPAIR RESTORE_SPARE resets and tests a retired core and makes it the spare. -/
  | restoreSpare (x : TestResult)
  /-- R331: REPAIR PPR_COMMIT empties a group and commits soft row repairs as hard. -/
  | pprCommit
  /-- R332: REPAIR RETIRE_PC empties and retires a pseudo-channel. -/
  | retirePc
  /-- R332: REPAIR RETIRE_STACK empties and retires a stack and moves its system share. -/
  | retireStack
  /-- R334: REPAIR RETIRE_CLUSTER runs a drained reset and retires the cluster. -/
  | retireCluster
  /-- R335: REPAIR RESET_CLUSTER resets a cluster drained or forced and returns it to service. -/
  | resetCluster
  /-- R149: PATROL requests an immediate scrub pass over a berth or a stack. -/
  | patrol (n : Nat)
  /-- R344: FAULT_INJECT arms a number of faults of one class at a target's next use. -/
  | faultInject
  /-- R245: CABLE_PLAN stores the domain's topology, index and expected port peers. -/
  | cablePlan
  /-- R246: LINK_STATUS returns port status words, optionally clearing counts or retraining ports. -/
  | linkStatus (n : Nat)
  /-- R257: PEER_WINDOW grant creates a peer window and sends it to the granted sources. -/
  | windowGrant (n : Nat)
  /-- R257: PEER_WINDOW change alters a window of the job and sends it to sources. -/
  | windowChange (n : Nat)
  /-- R257: PEER_WINDOW revoke removes a window unless stash pages stand under it. -/
  | windowRevoke (n : Nat)
  /-- R304: PEER_WINDOW read returns a window entry. -/
  | windowRead (n : Nat)
  /-- R304: PEER_WINDOW adds a far endpoint entry. -/
  | addFarEndpoint (n : Nat)
  /-- R304: PEER_WINDOW removes a far endpoint with no flow or far page. -/
  | removeFarEndpoint (n : Nat)
  /-- R389: DIGEST returns the SHAKE256 of a berth range. -/
  | digest (n : Nat)
  /-- R389: CHECK_VALUE scans a range with CRC or SHAKE256, resumable, returning a running or check value. -/
  | checkValue (n : Nat)
  /-- R391: STEP_RECORD writes and signs the step record, zeroes STEP_TOKENS and advances the step. -/
  | stepRecord (n : Nat)
  /-- R385: ATTEST writes a signed attestation report and certificate chain. -/
  | attest (n : Nat)
  /-- R371: LEDGER_READ copies Ledger records of one kind out. -/
  | ledgerRead
  /-- R358: CALENDAR_SET sets the calendar and records the event. -/
  | calendarSet
  /-- R307: FW_STAGE copies an image, verifies its signature and holds it staged. -/
  | fwStage
  /-- R308: FW_ACTIVATE pauses rings and waits for quiescence to replace firmware. -/
  | fwActivate
  /-- R308: Every accepted packet completes, so the ROM path writes and starts the staged image. -/
  | fwQuiescent
  /-- R308: TIMEOUT_MS passes before quiescence; rings resume and activation completes TIMEOUT. -/
  | fwActivateTimeout
  /-- R308: The new firmware starts, resumes acceptance and fillers and completes FW_ACTIVATE. -/
  | firmwareResume
  /-- R165: Back-pressure ends and a waiting command attempts its take. -/
  | backpressureEnd (n : Nat)
  /-- R165: A command waiting under back-pressure reaches the wait limit and attempts its take. -/
  | backpressureWaitLimit (n : Nat)
  /-- R318: A Quay control mismatch reruns the cycle's releases and takes from the prior tables. -/
  | quayMismatch (injected : Bool)
  /-- R181: An open marker of a plan arrives; when all are held the plan proceeds or fails. -/
  | openMarker (job plan src : Nat) (m : OpenMarker)
  /-- R183: A candidate record arrives at an expert's owner for ranking in its round, with the token's position at its holder (log 16). -/
  | candidateRecord (job : Nat) (w : BitVec 128) (pos : Nat)
  /-- R184: A round's end marker arrives; when all are held the owner ranks or rounds end. -/
  | endMarker (job plan src round count : Nat) (verdicts : Bool)
  /-- R184: A round verdict arrives at the token holder, which reroutes or skips rejected choices. -/
  | verdictRecord (job plan src : Nat) (w : BitVec 64)
  /-- R185: A final verdict with a ROW arrives; when all are held the plan completes. -/
  | finalVerdict (job plan src : Nat) (w : BitVec 64)
  /-- R182: A plan stage's wait limit passes and participants complete TIMEOUT. -/
  | planStageTimeout (job plan : Nat)
  /-- R194: A row record arrives at an expert's owner and is written into its receive row. -/
  | rowRecord (job src : Nat) (h : BitVec 128) (payload : List Byte) (poison : List Nat)
  /-- R195: A return record arrives at a token holder and is added into records; the last triggers read-out. -/
  | returnRecord (job src : Nat) (h : BitVec 128) (payload : List Byte) (poison : List Nat)
  /-- R193: An exchange command's wait limit passes with a record missing and it completes TIMEOUT. -/
  | exchangeTimeout (job plan : Nat)
  /-- R212: A contribution's announcement and payload arrive at a reducer. -/
  | contribution (job shard : Nat) (a : Announce) (tag : Nat) (payload : List Byte) (complete : Bool)
  /-- R212: A reducer's deadline closes its shard and it sends its arrival mask. -/
  | deadline (job tag : Nat) (reduce : Bool)
  /-- R212: An arrival mask arrives; the present set is formed when all are held. -/
  | arrivalMask (job tag : Nat) (reduce : Bool) (shard : Nat) (mask late : List Nat)
  /-- R214: A successor takes an absent reducer's shard, forwarding its mask or closing it itself. -/
  | shardSuccession (job tag : Nat) (reduce : Bool) (shard : Nat)
  /-- R219: A result shard arrives at a participant and completes the collective when all are held. -/
  | resultShard (job tag : Nat) (reduce : Bool) (shard : Nat) (payload : List Byte) (low nan sat : Nat)
  /-- R219: A result shard missing at the wait limit completes the REDUCE with TIMEOUT. -/
  | resultShardTimeout (job tag : Nat)
  /-- R299: A GATHER, BROADCAST, PERMUTE or BARRIER message arrives and is applied. -/
  | collectiveMessage (job opcode tag src : Nat) (m : CollMsg)
  /-- R299: A participant missing at the wait limit ends GATHER, BROADCAST, PERMUTE or BARRIER with TIMEOUT. -/
  | collectiveTimeout (job opcode tag : Nat)
  /-- R239: A flit arrives, is CRC-checked, acknowledged or NAKed, and returns credits. -/
  | flitReceive (port : Nat) (f : Flit)
  /-- R239: A NAK or 2 µs without acknowledgement makes the sender resend from the flit after ACK. -/
  | flitResend (port : Nat)
  /-- R241: A lane loses lock or shows uncorrectable codewords in 4 windows and is declared failed. -/
  | laneFailure (port lane : Nat)
  /-- R242: A port finishes retraining at x2 or x4 and resends its replay buffer. -/
  | portRetrained (port : Nat)
  /-- R246: The far end's fingerprint and port number arrive and the port gets its cabling outcome. -/
  | cablingExchange (port : Nat) (fp : BitVec 64) (farPort : Nat)
  /-- R246: A port that has not trained within 2 s takes outcome NO_PEER. -/
  | noPeer (port : Nat)
  /-- R315: A port's post-FEC error ratio above 1e-9 over 1 s retrains it with a class 0x0E event. -/
  | flitErrorRatio (port bad total : Nat)
  /-- R351: An unused port shuts down after 2 s in NO_PEER with no plan entry. -/
  | portShutdown (port : Nat)
  /-- R248: A transport write packet arrives, is window-checked and applied in PSN order. -/
  | write (p : TPacket)
  /-- R248: A transport read request arrives, is window-checked and answered. -/
  | readRequest (p : TPacket)
  /-- R248: A transport read response arrives and completes the requesting access. -/
  | readResponse (p : TPacket)
  /-- R248: A transport accumulate packet arrives and its addends go to the home long accumulator. -/
  | accumulate (p : TPacket)
  /-- R256: A transport message arrives and is handed to its engine when a window grants its kind. -/
  | message (p : TPacket)
  /-- R248: A cumulative acknowledgement arrives, completing sends and releasing send buffers. -/
  | acknowledge (p : TPacket)
  /-- R249: A negative acknowledgement arrives and the source acts on its reason. -/
  | negativeAcknowledge (p : TPacket)
  /-- R248: A packet unacknowledged for 100 µs is resent and counted. -/
  | transportResend (dst flow psn : Nat)
  /-- R253: A heartbeat arrives, refreshing presence or making a new incarnation present. -/
  | heartbeat (p : TPacket)
  /-- R252: Every 250 µs the module sends a heartbeat to every domain module. -/
  | heartbeatSend
  /-- R253: 1,500 µs of silence or all direct ports down makes a peer absent, ending its requests. -/
  | peerAbsent (m : Nat)
  /-- R257: A window entry sent by a target updates the source's grant mirror. -/
  | grantMirror (src window : Nat) (e : BitVec 256)
  /-- R129: A shootdown request removes a page entry from translation caches. -/
  | shootdown (handle : BitVec 32) (page : Nat)
  /-- R260: A far-transport UDP packet arrives, is checked and applied in PSN order. -/
  | farPacket (p : FarPkt)
  /-- R259: A far open packet opens a far flow. -/
  | farOpen (p : FarPkt)
  /-- R259: A far close packet closes a far flow. -/
  | farClose (p : FarPkt)
  /-- R261: A far flow's resend timer expires; it resends and doubles the timeout. -/
  | farResend (flow : Nat)
  /-- R261: 100 µs without ECE raises a far flow's rate by 1 Gb/s. -/
  | farRateRaise (flow : Nat)
  /-- R261: Every 10 ms the module probes each far endpoint holding a flow or page. -/
  | farProbe (ep : Nat)
  /-- R261: 12 failed resends or 200 ms of silence declare a far endpoint absent. -/
  | farEndpointAbsent (ep : Nat)
  /-- R263: A received Ethernet frame goes to the far transport engine or the OS queues. -/
  | ethernetFrame (port : Nat) (f : Frame)
  /-- R266: Cricket answers IPv6 neighbour discovery on its addresses. -/
  | neighbourDiscovery (target : BitVec 128)
  /-- R266: Cricket answers ICMPv6 echo on its addresses. -/
  | icmpv6Echo (dst : BitVec 128) (data : List Byte)
  /-- R266: A UDP request to port 48,612 returns Cricket's I3C window contents. -/
  | statusRequest (dst : BitVec 128) (udpPort : Nat)
  /-- R267: A Router Advertisement with the autonomous flag makes Cricket form a global address. -/
  | routerAdvertisement (pfx : BitVec 64) (autonomous : Bool)
  /-- R267: Duplicate address detection ends and Cricket uses or drops the address. -/
  | duplicateAddressDetection (addr : BitVec 128) (duplicate : Bool)
  /-- R131: Each 1 ms epoch the Harbourmaster moves, replicates and places pages. -/
  | placementEpoch (moves : List Move)
  /-- R132: A migrating page's copy finishes and its shootdown begins. -/
  | pageCopyComplete (berth page : Nat)
  /-- R132: A shootdown completes; dirty lines are recopied and the page entry is written. -/
  | shootdownComplete (berth page : Nat)
  /-- R132: Accesses to a moved page's old location complete and the old frame is released. -/
  | oldFrameRelease (berth page : Nat)
  /-- R332: A retiring unit holds no page and is retired, narrowing interleave or capacity. -/
  | unitEmptied (u : RetUnit)
  /-- R154: A Tug fetch fills a shadow line. -/
  | tugFetchComplete (cluster : Nat) (handle : BitVec 32) (line : Nat)
  /-- R224: When look-ahead reaches a STASH_GET and its PUT is done, the Tug starts the transfer. -/
  | stashGetTransfer (n at_ : Nat)
  /-- R223: The stash location acknowledges every byte and STASH_PUT completes. -/
  | stashAcknowledged (n at_ : Nat)
  /-- R155: The H headers complete, the predictor adds active blocks and sets its bits. -/
  | predictorUpdate (job layer expert blocks pitch : Nat)
  /-- R147: A per-bank refresh falls due and stalls its bank. -/
  | hbmRefresh (stack pc bank : Nat)
  /-- R149: Scarab reads a block in an idle slot or on the forced pace and treats it as R145. -/
  | scarabRead (stack symbols : Nat)
  /-- R316: A harbour or core SRAM patrol reads a block and corrects, poisons or rewrites it. -/
  | sramPatrolRead (u : SramUnit) (block symbols : Nat)
  /-- R319: A wide-core sequencer mismatch stops the core and replays its instance elsewhere. -/
  | sequencerMismatch (x : CoreMismatch)
  /-- R320: The Harbourmaster restores a save area onto a spare or free core. -/
  | replayResume (inst core : Nat)
  /-- R321: A core's self-test completes and it returns to service or is quarantined. -/
  | coreSelfTest (core : Nat) (pass : Bool) (row col : Nat)
  /-- R322: A thin path's self-test completes and it is kept or quarantined. -/
  | thinPathSelfTest (cluster : Nat) (pass : Bool)
  /-- R317: A duplicated control block mismatches, discards the cycle and reruns its requests. -/
  | controlMismatch (b : CtlBlock) (sameRequest : Nat)
  /-- R317: A Harbourmaster pair mismatch reruns its task from the journal. -/
  | harbourmasterPairMismatch (pair sameRequest : Nat)
  /-- R314: A Cricket pair mismatch restarts Cricket. -/
  | cricketMismatch (sameRequest : Nat)
  /-- R337: Pages and entries of a force-reset cluster are read out and placed elsewhere. -/
  | scanReadoutComplete (cluster : Nat) (moves : List Move)
  /-- R335: A drained reset not drained in 1 s continues as a forced reset. -/
  | drainTimeout (cluster : Nat)
  /-- R335: A reset cluster's self-test completes and it returns to service or is retired. -/
  | clusterSelfTest (cluster : Nat) (pass : Bool)
  /-- R231: A filler instance without a restart point in 80 µs has its held effects discarded. -/
  | fillerPreemptTimeout (core : Nat)
  /-- R340: A Harbourmaster pair or the ROM path reports to Cricket's watchdog. -/
  | watchdogReport (r : Reporter)
  /-- R340: The watchdog limit passes without a report and Cricket starts a module reset. -/
  | firmwareHang
  /-- R341: A clock or supply excursion stops fast clocks and idles lanes within 1 µs. -/
  | supplyTrip
  /-- R341: Supplies and clocks in limits for 100 ms restart the module. -/
  | tripRecovery
  /-- R361: A junction at 110 °C stops clocks, asserts THERM_TRIP_N and enters TRIPPED. -/
  | thermalTrip
  /-- R360: Each 100 µs the governor acts on draw or heat: filler duty, gating or clock step, or reverses. -/
  | governorTick (draw junction : Nat)
  /-- R362: The 10 ms average exceeds the clamp register and the clamp throttles fillers or lowers the step. -/
  | clampCheck (average : Nat)
  /-- R359: 10 ms after a lower POWER_CAP the clamp register adopts it. -/
  | clampAdopt
  /-- R363: A droop detector stretches its domain's clock period. -/
  | droopStretch (domain : Nat)
  /-- R363: A rail recovered for 200 ns ends the clock stretch. -/
  | stretchRelease (domain : Nat)
  /-- R369: Each 1 ms the input energy is measured and attributed to jobs. -/
  | energyInterval (total : Nat) (meters : List EnergyUse)
  /-- R352: A cluster idle for 2 ms starts its gating sequence. -/
  | clusterAutoGate (cluster : Nat)
  /-- R351: A thin path with no instance bound for 100 µs shuts down. -/
  | thinPathGate (cluster : Nat)
  /-- R351: A shut-down sequence ends and any held enable runs. -/
  | shutdownComplete (f : PowerFn)
  /-- R351: A binding, retained-bank access or wake enables a gated cluster. -/
  | clusterWake (cluster : Nat) (why : WakeBy)
  /-- R351: A function's enable finishes and waiting work and disables proceed. -/
  | enableComplete (f : PowerFn)
  /-- R367: Re-characterisation falls due by calendar days or power-on hours. -/
  | recharDue
  /-- R367: A gated due cluster is re-characterised and its trim set. -/
  | recharacterisation (cluster trim freq : Nat)
  /-- R370: Each hour of power-on time the counter snapshot is written. -/
  | ledgerSnapshot
  /-- R370: An event record is written to the permanent or ordinary area. -/
  | ledgerEventWrite
  /-- R372: 54 V becomes good: counter starts, straps sampled, STANDBY and Cricket stage. -/
  | powerGood (slot ethKr : BitVec 4)
  /-- R410: 54 V falls below 43.0 V and the module enters OFF. -/
  | powerLost
  /-- R403: PWR_EN asserted in STANDBY begins start-up. -/
  | pwrEnAssert
  /-- R348: PWR_EN deasserted starts an orderly shut-down or abandons start-up. -/
  | pwrEnDeassert
  /-- R349: RESET_N asserted makes a module reset within 1 µs. -/
  | resetNAssert
  /-- R374: RESET_N released lets start-up begin. -/
  | resetNRelease
  /-- R348: The orderly shut-down reaches STANDBY. -/
  | orderlyShutdownComplete
  /-- R372: Stage 1 Cricket self-test completes or halts. -/
  | stageCricket (pass : Bool)
  /-- R372: Stage 2 checks fuses and image and advances the incarnation, or halts or enters recovery. -/
  | stagePierFirmware (fuseOk : Bool) (pairs : List Bool) (trim : Nat)
  /-- R372: Stage 3 trains stacks, commits repairs and lays out the system region. -/
  | stageHbm (failed : List Nat)
  /-- R372: Stage 4 trains the die links, or halts. -/
  | stageDieLinks (pass : Bool)
  /-- R372: Stage 5 checks fuse words and self-tests clusters and assigns spares. -/
  | stageClusters (badCores badThin badClusters : List Nat)
  /-- R372: Stage 6 applies the cabling plan and trains the fabric ports. -/
  | stageFabric
  /-- R378: Stage 7 loads and measures the OS image, writes the start-up description and starts core 0. -/
  | stageOperatingSystem
  /-- R372: No READY by t+120 s causes a watchdog reset. -/
  | stage7Timeout
  /-- R379: A write of 1 to the ready register makes the module ready once stages 5 and 6 complete. -/
  | ready (w : BitVec 64)
  /-- R406: I3C ENTDAA assigns the target a dynamic address. -/
  | entdaa (addr : BitVec 7)
  /-- R406: I3C SETDASA assigns a dynamic address from the static one. -/
  | setdasa (static addr : BitVec 7)
  /-- R406: I3C RSTDAA resets the dynamic address. -/
  | rstdaa
  /-- R406: I3C GETPID returns the provisioned ID. -/
  | getpid
  /-- R406: I3C GETBCR returns the bus characteristics register. -/
  | getbcr
  /-- R406: I3C GETDCR returns the device characteristics register. -/
  | getdcr
  /-- R406: I3C GETSTATUS returns target status. -/
  | getstatus
  /-- R406: I3C SETMWL sets the maximum write length. -/
  | setmwl (len : BitVec 16)
  /-- R406: I3C SETMRL sets the maximum read length. -/
  | setmrl (len : BitVec 16)
  /-- R406: I3C GETMWL returns the maximum write length. -/
  | getmwl
  /-- R406: I3C GETMRL returns the maximum read length. -/
  | getmrl
  /-- R407: An I3C private write sets the window pointer and writes further bytes at it. -/
  | windowPointerWrite (bytes : List Byte)
  /-- R407: An I3C private read returns window bytes and advances the pointer. -/
  | privateRead (count : Nat)
  /-- R404: A W1C write to ATTN_CAUSE clears latched causes and may release ATTN_N. -/
  | attnCause (w : BitVec 32)
  /-- R408: A keyed CONTROL write with RECOVER enters recovery mode when allowed. -/
  | recover (w : BitVec 64)
  /-- R408: A keyed CONTROL write with EXIT leaves recovery mode when no image is received. -/
  | exit (w : BitVec 64)
  /-- R409: A write of LEN starts receiving a recovery image. -/
  | loaderLen (w : BitVec 64)
  /-- R409: A write to LOADER_DATA appends recovery image bytes. -/
  | loaderData (bytes : List Byte)
  /-- R342: A fully received recovery image is checked and written to flash or refused. -/
  | imageCheck
  /-- R346: An envelope monitor finds the input outside 46.0 V to 60.0 V without a trip, or another envelope limit broken, which latches the SUPPLY attention cause and clears PROMISE. -/
  | envelopeExcursion (vin : Nat) (other : Bool)
  /-- R264: Software writes a port's address lock once after start-up, and the lock then stays fixed until the next module reset. -/
  | addressLockWrite (port : Nat) (l : AddrLock)
  /-- R264: The operating system queues a frame for transmission, and the port checks it against its lock and rate limit, shares bandwidth by deficit round robin or the Cricket share, and sends or drops it. -/
  | osFrameTransmit (port : Nat) (f : QueuedFrame)
  /-- R378: The operating system asks the firmware's SBI hart-state management to start one of the waiting application cores. -/
  | hartStart (hart : Nat) (entry : BitVec 64)
  /-- R332: A link error on an HBM stack interface triggers a retraining, and a failed retraining makes the stack fail and be retired with its pages POISONED. -/
  | stackLinkError (stack : Nat) (retrained : Bool)
  /-- R377: The application cores write the operating-system boot area of the flash through their software window, which the flash controller limits to that area. -/
  | bootAreaWrite (ofs : Nat) (bytes : List Byte)
  deriving DecidableEq, Repr

end Sys2Proof
end

