-- ==== Sys2Proof/Config.lean ====
section
/-! DEFINITION. What an implementation fixes and the spec leaves open: opaque constants that nothing in Lean can evaluate. -/

namespace Sys2Proof.Config

/-- A value the spec leaves open, by a plain counter of the state (log 2). -/
opaque freeWord : Nat → BitVec 4096

/-- The key unit's Ed448 signature in a domain of a message (R384): 114 bytes. The private key never leaves the key unit (log 7). -/
opaque ed448Sign : Nat → List Byte → BitVec 912

/-- Does a firmware image's SIG verify over its measurement under Trocellyn's firmware key (R380)? The key is in Cricket's ROM (log 7). -/
opaque firmwareSigOk : List Byte → BitVec 512 → Bool

/-- The bank of a pseudo-channel that holds a block (R148), by the pseudo-channel's index and the block's number (log 206). -/
opaque bankOf : Nat → Nat → Nat

/-- The fixed hash of an address that picks the home cluster of a record in HBM (R109) (log 8). -/
opaque homeHash : Nat → Nat

/-- The application-core physical address of the ring register block and of system address 0 (R378) (log 8). -/
opaque ringBlockPa : BitVec 64

/-- The application-core physical address of system address 0 (R378) (log 8). -/
opaque systemPa : BitVec 64

/-- Trocellyn's manufacturer code in the provisioned ID, 15 bits (R406) (log 8). -/
opaque manufacturerCode : BitVec 15

/-- The scale of the quanta of the deficit round robin, which R254 gives as a ratio only (log 8). -/
opaque drrScale : Nat

/-- The MAC address of the next hop towards an IPv6 address, as the operating system's neighbour discovery found it (log 207). -/
opaque nextHop : BitVec 128 → BitVec 48

/-- The flow label of the IPv6 packets that the module builds (log 207). -/
opaque flowLabel : BitVec 20

/-- The hop limit of the IPv6 packets that the module builds (log 207). -/
opaque hopLimit : BitVec 8

/-- The Quay buffers that the send and receive windows of one far flow take (R159) (log 216). -/
opaque farWindow : Nat

/-- What a frozen job's placement is chosen by: a fixed function of its command stream and of what is chosen (R139; log 208). -/
opaque frozenWord : List Byte → Nat → BitVec 64

end Sys2Proof.Config
end

