-- ==== Sys2Proof/Machine/State.lean ====
section
/-! DEFINITION. The state of the module as plain data, holding every piece of state the spec gives it, and the state right after reset.
Each field's docstring names the rule that gives it, its width and its reset value. -/

namespace Sys2Proof.Machine

/-- Why the machine stops with a fault. No command of this model raises one: every event the spec describes, a kernel
fault included, is an effect on the state. Safe. -/
inductive Fault where
  /-- raised by no command; safe -/
  | none
  deriving DecidableEq, Repr

/-- Why a command is refused. -/
inductive Refusal where
  /-- an arm of exec whose meaning is not written; raised by no command once every arm is written; safe -/
  | notModelled (mnemonic : String)
  deriving DecidableEq, Repr

/-! ### Time -/

/-- The always-on domain's time. -/
structure Clk where
  /-- R355: always-on counter, 64 bits, 40 ns per count; reset 0 -/
  counter : BitVec 64
  /-- R358: calendar, w0 and the counter at acceptance; reset none (lost with 54 V) -/
  calendar : Option (Nat × Nat)
  /-- R357: the counter at which a compare timer was last served, 64 bits each, by timer number, timer 3's energy accounting by 8; reset DESIGN CHOICE 0 (log 5) -/
  timers : AMap (BitVec 64)
  deriving DecidableEq, Repr

/-! ### Sideband, power state, start-up, I3C, Cricket's network -/

/-- Module power states (table of R348; recovery mode of R342 is PSTATE 6). -/
inductive PState where
  | off | standby | starting | idle | active | tripped | recovery
  deriving DecidableEq, Repr

/-- Sideband pins, power state, start-up state, the I3C target and Cricket. -/
structure Side where
  /-- R346, R372: 54 V is good, 1 bit; reset true (the machine stands in STANDBY, PSTATE reset 1) -/
  v54 : Bool
  /-- R348, STATUS.PSTATE: module power state, 4 bits; reset STANDBY (1) -/
  pstate : PState
  /-- R403: PWR_EN as acted on, 1 bit; reset false (R401: a floating PWR_EN reads deasserted) -/
  pwrEn : Bool
  /-- R403: RESET_N asserted, 1 bit; reset true (R401: a floating RESET_N reads asserted) -/
  resetN : Bool
  /-- R403: the level of PWR_EN at the pin, which takes effect when RESET_N is released, 1 bit; reset false -/
  pwrPin : Bool
  /-- R401, STATUS.PG: PG released, 1 bit; reset false -/
  pg : Bool
  /-- R405, STATUS.TRIP: THERM_TRIP_N asserted, 1 bit; reset false -/
  thermTrip : Bool
  /-- R399: SLOT[3:0] as sampled at 54 V good, 4 bits; reset DESIGN CHOICE 0 (log 5) -/
  slot : BitVec 4
  /-- R399: ETH0_KR and ETH1_KR straps as sampled, 4 bits (bit n set: grounded); reset DESIGN CHOICE 0 (log 5) -/
  ethKr : BitVec 4
  /-- R373: stage-1 latch, 1 bit; reset false -/
  stage1Latch : Bool
  /-- R376: start-up stages complete, bit n for stage n, 8 bits; reset 0 (STAGE reads 1) -/
  stageDone : BitVec 8
  /-- R376 HALTED, 1 bit; reset 0 -/
  halted : Bool
  /-- R376 RETIRED, 1 bit; reset 0 -/
  retiredAny : Bool
  /-- R376 FAIL, 8 bits; reset 0 -/
  fail : Nat
  /-- R379: the module is ready, 1 bit; reset false -/
  ready : Bool
  /-- R379: a held write of the ready register, 1 bit; reset false -/
  readyHeld : Bool
  /-- R372: the counter at t+0 of this start-up, 64 bits; reset 0 -/
  startAt : Nat
  /-- R348: an orderly shut-down is running, 1 bit; reset false -/
  shutting : Bool
  /-- R351: the module's held enable, 1 bit; reset false -/
  heldOn : Bool
  /-- R341: the counter at the last clock or supply excursion, 64 bits; reset 0 -/
  tripAt : Nat
  /-- R341: held by a supply or clock trip, 1 bit; reset false -/
  supplyHeld : Bool
  /-- R361: PWR_EN has been deasserted since the thermal trip, 1 bit; reset false -/
  tripLow : Bool
  /-- R371 THERMAL_CYCLES: the hottest junction has been at or above 80 °C since the last cycle, 1 bit; reset false -/
  hot80 : Bool
  /-- R361: every sensor reads below 85 °C, as last measured, 1 bit; reset true DESIGN CHOICE (log 5) -/
  cool : Bool
  /-- R404 ATTN_CAUSE, 32 bits; reset 0 -/
  attnCause : BitVec 32
  /-- R404 ATTN_MASK, 32 bits; reset 0x7F -/
  attnMask : BitVec 32
  /-- R407 RESET_CAUSE.CAUSE, 8 bits; reset 0 -/
  resetCause : Nat
  /-- R407 RESET_CAUSE.INC: incarnation in effect after the last module reset, 16 bits; reset DESIGN CHOICE 0 (log 5) -/
  resetInc : BitVec 16
  /-- R407 TELEMETRY.VIN, units of 10 mV, 16 bits; reset DESIGN CHOICE 5400 (log 5) -/
  vin : Nat
  /-- R407 TELEMETRY.PIN in W, 16 bits; reset DESIGN CHOICE 0 (log 5) -/
  pin : Nat
  /-- R407 TELEMETRY.TJ in °C, 8 bits; reset 0 (no die is powered) -/
  tj : Nat
  /-- R407 TELEMETRY.TCOOL in °C, 8 bits; reset DESIGN CHOICE 0 (log 5) -/
  tcool : Nat
  /-- R346: every envelope monitor reads within limits, 1 bit; reset true DESIGN CHOICE (log 5) -/
  envelopeOk : Bool
  /-- R408 CONTROL.REJECTED, 1 bit; reset 0 -/
  rejected : Bool
  /-- R409 LOADER.LSTATE, 4 bits; reset 0 -/
  lstate : Nat
  /-- R409 LOADER.RCVD, 28 bits; reset 0 -/
  rcvd : Nat
  /-- R409 LOADER.LEN, 28 bits; reset 0 -/
  llen : Nat
  /-- R409: the recovery image received, 8 bits a byte; reset empty -/
  limage : List Byte
  /-- R407 CRICKET_MAC, 48 bits, assigned at manufacture; reset DESIGN CHOICE 0 (log 5) -/
  mac : BitVec 48
  /-- R381: measurement register, 512 bits; reset DESIGN CHOICE 0 (log 5) -/
  fwMeas : BitVec 512
  /-- R378: OS measurement, 512 bits; reset DESIGN CHOICE 0 (log 5) -/
  osMeas : BitVec 512
  /-- R377, R380: the firmware image in flash; reset DESIGN CHOICE empty (log 5) -/
  fwImage : List Byte
  /-- R378: application cores started, bit n for core n, 32 bits; reset 0 -/
  harts : BitVec 32
  /-- R378: the entry each started core took, 64 bits; reset none -/
  hartEntry : AMap (BitVec 64)
  /-- R379: the ready datagram has been sent, 1 bit; reset false -/
  datagram : Bool
  /-- R340: the counter at the last report of each Harbourmaster pair (8 is the ROM path), 64 bits; reset none -/
  reports : AMap Nat
  /-- R340: the ROM path holds the watchdog, 1 bit; reset false -/
  romPath : Bool
  /-- R342: watchdog start-ups in a row, 2 bits; reset 0 -/
  wdStarts : Nat
  /-- R314 class 0x0C: Cricket restarts after a pair mismatch, count; reset 0 -/
  cricketRestarts : Nat
  /-- R406: dynamic address, 7 bits; reset none (answers to its static address) -/
  dynAddr : Option (BitVec 7)
  /-- R406: maximum write length, 16 bits; reset DESIGN CHOICE 0 (log 5) -/
  mwl : BitVec 16
  /-- R406: maximum read length, 16 bits; reset DESIGN CHOICE 0 (log 5) -/
  mrl : BitVec 16
  /-- R407: window pointer, 16 bits; reset DESIGN CHOICE 0 (log 5) -/
  ptr : BitVec 16
  /-- R407: the 8-byte registers of the window as they were sampled when their first byte was last read, by offset; reset none -/
  latch : AMap (BitVec 64)
  /-- R267: Cricket's IPv6 addresses, 128 bits each, with true once duplicate address detection has passed; reset none -/
  addrs : List (BitVec 128 × Bool)
  deriving DecidableEq, Repr

/-! ### The Ledger -/

/-- One event record (R370). -/
structure LEvent where
  seq : Nat
  cal : Nat
  powerS : Nat
  inc : BitVec 16
  typ : Nat
  unit_ : Nat
  data : List Byte
  measA : BitVec 512
  measB : BitVec 512
  deriving DecidableEq, Repr

/-- One unit counter record (R371). -/
structure UnitCtr where
  masked : Nat
  detected : Nat
  injected : Nat
  deriving DecidableEq, Repr

/-- The Ledger: live counters, the snapshot in flash, and the two event areas. -/
structure Ledger where
  /-- R371 module counters, 64 bits each and saturating, by word of the record (word i is bytes 8i to 8i+7); reset DESIGN CHOICE 0 (log 5) -/
  ctr : AMap Nat
  /-- R370: the counters as the last snapshot wrote them; reset DESIGN CHOICE 0 (log 5) -/
  snap : AMap Nat
  /-- R371 unit counters, 3 × 64 bits, by UTYPE, UNIT and CLASS; reset none -/
  units : AMap UnitCtr
  /-- R370: the unit counters as the last snapshot wrote them; reset none -/
  unitSnap : AMap UnitCtr
  /-- R370 permanent events, 5,461 records of 192 bytes, oldest first; reset none -/
  perm : List LEvent
  /-- R370 ordinary events, 10,922 records of 192 bytes, oldest first; reset none -/
  ord : List LEvent
  /-- R370: ordinary events not yet written (within 1 s of the event), oldest first; reset none -/
  waiting : List LEvent
  /-- R370: the counter at the last snapshot, 64 bits; reset 0 -/
  snapAt : Nat
  /-- R252: incarnation, 16 bits; reset DESIGN CHOICE 0 (log 5) -/
  inc : BitVec 16
  deriving DecidableEq, Repr

/-! ### Units, power and clocks -/

/-- Cluster service states (R325). -/
inductive ClSvc where
  | inService | draining | resetting | retired | disabled
  deriving DecidableEq, Repr

/-- Cluster power states (R353, states 0 to 5; 6 to 8 follow from the service state). -/
inductive ClPow where
  | running | idle | gating | gated | waking | rechar
  deriving DecidableEq, Repr

/-- One cluster's service and power state. -/
structure Cluster where
  /-- R325 STATE, 3 bits; reset in service -/
  svc : ClSvc
  /-- R16: the spare's core number within the cluster, 5 bits; reset core 16 DESIGN CHOICE (log 5) -/
  spare : Option Nat
  /-- R325 THIN_Q, 1 bit; reset 0 -/
  thinQ : Bool
  /-- R322: the thin path is under self-test, 1 bit; reset false -/
  thinTest : Bool
  /-- R322: counters of thin-path faults in 24 h; reset none -/
  thinFaults : List Nat
  /-- R325 SRAM_CE: counters of corrected harbour SRAM errors; reset none -/
  sramCe : List Nat
  /-- R325 SRAM_UE, 8 bits; reset 0 -/
  sramUe : Nat
  /-- R150, R334: the bank and the counter of each harbour SRAM block poisoned in 24 h; reset none -/
  sramBad : List (Nat × Nat)
  /-- R325 CTL_MM: counters of class 0x08 mismatches; reset none -/
  ctlMm : List Nat
  /-- R353 STATE, 4 bits; reset gated (log 5) -/
  pow : ClPow
  /-- R353 HELD, 1 bit; reset 0 -/
  held : Bool
  /-- R351: a disable waits for the held enable, 1 bit; reset 0 -/
  heldOff : Bool
  /-- R353 MANUAL, 1 bit; reset 0 -/
  manual : Bool
  /-- R354: kept gated by CLUSTER_STATE gate, 1 bit; reset 0 -/
  keepGated : Bool
  /-- R352: the counter since which the cluster has been idle, 64 bits; reset 0 -/
  idleSince : Nat
  /-- R360: issue duty in eighths, 1 to 8; reset 8 -/
  duty : Nat
  /-- R366: voltage margin trim in mV, 0 to 60 in steps of 5; reset DESIGN CHOICE 0 (log 5) -/
  trim : Nat
  /-- R367: re-characterised in the current round, 1 bit; reset true DESIGN CHOICE (log 5) -/
  recharDone : Bool
  /-- R351: the thin path is on, 1 bit; reset false -/
  thinOn : Bool
  /-- R351: the thin path is shutting down, 1 bit; reset false -/
  thinOff : Bool
  /-- R351: the thin path's held enable, 1 bit; reset false -/
  thinHeld : Bool
  /-- R75: the instance the thin path serves; reset none -/
  thinInst : Option Nat
  /-- R351: the counter since which no instance has been bound to the thin path, 64 bits; reset 0 -/
  thinIdle : Nat
  /-- R335: the drained reset's start, 64 bits; reset none -/
  drainAt : Option Nat
  /-- R335: the reset has become forced, 1 bit; reset false -/
  forced : Bool
  /-- R335: the reset ends in retirement (R334), 1 bit; reset false -/
  retireAfter : Bool
  /-- R363: the clock is stretched under droop, 1 bit; reset false -/
  stretched : Bool
  deriving DecidableEq, Repr

/-- Core health states (R325). -/
inductive CoreSt where
  | working | spare | quarantined | retired | disabled
  deriving DecidableEq, Repr

/-- One core's health record and its array's fuses. -/
structure CoreHw where
  /-- R325 STATE, 3 bits; reset working, or spare for core 16 -/
  st : CoreSt
  /-- R325 REASON, 3 bits; reset 0 -/
  reason : Nat
  /-- R325 FUSE_PEND, 1 bit; reset 0 -/
  fusePend : Bool
  /-- R325 STPASS, 1 bit; reset DESIGN CHOICE false (log 5) -/
  stPass : Bool
  /-- R325 BAD_ROW, 8 bits; reset 0xFF -/
  badRow : Nat
  /-- R325 BAD_COL, 8 bits; reset 0xFF -/
  badCol : Nat
  /-- R69: array fuse word, 64 bits, one-time programmable; reset DESIGN CHOICE no entry, with its FCHECK (log 5) -/
  fuse : BitVec 64
  /-- R69: the fuse word whose mapping is in effect since the core's last reset, 64 bits; reset as `fuse` -/
  mapped : BitVec 64
  /-- R71: in-service programmings spent, 0 to 4; reset 0 -/
  spent : Nat
  /-- R325 MISMATCH, R321: counters of class 0x05 and 0x07 faults; reset none -/
  faults : List Nat
  /-- R325 REPLAYS, 16 bits; reset 0 -/
  replays : Nat
  /-- R321: under self-test, 1 bit; reset false -/
  testing : Bool
  deriving DecidableEq, Repr

/-- Stack states (R325). -/
inductive StackSt where
  | inService | retiring | retired | failed
  deriving DecidableEq, Repr

/-- One HBM stack. -/
structure Stack where
  /-- R325 STATE, 2 bits; reset in service -/
  st : StackSt
  /-- R325 CE: counters of corrected errors; reset none -/
  ce : List Nat
  /-- R325 UE, 16 bits; reset 0 -/
  ue : Nat
  /-- R149: Scarab's next block in the pass, 30 bits; reset 0 -/
  scarabAt : Nat
  /-- R325 PASS_AGE: the counter at the last complete Scarab pass, 64 bits; reset 0 -/
  passAt : Nat
  /-- R143: the group that holds the stack's share of the system region, 4 bits; reset DESIGN CHOICE 0 (log 5) -/
  sysGroup : Nat
  /-- R143: units of 256 KiB of the system region on this stack; reset 8,192 -/
  sysUnits : Nat
  deriving DecidableEq, Repr

/-- Pseudo-channel states (R325). -/
inductive PcSt where
  | inService | retiring | retired
  deriving DecidableEq, Repr

/-- One pseudo-channel. -/
structure Pc where
  /-- R325 STATE, 2 bits; reset in service -/
  st : PcSt
  /-- R148, R325 PPR_LEFT: repair resources of each bank before any is spent, as the stack reports; reset DESIGN CHOICE 255 (log 5) -/
  pprLeft : Nat
  /-- R148: repair resources spent, by bank; reset none -/
  pprSpent : AMap Nat
  /-- R325 PPR_USED, 8 bits; reset 0 -/
  pprUsed : Nat
  /-- R325 PPR_SOFT, 8 bits; reset 0 -/
  pprSoft : Nat
  /-- R325 CE: counters of corrected errors; reset none -/
  ce : List Nat
  /-- R325 UE, 16 bits; reset 0 -/
  ue : Nat
  /-- R147: refreshes per bank, count; reset none -/
  refreshes : AMap Nat
  deriving DecidableEq, Repr

/-- A governor action, with the saving it made (R360). -/
inductive GovAct where
  | duty (before : List (Nat × Nat))
  | gate (cluster : Nat)
  | clock (before : Nat)
  | halve
  deriving DecidableEq, Repr

/-- The module's units, power cap, clocks and energy. -/
structure Chip where
  /-- R2: grade B, 1 bit, fused; reset DESIGN CHOICE false (SLM-1024-A) (log 5) -/
  gradeB : Bool
  /-- R3, ID.EN_MASK: enabled clusters, 24 bits, fused; reset DESIGN CHOICE 0xFFFFFF (log 5) -/
  enMask : BitVec 24
  /-- R372: the module fuse block (identity area copy), fused; reset DESIGN CHOICE empty (log 5) -/
  fuseBlock : List Byte
  /-- R382: module fingerprint, 64 bits; reset DESIGN CHOICE 0 (log 5) -/
  fp : BitVec 64
  /-- R383: the three certificates; reset DESIGN CHOICE empty (log 5) -/
  certs : List (List Byte)
  /-- R325: clusters by cluster index 0 to 23; reset in the default state -/
  clusters : AMap Cluster
  /-- R325: cores by core index 0 to 407; reset in the default state -/
  cores : AMap CoreHw
  /-- R325: stacks 0 to 15; reset in the default state -/
  hbm : AMap Stack
  /-- R325: pseudo-channels 0 to 1,023; reset in the default state -/
  pcs : AMap Pc
  /-- R325 HM_PAIRS: Harbourmaster pairs in service, 8 bits (bit n for pair n); reset all 8 -/
  pairs : BitVec 8
  /-- R317: counters of each pair's and block's mismatches; reset none -/
  mismatches : AMap (List Nat)
  /-- R366: Pier's trim in mV; reset DESIGN CHOICE 0 (log 5) -/
  pierTrim : Nat
  /-- R359: power cap in W, 12 bits; reset 3,200 -/
  cap : Nat
  /-- R359: hardware clamp register in W, 12 bits; reset 3,200 -/
  clamp : Nat
  /-- R359: lower caps not yet adopted, oldest first: the cap and the counter at which the clamp adopts it; reset none -/
  clampDue : List (Nat × Nat)
  /-- R364: fixed-clock mode, 1 bit; reset governed (false) -/
  fixed : Bool
  /-- R364: CLOCK_MODE's step, 0 to 5; reset 0 -/
  modeStep : Nat
  /-- R359: the array clock step in effect, 0 to 5; reset 0 -/
  step : Nat
  /-- R362: the arrays' issue rate is halved, 1 bit; reset false -/
  halved : Bool
  /-- R360: governor actions in force, newest first, each with its saving in W; reset none -/
  actions : List (GovAct × Nat)
  /-- R360: the action taken in the last interval, whose draw after is not yet known, with the draw before it; reset none -/
  govBefore : Option (GovAct × Nat)
  /-- R360: the counter since which the newest action could be reversed; reset none -/
  govQuiet : Option Nat
  /-- R361: the thermal governor acts, 1 bit; reset false -/
  hot : Bool
  /-- R362: the counter since which the clamp has been exceeded and its next action is due; reset none -/
  clampNext : Option Nat
  /-- R363: Pier control domains stretched under droop (domain numbers 24 and up); reset none -/
  stretched : List Nat
  /-- R369: module energy since start-up in µJ; reset 0 -/
  energy : Nat
  /-- R369: the module's own account in µJ; reset 0 -/
  ownEnergy : Nat
  /-- R367: a re-characterisation round is due since this POWER_S; reset none -/
  recharDue : Option Nat
  /-- R332: units being emptied; reset none -/
  retiring : List RetUnit
  /-- R133: migration of the last 1 ms, as (counter, bytes), newest first; reset none -/
  migBytes : List (Nat × Nat)
  /-- R133: migration off retiring units of the last 1 ms, as (counter, bytes), newest first; reset none -/
  migRetire : List (Nat × Nat)
  deriving DecidableEq, Repr

/-! ### Wide cores, groups, launches, long accumulators -/

/-- A fault record before packing (R111). -/
structure FaultRec where
  code : Nat
  slot : Nat
  precise : Bool
  bundle : Nat
  detail : Nat
  deriving DecidableEq, Repr

/-- An effect a restartable kernel holds until its next restart point (R113), with the bundle of the operation that made it where
its commit can raise a fault (R111). -/
inductive Held where
  | flush (key : Nat) (v : W32) (bundle : Nat)
  | spost (idx amount bundle : Nat)
  | eset (idx : Nat)
  | eclr (idx : Nat)
  | sgadd (word : W64) (add : W64) (dst : W64) (bundle : Nat)
  deriving DecidableEq, Repr

/-- An outstanding load: destination kind (0 scalar, 1 vector, 2 predicate) and register, data, lanes written (R94, R106). -/
structure LoadOp where
  kind : Nat
  reg : Nat
  /-- R93: the format from which LDVC widens; none for the other loads -/
  fmt : Option Nat
  /-- what it has read -/
  bytes : List Byte
  lanes : BitVec 128
  fault : Option FaultRec
  /-- R111, R336: what it reads, and the bundle that issued it -/
  handle : BitVec 32
  ofs : Nat
  len : Nat
  bundle : Nat
  deriving DecidableEq, Repr

/-- An outstanding DMA: destination handle and offset, bytes read, poisoned destination blocks (R94, R146). -/
structure DmaOp where
  handle : BitVec 32
  ofs : Nat
  bytes : List Byte
  poison : List Nat
  fault : Option FaultRec
  /-- R111: the bundle that issued it -/
  bundle : Nat
  /-- R336: what it reads -/
  src : BitVec 32
  sofs : Nat
  slen : Nat
  /-- R146: the destination's bytes stand in the order of the source's -/
  plain : Bool
  deriving DecidableEq, Repr

/-- An accumulator tile (R47, R97, R73, R114). -/
structure Tile where
  /-- FP32 entries, key 128 × row + column; at launch +0 -/
  e : AMap W32
  /-- R47 status word, 32 bits; at launch 0 -/
  status : BitVec 32
  /-- R97 slab cursor, 0 to 15; at launch 0 -/
  cursor : Nat
  /-- R97: an AMUL with SLAB 0 has named the tile since its last AFLUSH or ACLR; at launch false -/
  opened : Bool
  /-- R73: poisoned by a failed residue verdict; at launch false -/
  poisoned : Bool
  /-- R73: residue verdicts not yet arrived; at launch 0 -/
  verdicts : Nat
  /-- R316: 64-byte blocks of the tile that are poisoned, 8 to a row; at launch none -/
  bad : List Nat
  /-- R113: rows locked by held flushes; at launch none -/
  locked : List Nat
  /-- R113: rows locked by flushes whose restart point is committing; at launch none -/
  locking : List Nat
  deriving DecidableEq, Repr

/-- A loaded weight tile (R65, R96, R100): its format and form, and the bytes it was loaded from. -/
structure WTile where
  fmt : Nat
  sparse : Bool
  transposed : Bool
  /-- split-pair part (R100): 0 none, 1 hi, 2 lo -/
  part : Nat
  bytes : List Byte
  /-- operand SRAM address it was loaded from, and the bundle of its `ALDW` -/
  addr : Nat
  bundle : Nat
  deriving DecidableEq, Repr

/-- An array operation whose residue verdict has not arrived (R73, R100): its tile (none for split-pair), its bundle, and the addends a
split-pair operation keeps until then. -/
structure Verdict where
  tile : Option Nat
  bundle : Nat
  adds : List (Nat × W32)
  deriving DecidableEq, Repr

/-- The registers a bundle reads: s, v, p, g (R91: all sources are read before any slot writes). -/
structure Regs where
  s : AMap W64
  v : AMap (BitVec 4096)
  p : AMap (BitVec 128)
  g : AMap (BitVec 256)
  deriving DecidableEq, Repr

/-- A save area (R113). -/
structure Save where
  s : AMap W64
  g : AMap (BitVec 256)
  stack : List (BitVec 12)
  resume : Nat
  cons : List (Nat × Nat)
  deriving DecidableEq, Repr

/-- The architectural state of one wide core (table of chapter 04) and its operations in flight. -/
structure Core where
  /-- R295: the instance it runs; reset none -/
  inst : Option Nat
  /-- R89: bundle index, 12 bits; at launch 0 -/
  pc : Nat
  /-- s0–s31 (64 bits), v0–v31 (4,096 bits), p0–p15 (128 bits), g0–g7 (256 bits); at launch R88 -/
  regs : Regs
  /-- R91: the registers as the issuing bundle found them; none between bundles -/
  snap : Option Regs
  /-- R91: slots of the issuing bundle already taken, bit per slot as `FaultRec.slot`; 0 between bundles -/
  taken : BitVec 7
  /-- R91: branch target of the issuing bundle; none when not taken -/
  target : Option Nat
  /-- R91, R105: the counter since which the bundle waits; none when it does not -/
  waiting : Option Nat
  /-- R92 return stack, 16 entries of 12 bits, top first; at launch empty -/
  stack : List (BitVec 12)
  /-- accumulator tiles a0–a7 -/
  tiles : AMap Tile
  /-- R65 active weight tile; at launch empty -/
  active : Option WTile
  /-- R65 shadow weight tile; at launch empty -/
  shadow : Option WTile
  /-- R65: a shadow tile whose load has not completed; at launch none -/
  loading : Option WTile
  /-- R68: the counter at the last array operation, and whether the array is clock-gated -/
  arrayAt : Nat
  /-- R68: the whole array is clock-gated; reset true DESIGN CHOICE (log 5) -/
  arrayGated : Bool
  /-- R94: outstanding loads, oldest first, at most 32; reset none -/
  loads : List LoadOp
  /-- R94: outstanding DMAs by tag, at most 16; reset none -/
  dmas : AMap DmaOp
  /-- R106: tags whose DMA has completed; reset none -/
  tagsDone : List Nat
  /-- R73: array operations that await a residue verdict, oldest first; reset none -/
  verdicts : List Verdict
  /-- R73: array operations of the kernel are stopped by a failed verdict; reset false -/
  stopped : Bool
  /-- R113: effects held since the last restart point; reset none -/
  held : List Held
  /-- R113: a restart point waits for its verdicts: its save area and the effects it commits; reset none -/
  commit : Option (Save × List Held)
  /-- R114: consumption list, at most 16 entries of semaphore and count; reset none -/
  cons : List (Nat × Nat)
  /-- R111: a fault that has been raised and not yet passed to the Harbourmaster; reset none -/
  fault : Option FaultRec
  /-- R112, R296, R289: end at the next bundle, with the status to report; reset none -/
  ending : Option Nat
  /-- R231, R335: leave the core at the next restart point; the counter at the request; reset none -/
  leave : Option Nat
  deriving DecidableEq, Repr

/-- A group of instances (R103). -/
structure Group where
  cluster : Nat
  /-- R203: the group must run on that cluster while it takes instances -/
  bound : Bool
  nsem : Nat
  nev : Nat
  /-- 16-bit semaphores, by index in the grant; at the group's start 0 -/
  sems : AMap Nat
  /-- event lines set; at the group's start none -/
  events : List Nat
  /-- instances of the group still to end -/
  left : Nat
  deriving DecidableEq, Repr

/-- Where an instance stands. -/
inductive InstSt where
  | waiting | running (core : Nat) | suspended | ended
  deriving DecidableEq, Repr

/-- A kernel instance (R295, R203). -/
structure Inst where
  launch : Nat
  index : Nat
  group : Nat
  rank : Nat
  groupSize : Nat
  unit_ : Nat
  units : Nat
  rowFirst : Nat
  rowCount : Nat
  runFirst : Nat
  st : InstSt
  /-- R113: the save area of the last committed restart point; none before the first -/
  save : Option Save
  /-- R323: cores that have run the current interval and met a fault -/
  tried : List Nat
  /-- R319, R320: its last fault was an arithmetic one, which the cluster's spare replays -/
  residue : Bool
  /-- R112: the fault that ended it, if one did -/
  fault : Option FaultRec
  /-- R111, R285: its status -/
  status : Nat
  thin : Bool
  deriving DecidableEq, Repr

/-- A launch in progress (R295). -/
structure Launch where
  job : Nat
  ring : Nat
  at_ : Nat
  kernel : Nat
  total : Nat
  args : List W64
  filler : Bool
  aborted : Bool
  thin : Bool
  clustersUsed : List Nat
  deriving DecidableEq, Repr

/-- A long-accumulator entry (R42, R43, R45). -/
structure LaEntry where
  /-- R42: 320-bit two's complement integer in units of 2⁻¹⁴⁹; initialised 0 -/
  value : BitVec 320
  /-- R43 ADDS, 42 bits, saturating; initialised 0 -/
  adds : Nat
  full : Bool
  lowLost : Bool
  ninf : Bool
  pinf : Bool
  nan : Bool
  deriving DecidableEq, Repr

/-- An addend (R42): an FP32 value, or a scaled integer `m` of weight 2^`w`. -/
inductive Addend where
  | fp32 (v : W32)
  | scaled (m : Int) (w : Int)
  | special (nan neg : Bool)
  deriving DecidableEq, Repr

/-- An addend on its way to its record (R43, R107): the core and the bundle that flushed it (core 408 when no running instance did). -/
structure Flush where
  core : Nat
  bundle : Nat
  key : Nat
  val : Addend
  deriving DecidableEq, Repr

/-- The compute side. -/
structure Comp where
  /-- chapter 04's architectural state, by core index; reset none running -/
  cores : AMap Core
  /-- R295: instances, by number; reset none -/
  insts : AMap Inst
  /-- R103: groups, by number; reset none -/
  groups : AMap Group
  /-- R295: launches in progress, by number; reset none -/
  launches : AMap Launch
  /-- the next instance, group and launch number (model's own); reset 0 -/
  nextId : Nat
  /-- R109: long-accumulator entries in use, by the record's key; reset none -/
  las : AMap LaEntry
  /-- R43, R107: addends on their way to their records, oldest first, each with the core that flushed it; reset none -/
  addends : List Flush
  /-- R104: 4,096 signal words of 64 bits; reset DESIGN CHOICE 0 (log 5), and 0 when granted -/
  signals : AMap W64
  deriving DecidableEq, Repr

/-! ### Memory -/

/-- Memory by key (log 3): the bytes, the poisoned 64-byte blocks and the latent symbol errors. -/
structure Mem where
  /-- every byte of the system region, berths, operand SRAMs and flash; an unlisted byte reads 0 (R122 for berths; elsewhere DESIGN CHOICE, log 3) -/
  cells : List Host.Cell
  /-- R144: 64-byte blocks whose POISON bit is set; reset none -/
  poison : List Nat
  /-- R144, R330: blocks with erroneous symbols not yet found: 1 one symbol, 2 two, 3 one that recurs after its write-back, 4 more when
  injected (R345); reset none -/
  errors : AMap Nat
  /-- R85, R87: keys at which a compressed tile begins, as the output compressor wrote it (log 11); reset none -/
  tiles : List Nat
  deriving DecidableEq, Repr

/-! ### Berths and placement -/

/-- Page states that the Harbourmaster sets (R126); POISONED follows from the poison marks. -/
inductive PgSt where
  | placed | migrating | lost
  deriving DecidableEq, Repr

/-- One placed page (R126, R130, R132). -/
structure Page where
  /-- R126 BASE, 46 bits -/
  base : BitVec 46
  /-- R135: the homes of its replicas, at most 24; reset none -/
  copies : List (BitVec 46)
  st : PgSt
  /-- R130 heat for East, 16 bits; reset 0 -/
  heatE : Nat
  /-- R130 heat for West, 16 bits; reset 0 -/
  heatW : Nat
  /-- R130: bytes accessed since the last count of 4 KiB, for East and West; reset 0 -/
  restE : Nat
  restW : Nat
  /-- R132: where the page moves to; none when it stands -/
  goal : Option (BitVec 46)
  /-- R132: dirty 4 KiB lines since the copy began -/
  dirty : List Nat
  /-- R132, R129: the shootdown has begun and new accesses are held -/
  held : Bool
  /-- R132: the old frame awaiting release -/
  old : Option (BitVec 46)
  deriving DecidableEq, Repr

/-- One berth map entry (R124). -/
structure Berth where
  /-- R121 GEN, 16 bits -/
  gen : Nat
  job : Nat
  shared : Option Nat
  length : Nat
  cls : Nat
  hints : BitVec 12
  /-- R125: the hints in effect since the last placement epoch -/
  acting : BitVec 12
  /-- R124: the descriptor as it stood at the last placement epoch, 256 bits -/
  desc : Nat
  freeing : Bool
  pages : AMap Page
  migrations : Nat
  /-- R138: the cluster that holds a pinned berth -/
  pinAt : Option Nat
  /-- R120: bytes reserved in local HBM -/
  resLocal : Nat
  /-- R163: pool that the berth backs -/
  pool : Option Nat
  /-- R224: entries of the landing index that the last STASH_GET wrote there; 0 before one has -/
  listed : Nat
  deriving DecidableEq, Repr

/-- What the activity predictor knows of a binding's weight target (R155, R156): its handle, how many blocks H has, the blocks that the bits called
active before the micro-batch, those that a kernel has read in it, and those counted as waste. -/
structure PredRun where
  target : BitVec 32
  blocks : Nat
  was : BitVec 64
  seen : List Nat
  wasted : List Nat
  deriving DecidableEq, Repr

/-- A shadow line of the Tug (R153): berth handle, 64 KiB line, the ring and offset of the consuming packet, read yet. -/
structure Shadow where
  handle : BitVec 32
  line : Nat
  ring : Nat
  at_ : Nat
  read : Bool
  deriving DecidableEq, Repr

/-- Berths, translation, placement, the Tug and the predictor. -/
structure Place where
  /-- R120 to R124: berth map, by entry 1 to 32,767; reset empty -/
  berths : AMap Berth
  /-- R121: the current GEN of entries that have been freed, 16 bits; reset 1 DESIGN CHOICE (log 5) -/
  gens : AMap Nat
  /-- R127: translation caches, 256 sets of 8 ways, by cluster × 256 + set, most recently used first; reset empty -/
  tcs : AMap (List (BitVec 32 × Nat))
  /-- R153: shadow directories, 256 entries each, by cluster; reset empty -/
  shadows : AMap (List Shadow)
  /-- R154: Tug fetches under way, by cluster; reset none -/
  fetches : AMap (List Shadow)
  /-- R155: predictor bits, 64 per binding, by binding key; reset all active -/
  predictor : AMap (BitVec 64)
  /-- R155, R156: the micro-batch under way of each binding, by binding key; reset none -/
  preds : AMap PredRun
  /-- R131: the counter at the last placement epoch, 64 bits; reset 0 -/
  epochAt : Nat
  /-- R129: pages whose shootdown is under way: berth and page; reset none -/
  shoot : List (Nat × Nat)
  deriving DecidableEq, Repr

/-! ### Jobs, rings and commands -/

/-- Ring states (R269). -/
inductive RingSt where
  | closed | running | stopped | paused
  deriving DecidableEq, Repr

/-- One ring (R268, R269). -/
structure Ring where
  /-- SIZE, 4 bits; the ring holds 2^(16 + SIZE) bytes; reset 0 -/
  size : Nat
  /-- BASE, 35 bits; reset 0 -/
  base : Nat
  /-- TAIL, 32 bits; reset 0 -/
  tail : BitVec 32
  /-- HEAD, 32 bits; reset 0 -/
  head : BitVec 32
  /-- DONE, 32 bits; reset 0 -/
  done : BitVec 32
  /-- RSTAT.STATE, 2 bits; reset closed -/
  st : RingSt
  /-- RSTAT.IRQ_CORE, 5 bits; reset 0 -/
  irqCore : Nat
  /-- RSTAT.ERR, 3 bits; reset 0 -/
  err : Nat
  /-- RSTAT.ERR_AT, 32 bits; reset 0 -/
  errAt : BitVec 32
  /-- R275 QUEUE: doorbells as (TAIL written, counter), newest first; reset none -/
  bells : List (BitVec 32 × Nat)
  /-- R277: packets read, from the oldest unaccepted one on, 0 to 513; reset 0 -/
  ahead : Nat
  /-- R165: the counter since which the oldest packet waits under back-pressure; reset none -/
  bpSince : Option Nat
  /-- R275 DONE: packets completed beyond a packet still in progress: (offset, length); reset none -/
  finished : List (Nat × Nat)
  deriving DecidableEq, Repr

/-- What a command in progress waits for. -/
inductive Work where
  | none
  | plan (tag : Nat)
  | exch (tag : Nat)
  | coll (opcode tag : Nat)
  | launch (id : Nat)
  | signalWait (word : Nat) (value : W64) (since : Nat)
  | fence (others : List (Nat × Nat))
  | close (job : Nat) (since : Nat)
  | berthFree (entry : Nat)
  | stashPut (used : Nat) (bad : Bool)
  | stashGet (started : Bool)
  | repair (kind unit_ : Nat)
  | cluster (want : Nat) (left : List Nat)
  | firmware (until_ : Nat) (old : BitVec 512)
  | patrol
  deriving DecidableEq, Repr

/-- A command's outcome (R275, R276). -/
structure Outc where
  status : Nat
  note : BitVec 16
  detail : BitVec 32
  results : List W64
  deriving DecidableEq, Repr

/-- A command in progress: accepted and not completed (R278). -/
structure Prog where
  ring : Nat
  at_ : Nat
  hdr : BitVec 256
  words : List W64
  acceptedAt : Nat
  bellAt : Nat
  bpWait : Nat
  /-- R255 NET_WAIT, in counts of 40 ns -/
  netWait : Nat
  bp : Bool
  /-- R169: descriptor and owner slot claimed for release -/
  claims : List (Nat × Nat)
  /-- R161: descriptors the command's own take holds, with the module (255 for none) whose acknowledgement releases each -/
  taken : List (Nat × Nat)
  work : Work
  note : BitVec 16
  /-- R276: what `PEER` or `QUAY_WARN` names -/
  noteDetail : BitVec 32
  outcome : Option Outc
  deriving DecidableEq, Repr

/-- One job (R288). -/
structure Job where
  /-- R55 seed, 64 bits -/
  seed : W64
  filler : Bool
  prio : Nat
  /-- R75 thin threshold, 0 to 256 -/
  thin : Nat
  /-- R210 RARE_TOKENS, 32 bits -/
  rare : Nat
  /-- R105 wait limit in ms -/
  waitMs : Nat
  sigBase : Nat
  sigWords : Nat
  /-- R288 step counter, 64 bits -/
  step : W64
  /-- R204 granule table: FIRST and COUNT -/
  granules : List (Nat × Nat)
  gcrc : BitVec 64
  /-- R139: placement frozen -/
  frozen : Bool
  /-- R140: frozen at every moment since the step's start -/
  frozenStep : Bool
  /-- R140 placement-change count -/
  placeChg : Nat
  /-- R391 T_START -/
  startAt : Nat
  /-- R369 µJ since JOB_OPEN -/
  energy : Nat
  /-- R369 µJ in the current step -/
  stepEnergy : Nat
  /-- R156 PRED_LATE -/
  predLate : Nat
  /-- R156 PRED_WASTE -/
  predWaste : Nat
  /-- R289: closing since; none when open -/
  closing : Option Nat
  /-- R392: packet bytes of the step, by ring index -/
  cmdLog : AMap (List Byte)
  /-- R392: completed plans of the step: ring index, offset, bytes -/
  planLog : List (Nat × Nat × List Byte)
  /-- R392: DIGEST results of the step: ring index, offset, digest -/
  digLog : List (Nat × Nat × BitVec 512)
  /-- R393: collective entries of the step: ring index, offset, 80 bytes -/
  collLog : List (Nat × Nat × List Byte)
  /-- R391: events, resends, clamp actions, governor actions of kind 3 of the step -/
  evts : Nat
  resends : Nat
  clampN : Nat
  gov3 : Nat
  /-- R391 FLAGS bits 2, 3 and 4 of the step -/
  fixedStep : Bool
  engaged : Bool
  fillerRan : Bool
  /-- R255, R391 NET_WAIT per class, in counts of 40 ns -/
  netWait : AMap Nat
  deriving DecidableEq, Repr

/-- A loaded kernel (R294). -/
structure Kernel where
  job : Nat
  restartable : Bool
  image : List (BitVec 512)
  deriving DecidableEq, Repr

/-- Jobs, rings, kernels, commands in progress, staged firmware. -/
structure Cmd where
  /-- R25: jobs by slot 0 to 63; reset none -/
  jobs : AMap Job
  /-- R269: rings by number, 4 × slot + index and 256; reset all closed -/
  rings : AMap Ring
  /-- R270: the admin ring descriptor, 64 bits; reset 0 -/
  adminDesc : W64
  /-- R294: kernels by number, at most 1,024; reset none -/
  kernels : AMap Kernel
  /-- R278: commands in progress, in acceptance order; reset none -/
  progs : List Prog
  /-- R27, R224, R229, R230: what the look-ahead has begun, by ring × 2³² + offset: the clusters at which the Harbourmaster has placed a launch, and no
  cluster for a STASH_GET whose transfer has started; reset none -/
  aheadAt : AMap (List Nat)
  /-- R307: the staged firmware image; reset none -/
  staged : Option (List Byte)
  /-- R308: the new image has been written and starts; reset false -/
  starting : Bool
  deriving DecidableEq, Repr

/-! ### The Quay -/

/-- A pool (R158). -/
structure Pool where
  backing : BitVec 32
  first : Nat
  count : Nat
  held : Nat
  size : Nat
  job : Nat
  warn : Bool
  armed : Bool
  bp : Bool
  sigEn : Bool
  signal : Nat
  deriving DecidableEq, Repr

/-- A buffer descriptor that is or has been held (R158). -/
structure Desc where
  gen : Nat
  held : Bool
  /-- the four owner slots: requester, and whether a release is claimed; none when OWN_V is clear -/
  owners : List (Option (Nat × Bool))
  charge : Nat
  pool : Nat
  takeStep : BitVec 32
  deriving DecidableEq, Repr

/-- A requester (R159, R166). -/
structure Req where
  pool : Option Nat
  min : Nat
  max : Nat
  held : Nat
  peak : Nat
  warn : Bool
  armed : Bool
  bp : Bool
  bpWait : Nat
  refusals : Nat
  deriving DecidableEq, Repr

/-- The Quay. -/
structure Quay where
  /-- R157: pools 0 to 63; reset none -/
  pools : AMap Pool
  /-- R158: the 65,536 descriptors; an unlisted one is FREE with GEN 1 -/
  descs : AMap Desc
  /-- R159: requesters, job slot × 16 + engine; an unlisted one is unbound -/
  reqs : AMap Req
  deriving DecidableEq, Repr

/-! ### Expert exchange -/

/-- An expert binding (R177). -/
structure Binding where
  job : Nat
  layer : Nat
  expert : Nat
  wHandle : BitVec 32
  gradHandle : BitVec 32
  stepTokens : Nat
  accepted : Nat
  replicas : Nat
  thin : Bool
  deriving DecidableEq, Repr

/-- Where a choice stands (R190). -/
inductive Fate where
  | open | served | rerouted | skipCapacity | skipDepth | skipFlag
  deriving DecidableEq, Repr

/-- One token choice of this participant (R172, R184). -/
structure Choice where
  pos : Nat
  slot : Nat
  cand : Nat
  depth : Nat
  fate : Fate
  row : Nat
  /-- a verdict of the current round has arrived -/
  answered : Bool
  rejected : Bool
  deriving DecidableEq, Repr

/-- A candidate at its expert's owner (R183). -/
structure Cand where
  token : Nat
  score : W32
  expert : Nat
  granule : Nat
  loose : Bool
  slot : Nat
  depth : Nat
  src : Nat
  /-- the token's position at its holder; the candidate record has no field for it (log 16) -/
  pos : Nat
  deriving DecidableEq, Repr

/-- Stages of a plan in progress (R182). -/
inductive PlanStage where
  | open | round | verdicts | final
  deriving DecidableEq, Repr

/-- States of a plan context (R199). -/
inductive PlanSt where
  | planning (st : PlanStage) | planned | dispatched | combined | gradSent
  deriving DecidableEq, Repr

/-- A token record as read at acceptance (R174). -/
structure TokRec where
  token : Nat
  granule : Nat
  seq : Nat
  loose : Bool
  skip : Bool
  cands : List (W32 × W32 × Nat)
  deriving DecidableEq, Repr

/-- A live plan (R179 to R189). -/
structure Plan where
  job : Nat
  tag : Nat
  ring : Nat
  at_ : Nat
  params : PlanParams
  tokens : List TokRec
  owner : List Nat
  local_ : List Nat
  crc : BitVec 64
  rindex : BitVec 32
  rlog : BitVec 32
  bufs : List Nat
  own : OpenMarker
  detail : BitVec 32
  st : PlanSt
  since : Nat
  markers : AMap OpenMarker
  round : Nat
  ends : AMap Nat
  vends : List Nat
  choices : List Choice
  cands : List Cand
  accepted : List Cand
  rejFirm : AMap Nat
  rejLoose : AMap Nat
  finals : Nat
  carried : Nat
  /-- R199: an exchange command is in progress -/
  busy : Bool
  combineRec : BitVec 32
  gradRec : BitVec 32
  /-- R193: records that have arrived for the exchange command in progress: expert × 2¹⁶ + row, or position × 8 + slot -/
  arrived : List Nat
  /-- R194, R197: rows that have arrived for the command in progress, with their poisoned blocks, not yet in their buffers -/
  staged : List (Nat × List Byte × List Nat)
  /-- R196: token positions whose row arrived poisoned, or whose record was poisoned -/
  bad : List Nat
  /-- R286: a row that the command in progress sent was read poisoned -/
  srcBad : Bool
  /-- R193: wait limit runs from here -/
  exchSince : Nat
  deriving DecidableEq, Repr

/-- A row or return record held for an exchange command not yet accepted (R309): kind 0 `DISPATCH`, 1 `COMBINE`, 2 `COMBINE_GRAD`,
3 `DISPATCH_GRAD`. -/
structure HeldRow where
  job : Nat
  plan : Nat
  kind : Nat
  src : Nat
  h : BitVec 128
  payload : List Byte
  poison : List Nat
  deriving DecidableEq, Repr

/-- The Ferry. -/
structure Exch where
  /-- R177: expert map, by job × 2²⁴ + layer × 2¹² + expert; reset empty -/
  bindings : AMap Binding
  /-- R189: live plans, by job × 2¹⁶ + tag; reset none -/
  plans : AMap Plan
  /-- R309: open markers held for a ROUTE_PLAN not yet accepted: job, plan, source; reset none -/
  heldMarkers : List (Nat × Nat × Nat × OpenMarker)
  /-- R309: rows held for an exchange command not yet accepted; reset none -/
  heldRows : List HeldRow
  deriving DecidableEq, Repr

/-! ### Collectives -/

/-- A SCALE_AGREE or REDUCE in progress (R212). -/
structure Coll where
  job : Nat
  tag : Nat
  ring : Nat
  at_ : Nat
  reduce : Bool
  /-- participant indices in rank order: modules, then 128 and up (R208, R298) -/
  parts : List Nat
  /-- far endpoints of the far participants -/
  far : List Nat
  /-- this module's participant index -/
  me : Nat
  /-- elements -/
  n : Nat
  /-- DEADLINE in µs -/
  deadline : Nat
  /-- announcements received, by participant index -/
  ann : AMap Announce
  /-- whole payloads received, by shard × 256 + participant index -/
  got : AMap (List Byte)
  /-- contributors of which some part has reached this reducer and no more counts, or not yet the whole: shard × 256 + participant index -/
  late : List Nat
  /-- the shards that this module reduces (R214), each with the counter from which its DEADLINE runs -/
  shards : AMap Nat
  /-- shards closed here -/
  closed : List Nat
  /-- arrival masks, by shard -/
  masks : AMap (List Nat)
  /-- contributors listed late, by shard -/
  lateAt : AMap (List Nat)
  /-- result shards held, with the reducer's counts of LOW_LOST, NaN and saturation -/
  results : AMap (List Byte × Nat × Nat × Nat)
  /-- shards that have passed to another reducer, with its participant index (R214) -/
  moved : AMap Nat
  /-- this module's announcement -/
  self : Announce
  /-- block exponent words: this module's for SCALE_AGREE, the agreed ones for REDUCE -/
  words : List (BitVec 16)
  /-- granule and KIND of each slice -/
  slices : List (Nat × Nat)
  /-- SCALE_AGREE: FMT; REDUCE: 1 for SS32 -/
  fmt : Nat
  binding : Option Nat
  /-- contributors awaited (R219) -/
  awaited : List Nat
  /-- the present set, with the counter at which it became known -/
  present : Option (List Nat × Nat)
  /-- R217: the module's own sums, by element -/
  sums : List Int
  /-- R216: SCALE_EXCEEDED -/
  exceeded : Nat
  deriving DecidableEq, Repr

/-- An agreement context (R210). -/
structure Agree where
  job : Nat
  tag : Nat
  n : Nat
  parts : List Nat
  far : List Nat
  words : List (BitVec 16)
  present : List Nat
  ann : AMap Announce
  total : Nat
  ss32 : Bool
  slices : List (Nat × Nat)
  tokens : Nat
  bindingKey : Option Nat
  used : Bool
  deriving DecidableEq, Repr

/-- A GATHER, BROADCAST, PERMUTE or BARRIER in progress (R299). -/
structure Simple where
  job : Nat
  opcode : Nat
  tag : Nat
  ring : Nat
  at_ : Nat
  /-- participant indices in rank order -/
  parts : List Nat
  /-- far endpoints of the far participants -/
  far : List Nat
  me : Nat
  length : Nat
  root : Nat
  mask : BitVec 128
  /-- the berth that arriving bytes are written to, or 0 -/
  handle : BitVec 32
  /-- bytes still to come: source, offset in the berth, number -/
  due : List (Nat × Nat × Nat)
  /-- participants whose message has arrived -/
  got : List Nat
  /-- R227: all that a PERMUTE receives: source, offset in the berth, number -/
  rows : List (Nat × Nat × Nat)
  /-- R227: participants that have written their new shard -/
  written : List Nat
  since : Nat
  deriving DecidableEq, Repr

/-- A contribution held for a command not yet accepted: its shard, announcement and payload, whole or not (R309). -/
structure HeldCon where
  job : Nat
  shard : Nat
  tag : Nat
  a : Announce
  payload : List Byte
  whole : Bool
  deriving DecidableEq, Repr

/-- An arrival mask held for a command not yet accepted (R309). -/
structure HeldMask where
  job : Nat
  tag : Nat
  reduce : Bool
  shard : Nat
  mask : List Nat
  late : List Nat
  deriving DecidableEq, Repr

/-- Collectives. -/
structure Colls where
  /-- R212: SCALE_AGREE and REDUCE in progress, by job × 2¹⁷ + tag × 2 + reduce; reset none -/
  colls : AMap Coll
  /-- R210: agreement contexts, by job × 2¹⁶ + tag; reset none -/
  agrees : AMap Agree
  /-- R298: the other collectives in progress; reset none -/
  simple : List Simple
  /-- R220: tags of agreements already used in the step, by job × 2¹⁶ + tag; reset none -/
  usedTags : List Nat
  /-- R309: messages held for a command not yet accepted: job, opcode, tag, source and message; reset none -/
  heldMsgs : List (Nat × Nat × Nat × Nat × CollMsg)
  /-- R309: contributions held for a command not yet accepted; reset none -/
  heldCon : List HeldCon
  /-- R309: arrival masks held for a command not yet accepted; reset none -/
  heldMasks : List HeldMask
  deriving DecidableEq, Repr

/-! ### Fabric, transport, far transport, Ethernet -/

/-- Cabling outcomes (R246). -/
inductive Cable where
  | ok | swapped | wrongPeer | noPeer | degraded
  deriving DecidableEq, Repr

/-- Port widths (R241). -/
inductive Width where
  | down | x2 | x4
  deriving DecidableEq, Repr

/-- A flit that waits in a port's queue: its class, its KIND and LAST, its payload bytes in use, and the command that it serves (R240, R250, R255). -/
structure Waiting where
  cls : Nat
  kind : Nat
  last : Bool
  bytes : List Byte
  cmd : Option (Nat × Nat)
  deriving DecidableEq, Repr

/-- One fabric port (R239 to R246). -/
structure Port where
  /-- CABLE, 3 bits; reset 3 NO_PEER -/
  cable : Cable
  /-- WIDTH, 2 bits; reset down -/
  width : Width
  /-- LANES, 4 bits; reset 0 -/
  lanes : BitVec 4
  /-- lanes declared failed, 4 bits; reset 0 -/
  failed : BitVec 4
  /-- PEER_PORT, 8 bits; reset 0 -/
  peerPort : Nat
  /-- fingerprint announced by the far end, 64 bits; reset 0 -/
  farFp : BitVec 64
  /-- RETRIES, 16 bits; reset 0 -/
  retries : Nat
  /-- FEC_CORR, 16 bits; reset 0 -/
  fecCorr : Nat
  /-- PEER_INDEX, 8 bits; reset 0xFF -/
  peerIndex : Nat
  /-- R242: retraining since; none when not; reset none -/
  training : Option Nat
  /-- R239: next SEQ to send, 12 bits; reset 0 -/
  txSeq : BitVec 12
  /-- R239: last SEQ received without error, 12 bits; reset 0xFFF DESIGN CHOICE (log 5) -/
  rxSeq : BitVec 12
  /-- R239: a CRC error has been seen and the resend is awaited, 1 bit; reset false -/
  naking : Bool
  /-- R239: replay buffer, at most 1,024 flits, oldest first; reset empty -/
  replay : List Flit
  /-- R240, R250: flits assigned to the port and not yet sent, oldest first; reset empty -/
  queue : List Waiting
  /-- R239: the counter at the last acknowledgement or send, 64 bits; reset 0 -/
  ackAt : Nat
  /-- R254: the counter at the last signal flit, 64 bits; reset 0 -/
  sigAt : Nat
  /-- R254: flits of other classes since the last signal flit, 0 to 7; reset 7 DESIGN CHOICE (log 5) -/
  sigGap : Nat
  /-- R254: the class of 1 to 4 whose turn it is, 3 bits; reset 1 DESIGN CHOICE (log 5) -/
  turn : Nat
  /-- R254: flits that each class may still send in its turn; reset none -/
  deficit : AMap Nat
  /-- R240: credits per class, 12 bits; reset DESIGN CHOICE 0 (log 5) -/
  credits : AMap Nat
  /-- R240: credits to return per class; reset 0 -/
  owed : AMap Nat
  /-- R240: consecutive failed sends of the oldest flit, 0 to 8; reset 0 -/
  fails : Nat
  /-- R246: the cabling check has run since the port trained, 1 bit; reset false -/
  checked : Bool
  /-- R351: the counter at which the port took outcome NO_PEER, 64 bits; reset 0 -/
  noPeerAt : Nat
  /-- R351: shut down, 1 bit; reset false -/
  shut : Bool
  /-- R351: shutting down, 1 bit; reset false -/
  shutting : Bool
  /-- R351: the held enable, 1 bit; reset false -/
  held : Bool
  deriving DecidableEq, Repr

/-- The cabling plan (R245, R304). -/
structure CablePlan where
  direct : Bool
  own : Nat
  fps : AMap (BitVec 64)
  /-- expected fingerprint, far port and peer index of each port -/
  ports : AMap (BitVec 64 × Nat × Nat)
  deriving DecidableEq, Repr

/-- A peer (R252, R253). -/
structure Peer where
  present : Bool
  inc : BitVec 16
  lastAt : Nat
  /-- incarnations declared absent -/
  dead : List (BitVec 16)
  /-- mask of ports in use, as its latest heartbeat shows -/
  mask : BitVec 64
  deriving DecidableEq, Repr

/-- A receiving flow (R248): next PSN to apply, and packets held in the reorder window. -/
structure RxFlow where
  next : BitVec 24
  held : List TPacket
  deriving DecidableEq, Repr

/-- What the module sends out. -/
inductive Out where
  /-- a fabric packet: transport header and payload -/
  | packet (hdr : BitVec 256) (payload : List Byte)
  /-- an open marker of a plan -/
  | openMarker (dst job plan : Nat) (m : OpenMarker)
  | candidate (dst job : Nat) (w : BitVec 128) (pos : Nat)
  | endMarker (dst job plan round count : Nat) (verdicts : Bool)
  | verdict (dst job plan : Nat) (w : BitVec 64) (final : Bool)
  | row (dst job : Nat) (h : BitVec 128) (payload : List Byte) (poison : List Nat)
  | ret (dst job : Nat) (h : BitVec 128) (payload : List Byte) (poison : List Nat)
  | contribution (dst job shard tag : Nat) (a : Announce) (payload : List Byte)
  | arrivalMask (dst job tag : Nat) (reduce : Bool) (shard : Nat) (mask late : List Nat)
  | resultShard (dst job tag : Nat) (reduce : Bool) (shard : Nat) (payload : List Byte) (low nan sat : Nat)
  | collective (dst job opcode tag : Nat) (m : CollMsg)
  | grant (dst window : Nat) (e : BitVec 256)
  | shootdown (dst : Nat) (handle : BitVec 32) (page : Nat)
  | heartbeat (dst : Nat) (inc : BitVec 16) (mask : BitVec 64)
  | signal (dst : Nat) (word : W64) (add : W64)
  /-- a far packet as the far transport engine gives it to a port: its TYPE, PSN and payload -/
  | far (ep typ : Nat) (psn : Nat) (payload : List Byte)
  | pageEntry (dst : Nat) (handle : BitVec 32) (page : Nat)
  | flit (port : Nat) (f : Flit)
  /-- a frame that leaves on a port -/
  | frame (port : Nat) (f : Frame)
  /-- a received frame for the operating system's queues -/
  | osFrame (port : Nat) (f : Frame)
  /-- what Cricket sends from one of its addresses: an ICMPv6 type or a UDP port, and the data -/
  | cricket (src : BitVec 128) (kind : Nat) (body : List Byte)
  | irq (core identity : Nat)
  | i3c (bytes : List Byte)
  deriving DecidableEq, Repr

/-- An unacknowledged packet (R248). -/
structure TxPkt where
  dst : Nat
  flow : Nat
  psn : BitVec 24
  hdr : BitVec 256
  payload : List Byte
  sentAt : Nat
  /-- what a message carries, for a packet of TYPE 0x5 -/
  msg : Option Out
  /-- the command (ring, offset) that waits for it -/
  cmd : Option (Nat × Nat)
  /-- the core and the bundle whose `SGADD` waits for it -/
  core : Option (Nat × Nat)
  deriving DecidableEq, Repr

/-- A peer window (R256, R257). -/
structure Window where
  sources : BitVec 128
  berth : BitVec 32
  stashBytes : Nat
  job : Nat
  farEp : Option Nat
  rd : Bool
  wr : Bool
  acc : Bool
  sig : Bool
  exch : Bool
  coll : Bool
  stash : Bool
  used : Nat
  deriving DecidableEq, Repr

/-- A far endpoint (R258). -/
structure FarEp where
  ipv6 : BitVec 128
  fp : BitVec 64
  udpPort : Nat
  vlan : Nat
  pcp : Nat
  dscp : Nat
  mtu : Nat
  ports : Nat
  ecn : Bool
  present : Bool
  /-- R259, R261: incarnation it last showed, and those declared absent -/
  inc : BitVec 16
  dead : List (BitVec 16)
  lastAt : Nat
  probedAt : Nat
  deriving DecidableEq, Repr

/-- A far packet not yet acknowledged (R261): its number, TYPE, header and payload, and the core and bundle or the command that waits for it. -/
structure FarTx where
  psn : Nat
  typ : Nat
  hdr : List Byte
  payload : List Byte
  core : Option (Nat × Nat)
  cmd : Option (Nat × Nat)
  deriving DecidableEq, Repr

/-- A far flow (R259, R261). -/
structure FarFlow where
  ep : Nat
  cls : Nat
  /-- the command it serves, or none for a shared far flow -/
  cmd : Option (Nat × Nat)
  nextRx : Nat
  heldRx : List (Nat × List Byte)
  nextTx : Nat
  /-- packets not yet acknowledged, oldest first -/
  unacked : List FarTx
  sentAt : Nat
  /-- resend timeout in µs -/
  timeout : Nat
  resends : Nat
  /-- rate in Mb/s -/
  rate : Nat
  rateAt : Nat
  /-- the counter when its rate was last halved; none before the first time -/
  halvedAt : Option Nat
  /-- the counter when an acknowledgement last carried ECE, or when it opened -/
  eceAt : Nat
  deriving DecidableEq, Repr

/-- An Ethernet port or the management lane (R262 to R265): 0 and 1 Ethernet, 2 management. -/
structure EthPort where
  /-- R264 address lock; reset none (not yet written) -/
  lock : Option AddrLock
  /-- frames dropped by the lock; reset 0 -/
  drops : Nat
  /-- bytes sent in the current 100 µs, for the rate limit; reset 0 -/
  sent : Nat
  /-- the counter at the start of that window; reset 0 -/
  sentAt : Nat
  deriving DecidableEq, Repr

/-- The networks. -/
structure Net where
  /-- R246: fabric ports 0 to 35; reset as the port status word's resets -/
  ports : AMap Port
  /-- R245: the stored cabling plan; reset none DESIGN CHOICE (log 5) -/
  plan : Option CablePlan
  /-- R253: peers by module index; reset none -/
  peers : AMap Peer
  /-- R248: receiving flows, by source × 2¹⁸ + FLOW; reset none -/
  rx : AMap RxFlow
  /-- R248: next PSN to send, by destination × 2¹⁸ + FLOW; reset none -/
  txPsn : AMap (BitVec 24)
  /-- R248: packets not yet acknowledged, oldest first; reset none -/
  unacked : List TxPkt
  /-- R252: the counter at the last heartbeat sent, 64 bits; reset 0 -/
  hbAt : Nat
  /-- R257: windows 0 to 4,095; reset none -/
  windows : AMap Window
  /-- R257: grant mirror, entries of 256 bits by source × 4096 + window; reset none -/
  mirror : AMap (BitVec 256)
  /-- R256: frame table, by 256 KiB frame (bits [63:18] of the local address), naming the window; reset none -/
  frames : AMap Nat
  /-- R136, R257: stash pages placed under windows for sources: frame by source, window and count; reset none -/
  stashIn : AMap Nat
  /-- R258: far endpoints 0 to 255; reset none -/
  farEps : AMap FarEp
  /-- R259: far flows by context; reset none -/
  farFlows : AMap FarFlow
  /-- R260: far-transport UDP port, 16 bits; reset 48,611 -/
  farPort : Nat
  /-- R262: ratio of far flows to operating-system queues; reset 3 : 1 -/
  farShare : Nat × Nat
  /-- R264: Ethernet ports 0, 1 and the management lane 2; reset no lock -/
  eth : AMap EthPort
  deriving DecidableEq, Repr

/-! ### Accesses on their way out, and frames (R18, R248, R259 to R265) -/

/-- What an access to memory outside the module asks for. -/
inductive WantKind where
  /-- a read of some bytes -/
  | read
  /-- a write of some bytes -/
  | write (payload : List Byte)
  /-- FP32 addends to consecutive long-accumulator records, four bytes each -/
  | add (payload : List Byte)
  /-- a shootdown of a page's entry, at a module -/
  | shootdown (dst : Nat) (handle : BitVec 32) (page : Nat)
  /-- a fetch of a page's entry through a window, at a module -/
  | entry (dst : Nat) (handle : BitVec 32) (page : Nat)
  deriving DecidableEq, Repr

/-- An access that leaves the module (R18, R118): its global address, the memory key under which the model keeps the bytes, its length, its job and
class, and the core and bundle or the command that waits for it. -/
structure Want where
  kind : WantKind
  addr : Nat
  key : Nat
  len : Nat
  job : Nat
  cls : Nat
  core : Option (Nat × Nat)
  cmd : Option (Nat × Nat)
  deriving DecidableEq, Repr

/-- The transmit side of an Ethernet port or of the management lane (R262, R265). -/
structure TxPort where
  /-- frames of far flows that wait: class and frame; reset none -/
  far : List (Nat × Frame)
  /-- frames of the 64 operating-system transmit queues that wait: queue and frame; reset none -/
  os : List (Nat × Frame)
  /-- R262: what the far flows and the operating-system queues may still send in their turn, in bytes; reset 0 -/
  farLeft : Nat
  osLeft : Nat
  /-- R254: the class of the far flows whose turn it is, and the deficits in bytes; reset 1 and none -/
  turn : Nat
  deficit : AMap Nat
  deriving DecidableEq, Repr

/-- Accesses and frames that wait to leave the module. -/
structure Wire where
  /-- accesses that have not left yet, oldest first; reset none -/
  wants : List Want
  /-- reads that have left and have no response yet, oldest first; reset none -/
  reads : List Want
  /-- the ports' transmit sides, by port; reset none -/
  tx : AMap TxPort
  /-- R265: Cricket's transmit queue; reset none -/
  cricketTx : List Frame
  /-- R265: Cricket's receive buffer of 64 KiB; reset none -/
  cricketRx : List Frame
  /-- R265: what Cricket has sent in the last 100 µs, as (counter, bytes), newest first; reset none -/
  cricketSent : List (Nat × Nat)
  deriving DecidableEq, Repr

/-! ### Health and outputs -/

/-- A fault event (R325). -/
structure FEvent where
  time : Nat
  cls : Nat
  injected : Bool
  outcome : Nat
  port : Nat
  unit_ : BitVec 32
  deriving DecidableEq, Repr

/-- Fault events and armed injections. -/
structure Health where
  /-- R313: the most recent 4,096 fault events, newest first; reset none -/
  events : List FEvent
  /-- R325 EVENTS since start-up, 64 bits; reset 0 -/
  total : Nat
  /-- R344: armed injections: class, unit and count left; reset none -/
  armed : List (Nat × BitVec 32 × Nat)
  /-- R317: the Harbourmaster no longer accepts packets (fewer than 4 pairs); reset false -/
  noAccept : Bool
  deriving DecidableEq, Repr

/-- The state of the module. -/
structure State where
  /-- the queue of waiting commands, first in, first out (the model's own); reset empty -/
  pending : List Instr
  clk : Clk
  side : Side
  ledger : Ledger
  chip : Chip
  comp : Comp
  mem : Mem
  place : Place
  cmd : Cmd
  quay : Quay
  exch : Exch
  coll : Colls
  net : Net
  health : Health
  wire : Wire
  /-- what the module has sent out, newest first (the model's own); reset empty -/
  out : List Out
  /-- the counter to which free values are applied (the model's own, log 2); reset DESIGN CHOICE 0 -/
  free : Nat
  deriving DecidableEq, Repr

/-! ### Default entries and reset -/

/-- A cluster right after reset. -/
def Cluster.init : Cluster :=
  { svc := .inService, spare := some 16, thinQ := false, thinTest := false, thinFaults := [], sramCe := [], sramUe := 0, sramBad := [], ctlMm := [],
    pow := .gated, held := false, heldOff := false, manual := false, keepGated := false, idleSince := 0, duty := 8,
    trim := 0, recharDone := true, thinOn := false, thinOff := false, thinHeld := false, thinInst := none, thinIdle := 0,
    drainAt := none, forced := false, retireAfter := false, stretched := false }

/-- A core's health record right after reset; core 16 of each cluster is the spare. The fuse word holds no entry, and its
FCHECK is the CRC-16 of five zero bytes. -/
def CoreHw.init (k : Nat) : CoreHw :=
  { st := if k % 17 = 16 then .spare else .working, reason := 0, fusePend := false, stPass := false, badRow := 255,
    badCol := 255, fuse := 0x110C0000000000#64, mapped := 0x110C0000000000#64, spent := 0, faults := [], replays := 0,
    testing := false }

/-- A stack right after reset. -/
def Stack.init : Stack :=
  { st := .inService, ce := [], ue := 0, scarabAt := 0, passAt := 0, sysGroup := 0, sysUnits := 8192 }

/-- A pseudo-channel right after reset. -/
def Pc.init : Pc :=
  { st := .inService, pprLeft := 255, pprSpent := [], pprUsed := 0, pprSoft := 0, ce := [], ue := 0, refreshes := [] }

/-- A fabric port right after reset (R246). -/
def Port.init : Port :=
  { cable := .noPeer, width := .down, lanes := 0, failed := 0, peerPort := 0, farFp := 0, retries := 0, fecCorr := 0,
    peerIndex := 255, training := none, txSeq := 0, rxSeq := 0xFFF#12, naking := false, replay := [], queue := [], ackAt := 0,
    sigAt := 0, sigGap := 7, turn := 1, deficit := [], credits := [], owed := [], fails := 0, checked := false, noPeerAt := 0, shut := false, shutting := false, held := false }

/-- An Ethernet port right after reset. -/
def EthPort.init : EthPort := { lock := none, drops := 0, sent := 0, sentAt := 0 }

/-- A closed ring. -/
def Ring.init : Ring :=
  { size := 0, base := 0, tail := 0, head := 0, done := 0, st := .closed, irqCore := 0, err := 0, errAt := 0, bells := [],
    ahead := 0, bpSince := none, finished := [] }

/-- A free descriptor (R158). -/
def Desc.init : Desc :=
  { gen := 1, held := false, owners := [none, none, none, none], charge := 0, pool := 0, takeStep := 0 }

/-- An unbound requester (R166). -/
def Req.init : Req :=
  { pool := none, min := 0, max := 0, held := 0, peak := 0, warn := false, armed := true, bp := false, bpWait := 0,
    refusals := 0 }

/-- A tile at launch (R88). -/
def Tile.init : Tile :=
  { e := [], status := 0, cursor := 0, opened := false, poisoned := false, verdicts := 0, bad := [], locked := [], locking := [] }

/-- The registers at launch, before the arguments (R88). -/
def Regs.init : Regs := { s := [], v := [], p := [(0, BitVec.allOnes 128)], g := [] }

/-- A core with no instance (R88). -/
def Core.init : Core :=
  { inst := none, pc := 0, regs := Regs.init, snap := none, taken := 0, target := none, waiting := none, stack := [],
    tiles := [], active := none, shadow := none, loading := none, arrayAt := 0, arrayGated := true, loads := [], dmas := [],
    tagsDone := [], verdicts := [], stopped := false, held := [], commit := none, cons := [], fault := none, ending := none, leave := none }

/-- An initialised long-accumulator entry (R45). -/
def LaEntry.init : LaEntry :=
  { value := 0, adds := 0, full := false, lowLost := false, ninf := false, pinf := false, nan := false }

/-- A peer never heard from (R253). -/
def Peer.init : Peer := { present := false, inc := 0, lastAt := 0, dead := [], mask := 0 }

/-- A receiving flow not yet used (R248). -/
def RxFlow.init : RxFlow := { next := 0, held := [] }

/-- Time right after reset. -/
def Clk.init : Clk := { counter := 0, calendar := none, timers := [] }

/-- The sideband right after reset: 54 V good, STANDBY, pins at their pull-downs (R401). -/
def Side.init : Side :=
  { v54 := true, pstate := .standby, pwrEn := false, resetN := true, pwrPin := false, pg := false, thermTrip := false,
    slot := 0, ethKr := 0, stage1Latch := false, stageDone := 0, halted := false, retiredAny := false, fail := 0,
    ready := false, readyHeld := false, startAt := 0, shutting := false, heldOn := false, tripAt := 0, supplyHeld := false,
    tripLow := false, hot80 := false, cool := true, attnCause := 0, attnMask := 0x7F#32, resetCause := 0, resetInc := 0, vin := 5400,
    pin := 0, tj := 0, tcool := 0, envelopeOk := true, rejected := false, lstate := 0, rcvd := 0, llen := 0, limage := [],
    mac := 0, fwMeas := 0, osMeas := 0, fwImage := [], harts := 0, hartEntry := [], datagram := false, reports := [],
    romPath := false, wdStarts := 0, cricketRestarts := 0, dynAddr := none, mwl := 0, mrl := 0, ptr := 0, latch := [], addrs := [] }

/-- The Ledger right after reset. -/
def Ledger.init : Ledger :=
  { ctr := [], snap := [], units := [], unitSnap := [], perm := [], ord := [], waiting := [], snapAt := 0, inc := 0 }

/-- The units right after reset; an unlisted unit is in its default state. -/
def Chip.init : Chip :=
  { gradeB := false, enMask := 0xFFFFFF#24, fuseBlock := [], fp := 0, certs := [], clusters := [], cores := [], hbm := [],
    pcs := [], pairs := 0xFF#8, mismatches := [], pierTrim := 0, cap := 3200, clamp := 3200, clampDue := [],
    fixed := false, modeStep := 0, step := 0, halved := false, actions := [], govBefore := none, govQuiet := none,
    hot := false, clampNext := none, stretched := [], energy := 0, ownEnergy := 0, recharDue := none, retiring := [],
    migBytes := [], migRetire := [] }

/-- The compute side right after reset. -/
def Comp.init : Comp :=
  { cores := [], insts := [], groups := [], launches := [], nextId := 0, las := [], addends := [], signals := [] }

/-- Memory right after reset. -/
def Mem.init : Mem := { cells := [], poison := [], errors := [], tiles := [] }

/-- Placement right after reset. -/
def Place.init : Place :=
  { berths := [], gens := [], tcs := [], shadows := [], fetches := [], predictor := [], preds := [], epochAt := 0, shoot := [] }

/-- Commands right after reset. -/
def Cmd.init : Cmd :=
  { jobs := [], rings := [], adminDesc := 0, kernels := [], progs := [], aheadAt := [], staged := none, starting := false }

/-- The Quay right after reset. -/
def Quay.init : Quay := { pools := [], descs := [], reqs := [] }

/-- The Ferry right after reset. -/
def Exch.init : Exch := { bindings := [], plans := [], heldMarkers := [], heldRows := [] }

/-- Collectives right after reset. -/
def Colls.init : Colls := { colls := [], agrees := [], simple := [], usedTags := [], heldMsgs := [], heldCon := [], heldMasks := [] }

/-- The networks right after reset. -/
def Net.init : Net :=
  { ports := [], plan := none, peers := [], rx := [], txPsn := [], unacked := [], hbAt := 0, windows := [], mirror := [],
    frames := [], stashIn := [], farEps := [], farFlows := [], farPort := 48611, farShare := (3, 1), eth := [] }

/-- A transmit side with nothing waiting. -/
def TxPort.init : TxPort := { far := [], os := [], farLeft := 0, osLeft := 0, turn := 1, deficit := [] }

/-- Nothing waits to leave the module right after reset. -/
def Wire.init : Wire := { wants := [], reads := [], tx := [], cricketTx := [], cricketRx := [], cricketSent := [] }

/-- Health right after reset. -/
def Health.init : Health := { events := [], total := 0, armed := [], noAccept := false }

/-- The module right after reset: 54 V has become good and Cricket's stage 1 is about to run (R347, R348, R372, R376). -/
def State.reset : State :=
  { pending := [], clk := Clk.init, side := Side.init, ledger := Ledger.init, chip := Chip.init, comp := Comp.init,
    mem := Mem.init, place := Place.init, cmd := Cmd.init, quay := Quay.init, exch := Exch.init, coll := Colls.init,
    net := Net.init, health := Health.init, wire := Wire.init, out := [], free := 0 }

end Sys2Proof.Machine
end

