-- ==== Sys2Proof/Machine/Digest.lean ====
section
/-! DEFINITION. Bytes and words, the CRCs, SHAKE256 (R8, R69, R239, R387) and the opaque signature functions (R380, R384). -/

namespace Sys2Proof.Machine

/-! ### Little-endian bytes (R8) -/

/-- The little-endian value of some bytes. -/
def leNat (bs : List Byte) : Nat :=
  match bs with
  | [] => 0
  | b :: t => b.toNat + 256 * leNat t

/-- `n` little-endian bytes of a number. -/
def leBytes (n x : Nat) : List Byte :=
  match n with
  | 0 => []
  | n + 1 => BitVec.ofNat 8 x :: leBytes n (x / 256)

/-- `n` zero bytes. -/
def zeros (n : Nat) : List Byte := List.replicate n 0

/-- Pad or cut to `n` bytes. -/
def fit (n : Nat) (bs : List Byte) : List Byte := (bs ++ zeros (n - bs.length)).take n

/-- The bytes of an ASCII string. -/
def ascii (s : String) : List Byte := s.toList.map fun c => BitVec.ofNat 8 c.toNat

/-! ### CRCs -/

/-- `n` shifts of a reflected CRC register with reflected polynomial `p`. -/
def crcShift (p : Nat) (n r : Nat) : Nat :=
  match n with
  | 0 => r
  | n + 1 => crcShift p n (if r % 2 = 1 then (r / 2) ^^^ p else r / 2)

/-- A reflected CRC register after some bytes. -/
def crcRun (p : Nat) (r : Nat) (bs : List Byte) : Nat := bs.foldl (fun r b => crcShift p 8 (r ^^^ b.toNat)) r

/-- The reflected polynomial of CRC-32C (R387). -/
def polyCrc32c : Nat := 0x82F63B78
/-- The reflected polynomial of CRC-64 (R387). -/
def polyCrc64 : Nat := 0xC96C5795D7870F42
/-- The reflected polynomial of the flit CRC-32 (R239). -/
def polyCrc32 : Nat := 0xEDB88320

/-- CRC-32C (R387). -/
def crc32c (bs : List Byte) : BitVec 32 := BitVec.ofNat 32 (crcRun polyCrc32c 0xFFFFFFFF bs ^^^ 0xFFFFFFFF)
/-- CRC-64 (R387). -/
def crc64 (bs : List Byte) : BitVec 64 :=
  BitVec.ofNat 64 (crcRun polyCrc64 0xFFFFFFFFFFFFFFFF bs ^^^ 0xFFFFFFFFFFFFFFFF)
/-- The flit CRC-32 (R239), in the bit order of IEEE 802.3 (DEDUCED, log 6). -/
def crc32 (bs : List Byte) : BitVec 32 := BitVec.ofNat 32 (crcRun polyCrc32 0xFFFFFFFF bs ^^^ 0xFFFFFFFF)

/-- `n` shifts of the fuse word's CRC-16 register, most significant bit first (R69; DEDUCED, log 6). -/
def crc16Shift (n r : Nat) : Nat :=
  match n with
  | 0 => r
  | n + 1 => crc16Shift n (if r ≥ 0x8000 then ((2 * r) ^^^ 0x1021) % 2 ^ 16 else 2 * r)

/-- FCHECK of R69. -/
def crc16 (bs : List Byte) : Nat := bs.foldl (fun r b => crc16Shift 8 (r ^^^ (b.toNat * 256))) 0xFFFF

/-! ### SHAKE256 (FIPS 202, R387) -/

/-- A 64-bit lane turned left by `n`: multiply, and bring what leaves the top in at the bottom. -/
def turn (n x : Nat) : Nat := x * 2 ^ n % 2 ^ 64 + x * 2 ^ n / 2 ^ 64

/-- The lane in column `x` of row `y`; both count modulo 5. -/
def laneAt (a : List Nat) (x y : Nat) : Nat := a.getD (x % 5 + 5 * (y % 5)) 0

/-- The parity of column `x`. -/
def column (a : List Nat) (x : Nat) : Nat := (List.range 5).foldl (fun p y => p ^^^ laneAt a x y) 0

/-- θ: every lane takes in the parities of two neighbour columns. -/
def theta (a : List Nat) : List Nat :=
  let ps := (List.range 5).map fun x => column a (x + 4) ^^^ turn 1 (column a (x + 1))
  a.mapIdx fun i w => w ^^^ ps.getD (i % 5) 0

/-- ρ and π together: from lane (x, y) on, `k` lanes still to go, the walk (x, y) → (y, 2x + 3y) carries each lane to the next place,
turned by the walk's next triangular number. -/
def rhoPi (a : List Nat) (k x y : Nat) (out : List Nat) : List Nat :=
  match k with
  | 0 => out
  | k + 1 =>
    let t := 24 - k
    let z := (2 * x + 3 * y) % 5
    rhoPi a k y z (out.set (y + 5 * z) (turn (t * (t + 1) / 2 % 64) (laneAt a x y)))

/-- χ: each lane takes in the lane two to its right where the lane one to its right is 0. -/
def chi (a : List Nat) : List Nat :=
  a.mapIdx fun i w => w ^^^ (laneAt a (i % 5 + 2) (i / 5) - (laneAt a (i % 5 + 1) (i / 5) &&& laneAt a (i % 5 + 2) (i / 5)))

/-- One step of the 8-bit shift register that gives ι its constants. -/
def iotaNext (r : Nat) : Nat := if 128 ≤ r then (2 * r) ^^^ 0x171 else 2 * r

/-- `n` rounds from a shift register at `r`: ι puts the register's next seven low bits at bits 0, 1, 3, 7, 15, 31 and 63 of lane 0. -/
def rounds (n r : Nat) (a : List Nat) : List Nat :=
  match n with
  | 0 => a
  | n + 1 =>
    let b := chi (rhoPi (theta a) 24 1 0 (theta a))
    let (c, r) := (List.range 7).foldl (fun (c, r) j => (c + r % 2 * 2 ^ (2 ^ j - 1), iotaNext r)) (0, r)
    rounds n r (b.set 0 (laneAt b 0 0 ^^^ c))

/-- Keccak-f[1600] on 25 lanes (x + 5y). -/
def keccakF (a : List Nat) : List Nat := rounds 24 1 a

/-- Absorb bytes into a state that already holds `n` bytes of the current 136-byte block: the running value of R389. -/
def keccakAbsorb (st : List Byte × Nat) (bs : List Byte) : List Byte × Nat :=
  bs.foldl (fun (acc : List Byte × Nat) b =>
    let s := acc.1.set acc.2 (acc.1.getD acc.2 0 ^^^ b)
    if acc.2 + 1 = 136 then
      let lanes := (List.range 25).map fun i => leNat ((s.drop (8 * i)).take 8)
      ((keccakF lanes).flatMap (leBytes 8), 0)
    else (s, acc.2 + 1)) st

/-- Pad a SHAKE256 state and squeeze 64 bytes. -/
def keccakFinish (st : List Byte × Nat) : List Byte :=
  let s := st.1.set st.2 (st.1.getD st.2 0 ^^^ 0x1F#8)
  let s := s.set 135 (s.getD 135 0 ^^^ 0x80#8)
  ((keccakF ((List.range 25).map fun i => leNat ((s.drop (8 * i)).take 8))).flatMap (leBytes 8)).take 64

/-- SHAKE256 with 64 bytes of output, as bytes. -/
def shakeBytes (bs : List Byte) : List Byte := keccakFinish (keccakAbsorb (zeros 200, 0) bs)

/-- SHAKE256 with 64 bytes of output; byte 0 is bits [7:0]. -/
def shake (bs : List Byte) : BitVec 512 := BitVec.ofNat 512 (leNat (shakeBytes bs))

end Sys2Proof.Machine
end

