-- ==== Sys2Proof/Machine/Num.lean ====
section
/-! DEFINITION. Number formats, the rounding points, slabs, the long accumulator's arithmetic, activations and random words (chapters 02 and 03). -/

namespace Sys2Proof.Machine

/-- A list in the order of a comparison, equals in their former order. -/
def sortBy {α : Type} (le : α → α → Bool) (l : List α) : List α := l.insertionSort fun a b => le a b = true

/-- A number exactly: NaN, an infinity, or ±m × 2^e (R29, R35). -/
inductive Val where
  | nan
  | inf (neg : Bool)
  | fin (neg : Bool) (m : Nat) (e : Int)
  deriving DecidableEq, Repr

/-- Overflow modes (R46). -/
inductive OvMode where
  | sat | ieee | flag
  deriving DecidableEq, Repr

/-- The mode of a 2-bit field; 11 is reserved (R46). -/
def ovMode (n : Nat) : Option OvMode :=
  match n with
  | 0 => some .sat
  | 1 => some .ieee
  | 2 => some .flag
  | _ => none

/-- Rounding of a conversion: to nearest even, or stochastic with the element's random word (R53). -/
inductive RndMode where
  | rne
  | sr (r : Nat)
  deriving DecidableEq, Repr

/-- Bits [hi:lo] of a number. -/
def bitsOf (x hi lo : Nat) : Nat := (x >>> lo) % 2 ^ (hi + 1 - lo)

/-- 2^e for e ≥ 0, else 1. -/
def pow2 (e : Int) : Nat := 2 ^ e.toNat

/-- ⌈a ÷ b⌉. -/
def ceilDiv (a b : Nat) : Nat := (a + b - 1) / b

/-! ### Formats (R29) -/

/-- A floating format: exponent bits, bias, fraction bits, and whether the all-ones exponent is reserved as IEEE reserves it. -/
structure FForm where
  eb : Nat
  bias : Nat
  fb : Nat
  ieee : Bool
  deriving DecidableEq, Repr

/-- The floating form of an element of a format code (MX elements as their element format). -/
def fform (fmt : Nat) : Option FForm :=
  match fmt with
  | 0 => some ⟨8, 127, 7, true⟩
  | 1 => some ⟨5, 15, 10, true⟩
  | 2 => some ⟨4, 7, 3, false⟩
  | 3 => some ⟨5, 15, 2, true⟩
  | 5 => some ⟨4, 7, 3, false⟩
  | 6 => some ⟨5, 15, 2, true⟩
  | 9 => some ⟨8, 127, 23, true⟩
  | _ => none

/-- Element size in bits (R29). -/
def elemBits (fmt : Nat) : Nat :=
  match fmt with
  | 0 => 16
  | 1 => 16
  | 8 => 4
  | 9 => 32
  | 10 => 64
  | _ => 8

/-- Is the format one of the MX formats, with a scale per 32 elements? -/
def isMx (fmt : Nat) : Bool := 5 ≤ fmt && fmt ≤ 8

/-- The value of a floating encoding (R29). -/
def FForm.value (f : FForm) (x : Nat) : Val :=
  let neg := (x >>> (f.eb + f.fb)) % 2 = 1
  let ex := (x >>> f.fb) % 2 ^ f.eb
  let fr := x % 2 ^ f.fb
  if f.ieee && ex = 2 ^ f.eb - 1 then (if fr = 0 then .inf neg else .nan)
  else if !f.ieee && ex = 2 ^ f.eb - 1 && fr = 2 ^ f.fb - 1 then .nan
  else if ex = 0 then .fin neg fr (1 - (f.bias : Int) - f.fb)
  else .fin neg (2 ^ f.fb + fr) ((ex : Int) - f.bias - f.fb)

/-- The E2M1 magnitudes in halves (R29). -/
def e2m1Halves (x : Nat) : Nat :=
  match x % 8 with
  | 0 => 0 | 1 => 1 | 2 => 2 | 3 => 3 | 4 => 4 | 5 => 6 | 6 => 8 | _ => 12

/-- The value of an element's encoding, its block scale apart (R29, R31). -/
def elemValue (fmt x : Nat) : Val :=
  match fform fmt with
  | some f => f.value x
  | none =>
    if fmt = 8 then .fin (x / 8 % 2 = 1) (e2m1Halves x) (-1)
    else
      let v : Int := if x % 256 < 128 then (x % 256 : Int) else (x % 256 : Int) - 256
      .fin (v < 0) v.natAbs (if fmt = 7 then -6 else 0)

/-- An element under its E8M0 block scale (R31). -/
def scaled (s : Nat) (v : Val) : Val :=
  if s = 255 then .nan
  else
    match v with
    | .fin n m e => .fin n m (e + s - 127)
    | w => w

/-- The value of an FP32 encoding. -/
def f32Val (x : W32) : Val := FForm.value ⟨8, 127, 23, true⟩ x.toNat

/-- Is the value ±0? -/
def Val.isZero (v : Val) : Bool :=
  match v with
  | .fin _ m _ => m = 0
  | _ => false

/-- Is the value NaN? -/
def Val.isNan (v : Val) : Bool :=
  match v with
  | .nan => true
  | _ => false

/-! ### Rounding (R28, R33, R46, R53) -/

/-- A rounded result: its encoding, whether it saturated (never in IEEE mode where the destination has infinity or NaN), whether it is NaN. -/
structure Rnd where
  bits : Nat
  ov : Bool
  nan : Bool
  deriving DecidableEq, Repr

/-- The canonical NaN of a floating form (R33). -/
def FForm.canNan (f : FForm) : Nat :=
  if f.ieee then ((2 ^ f.eb - 1) <<< f.fb) + 2 ^ (f.fb - 1) else 2 ^ (f.eb + f.fb) - 1

/-- The largest finite encoding's magnitude bits. -/
def FForm.maxFin (f : FForm) : Nat :=
  if f.ieee then ((2 ^ f.eb - 1) <<< f.fb) - 1 else 2 ^ (f.eb + f.fb) - 2

/-- The magnitude bits of an infinity. -/
def FForm.infBits (f : FForm) : Nat := (2 ^ f.eb - 1) <<< f.fb

/-- The sign bit in place. -/
def FForm.signed (f : FForm) (neg : Bool) (mag : Nat) : Nat :=
  if neg then 2 ^ (f.eb + f.fb) + mag else mag

/-- The result of an infinity, or of a finite value beyond the range, at a rounding point (R46). -/
def FForm.overflow (f : FForm) (mode : OvMode) (neg : Bool) : Rnd :=
  match mode with
  | .ieee => if f.ieee then ⟨f.signed neg f.infBits, false, false⟩ else ⟨f.canNan, false, true⟩
  | _ => ⟨f.signed neg f.maxFin, true, false⟩

/-- ⌊log2(n ÷ d)⌋ for n, d > 0. -/
def log2Rat (n d : Nat) : Int :=
  let k : Int := (n.log2 : Int) - d.log2
  if n * pow2 (-k) ≥ d * pow2 k then k else k - 1

/-- Round the quotient n ÷ d to an integer. -/
def roundQuot (n d : Nat) (mode : RndMode) : Nat :=
  let k := n / d
  let r := n % d
  match mode with
  | .rne => if 2 * r > d then k + 1 else if 2 * r = d then (if k % 2 = 1 then k + 1 else k) else k
  | .sr w => if r * 2 ^ 32 / d + w ≥ 2 ^ 32 then k + 1 else k

/-- Round ±(n ÷ d) × 2^e to a floating form (R37, R45, R53). -/
def FForm.round (f : FForm) (mode : OvMode) (rnd : RndMode) (neg : Bool) (n d : Nat) (e : Int) : Rnd :=
  if n = 0 then ⟨f.signed neg 0, false, false⟩
  else
    let ex := max (log2Rat n d + e) (1 - (f.bias : Int))
    let q := ex - f.fb
    let k := roundQuot (n * pow2 (e - q)) (d * pow2 (q - e)) rnd
    let (k, ex) := if k = 2 ^ (f.fb + 1) then (2 ^ f.fb, ex + 1) else (k, ex)
    let mag := if k < 2 ^ f.fb then k else ((ex + f.bias).toNat <<< f.fb) + (k - 2 ^ f.fb)
    if mag > f.maxFin then f.overflow mode neg else ⟨f.signed neg mag, false, false⟩

/-- Round to INT8: clamped to 127 or −128; NaN gives 0 (R46). -/
def roundInt8 (rnd : RndMode) (v : Val) : Rnd :=
  match v with
  | .nan => ⟨0, false, true⟩
  | .inf neg => ⟨if neg then 128 else 127, true, false⟩
  | .fin neg m e =>
    let k := roundQuot (m * pow2 e) (pow2 (-e)) rnd
    if neg then (if k > 128 then ⟨128, true, false⟩ else ⟨(256 - k) % 256, false, false⟩)
    else if k > 127 then ⟨127, true, false⟩ else ⟨k, false, false⟩

/-- Convert a value to a format without block scale: 0x0 to 0x4 or 0x9 (R46). -/
def convertTo (fmt : Nat) (mode : OvMode) (rnd : RndMode) (v : Val) : Rnd :=
  match fform fmt with
  | none => roundInt8 rnd v
  | some f =>
    match v with
    | .nan => ⟨f.canNan, false, true⟩
    | .inf neg =>
      match mode with
      | .ieee => if f.ieee then ⟨f.signed neg f.infBits, false, false⟩ else ⟨f.canNan, false, true⟩
      | _ => ⟨f.signed neg f.maxFin, true, false⟩
    | .fin neg m e => f.round mode rnd neg m 1 e

/-- Round to FP32 to nearest even with IEEE results (R95). -/
def toF32 (v : Val) : W32 := BitVec.ofNat 32 (convertTo 9 .ieee .rne v).bits

/-- The canonical FP32 NaN (R33). -/
def nan32 : W32 := 0x7FC00000#32

/-! ### Exact arithmetic and binary32 (R95) -/

/-- Signed integer of a finite value at unit 2^u, u at most its exponent. -/
def scaleTo (neg : Bool) (m : Nat) (e u : Int) : Int :=
  let k : Int := (m * pow2 (e - u) : Nat)
  if neg then -k else k

/-- The exact sum. An exact zero is +0, but −0 + −0 is −0 (IEEE 754, round to nearest even). -/
def Val.add (a b : Val) : Val :=
  match a, b with
  | .nan, _ => .nan
  | _, .nan => .nan
  | .inf s, .inf t => if s = t then .inf s else .nan
  | .inf s, _ => .inf s
  | _, .inf t => .inf t
  | .fin s m e, .fin t n f =>
    let u := min e f
    let k := scaleTo s m e u + scaleTo t n f u
    if k = 0 then .fin (s && t) 0 u else .fin (k < 0) k.natAbs u

/-- Negation. -/
def Val.neg (a : Val) : Val :=
  match a with
  | .nan => .nan
  | .inf s => .inf (!s)
  | .fin s m e => .fin (!s) m e

/-- The exact product; ∞ × 0 is NaN (R35, R46). -/
def Val.mul (a b : Val) : Val :=
  match a, b with
  | .nan, _ => .nan
  | _, .nan => .nan
  | .inf s, .inf t => .inf (s != t)
  | .inf s, .fin t n _ => if n = 0 then .nan else .inf (s != t)
  | .fin s m _, .inf t => if m = 0 then .nan else .inf (s != t)
  | .fin s m e, .fin t n f => .fin (s != t) (m * n) (e + f)

/-- Is a < b, for values that are not NaN (+0 equal to −0)? -/
def Val.lt (a b : Val) : Bool :=
  match a, b with
  | .nan, _ => false
  | _, .nan => false
  | .inf s, .inf t => s && !t
  | .inf s, _ => s
  | _, .inf t => !t
  | .fin s m e, .fin t n f =>
    let u := min e f
    scaleTo s m e u < scaleTo t n f u

/-- Is a = b as values? -/
def Val.eqv (a b : Val) : Bool :=
  match a, b with
  | .nan, _ => false
  | _, .nan => false
  | .inf s, .inf t => s = t
  | .inf _, _ => false
  | _, .inf _ => false
  | .fin s m e, .fin t n f =>
    let u := min e f
    scaleTo s m e u = scaleTo t n f u

/-- FP32 sum. -/
def f32Add (a b : W32) : W32 := toF32 ((f32Val a).add (f32Val b))
/-- FP32 difference. -/
def f32Sub (a b : W32) : W32 := toF32 ((f32Val a).add (f32Val b).neg)
/-- FP32 product. -/
def f32Mul (a b : W32) : W32 := toF32 ((f32Val a).mul (f32Val b))
/-- a × b + c with one rounding. -/
def f32Fma (a b c : W32) : W32 := toF32 (((f32Val a).mul (f32Val b)).add (f32Val c))

/-- FP32 quotient, correctly rounded. -/
def f32Div (a b : W32) : W32 :=
  match f32Val a, f32Val b with
  | .nan, _ => nan32
  | _, .nan => nan32
  | .inf _, .inf _ => nan32
  | .inf s, .fin t _ _ => toF32 (.inf (s != t))
  | .fin s _ _, .inf t => toF32 (.fin (s != t) 0 0)
  | .fin s m e, .fin t n f =>
    if n = 0 then (if m = 0 then nan32 else toF32 (.inf (s != t)))
    else BitVec.ofNat 32 (FForm.round ⟨8, 127, 23, true⟩ .ieee .rne (s != t) m n (e - f)).bits

/-- FP32 reciprocal (R83, R95). -/
def f32Rcp (a : W32) : W32 := f32Div 0x3F800000#32 a

/-- FP32 square root, correctly rounded: the integer root of the significand widened by 64 bits, with a sticky bit below it. -/
def f32Sqrt (a : W32) : W32 :=
  match f32Val a with
  | .nan => nan32
  | .inf s => if s then nan32 else 0x7F800000#32
  | .fin s m e =>
    if m = 0 then a
    else if s then nan32
    else
      let (m, e) := if e % 2 = 0 then (m, e) else (2 * m, e - 1)
      let w := m * 2 ^ 64
      let r := w.sqrt
      let st := if r * r = w then 0 else 1
      BitVec.ofNat 32 (FForm.round ⟨8, 127, 23, true⟩ .ieee .rne false (2 * r + st) 1 (e / 2 - 33)).bits

/-- The larger or smaller value, with −0 < +0 and the canonical NaN for a NaN in either (FMAX, FMIN). -/
def f32Pick (larger : Bool) (a b : W32) : W32 :=
  let x := f32Val a
  let y := f32Val b
  if x.isNan || y.isNan then nan32
  else if x.lt y then (if larger then b else a)
  else if y.lt x then (if larger then a else b)
  else if x.isZero then (if larger then a &&& b else a ||| b)
  else a

/-! ### Slabs (R35 to R39) -/

/-- The bit position of the leading bit of a non-zero product. -/
def leadBit (v : Val) : Option Int :=
  match v with
  | .fin _ m e => if m = 0 then none else some ((m.log2 : Int) + e)
  | _ => none

/-- The kept value of a product in units of 2^(E − 63), truncated toward zero (R36). -/
def kept (u : Int) (v : Val) : Int :=
  match v with
  | .fin neg m e =>
    let k : Int := ((m * pow2 (e - u)) / pow2 (u - e) : Nat)
    if neg then -k else k
  | _ => 0

/-- An FP32 result with the status bits it raises. -/
structure F32Res where
  bits : W32
  ov : Bool
  nan : Bool
  deriving DecidableEq, Repr

/-- Round a value to FP32 at a rounding point with an overflow mode. -/
def roundF32 (mode : OvMode) (v : Val) : F32Res :=
  let r := convertTo 9 mode .rne v
  ⟨BitVec.ofNat 32 r.bits, r.ov, r.nan⟩

/-- The largest of the leading bits. -/
def maxLead (ps : List Val) : Option Int :=
  ps.foldl (fun acc p =>
    match leadBit p, acc with
    | none, a => a
    | some e, none => some e
    | some e, some a => some (max e a)) none

/-- The slab sum of the exact products of one slab (R36, R37, R46). -/
def slabSum (mode : OvMode) (ps : List Val) : F32Res :=
  if ps.any Val.isNan then ⟨nan32, false, true⟩
  else
    let p := ps.any fun v => v = .inf false
    let n := ps.any fun v => v = .inf true
    if p && n then ⟨nan32, false, true⟩
    else if p then roundF32 mode (.inf false)
    else if n then roundF32 mode (.inf true)
    else
      match maxLead ps with
      | none => ⟨0, false, false⟩
      | some e =>
        let u := e - 63
        let k := (ps.map (kept u)).sum
        roundF32 mode (if k = 0 then .fin false 0 0 else .fin (k < 0) k.natAbs u)

/-- The accumulator addition (R39). -/
def accAdd (mode : OvMode) (a b : W32) : F32Res :=
  roundF32 mode ((f32Val a).add (f32Val b))

/-! ### The long accumulator (R42 to R45, R49, R50) -/

/-- Add one addend (R42 to R44). -/
def LaEntry.add (x : LaEntry) (a : Addend) : LaEntry :=
  if x.adds ≥ 2 ^ 42 - 1 then { x with full := true, nan := true }
  else
    let x := { x with adds := x.adds + 1 }
    let exact (neg : Bool) (m : Nat) (e : Int) (lossy : Bool) : LaEntry :=
      let k : Int := ((m * pow2 (e + 149)) / pow2 (-(e + 149)) : Nat)
      let lost := lossy && m % pow2 (-(e + 149)) ≠ 0
      { x with value := x.value + BitVec.ofInt 320 (if neg then -k else k), lowLost := x.lowLost || lost }
    match a with
    | .fp32 v =>
      match f32Val v with
      | .nan => { x with nan := true }
      | .inf neg => if neg then { x with ninf := true } else { x with pinf := true }
      | .fin neg m e => exact neg m e false
    | .scaled m w =>
      if m.natAbs * pow2 w ≥ 2 ^ 128 * pow2 (-w) then { x with nan := true }
      else exact (m < 0) m.natAbs w true
    | .special nan neg => if nan then { x with nan := true } else if neg then { x with ninf := true } else { x with pinf := true }

/-- The status word returned beside a read-out (R45). -/
def LaEntry.status (x : LaEntry) : BitVec 64 :=
  BitVec.ofNat 64 (x.adds * 32 + (if x.full then 16 else 0) + (if x.lowLost then 8 else 0) + (if x.ninf then 4 else 0) +
    (if x.pinf then 2 else 0) + (if x.nan then 1 else 0))

/-- The exact value of an entry, with R45's precedence; an infinity is left to the destination's overflow mode. -/
def LaEntry.val (x : LaEntry) : Val :=
  if x.nan || (x.pinf && x.ninf) then .nan
  else if x.pinf then .inf false
  else if x.ninf then .inf true
  else
    let k := x.value.toInt
    .fin (k < 0) k.natAbs (-149)

/-- Read an entry from a record's bytes (R109). -/
def LaEntry.ofBits (v : BitVec 320) (s : BitVec 64) : LaEntry :=
  { value := v, adds := bitsOf s.toNat 46 5, full := s.getLsbD 4, lowLost := s.getLsbD 3, ninf := s.getLsbD 2,
    pinf := s.getLsbD 1, nan := s.getLsbD 0 }

/-- An FP32 pair from an exact quotient ±(n ÷ d) × 2^e (R49). -/
def pairOf (mode : OvMode) (v : Val) (d : Nat) : Nat × Bool × Bool :=
  match v with
  | .nan => (0x7FC000007FC00000, false, true)
  | .inf neg =>
    let r := convertTo 9 mode .rne (.inf neg)
    (r.bits, r.ov, false)
  | .fin neg m e =>
    let hi := FForm.round ⟨8, 127, 23, true⟩ mode .rne neg m d e
    if hi.ov then (hi.bits, true, false)
    else
      match f32Val (BitVec.ofNat 32 hi.bits) with
      | .fin s h f =>
        let u := min e f
        let k : Int := scaleTo neg m e u - (d : Int) * scaleTo s h f u
        let lo := FForm.round ⟨8, 127, 23, true⟩ .ieee .rne (k < 0) k.natAbs d u
        (hi.bits + lo.bits * 2 ^ 32, false, false)
      | _ => (hi.bits, false, false)

/-- The hi part of split-pair GEMM: fraction bits [15:0] cleared; an infinite or NaN x is its own hi (R51). -/
def splitHi (x : W32) : W32 :=
  match f32Val x with
  | .fin _ _ _ => x &&& 0xFFFF0000#32
  | _ => x

/-- The lo part: x − hi exactly; +0 for an infinite or NaN x (R51). -/
def splitLo (x : W32) : Val :=
  match f32Val x with
  | .fin _ _ _ => (f32Val x).add (f32Val (splitHi x)).neg
  | _ => .fin false 0 0

/-! ### Random words (R53 to R56) -/

/-- One Philox-4×32 round. -/
def philoxRound (x : Nat × Nat × Nat × Nat) (k0 k1 : Nat) : Nat × Nat × Nat × Nat :=
  let (x0, x1, x2, x3) := x
  let p0 := 0xD2511F53 * x0
  let p1 := 0xCD9E8D57 * x2
  (((p1 / 2 ^ 32) ^^^ x1) ^^^ k0, p1 % 2 ^ 32, ((p0 / 2 ^ 32) ^^^ x3) ^^^ k1, p0 % 2 ^ 32)

/-- `n` more rounds, the key advancing before each but the first of the ten. -/
def philoxRounds (n : Nat) (first : Bool) (x : Nat × Nat × Nat × Nat) (k0 k1 : Nat) : Nat × Nat × Nat × Nat :=
  match n with
  | 0 => x
  | n + 1 =>
    let k0 := if first then k0 else (k0 + 0x9E3779B9) % 2 ^ 32
    let k1 := if first then k1 else (k1 + 0xBB67AE85) % 2 ^ 32
    philoxRounds n false (philoxRound x k0 k1) k0 k1

/-- The random word of element `e` of a stream (R55). -/
def randomWord (seed step : W64) (stream e : Nat) : Nat :=
  let b := e / 4
  let (y0, y1, y2, y3) := philoxRounds 10 true
    (b % 2 ^ 32, b / 2 ^ 32 % 2 ^ 32, stream % 2 ^ 32, step.toNat % 2 ^ 32) (seed.toNat % 2 ^ 32) (seed.toNat / 2 ^ 32)
  match e % 4 with
  | 0 => y0
  | 1 => y1
  | 2 => y2
  | _ => y3

/-! ### Activations (R82 to R84) -/

/-- The FP32 constants of R83. -/
def k32 : W32 := 0x4238AA3B#32
/-- CH of R83. -/
def kCH : W32 := 0x3CB16000#32
/-- CL of R83. -/
def kCL : W32 := 0x3710BFBF#32

/-- T[i] = 2^(i/32) rounded to FP32 (R83). -/
def expTable : List Nat :=
  [0x3F800000, 0x3F82CD87, 0x3F85AAC3, 0x3F88980F, 0x3F8B95C2, 0x3F8EA43A, 0x3F91C3D3, 0x3F94F4F0, 0x3F9837F0, 0x3F9B8D3A,
   0x3F9EF532, 0x3FA27043, 0x3FA5FED7, 0x3FA9A15B, 0x3FAD583F, 0x3FB123F6, 0x3FB504F3, 0x3FB8FBAF, 0x3FBD08A4, 0x3FC12C4D,
   0x3FC5672A, 0x3FC9B9BE, 0x3FCE248C, 0x3FD2A81E, 0x3FD744FD, 0x3FDBFBB8, 0x3FE0CCDF, 0x3FE5B907, 0x3FEAC0C7, 0x3FEFE4BA,
   0x3FF5257D, 0x3FFA83B3]

/-- LG[j] = ln(1 + j/32) rounded to FP32 (R83). -/
def lnTable : List Nat :=
  [0x00000000, 0x3CFC14D8, 0x3D785186, 0x3DB78694, 0x3DF1383B, 0x3E14AA98, 0x3E2FF984, 0x3E4A92D5, 0x3E647FBE, 0x3E7DC8C3,
   0x3E8B3AE5, 0x3E974716, 0x3EA30C5E, 0x3EAE8DEE, 0x3EB9CEC0, 0x3EC4D19C, 0x3ECF991F, 0x3EDA27BC, 0x3EE47FBE, 0x3EEEA350,
   0x3EF8947B, 0x3F012A95, 0x3F05F397, 0x3F0AA61F, 0x3F0F42FB, 0x3F13CAF1, 0x3F183EBA, 0x3F1C9F07, 0x3F20EC7F, 0x3F2527C3,
   0x3F295169, 0x3F2D6A02, 0x3F317218]

/-- RC[j] = 1/(1 + j/32) rounded to FP32 (R83). -/
def rcTable : List Nat :=
  [0x3F800000, 0x3F783E10, 0x3F70F0F1, 0x3F6A0EA1, 0x3F638E39, 0x3F5D67C9, 0x3F579436, 0x3F520D21, 0x3F4CCCCD, 0x3F47CE0C,
   0x3F430C31, 0x3F3E82FA, 0x3F3A2E8C, 0x3F360B61, 0x3F321643, 0x3F2E4C41, 0x3F2AAAAB, 0x3F272F05, 0x3F23D70A, 0x3F20A0A1,
   0x3F1D89D9, 0x3F1A90E8, 0x3F17B426, 0x3F14F209, 0x3F124925, 0x3F0FB824, 0x3F0D3DCB, 0x3F0AD8F3, 0x3F088889, 0x3F064B8A,
   0x3F042108, 0x3F020821, 0x3F000000]

/-- The integer nearest to a finite value, ties to even. -/
def nearestInt (v : Val) : Int :=
  match v with
  | .fin neg m e =>
    let k : Int := (roundQuot (m * pow2 e) (pow2 (-e)) .rne : Nat)
    if neg then -k else k
  | _ => 0

/-- The FP32 encoding of an integer (exact for the integers used here). -/
def intF32 (n : Int) : W32 := toF32 (.fin (n < 0) n.natAbs 0)

/-- exp of R83. -/
def expF32 (x : W32) : W32 :=
  let v := f32Val x
  if v.isNan then nan32
  else if (Val.fin false 128 0).lt v then 0x7F800000#32
  else if v.lt (Val.fin true 150 0) then 0
  else
    let n := nearestInt (f32Val (f32Mul x k32))
    let nf := intF32 n
    let r := f32Sub (f32Sub x (f32Mul nf kCH)) (f32Mul nf kCL)
    let u := f32Add (f32Mul (f32Mul (f32Add (f32Mul (f32Add (f32Mul r 0x3D2AAAAB#32) 0x3E2AAAAB#32) r) 0x3F000000#32) r) r) r
    let i := (n % 32).toNat
    let k := (n - i) / 32
    let t := BitVec.ofNat 32 (expTable.getD i 0)
    let m := f32Add t (f32Mul t u)
    toF32 ((f32Val m).mul (.fin false 1 k))

/-- ln12 of R83, for 1 ≤ w ≤ 2. -/
def ln12F32 (w : W32) : W32 :=
  let d := f32Sub w 0x3F800000#32
  let j : Nat :=
    match f32Val d with
    | .fin false m e => (m * 32 * pow2 e) / pow2 (-e)
    | _ => 0
  let c := f32Add 0x3F800000#32 (toF32 (.fin false j (-5)))
  let f := f32Mul (f32Sub w c) (BitVec.ofNat 32 (rcTable.getD j 0))
  let q := f32Add (f32Mul (f32Mul (f32Sub (f32Mul (f32Add (f32Mul f 0xBE800000#32) 0x3EAAAAAB#32) f) 0x3F000000#32) f) f) f
  f32Add (BitVec.ofNat 32 (lnTable.getD j 0)) q

/-- Clear the sign. -/
def f32Abs (x : W32) : W32 := x &&& 0x7FFFFFFF#32
/-- Invert the sign. -/
def f32Neg (x : W32) : W32 := x ^^^ 0x80000000#32

/-- sigmoid (code 5). -/
def sigmoidF32 (x : W32) : W32 :=
  match f32Val x with
  | .nan => nan32
  | .inf s => if s then 0 else 0x3F800000#32
  | v =>
    let e := expF32 (f32Neg (f32Abs x))
    let q := f32Rcp (f32Add 0x3F800000#32 e)
    if v.lt (Val.fin false 0 0) then f32Mul e q else q

/-- ReLU (code 1). -/
def reluF32 (x : W32) : W32 := if (Val.fin false 0 0).lt (f32Val x) then x else 0

/-- The activations (R84); codes 7 to 15 are reserved and answered by the identity, which the out path refuses before it. -/
def actF32 (code : Nat) (x : W32) : W32 :=
  match f32Val x with
  | .nan => nan32
  | .inf neg =>
    match code with
    | 0 => x
    | 3 => if neg then 0x80000000#32 else x
    | 4 => if neg then 0x80000000#32 else x
    | 5 => if neg then 0 else 0x3F800000#32
    | _ => if neg then 0 else x
  | v =>
    match code with
    | 1 => reluF32 x
    | 2 => f32Mul (reluF32 x) (reluF32 x)
    | 3 => f32Mul x (sigmoidF32 x)
    | 4 =>
      f32Mul x (sigmoidF32 (f32Mul 0x3FCC422A#32 (f32Add x (f32Mul 0x3D372713#32 (f32Mul (f32Mul x x) x)))))
    | 5 => sigmoidF32 x
    | 6 =>
      if !(v.lt (Val.fin false 16 0)) then f32Add x (expF32 (f32Neg x))
      else if !((Val.fin true 16 0).lt v) then expF32 x
      else f32Add (if (Val.fin false 0 0).lt v then x else 0) (ln12F32 (f32Add 0x3F800000#32 (expF32 (f32Neg (f32Abs x)))))
    | _ => x

/-! ### MX blocks (R34) -/

/-- emax of the MX element formats (R34). -/
def mxEmax (fmt : Nat) : Int :=
  match fmt with
  | 5 => 8
  | 6 => 15
  | 8 => 2
  | _ => 0

/-- The largest finite magnitude of the element format, as m × 2^e (R29). -/
def mxMaxElem (fmt : Nat) : Nat × Int :=
  match fmt with
  | 5 => (448, 0)
  | 6 => (57344, 0)
  | 8 => (6, 0)
  | _ => (127, -6)

/-- Round a value, already divided by the block's 2^X, to an element encoding, saturating whatever the overflow mode (R34). -/
def mxElem (fmt : Nat) (rnd : RndMode) (v : Val) : Nat :=
  match v with
  | .fin neg m e =>
    match fmt with
    | 5 => (FForm.round ⟨4, 7, 3, false⟩ .sat rnd neg m 1 e).bits
    | 6 => (FForm.round ⟨5, 15, 2, true⟩ .sat rnd neg m 1 e).bits
    | 7 =>
      let k := min 127 (roundQuot (m * pow2 (e + 6)) (pow2 (-(e + 6))) rnd)
      if neg then (256 - k) % 256 else k
    | _ =>
      -- E2M1: encodings 0 to 7 are an exponent of 2 bits and a fraction of 1 bit with bias 1, every encoding finite
      let ex := max (log2Rat (max m 1) 1 + e) 0
      let q := ex - 1
      let k := roundQuot (m * pow2 (e - q)) (pow2 (q - e)) rnd
      let (k, ex) := if k = 4 then (2, ex + 1) else (k, ex)
      let mag := if k < 2 then k else min 7 (((ex + 1).toNat <<< 1) + (k - 2))
      (if neg then 8 else 0) + mag
  | _ => 0

/-- A converted MX block: its scale, its element encodings, whether a value overflowed and whether it holds a NaN (R34). -/
structure MxBlock where
  scale : Nat
  elems : List Nat
  ov : Bool
  nan : Bool
  deriving DecidableEq, Repr

/-- Convert the values of one block, with a rounding for each element (R34). An element that saturates at the element maximum because its
mantissa exceeds it does not count as a saturation for OVF_OUT; an infinity does (DESIGN CHOICE, log 205). -/
def mxBlock (fmt : Nat) (mode : OvMode) (vs : List (Val × RndMode)) : MxBlock :=
  let bad := vs.any fun v =>
    match v.1 with
    | .nan => true
    | .inf _ => mode = .ieee
    | _ => false
  if bad then ⟨255, vs.map fun _ => 0, false, true⟩
  else
    let (mm, me) := mxMaxElem fmt
    let ov := vs.any fun v =>
      match v.1 with
      | .inf _ => true
      | _ => false
    let ws := vs.map fun v =>
      match v.1 with
      | .inf neg => (Val.fin neg mm (me + 127), v.2)
      | w => (w, v.2)
    match maxLead (ws.map (·.1)) with
    | none => ⟨0, vs.map fun _ => 0, ov, false⟩
    | some a =>
      let x := max (-127) (min 127 (a - mxEmax fmt))
      ⟨(x + 127).toNat, ws.map fun w =>
        mxElem fmt w.2 (match w.1 with
          | .fin n m e => .fin n m (e - x)
          | v => v), ov, false⟩

end Sys2Proof.Machine
end

