-- ==== Sys2Proof/Machine/Ops.lean ====
section
/-! DEFINITION. The named operations that every command uses: replacing a component of the state, memory, time, outputs, units,
fault events, the Ledger and the attention causes. -/

namespace Sys2Proof.Machine

/-! ### Components -/

/-- Replace `pending`. -/
def State.setPending (s : State) (v : List Instr) : State := { s with pending := v }
/-- Replace `clk`. -/
def State.setClk (s : State) (v : Clk) : State := { s with clk := v }
/-- Replace `side`. -/
def State.setSide (s : State) (v : Side) : State := { s with side := v }
/-- Replace `ledger`. -/
def State.setLedger (s : State) (v : Ledger) : State := { s with ledger := v }
/-- Replace `chip`. -/
def State.setChip (s : State) (v : Chip) : State := { s with chip := v }
/-- Replace `comp`. -/
def State.setComp (s : State) (v : Comp) : State := { s with comp := v }
/-- Replace `mem`. -/
def State.setMem (s : State) (v : Mem) : State := { s with mem := v }
/-- Replace `place`. -/
def State.setPlace (s : State) (v : Place) : State := { s with place := v }
/-- Replace `cmd`. -/
def State.setCmd (s : State) (v : Cmd) : State := { s with cmd := v }
/-- Replace `quay`. -/
def State.setQuay (s : State) (v : Quay) : State := { s with quay := v }
/-- Replace `exch`. -/
def State.setExch (s : State) (v : Exch) : State := { s with exch := v }
/-- Replace `coll`. -/
def State.setColl (s : State) (v : Colls) : State := { s with coll := v }
/-- Replace `net`. -/
def State.setNet (s : State) (v : Net) : State := { s with net := v }
/-- Replace `health`. -/
def State.setHealth (s : State) (v : Health) : State := { s with health := v }
/-- Replace the accesses and frames that wait to leave. -/
def State.setWire (s : State) (v : Wire) : State := { s with wire := v }
/-- Replace `out`. -/
def State.setOut (s : State) (v : List Out) : State := { s with out := v }
/-- Replace `free`. -/
def State.setFree (s : State) (v : Nat) : State := { s with free := v }

/-! ### Memory (log 3) -/

/-- The key of a system address (R269). -/
def sysKey (a : Nat) : Nat := a
/-- The key of byte `ofs` of berth map entry `b`. -/
def berthKey (b ofs : Nat) : Nat := b * 2 ^ 48 + ofs
/-- The key of byte `ofs` of the operand SRAM of core `k`. -/
def sramKey (k ofs : Nat) : Nat := (65536 + k) * 2 ^ 48 + ofs
/-- The key of byte `ofs` of the instruction memory of core `k` (R316). -/
def imemKey (k ofs : Nat) : Nat := (196608 + k) * 2 ^ 48 + ofs
/-- The key of byte `ofs` of the flash (R377). -/
def flashKey (ofs : Nat) : Nat := 131072 * 2 ^ 48 + ofs

/-- The key of byte `ofs` of the page that `Net.stashIn` holds for a source under number `k` (R136). -/
def stashKey (k ofs : Nat) : Nat := 262144 * 2 ^ 48 + k * 2 ^ 21 + ofs

/-- One byte; an unlisted byte reads 0. -/
def cellGet (m : List Host.Cell) (k : Nat) : Byte :=
  match m with
  | [] => 0
  | (k', v) :: t => if k' = k then v else cellGet t k

/-- Write one byte, keeping the canonical form: keys rising, no entry holding 0. -/
def cellPut (m : List Host.Cell) (k : Nat) (v : Byte) : List Host.Cell :=
  match m with
  | [] => if v = 0 then [] else [(k, v)]
  | (k', v') :: t =>
    if k < k' then (if v = 0 then (k', v') :: t else (k, v) :: (k', v') :: t)
    else if k = k' then (if v = 0 then t else (k, v) :: t)
    else (k', v') :: cellPut t k v

/-- Every key is above `lo`, keys rise, and no entry holds 0. -/
def cellsWf (lo : Option Nat) (m : List Host.Cell) : Bool :=
  match m with
  | [] => true
  | (k, v) :: t =>
    (match lo with
      | none => true
      | some l => decide (l < k)) && v != 0 && cellsWf (some k) t

/-- Memory is in canonical form. -/
def Mem.wf (m : Mem) : Bool := cellsWf none m.cells

/-- Read `n` bytes from key `k`. -/
def Mem.read (m : Mem) (k n : Nat) : List Byte := (List.range n).map fun i => cellGet m.cells (k + i)

/-- Write bytes one after another from key `k`. -/
def cellsPut (m : List Host.Cell) (k : Nat) (bs : List Byte) : List Host.Cell :=
  match bs with
  | [] => m
  | b :: t => cellsPut (cellPut m k b) (k + 1) t

/-- The 64-byte blocks that `n` bytes from key `k` touch. -/
def blocksOf (k n : Nat) : List Nat :=
  if n = 0 then [] else (List.range ((k + n - 1) / 64 - k / 64 + 1)).map (· + k / 64)

/-- Do `n` bytes from key `k` touch block `b`? -/
def touches (k n b : Nat) : Bool := n != 0 && k < 64 * b + 64 && 64 * b < k + n

/-- Do `n` bytes from key `k` cover block `b` whole? -/
def covers (k n b : Nat) : Bool := k ≤ 64 * b && 64 * b + 64 ≤ k + n

/-- A store: a block written whole loses its POISON mark and its latent errors; a block written in part keeps them (R146). -/
def Mem.write (m : Mem) (k : Nat) (bs : List Byte) : Mem :=
  { cells := cellsPut m.cells k bs
    poison := m.poison.filter fun b => !covers k bs.length b
    errors := m.errors.keep fun b _ => !covers k bs.length b
    tiles := m.tiles.filter fun t => !(t < k + bs.length && k < t + 8) }

/-- Is a block of the range poisoned (R145)? -/
def Mem.poisoned (m : Mem) (k n : Nat) : Bool := m.poison.any (touches k n)

/-- Set a block's POISON mark (R144). -/
def Mem.addPoison (m : Mem) (b : Nat) : Mem :=
  { m with poison := if m.poison.contains b then m.poison else b :: m.poison }

/-- The destination blocks that receive a poisoned source block, when `n` bytes are copied from key `src` to key `dst` (R146). -/
def poisonedDst (m : Mem) (src dst n : Nat) : List Nat :=
  (m.poison.filter (touches src n)).flatMap fun b =>
    let lo := max (64 * b) src
    let hi := min (64 * b + 64) (src + n)
    blocksOf (dst + (lo - src)) (hi - lo)

/-- Forget every byte, mark and error from key `lo` up to but not including `hi`. -/
def Mem.forget (m : Mem) (lo hi : Nat) : Mem :=
  { cells := m.cells.filter fun c => c.1 < lo || hi ≤ c.1
    poison := m.poison.filter fun b => 64 * b < lo || hi ≤ 64 * b
    errors := m.errors.keep fun b _ => 64 * b < lo || hi ≤ 64 * b
    tiles := m.tiles.filter fun t => t < lo || hi ≤ t }

/-- A little-endian 64-bit word. -/
def Mem.word (m : Mem) (k : Nat) : W64 := BitVec.ofNat 64 (leNat (m.read k 8))

/-- Write bytes in the state's memory. -/
def State.writeMem (s : State) (k : Nat) (bs : List Byte) : State := s.setMem (s.mem.write k bs)

/-! ### Time (R12, R355) -/

/-- The always-on counter as a number. -/
def State.now (s : State) : Nat := s.clk.counter.toNat
/-- Counts of 40 ns in a microsecond. -/
def ticksPerUs : Nat := 25
/-- Counts in a millisecond. -/
def ticksPerMs : Nat := 25000
/-- Has `us` µs passed since the counter read `t`? -/
def State.after (s : State) (t us : Nat) : Bool := t + us * ticksPerUs ≤ s.now
/-- Whole microseconds since the counter read `t`. -/
def State.usSince (s : State) (t : Nat) : Nat := (s.now - t) / ticksPerUs
/-- The calendar in seconds, or 0 when none is set (R358). -/
def State.calendarNow (s : State) : Nat :=
  match s.clk.calendar with
  | none => 0
  | some (v, t) => v + (s.now - t) / 25000000

/-! ### Outputs and free values -/

/-- Send something out. -/
def State.emit (s : State) (o : Out) : State := s.setOut (o :: s.out)
/-- Send several things out, the first first. -/
def State.emitAll (s : State) (os : List Out) : State := s.setOut (os.reverse ++ s.out)
/-- A fresh free value (log 2). -/
def State.freeVal (s : State) : BitVec 4096 := Config.freeWord s.free
/-- Consume the free value. -/
def State.freeNext (s : State) : State := s.setFree (s.free + 1)

/-! ### Units (R324) -/

/-- A cluster's record. -/
def State.cluster (s : State) (c : Nat) : Cluster := s.chip.clusters.getD c Cluster.init
/-- A core's health record. -/
def State.coreHw (s : State) (k : Nat) : CoreHw := s.chip.cores.getD k (CoreHw.init k)
/-- A stack. -/
def State.stack (s : State) (i : Nat) : Stack := s.chip.hbm.getD i Stack.init
/-- A pseudo-channel, by index 64 × stack + pseudo-channel. -/
def State.pc (s : State) (i : Nat) : Pc := s.chip.pcs.getD i Pc.init
/-- Change a cluster. -/
def State.updCluster (s : State) (c : Nat) (f : Cluster → Cluster) : State :=
  s.setChip { s.chip with clusters := s.chip.clusters.put c (f (s.cluster c)) }
/-- Change a core's health record. -/
def State.updCoreHw (s : State) (k : Nat) (f : CoreHw → CoreHw) : State :=
  s.setChip { s.chip with cores := s.chip.cores.put k (f (s.coreHw k)) }
/-- Change a stack. -/
def State.updStack (s : State) (i : Nat) (f : Stack → Stack) : State :=
  s.setChip { s.chip with hbm := s.chip.hbm.put i (f (s.stack i)) }
/-- Change a pseudo-channel. -/
def State.updPc (s : State) (i : Nat) (f : Pc → Pc) : State :=
  s.setChip { s.chip with pcs := s.chip.pcs.put i (f (s.pc i)) }
/-- The cluster index of a core index: 204 × die + 17 × cluster + core (R324). -/
def clusterOf (k : Nat) : Nat := k / 17
/-- The die of a cluster index: 0 East, 1 West. -/
def dieOf (c : Nat) : Nat := c / 12
/-- Is the cluster enabled by fuse (R3)? -/
def State.enabled (s : State) (c : Nat) : Bool := c < 24 && s.chip.enMask.getLsbD c
/-- Is the cluster in service? -/
def State.inService (s : State) (c : Nat) : Bool := s.enabled c && (s.cluster c).svc != .retired && (s.cluster c).svc != .disabled
/-- The clusters in service, ascending. -/
def State.clustersIn (s : State) : List Nat := (List.range 24).filter s.inService
/-- Is the core in an enabled cluster, and working? -/
def State.workingCore (s : State) (k : Nat) : Bool := s.inService (clusterOf k) && (s.coreHw k).st = .working
/-- The stacks in service. -/
def State.stacksIn (s : State) : List Nat :=
  (List.range 16).filter fun i => (s.stack i).st = .inService || (s.stack i).st = .retiring
/-- Pseudo-channels retired on a stack. -/
def State.pcsRetired (s : State) (i : Nat) : Nat :=
  ((List.range 64).filter fun j => (s.pc (64 * i + j)).st = .retired).length
/-- Healthy pseudo-channels of a group (R141). -/
def State.healthy (s : State) (stack group : Nat) : Nat :=
  ((List.range 4).filter fun j => (s.pc (64 * stack + 4 * group + j)).st != .retired).length
/-- Berth capacity in bytes (R20, R141, R332). -/
def State.berthCap (s : State) : Nat :=
  ((s.stacksIn.map fun i => 64 - s.pcsRetired i).sum * 2 ^ 30) - 32 * 2 ^ 30
/-- The unit word of a fault event: w0 of REPAIR with KIND 0 (R325). -/
def unitWord (index pc stack core cluster die : Nat) : BitVec 32 :=
  BitVec.ofNat 32 (index % 256 * 2 ^ 24 + pc % 64 * 2 ^ 18 + stack % 16 * 2 ^ 14 + core % 32 * 2 ^ 9 + cluster % 16 * 2 ^ 5 + die % 2 * 2 ^ 4)
/-- The unit word of a core. -/
def coreUnit (k : Nat) : BitVec 32 := unitWord 0 0 0 (k % 17) (clusterOf k % 12) (dieOf (clusterOf k))
/-- The unit word of a cluster. -/
def clusterUnit (c : Nat) : BitVec 32 := unitWord 0 0 0 0 (c % 12) (dieOf c)
/-- The unit word of a pseudo-channel of a stack. -/
def pcUnit (stack pc : Nat) : BitVec 32 := unitWord 0 pc stack 0 0 0

/-! ### The Ledger (R370, R371) -/

/-- The largest value of a 64-bit saturating counter. -/
def sat64 : Nat := 2 ^ 64 - 1
/-- Add to a module counter, by word of the record, saturating (R370). -/
def Ledger.bump (l : Ledger) (w n : Nat) : Ledger := { l with ctr := l.ctr.put w (min sat64 (l.ctr.getD w 0 + n)) }
/-- Add to a module counter of the state. -/
def State.bump (s : State) (w n : Nat) : State := s.setLedger (s.ledger.bump w n)
/-- A module counter. -/
def State.counter (s : State) (w : Nat) : Nat := s.ledger.ctr.getD w 0
/-- Words of the module counter record (R371). -/
def ctrPowerS : Nat := 0
/-- RUN_S. -/
def ctrRunS : Nat := 1
/-- STARTS. -/
def ctrStarts : Nat := 2
/-- ENERGY_MJ. -/
def ctrEnergy : Nat := 5
/-- RESETS. -/
def ctrResets : Nat := 6
/-- WATCHDOG. -/
def ctrWatchdog : Nat := 7
/-- SUPPLY_TRIPS. -/
def ctrSupply : Nat := 8
/-- THERMAL_TRIPS. -/
def ctrThermal : Nat := 9
/-- CLAMP_ACTS. -/
def ctrClamp : Nat := 10
/-- DROOPS. -/
def ctrDroops : Nat := 11
/-- REPAIRS. -/
def ctrRepairs : Nat := 12
/-- FUSES. -/
def ctrFuses : Nat := 13
/-- PPR_HARD. -/
def ctrPprHard : Nat := 14
/-- RETIRED. -/
def ctrRetired : Nat := 15
/-- FW_ACT. -/
def ctrFwAct : Nat := 16
/-- RECOVERIES. -/
def ctrRecoveries : Nat := 17
/-- INCARNATION. -/
def ctrInc : Nat := 18
/-- RECHAR. -/
def ctrRechar : Nat := 19
/-- RECHAR_POWER_S. -/
def ctrRecharPower : Nat := 20
/-- RECHAR_CAL. -/
def ctrRecharCal : Nat := 21
/-- PERM_SEQ. -/
def ctrPermSeq : Nat := 22
/-- ORD_SEQ. -/
def ctrOrdSeq : Nat := 23
/-- ORD_LOST. -/
def ctrOrdLost : Nat := 24
/-- FLAGS. -/
def ctrFlags : Nat := 25
/-- CLASS[c] is word 25 + c. -/
def ctrClass (c : Nat) : Nat := 25 + c
/-- INJECTED. -/
def ctrInjected : Nat := 47

/-- POWER_S now: seconds with 54 V good (R371). -/
def State.powerS (s : State) : Nat := s.counter ctrPowerS

/-- An event record of this moment (R370); its sequence number is given when it is written. -/
def State.levent (s : State) (typ unit_ : Nat) (data : List Byte) (a b : BitVec 512) : LEvent :=
  { seq := 0, cal := s.calendarNow, powerS := s.powerS, inc := s.ledger.inc, typ := typ, unit_ := unit_, data := fit 32 data,
    measA := a, measB := b }

/-- Write an event to the ordinary area; when it is full the oldest is overwritten (R370). -/
def Ledger.writeOrd (l : Ledger) (e : LEvent) : Ledger :=
  let e := { e with seq := l.ctr.getD ctrOrdSeq 0 }
  let l := l.bump ctrOrdSeq 1
  if l.ord.length < 10922 then { l with ord := l.ord ++ [e] }
  else ({ l with ord := l.ord.tail ++ [e] }).bump ctrOrdLost 1

/-- Write an event to the permanent area; when it is full, to the ordinary area with PERM_FULL set (R370). -/
def Ledger.writePerm (l : Ledger) (e : LEvent) : Ledger :=
  if l.perm.length < 5461 then
    { l with perm := l.perm ++ [{ e with seq := l.ctr.getD ctrPermSeq 0 }] }.bump ctrPermSeq 1
  else
    let f := l.ctr.getD ctrFlags 0
    { l with ctr := l.ctr.put ctrFlags (f ||| 1) }.writeOrd e

/-- Record a permanent event. -/
def State.perm (s : State) (typ unit_ : Nat) (data : List Byte) : State :=
  s.setLedger (s.ledger.writePerm (s.levent typ unit_ data 0 0))
/-- Record a permanent event with measurements. -/
def State.permMeas (s : State) (typ : Nat) (data : List Byte) (a b : BitVec 512) : State :=
  s.setLedger (s.ledger.writePerm (s.levent typ 0 data a b))
/-- Record an ordinary event, which is written within 1 s (LEDGER_EVENT_WRITE). -/
def State.ord (s : State) (typ unit_ : Nat) (data : List Byte) : State :=
  s.setLedger { s.ledger with waiting := s.ledger.waiting ++ [s.levent typ unit_ data 0 0] }
/-- Write the counter snapshot (R370). -/
def State.snapshot (s : State) : State :=
  s.setLedger { s.ledger with snap := s.ledger.ctr, unitSnap := s.ledger.units, snapAt := s.now }

/-! ### Attention (R404) and fault events (R312, R313) -/

/-- Latch an attention cause bit. -/
def State.attn (s : State) (bit : Nat) : State :=
  s.setSide { s.side with attnCause := s.side.attnCause ||| BitVec.ofNat 32 (2 ^ bit) }
/-- HEALTH. -/
def causeHealth : Nat := 0
/-- CABLING. -/
def causeCabling : Nat := 1
/-- FIRMWARE. -/
def causeFirmware : Nat := 2
/-- THERMAL. -/
def causeThermal : Nat := 3
/-- SUPPLY. -/
def causeSupply : Nat := 4
/-- RESET. -/
def causeReset : Nat := 5
/-- LEDGER. -/
def causeLedger : Nat := 6
/-- ATTN_N asserted: a cause and its mask bit are set, or the stage-1 latch is, from 54 V good to 54 V lost (R404). -/
def State.attnN (s : State) : Bool :=
  s.side.v54 && (s.side.attnCause &&& s.side.attnMask != 0 || s.side.stage1Latch)

/-- UTYPE codes of unit counters (R371): stack. -/
def utStack : Option Nat := some 0
/-- Pseudo-channel. -/
def utPc : Option Nat := some 1
/-- Cluster. -/
def utCluster : Option Nat := some 2
/-- Core. -/
def utCore : Option Nat := some 3
/-- Fabric port. -/
def utPort : Option Nat := some 4
/-- Harbourmaster pair. -/
def utPair : Option Nat := some 5

/-- The unit counter's key: UTYPE, UNIT and CLASS. -/
def unitKey (utype : Nat) (unit_ : BitVec 32) (cls : Nat) : Nat := (utype * 2 ^ 32 + unit_.toNat) * 256 + cls

/-- Count a fault of a unit (R312, R371): masked, detected or injected. -/
def Ledger.unitFault (l : Ledger) (key : Nat) (injected : Bool) (outcome : Nat) : Ledger :=
  let u := l.units.getD key ⟨0, 0, 0⟩
  let u := if injected then { u with injected := min sat64 (u.injected + 1) }
    else if outcome = 0 then { u with masked := min sat64 (u.masked + 1) }
    else { u with detected := min sat64 (u.detected + 1) }
  { l with units := l.units.put key u }

/-- A fault event of class `cls` in a unit (R312, R313, R325): kept, counted in the Ledger and in every job's step; outcomes
3 to 5 raise the health cause. -/
def State.fault (s : State) (cls : Nat) (utype : Option Nat) (unit_ : BitVec 32) (port outcome : Nat) (injected : Bool) : State :=
  let e : FEvent := { time := s.now, cls := cls, injected := injected, outcome := outcome, port := port, unit_ := unit_ }
  let s := s.setHealth { s.health with events := (e :: s.health.events).take 4096, total := s.health.total + 1 }
  let l := s.ledger.bump (if injected then ctrInjected else ctrClass cls) 1
  let s := s.setLedger (match utype with
    | some u => l.unitFault (unitKey u unit_ cls) injected outcome
    | none => l)
  let s := s.setCmd { s.cmd with jobs := s.cmd.jobs.mapVals fun _ j => { j with evts := j.evts + 1 } }
  if 3 ≤ outcome then s.attn causeHealth else s

/-- A unit is quarantined (3), retired (4) or reset (5): the permanent event and the health cause; a retirement is counted (R313, R371). -/
def State.unitLost (s : State) (outcome reason : Nat) (unit_ : BitVec 32) : State :=
  let s := (s.perm 4 unit_.toNat (leBytes 1 outcome ++ leBytes 1 reason)).attn causeHealth
  if outcome = 4 then s.bump ctrRetired 1 else s

/-- Keep the times of the last 24 whole hours and the current hour (R325). -/
def recent (now : Nat) (ts : List Nat) : List Nat :=
  let hour := 90000000000
  ts.filter fun t => now / hour ≤ t / hour + 24

/-- A core's architectural state. -/
def State.coreOf (s : State) (k : Nat) : Core := s.comp.cores.getD k Core.init

/-- Take one armed injection of a class at a unit, if there is one (R344). -/
def State.takeInjection (s : State) (cls : Nat) (unit_ : BitVec 32) : Bool × State :=
  match s.health.armed.find? fun a => a.1 = cls && a.2.1 = unit_ && 0 < a.2.2 with
  | none => (false, s)
  | some a =>
    let l := s.health.armed.map fun b => if b = a then (b.1, b.2.1, b.2.2 - 1) else b
    (true, s.setHealth { s.health with armed := l.filter fun b => 0 < b.2.2 })

/-- Take an effect only when the event can occur in this state; otherwise the event does not occur and nothing changes (log 1). -/
def State.when (s : State) (c : Bool) (t : State) : Host.Outcome State Fault Refusal := .next (if c then t else s)

end Sys2Proof.Machine
end

