-- ==== Sys2Proof/Machine/SendOps.lean ====
section
/-! DEFINITION. Transport headers, fabric ports and sends (R239, R240, R247 to R254), and far flows and the Ethernet ports that carry them (R247,
R258 to R264). -/

namespace Sys2Proof

open Machine

/-! ### Frames in network byte order (R8, R262 to R264) -/

/-- The number that bytes spell, most significant first. -/
def beNat (bs : List Byte) : Nat := bs.foldl (fun n b => n * 256 + b.toNat) 0
/-- `n` bytes of a number, most significant first. -/
def beBytes (n x : Nat) : List Byte := (leBytes n x).reverse

/-- A field of a frame: `n` bytes from byte `b`. -/
def Frame.field (f : Frame) (b n : Nat) : Nat := beNat ((f.bytes.drop b).take n)
/-- Destination MAC address. -/
def Frame.dstMac (f : Frame) : BitVec 48 := BitVec.ofNat 48 (f.field 0 6)
/-- The frame goes to a group of stations. -/
def Frame.multicast (f : Frame) : Bool := f.dstMac.getLsbD 40
/-- Source MAC address. -/
def Frame.srcMac (f : Frame) : BitVec 48 := BitVec.ofNat 48 (f.field 6 6)
/-- The frame carries an 802.1Q tag. -/
def Frame.tagged (f : Frame) : Bool := f.field 12 2 = 0x8100
/-- The VLAN ID of a tagged frame. -/
def Frame.vlan (f : Frame) : Option (BitVec 12) := if f.tagged then some (BitVec.ofNat 12 (f.field 14 2)) else none
/-- Where the network header stands. -/
def Frame.net (f : Frame) : Nat := if f.tagged then 18 else 14
/-- The frame carries an IPv6 packet. -/
def Frame.isIpv6 (f : Frame) : Bool := f.field (f.net - 2) 2 = 0x86DD && 40 ≤ f.bytes.length - f.net && f.field f.net 1 / 16 = 6
/-- The IPv6 source address. -/
def Frame.src6 (f : Frame) : Option (BitVec 128) := if f.isIpv6 then some (BitVec.ofNat 128 (f.field (f.net + 8) 16)) else none
/-- The IPv6 destination address. -/
def Frame.dst6 (f : Frame) : Option (BitVec 128) := if f.isIpv6 then some (BitVec.ofNat 128 (f.field (f.net + 24) 16)) else none
/-- The upper-layer protocol that follows the IPv6 header. -/
def Frame.next (f : Frame) : Nat := if f.isIpv6 then f.field (f.net + 6) 1 else 256
/-- What follows the IPv6 header: as many bytes as its payload length says. -/
def Frame.upper (f : Frame) : List Byte := (f.bytes.drop (f.net + 40)).take (f.field (f.net + 4) 2)
/-- The frame carries a UDP datagram. -/
def Frame.isUdp (f : Frame) : Bool := f.next = 17 && 8 ≤ f.upper.length
/-- The UDP destination port. -/
def Frame.udpDst (f : Frame) : Option Nat := if f.isUdp then some (beNat ((f.upper.drop 2).take 2)) else none
/-- The data of a UDP datagram. -/
def Frame.body (f : Frame) : List Byte := f.upper.drop 8
/-- Neighbour discovery: ICMPv6 types 133 to 137 (RFC 4861). -/
def Frame.neighbourDiscovery (f : Frame) : Bool := f.next = 58 && 133 ≤ beNat (f.upper.take 1) && beNat (f.upper.take 1) ≤ 137
/-- The congestion mark of the IPv6 header: ECN field 11 (RFC 3168). -/
def Frame.ce (f : Frame) : Bool := f.isIpv6 && f.field f.net 2 / 16 % 4 = 3

/-- The sum of 16-bit words, most significant byte first, with end-around carry. -/
def onesSum (bs : List Byte) : Nat :=
  match bs with
  | [] => 0
  | [a] => a.toNat * 256
  | a :: b :: t =>
    let x := a.toNat * 256 + b.toNat + onesSum t
    x % 65536 + x / 65536

/-- The checksum over the IPv6 pseudo-header and an upper-layer packet (RFC 8200). -/
def upperSum (src dst : BitVec 128) (next : Nat) (bs : List Byte) : Nat :=
  65535 - onesSum (beBytes 16 src.toNat ++ beBytes 16 dst.toNat ++ beBytes 4 bs.length ++ beBytes 4 next ++ bs)

/-- The UDP checksum of a received datagram is there and right. -/
def Frame.udpSumOk (f : Frame) : Bool :=
  f.isUdp && beNat ((f.upper.drop 6).take 2) != 0 && upperSum (f.src6.getD 0) (f.dst6.getD 0) 17 f.upper % 65535 = 0

end Sys2Proof

namespace Sys2Proof.Machine

/-- This module's index (R245), or none before a cabling plan. -/
def State.ownIndex (s : State) : Option Nat := s.net.plan.map (·.own)

/-! ### The transport header (R247) -/

/-- TYPE. -/
def hType (h : BitVec 256) : Nat := bitsOf h.toNat 255 252
/-- CLASS. -/
def hClass (h : BitVec 256) : Nat := bitsOf h.toNat 251 249
/-- DST. -/
def hDst (h : BitVec 256) : Nat := bitsOf h.toNat 248 242
/-- SRC. -/
def hSrc (h : BitVec 256) : Nat := bitsOf h.toNat 241 235
/-- INC. -/
def hInc (h : BitVec 256) : BitVec 16 := h.extractLsb' 219 16
/-- FLOW. -/
def hFlow (h : BitVec 256) : Nat := bitsOf h.toNat 218 201
/-- PSN. -/
def hPsn (h : BitVec 256) : BitVec 24 := h.extractLsb' 177 24
/-- LEN. -/
def hLen (h : BitVec 256) : Nat := bitsOf h.toNat 176 164
/-- ADDR. -/
def hAddr (h : BitVec 256) : BitVec 64 := h.extractLsb' 96 64
/-- POISON. -/
def hPoison (h : BitVec 256) : BitVec 64 := h.extractLsb' 32 64
/-- PCRC. -/
def hPcrc (h : BitVec 256) : BitVec 32 := h.extractLsb' 0 32

/-- A transport header. -/
def mkHdr (typ cls dst src : Nat) (inc : BitVec 16) (flow : Nat) (psn : BitVec 24) (len : Nat) (addr poison : BitVec 64) (pcrc : BitVec 32) :
    BitVec 256 :=
  BitVec.ofNat 256 (typ % 16 * 2 ^ 252 + cls % 8 * 2 ^ 249 + dst % 128 * 2 ^ 242 + src % 128 * 2 ^ 235 + inc.toNat * 2 ^ 219 +
    flow % 2 ^ 18 * 2 ^ 201 + psn.toNat * 2 ^ 177 + len % 2 ^ 13 * 2 ^ 164 + addr.toNat * 2 ^ 96 + poison.toNat * 2 ^ 32 + pcrc.toNat)

/-- Traffic classes (R254). -/
def clsSignal : Nat := 0
/-- The exchange class. -/
def clsExchange : Nat := 1
/-- The collective class. -/
def clsCollective : Nat := 2
/-- The stash and placement class. -/
def clsStash : Nat := 3
/-- The peer-management class. -/
def clsPeer : Nat := 4

/-- The context of a domain flow of a job slot, a peer index and a class (R247; the order of the 40,960 contexts is the model's, log 15). -/
def domainFlow (job peer cls : Nat) : Nat := job * 640 + peer * 5 + cls
/-- The key of a flow to or from a module. -/
def flowKey (m flow : Nat) : Nat := m * 2 ^ 18 + flow

/-! ### Fabric ports and flits (R239, R240, R242, R243, R246, R250) -/

/-- A fabric port. -/
def State.port (s : State) (p : Nat) : Port := s.net.ports.getD p Port.init
/-- Change a fabric port. -/
def State.updPort (s : State) (p : Nat) (f : Port → Port) : State := s.setNet { s.net with ports := s.net.ports.put p (f (s.port p)) }
/-- The plan's entry for a port: expected fingerprint, far port and peer index. -/
def State.portPlan (s : State) (p : Nat) : Option (BitVec 64 × Nat × Nat) := s.net.plan.bind fun c => c.ports.get? p

/-- The port is trained: it runs at x4 or x2. -/
def Port.up (x : Port) : Bool := x.width != .down && x.training.isNone
/-- The port carries transport traffic: trained with the outcome MATCH or DEGRADED, under a plan (R245, R246). -/
def State.inUse (s : State) (p : Nat) : Bool :=
  let x := s.port p
  s.net.plan.isSome && x.up && x.checked && (x.cable = .ok || x.cable = .degraded) && !x.shutting && !x.shut
/-- The mask of ports in use. -/
def State.portMask (s : State) : Nat := (((List.range 36).filter s.inUse).map fun p => 2 ^ p).sum
/-- The port leads to a module (R250). -/
def State.leadsTo (s : State) (dst p : Nat) : Bool :=
  s.inUse p &&
    (if s.net.plan.any (·.direct) then (s.portPlan p).any (·.2.2 = dst) else (s.net.peers.get? dst).any (·.mask.getLsbD p))

/-- A flit header. -/
def flitHdr (seq ack : BitVec 12) (nak : Bool) (cls kind : Nat) (last : Bool) (len crcls cred : Nat) : BitVec 64 :=
  BitVec.ofNat 64 (seq.toNat * 2 ^ 52 + ack.toNat * 2 ^ 40 + 2 ^ 39 + (if nak then 2 ^ 38 else 0) + cls % 8 * 2 ^ 35 + kind % 4 * 2 ^ 33 +
    (if last then 2 ^ 32 else 0) + len % 256 * 2 ^ 24 + crcls % 16 * 2 ^ 20 + cred % 4096 * 2 ^ 8)
/-- SEQ. -/
def flitSeq (f : Flit) : BitVec 12 := f.hdr.extractLsb' 52 12
/-- ACK. -/
def flitAck (f : Flit) : BitVec 12 := f.hdr.extractLsb' 40 12
/-- CLASS. -/
def flitCls (f : Flit) : Nat := bitsOf f.hdr.toNat 37 35
/-- KIND. -/
def flitKind (f : Flit) : Nat := bitsOf f.hdr.toNat 34 33
/-- CRCLS. -/
def flitCrcls (f : Flit) : Nat := bitsOf f.hdr.toNat 23 20
/-- CRED. -/
def flitCred (f : Flit) : Nat := bitsOf f.hdr.toNat 19 8
/-- The CRC-32 of a flit, over its header and payload. -/
def flitSum (f : Flit) : BitVec 32 := crc32 (leBytes 8 f.hdr.toNat ++ f.payload)

/-- A flit of 256 bytes; payload bytes not in use are free values (log 2). -/
def State.mkFlit (s : State) (hdr : BitVec 64) (bytes : List Byte) : Flit :=
  let f : Flit := { hdr := hdr, payload := bytes ++ leBytes (244 - bytes.length) s.freeVal.toNat, crc := 0 }
  { f with crc := flitSum f }

/-- A class whose credits are owed to the far end, with their number. -/
def Port.owes (x : Port) : Nat × Nat := (x.owed.find? fun o => 0 < o.2).getD (0, 0)

/-- Send a link-control flit, which is not held for replay; it returns owed credits. It carries the next SEQ, which it does not advance, and class 0
(R239, R240; DESIGN CHOICE, log 217). -/
def State.linkFlit (s : State) (p : Nat) (nak : Bool) (bytes : List Byte) : State :=
  let x := s.port p
  let (c, n) := x.owes
  let h := flitHdr x.txSeq x.rxSeq nak 0 3 true bytes.length c (min n 4095)
  let f := s.mkFlit h bytes
  (((s.updPort p fun x => { x with owed := x.owed.put c (n - min n 4095) })).emit (.flit p f)).freeNext

/-- A flit of the class waits and the class has a credit (R240). -/
def Port.able (x : Port) (cls : Nat) : Bool := (x.queue.any fun q => q.cls = cls) && 0 < x.credits.getD cls 0

/-- The flits that a turn gives to a class, in the ratio 40 : 40 : 15 : 5; the scale is left open (R254; log 8). -/
def drrQuantum (cls : Nat) : Nat := [0, 8, 8, 3, 1].getD cls 0 * (Config.drrScale + 1)

/-- Deficit round robin of classes 1 to 4: the class whose turn it is, while its deficit lasts, else the next one that can send, which gains its
quantum; a class with nothing to send gives up its share (R254). -/
def Port.robin (x : Port) : Option (Nat × Port) :=
  let x := { x with deficit := x.deficit.filter fun d => x.queue.any fun q => q.cls = d.1 }
  match [1, 2, 3, 4].filter x.able with
  | [] => none
  | [c] => some (c, { x with turn := c, deficit := x.deficit.drop c })
  | c :: cs =>
    if (c :: cs).contains x.turn && 0 < x.deficit.getD x.turn 0 then some (x.turn, { x with deficit := x.deficit.put x.turn (x.deficit.getD x.turn 0 - 1) })
    else
      let d := ((c :: cs).find? (x.turn < ·)).getD c
      some (d, { x with turn := d, deficit := x.deficit.put d (x.deficit.getD d 0 + drrQuantum d - 1) })

/-- The class that sends next, and the port after it: a signal flit first, but no more than one in 8 flits while another class has flits waiting,
else as the round robin has it (R254). -/
def Port.pick (x : Port) (now : Nat) : Option (Nat × Port) :=
  let sig := if x.able 0 then some (0, { x with sigAt := now, sigGap := 0 }) else none
  if (x.queue.any fun q => q.cls != 0) && x.sigAt = now && x.sigGap < 7 then
    (x.robin.map fun r => (r.1, { r.2 with sigGap := r.2.sigGap + 1 })) <|> sig
  else sig <|> x.robin

/-- Flits of a port in use leave, each with a credit of its class, while fewer than 1,024 are unacknowledged (R239, R240). -/
def State.pump (s : State) (p fuel : Nat) : State :=
  match fuel with
  | 0 => s
  | fuel + 1 =>
    if s.inUse p && (s.port p).replay.length < 1024 then
      match (s.port p).pick s.now with
      | none => s
      | some (cls, x) =>
        match x.queue.find? (fun q => q.cls = cls) with
        | none => s
        | some q =>
          let (c, n) := x.owes
          let f := s.mkFlit (flitHdr x.txSeq x.rxSeq false q.cls q.kind q.last q.bytes.length c (min n 4095)) q.bytes
          let s := s.updPort p fun _ =>
            { x with txSeq := x.txSeq + 1, queue := x.queue.eraseP fun q => q.cls = cls, replay := x.replay ++ [f],
                     ackAt := if x.replay.isEmpty then s.now else x.ackAt, owed := x.owed.put c (n - min n 4095),
                     credits := x.credits.put q.cls (x.credits.getD q.cls 0 - 1) }
          ((s.emit (.flit p f)).freeNext).pump p fuel
    else s

/-- Pieces of at most `n` bytes. -/
def pieces (fuel n : Nat) (bs : List Byte) : List (List Byte) :=
  match fuel with
  | 0 => []
  | fuel + 1 => if bs.length ≤ n then [bs] else bs.take n :: pieces fuel n (bs.drop n)

/-- The bytes in use of each flit of a packet. -/
def flitPieces (h : BitVec 256) (payload : List Byte) : List (List Byte) := pieces 18 244 (leBytes 32 h.toNat ++ payload)

/-- The flits of a packet join a port's queue: the first holds the transport header and 212 bytes of payload, each other one 244 bytes. -/
def State.assign (s : State) (p : Nat) (h : BitVec 256) (payload : List Byte) (cmd : Option (Nat × Nat)) : State :=
  let ps := flitPieces h payload
  let fs := ps.zipIdx.map fun b => (⟨hClass h, if b.2 = 0 then 1 else 2, decide (b.2 + 1 = ps.length), b.1, cmd⟩ : Waiting)
  let s := s.updPort p fun x => { x with queue := x.queue ++ fs }
  s.pump p (s.port p).queue.length

/-- Flits of a class that stand in a port's queue. -/
def Port.queued (x : Port) (cls : Nat) : Nat := (x.queue.filter fun q => q.cls = cls).length

/-- The port with the fewest queued flits of the class among those that lead to the destination, the lowest among equals (R250). -/
def State.choosePort (s : State) (dst cls : Nat) : Option Nat :=
  ((List.range 36).filter (s.leadsTo dst)).foldl (fun acc p =>
    match acc with
    | none => some p
    | some q => if (s.port p).queued cls < (s.port q).queued cls then some p else some q) none

/-- A packet leaves on one port, its flits together; with no port to the destination it stays with its flow (R250). -/
def State.onWire (s : State) (h : BitVec 256) (payload : List Byte) (cmd : Option (Nat × Nat)) : State :=
  match s.choosePort (hDst h) (hClass h) with
  | none => s
  | some p => s.assign p h payload cmd

/-! ### Sends -/

/-- Send a packet of a domain flow; it is kept until it is acknowledged (R248, R251). Without a cabling plan the module has no index and
sends nothing (R245). -/
def State.sendPacket (s : State) (dst typ cls job : Nat) (addr : BitVec 64) (payload : List Byte) (poison : BitVec 64) (msg : Option Out)
    (cmd core : Option (Nat × Nat)) : State :=
  match s.ownIndex with
  | none => s
  | some own =>
    let flow := domainFlow job own cls
    let psn := s.net.txPsn.getD (flowKey dst flow) 0
    let h := mkHdr typ cls dst own s.ledger.inc flow psn payload.length addr poison (crc32c payload)
    let t : TxPkt := { dst := dst, flow := flow, psn := psn, hdr := h, payload := payload, sentAt := s.now, msg := msg, cmd := cmd, core := core }
    ((s.setNet { s.net with txPsn := s.net.txPsn.put (flowKey dst flow) (psn + 1), unacked := s.net.unacked ++ [t] }).emit
      (msg.getD (.packet h payload))).onWire h payload cmd

/-- The ADDR of a message packet: 0 a signal word, 1 the Ferry, 2 the collective engine, 3 an engine that needs no window (log 26). -/
def Out.code (o : Out) : Nat :=
  match o with
  | .signal _ _ _ => 0
  | .openMarker _ _ _ _ => 1
  | .candidate _ _ _ _ => 1
  | .endMarker _ _ _ _ _ _ => 1
  | .verdict _ _ _ _ _ => 1
  | .row _ _ _ _ _ => 1
  | .ret _ _ _ _ _ => 1
  | .contribution _ _ _ _ _ _ => 2
  | .arrivalMask _ _ _ _ _ _ _ => 2
  | .resultShard _ _ _ _ _ _ _ _ _ => 2
  | .collective _ _ _ _ _ => 2
  | .packet _ _ => 3
  | .grant _ _ _ => 3
  | .shootdown _ _ _ => 3
  | .heartbeat _ _ _ => 3
  | .far _ _ _ _ => 3
  | .pageEntry _ _ _ => 3
  | .flit _ _ => 3
  | .frame _ _ => 3
  | .osFrame _ _ => 3
  | .cricket _ _ _ => 3
  | .irq _ _ => 3
  | .i3c _ => 3

/-- The payload bytes of a message packet whose format is known: a signal's word and addend, a candidate, a verdict (R183, log 26). -/
def Out.bytes (o : Out) : List Byte :=
  match o with
  | .signal _ w a => leBytes 8 w.toNat ++ leBytes 8 a.toNat
  | .candidate _ _ w _ => leBytes 16 w.toNat
  | .verdict _ _ _ w _ => leBytes 8 w.toNat
  | _ => []

/-- Send a message of a job to a module for a command. -/
def State.sendMsg (s : State) (dst cls job : Nat) (cmd : Option (Nat × Nat)) (o : Out) : State :=
  s.sendPacket dst 5 cls job (BitVec.ofNat 64 o.code) o.bytes 0 (some o) cmd none

/-- A packet of TYPE 0x6 or 0x7 in answer to a packet: it is not itself acknowledged. -/
def State.answerPacket (s : State) (h : BitVec 256) (typ : Nat) (psn : BitVec 24) (reason : Nat) : State :=
  match s.ownIndex with
  | none => s
  | some own =>
    let a := mkHdr typ (hClass h) (hSrc h) own s.ledger.inc (hFlow h) psn 0 (BitVec.ofNat 64 reason) 0 (crc32c [])
    (s.emit (.packet a [])).onWire a [] none

/-! ### UDP and IPv6 headers (R8, R260) -/

/-- A UDP datagram, with its checksum; a sum of 0 is sent as all ones (RFC 768). -/
def udpBytes (src dst : BitVec 128) (sport dport : Nat) (data : List Byte) : List Byte :=
  let head := fun (c : Nat) => beBytes 2 sport ++ beBytes 2 dport ++ beBytes 2 (8 + data.length) ++ beBytes 2 c ++ data
  let c := upperSum src dst 17 (head 0)
  head (if c = 0 then 65535 else c)

/-- An IPv6 packet in an Ethernet frame, with an 802.1Q tag unless `vlan` is 0. The flow label is the implementation's (log 207). -/
def ipFrame (dstMac srcMac : BitVec 48) (vlan pcp dscp ecn hops : Nat) (src dst : BitVec 128) (next : Nat) (upper : List Byte) : Frame :=
  ⟨beBytes 6 dstMac.toNat ++ beBytes 6 srcMac.toNat ++ (if vlan = 0 then [] else beBytes 2 0x8100 ++ beBytes 2 (pcp % 8 * 2 ^ 13 + vlan % 4096)) ++
    beBytes 2 0x86DD ++ beBytes 4 (6 * 2 ^ 28 + dscp % 64 * 2 ^ 22 + ecn % 4 * 2 ^ 20 + Config.flowLabel.toNat) ++ beBytes 2 upper.length ++
    beBytes 1 next ++ beBytes 1 hops ++ beBytes 16 src.toNat ++ beBytes 16 dst.toNat ++ upper⟩

/-! ### Ethernet ports (R262, R264) -/

/-- An Ethernet port; 2 is the management lane. -/
def State.ethPort (s : State) (p : Nat) : EthPort := s.net.eth.getD p EthPort.init
/-- Change an Ethernet port. -/
def State.updEth (s : State) (p : Nat) (f : EthPort → EthPort) : State := s.setNet { s.net with eth := s.net.eth.put p (f (s.ethPort p)) }
/-- The transmit side of a port. -/
def State.txPort (s : State) (p : Nat) : TxPort := s.wire.tx.getD p TxPort.init
/-- Change the transmit side of a port. -/
def State.updTx (s : State) (p : Nat) (f : TxPort → TxPort) : State := s.setWire { s.wire with tx := s.wire.tx.put p (f (s.txPort p)) }
/-- The longest frame in bytes. -/
def maxFrame : Nat := 9216
/-- The line rate of a port in Mb/s. -/
def lineRate (port : Nat) : Nat := if port = 2 then 25000 else 800000

/-- A frame keeps the lock: its source MAC, its IPv6 source address and its VLAN ID stand in it; without a lock only neighbour discovery from a
link-local address does (R264). -/
def EthPort.passes (e : EthPort) (f : Frame) : Bool :=
  match e.lock with
  | none => f.neighbourDiscovery && f.src6.any fun a => a.extractLsb' 64 64 = 0xFE80000000000000#64
  | some l => f.srcMac = l.mac && (f.src6.all l.ips.contains) && f.vlan.all l.vlans.contains

/-- Bytes that a port may still send in the current 100 µs. -/
def EthPort.room (e : EthPort) (now : Nat) : Nat :=
  match e.lock with
  | none => 2 ^ 32
  | some l => l.rate * 100 / 8 - (if e.sentAt + 100 * 25 ≤ now then 0 else e.sent)

/-- Bytes have left a port, in the present 100 µs. -/
def EthPort.spend (e : EthPort) (now n : Nat) : EthPort :=
  if e.sentAt + 100 * 25 ≤ now then { e with sent := n, sentAt := now } else { e with sent := e.sent + n }

/-! #### The order in which frames leave (R254, R262) -/

/-- The class of the far flows that sends next: signal frames first, then deficit round robin of classes 1 to 4 in bytes (R254, R262). -/
def TxPort.farClass (x : TxPort) : Option (Nat × TxPort) :=
  let waits := fun (c : Nat) => x.far.any fun q => q.1 = c
  let size := fun (c : Nat) => ((x.far.find? fun q => q.1 = c).map fun q => q.2.bytes.length).getD 0
  if waits 0 then some (0, x)
  else
    match [1, 2, 3, 4].filter waits with
    | [] => none
    | [c] => some (c, { x with turn := c, deficit := [] })
    | c :: cs =>
      if (c :: cs).contains x.turn && size x.turn ≤ x.deficit.getD x.turn 0 then
        some (x.turn, { x with deficit := x.deficit.put x.turn (x.deficit.getD x.turn 0 - size x.turn) })
      else
        let d := ((c :: cs).find? (x.turn < ·)).getD c
        some (d, { x with turn := d, deficit := x.deficit.put d (x.deficit.getD d 0 + maxFrame * drrQuantum d - size d) })

/-- The frame that a port sends next, and the port without it: far flows and operating-system queues share the port by deficit round robin in the
ratio that software sets; a side with nothing waiting gives up its share (R262). -/
def TxPort.next (x : TxPort) (share : Nat × Nat) : Option (Frame × TxPort) :=
  let far := x.farClass.bind fun c => (c.2.far.find? fun q => q.1 = c.1).map fun q => (q.2, { c.2 with far := c.2.far.erase q })
  let os := x.os.head?.map fun q => (q.2, { x with os := x.os.drop 1 })
  match far, os with
  | none, o => o
  | some f, none => some f
  | some f, some o =>
    if f.1.bytes.length ≤ x.farLeft then some (f.1, { f.2 with farLeft := x.farLeft - f.1.bytes.length })
    else if o.1.bytes.length ≤ x.osLeft then some (o.1, { o.2 with osLeft := x.osLeft - o.1.bytes.length })
    else
      let left := x.farLeft + share.1 * maxFrame * (Config.drrScale + 1) - f.1.bytes.length
      some (f.1, { f.2 with farLeft := left, osLeft := x.osLeft + share.2 * maxFrame * (Config.drrScale + 1) })

/-- Frames of a port leave while its rate limit has room for them (R262, R264). -/
def State.ethPump (s : State) (p fuel : Nat) : State :=
  match fuel with
  | 0 => s
  | fuel + 1 =>
    match (s.txPort p).next s.net.farShare with
    | none => s
    | some (f, x) =>
      if f.bytes.length ≤ (s.ethPort p).room s.now then
        (((s.updTx p fun _ => x).updEth p fun e => e.spend s.now f.bytes.length).emit (.frame p f)).ethPump p fuel
      else s

/-- Frames that wait at a port. -/
def TxPort.waiting (x : TxPort) : Nat := x.far.length + x.os.length

/-! ### Far flows (R247, R258 to R261) -/

/-- The first context of a command far flow. -/
def farCmdBase : Nat := 73728
/-- The contexts of command far flows. -/
def farCmdCount : Nat := 188416
/-- The context of the shared far flow of a job, an endpoint and a class, 1 or 3 (R247; the order of the contexts is the model's, log 15). -/
def farShared (job ep cls : Nat) : Nat := 40960 + job * 512 + ep * 2 + (if cls = 1 then 0 else 1)

/-- A far flow as it opens: its timeout starts at 500 µs (R261). -/
def FarFlow.opened (ep cls : Nat) (cmd : Option (Nat × Nat)) (now : Nat) : FarFlow :=
  { ep := ep, cls := cls, cmd := cmd, nextRx := 0, heldRx := [], nextTx := 0, unacked := [], sentAt := now, timeout := 500, resends := 0,
    rate := 800000, rateAt := now, halvedAt := none, eceAt := now }

/-- What a far packet names beside its flow: the window number at the receiver, the offset, the length, the reason, and its poisoned blocks. -/
structure FarName where
  window : Nat
  ofs : Nat
  len : Nat
  reason : Nat
  poison : Nat

/-- A far packet that names nothing. -/
def FarName.bare : FarName := { window := 0, ofs := 0, len := 0, reason := 0, poison := 0 }

/-- The 64-byte far-transport header (R259). FLOW is the sender's own context at both ends (DESIGN CHOICE, log 15). -/
def State.farHeader (s : State) (typ cls flags ctx psn ack : Nat) (x : FarName) (payload : List Byte) : List Byte :=
  let h := leBytes 1 1 ++ leBytes 1 typ ++ leBytes 1 cls ++ leBytes 1 flags ++ leBytes 4 ctx ++ leBytes 4 psn ++ leBytes 4 ack ++
    leBytes 8 s.chip.fp.toNat ++ leBytes 2 s.ledger.inc.toNat ++ leBytes 2 (x.window % 4096) ++ leBytes 5 x.ofs ++ leBytes 1 x.reason ++
    leBytes 2 (if typ = 2 then x.len else payload.length) ++ leBytes 16 x.poison ++ leBytes 4 (crc32c payload).toNat ++ leBytes 4 0
  h ++ leBytes 4 (crc32c h).toNat

/-- The Ethernet port on which a far packet to an endpoint leaves: of those its entry names, the one with fewer frames waiting. -/
def State.farPortOf (s : State) (e : FarEp) : Nat :=
  if e.ports = 1 then 0
  else if e.ports = 2 then 1
  else if (s.txPort 1).waiting < (s.txPort 0).waiting then 1 else 0

/-- The frame of a far packet: addresses, VLAN, PCP and DSCP from the endpoint's entry, the source address from the port's lock, ECT(0) on a path that
uses ECN (R260, R261). The next hop's MAC address, the hop limit and the UDP source port are the implementation's (log 207). -/
def State.farWire (s : State) (e : FarEp) (l : AddrLock) (data : List Byte) : Frame :=
  let src := l.ips.headD 0
  ipFrame (Config.nextHop e.ipv6) l.mac e.vlan e.pcp e.dscp (if e.ecn then 2 else 0) Config.hopLimit.toNat src e.ipv6 17 (udpBytes src e.ipv6 s.net.farPort e.udpPort data)

/-- A far packet is given to an Ethernet port: it waits there for its share, or is dropped and counted when the port's lock does not let it pass (R260,
R262, R264). -/
def State.toPort (s : State) (ep cls typ psn : Nat) (hdr payload : List Byte) : State :=
  let s := s.emit (.far ep typ psn payload)
  match s.net.farEps.get? ep with
  | none => s
  | some e =>
    let p := s.farPortOf e
    match (s.ethPort p).lock with
    | none => s.updEth p fun x => { x with drops := x.drops + 1 }
    | some l =>
      let f := s.farWire e l (hdr ++ payload)
      if (s.ethPort p).passes f then s.updTx p fun x => { x with far := x.far ++ [(cls, f)] }
      else s.updEth p fun x => { x with drops := x.drops + 1 }

/-- The cumulative acknowledgement that a flow's packets carry. -/
def FarFlow.ack (f : FarFlow) : Nat := (f.nextRx + 2 ^ 32 - 1) % 2 ^ 32

/-- Send a packet that names something on a far flow, for a core or a command; it is kept until it is acknowledged. LAST is set on every packet but
those of a longer message that more packets follow. -/
def State.farSendFor (s : State) (ctx typ : Nat) (last : Bool) (x : FarName) (payload : List Byte) (core cmd : Option (Nat × Nat)) : State :=
  match s.net.farFlows.get? ctx with
  | none => s
  | some f =>
    let h := s.farHeader typ f.cls (if last then 2 else 0) ctx f.nextTx f.ack x payload
    let t : FarTx := { psn := f.nextTx, typ := typ, hdr := h, payload := payload, core := core, cmd := cmd }
    let g := { f with nextTx := f.nextTx + 1, unacked := f.unacked ++ [t], sentAt := if f.unacked.isEmpty then s.now else f.sentAt }
    (s.setNet { s.net with farFlows := s.net.farFlows.put ctx g }).toPort f.ep f.cls typ f.nextTx h payload

/-- Send a packet on a far flow, for the flow's command. -/
def State.farSend (s : State) (ctx typ : Nat) (payload : List Byte) : State :=
  s.farSendFor ctx typ true FarName.bare payload none ((s.net.farFlows.get? ctx).bind (·.cmd))

/-- Bytes of payload that one far packet carries (R260). -/
def FarEp.segment (e : FarEp) : Nat := max 64 (min 8192 ((e.mtu - 112) / 64 * 64))

/-- Bytes of payload that one packet of a far flow carries. -/
def State.farSegment (s : State) (ctx : Nat) : Nat := ((s.net.farFlows.get? ctx).bind fun f => s.net.farEps.get? f.ep).map FarEp.segment |>.getD 1152

/-- The shared far flow of a job, an endpoint and a class is open: it opens on first use and never fails (R259). -/
def State.farShare (s : State) (job ep cls : Nat) : State :=
  let ctx := farShared job ep cls
  if s.net.farFlows.has ctx then s
  else (s.setNet { s.net with farFlows := s.net.farFlows.put ctx (FarFlow.opened ep cls none s.now) }).farSend ctx 9 []

/-! ### Accesses that leave the module (R18, R118, R258, R259) -/

/-- Send a packet of a domain flow that carries no message, with a LEN of its own. -/
def State.sendAccess (s : State) (dst typ len : Nat) (w : Want) (addr : Nat) (payload : List Byte) (poison : Nat) : State :=
  match s.ownIndex with
  | none => s
  | some own =>
    let flow := domainFlow w.job own w.cls
    let psn := s.net.txPsn.getD (flowKey dst flow) 0
    let h := mkHdr typ w.cls dst own s.ledger.inc flow psn len (BitVec.ofNat 64 addr) (BitVec.ofNat 64 poison) (crc32c payload)
    let t : TxPkt := { dst := dst, flow := flow, psn := psn, hdr := h, payload := payload, sentAt := s.now, msg := none, cmd := w.cmd, core := w.core }
    ((s.setNet { s.net with txPsn := s.net.txPsn.put (flowKey dst flow) (psn + 1), unacked := s.net.unacked ++ [t] }).emit (.packet h payload)).onWire h
      payload w.cmd

/-- TYPE of an access. -/
def WantKind.typ (k : WantKind) : Nat :=
  match k with
  | .read => 2
  | .write _ => 1
  | .add _ => 4
  | _ => 5
/-- The payload of an access. -/
def WantKind.payload (k : WantKind) : List Byte :=
  match k with
  | .write bs => bs
  | .add bs => bs
  | _ => []
/-- The poisoned blocks of a write's payload, as they stand when it leaves (R146, R248). -/
def State.wantPoison (s : State) (w : Want) : Nat :=
  match w.kind with
  | .write bs =>
    (((List.range (ceilDiv bs.length 64)).filter fun i => s.mem.poisoned (w.key + 64 * i) (min 64 (bs.length - 64 * i))).map fun i => 2 ^ i).sum
  | _ => 0

/-- An access leaves: on the domain flow of its job and class to a peer, or on the shared far flow to an endpoint, which serves it at the window and the
offset of the far handle; a read then awaits its response (R248, R258, R259). -/
def State.sendWant (s : State) (w : Want) : State :=
  match w.kind with
  | .shootdown m h p => s.sendMsg m clsSignal w.job w.cmd (.shootdown m h p)
  | .entry m h p => s.sendMsg m clsPeer w.job w.cmd (.pageEntry m h p)
  | k =>
    let a := w.addr
    let s := if k = .read then s.setWire { s.wire with reads := s.wire.reads ++ [w] } else s
    if a / 2 ^ 62 = 1 then s.sendAccess (a / 2 ^ 52 % 1024) k.typ (if k = .read then w.len else k.payload.length) w a k.payload (s.wantPoison w)
    else
      let ep := a / 2 ^ 52 % 256
      let cls := if w.cls = 1 then 1 else 3
      (s.farShare w.job ep cls).farSendFor (farShared w.job ep cls) k.typ true
        { window := a / 2 ^ 40 % 4096, ofs := a % 2 ^ 40, len := w.len, reason := 0, poison := s.wantPoison w } k.payload w.core w.cmd

/-- The accesses that joined those waiting since there were `n` of them belong to a core and bundle or to a command, which waits for them. -/
def State.tagWants (s : State) (n : Nat) (core cmd : Option (Nat × Nat)) : State :=
  if s.wire.wants.length ≤ n then s
  else
    let tag := fun (w : Want) => if w.core.isNone && core.isNone then { w with cmd := cmd } else { w with core := w.core.bind fun _ => core <|> w.core }
    s.setWire { s.wire with wants := s.wire.wants.take n ++ (s.wire.wants.drop n).map tag }

/-- Every access that waits leaves, oldest first. -/
def State.sendWants (s : State) : State := s.wire.wants.foldl State.sendWant (s.setWire { s.wire with wants := [] })

end Sys2Proof.Machine
end

