-- ==== Sys2Proof/Machine/BerthOps.lean ====
section
/-! DEFINITION. Berths: handles, where a block of memory stands, what a read finds, what a write does to a page, and the choice of a page's
home (chapter 05). -/

namespace Sys2Proof.Machine

/-! ### Handles and spans (R93, R121) -/

/-- The INDEX field of a handle. -/
def handleIndex (h : BitVec 32) : Nat := h.toNat % 2 ^ 15
/-- The GEN field of a handle. -/
def handleGen (h : BitVec 32) : Nat := h.toNat / 2 ^ 16
/-- The handle of a map entry. -/
def mkHandle (gen index : Nat) : BitVec 32 := BitVec.ofNat 32 (gen * 2 ^ 16 + index)

/-- The berth that a handle names: its map entry holds it and its GEN is the current one (R121). -/
def State.berthAt (s : State) (h : BitVec 32) : Option Berth :=
  if h.getLsbD 15 then none
  else
    match s.place.berths.get? (handleIndex h) with
    | none => none
    | some b => if b.gen = handleGen h then some b else none

/-- Replace a berth map entry. -/
def State.putBerth (s : State) (i : Nat) (b : Berth) : State :=
  s.setPlace { s.place with berths := s.place.berths.put i b }

/-- Change a berth map entry that exists. -/
def State.updBerth (s : State) (i : Nat) (f : Berth → Berth) : State :=
  match s.place.berths.get? i with
  | none => s
  | some b => s.putBerth i (f b)

/-- Page size of a class (R120). -/
def pageSize (cls : Nat) : Nat := if cls = 0 || cls = 3 then 2 ^ 18 else 2 ^ 21
/-- Length limit of a class (R120). -/
def classLimit (cls : Nat) : Nat :=
  match cls with
  | 0 => 2 ^ 24
  | 3 => 2 ^ 22
  | _ => 992 * 2 ^ 30
/-- Pages of a length in a class. -/
def pagesFor (cls length : Nat) : Nat := ceilDiv length (pageSize cls)
/-- The pages that `n` bytes from `ofs` touch. -/
def pagesTouched (cls ofs n : Nat) : List Nat :=
  if n = 0 then []
  else (List.range ((ofs + n - 1) / pageSize cls - ofs / pageSize cls + 1)).map (· + ofs / pageSize cls)

/-- The memory key of byte `ofs` of a handle, for core `k` when the handle is 0 (R93). -/
def spanKey (k : Nat) (h : BitVec 32) (ofs : Nat) : Nat := if h = 0 then sramKey k ofs else berthKey (handleIndex h) ofs

/-- The length that a handle's offsets run over: a berth's, or 1 MiB of operand SRAM for handle 0. -/
def State.spanLen (s : State) (h : BitVec 32) : Option Nat :=
  if h = 0 then some (2 ^ 20) else (s.berthAt h).map (·.length)

/-- Does an access raise the address fault (R93)? -/
def State.addressBad (s : State) (h : BitVec 32) (ofs : Int) (n align : Nat) : Bool :=
  match s.spanLen h with
  | none => true
  | some len => ofs < 0 || len < ofs.toNat + n || ofs.toNat % align != 0

/-! ### Global addresses (R118) -/

/-- SPACE. -/
def gaSpace (a : Nat) : Nat := a / 2 ^ 62
/-- MODULE. -/
def gaModule (a : Nat) : Nat := a / 2 ^ 52 % 1024
/-- REGION. -/
def gaRegion (a : Nat) : Nat := a / 2 ^ 48 % 16
/-- STACK of a region offset. -/
def gaStack (a : Nat) : Nat := a / 2 ^ 36 % 16
/-- GROUP of a region offset. -/
def gaGroup (a : Nat) : Nat := a / 2 ^ 32 % 16
/-- GOFS of a region offset. -/
def gaGofs (a : Nat) : Nat := a % 2 ^ 32
/-- The cluster index of a harbour SRAM offset. -/
def gaCluster (a : Nat) : Nat := 12 * (a / 2 ^ 28 % 2) + a / 2 ^ 24 % 16
/-- The global address of byte 0 of a page. -/
def pageAddr (base : BitVec 46) : Nat := base.toNat * 2 ^ 18
/-- BASE of a global address. -/
def baseOf (a : Nat) : BitVec 46 := BitVec.ofNat 46 (a / 2 ^ 18)
/-- A local HBM address. -/
def hbmAddr (stack group gofs : Nat) : Nat := stack * 2 ^ 36 + group * 2 ^ 32 + gofs
/-- A harbour SRAM address. -/
def sramAddr (cluster hofs : Nat) : Nat := 2 ^ 48 + cluster / 12 * 2 ^ 28 + cluster % 12 * 2 ^ 24 + hofs

/-- Is the address on this module? A domain-peer address with the module's own index is (R118). -/
def State.isLocal (s : State) (a : Nat) : Bool := gaSpace a = 0 || (gaSpace a = 1 && s.ownIndex = some (gaModule a))

/-- Bytes that a group holds (R141): 1 GiB per healthy pseudo-channel. -/
def State.groupSize (s : State) (stack group : Nat) : Nat := s.healthy stack group * 2 ^ 30

/-- A reserved field of a region offset is not zero, or the region is reserved. -/
def badShape (a : Nat) : Bool :=
  match gaRegion a with
  | 0 => a / 2 ^ 40 % 2 ^ 8 != 0
  | 1 => a / 2 ^ 29 % 2 ^ 19 != 0 || 12 ≤ a / 2 ^ 24 % 16
  | _ => true

/-- An address of this module names no byte of it. -/
def State.badLocal (s : State) (a : Nat) : Bool :=
  badShape a ||
    (if gaRegion a = 0 then (s.stack (gaStack a)).st = .retired || s.groupSize (gaStack a) (gaGroup a) ≤ gaGofs a
    else !s.inService (gaCluster a))

/-- Does a transfer that carries the address end with the address fault or MALFORMED (R119)? -/
def State.badGlobal (s : State) (a : Nat) : Bool :=
  match gaSpace a with
  | 0 => gaModule a != 0 || s.badLocal a
  | 1 =>
    if s.ownIndex = some (gaModule a) then s.badLocal a
    else 127 < gaModule a || !(s.net.plan.any fun p => p.fps.has (gaModule a)) || badShape a
  | 2 => 2 ^ 20 ≤ a / 2 ^ 40 % 2 ^ 22
  | _ => true

/-! ### Where a block stands, and its errors (R141, R143 to R145, R316, R330) -/

/-- The unit that holds a block. -/
inductive MemUnit where
  | hbm (stack pc : Nat)
  | harbour (cluster bank : Nat)
  | core (k : Nat)
  | elsewhere
  deriving DecidableEq, Repr

/-- The pseudo-channel that holds byte `gofs` of a group: position n mod h of the healthy ones, n the 256-byte line (R141). -/
def State.pcOf (s : State) (stack group gofs : Nat) : Nat :=
  let h := ((List.range 4).map (4 * group + ·)).filter fun j => (s.pc (64 * stack + j)).st != .retired
  h.getD (gofs / 256 % max 1 h.length) (4 * group)

/-- The unit that holds a global address. -/
def State.unitAt (s : State) (a : Nat) : MemUnit :=
  if !s.isLocal a then .elsewhere
  else if gaRegion a = 0 then .hbm (gaStack a) (s.pcOf (gaStack a) (gaGroup a) (gaGofs a))
  else .harbour (gaCluster a) (a / 256 % 32)

/-- The stack that holds a system address: shares of 256 KiB units in ascending stack order (R143; DEDUCED, log 9). -/
def State.systemStack (s : State) (a : Nat) : Nat :=
  let step := fun (acc : Nat × Option Nat) (i : Nat) =>
    match acc.2 with
    | some r => (acc.1, some r)
    | none => if acc.1 < (s.stack i).sysUnits then (acc.1, some i) else (acc.1 - (s.stack i).sysUnits, none)
  ((s.stacksIn.foldl step (a / 2 ^ 18, none)).2).getD 0

/-- GOFS of a system address in the system group of its stack: the stack's share stands at the top of that group (R143). -/
def State.systemGofs (s : State) (a : Nat) : Nat :=
  let st := s.systemStack a
  let first := ((s.stacksIn.filter (· < st)).map fun i => (s.stack i).sysUnits * 2 ^ 18).sum
  s.groupSize st (s.stack st).sysGroup - (s.stack st).sysUnits * 2 ^ 18 + (a - first)

/-- The unit that holds a 64-byte block, by the block's key. -/
def State.unitOfBlock (s : State) (b : Nat) : MemUnit :=
  let key := 64 * b
  let hi := key / 2 ^ 48
  let lo := key % 2 ^ 48
  if hi = 0 then
    let st := s.systemStack lo
    .hbm st (s.pcOf st (s.stack st).sysGroup (s.systemGofs lo))
  else if hi < 32768 then
    match s.place.berths.get? hi with
    | none => .elsewhere
    | some bt =>
      match bt.pages.get? (lo / pageSize bt.cls) with
      | none => .elsewhere
      | some p => s.unitAt (pageAddr p.base + lo % pageSize bt.cls)
  else if 65536 ≤ hi && hi < 65536 + 408 then .core (hi - 65536)
  else if 196608 ≤ hi && hi < 196608 + 408 then .core (hi - 196608)
  else if 262144 ≤ hi then
    let n := key - stashKey 0 0
    match s.net.stashIn.get? (n / 2 ^ 21) with
    | none => .elsewhere
    | some f => s.unitAt (f * 2 ^ 18 + n % 2 ^ 21)
  else .elsewhere

/-- A pseudo-channel of the group is being retired: the group is emptied, and takes no page (R332). -/
def State.emptying (s : State) (stack group : Nat) : Bool :=
  (List.range 4).any fun j => (s.pc (64 * stack + 4 * group + j)).st = .retiring

/-- The share of a stack moves to another of its groups, when the group that holds it is to be emptied (R143): the lowest one that is whole. -/
def State.moveShare (s : State) (stack group : Nat) : State :=
  if (s.stack stack).sysGroup != group then s
  else
    match (List.range 16).find? fun g => g != group && !s.emptying stack g && (s.stack stack).sysUnits * 2 ^ 18 ≤ s.groupSize stack g with
    | some g => s.updStack stack fun x => { x with sysGroup := g }
    | none => s

/-- A pseudo-channel that is not yet retired is to be: its group is emptied, and takes no page (R143, R330, R332). -/
def State.startRetirePc (s : State) (stack pc : Nat) : State :=
  if (s.pc (64 * stack + pc)).st = .retired then s
  else
    let s := s.updPc (64 * stack + pc) fun p => { p with st := .retiring }
    let s := if s.chip.retiring.contains (.pc stack pc) then s else s.setChip { s.chip with retiring := s.chip.retiring ++ [.pc stack pc] }
    s.moveShare stack (pc / 4)

/-- The fewest repair resources left in any bank of a pseudo-channel (R325 PPR_LEFT). -/
def Pc.resourcesLeft (x : Pc) : Nat := x.pprLeft - x.pprSpent.foldl (fun m e => max m e.2) 0

/-- A row of a bank of the pseudo-channel fails: soft post-package repair at once, which spends one of the bank's resources, or retirement when the
bank has none left (R148, R330). Which bank holds a block is the stack's own matter (log 206). -/
def State.rowFailed (s : State) (stack pc block : Nat) : State :=
  let i := 64 * stack + pc
  let bank := Config.bankOf i block
  if (s.pc i).pprLeft ≤ (s.pc i).pprSpent.getD bank 0 then s.startRetirePc stack pc
  else s.updPc i fun p =>
    { p with pprSpent := p.pprSpent.upd bank 0 (· + 1), pprUsed := min 255 (p.pprUsed + 1), pprSoft := min 255 (p.pprSoft + 1) }

/-- Corrected errors within the last hour (R330). -/
def withinHour (now : Nat) (ts : List Nat) : Nat := (ts.filter fun t => now ≤ t + 90000000000).length

/-- A moment lies within the last 24 h. -/
def withinDay (now t : Nat) : Bool := now ≤ t + 24 * 90000000000

/-- A read of block `b` in unit `u` meets `n` erroneous symbols (as `Mem.errors` codes them): correct or poison it, count it, and repair the row (R145, R316, R330, R345). -/
def State.blockError (s : State) (u : MemUnit) (b : Nat) (code : Nat) : State :=
  let injected := 4 ≤ code
  let two := code % 4 = 2
  let s := s.setMem { s.mem with errors := s.mem.errors.drop b }
  let s := if two then s.setMem (s.mem.addPoison b) else s
  match u with
  | .hbm stack pc =>
    let s := s.fault (if two then 2 else 1) utPc (pcUnit stack pc) 0 (if two then 1 else 0) injected
    -- the stack's own unit counter (R145, R371)
    let s := s.setLedger (s.ledger.unitFault (unitKey 0 (pcUnit stack 0) (if two then 2 else 1)) injected (if two then 1 else 0))
    if two then
      let s := s.updStack stack fun x => { x with ue := min 65535 (x.ue + 1) }
      let s := s.updPc (64 * stack + pc) fun x => { x with ue := min 65535 (x.ue + 1) }
      if injected then s else s.rowFailed stack pc b
    else
      let s := s.updStack stack fun x => { x with ce := s.now :: recent s.now x.ce }
      let s := s.updPc (64 * stack + pc) fun x => { x with ce := s.now :: recent s.now x.ce }
      if injected then s
      else
        let s := if code % 4 = 3 then s.rowFailed stack pc b else s
        if 1000 ≤ withinHour s.now (s.pc (64 * stack + pc)).ce then s.startRetirePc stack pc else s
  | .harbour c bank =>
    let s := s.fault 3 utCluster (clusterUnit c) 0 (if two then 1 else 0) injected
    if two then
      s.updCluster c fun x =>
        { x with sramUe := min 255 (x.sramUe + 1), sramBad := if injected then x.sramBad else (bank, s.now) :: x.sramBad.filter fun e => withinDay s.now e.2 }
    else s.updCluster c fun x => { x with sramCe := s.now :: recent s.now x.sramCe }
  | .core k => s.fault 4 utCore (coreUnit k) 0 (if two then 1 else 0) injected
  | .elsewhere => s

/-- Find the latent errors of the blocks that `n` bytes from a key touch (R145). -/
def State.discover (s : State) (key n : Nat) : State :=
  (s.mem.errors.filter fun e => touches key n e.1).foldl (fun s e => s.blockError (s.unitOfBlock e.1) e.1 e.2) s

/-- An armed symbol injection acts at the next block written in its unit (R344). -/
def State.injectOnWrite (s : State) (b : Nat) : State :=
  if s.health.armed.isEmpty then s
  else
    let put := fun (s : State) (n : Nat) => s.setMem { s.mem with errors := s.mem.errors.put b (4 + n) }
    match s.unitOfBlock b with
    | .hbm stack pc =>
      let (hit, t) := s.takeInjection 2 (pcUnit stack pc)
      if hit then put t 2
      else
        let (hit, t) := s.takeInjection 1 (pcUnit stack pc)
        if hit then put t 1 else s
    | .harbour c _ =>
      let (hit, t) := s.takeInjection 3 (clusterUnit c)
      if hit then (put t (if t.freeVal.getLsbD 0 then 2 else 1)).freeNext else s
    | .core k =>
      let (hit, t) := s.takeInjection 4 (coreUnit k)
      if hit then (put t (if t.freeVal.getLsbD 0 then 2 else 1)).freeNext else s
    | .elsewhere => s

/-- A store of some bytes from a key, with what an armed injection does to the first block it writes. -/
def State.store (s : State) (key : Nat) (bs : List Byte) : State :=
  let s := s.writeMem key bs
  if bs.isEmpty then s else s.injectOnWrite (key / 64)

/-- Maximal runs of the bytes that are present, as (offset, bytes). -/
def runsOf (at_ : Nat) (bs : List (Option Byte)) : List (Nat × List Byte) :=
  match bs with
  | [] => []
  | none :: t => runsOf (at_ + 1) t
  | some b :: t =>
    match runsOf (at_ + 1) t with
    | (o, r) :: rest => if o = at_ + 1 then (at_, b :: r) :: rest else (at_, [b]) :: (o, r) :: rest
    | [] => [(at_, [b])]

/-! ### Long-accumulator records in memory (R109, R110) -/

/-- The 48 bytes of an entry's record. -/
def LaEntry.bytes (x : LaEntry) : List Byte := leBytes 40 x.value.toNat ++ leBytes 8 x.status.toNat

/-- Does the record at `key` meet the `n` bytes from `at_`? -/
def recordMeets (key at_ n : Nat) : Bool := key < at_ + n && at_ < key + 48

/-- Bring the memory of a range up to date with the entries that hold its records. -/
def State.laSync (s : State) (key n : Nat) : State :=
  (s.comp.las.filter fun e => recordMeets e.1 key n).foldl (fun s e => s.writeMem e.1 e.2.bytes) s

/-- Write back and evict the entries that hold records of a range. -/
def State.laEvict (s : State) (key n : Nat) : State :=
  let s := s.laSync key n
  s.setComp { s.comp with las := s.comp.las.keep fun e _ => !recordMeets e key n }

/-- The entry of a record: in use, or loaded from memory. -/
def State.laEntry (s : State) (key : Nat) : LaEntry :=
  match s.comp.las.get? key with
  | some e => e
  | none => LaEntry.ofBits (BitVec.ofNat 320 (leNat (s.mem.read key 40))) (s.mem.word (key + 40))

/-! ### Choosing a page's home (R120, R136, R139, R141 to R143) -/

/-- Frames of 256 KiB that a page of the berth takes. -/
def Berth.frames (b : Berth) : Nat := pageSize b.cls / 2 ^ 18

/-- Read-only replicas of a page (R135). -/
def Page.replicas (x : Page) : Nat := x.copies.length

/-- The job's command stream as its step has it so far: the step counter, the accepted packets, and the accepted routes (R139, R392). -/
def Job.stream (j : Job) : List Byte := leBytes 8 j.step.toNat ++ (j.cmdLog.valList).flatten ++ j.planLog.flatMap (·.2.2)

/-- What a choice of the Harbourmaster for a job is made by: a free value, or for a frozen job a fixed function of its command stream and of what is
chosen (R139; log 208). -/
def State.pickFor (s : State) (job item : Nat) : Nat × State :=
  match s.cmd.jobs.get? job with
  | some j => if j.frozen then ((Config.frozenWord j.stream item).toNat % 2 ^ 32, s) else (s.freeVal.toNat % 2 ^ 32, s.freeNext)
  | none => (s.freeVal.toNat % 2 ^ 32, s.freeNext)

/-- Frames of 256 KiB that the pages of the module hold: first frame and count. A move holds its old and new frames. -/
def State.framesHeld (s : State) : List (Nat × Nat) :=
  (s.place.berths.flatMap fun ib =>
    let n := pageSize ib.2.cls / 2 ^ 18
    ib.2.pages.flatMap fun ip =>
      (ip.2.base.toNat, n) :: ((ip.2.goal.toList ++ ip.2.old.toList).map fun b => (b.toNat, n)))
  ++ (s.net.stashIn.valList.map fun f => (f, 8))

/-- Are `n` frames from `f` all free? -/
def framesFree (held : List (Nat × Nat)) (f n : Nat) : Bool := held.all fun h => f + n ≤ h.1 || h.1 + h.2 ≤ f

/-- Usable 256 KiB frames of a group: its size less its part of the system region (R143). -/
def State.groupFrames (s : State) (stack group : Nat) : Nat :=
  if (s.stack stack).st = .inService && !s.emptying stack group then
    s.groupSize stack group / 2 ^ 18 - (if (s.stack stack).sysGroup = group then (s.stack stack).sysUnits else 0)
  else 0

/-- The first frame of a free page of `n` frames in a group, if there is one; `pick` is the Harbourmaster's choice. -/
def State.frameIn (s : State) (held : List (Nat × Nat)) (stack group n pick : Nat) : Option Nat :=
  let slots := s.groupFrames stack group / n
  let f0 := hbmAddr stack group 0 / 2 ^ 18
  (choose slots (pick % max 1 slots) fun j => framesFree held (f0 + n * j) n).map fun j => f0 + n * j

/-- The die that a berth's HBM pages prefer (R142). -/
def Berth.die (b : Berth) : Nat :=
  if b.acting.getLsbD 9 then 1
  else if b.acting.getLsbD 8 then 0
  else if b.pages.sumBy (fun _ p => p.heatE) < b.pages.sumBy (fun _ p => p.heatW) then 1 else 0

/-- Pages of the berth on a pair of stack and group, by pair number 16 × stack + group. -/
def Berth.onPair (b : Berth) (pair : Nat) : Nat :=
  (b.pages.filter fun p =>
    let a := pageAddr p.2.base
    gaSpace a = 0 && gaRegion a = 0 && gaStack a = pair / 16 && gaGroup a = pair % 16).length

/-- A frame in local HBM on one die: the pairs least used by the berth that have room, then one of them (R142). -/
def State.hbmOnDie (s : State) (held : List (Nat × Nat)) (b : Berth) (die n pick : Nat) : Option Nat :=
  let pairs := ((List.range 128).map (128 * die + ·)).filter fun p => (s.frameIn held (p / 16) (p % 16) n 0).isSome
  match (pairs.map b.onPair).min? with
  | none => none
  | some least =>
    let best := pairs.filter fun p => b.onPair p = least
    let p := best.getD (pick % max 1 best.length) 0
    s.frameIn held (p / 16) (p % 16) n (pick / 256)

/-- A frame in local HBM, on the preferred die first. -/
def State.hbmFrame (s : State) (b : Berth) (pick : Nat) : Option Nat :=
  let held := s.framesHeld
  let n := pageSize b.cls / 2 ^ 18
  match s.hbmOnDie held b b.die n pick with
  | some f => some f
  | none => s.hbmOnDie held b (1 - b.die) n pick

/-- A stash berth as the Harbourmaster places pages for others. -/
def stashBerth : Berth :=
  { gen := 0, job := 0, shared := none, length := 0, cls := 2, hints := 0, acting := 0, desc := 0, freeing := false, pages := [], migrations := 0, pinAt := none,
    resLocal := 0, pool := none, listed := 0 }

/-- Harbour SRAM frames reserved in a cluster by pinned berths, placed or not (R138). -/
def State.pinnedFrames (s : State) (c : Nat) : Nat :=
  s.place.berths.sumBy fun _ b => if b.pinAt = some c then pagesFor b.cls b.length else 0

/-- Harbour SRAM frames that unpinned pages hold in a cluster. -/
def State.hotFrames (s : State) (c : Nat) : Nat :=
  s.place.berths.sumBy fun _ b =>
    if b.pinAt = some c then 0
    else b.pages.sumBy fun _ p =>
      let at_ := fun (x : BitVec 46) => gaSpace (pageAddr x) = 0 && gaRegion (pageAddr x) = 1 && gaCluster (pageAddr x) = c
      if at_ p.base || p.goal.any at_ then 1 else 0

/-- A free harbour SRAM frame of a cluster. -/
def sramFrameIn (held : List (Nat × Nat)) (c pick : Nat) : Option Nat :=
  let f0 := sramAddr c 0 / 2 ^ 18
  (choose 64 (pick % 64) fun j => framesFree held (f0 + j) 1).map (f0 + ·)

/-- A free harbour SRAM frame for a hot page, in any cluster in service with room beside its pinned pages. -/
def State.sramFrame (s : State) (pick : Nat) : Option Nat :=
  let held := s.framesHeld
  match choose 24 (pick % 24) fun c =>
      s.enabled c && (s.cluster c).svc = .inService && s.hotFrames c + s.pinnedFrames c < 64 && (sramFrameIn held c 0).isSome with
  | none => none
  | some c => sramFrameIn held c (pick / 32)

/-- Is a page's home in local HBM? -/
def inLocalHbm (base : BitVec 46) : Bool := gaSpace (pageAddr base) = 0 && gaRegion (pageAddr base) = 0

/-- Bytes of local HBM reserved by berths, and held by other stash pages and peers' stash pages. -/
def State.localUsed (s : State) : Nat :=
  (s.place.berths.sumBy fun _ b =>
    if b.resLocal != 0 then b.resLocal else (b.pages.filter fun p => inLocalHbm p.2.base).length * 2 ^ 21) + s.net.stashIn.length * 2 ^ 21

/-- Local free berth capacity in bytes. -/
def State.localFree (s : State) : Nat := s.berthCap - s.localUsed

/-- SHORTFALL: bytes of berth reservations above berth capacity (R333). -/
def State.shortfall (s : State) : Nat := s.localUsed - s.berthCap

/-- The stash reserve: 5% of berth capacity, rounded down to whole 2 MiB pages (R136). -/
def State.stashReserve (s : State) : Nat := s.berthCap * 5 / 100 / 2 ^ 21 * 2 ^ 21

/-- A window entry grants stash room: VALID, STASH, and STASH_USED × 2 MiB below STASH_BYTES (R257). -/
def stashRoom (e : BitVec 256) : Bool :=
  e.getLsbD 40 && e.getLsbD 25 && (bitsOf e.toNat 23 0 + 1) * 2 ^ 21 ≤ bitsOf e.toNat 95 56

/-- Is a peer module present? -/
def State.peerPresent (s : State) (m : Nat) : Bool := (s.net.peers.get? m).any (·.present)

/-- A far endpoint is present. -/
def State.farPresent (s : State) (ep : Nat) : Bool := (s.net.farEps.get? ep).any (·.present)

/-- The grant mirror's first entry with stash room at a present peer (source below 128), or at a present far endpoint (source 256 + index). -/
def State.stashWindow (s : State) (far : Bool) : Option (Nat × BitVec 256) :=
  s.net.mirror.find? fun e =>
    let src := e.1 / 4096
    stashRoom e.2 &&
      (if far then 256 ≤ src && (s.net.farEps.get? (src - 256)).any (·.present) else src < 128 && s.peerPresent src)

/-- Where a stash page goes (R125, R136): local HBM above the reserve, then a peer's HBM, then a far berth, as the hints allow: with NO_PEER a
page never leaves the module. -/
def State.stashHome (s : State) (b : Berth) (pick : Nat) (outward : Bool) : Option (BitVec 46) × State :=
  let here := if !outward && s.stashReserve < s.localFree then s.hbmFrame b pick else none
  match here with
  | some f => (some (BitVec.ofNat 46 f), s)
  | none =>
    let count := fun (k : Nat) (e : BitVec 256) => s.setNet { s.net with mirror := s.net.mirror.put k (e + 1) }
    match (if b.acting.getLsbD 10 then none else s.stashWindow false) with
    | some (k, e) =>
      -- the peer chooses the frame: a free value in its HBM
      (some (baseOf (2 ^ 62 + k / 4096 * 2 ^ 52 + pick % 2 ^ 8 * 2 ^ 32 + pick / 2 ^ 8 % 2 ^ 9 * 2 ^ 21)), count k e)
    | none =>
      match (if b.acting.getLsbD 10 || b.acting.getLsbD 11 then none else s.stashWindow true) with
      | some (k, e) =>
        (some (baseOf (2 ^ 63 + ((k / 4096 - 256) * 4096 + k % 4096) * 2 ^ 40 + bitsOf e.toNat 23 0 * 2 ^ 21)), count k e)
      | none => if outward || s.shortfall != 0 then (none, s) else ((s.hbmFrame b pick).map (BitVec.ofNat 46 ·), s)

/-! ### Replicas, shadow lines and what makes room for pages (R133, R135, R150, R153, R154, R156) -/

/-- Bytes of migration in any 1 ms window: 5% of the HBM bandwidth, or 20% for the moves off a retiring unit (R133). -/
def migrationCap (retire : Bool) : Nat := if retire then 8192000000 else 2048000000

/-- Bytes of migration in the last 1 ms. -/
def State.migrated (s : State) (retire : Bool) : Nat :=
  (((if retire then s.chip.migRetire else s.chip.migBytes).filter fun e => s.now < e.1 + 1000 * ticksPerUs).map (·.2)).sum

/-- Bytes that the pages now moving may still have copied again, as they were written meanwhile (R132). -/
def State.recopies (s : State) : Nat :=
  s.place.berths.sumBy fun _ b => b.pages.sumBy fun _ p => if p.st = .migrating && p.goal.isSome then 2 * pageSize b.cls else 0

/-- Does the migration cap still allow `n` bytes, and the bytes that moves under way may need again? -/
def State.capAllows (s : State) (retire : Bool) (n : Nat) : Bool := s.migrated retire + s.recopies + n ≤ migrationCap retire

/-- Count migration, over a window of 1 ms. -/
def State.migrates (s : State) (retire : Bool) (n : Nat) : State :=
  let add := fun (l : List (Nat × Nat)) => (s.now, n) :: l.filter fun e => s.now < e.1 + 1000 * ticksPerUs
  s.setChip (if retire then { s.chip with migRetire := add s.chip.migRetire } else { s.chip with migBytes := add s.chip.migBytes })

/-- Count one placement change of a job (R140). -/
def State.placeChange (s : State) (job : Nat) : State :=
  match s.cmd.jobs.get? job with
  | none => s
  | some j => s.setCmd { s.cmd with jobs := s.cmd.jobs.put job { j with placeChg := j.placeChg + 1 } }

/-- The modules that a window names. -/
def Window.modules (w : Window) : List Nat := if w.farEp.isSome then [] else (List.range 128).filter w.sources.getLsbD

/-- Modules that a window lets reach the berth, whose translation caches may hold the page's entry. -/
def State.sharers (s : State) (i gen : Nat) : List Nat :=
  ((s.net.windows.filter fun w => handleIndex w.2.berth = i && handleGen w.2.berth = gen).flatMap fun w => w.2.modules).dedup.filter s.peerPresent

/-- Remove a page's entry from every translation cache of the module (R129). -/
def State.tcRemove (s : State) (i page : Nat) : State :=
  s.setPlace { s.place with tcs := s.place.tcs.mapVals fun _ ws => ws.filter fun w => !(handleIndex w.1 = i && w.2 = page) }

/-- The shootdown of a page's entry, before it changes: in the module at once, and a message to each module that reaches it through a window (R129). -/
def State.shootDown (s : State) (i page : Nat) : State :=
  match s.place.berths.get? i with
  | none => s
  | some b =>
    let ws := (s.sharers i b.gen).map fun m =>
      ({ kind := .shootdown m (mkHandle b.gen i) page, addr := 0, key := 0, len := 0, job := b.job, cls := clsSignal, core := none, cmd := none } : Want)
    let s := s.tcRemove i page
    if ws.isEmpty then s else s.setWire { s.wire with wants := s.wire.wants ++ ws }

/-- Drop the replicas of a page that a predicate does not keep, through the shootdown of its entry; each is a placement change (R129, R135, R140). -/
def State.dropCopies (s : State) (i p : Nat) (keeps : BitVec 46 → Bool) : State :=
  match s.place.berths.get? i with
  | none => s
  | some b =>
    match b.pages.get? p with
    | none => s
    | some x =>
      let gone := x.copies.filter fun c => !keeps c
      if gone.isEmpty then s
      else
        let s := (s.shootDown i p).updBerth i fun b => { b with pages := b.pages.put p { x with copies := x.copies.filter keeps } }
        gone.foldl (fun s _ => s.placeChange b.job) s

/-- The frames that replicas hold. -/
def State.copiesHeld (s : State) : List (Nat × Nat) :=
  s.place.berths.flatMap fun ib => ib.2.pages.flatMap fun ip => ip.2.copies.map fun c => (c.toNat, ib.2.frames)

/-- The harbour SRAM cluster of a frame of this module, if it is one. -/
def sramCluster (base : BitVec 46) : Option Nat :=
  if gaSpace (pageAddr base) = 0 && gaRegion (pageAddr base) = 1 then some (gaCluster (pageAddr base)) else none

/-- Shadow lines of 64 KiB for which a cluster's harbour SRAM has room beside its pages and replicas (R150, R153). -/
def State.shadowRoom (s : State) (c : Nat) : Nat :=
  let copies := (s.copiesHeld.filter fun f => sramCluster (BitVec.ofNat 46 f.1) = some c).map (·.2)
  256 - 4 * (s.hotFrames c + s.pinnedFrames c + copies.sum)

/-- How willingly the Tug evicts a shadow line: lines of completed packets, then read lines of STREAM berths, then by how far ahead the consuming packet
lies (R154). -/
def State.evictRank (s : State) (x : Shadow) : Nat :=
  let ahead := (BitVec.ofNat 32 x.at_ - (s.cmd.rings.getD x.ring Ring.init).head).toNat
  if 2 ^ 31 ≤ ahead && !(s.cmd.progs.any fun g => g.ring = x.ring && g.at_ = x.at_) then 2 ^ 34
  else if x.read && (s.berthAt x.handle).any (·.acting.getLsbD 6) then 2 ^ 33
  else if 2 ^ 31 ≤ ahead then 0 else ahead

/-- The line that the Tug evicts first: the most willing, and among equals the first. -/
def State.evictFirst (s : State) (d : List Shadow) : Option Shadow :=
  d.foldl (fun (acc : Option Shadow) x =>
    match acc with
    | none => some x
    | some y => if s.evictRank y < s.evictRank x then some x else some y) none

/-- Bytes of a predictor's block: H's column blocks divide the weight target evenly (R155; DEDUCED, log 66). -/
def blockBytesOf (length blocks : Nat) : Nat := max 1 (length / max 1 blocks)

/-- Count PRED_LATE and PRED_WASTE of the job that owns a binding (R156). -/
def State.predCount (s : State) (key late waste : Nat) : State :=
  s.setCmd { s.cmd with jobs := s.cmd.jobs.mapVals fun i j =>
    if (s.exch.bindings.get? key).any (fun b => b.job = i) then { j with predLate := j.predLate + late, predWaste := j.predWaste + waste } else j }

/-- A shadow line leaves its directory: a block of a predictor's target that no kernel has read counts as waste, once (R156). -/
def State.lineGone (s : State) (x : Shadow) : State :=
  (s.place.preds.filter fun e => e.2.target = x.handle).foldl (fun s e =>
    let len := ((s.berthAt x.handle).map (·.length)).getD 0
    let b := 65536 * x.line / blockBytesOf len e.2.blocks
    if x.read || e.2.blocks ≤ b || e.2.seen.contains b || e.2.wasted.contains b then s
    else (s.setPlace { s.place with preds := s.place.preds.put e.1 { e.2 with wasted := e.2.wasted ++ [b] } }).predCount e.1 0 1) s

/-- Evict lines of a cluster until at most `room` are left (R150, R154). -/
def State.trimShadows (s : State) (c room fuel : Nat) : State :=
  match fuel with
  | 0 => s
  | fuel + 1 =>
    let d := s.place.shadows.getD c []
    if d.length ≤ room then s
    else
      match s.evictFirst d with
      | none => s
      | some x => ((s.setPlace { s.place with shadows := s.place.shadows.put c (d.erase x) }).lineGone x).trimShadows c room fuel

/-- Replicas of any page that a predicate does not keep are dropped. -/
def State.dropWhere (s : State) (keeps : Berth → BitVec 46 → Bool) : State :=
  s.place.berths.foldl (fun s ib => ib.2.pages.foldl (fun s ip =>
    if ip.2.copies.isEmpty then s else s.dropCopies ib.1 ip.1 (keeps ib.2)) s) s

/-- A page takes `n` frames from `f`: replicas that lie there are dropped, and shadow lines leave what harbour SRAM the cluster no longer has for them
(R135, R150). -/
def State.yieldFrames (s : State) (f n : Nat) : State :=
  let s := s.dropWhere fun b c => c.toNat + b.frames ≤ f || f + n ≤ c.toNat
  match sramCluster (BitVec.ofNat 46 f) with
  | none => s
  | some c => s.trimShadows c (s.shadowRoom c) 256

/-- A free aligned run of frames in a cluster's harbour SRAM. -/
def sramRun (held : List (Nat × Nat)) (c n : Nat) : Option Nat :=
  let f0 := sramAddr c 0 / 2 ^ 18
  ((List.range (64 / max 1 n)).find? fun j => framesFree held (f0 + n * j) n).map fun j => f0 + n * j

/-- A home for a replica of a page: harbour SRAM of a cluster other than the page's, else HBM of the die other than the page's (R135). -/
def State.replicaFrame (s : State) (b : Berth) (x : Page) (c : Option Nat) (pick : Nat) : Option (BitVec 46) :=
  let held := s.framesHeld ++ s.copiesHeld
  let here := c.bind fun c => if sramCluster x.base = some c || !s.inService c then none else sramRun held c b.frames
  let a := pageAddr x.base
  let die := if gaRegion a = 1 then a / 2 ^ 28 % 2 else gaStack a / 8
  (here <|> s.hbmOnDie held b (1 - die) b.frames pick).map (BitVec.ofNat 46 ·)

/-- A replica of a page is made at a home: the page is read and written, which counts as migration, its entry is shot down before it changes, and a
placement change is counted (R129, R133, R135, R140). -/
def State.addCopy (s : State) (i p : Nat) (f : BitVec 46) : State :=
  match s.place.berths.get? i with
  | none => s
  | some b =>
    match b.pages.get? p with
    | none => s
    | some x =>
      let n := 2 * pageSize b.cls
      if x.copies.length < 24 && x.st = .placed && s.capAllows false n then
        let s := ((s.migrates false n).shootDown i p).updBerth i fun b => { b with pages := b.pages.put p { x with copies := x.copies ++ [f] } }
        let s := s.placeChange b.job
        match sramCluster f with
        | none => s
        | some c => s.trimShadows c (s.shadowRoom c) 256
      else s

/-! ### First writes (R120, R122) -/

/-- An unpinned page leaves a cluster's harbour SRAM at once, for local HBM: the first write of a pinned page waits for it, so that it finds the room that
was reserved for it (R120, R122, R138; log 210). -/
def State.yieldPin (s : State) (c : Nat) : State :=
  match s.place.berths.findSome? fun ib =>
      if ib.2.pinAt = some c then none else (ib.2.pages.find? fun p => sramCluster p.2.base = some c).map fun p => (ib.1, ib.2, p.1, p.2) with
  | none => s
  | some (i, b, p, x) =>
    match x.goal <|> (s.hbmFrame b 0).map (BitVec.ofNat 46 ·) with
    | none => s
    | some f =>
      let s := if x.goal.isSome then s else ((s.migrates false (2 * pageSize b.cls)).placeChange b.job)
      (s.shootDown i p).updBerth i fun b =>
        { b with migrations := if x.goal.isSome then b.migrations else min (2 ^ 32 - 1) (b.migrations + 1)
                 pages := b.pages.put p { x with base := f, st := .placed, goal := none, dirty := [], held := false, old := none } }

/-- The home of a page at its first write (R120, R122, R136, R139, R142). A pinned page stands in its own cluster's harbour SRAM while that cluster
serves (R134). -/
def State.homeFor (s : State) (b : Berth) (item : Nat) : Option (BitVec 46) × State :=
  let (pick, s) := s.pickFor b.job item
  match b.cls with
  | 0 =>
    match s.sramFrame pick with
    | some f => (some (BitVec.ofNat 46 f), s)
    | none => ((s.hbmFrame b pick).map (BitVec.ofNat 46 ·), s)
  | 3 =>
    match b.pinAt.filter fun c => (s.cluster c).svc = .inService && !(s.cluster c).keepGated with
    | none => ((s.hbmFrame b pick).map (BitVec.ofNat 46 ·), s)
    | some c =>
      let s := if (sramFrameIn s.framesHeld c pick).isSome then s else s.yieldPin c
      ((sramFrameIn s.framesHeld c pick).map (BitVec.ofNat 46 ·), s)
  | 2 => s.stashHome b pick false
  | _ => ((s.hbmFrame b pick).map (BitVec.ofNat 46 ·), s)

/-- A page just placed. -/
def Page.placedAt (base : BitVec 46) : Page :=
  { base := base, copies := [], st := .placed, heatE := 0, heatW := 0, restE := 0, restW := 0, goal := none, dirty := [], held := false,
    old := none }

/-- Update the frame table for a windowed berth's page (R256). -/
def State.exposeFrame (s : State) (i : Nat) (b : Berth) (base : BitVec 46) : State :=
  match s.net.windows.find? fun w => handleIndex w.2.berth = i && handleGen w.2.berth = b.gen with
  | none => s
  | some w =>
    let n := pageSize b.cls / 2 ^ 18
    s.setNet { s.net with frames := (List.range n).foldl (fun fs j => fs.put (base.toNat + j) w.1) s.net.frames }

/-- Remove a page's frames from the frame table. -/
def State.hideFrame (s : State) (b : Berth) (base : BitVec 46) : State :=
  let n := pageSize b.cls / 2 ^ 18
  s.setNet { s.net with frames := (List.range n).foldl (fun fs j => fs.drop (base.toNat + j)) s.net.frames }

/-- Place an unplaced page at its first write: every block of the frame is written with zeros first, so no mark is left (R122). -/
def State.placePage (s : State) (i p : Nat) : State :=
  match s.place.berths.get? i with
  | none => s
  | some b =>
    if b.pages.has p then s
    else
      match s.homeFor b (i * 2 ^ 24 + p) with
      | (none, s) => s
      | (some base, s) =>
        let s := s.updBerth i fun b => { b with pages := b.pages.put p (Page.placedAt base) }
        (s.exposeFrame i b base).yieldFrames base.toNat b.frames

/-! ### Reads and writes of a handle's bytes -/

/-- Count heat for `n` bytes on a die (R130): one for each 4 KiB, saturating at 65,535. -/
def Page.heat (p : Page) (die n : Nat) : Page :=
  if die = 0 then { p with heatE := min 65535 (p.heatE + (p.restE + n) / 4096), restE := (p.restE + n) % 4096 }
  else { p with heatW := min 65535 (p.heatW + (p.restW + n) / 4096), restW := (p.restW + n) % 4096 }

/-- The die on which an access counts: the core's, or for an engine the die that holds the page (log 10). -/
def accessDie (who : Option Nat) (p : Page) : Nat :=
  match who with
  | some k => dieOf (clusterOf k)
  | none =>
    let a := pageAddr p.base
    if gaRegion a = 1 then a / 2 ^ 28 % 2 else gaStack a / 8

/-- Bytes of `[ofs, ofs + n)` that page `p` holds. -/
def bytesInPage (cls ofs n p : Nat) : Nat := min (ofs + n) ((p + 1) * pageSize cls) - max ofs (p * pageSize cls)

/-- Count the heat of an access on the pages it touches. -/
def State.heatPages (s : State) (who : Option Nat) (h : BitVec 32) (ofs n : Nat) : State :=
  s.updBerth (handleIndex h) fun b =>
    { b with pages := (pagesTouched b.cls ofs n).foldl (fun ps p =>
        match ps.get? p with
        | none => ps
        | some x => ps.put p (x.heat (accessDie who x) (bytesInPage b.cls ofs n p))) b.pages }

/-- The translation cache set of a page (R127; the hash is the model's own, log 8). -/
def tcKey (cluster : Nat) (h : BitVec 32) (page : Nat) : Nat := cluster * 256 + (handleIndex h + page) % 256

/-- Make a page the most recently used entry of its set, evicting the least recently used of eight (R127). -/
def State.tcFill (s : State) (cluster : Nat) (h : BitVec 32) (page : Nat) : State :=
  let ways := (s.place.tcs.getD (tcKey cluster h page) []).filter (· != (h, page))
  s.setPlace { s.place with tcs := s.place.tcs.put (tcKey cluster h page) (((h, page) :: ways).take 8) }

/-- A cluster uses a page's entry: a hit makes it the most recently used. -/
def State.tcUse (s : State) (cluster : Nat) (h : BitVec 32) (page : Nat) : State :=
  if (s.place.tcs.getD (tcKey cluster h page) []).contains (h, page) then s.tcFill cluster h page else s

/-- A core's accesses use its cluster's translation cache. -/
def State.tcTouch (s : State) (who : Option Nat) (h : BitVec 32) (ofs n : Nat) : State :=
  match who, s.berthAt h with
  | some k, some b => (pagesTouched b.cls ofs n).foldl (fun s p => s.tcUse (clusterOf k) h p) s
  | _, _ => s

/-- The 64 KiB lines of a range. -/
def linesOf (ofs n : Nat) : List Nat :=
  if n = 0 then [] else (List.range ((ofs + n - 1) / 65536 - ofs / 65536 + 1)).map (· + ofs / 65536)

/-- The kernel reads blocks of a predictor's target: one that was predicted inactive counts as late, once in the micro-batch (R156). -/
def State.predRead (s : State) (h : BitVec 32) (ofs n : Nat) : State :=
  (s.place.preds.filter fun e => e.2.target = h).foldl (fun s e =>
    let size := blockBytesOf (((s.berthAt h).map (·.length)).getD 0) e.2.blocks
    let bs := if n = 0 then [] else (List.range (min e.2.blocks ((ofs + n) / size + 1))).filter fun b => b * size < ofs + n && ofs < (b + 1) * size
    let new := bs.filter fun b => !e.2.seen.contains b
    if new.isEmpty then s
    else
      (s.setPlace { s.place with preds := s.place.preds.put e.1 { e.2 with seen := e.2.seen ++ new } }).predCount e.1
        (new.filter fun b => b < 64 && !e.2.was.getLsbD b).length 0) s

/-- A core's read marks the shadow lines that serve it as read, and a line of a STREAM berth is kept no longer once its last byte has been read
(R125, R154; log 209). -/
def State.shadowRead (s : State) (who : Option Nat) (h : BitVec 32) (ofs n : Nat) : State :=
  match who with
  | none => s
  | some k =>
    let s := s.predRead h ofs n
    let ls := linesOf ofs n
    let c := clusterOf k
    let stream := (s.berthAt h).any fun b => b.acting.getLsbD 6
    let len := ((s.berthAt h).map (·.length)).getD 0
    let done := fun (x : Shadow) => stream && min len (65536 * (x.line + 1)) ≤ ofs + n
    match s.place.shadows.get? c with
    | none => s
    | some d =>
      let mine := fun (x : Shadow) => x.handle = h && ls.contains x.line
      s.setPlace { s.place with shadows := s.place.shadows.put c ((d.filter fun x => !(mine x && done x)).map fun x => if mine x then { x with read := true } else x) }

/-- A write to the home copy removes every shadow line that overlaps the written bytes (R153). -/
def State.shadowDrop (s : State) (h : BitVec 32) (ofs n : Nat) : State :=
  let ls := linesOf ofs n
  let hit := fun (x : Shadow) => x.handle = h && ls.contains x.line
  let gone := s.place.shadows.flatMap fun d => d.2.filter hit
  let keepL := fun (d : List Shadow) => d.filter fun x => !hit x
  gone.foldl State.lineGone
    (s.setPlace { s.place with shadows := s.place.shadows.mapVals fun _ d => keepL d, fetches := s.place.fetches.mapVals fun _ d => keepL d })

/-- The pages of a range that a predicate holds of. -/
def State.anyPage (s : State) (h : BitVec 32) (ofs n : Nat) (f : Page → Bool) : Bool :=
  match s.berthAt h with
  | none => false
  | some b => (pagesTouched b.cls ofs n).any fun p => (b.pages.get? p).any f

/-- A page of the range is LOST (R126, R127). -/
def State.spanLost (s : State) (h : BitVec 32) (ofs n : Nat) : Bool := s.anyPage h ofs n fun p => p.st = .lost

/-- New accesses to a page of the range are held (R129, R132). -/
def State.spanHeld (s : State) (h : BitVec 32) (ofs n : Nat) : Bool := s.anyPage h ofs n (·.held)

/-- A page of the range stands on a stack that has failed (R332). -/
def State.spanFailed (s : State) (h : BitVec 32) (ofs n : Nat) : Bool :=
  s.anyPage h ofs n fun p => inLocalHbm p.base && (s.stack (gaStack (pageAddr p.base))).st = .failed

/-- What a read delivers. -/
structure Got where
  data : List Byte
  /-- some block of the range is poisoned (R145) -/
  poisoned : Bool
  /-- some page of the range is LOST (R127) -/
  lost : Bool
  deriving DecidableEq, Repr

/-! #### Bytes that stand outside the module (R18, R118, R258) -/

/-- The pieces of a range that stand on pages outside the module: global address, offset in the berth, and length, cut at 4,096 bytes of the offset for a
peer and at 1,024 bytes for a far endpoint. -/
def State.outside (s : State) (b : Berth) (ofs n : Nat) : List (Nat × Nat × Nat) :=
  (pagesTouched b.cls ofs n).flatMap fun p =>
    match b.pages.get? p with
    | none => []
    | some x =>
      let a := pageAddr x.base
      if s.isLocal a then []
      else
        let lo := max ofs (p * pageSize b.cls)
        let m := bytesInPage b.cls ofs n p
        let c := if gaSpace a = 2 then 1024 else 4096
        (List.range ((lo + m - 1) / c - lo / c + 1)).map fun i =>
          let from_ := max lo (c * (lo / c + i))
          (a + (from_ - p * pageSize b.cls), from_, min (lo + m) (c * (lo / c + i + 1)) - from_)

/-- Does a shadow line of the core's cluster hold the byte at an offset? -/
def State.shadowHas (s : State) (k : Nat) (h : BitVec 32) (ofs : Nat) : Bool :=
  (s.place.shadows.getD (clusterOf k) []).any fun x => x.handle = h && x.line = ofs / 65536

/-- Accesses of a core, or of an engine, to the part of a range that stands outside the module join those that wait to leave: kernels' in the exchange
class, engines' in the stash class (R254). -/
def State.wantSpan (s : State) (who : Option Nat) (h : BitVec 32) (ofs n : Nat) (kind : Nat → Nat → WantKind) : State :=
  match s.berthAt h with
  | none => s
  | some b =>
    match s.outside b ofs n with
    | [] => s
    | gs =>
      let w := fun (g : Nat × Nat × Nat) =>
        ({ kind := kind g.2.1 g.2.2, addr := g.1, key := berthKey (handleIndex h) g.2.1, len := g.2.2, job := b.job,
           cls := if who.isSome then clsExchange else clsStash, core := who.map fun k => (k, (s.coreOf k).pc % 4096), cmd := none } : Want)
      let ws := gs.map w
      s.setWire { s.wire with wants := s.wire.wants ++ ws }

/-- A read asks for the bytes that stand outside the module and that no shadow line of the core's cluster holds (R153, R154, R258). -/
def State.wantRead (s : State) (who : Option Nat) (h : BitVec 32) (ofs n : Nat) : State :=
  let t := s.wantSpan who h ofs n fun _ _ => .read
  match who with
  | none => t
  | some k =>
    let new := (t.wire.wants.drop s.wire.wants.length).filter fun w => !s.shadowHas k h (w.key % 2 ^ 48)
    if new.length = t.wire.wants.length - s.wire.wants.length then t else s.setWire { s.wire with wants := s.wire.wants ++ new }

/-- A write sends the bytes that stand outside the module; an absent byte is not sent. -/
def State.wantWrite (s : State) (who : Option Nat) (h : BitVec 32) (ofs : Nat) (bs : List (Option Byte)) : State :=
  (runsOf ofs bs).foldl (fun s r => s.wantSpan who h r.1 r.2.length fun o m => .write ((r.2.drop (o - r.1)).take m)) s

/-- A read of core `k` from a range has left, or is about to, and has no response yet (R248). -/
def State.awaits (s : State) (k key n : Nat) : Bool :=
  (s.wire.wants ++ s.wire.reads).any fun w => w.kind = .read && (w.core.map (·.1)) = some k && w.key < key + n && key < w.key + w.len

/-- Read `n` bytes of a handle, by core `who` or by an engine (R110, R122, R127, R130, R145, R154). -/
def State.readSpan (s : State) (who : Option Nat) (h : BitVec 32) (ofs n : Nat) : Got × State :=
  let key := spanKey (who.getD 0) h ofs
  let s := s.laSync key n
  let s := s.discover key n
  let g : Got := ⟨s.mem.read key n, s.mem.poisoned key n || s.spanFailed h ofs n, s.spanLost h ofs n⟩
  if h = 0 then (g, s)
  else (g, (((s.wantRead who h ofs n).heatPages who h ofs n).tcTouch who h ofs n).shadowRead who h ofs n)

/-- Before a write completes: unplaced pages are placed, replicas dropped, and a page that is moving notes the dirty lines (R122, R132, R135). -/
def State.touchForWrite (s : State) (who : Option Nat) (h : BitVec 32) (ofs n : Nat) : State :=
  match s.berthAt h with
  | none => s
  | some b =>
    let i := handleIndex h
    let ps := pagesTouched b.cls ofs n
    let s := ps.foldl (fun s p => (s.placePage i p).dropCopies i p fun _ => false) s
    let lines := (List.range ((ofs + n + 4095) / 4096 - ofs / 4096)).map (· + ofs / 4096)
    let s := s.updBerth i fun b => { b with pages := ps.foldl (fun m p =>
      match m.get? p with
      | none => m
      | some x => m.put p { x with dirty := if x.goal.isSome then (x.dirty ++ lines).dedup else x.dirty }) b.pages }
    ((s.heatPages who h ofs n).tcTouch who h ofs n).shadowDrop h ofs n

/-- Write bytes of a handle, by core `who` or by an engine; an absent byte is left as it is (R110, R122, R132, R135, R146, R153). -/
def State.writeSpanOpt (s : State) (who : Option Nat) (h : BitVec 32) (ofs : Nat) (bs : List (Option Byte)) : State :=
  if h != 0 && (s.berthAt h).isNone then s else
  let key := spanKey (who.getD 0) h ofs
  let s := if h = 0 then s else ((s.touchForWrite who h ofs bs.length).laEvict key bs.length).wantWrite who h ofs bs
  (runsOf key bs).foldl (fun s r => s.store r.1 r.2) s

/-- Write bytes of a handle; a handle that the berth map no longer holds is not written. -/
def State.writeSpan (s : State) (who : Option Nat) (h : BitVec 32) (ofs : Nat) (bs : List Byte) : State :=
  if h != 0 && (s.berthAt h).isNone then s else
  let key := spanKey (who.getD 0) h ofs
  let s := if h = 0 then s else ((s.touchForWrite who h ofs bs.length).laEvict key bs.length).wantWrite who h ofs (bs.map some)
  s.store key bs

/-- Mark the blocks of a key range that held poisoned source blocks (R146). -/
def State.poisonBlocks (s : State) (bs : List Nat) : State := s.setMem (bs.foldl Mem.addPoison s.mem)

/-- A page of `n` frames of 256 KiB may not stay where it stands: on a stack or group that is emptied, over the system region's share, or in a
cluster that is drained, gated by command, reset or retired (R131, R134, R335, R354). -/
def State.misplaced (s : State) (base : BitVec 46) (n : Nat) : Bool :=
  let a := pageAddr base
  if gaSpace a != 0 then false
  else if gaRegion a = 0 then s.groupFrames (gaStack a) (gaGroup a) < gaGofs a / 2 ^ 18 + n
  else (s.cluster (gaCluster a)).svc != .inService || (s.cluster (gaCluster a)).keepGated

/-- The page state that a query reports (R126): 0 UNPLACED, 1 PLACED, 2 MIGRATING, 3 POISONED, 4 LOST. A page that has no room off its failed or
retiring unit, while berth reservations lack capacity, is POISONED (R333). -/
def State.pageState (s : State) (i : Nat) (b : Berth) (p : Nat) : Nat :=
  match b.pages.get? p with
  | none => 0
  | some x =>
    if x.st = .lost then 4
    else if s.mem.poisoned (berthKey i (p * pageSize b.cls)) (pageSize b.cls) ||
        (inLocalHbm x.base && ((s.stack (gaStack (pageAddr x.base))).st = .failed ||
          (s.shortfall != 0 && s.misplaced x.base (pageSize b.cls / 2 ^ 18)))) then 3
    else if x.st = .migrating then 2 else 1

end Sys2Proof.Machine
end

