-- ==== Sys2Proof/Machine/Operands.lean ====
section
/-! DEFINITION. What a bundle holds and what its operands are: slot fields, registers, lanes, address generators, and the legality of a
bundle (chapter 04). -/

namespace Sys2Proof.Machine

/-! ### Fields of a bundle (table Bundle; slots numbered as FaultRec.slot: 0 array, 1 load/store, 2 vector A, 3 vector B, 4 out path, 5 sync, 6 scalar) -/

/-- The width of a slot in bits. -/
def slotWidth (sl : Nat) : Nat :=
  match sl with
  | 0 => 96 | 1 => 80 | 2 => 72 | 3 => 72 | 4 => 64 | 5 => 48 | _ => 64
/-- The lowest bit of a slot in its bundle. -/
def slotLow (sl : Nat) : Nat :=
  match sl with
  | 0 => 400 | 1 => 320 | 2 => 248 | 3 => 176 | 4 => 112 | 5 => 64 | _ => 0
/-- The bits of a slot. -/
def slotBits (b : BitVec 512) (sl : Nat) : Nat := b.toNat / 2 ^ slotLow sl % 2 ^ slotWidth sl
/-- The SLOT_EN bit of a slot: bit 511 is the array slot's. -/
def slotEn (b : BitVec 512) (sl : Nat) : Bool := b.getLsbD (511 - sl)
/-- The opcode of a slot: its top eight bits. -/
def slotOp (b : BitVec 512) (sl : Nat) : Nat := slotBits b sl / 2 ^ (slotWidth sl - 8)
/-- An enabled slot whose opcode is not 0x00 holds an operation (R90). -/
def slotActive (b : BitVec 512) (sl : Nat) : Bool := slotEn b sl && slotOp b sl != 0
/-- The slots that hold operations. -/
def activeSlots (b : BitVec 512) : List Nat := (List.range 7).filter (slotActive b)
/-- A field of a slot's bits. -/
def fld (bits hi lo : Nat) : Nat := bitsOf bits hi lo
/-- A one-bit field. -/
def flag (bits i : Nat) : Bool := bits.testBit i
/-- A field as a signed number of `w` bits. -/
def sgn (w x : Nat) : Int := if x < 2 ^ (w - 1) then x else (x : Int) - 2 ^ w

/-! ### Registers (table Architectural state) -/

/-- Scalar register: s0 reads 0. -/
def Regs.sr (r : Regs) (i : Nat) : W64 := if i = 0 then 0 else r.s.getD i 0
/-- Write a scalar register: a write of s0 is ignored. -/
def Regs.setS (r : Regs) (i : Nat) (v : W64) : Regs := if i = 0 then r else { r with s := r.s.put i v }
/-- Vector register. -/
def Regs.vr (r : Regs) (i : Nat) : BitVec 4096 := r.v.getD i 0
/-- Write a vector register. -/
def Regs.setV (r : Regs) (i : Nat) (v : BitVec 4096) : Regs := { r with v := r.v.put i v }
/-- Predicate register: p0 reads all ones. -/
def Regs.pr (r : Regs) (i : Nat) : BitVec 128 := if i = 0 then BitVec.allOnes 128 else r.p.getD i 0
/-- Write a predicate register: a write of p0 is ignored. -/
def Regs.setP (r : Regs) (i : Nat) (v : BitVec 128) : Regs := if i = 0 then r else { r with p := r.p.put i v }
/-- Address generator. -/
def Regs.gr (r : Regs) (i : Nat) : BitVec 256 := r.g.getD i 0
/-- Write an address generator. -/
def Regs.setG (r : Regs) (i : Nat) (v : BitVec 256) : Regs := { r with g := r.g.put i v }

/-! ### Lanes -/

/-- Lane i: bits [32i + 31 : 32i]. -/
def lane (v : BitVec 4096) (i : Nat) : W32 := v.extractLsb' (32 * i) 32
/-- The number whose base-2³² digits are the lanes, lowest first. -/
def packLanes (ls : List W32) : Nat :=
  match ls with
  | [] => 0
  | x :: t => x.toNat + 2 ^ 32 * packLanes t
/-- A vector from its lanes. -/
def ofLanes (f : Nat → W32) : BitVec 4096 := BitVec.ofNat 4096 (packLanes ((List.range 128).map f))
/-- Lanes with a clear predicate keep their value. -/
def mergeLanes (p : BitVec 128) (old : BitVec 4096) (f : Nat → W32) : BitVec 4096 :=
  ofLanes fun i => if p.getLsbD i then f i else lane old i
/-- A predicate from its lanes. -/
def ofPred (f : Nat → Bool) : BitVec 128 := BitVec.ofNat 128 ((List.range 128).foldr (fun i acc => (if f i then 1 else 0) + 2 * acc) 0)

/-! ### Address generators (R93) -/

/-- HANDLE. -/
def genHandle (g : BitVec 256) : BitVec 32 := g.extractLsb' 224 32
/-- STRIDE0, signed. -/
def genStride0 (g : BitVec 256) : Int := sgn 32 (bitsOf g.toNat 175 144)
/-- OFFSET + IDX0 × STRIDE0 + IDX1 × STRIDE1. -/
def genAddr (g : BitVec 256) : Int :=
  (bitsOf g.toNat 223 176 : Int) + (bitsOf g.toNat 79 64 : Int) * genStride0 g + (bitsOf g.toNat 63 48 : Int) * sgn 32 (bitsOf g.toNat 127 96)
/-- Replace IDX0 and IDX1. -/
def genIdx (g : BitVec 256) (i0 i1 : Nat) : BitVec 256 :=
  g.extractLsb' 80 176 ++ BitVec.ofNat 16 i0 ++ BitVec.ofNat 16 i1 ++ g.extractLsb' 0 48
/-- A wrap count: 0 means 65,536. -/
def wrapCount (c : Nat) : Nat := if c = 0 then 65536 else c
/-- Advance: IDX0 up by one, wrapping at COUNT0 into IDX1, which wraps at COUNT1. -/
def genAdvance (g : BitVec 256) : BitVec 256 :=
  let i0 := bitsOf g.toNat 79 64
  let i1 := bitsOf g.toNat 63 48
  if i0 + 1 = wrapCount (bitsOf g.toNat 143 128) then
    (if i1 + 1 = wrapCount (bitsOf g.toNat 95 80) then genIdx g 0 0 else genIdx g 0 (i1 + 1))
  else genIdx g (i0 + 1) i1
/-- The generator after `n` advances. -/
def genAdvanceN (n : Nat) (g : BitVec 256) : BitVec 256 :=
  match n with
  | 0 => g
  | n + 1 => genAdvanceN n (genAdvance g)
/-- The addresses at which `n` successive rows start, advancing once per row. -/
def genRows (n : Nat) (g : BitVec 256) : List Int :=
  match n with
  | 0 => []
  | n + 1 => genAddr g :: genRows n (genAdvance g)

/-! ### Which registers a slot reads and writes (R90, R91); kinds 0 s, 1 v, 2 p, 3 g -/

/-- Registers that a slot writes. -/
def slotWrites (sl bits : Nat) : List (Nat × Nat) :=
  let op := bits / 2 ^ (slotWidth sl - 8)
  match sl with
  | 0 =>
    match op with
    | 2 => [(3, fld bits 76 74)] ++ (if fld bits 21 20 = 0 then [] else [(3, fld bits 37 35)])
    | 3 => [(3, fld bits 37 35)]
    | _ => []
  | 1 =>
    let r := fld bits 71 67
    let adv := if flag bits 51 then [(3, fld bits 66 64)] else []
    match op with
    | 1 => (0, r) :: adv
    | 3 => (1, r) :: adv
    | 5 => (1, r) :: adv
    | 6 => (2, r % 16) :: adv
    | 8 => if flag bits 51 then [(3, fld bits 66 64), (3, fld bits 63 61)].dedup else []
    | 10 => [(3, fld bits 66 64)]
    | 11 => [(3, fld bits 66 64)]
    | 12 => [(3, fld bits 66 64)]
    | _ => adv
  | 4 => [(3, fld bits 55 53), (3, fld bits 52 50)].dedup
  | 5 => []
  | 6 => if (1 ≤ op && op ≤ 0x0D) || op = 0x18 then [(0, fld bits 55 51)] else []
  | _ => if op = 0x0C || op = 0x1D || op = 0x1E then [(2, fld bits 39 36)] else [(1, fld bits 63 59)]

/-- Registers that a slot reads. -/
def slotReads (sl bits : Nat) : List (Nat × Nat) :=
  let op := bits / 2 ^ (slotWidth sl - 8)
  match sl with
  | 0 => [(2, fld bits 84 81), (2, fld bits 80 77), (3, fld bits 76 74), (3, fld bits 73 71), (3, fld bits 37 35)]
  | 1 =>
    let r := fld bits 71 67
    let g := (3, fld bits 66 64)
    match op with
    | 2 => [g, (0, r)]
    | 3 => [g, (1, r), (2, fld bits 60 57)]
    | 4 => [g, (1, r), (2, fld bits 60 57)]
    | 5 => [g, (1, r), (2, fld bits 60 57)]
    | 7 => [g, (2, r % 16)]
    | 8 => [g, (3, fld bits 63 61), (0, r)]
    | 10 => [(0, r)]
    | 11 => [g, (0, r)]
    | _ => [g]
  | 4 =>
    let sst := fld bits 24 20
    [(3, fld bits 55 53), (3, fld bits 52 50), (1, fld bits 34 30), (1, fld bits 29 25), (1, fld bits 11 7), (2, fld bits 6 3),
      (0, sst), (0, sst + 1), (0, sst + 2)]
  | 5 =>
    let r := fld bits 31 27
    if op = 6 || op = 7 then [(0, r), (0, r + 1), (0, r + 2)] else []
  | 6 => [(0, fld bits 50 46), (0, fld bits 45 41)]
  | _ =>
    let va := fld bits 58 54
    let vb := fld bits 53 49
    if op = 0x1D then [(2, va % 16), (2, vb % 16), (2, fld bits 43 40)]
    else [(1, va), (1, vb), (1, fld bits 48 44), (1, fld bits 63 59), (2, fld bits 43 40), (2, fld bits 39 36)]

/-! ### Legality (R90, R95) -/

/-- Is an opcode assigned in a slot (tables of chapter 04)? -/
def opAssigned (sl op : Nat) : Bool :=
  match sl with
  | 0 => op ≤ 5
  | 1 => op ≤ 8 || (10 ≤ op && op ≤ 12)
  | 2 => op ≤ 0x0E || (0x10 ≤ op && op ≤ 0x16) || (0x18 ≤ op && op ≤ 0x1E)
  | 3 => op = 0 || op = 0x0D || op = 0x0E || (0x10 ≤ op && op ≤ 0x16) || op = 0x1D || op = 0x1E
  | 4 => op ≤ 2
  | 5 => op ≤ 0x0B
  | _ => op ≤ 0x0D || (0x10 ≤ op && op ≤ 0x16) || op = 0x18 || op = 0x19

/-- The reserved field of a slot. -/
def slotReserved (sl bits : Nat) : Nat :=
  match sl with
  | 0 => fld bits 19 0
  | 1 => fld bits 44 32
  | 4 => fld bits 12 12
  | 5 => fld bits 26 16
  | 6 => fld bits 40 32
  | _ => 0

/-- Does a slot make its bundle illegal by itself? -/
def slotIllegal (b : BitVec 512) (sl : Nat) : Bool :=
  let bits := slotBits b sl
  if slotEn b sl then !opAssigned sl (slotOp b sl) || slotReserved sl bits != 0 else bits != 0

/-- The registers that the bundle's slots write, each with its slot. -/
def bundleWrites (b : BitVec 512) : List (Nat × Nat × Nat) :=
  (activeSlots b).flatMap fun sl => (slotWrites sl (slotBits b sl)).map fun r => (sl, r.1, r.2)

/-- The slot named by an illegal bundle's fault: 7 for a reserved bundle field, the offending slot, or the later of two writers (log 12). -/
def bundleIllegal (b : BitVec 512) : Option Nat :=
  if bitsOf b.toNat 504 496 != 0 then some 7
  else
    match (List.range 7).find? (slotIllegal b) with
    | some sl => some sl
    | none =>
      let ws := bundleWrites b
      (ws.find? fun w => ws.any fun x => x.1 < w.1 && x.2 = w.2).map (·.1)

end Sys2Proof.Machine
end

