-- ==== Sys2Proof/Machine/CoreOps.lean ====
section
/-! DEFINITION. The wide core as the slots see it: its instance, its bundle, its registers, faults, and the move to the next bundle. -/

namespace Sys2Proof.Machine

/-- Replace a core's state. -/
def State.setCore (s : State) (k : Nat) (c : Core) : State := s.setComp { s.comp with cores := s.comp.cores.put k c }
/-- Change a core's state. -/
def State.updCore (s : State) (k : Nat) (f : Core → Core) : State := s.setCore k (f (s.coreOf k))
/-- Change a core's registers. -/
def State.updRegs (s : State) (k : Nat) (f : Regs → Regs) : State := s.updCore k fun c => { c with regs := f c.regs }

/-- The instance that a core runs. -/
def State.instOf (s : State) (k : Nat) : Option Inst := (s.coreOf k).inst.bind fun i => s.comp.insts.get? i
/-- Change an instance. -/
def State.updInst (s : State) (i : Nat) (f : Inst → Inst) : State :=
  match s.comp.insts.get? i with
  | none => s
  | some x => s.setComp { s.comp with insts := s.comp.insts.put i (f x) }
/-- The launch of a core's instance. -/
def State.launchOf (s : State) (k : Nat) : Option Launch := (s.instOf k).bind fun i => s.comp.launches.get? i.launch
/-- The kernel that a core runs. -/
def State.kernelOf (s : State) (k : Nat) : Option Kernel := (s.launchOf k).bind fun l => s.cmd.kernels.get? l.kernel
/-- The job that a core works for. -/
def State.jobOf (s : State) (k : Nat) : Option Job := (s.launchOf k).bind fun l => s.cmd.jobs.get? l.job
/-- The group of a core's instance. -/
def State.groupOf (s : State) (k : Nat) : Option Group := (s.instOf k).bind fun i => s.comp.groups.get? i.group
/-- Is the core's kernel restartable (R113)? -/
def State.restartable (s : State) (k : Nat) : Bool := (s.kernelOf k).any (·.restartable)
/-- The bundle at an index of the core's instruction memory, if the image reaches it (R89). -/
def State.bundleAt (s : State) (k pc : Nat) : Option (BitVec 512) := (s.kernelOf k).bind fun x => x.image[pc]?
/-- The bundle that the core issues. -/
def State.bundle (s : State) (k : Nat) : Option (BitVec 512) := s.bundleAt k (s.coreOf k).pc
/-- The bits of a slot of the core's bundle. -/
def State.bits (s : State) (k sl : Nat) : Nat := ((s.bundle k).map fun b => slotBits b sl).getD 0
/-- The registers that the bundle's slots read: as they stood before any of them wrote (R91). -/
def State.src (s : State) (k : Nat) : Regs := (s.coreOf k).snap.getD (s.coreOf k).regs

/-! ### Faults (R111) -/

/-- The fault record's bits. -/
def FaultRec.word (f : FaultRec) : W64 :=
  BitVec.ofNat 64 (f.code % 256 * 2 ^ 56 + f.slot % 8 * 2 ^ 53 + (if f.precise then 2 ^ 52 else 0) + f.bundle % 4096 * 2 ^ 40 + f.detail % 2 ^ 40)

/-- A core raises a fault; the first one stands. -/
def State.raise (s : State) (k : Nat) (f : FaultRec) : State :=
  s.updCore k fun c => if c.fault.isSome then c else { c with fault := some f }

/-- A fault of the issuing bundle. -/
def State.faultHere (s : State) (k code sl : Nat) (precise : Bool) (detail : Nat) : FaultRec :=
  ⟨code, sl, precise, (s.coreOf k).pc % 4096, detail % 2 ^ 40⟩

/-- DETAIL of an address: its low 40 bits. -/
def detailOf (a : Int) : Nat := (a % 2 ^ 40).toNat

/-! ### Moving to a bundle (R89 to R91) -/

/-- The next bundle that holds an operation, passing bundles of no-operations; or the fault that fetching or checking one raises. -/
def seek (image : List (BitVec 512)) (fuel pc : Nat) : Nat × Option FaultRec :=
  match fuel with
  | 0 => (pc, some ⟨1, 7, true, pc % 4096, 0⟩)
  | fuel + 1 =>
    match image[pc]? with
    | none => (pc, some ⟨1, 7, true, pc % 4096, 0⟩)
    | some b =>
      match bundleIllegal b with
      | some sl => (pc, some ⟨1, sl, true, pc % 4096, 0⟩)
      | none => if activeSlots b = [] then seek image fuel (pc + 1) else (pc, none)

/-- The core goes on at a bundle: fetch and legality are checked at once (R89, R90, R316). -/
def State.arrive (s : State) (k pc : Nat) : State :=
  let image := ((s.kernelOf k).map (·.image)).getD []
  let (pc, f) := seek image 4097 pc
  let s := s.updCore k fun c => { c with pc := pc, snap := none, taken := 0, target := none, waiting := none }
  match f with
  | some f => s.raise k f
  | none =>
    let s := s.discover (imemKey k (64 * pc)) 64
    if s.mem.poisoned (imemKey k (64 * pc)) 64 then s.raise k ⟨7, 7, false, pc % 4096, 64 * pc⟩ else s

/-- The first slot of a bundle keeps the registers as the bundle found them (R91). -/
def State.begin (s : State) (k : Nat) : State :=
  s.updCore k fun c => { c with snap := some (c.snap.getD c.regs), waiting := none }

/-- A slot has taken effect. -/
def State.take (s : State) (k sl : Nat) : State :=
  s.updCore k fun c => { c with taken := c.taken ||| BitVec.ofNat 7 (2 ^ sl) }

/-- When every slot of the bundle has taken effect, the core goes on at the branch target or the next bundle. -/
def State.finish (s : State) (k : Nat) : State :=
  match s.bundle k with
  | none => s
  | some b =>
    let c := s.coreOf k
    if (activeSlots b).all fun sl => c.taken.getLsbD sl then s.arrive k (c.target.getD (c.pc + 1)) else s

/-! ### When a slot may issue (R91) -/

/-- Sync operations that hold the bundle until they are satisfied. -/
def syncWaits (op : Nat) : Bool := op = 1 || op = 5 || op = 6 || op = 8

/-- Registers that an outstanding load will write. -/
def Core.busy (c : Core) : List (Nat × Nat) := c.loads.map fun l => (l.kind, l.reg)

/-- A register of the bundle waits for an outstanding load. -/
def Core.stalled (c : Core) (b : BitVec 512) : Bool :=
  c.snap.isNone &&
    (activeSlots b).any fun sl => (slotReads sl (slotBits b sl) ++ slotWrites sl (slotBits b sl)).any fun r => c.busy.contains r

/-- Slots of a bundle that take effect before slot `sl`, since they read, or clear bits of, what it writes: a GETSR or SETSR, and before
the array slot a TRD (R10, R91: a status bit set as it is cleared reads 1, and every source is read before any slot writes). -/
def slotsFirst (b : BitVec 512) (sl : Nat) : List Nat :=
  (if (sl = 0 || sl = 4) && slotActive b 6 && (slotOp b 6 = 0x18 || slotOp b 6 = 0x19) then [6] else []) ++
    (if sl = 0 && slotActive b 2 && slotOp b 2 = 0x1C then [2] else [])

/-- Slot `sl` of the core's bundle holds operation `op`, has not taken effect, and its turn has come: a wait goes first, and a post,
fence, restart or end goes last (R91). A bundle of which a slot has taken effect issues whole, whatever imprecise fault has come (R111);
an end alone waits for the fault to be passed on. -/
def State.mayIssue (s : State) (k sl op : Nat) : Bool :=
  let c := s.coreOf k
  c.inst.isSome && (c.fault.isNone || (c.snap.isSome && !(sl = 5 && op = 11))) && (c.ending.isNone || c.snap.isSome) &&
    match s.bundle k with
    | none => false
    | some b =>
      slotActive b sl && slotOp b sl = op && !c.taken.getLsbD sl && !c.stalled b && (slotsFirst b sl).all (c.taken.getLsbD ·) &&
        (if sl = 5 then syncWaits op || (activeSlots b).all fun x => x = 5 || c.taken.getLsbD x
        else !(slotActive b 5 && syncWaits (slotOp b 5)) || c.taken.getLsbD 5)

/-- A fault that the core has raised may be passed on: no slot of its bundle has taken effect, or what is left of the bundle cannot (its array
operations are stopped, or it ends the kernel), and no addend that a kernel that is not restartable has issued still awaits its verdict
(R73, R111). -/
def State.faultReady (s : State) (k : Nat) : Bool :=
  let c := s.coreOf k
  (c.snap.isNone || c.stopped || (slotOp ((s.bundle k).getD 0) 5 = 11 &&
      (activeSlots ((s.bundle k).getD 0)).all fun x => x = 5 || c.taken.getLsbD x)) &&
    (s.restartable k || c.verdicts.all fun v => v.adds.isEmpty)

end Sys2Proof.Machine
end

