-- ==== Sys2Proof/Machine/ArrayOps.lean ====
section
/-! DEFINITION. Weight tiles, input rows and slab sums (chapters 02 and 03, R96 to R100). -/

namespace Sys2Proof.Machine

/-- The encoding of element `i` of a packed array of elements from byte `base` (R29). -/
def encAt (fmt : Nat) (a : Array Byte) (base i : Nat) : Nat :=
  match elemBits fmt with
  | 4 => (a.getD (base + i / 2) 0).toNat / (if i % 2 = 0 then 1 else 16) % 16
  | 16 => (a.getD (base + 2 * i) 0).toNat + 256 * (a.getD (base + 2 * i + 1) 0).toNat
  | 32 =>
    (a.getD (base + 4 * i) 0).toNat + 256 * (a.getD (base + 4 * i + 1) 0).toNat + 2 ^ 16 * (a.getD (base + 4 * i + 2) 0).toNat +
      2 ^ 24 * (a.getD (base + 4 * i + 3) 0).toNat
  | _ => (a.getD (base + i) 0).toNat

/-- Is an encoding +0 or −0? -/
def encZero (fmt e : Nat) : Bool := (elemValue fmt e).isZero

/-- Bytes of `n` elements. -/
def elemBytes (fmt n : Nat) : Nat := (n * elemBits fmt + 7) / 8

/-- An element's value with its block scale. -/
def mxValue (fmt e sc : Nat) : Val := if isMx fmt then scaled sc (elemValue fmt e) else elemValue fmt e

/-- The part of an FP32 value that a split-pair operation uses (R51, R100). -/
def splitPart (part : Nat) (x : W32) : Val := if part = 1 then f32Val (splitHi x) else splitLo x

/-! ### Weight tiles (R76 to R79, R96, R100) -/

/-- Bytes of a sparse block. -/
def blockBytes (fmt : Nat) : Nat := elemBytes fmt 32 + 12
/-- Bytes of a weight tile in memory. -/
def tileBytes (fmt : Nat) (sparse : Bool) : Nat :=
  if sparse then 512 * blockBytes fmt + (if isMx fmt then 1024 else 0)
  else elemBytes fmt 16384 + (if isMx fmt then 512 else 0)

/-- Position of slot `j` (0 to 31) of a block. -/
def blockPos (fmt : Nat) (a : Array Byte) (idx j : Nat) : Nat :=
  let base := idx * blockBytes fmt + elemBytes fmt 32
  let w := (List.range 12).foldr (fun i acc => (a.getD (base + i) 0).toNat + 256 * acc) 0
  w / 2 ^ (3 * j) % 8
/-- Encoding of slot `j` of a block. -/
def blockVal (fmt : Nat) (a : Array Byte) (idx j : Nat) : Nat := encAt fmt a (idx * blockBytes fmt) j

/-- Does a block violate the transposable format (R77)? -/
def blockBad (fmt : Nat) (a : Array Byte) (idx : Nat) : Bool :=
  ((List.range 8).any fun c => (List.range 3).any fun s => blockPos fmt a idx (4 * c + s + 1) ≤ blockPos fmt a idx (4 * c + s)) ||
    ((List.range 8).any fun r =>
      4 < ((List.range 32).filter fun j => blockPos fmt a idx j = r && !encZero fmt (blockVal fmt a idx j)).length)

/-- The first violating block of a sparse tile. -/
def firstBadBlock (fmt : Nat) (bytes : List Byte) : Option Nat :=
  let a := bytes.toArray
  (List.range 512).find? (blockBad fmt a)

/-- The four (position, value, is zero) slots of a transposed group, before padding: the non-zero slots of the block that name row `p`. -/
def rowGroup (fmt : Nat) (a : Array Byte) (idx p : Nat) (sc : Nat → Nat) : List (Nat × Val) :=
  let found := (List.range 8).flatMap fun c =>
    ((List.range 4).filter fun s => blockPos fmt a idx (4 * c + s) = p && !encZero fmt (blockVal fmt a idx (4 * c + s))).map fun s =>
      (c, mxValue fmt (blockVal fmt a idx (4 * c + s)) (sc c))
  -- padding takes the lowest unused columns (R78)
  let pad := (((List.range 8).filter fun c => !(found.any fun f => f.1 = c)).take (4 - found.length)).map fun c => (c, Val.fin false 0 0)
  (List.range 8).flatMap fun c => (found ++ pad).filter fun f => f.1 = c

/-- The weight of tile row `r` (0 to 127, or 255 when sparse) and column `c`: the array row that holds it and its value; none where no slot names it. -/
def WTile.weight (t : WTile) (a : Array Byte) (r c : Nat) : Option (Nat × Val) :=
  if t.sparse then
    let q := r / 8
    let sb := 512 * blockBytes t.fmt
    let slots : List (Nat × Val) :=
      if t.transposed then
        rowGroup t.fmt a (c / 8 * 32 + q) (c % 8) fun cc => (a.getD (sb + 256 * (c / 32) + (8 * q + cc)) 0).toNat
      else
        let idx := q * 16 + c / 8
        (List.range 4).map fun s =>
          let j := 4 * (c % 8) + s
          (blockPos t.fmt a idx j, mxValue t.fmt (blockVal t.fmt a idx j) (a.getD (sb + 128 * (r / 32) + c) 0).toNat)
    ((slots.zipIdx).find? fun x => x.1.1 = r % 8 && !x.1.2.isZero).map fun x => (4 * q + x.2, x.1.2)
  else
    let k := if t.transposed then c else r
    let n := if t.transposed then r else c
    let e := encAt t.fmt a 0 (128 * k + n)
    let v := if t.part = 0 then mxValue t.fmt e (a.getD (elemBytes t.fmt 16384 + 128 * (k / 32) + n) 0).toNat
      else splitPart t.part (BitVec.ofNat 32 e)
    some (r, v)

/-! ### Input rows and slab sums (R35 to R39, R67, R79, R80) -/

/-- Bytes of an input row. -/
def rowBytes (fmt : Nat) (sparse : Bool) : Nat :=
  let n := if sparse then 256 else 128
  elemBytes fmt n + (if isMx fmt then n / 32 else 0)

/-- Element `i` of an input row; `part` names a split-pair part. -/
def inputVal (fmt part : Nat) (sparse : Bool) (a : Array Byte) (i : Nat) : Val :=
  let n := if sparse then 256 else 128
  let e := encAt fmt a 0 i
  if part = 0 then mxValue fmt e (a.getD (elemBytes fmt n + i / 32) 0).toNat else splitPart part (BitVec.ofNat 32 e)

/-- The products of slab `j` of a pass in column `c`: masked rows, rows that no slot names, and zero activations of a sparse pass contribute nothing. -/
def slabProducts (t : WTile) (w : Array Byte) (x : Array Val) (mask : BitVec 128) (j c : Nat) : List Val :=
  (List.range 128).filterMap fun i =>
    let r := 128 * j + i
    match t.weight w r c with
    | none => none
    | some (row, v) =>
      let xv := x.getD r (Val.fin false 0 0)
      if !mask.getLsbD row || (t.sparse && xv.isZero) then none else some (xv.mul v)

/-- Status bits raised by a slab sum or accumulator addition (R47). -/
def tileStatus (mode : OvMode) (ovBit : Nat) (r : F32Res) : Nat :=
  (if mode = .flag && r.ov then 2 ^ ovBit else 0) ||| (if r.nan then 1 else 0)

/-- An entry after one slab: overwritten by the first, added to by the others (R39). -/
def addSlab (mode : OvMode) (first : Bool) (old : W32) (sum : F32Res) : W32 × Nat :=
  let st := tileStatus mode 1 sum
  if first then (sum.bits, st)
  else
    let r := accAdd mode old sum.bits
    (r.bits, st ||| tileStatus mode 2 r)

/-- One input row through the active tile into one tile row (R39, R80). -/
def passRow (mode : OvMode) (t : WTile) (w : Array Byte) (x : Array Val) (prow pcol : BitVec 128) (slab row : Nat) (tile : Tile) : Tile :=
  (List.range 128).foldl (fun tl c =>
    if pcol.getLsbD c then
      let key := 128 * row + c
      let (v, st) := addSlab mode (slab = 0) (tl.e.getD key 0) (slabSum mode (slabProducts t w x prow 0 c))
      let (v, st) :=
        if t.sparse then
          let (v', st') := addSlab mode false v (slabSum mode (slabProducts t w x prow 1 c))
          (v', st ||| st')
        else (v, st)
      { tl with e := tl.e.put key v, status := tl.status ||| BitVec.ofNat 32 st }
    else tl) tile

/-- Free bytes: values that the spec leaves open (log 2). -/
def State.freeBytes (s : State) (n : Nat) : List Byte :=
  (List.range n).map fun i => (Config.freeWord (s.free + i / 512)).extractLsb' (8 * (i % 512)) 8

/-- The tile that an `AMUL` computes with: the active tile, or a tile of free values where none of the named form is loaded (log 13). -/
def State.tileFor (s : State) (active : Option WTile) (fmt : Nat) (sparse split : Bool) : WTile :=
  match active with
  | some t => if t.fmt = fmt && t.sparse = sparse && (t.part != 0) = split then t else free
  | none => free
where
  free : WTile := { fmt := fmt, sparse := sparse, transposed := false, part := if split then 1 else 0,
                    bytes := s.freeBytes (tileBytes fmt sparse), addr := 0, bundle := 0 }

end Sys2Proof.Machine
end

