-- ==== Sys2Proof/Machine/OutOps.lean ====
section
/-! DEFINITION. The out path and the output compressor as functions of values and bytes (R34, R45, R49, R53, R82 to R87, R101, R102). -/

namespace Sys2Proof.Machine

/-! ### Packing (R29, R85, R86) -/

/-- Encodings packed at the element size, lowest first. -/
def packElems (fmt : Nat) (es : List Nat) : List Byte :=
  if elemBits fmt = 4 then nibbles es
  else es.flatMap fun e => leBytes (elemBits fmt / 8) e
where
  /-- Two encodings per byte, the even one low; a last lone one is padded. -/
  nibbles (es : List Nat) : List Byte :=
    match es with
    | [] => []
    | [a] => [BitVec.ofNat 8 (a % 16)]
    | a :: b :: t => BitVec.ofNat 8 (a % 16 + 16 * (b % 16)) :: nibbles t

/-- Scale bytes per row of `cols` columns. -/
def scaleBytes (fmt cols : Nat) : Nat := if isMx fmt then (cols + 31) / 32 else 0

/-- The header of a compressed tile (R85). -/
def tileHeader (cols rows fmt form nnz payload : Nat) : List Byte :=
  leBytes 8 (cols * 2 ^ 56 + rows * 2 ^ 48 + fmt * 2 ^ 44 + form * 2 ^ 42 + nnz * 2 ^ 24 + payload)

/-- A bitmap of 16 bytes. -/
def bitmap (es : List Nat) : List Byte :=
  leBytes 16 (es.foldr (fun e acc => (if e = 0 then 0 else 1) + 2 * acc) 0)

/-- Compress a tile: each row holds its element encodings and its scale bytes (R85 to R87). -/
def compress (fmt cols : Nat) (rows : List (List Nat × List Nat)) : List Byte :=
  let nz := (rows.map fun r => (r.1.filter (· != 0)).length).sum
  let scales := rows.flatMap (·.2)
  let dense := rows.flatMap fun r => packElems fmt r.1 ++ r.2.map (BitVec.ofNat 8 ·)
  let bm := rows.flatMap (fun r => bitmap r.1) ++ scales.map (BitVec.ofNat 8 ·) ++
    packElems fmt (rows.flatMap fun r => r.1.filter (· != 0))
  if nz = 0 && scales.all (· = 0) then tileHeader cols rows.length fmt 0 0 0
  else if bm.length < dense.length then tileHeader cols rows.length fmt 1 nz bm.length ++ bm
  else tileHeader cols rows.length fmt 2 nz dense.length ++ dense

/-- Bytes of the compressed tile whose header starts here. -/
def tileLength (hdr : List Byte) : Nat := 8 + bitsOf (leNat (hdr.take 8)) 23 0

/-- Decompress one tile to its dense rows (R86, R87). -/
def decompress (bs : List Byte) : List Byte :=
  let h := leNat (bs.take 8)
  let cols := bitsOf h 63 56
  let rows := bitsOf h 55 48
  let fmt := bitsOf h 47 44
  let form := bitsOf h 43 42
  let s := scaleBytes fmt cols
  let payload := (bs.drop 8).take (bitsOf h 23 0)
  match form with
  | 0 => zeros (rows * (elemBytes fmt cols + s))
  | 1 =>
    let a := payload.toArray
    let scalesAt := 16 * rows
    let elemsAt := scalesAt + rows * s
    let bit (r c : Nat) : Bool := (a.getD (16 * r + c / 8) 0).getLsbD (c % 8)
    let step := fun (acc : List Byte × Nat) (r : Nat) =>
      let (es, n) := (List.range cols).foldl (fun (x : List Nat × Nat) c =>
        if bit r c then (encAt fmt a elemsAt x.2 :: x.1, x.2 + 1) else (0 :: x.1, x.2)) ([], acc.2)
      (acc.1 ++ packElems fmt es.reverse ++ (payload.drop (scalesAt + r * s)).take s, n)
    ((List.range rows).foldl step ([], 0)).1
  | _ => payload

/-! ### One row of the out path (R45, R49, R53, R82) -/

/-- What an out-path operation asks for. -/
structure OutCfg where
  fmt : Nat
  act : Nat
  mode : OvMode
  sr : Bool
  pair : Bool
  /-- the scale of a column -/
  scale : Nat → W32
  /-- the bias of a column, when it is on -/
  bias : Option (Nat → W32)
  cols : BitVec 128

/-- The columns that the operation writes. -/
def colsOf (p : BitVec 128) : List Nat := (List.range 128).filter fun c => p.getLsbD c

/-- The scale is 1.0 in every column written. -/
def OutCfg.unitScale (g : OutCfg) : Bool := (colsOf g.cols).all fun c => g.scale c = 0x3F800000#32

/-- Identity, scale 1 and no bias: the read-out rounds directly to the destination (R45, R82). -/
def OutCfg.direct (g : OutCfg) : Bool := g.act = 0 && g.bias.isNone && g.unitScale

/-- Steps 1 to 3 of R82. -/
def OutCfg.chain (g : OutCfg) (c : Nat) (x : W32) : W32 :=
  let t := f32Mul x (g.scale c)
  let t := match g.bias with
    | none => t
    | some b => f32Add t (b c)
  actF32 g.act t

/-- A value that reaches the conversion, with status bits raised before it: from a long accumulator's exact value (`la`) or from FP32. -/
def OutCfg.before (g : OutCfg) (la : Bool) (c : Nat) (v : Val) : Val × Nat :=
  if g.direct then (v, 0)
  else
    let r := if la then roundF32 g.mode v else ⟨toF32 v, false, v.isNan⟩
    (f32Val (g.chain c r.bits), (if la && g.mode = .flag && r.ov then 8 else 0) ||| (if r.nan then 1 else 0))

/-- Element size of a destination: 64 bits for a pair. -/
def outBits (fmt : Nat) : Nat := if fmt = 10 then 64 else elemBits fmt

/-- One row out: an encoding for each column written, a scale for each MX block with a column written, and the status bits raised. -/
structure OutRow where
  enc : List (Option Nat)
  scales : List (Option Nat)
  status : Nat

/-- Compute one row: `v c` is the column's source value and `w c` its random word. -/
def OutCfg.row (g : OutCfg) (la : Bool) (v : Nat → Val) (w : Nat → Nat) : OutRow :=
  let rnd := fun c => if g.sr && g.fmt != 9 then RndMode.sr (w c) else RndMode.rne
  let ovBit := if g.direct && la then 8 else 16
  if g.pair then
    let rs := (List.range 128).map fun c => if g.cols.getLsbD c then some (pairOf g.mode (v c) 1) else none
    ⟨rs.map fun r => r.map (·.1), [], rs.foldl (fun st r =>
      match r with
      | none => st
      | some (_, ov, nan) => st ||| (if g.mode = .flag && ov then ovBit else 0) ||| (if nan then 1 else 0)) 0⟩
  else
    let pre := (List.range 128).map fun c => if g.cols.getLsbD c then some (g.before la c (v c)) else none
    let st0 := pre.foldl (fun st r =>
      match r with
      | none => st
      | some (_, x) => st ||| x) 0
    let val := fun c => ((pre.getD c none).map (·.1)).getD (Val.fin false 0 0)
    if isMx g.fmt then
      let blocks := (List.range 4).map fun j =>
        let cs := ((List.range 32).map (32 * j + ·)).filter fun c => g.cols.getLsbD c
        (cs, mxBlock g.fmt g.mode (cs.map fun c => (val c, rnd c)))
      let enc := (List.range 128).map fun c =>
        if g.cols.getLsbD c then
          match blocks[c / 32]? with
          | none => none
          | some (cs, b) => b.elems[cs.idxOf c]?
        else none
      ⟨enc, blocks.map fun x => if x.1.isEmpty then none else some x.2.scale, blocks.foldl (fun st x =>
        st ||| (if g.mode = .flag && x.2.ov then ovBit else 0) ||| (if x.2.nan then 1 else 0)) st0⟩
    else
      let rs := (List.range 128).map fun c => if g.cols.getLsbD c then some (convertTo g.fmt g.mode (rnd c) (val c)) else none
      ⟨rs.map fun r => r.map (·.bits), [], rs.foldl (fun st r =>
        match r with
        | none => st
        | some x => st ||| (if g.mode = .flag && x.ov then ovBit else 0) ||| (if x.nan then 1 else 0)) st0⟩

/-- A plain row's bytes: elements then block scales; a column not written is left as it is (`old` is what the row holds now). -/
def OutRow.plain (r : OutRow) (fmt : Nat) (old : List Byte) : List (Option Byte) :=
  let els : List (Option Byte) :=
    if fmt = 8 then
      (List.range 64).map fun i =>
        match r.enc.getD (2 * i) none, r.enc.getD (2 * i + 1) none with
        | none, none => none
        | a, b =>
          let o := (old.getD i 0).toNat
          some (BitVec.ofNat 8 (a.getD (o % 16) % 16 + 16 * (b.getD (o / 16) % 16)))
    else r.enc.flatMap fun e =>
      match e with
      | none => List.replicate (outBits fmt / 8) none
      | some x => (leBytes (outBits fmt / 8) x).map some
  els ++ r.scales.map fun x => x.map (BitVec.ofNat 8 ·)

/-- The first byte and the number of bytes of a plain row that an operation with columns `p` writes, gaps included. -/
def plainSpan (fmt : Nat) (p : BitVec 128) : Option (Nat × Nat) :=
  match (colsOf p).head?, (colsOf p).getLast? with
  | some a, some b =>
    let lo := a * outBits fmt / 8
    let hi := if isMx fmt then 128 * outBits fmt / 8 + b / 32 + 1 else (b * outBits fmt + outBits fmt + 7) / 8
    some (lo, hi - lo)
  | _, _ => none

/-- The columns are 0 to n − 1 for some n above 0 (R101). -/
def colsContiguous (p : BitVec 128) : Bool :=
  let n := (colsOf p).length
  0 < n && (List.range n).all fun c => p.getLsbD c

/-- A compressed tile from rows out (R101). -/
def compressRows (fmt : Nat) (p : BitVec 128) (rs : List OutRow) : List Byte :=
  let n := (colsOf p).length
  compress fmt n (rs.map fun r => ((r.enc.take n).map (·.getD 0), (r.scales.take (scaleBytes fmt n)).map (·.getD 0)))

/-! ### Loads of compressed tiles (R87) -/

/-- The `n` bytes at a key as a load or DMA delivers them: a compressed tile that begins there is expanded first (R87, log 11). -/
def State.loadBytes (s : State) (key n : Nat) : List Byte :=
  if s.mem.tiles.contains key then
    let d := decompress (s.mem.read key (tileLength (s.mem.read key 8)))
    (d ++ s.freeBytes (n - d.length)).take n
  else s.mem.read key n

end Sys2Proof.Machine
end

