-- ==== Sys2Proof/Machine/Issue.lean ====
section
/-! DEFINITION. The precise faults that a bundle's slots raise before any of them takes effect (R90 to R103, R111), and the one step by
which a slot takes effect. -/

namespace Sys2Proof.Machine

/-! ### Operand forms shared by faults and effects -/

/-- A load/store slot's address: the generator's address plus OFS (R93). -/
def lsAddr (r : Regs) (bits : Nat) : Int := genAddr (r.gr (fld bits 66 64)) + sgn 32 (fld bits 31 0)
/-- A load/store slot's handle. -/
def lsHandle (r : Regs) (bits : Nat) : BitVec 32 := genHandle (r.gr (fld bits 66 64))
/-- A DMA's destination address: G2's (OFS applies to G; DEDUCED, log 14). -/
def dmaDst (r : Regs) (bits : Nat) : Int := genAddr (r.gr (fld bits 63 61))
/-- A DMA's destination handle. -/
def dmaHandle (r : Regs) (bits : Nat) : BitVec 32 := genHandle (r.gr (fld bits 63 61))
/-- Where GCFG reads. -/
def gcfgAddr (r : Regs) (bits : Nat) : Int := ((r.sr (fld bits 71 67)).toNat : Int) + sgn 32 (fld bits 31 0)
/-- Bytes of an LDVC vector. -/
def ldvcBytes (fmt : Nat) : Nat := elemBytes fmt 128 + (if isMx fmt then 4 else 0)
/-- Bytes of a 128 × 128 tile that a transposing DMA moves. -/
def trBytes (fmt : Nat) : Nat := 128 * 128 * elemBits fmt / 8

/-- Rows of an array operation: ROW0 to ROW0 + NVEC. -/
def arrRows (bits : Nat) : List Nat := (List.range (fld bits 45 38 + 1)).map (· + fld bits 52 46)
/-- Offsets of the records of some rows and columns, with each record's row (from 0) and column (R98). -/
def recordOfs (g : BitVec 256) (rows : Nat) (cols : BitVec 128) : List (Nat × Nat × Int) :=
  (List.range rows).flatMap fun r => (colsOf cols).map fun c => (r, c, genAddr g + (r : Int) * genStride0 g + 48 * (c : Int))

/-- The weight tile that an AMUL computes with: after its SWAP, when it asks for one. -/
def amulTile (c : Core) (bits : Nat) : Option WTile :=
  if flag bits 57 then (if c.loading.isSome then c.loading else c.shadow) else c.active

/-- The out-path configuration of a slot. -/
def outCfg (r : Regs) (bits : Nat) : OutCfg :=
  { fmt := fld bits 49 46, act := fld bits 45 42, mode := (ovMode (fld bits 41 40)).getD .sat, sr := flag bits 39, pair := flag bits 37,
    scale := fun c => lane (r.vr (fld bits 34 30)) (if flag bits 35 then c else 0),
    bias := if flag bits 36 then some fun c => lane (r.vr (fld bits 29 25)) c else none,
    cols := r.pr (fld bits 6 3) }

/-- Rows of an out-path operation: ROWS + 1 for OREAD, one for OVEC. -/
def outRowCount (op bits : Nat) : Nat := if op = 1 then fld bits 19 13 + 1 else 1

/-- The random word of element (row, column) (R102). -/
def State.outRandom (s : State) (k : Nat) (r : Regs) (bits row c : Nat) : Nat :=
  let i := fld bits 24 20
  match s.jobOf k with
  | none => 0
  | some j => randomWord j.seed j.step (r.sr i).toNat (((r.sr (i + 1)).toNat + row * (r.sr (i + 2)).toNat + c) % 2 ^ 64)

/-- The rows that an out-path operation computes. -/
def State.outRows (s : State) (k op bits : Nat) (r : Regs) : List OutRow :=
  let g := outCfg r bits
  let gs := r.gr (fld bits 55 53)
  (List.range (outRowCount op bits)).map fun (row : Nat) =>
    let v := fun (c : Nat) =>
      if op = 1 then
        (s.laEntry (spanKey k (genHandle gs) (genAddr gs + (row : Int) * genStride0 gs + 48 * (c : Int)).toNat)).val
      else f32Val (lane (r.vr (fld bits 11 7)) c)
    g.row (op = 1) v (s.outRandom k r bits row)

/-- Does the operation write a compressed tile? Pairs are always plain. -/
def outCompressed (bits : Nat) : Bool := flag bits 38 && !flag bits 37

/-! ### Precise faults -/

/-- An illegal-operation fault of a slot. -/
def State.illegal (s : State) (k sl : Nat) (c : Bool) : Option FaultRec := if c then some (s.faultHere k 1 sl true 0) else none

/-- The address fault of an access, if it raises one (R93). -/
def State.spanFault (s : State) (k sl : Nat) (h : BitVec 32) (ofs : Int) (n align : Nat) : Option FaultRec :=
  if s.addressBad h ofs n align then some (s.faultHere k 2 sl true (detailOf ofs)) else none

/-- The first fault of a list of accesses. -/
def State.spansFault (s : State) (k sl : Nat) (h : BitVec 32) (os : List Int) (n align : Nat) : Option FaultRec :=
  (os.find? fun o => s.addressBad h o n align).map fun o => s.faultHere k 2 sl true (detailOf o)

/-- The first fault that the records of an operation raise: a record is 48 bytes, 16-byte aligned, and stands in a berth (R94, R98, R109). -/
def State.recordsFault (s : State) (k sl : Nat) (g : BitVec 256) (rows : Nat) (cols : BitVec 128) : Option FaultRec :=
  if genHandle g = 0 then some (s.faultHere k 2 sl true (detailOf (genAddr g)))
  else s.spansFault k sl (genHandle g) ((recordOfs g rows cols).map (·.2.2)) 48 16

/-- Precise faults of the array slot (R30, R46, R96, R97, R100, R114). -/
def State.arrayFault (s : State) (k op bits : Nat) (r : Regs) : Option FaultRec :=
  let c := s.coreOf k
  let spg := fld bits 21 20
  let fw := fld bits 66 63
  let fa := fld bits 70 67
  let sp := flag bits 60
  let tile := c.tiles.getD (fld bits 87 85) Tile.init
  let rows := fld bits 45 38 + 1
  let pcol := r.pr (fld bits 80 77)
  let split := spg != 0
  let common := (ovMode (fld bits 62 61)).isNone || spg = 3 || (op != 1 && 128 < fld bits 52 46 + rows)
  let locked := s.restartable k && (arrRows bits).any fun x => (tile.locked ++ tile.locking).contains x
  match op with
  | 1 =>
    let gw := r.gr (fld bits 73 71)
    s.illegal k 0 (common || (if split then fw != 9 || sp else 8 < fw) || genHandle gw != 0) <|>
      s.spanFault k 0 0 (genAddr gw) (tileBytes fw sp) 1
  | 2 =>
    let ga := r.gr (fld bits 76 74)
    let slab := fld bits 56 53
    let bad :=
      if split then
        fa != 9 || fw != 9 || fld bits 87 85 != 0 || slab != 0 || flag bits 34 || sp || flag bits 59 ||
          (spg = 2 && (amulTile c bits).any fun t => t.part = 2)
      else
        7 < fa || 8 < fw || (sp && slab % 2 = 1) || (slab != 0 && (slab < tile.cursor || !tile.opened)) || locked
    s.illegal k 0 (common || bad || genHandle ga != 0) <|>
      s.spansFault k 0 0 (genRows rows ga) (rowBytes fa sp) 1 <|>
        (if split then s.recordsFault k 0 (r.gr (fld bits 37 35)) rows pcol else none)
  | 3 => s.illegal k 0 common <|> s.recordsFault k 0 (r.gr (fld bits 37 35)) rows pcol
  | 4 => s.illegal k 0 (common || locked)
  | 5 => s.illegal k 0 common <|> s.recordsFault k 0 (r.gr (fld bits 37 35)) rows pcol
  | _ => none

/-- Lowest set lane and number of lanes up to the highest. -/
def laneSpan (p : BitVec 128) : Nat × Nat :=
  match (colsOf p).head?, (colsOf p).getLast? with
  | some a, some b => (a, b + 1 - a)
  | _, _ => (0, 0)

/-- Do two spans of bytes overlap? -/
def spansMeet (a : Int) (n : Nat) (b : Int) (m : Nat) : Bool := a < b + m && b < a + n

/-- Precise faults of the load/store slot (R93, R94, R151). The source of a compressed tile is measured by the expanded length that the
operation names, not by its stored bytes (DESIGN CHOICE, log 201). -/
def State.lsFault (s : State) (k op bits : Nat) (r : Regs) : Option FaultRec :=
  let h := lsHandle r bits
  let a := lsAddr r bits
  let fmt := fld bits 56 53
  let vec : Option FaultRec :=
    let (lo, n) := laneSpan (r.pr (fld bits 60 57))
    s.spanFault k 1 h a 0 64 <|> s.spanFault k 1 h (a + 4 * lo) (4 * n) 1
  match op with
  | 1 => s.spanFault k 1 h a 8 8
  | 2 => s.spanFault k 1 h a 8 8
  | 3 => vec
  | 4 => vec
  | 5 => s.illegal k 1 (fmt = 8 || 9 < fmt) <|> s.spanFault k 1 h a (ldvcBytes fmt) 1
  | 6 => s.spanFault k 1 h a 16 1
  | 7 => s.spanFault k 1 h a 16 1
  | 8 =>
    let n := (r.sr (fld bits 71 67)).toNat
    let g := r.gr (fld bits 66 64)
    let d := dmaDst r bits
    let rowN := elemBytes fmt 128
    let rows := (List.range 128).map fun i => a + (i : Int) * genStride0 g
    let lo := rows.foldl min a
    let hi := rows.foldl max a + rowN
    let inUse := s.illegal k 1 ((s.coreOf k).dmas.has (fld bits 50 45))
    if flag bits 52 then
      inUse <|> s.illegal k 1 (4 < fmt || n != trBytes fmt || (h = dmaHandle r bits && spansMeet lo (hi - lo).toNat d n)) <|>
        s.spansFault k 1 h rows rowN 1 <|> s.spanFault k 1 (dmaHandle r bits) d n 1
    else inUse <|> s.spanFault k 1 h a n 1 <|> s.spanFault k 1 (dmaHandle r bits) d n 1
  | 10 => s.spanFault k 1 0 (gcfgAddr r bits) 32 1
  | _ => none

/-- Precise faults of a vector slot: a sub-operation that the tables do not list (R95; DEDUCED, log 12). -/
def State.vecFault (s : State) (k sl op bits : Nat) : Option FaultRec :=
  s.illegal k sl ((op = 0x0C || op = 0x1D) && 4 < fld bits 35 32)

/-- Precise faults of the out-path slot (R46, R49, R82, R84, R85, R101, R102). Two of them raise the illegal-operation fault where the spec says
what must hold and names no fault: CMP with columns that are not 0 to COLS − 1, and FMT 0xA with PAIR clear (DESIGN CHOICE, log 202). -/
def State.outFault (s : State) (k op bits : Nat) (r : Regs) : Option FaultRec :=
  let g := outCfg r bits
  let gd := r.gr (fld bits 52 50)
  let rows := outRowCount op bits
  let d := genAddr gd
  let h := genHandle gd
  s.illegal k 4 ((ovMode (fld bits 41 40)).isNone || 10 < g.fmt || (g.fmt = 10 && !g.pair) || 6 < g.act || 29 < fld bits 24 20 ||
      (g.pair && (g.fmt != 10 || g.act != 0 || g.bias.isSome || !g.unitScale)) || (outCompressed bits && !colsContiguous g.cols)) <|>
    (if op = 1 then s.recordsFault k 4 (r.gr (fld bits 55 53)) rows g.cols else none) <|>
      (if outCompressed bits then s.spanFault k 4 h d (compressRows g.fmt g.cols (s.outRows k op bits r)).length 8
      else
        match plainSpan g.fmt g.cols with
        | none => none
        | some (lo, n) => s.spansFault k 4 h ((List.range rows).map fun i => d + (i : Int) * genStride0 gd + (lo : Int)) n 1)

/-- A semaphore's posts that the core still holds (R113). -/
def heldPosts (hs : List Held) (idx : Nat) : Nat :=
  (hs.map fun h => match h with
    | .spost i n _ => if i = idx then n else 0
    | _ => 0).sum

/-- The count of a semaphore of the core's group. -/
def State.sem (s : State) (k idx : Nat) : Nat := ((s.groupOf k).map fun g => g.sems.getD idx 0).getD 0

/-- An SPOST would take the count above 65,535 (R103). -/
def State.postOverflows (s : State) (k idx amount : Nat) : Bool := 65535 < s.sem k idx + heldPosts (s.coreOf k).held idx + amount

/-- Precise faults of the sync slot (R103, R104, R114). -/
def State.syncFault (s : State) (k op bits : Nat) (r : Regs) : Option FaultRec :=
  let idx := fld bits 39 32
  let sr := fld bits 31 27
  let nsem := ((s.groupOf k).map (·.nsem)).getD 0
  let nev := ((s.groupOf k).map (·.nev)).getD 0
  let words := ((s.jobOf k).map (·.sigWords)).getD 0
  let sig := if words ≤ (r.sr sr).toNat then some (s.faultHere k 2 5 true 0) else none
  match op with
  | 1 => s.illegal k 5 (nsem ≤ idx || (s.restartable k && 16 ≤ (s.coreOf k).cons.length))
  | 2 =>
    s.illegal k 5 (nsem ≤ idx) <|> (if s.postOverflows k idx (fld bits 15 0) then some (s.faultHere k 4 5 true 0) else none)
  | 3 => s.illegal k 5 (nev ≤ idx % 64)
  | 4 => s.illegal k 5 (nev ≤ idx % 64)
  | 5 => s.illegal k 5 (nev ≤ idx % 64)
  | 6 => s.illegal k 5 (30 < sr) <|> sig
  | 7 => s.illegal k 5 (29 < sr) <|> sig
  | _ => none

/-- Precise faults of the scalar slot (R92). -/
def State.scalarFault (s : State) (k op bits : Nat) : Option FaultRec :=
  let c := s.coreOf k
  match op with
  | 0x15 => if 16 ≤ c.stack.length then some (s.faultHere k 3 6 true 0) else none
  | 0x16 => s.illegal k 6 c.stack.isEmpty
  | 0x19 => s.illegal k 6 (fld bits 11 0 < 0x10 || 0x17 < fld bits 11 0)
  | _ => none

/-- The precise fault of one slot. -/
def State.slotFault (s : State) (k sl op bits : Nat) (r : Regs) : Option FaultRec :=
  match sl with
  | 0 => s.arrayFault k op bits r
  | 1 => s.lsFault k op bits r
  | 2 => s.vecFault k 2 op bits
  | 3 => s.vecFault k 3 op bits
  | 4 => s.outFault k op bits r
  | 5 => s.syncFault k op bits r
  | _ => s.scalarFault k op bits

/-- The precise fault that the core's bundle raises as its first slot would take effect: the lowest-numbered slot's (R111, log 12). -/
def State.newFault (s : State) (k : Nat) : Option FaultRec :=
  match (s.coreOf k).snap, s.bundle k with
  | none, some b => (activeSlots b).findSome? fun sl => s.slotFault k sl (slotOp b sl) (slotBits b sl) (s.coreOf k).regs
  | _, _ => none

/-! ### One slot takes effect -/

/-- Slot `sl` with operation `op` takes effect on core `k`: when it may issue and `ready` holds, the bundle either raises its precise
fault, or the effect is taken on the state in which the bundle's sources are kept. Otherwise nothing happens (log 1). -/
def State.slotStep (s : State) (k sl op : Nat) (ready : Bool) (eff : State → State) : Host.Outcome State Fault Refusal :=
  s.when (s.mayIssue k sl op && ready)
    (match s.newFault k with
    | some f => s.raise k f
    | none => ((eff (s.begin k)).take k sl).finish k)

end Sys2Proof.Machine
end

