-- ==== Sys2Proof/Machine/ArrayFamily.lean ====
section
/-! DEFINITION. The array slot, its weight tiles and verdicts, and the long accumulators (R42 to R45, R65, R68, R73, R77, R96 to R100, R109). -/

namespace Sys2Proof.Machine

/-- Change an accumulator tile of a core of the state. -/
def State.updTile (s : State) (k i : Nat) (f : Tile → Tile) : State :=
  s.updCore k fun c => { c with tiles := c.tiles.upd i Tile.init f }

/-- The array, or the thin path that serves the instance, takes operations: no failed verdict has stopped the kernel, and a bound
instance has its thin path (R73, R75). -/
def State.arrayReady (s : State) (k : Nat) : Bool :=
  !(s.coreOf k).stopped &&
    match s.instOf k with
    | none => false
    | some i => !i.thin || ((s.cluster (clusterOf k)).thinInst = (s.coreOf k).inst && (s.cluster (clusterOf k)).thinOn && !(s.cluster (clusterOf k)).thinTest)

/-- The array works: it is not gated (R68). -/
def State.arrayUsed (s : State) (k : Nat) : State := s.updCore k fun c => { c with arrayAt := s.now, arrayGated := false }

/-- The weight tile that an ALDW names. -/
def aldwTile (s : State) (k bits : Nat) (r : Regs) : WTile :=
  let fw := fld bits 66 63
  let a := (genAddr (r.gr (fld bits 73 71))).toNat
  { fmt := fw, sparse := flag bits 60, transposed := flag bits 58, part := fld bits 21 20,
    bytes := s.mem.read (sramKey k a) (tileBytes fw (flag bits 60)), addr := a, bundle := (s.coreOf k).pc % 4096 }

/-- ALDW: load the shadow tile from GW; a load already under way completes first (R65, R77, R78, R100). -/
def execAldw (k : Nat) (s : State) : Host.Outcome State Fault Refusal :=
  let bits := s.bits k 0
  let r := s.src k
  s.slotStep k 0 1 (s.arrayReady k && (s.coreOf k).loading.isNone) fun t =>
    let t := t.discover (sramKey k (genAddr (r.gr (fld bits 73 71))).toNat) (tileBytes (fld bits 66 63) (flag bits 60))
    (t.updCore k fun c => { c with loading := some (aldwTile t k bits r) }).arrayUsed k

/-- SHADOW_TILE_LOADED: the load completes; a sparse tile is checked block by block, and a violating block raises the sparse-mask fault
without a swap (R65, R77). DETAIL holds the tile's address in bits [19:0] and the block's index above (DESIGN CHOICE, log 41). -/
def execShadowTileLoaded (k : Nat) (s : State) : Host.Outcome State Fault Refusal :=
  match (s.coreOf k).loading with
  | none => .next s
  | some t =>
    let u := s.updCore k fun c => { c with loading := none }
    .next (if s.mem.poisoned (sramKey k t.addr) t.bytes.length then u.raise k ⟨7, 0, false, t.bundle, t.addr⟩
    else
      match (if t.sparse then firstBadBlock t.fmt t.bytes else none) with
      | some i => u.raise k ⟨5, 0, false, t.bundle, t.addr + i * 2 ^ 20⟩
      | none => u.updCore k fun c => { c with shadow := some t })

/-- Swap the shadow tile in when the operation asks for it (R65). -/
def Core.swap (c : Core) (bits : Nat) : Core := if flag bits 57 then { c with active := c.shadow, shadow := none } else c

/-- The input rows of an AMUL, with the first poisoned row's offset. -/
def State.amulRows (s : State) (k bits : Nat) (r : Regs) : List (List Byte) × Option Nat :=
  let n := rowBytes (fld bits 70 67) (flag bits 60)
  let at_ := (genRows (fld bits 45 38 + 1) (r.gr (fld bits 76 74))).map Int.toNat
  (at_.map fun o => s.mem.read (sramKey k o) n, at_.find? fun o => s.mem.poisoned (sramKey k o) n)

/-- Addends go to their records: held in a restartable kernel until its restart point, else sent on at once (R43, R113). -/
def State.sendAdds (s : State) (k bundle : Nat) (adds : List (Nat × W32)) : State :=
  if s.restartable k then s.updCore k fun c => { c with held := c.held ++ adds.map fun a => .flush a.1 a.2 bundle }
  else s.setComp { s.comp with addends := s.comp.addends ++ adds.map fun a => ⟨k, bundle, a.1, .fp32 a.2⟩ }

/-- Slabs that an AMUL runs for each input row: two in a sparse pass (R96). -/
def slabsOf (bits : Nat) : Nat := if flag bits 60 then 2 else 1

/-- The tile's entries after an AMUL's rows (R35 to R39, R67, R80, R97). -/
def amulTileAfter (t : WTile) (rows : List (List Byte)) (bits : Nat) (r : Regs) (tile : Tile) : Tile :=
  let mode := (ovMode (fld bits 62 61)).getD .sat
  let w := t.bytes.toArray
  let fa := fld bits 70 67
  let sp := flag bits 60
  let slab := fld bits 56 53
  let n := if sp then 256 else 128
  let last := if sp then slab + 1 else slab
  let tile := (rows.zipIdx).foldl (fun (tl : Tile) (x : List Byte × Nat) =>
    let a := x.1.toArray
    let xs := ((List.range n).map (inputVal fa 0 sp a)).toArray
    passRow mode t w xs (r.pr (fld bits 84 81)) (r.pr (fld bits 80 77)) slab (fld bits 52 46 + x.2) tl) tile
  { tile with cursor := if slab = 0 then last else tile.cursor, opened := slab = 0 || tile.opened,
              verdicts := tile.verdicts + rows.length * slabsOf bits }

/-- The slab sums of one input row of a split-pair AMUL, each with its record's key (R100). -/
def splitAdds (k : Nat) (t : WTile) (rows : List (List Byte)) (bits : Nat) (r : Regs) (row : Nat) : List (Nat × W32) :=
  let mode := (ovMode (fld bits 62 61)).getD .sat
  let w := t.bytes.toArray
  let gl := r.gr (fld bits 37 35)
  let xs := ((List.range 128).map (inputVal 9 (fld bits 21 20) false ((rows.getD row []).toArray))).toArray
  ((recordOfs gl rows.length (r.pr (fld bits 80 77))).filter fun x => x.1 = row).map fun x =>
    (spanKey k (genHandle gl) x.2.2.toNat, (slabSum mode (slabProducts t w xs (r.pr (fld bits 84 81)) 0 x.2.1)).bits)

/-- The verdicts that an AMUL awaits, one for each slab of each input row, in the order of their broadcasts (R72, R73). -/
def amulVerdicts (k : Nat) (t : WTile) (rows : List (List Byte)) (bits : Nat) (r : Regs) (bundle : Nat) : List Verdict :=
  (List.range rows.length).flatMap fun i =>
    if fld bits 21 20 != 0 then [{ tile := none, bundle := bundle, adds := splitAdds k t rows bits r i }]
    else List.replicate (slabsOf bits) { tile := some (fld bits 87 85), bundle := bundle, adds := [] }

/-- A poisoned block of the accumulator store lies in one of the rows (R145, R316). -/
def badRows (t : Tile) (rows : List Nat) : Bool := t.bad.any fun b => rows.contains (b / 8)

/-- AMUL: stream rows from GA through the active tile into rows of AT, or straight to records for a split-pair pass
(R35 to R39, R64 to R67, R79 to R81, R96, R97, R99, R100). -/
def execAmul (k : Nat) (s : State) : Host.Outcome State Fault Refusal :=
  let bits := s.bits k 0
  let r := s.src k
  let split := fld bits 21 20 != 0
  let ga := r.gr (fld bits 76 74)
  let rowsN := fld bits 45 38 + 1
  s.slotStep k 0 2 (s.arrayReady k && !(flag bits 57 && (s.coreOf k).loading.isSome)) fun t =>
    let t := (genRows rowsN ga).foldl (fun t o => t.discover (sramKey k o.toNat) (rowBytes (fld bits 70 67) (flag bits 60))) t
    let t := (t.updCore k fun c => c.swap bits).arrayUsed k
    let wt := t.tileFor (t.coreOf k).active (fld bits 66 63) (flag bits 60) split
    let known := (t.coreOf k).active = some wt
    let (rows, bad) := t.amulRows k bits r
    let u := t.updCore k fun c => { c with verdicts := c.verdicts ++ amulVerdicts k wt rows bits r (c.pc % 4096) }
    let u := if split then u else u.updTile k (fld bits 87 85) (amulTileAfter wt rows bits r)
    let u := u.updRegs k fun x =>
      let x := x.setG (fld bits 76 74) (genAdvanceN rowsN ga)
      if split then x.setG (fld bits 37 35) (genAdvance (r.gr (fld bits 37 35))) else x
    let u := if known then u else u.setFree (u.free + tileBytes (fld bits 66 63) (flag bits 60) / 512 + 1)
    match bad with
    | some o => u.raise k (u.faultHere k 7 0 false o)
    | none => if !split && badRows (((t.coreOf k).tiles.getD (fld bits 87 85) Tile.init)) (arrRows bits) then u.raise k (u.faultHere k 7 0 false 0) else u

/-- A restart point may begin: none is under way, no split-pair addends still wait for their verdicts, and no load of a scalar register that the
save area holds is in flight (R91, R100, R113). -/
def State.restartReady (s : State) (k : Nat) : Bool :=
  (s.coreOf k).commit.isNone && ((s.coreOf k).verdicts.all fun v => v.tile.isSome) && (s.coreOf k).loads.all fun l => l.kind != 0

/-- A restart point begins: the save area is taken with the effects held so far (R113). -/
def State.restartPoint (s : State) (k resume : Nat) : State :=
  s.updCore k fun c =>
    { c with commit := some ({ s := c.regs.s, g := c.regs.g, stack := c.stack, resume := resume, cons := c.cons }, c.held), held := [], cons := [],
             tiles := c.tiles.mapVals fun _ t => { t with locked := [], locking := t.locked } }

/-- AFLUSH: rows and unmasked columns of AT go to their records as addends, once every slab's verdict has arrived; with RPT it is a
restart point, taken after the bundle's other slots (R73, R97, R98, R113). -/
def execAflush (k : Nat) (s : State) : Host.Outcome State Fault Refusal :=
  let bits := s.bits k 0
  let r := s.src k
  let at_ := fld bits 87 85
  let gl := r.gr (fld bits 37 35)
  let tile := (s.coreOf k).tiles.getD at_ Tile.init
  let rpt := flag bits 34 && s.restartable k
  let others := ((s.bundle k).map activeSlots).getD []
  s.slotStep k 0 3 (s.arrayReady k && tile.verdicts = 0 &&
      (!rpt || (s.restartReady k && others.all fun x => x = 0 || x = 5 || (s.coreOf k).taken.getLsbD x))) fun t =>
    let adds := (if badRows tile (arrRows bits) then [] else recordOfs gl (fld bits 45 38 + 1) (r.pr (fld bits 80 77))).map fun x =>
      (spanKey k (genHandle gl) x.2.2.toNat, tile.e.getD (128 * (fld bits 52 46 + x.1) + x.2.1) 0)
    let u := (t.sendAdds k ((t.coreOf k).pc % 4096) adds).arrayUsed k
    let u := u.updTile k at_ fun x =>
      { x with cursor := fld bits 56 53, opened := false, locked := if t.restartable k then (x.locked ++ arrRows bits).dedup else x.locked }
    let u := u.updRegs k fun x => x.setG (fld bits 37 35) (genAdvance gl)
    if badRows tile (arrRows bits) then u.raise k (u.faultHere k 7 0 false 0)
    else if rpt then u.restartPoint k (fld bits 33 22) else u

/-- ACLR: rows of AT become +0 and the slab cursor is reset (R96, R97). -/
def execAclr (k : Nat) (s : State) : Host.Outcome State Fault Refusal :=
  let bits := s.bits k 0
  s.slotStep k 0 4 (s.arrayReady k) fun t =>
    (t.updTile k (fld bits 87 85) fun x =>
      { x with e := x.e.keep fun i _ => !(arrRows bits).contains (i / 128), cursor := fld bits 56 53, opened := false,
               bad := x.bad.filter fun b => !(arrRows bits).contains (b / 8) }).arrayUsed k

/-- LINIT: the records of rows and unmasked columns become initialised: 48 zero bytes each (R45, R98, R109). -/
def execLinit (k : Nat) (s : State) : Host.Outcome State Fault Refusal :=
  let bits := s.bits k 0
  let r := s.src k
  let gl := r.gr (fld bits 37 35)
  let os := (recordOfs gl (fld bits 45 38 + 1) (r.pr (fld bits 80 77))).map (·.2.2.toNat)
  s.slotStep k 0 5 (s.arrayReady k && !os.any fun o => s.spanHeld (genHandle gl) o 48) fun t =>
    if os.any fun o => t.spanLost (genHandle gl) o 48 then t.raise k (t.faultHere k 9 0 false 0)
    else (os.foldl (fun t o => t.writeSpan (some k) (genHandle gl) o (zeros 48)) t).arrayUsed k

/-- ARRAY_GATE: 32 cycles of 700 MHz without an array operation gate the array (R68). -/
def execArrayGate (k : Nat) (s : State) : Host.Outcome State Fault Refusal :=
  let c := s.coreOf k
  s.when (!c.arrayGated && c.arrayAt + 2 ≤ s.now) (s.updCore k fun c => { c with arrayGated := true })

/-- A residue fault of a core's array or thin path is recorded: class 0x05 or 0x06, counted unless injected (R314, R321, R322, R345). -/
def State.residueEvent (s : State) (k : Nat) (injected : Bool) : State :=
  let cl := clusterOf k
  let thin := (s.instOf k).any (·.thin)
  let outcome := if s.restartable k then 2 else 1
  let s := if thin then s.fault 6 utCluster (clusterUnit cl) 0 outcome injected else s.fault 5 utCore (coreUnit k) 0 outcome injected
  if injected then s
  else if thin then s.updCluster cl fun x => { x with thinFaults := s.now :: recent s.now x.thinFaults }
  else s.updCoreHw k fun x => { x with faults := s.now :: recent s.now x.faults }

/-- The residue of a value modulo 127 (R72). -/
def res127 (x : Int) : Int := x % 127

/-- One of R72's identities: the residue of a checked value as the datapath holds it, `v + err`, equals the residue found apart. It holds whenever
there is no error, and fails for every error that is no multiple of 127. -/
def residueHolds (v err : Int) : Bool := res127 (v + err) = res127 v

/-- RESIDUE_VERDICT: the verdict on the oldest slab that awaits one arrives; `err` is the error that a checked value of the slab suffered, 0 when
none did (log 35). A mismatch poisons its tile, stops the kernel's array operations and raises the arithmetic-check fault; a split-pair
operation's addends leave the core only now (R72, R73, R100). -/
def execResidueVerdict (k : Nat) (err : Int) (s : State) : Host.Outcome State Fault Refusal :=
  let good := residueHolds 0 err
  match (s.coreOf k).verdicts with
  | [] => .next s
  | v :: rest =>
    let cl := clusterOf k
    let (hit, s) := if (s.instOf k).any (·.thin) then s.takeInjection 6 (clusterUnit cl) else s.takeInjection 5 (coreUnit k)
    let s := s.updCore k fun c => { c with verdicts := rest }
    let s := match v.tile with
      | none => s
      | some i => s.updTile k i fun x => { x with verdicts := x.verdicts - 1, poisoned := x.poisoned || !good || hit }
    .next (if good && !hit then s.sendAdds k v.bundle v.adds
    else
      let s := s.residueEvent k (good && hit)
      (s.updCore k fun c => { c with stopped := true }).raise k ⟨6, 0, false, v.bundle, 0⟩)

/-! ### The long accumulators (R42 to R45, R109) -/

/-- The global address of a berth key's byte; 0 for a page not yet placed. -/
def State.keyAddr (s : State) (key : Nat) : Nat :=
  match s.place.berths.get? (key / 2 ^ 48) with
  | none => 0
  | some b => ((b.pages.get? (key % 2 ^ 48 / pageSize b.cls)).map fun p => pageAddr p.base + key % 2 ^ 48 % pageSize b.cls).getD 0

/-- The clusters of a die over which the home hash is taken: those in service, but not one under reset, nor a draining one once no instance runs in
it (R109, R335). -/
def State.hashClusters (s : State) (die : Nat) : List Nat :=
  s.clustersIn.filter fun c => dieOf c = die &&
    ((s.cluster c).svc = .inService || ((s.cluster c).svc = .draining && s.comp.cores.any fun e => clusterOf e.1 = c && e.2.inst.isSome))

/-- The home cluster of a record: the cluster whose harbour SRAM holds it, or one by the fixed hash of its address among the clusters of the die
that serves its stack; 24 for a record at a peer or a far endpoint (R109). -/
def State.homeCluster (s : State) (key : Nat) : Nat :=
  match s.unitOfBlock (key / 64) with
  | .harbour c _ => c
  | .hbm stack _ =>
    let cs := s.hashClusters (stack / 8)
    cs.getD (Config.homeHash (s.keyAddr key) % max 1 cs.length) 0
  | _ => 24

/-- The handle of a berth key. -/
def State.handleOfKey (s : State) (key : Nat) : BitVec 32 :=
  mkHandle (((s.place.berths.get? (key / 2 ^ 48)).map (·.gen)).getD 0) (key / 2 ^ 48)

/-- An entry is in use, or its home cluster has one of its 8,192 entries free; a record elsewhere takes none of this module's. -/
def State.laRoom (s : State) (key : Nat) : Bool :=
  s.comp.las.has key || s.homeCluster key = 24 || (s.comp.las.filter fun e => s.homeCluster e.1 = s.homeCluster key).length < 8192

/-- An addend to a record outside the module goes there, in the exchange class: an FP32 addend as an accumulate, and one of another form, which no packet
carries, as the record that results (R109, R254; log 26). -/
def State.wantAdd (s : State) (who : Option (Nat × Nat)) (key : Nat) (a : Addend) : State :=
  match s.place.berths.get? (key / 2 ^ 48) with
  | none => s
  | some b =>
    match b.pages.get? (key % 2 ^ 48 / pageSize b.cls) with
    | none => s
    | some x =>
      let addr := pageAddr x.base + key % 2 ^ 48 % pageSize b.cls
      let kind : WantKind := match a with
        | .fp32 v => .add (leBytes 4 v.toNat)
        | _ => .write (s.laEntry key).bytes
      if s.isLocal addr then s
      else
        s.setWire { s.wire with
          wants := s.wire.wants ++ [{ kind := kind, addr := addr, key := key, len := 48, job := b.job, cls := clsExchange, core := who, cmd := none }] }

/-- Apply one addend to a record; `who` is the core and the bundle that flushed it (R43, R109). -/
def State.laAdd (s : State) (who : Option (Nat × Nat)) (key : Nat) (a : Addend) : State :=
  let h := s.handleOfKey key
  let s := s.touchForWrite none h (key % 2 ^ 48) 48
  (s.setComp { s.comp with las := s.comp.las.put key ((s.laEntry key).add a) }).wantAdd who key a

/-- The number that an addend on its way carries when the instance that flushed it has ended. -/
def noCore : Nat := 408

/-- A fault of an addend on its way: imprecise, of the bundle that flushed it, while its instance runs (R111). -/
def State.raiseAdd (s : State) (a : Flush) (code detail : Nat) : State :=
  if a.core < noCore then s.raise a.core ⟨code, 0, false, a.bundle, detail % 2 ^ 40⟩ else s

/-- The record's bytes in memory are poisoned, or stand on a stack that has failed, and no entry holds the record (R145, R332). -/
def State.recordBad (s : State) (key : Nat) : Bool :=
  !s.comp.las.has key && (s.mem.poisoned key 48 || s.spanFailed (s.handleOfKey key) (key % 2 ^ 48) 48)

/-- LA_ADDEND: the `i`-th addend on its way arrives at its record's home long accumulator and is added exactly, in any order (R42 to R44,
R109). It waits while no entry is free and while accesses to its page are held. -/
def execLaAddend (i : Nat) (s : State) : Host.Outcome State Fault Refusal :=
  match s.comp.addends[i]? with
  | none => .next s
  | some a =>
    let h := s.handleOfKey a.key
    let ofs := a.key % 2 ^ 48
    let u := if (s.berthAt h).isNone then s else (pagesTouched (((s.berthAt h).map (·.cls)).getD 0) ofs 48).foldl (fun t p => t.placePage (handleIndex h) p) s
    let t := (u.setComp { u.comp with addends := u.comp.addends.eraseIdx i }).discover a.key (if s.comp.las.has a.key then 0 else 48)
    s.when (u.laRoom a.key && !s.spanHeld h ofs 48)
      (if (s.berthAt h).isNone then t
      else if s.spanLost h ofs 48 then t.raiseAdd a 9 0
      else if t.recordBad a.key then t.raiseAdd a 7 ofs
      else t.laAdd (if a.core < noCore then some (a.core, a.bundle) else none) a.key a.val)

/-- LA_WRITE_BACK: an entry is written back to its record and its place becomes free (R109). -/
def execLaWriteBack (key : Nat) (s : State) : Host.Outcome State Fault Refusal :=
  match s.comp.las.get? key with
  | none => .next s
  | some e => .next ((s.writeMem key e.bytes).setComp { s.comp with las := s.comp.las.drop key })

end Sys2Proof.Machine
end

