-- ==== Sys2Proof/Machine/NetOps.lean ====
section
/-! DEFINITION. Acknowledgements, window checks and signal words (R104, R248 to R258). -/

namespace Sys2Proof.Machine

/-! ### Negative acknowledgements and what is not yet acknowledged (R248, R249) -/

/-- Negative acknowledgement reasons (R249). -/
def nakCrc : Nat := 1
/-- WINDOW. -/
def nakWindow : Nat := 2
/-- TARGET_RESET. -/
def nakReset : Nat := 3
/-- ADDRESS. -/
def nakAddress : Nat := 4
/-- REORDER. -/
def nakReorder : Nat := 5

/-- Is `a` at or after `b` in the modular order of sequence numbers? -/
def psnGe (a b : BitVec 24) : Bool := (a - b).toNat < 2 ^ 23

/-- Packets of a command that no acknowledgement has covered. -/
def State.unackedOf (s : State) (ring at_ : Nat) : List TxPkt := s.net.unacked.filter fun t => t.cmd = some (ring, at_)
/-- Packets of a core that no acknowledgement has covered. -/
def State.unackedCore (s : State) (k : Nat) : List TxPkt := s.net.unacked.filter fun t => (t.core.map (·.1)) = some k
/-- Far packets of a command that no acknowledgement has covered, on its own flows or on shared ones. -/
def State.farUnackedOf (s : State) (ring at_ : Nat) : Bool :=
  s.net.farFlows.any fun f => (f.2.cmd = some (ring, at_) && !f.2.unacked.isEmpty) || f.2.unacked.any fun t => t.cmd = some (ring, at_)

/-- A port's queue without the packets of a command that have not begun to leave. -/
def Port.forget (x : Port) (cmd : Nat × Nat) : Port :=
  { x with queue := (x.queue.zipIdx.filter fun q =>
      q.1.cmd != some cmd || (q.1.kind = 2 && !((x.queue.take q.2).any fun r => r.cls = q.1.cls && r.kind = 1))).map (·.1) }
/-- A command's unacknowledged packets are abandoned, and nothing further of it is sent (R192). -/
def State.abandon (s : State) (cmd : Nat × Nat) : State :=
  s.setNet { s.net with unacked := s.net.unacked.filter fun t => t.cmd != some cmd, ports := s.net.ports.mapVals fun _ x => x.forget cmd }

/-- Accesses of a command that have not left, or reads that have no response yet. -/
def State.leavingOf (s : State) (ring at_ : Nat) : Bool := (s.wire.wants ++ s.wire.reads).any fun w => w.cmd = some (ring, at_)
/-- Accesses of a core that have not left, reads that have no response yet, and far packets that no acknowledgement has covered. -/
def State.leavingCore (s : State) (k : Nat) : Bool :=
  (s.wire.wants ++ s.wire.reads).any (fun w => (w.core.map (·.1)) = some k) ||
    s.net.farFlows.any fun f => f.2.unacked.any fun t => (t.core.map (·.1)) = some k

/-! ### Windows (R256, R257) -/

/-- A window's entry (256 bits). -/
def Window.bits (w : Window) : BitVec 256 :=
  BitVec.ofNat 256 (w.sources.toNat * 2 ^ 128 + w.berth.toNat * 2 ^ 96 + w.stashBytes % 2 ^ 40 * 2 ^ 56 + w.job % 64 * 2 ^ 50 +
    w.farEp.getD 0 % 256 * 2 ^ 42 + (if w.farEp.isSome then 2 ^ 41 else 0) + 2 ^ 40 + (if w.rd then 2 ^ 31 else 0) +
    (if w.wr then 2 ^ 30 else 0) + (if w.acc then 2 ^ 29 else 0) + (if w.sig then 2 ^ 28 else 0) + (if w.exch then 2 ^ 27 else 0) +
    (if w.coll then 2 ^ 26 else 0) + (if w.stash then 2 ^ 25 else 0) + w.used % 2 ^ 24)

/-- Does the window name the source: a module below 128, or 256 + a far endpoint? -/
def Window.names (w : Window) (src : Nat) : Bool :=
  if src < 128 then w.farEp.isNone && w.sources.getLsbD src else 256 ≤ src && w.farEp = some (src - 256)

/-- A window of the job grants a kind of message to the source. -/
def State.grants (s : State) (job src : Nat) (kind : Window → Bool) : Bool :=
  s.net.windows.any fun w => w.2.job = job && w.2.names src && kind w.2 && s.cmd.jobs.has job

/-- The window that exposes the frame of a local address, when it names the source and sets the kind bit. -/
def State.exposes (s : State) (a src : Nat) (kind : Window → Bool) : Bool :=
  match (s.net.frames.get? (a % 2 ^ 52 / 2 ^ 18)).bind fun w => s.net.windows.get? w with
  | none => false
  | some w => w.names src && kind w

/-- The grant mirror shows a grant of the kind bit by a module. -/
def State.mirrorGrants (s : State) (m bit : Nat) : Bool :=
  s.net.mirror.any fun e => e.1 / 4096 = m && e.2.getLsbD 40 && e.2.getLsbD bit

/-- The memory key of a local address: the berth page whose home holds it, or a page placed here for a peer. -/
def State.physKey (s : State) (a : Nat) : Option Nat :=
  let a := a % 2 ^ 52
  let inPage := fun (base n : Nat) => base * 2 ^ 18 ≤ a && a < base * 2 ^ 18 + n
  match s.place.berths.findSome? fun ib =>
      (ib.2.pages.find? fun p => inPage p.2.base.toNat (pageSize ib.2.cls)).map fun p =>
        berthKey ib.1 (p.1 * pageSize ib.2.cls + (a - pageAddr p.2.base)) with
  | some k => some k
  | none => (s.net.stashIn.find? fun f => inPage f.2 (2 ^ 21)).map fun f => stashKey f.1 (a - f.2 * 2 ^ 18)

/-! ### Signal words (R104) -/

/-- The number of a job's logical signal word. -/
def Job.word (j : Job) (w : Nat) : Nat := j.sigBase + w
/-- The value of a signal word. -/
def State.signalWord (s : State) (i : Nat) : W64 := s.comp.signals.getD i 0
/-- Add to a signal word, modulo 2^64. -/
def State.signalAdd (s : State) (i : Nat) (v : W64) : State :=
  s.setComp { s.comp with signals := s.comp.signals.put i (s.signalWord i + v) }

end Sys2Proof.Machine
end

