-- ==== Sys2Proof/Machine/QuayOps.lean ====
section
/-! DEFINITION. The Quay: tokens, takes, thresholds, claims and releases (R157 to R171). -/

namespace Sys2Proof.Machine

/-- A descriptor that has never been held (R158). -/
def State.desc (s : State) (d : Nat) : Desc := s.quay.descs.getD d Desc.init
/-- A requester (R159). -/
def State.req (s : State) (r : Nat) : Req := s.quay.reqs.getD r Req.init
/-- Requester index: job slot × 16 + engine (R159). -/
def reqIndex (job engine : Nat) : Nat := job * 16 + engine
/-- The Ferry's receive engine. -/
def engFerryRx : Nat := 0
/-- The Ferry's send engine. -/
def engFerryTx : Nat := 1
/-- The collectives' engine. -/
def engColl : Nat := 2
/-- The stash engine. -/
def engStash : Nat := 3
/-- The kernel requester, which never takes. -/
def engKernel : Nat := 5

/-- Replace a descriptor. -/
def State.setDesc (s : State) (d : Nat) (x : Desc) : State := s.setQuay { s.quay with descs := s.quay.descs.put d x }
/-- Replace a requester. -/
def State.setReq (s : State) (r : Nat) (x : Req) : State := s.setQuay { s.quay with reqs := s.quay.reqs.put r x }
/-- Replace a pool. -/
def State.setPool (s : State) (p : Nat) (x : Pool) : State := s.setQuay { s.quay with pools := s.quay.pools.put p x }

/-- A buffer's size in bytes. -/
def Pool.bytes (p : Pool) : Nat := 2 ^ (12 + p.size)
/-- The token of a descriptor as it stands (R158). -/
def State.tokenOf (s : State) (d : Nat) : Nat := d % 65536 * 65536 + (s.desc d).gen
/-- The descriptor that a token names, if its GEN is current and the buffer is held. -/
def State.heldToken (s : State) (t : Nat) : Option Nat :=
  let d := t / 65536 % 65536
  if (s.desc d).held && (s.desc d).gen = t % 65536 then some d else none
/-- Where a descriptor's buffer lies: backing berth, offset and size. -/
def State.bufferAt (s : State) (d : Nat) : Option (BitVec 32 × Nat × Nat) :=
  (s.quay.pools.get? (s.desc d).pool).map fun p => (p.backing, (d - p.first) * p.bytes, p.bytes)

/-- The requesters bound to a pool, ascending. -/
def State.boundTo (s : State) (p : Nat) : List (Nat × Req) := s.quay.reqs.filter fun r => r.2.pool = some p
/-- The unmet minimum of a requester. -/
def Req.unmet (r : Req) : Nat := r.min - r.held
/-- The unreserved free count of a pool (R161). -/
def State.unreserved (s : State) (i : Nat) (p : Pool) : Nat := p.count - p.held - ((s.boundTo i).map fun r => r.2.unmet).sum

/-- The thresholds of a count against a limit: the new (warn, armed, bp), and whether the warning fires (R164). A limit of 0 fires none. -/
def thresholds (h l : Nat) (warn armed bp : Bool) : (Bool × Bool × Bool) × Bool :=
  if l = 0 then ((warn, armed, false), false)
  else
    let fires := armed && 3 * l ≤ 4 * h
    let armed := if fires then false else armed || 8 * h < 5 * l
    let bp := if 7 * l ≤ 8 * h then true else if 16 * h < 13 * l then false else bp
    ((warn || fires, armed, bp), fires)

/-- Evaluate a requester's thresholds; answers whether its warning fires. -/
def State.checkReq (s : State) (r : Nat) : Bool × State :=
  let x := s.req r
  let ((w, a, b), f) := thresholds x.held x.max x.warn x.armed x.bp
  (f, s.setReq r { x with warn := w, armed := a, bp := b })

/-- Evaluate a pool's thresholds; a warning that fires adds 1 to its signal word (R166). -/
def State.checkPool (s : State) (p : Nat) : Bool × State :=
  match s.quay.pools.get? p with
  | none => (false, s)
  | some x =>
    let ((w, a, b), f) := thresholds x.held x.count x.warn x.armed x.bp
    let s := s.setPool p { x with warn := w, armed := a, bp := b }
    match (if f && x.sigEn then s.cmd.jobs.get? x.job else none) with
    | some j => (f, s.signalAdd (j.word x.signal) 1)
    | none => (f, s)

/-- Is the requester held back: by its own back-pressure, or by its pool's when it is at or above its minimum (R164)? -/
def State.heldBack (s : State) (r : Nat) : Bool :=
  let x := s.req r
  match x.pool.bind fun p => s.quay.pools.get? p with
  | none => false
  | some p => x.bp || (p.bp && x.min ≤ x.held)

/-- What a take answers: a status, the shortfall's DETAIL, the descriptors taken, and what a warning names (R161, R166). -/
structure Taken where
  status : Nat
  detail : BitVec 32
  descs : List Nat
  warned : Option (BitVec 32)
  deriving DecidableEq, Repr

/-- A DETAIL word (R276). -/
def detailWord (code value : Nat) : BitVec 32 := BitVec.ofNat 32 (code % 256 * 2 ^ 24 + value % 2 ^ 24)

/-- A take of `n` buffers by a requester, with further owners (R161 to R163, R166, R168). -/
def State.quayTake (s : State) (r n : Nat) (owners : List Nat) (step : W64) : Taken × State :=
  let x := s.req r
  let refuse := fun (st : Nat) (d : BitVec 32) =>
    (({ status := st, detail := d, descs := [], warned := none } : Taken), s.setReq r { x with refusals := min 65535 (x.refusals + 1) })
  if n = 0 then ({ status := 0, detail := 0, descs := [], warned := none }, s)
  else
    let max := if x.pool.isSome then x.max else 0
    if max < x.held + n then refuse 0x0201 (detailWord 0x09 (x.held + n - max))
    else
      match x.pool.bind fun p => (s.quay.pools.get? p).map fun q => (p, q) with
      | none => refuse 0x0201 (detailWord 0x09 n)
      | some (p, q) =>
        if s.unreserved p q < n - x.unmet then refuse 0x0202 (detailWord 0x0A (n - x.unmet - s.unreserved p q))
        else
          let free := ((List.range q.count).map (q.first + ·)).filter fun d => !(s.desc d).held
          let ds := free.take n
          let own := ((r :: owners).map fun o => some (o, false)) ++ List.replicate (3 - owners.length) none
          let s := ds.foldl (fun s d =>
            s.setDesc d { (s.desc d) with held := true, owners := own, charge := r, pool := p, takeStep := step.truncate 32 }) s
          let s := s.setReq r { x with held := x.held + n, peak := Nat.max x.peak (x.held + n) }
          let s := s.setPool p { q with held := q.held + n }
          let (fr, s) := s.checkReq r
          let (fp, s) := s.checkPool p
          ({ status := 0, detail := 0, descs := ds,
             warned := if fp then some (detailWord 0x21 p) else if fr then some (detailWord 0x22 r) else none }, s)

/-- Release one owner slot of a buffer; the last owner's release frees it (R169, R170). -/
def State.releaseSlot (s : State) (d slot : Nat) : State :=
  let x := s.desc d
  if !x.held || (x.owners.getD slot none).isNone then s
  else
    let owners := x.owners.set slot none
    if owners.any Option.isSome then s.setDesc d { x with owners := owners }
    else
      let s := s.setDesc d { Desc.init with gen := if x.gen = 65535 then 1 else x.gen + 1 }
      let s := s.setReq x.charge { (s.req x.charge) with held := (s.req x.charge).held - 1 }
      let s :=
        match s.quay.pools.get? x.pool with
        | none => s
        | some p => s.setPool x.pool { p with held := p.held - 1 }
      let s := (s.checkReq x.charge).2
      (s.checkPool x.pool).2

/-- Release the taker's slot of several buffers, in ascending descriptor index (R163). -/
def State.releaseTaken (s : State) (ds : List Nat) : State := (sortBy (fun a b => a ≤ b) ds).foldl (fun s d => s.releaseSlot d 0) s

/-- The slot that a release of a requester would claim: the lowest that names it, is current and is not claimed (R169). -/
def Desc.claimable (x : Desc) (r : Nat) : Option Nat := (List.range 4).find? fun i => x.owners.getD i none = some (r, false)

/-- Claim a slot of every token for a requester, or none of them (R169). -/
def State.claim (s : State) (r : Nat) (tokens : List Nat) : Option (List (Nat × Nat) × State) :=
  tokens.foldl (fun acc t =>
    match acc with
    | none => none
    | some (cs, u) =>
      match u.heldToken t with
      | none => none
      | some d =>
        match (u.desc d).claimable r with
        | none => none
        | some i => some (cs ++ [(d, i)], u.setDesc d { (u.desc d) with owners := (u.desc d).owners.set i (some (r, true)) }))
    (some ([], s))

/-- Release claimed slots, in ascending descriptor index. -/
def State.releaseClaims (s : State) (cs : List (Nat × Nat)) : State :=
  (sortBy (fun a b => a.1 ≤ b.1) cs).foldl (fun s c => s.releaseSlot c.1 c.2) s

end Sys2Proof.Machine
end

