-- ==== Sys2Proof/Machine/CmdOps.lean ====
section
/-! DEFINITION. Command packets: reading one from a ring, its header check, its ordering, its refusal, its acceptance and its outcome
(R268 to R286). -/

namespace Sys2Proof.Machine

/-- A packet as read from a ring (R274). -/
structure Pkt where
  ring : Nat
  at_ : Nat
  hdr : BitVec 256
  words : List W64
  bytes : List Byte
  /-- the ring's job slot, or 64 on the admin ring -/
  job : Nat
  deriving DecidableEq, Repr

/-- OPCODE of a header. -/
def phOp (h : BitVec 256) : Nat := bitsOf h.toNat 15 0
/-- LEN in bytes. -/
def phLen (h : BitVec 256) : Nat := 64 * bitsOf h.toNat 26 16
/-- RSLOT in bytes. -/
def phSlot (h : BitVec 256) : Nat := 64 * bitsOf h.toNat 37 27
/-- RLEN in bytes. -/
def phRlen (h : BitVec 256) : Nat := 64 * bitsOf h.toNat 48 38
/-- SERIAL. -/
def phSerial (h : BitVec 256) : Bool := h.getLsbD 49
/-- IRQ. -/
def phIrq (h : BitVec 256) : Bool := h.getLsbD 50
/-- SEQ. -/
def phSeq (h : BitVec 256) : BitVec 32 := h.extractLsb' 64 32
/-- PLEN. -/
def phPlen (h : BitVec 256) : Nat := bitsOf h.toNat 111 96

/-- The admin ring's number. -/
def adminRing : Nat := 256
/-- A ring, closed when it has never opened. -/
def State.ring (s : State) (n : Nat) : Ring := s.cmd.rings.getD n Ring.init
/-- Replace a ring. -/
def State.setRing (s : State) (n : Nat) (r : Ring) : State := s.setCmd { s.cmd with rings := s.cmd.rings.put n r }
/-- The bytes that a ring holds (R268). -/
def Ring.bytes (r : Ring) : Nat := 2 ^ (16 + r.size)
/-- The system address of a ring offset (R269). -/
def Ring.addr (r : Ring) (off : BitVec 32) : Nat := r.base + off.toNat % r.bytes
/-- The header at a ring offset. -/
def State.headerAt (s : State) (r : Ring) (off : BitVec 32) : BitVec 256 :=
  BitVec.ofNat 256 (leNat (s.mem.read (sysKey (r.addr off)) 32))

/-- The ring-stopping error of the packet at HEAD, by R283's numbers. -/
def headError (r : Ring) (h : BitVec 256) : Option Nat :=
  if phLen h = 0 || 65536 < phLen h then some 1
  else if r.bytes < r.head.toNat % r.bytes + phLen h then some 2
  else if (r.tail - r.head).toNat < phLen h then some 3
  else if phSlot h < 32 + phPlen h || phLen h < phSlot h + phRlen h || (phRlen h = 0 && phOp h != 0) then some 4
  else none

/-- Stop a ring (R283); a packet that waited under back-pressure waits no longer. -/
def State.stopRing (s : State) (n err : Nat) (at_ : BitVec 32) : State :=
  s.setRing n { (s.ring n) with st := .stopped, err := err, errAt := at_, bpSince := none }

/-- Check the header of the oldest unaccepted packet of a running ring (R283). -/
def State.checkHead (s : State) (n : Nat) : State :=
  let r := s.ring n
  if r.st = .running && r.head != r.tail then
    match headError r (s.headerAt r r.head) with
    | some e => s.stopRing n e r.head
    | none => s
  else s

/-- The words of a parameter area. -/
def wordsOf (n : Nat) (bs : List Byte) : List W64 :=
  (List.range n).map fun i => BitVec.ofNat 64 (leNat ((bs.drop (8 * i)).take 8))

/-- The oldest unaccepted packet of a running ring. -/
def State.packet (s : State) (n : Nat) : Option Pkt :=
  let r := s.ring n
  if r.st = .running && r.head != r.tail then
    let h := s.headerAt r r.head
    match headError r h with
    | some _ => none
    | none =>
      let bs := s.mem.read (sysKey (r.addr r.head)) (phLen h)
      some { ring := n, at_ := r.head.toNat, hdr := h, words := wordsOf (phPlen h / 8) (bs.drop 32), bytes := bs, job := n / 4 }
  else none

/-- The packet's opcode. -/
def Pkt.op (p : Pkt) : Nat := phOp p.hdr
/-- Does the packet stand on the admin ring? -/
def Pkt.admin (p : Pkt) : Bool := p.ring = adminRing
/-- Parameter word i. -/
def Pkt.w (p : Pkt) (i : Nat) : W64 := p.words.getD i 0
/-- Bits [hi:lo] of parameter word i. -/
def Pkt.f (p : Pkt) (i hi lo : Nat) : Nat := bitsOf (p.w i).toNat hi lo
/-- Bit `b` of parameter word i. -/
def Pkt.bit (p : Pkt) (i b : Nat) : Bool := (p.w i).getLsbD b
/-- The handle in the low half of a word. -/
def Pkt.lo (p : Pkt) (i : Nat) : BitVec 32 := (p.w i).extractLsb' 0 32
/-- The handle in the high half of a word. -/
def Pkt.hi (p : Pkt) (i : Nat) : BitVec 32 := (p.w i).extractLsb' 32 32

/-- A command in progress reads its parameter words as its packet does. -/
def Prog.pkt (p : Prog) : Pkt :=
  { ring := p.ring, at_ := p.at_, hdr := p.hdr, words := p.words, bytes := [], job := p.ring / 4 }

/-! ### The opcodes and their parameters (R287 to R305) -/

/-- A mask of bit fields. -/
def maskOf (l : List (Nat × Nat)) : Nat := (l.map fun f => 2 ^ (f.1 + 1) - 2 ^ f.2).sum
/-- A whole word. -/
def mW : Nat := 2 ^ 64 - 1
/-- The low half of a word. -/
def m32 : Nat := 2 ^ 32 - 1
/-- A 48-bit offset. -/
def m48 : Nat := 2 ^ 48 - 1
/-- A 35-bit system address. -/
def m35 : Nat := 2 ^ 35 - 1
/-- A ring descriptor. -/
def mRing : Nat := maskOf [(63, 59), (34, 0)]

/-- The named bits of each parameter word of an opcode: each opcode states the one `PLEN` it requires, so the words that a form does not use
stand in the area and are not looked at (R274); none for an unassigned opcode and for those of `otherParams`. -/
def paramMasks (op : Nat) : Option (List Nat) :=
  match op with
  | 0x0001 => some ([mW, maskOf [(63, 63), (56, 48), (40, 0)], maskOf [(28, 0)], mW, maskOf [(60, 48), (34, 0)]] ++ List.replicate 4 mRing)
  | 0x0002 => some [maskOf [(8, 8), (5, 0)]]
  | 0x0003 => some [maskOf [(15, 8), (5, 0)]]
  | 0x0004 => some [1]
  | 0x0005 => some [maskOf [(31, 16), (11, 0)], mW]
  | 0x0006 => some [maskOf [(11, 0)], mW]
  | 0x0101 => some [maskOf [(61, 0)], maskOf [(6, 0)]]
  | 0x0102 => some [m32]
  | 0x0103 => some [maskOf [(46, 0)]]
  | 0x0104 => some [maskOf [(32, 0)]]
  | 0x0105 => some [m35, mW]
  | 0x0106 => some [mW, maskOf [(48, 0)], maskOf [(48, 0)], mW, maskOf [(63, 32), (4, 0)]]
  | 0x0107 => some [maskOf [(34, 0)], m48, mW, mW, mW, mW]
  | 0x0201 => some [m32, maskOf [(48, 0)], maskOf [(16, 16), (12, 0)]]
  | 0x0202 => some ([maskOf [(53, 0)], maskOf [(41, 0)], m32] ++ List.replicate 8 mW)
  | 0x0203 => some [maskOf [(63, 32), (1, 0)]]
  | 0x0301 => some [mW, maskOf [(38, 0)], mW, mW, mW, mW, mW]
  | 0x0302 => some [maskOf [(15, 0)], mW]
  | 0x0303 => some [m32, mW, mW, m32]
  | 0x0304 => some [maskOf [(31, 28), (26, 0)], mW, mW, m32]
  | 0x0305 => some [maskOf [(22, 0)], mW]
  | 0x0306 => some [maskOf [(27, 4), (0, 0)], mW]
  | 0x0405 => some [maskOf [(63, 24), (17, 0)], mW, mW, mW, maskOf [(63, 32), (16, 0)], maskOf [(40, 0)], m48, m32]
  | 0x0401 => some [m48, maskOf [(63, 32), (12, 0)], m32]
  | 0x0402 => some [maskOf [(19, 0)], mW, mW, mW, mW, m48, m48, mW]
  | 0x0404 => some [maskOf [(27, 0)], mW, mW, mW, m32, m48, mW]
  | 0x0403 => some [maskOf [(21, 0)], mW, mW, m48, maskOf [(51, 0)], mW]
  | 0x0406 => some [maskOf [(19, 0)], mW, mW, mW]
  | 0x0501 => some [maskOf [(12, 0)], mW, m48, m48, mW, m32, mW, mW]
  | 0x0502 => some [maskOf [(2, 0)], mW, m48, mW]
  | 0x0503 => some [maskOf [(41, 0)], m48, mW]
  | 0x0601 => some [maskOf [(53, 0)], maskOf [(11, 0)]]
  | 0x0602 => some [maskOf [(10, 0)], maskOf [(48, 32), (16, 0)]]
  | 0x0603 => some [maskOf [(7, 0)], mW]
  | 0x0701 => some [maskOf [(11, 0)]]
  | 0x0702 => some [maskOf [(3, 0)]]
  | 0x0703 => some [maskOf [(6, 0)]]
  | 0x0704 => some [maskOf [(7, 0)]]
  | 0x0801 => some [maskOf [(3, 0)], mW]
  | 0x0802 => some [m32]
  | 0x0803 => some [maskOf [(63, 32), (4, 0)]]
  | 0x0804 => some [maskOf [(7, 0)], m32, mW]
  | 0x0902 => some [maskOf [(38, 0)]]
  | 0x0903 => some [maskOf [(22, 0)], mW, mW, mW, mW]
  | 0x0A01 => some [m32, m48, mW]
  | 0x0A02 => some ([maskOf [(35, 0)], m48, mW] ++ List.replicate 26 mW)
  | 0x0A03 => some [maskOf [(32, 0)], m48]
  | 0x0A04 => some (List.replicate 8 mW ++ [m35, mW])
  | 0x0B01 => some [maskOf [(3, 0)], mW, m35, mW]
  | 0x0B02 => some [mW]
  | 0x0B03 => some [m35, mW]
  | 0x0B04 => some [maskOf [(15, 0)]]
  | _ => none

/-- Opcodes whose parameter area is empty or has fields beyond words: NOP, CABLE_PLAN. -/
def otherParams (op : Nat) : Bool := op = 0 || op = 0x0901

/-- Is the opcode assigned? -/
def opcodeKnown (op : Nat) : Bool := otherParams op || (paramMasks op).isSome

/-- The named bits of the packet's parameter words, or none when PLEN is not what the opcode requires. -/
def Pkt.masks (p : Pkt) : Option (List Nat) :=
  let plen := phPlen p.hdr
  match p.op with
  | 0 => some []
  | 0x0901 =>
    if plen = 1608 then
      some ([maskOf [(14, 8), (0, 0)]] ++ List.replicate 128 mW ++ (List.replicate 36 [mW, maskOf [(15, 0)]]).flatten)
    else none
  | op =>
    match paramMasks op with
    | none => none
    | some ms => if plen = 8 * ms.length then some ms else none

/-- Opcodes that the admin ring alone takes (A). -/
def adminOnly (op : Nat) : Bool :=
  [0x0001, 0x0002, 0x0003, 0x0701, 0x0702, 0x0704, 0x0802, 0x0804, 0x0901, 0x0B01, 0x0B02, 0x0B03, 0x0B04].contains op
/-- Opcodes that both kinds of ring take (A/J). -/
def eitherRing (op : Nat) : Bool := [0x0000, 0x0004, 0x0703, 0x0801, 0x0803, 0x0902, 0x0A04].contains op

/-- Does the packet stand on a ring that does not take it (R273)? -/
def Pkt.wrongRing (p : Pkt) : Bool :=
  if p.admin then !(adminOnly p.op || eitherRing p.op || (p.op = 0x0903 && (p.f 0 2 0 = 4 || p.f 0 2 0 = 5))) else adminOnly p.op

/-! ### Refusals (R284, R285) -/

/-- A reason to refuse a packet: its status and its DETAIL. -/
abbrev Bad := Nat × BitVec 32

/-- MALFORMED. -/
def stMalformed : Nat := 0x0301
/-- NOT_OWNER. -/
def stNotOwner : Nat := 0x0203
/-- REFUSED_QUOTA. -/
def stQuota : Nat := 0x0201
/-- UNCORRECTABLE. -/
def stUncorrectable : Nat := 0x0401
/-- TARGET_RESET. -/
def stReset : Nat := 0x0402
/-- TIMEOUT. -/
def stTimeout : Nat := 0x0403
/-- PEER_ABSENT. -/
def stAbsent : Nat := 0x0404

/-- A malformed parameter word. -/
def mal (word : Nat) (c : Bool) : List Bad := if c then [(stMalformed, detailWord 0x23 word)] else []
/-- A refusal with a status and a DETAIL. -/
def refuseIf (c : Bool) (status : Nat) (d : BitVec 32) : List Bad := if c then [(status, d)] else []

/-- Is the first reason the one to report: the higher class, then the lower code, then the earlier parameter word at fault, a reason that
names no parameter word coming last (R284, R285)? -/
def Bad.before (a b : Bad) : Bool :=
  if a.1 / 256 != b.1 / 256 then b.1 / 256 < a.1 / 256
  else if a.1 != b.1 then a.1 < b.1
  else b.2 = 0 || (a.2 != 0 && a.2.toNat ≤ b.2.toNat)

/-- The reason that is reported (R285). -/
def worst (l : List Bad) : Option Bad :=
  l.foldl (fun acc b =>
    match acc with
    | none => some b
    | some a => some (if Bad.before a b then a else b)) none

/-- Reserved header bits (R284). -/
def headReserved (h : BitVec 256) : Bool := h.toNat / 2 ^ 112 != 0 || bitsOf h.toNat 63 51 != 0

/-- The refusals that hold for every opcode: an unassigned opcode, or a header, a parameter area, a ring or a reply slot that breaks its
rule (R284). Where the OP of a PEER_WINDOW makes the ring the wrong one, its word is at fault. -/
def Pkt.generic (p : Pkt) : List Bad :=
  let head := headReserved p.hdr || (phRlen p.hdr != 0 && leNat ((p.bytes.drop (phSlot p.hdr)).take 8) != 0)
  if !opcodeKnown p.op then (0x0302, 0) :: refuseIf head stMalformed 0
  else
    let head := head || p.wrongRing
    match p.masks with
    | none => [(stMalformed, 0)]
    | some ms =>
      refuseIf head stMalformed (detailWord 0 0) ++ mal 0 (p.op = 0x0903 && p.wrongRing) ++
        (ms.zipIdx.flatMap fun m => mal m.2 ((p.w m.2).toNat &&& (mW - m.1) != 0))

/-! ### Ordering (R278 to R280, R282) -/

/-- A resource that a packet names: kind, number, and whether two users of it conflict when this one is among them. -/
abbrev Res := Nat × Nat × Bool

/-- A berth handle that a packet reads or writes; 0 is no handle. -/
def resBerth (h : BitVec 32) (write : Bool) : List Res := if h = 0 then [] else [(0, h.toNat, write)]
/-- A plan tag. -/
def resPlan (t : Nat) (launch : Bool) : List Res := [(1, t, !launch)]
/-- An agreement tag. -/
def resAgree (t : Nat) : List Res := [(2, t, true)]
/-- A collective tag with its opcode. -/
def resColl (op t : Nat) : List Res := [(3, op * 65536 + t, true)]
/-- A pool. -/
def resPool (p : Nat) : List Res := [(4, p, true)]

/-- Argument kinds of KERNEL_LAUNCH (R294): argument n from 1. -/
def Pkt.kind (p : Pkt) (n : Nat) : Nat := p.f 2 (4 * n - 1) (4 * n - 4)
/-- Argument n of KERNEL_LAUNCH. -/
def Pkt.arg (p : Pkt) (n : Nat) : W64 := p.w (2 + n)

/-- The resources that a packet names directly in its parameters (R280, R303). -/
def Pkt.names (p : Pkt) : List Res :=
  match p.op with
  | 0x0102 => resBerth (p.lo 0) true
  | 0x0103 => resBerth (p.lo 0) true
  | 0x0104 => resBerth (p.lo 0) true
  | 0x0105 => if p.f 0 34 32 < 2 then resBerth (p.lo 0) false else []
  | 0x0106 => (if p.bit 1 48 then [] else resBerth (p.lo 0) false) ++ (if p.bit 2 48 then [] else resBerth (p.hi 0) true)
  | 0x0107 => resBerth (p.lo 0) true
  | 0x0201 => if p.bit 1 48 then [] else resBerth (p.lo 0) false
  | 0x0202 =>
    (if p.bit 0 52 then resPlan (p.f 1 15 0) true else []) ++
      ((List.range 8).map (· + 1)).flatMap fun n =>
        let h := (p.arg n).extractLsb' 0 32
        match p.kind n with
        | 1 => resBerth h false
        | 2 => resBerth h true
        | 3 => resBerth h false
        | 5 => resBerth h false
        | 6 => resBerth h false
        | 7 => resBerth h false
        | _ => []
  | 0x0301 =>
    resPlan (p.f 0 15 0) false ++ resBerth (p.hi 4) false ++ resBerth (p.lo 4) false ++ resBerth (p.hi 5) true ++ resBerth (p.lo 5) true ++
      resBerth (p.lo 6) false
  | 0x0302 => resPlan (p.f 0 15 0) false ++ resBerth (p.hi 1) true ++ resBerth (p.lo 1) false
  | 0x0303 => resPlan (p.f 0 15 0) false ++ resBerth (p.lo 1) false ++ resBerth (p.hi 2) false ++ resBerth (p.lo 2) true
  | 0x0304 => resPlan (p.f 0 15 0) false ++ resBerth (p.lo 1) false ++ resBerth (p.hi 2) false ++ resBerth (p.lo 2) true
  | 0x0305 => resPlan (p.f 0 15 0) false ++ resBerth (p.hi 1) true ++ resBerth (p.lo 1) false
  | 0x0306 => resBerth (p.hi 1) true ++ resBerth (p.lo 1) false
  | 0x0405 => resAgree (p.f 0 15 0) ++ resColl p.op (p.f 0 15 0) ++ resBerth (p.hi 4) false ++ resBerth (p.lo 7) true
  | 0x0401 => resAgree (p.f 0 15 0) ++ resColl p.op (p.f 0 15 0) ++ resBerth (p.hi 1) false ++ resBerth (p.lo 2) true
  | 0x0402 => resColl p.op (p.f 0 15 0) ++ resBerth (p.hi 4) true ++ resBerth (p.lo 4) false
  | 0x0404 => resColl p.op (p.f 0 15 0) ++ resBerth (p.lo 4) true
  | 0x0403 => resColl p.op (p.f 0 15 0) ++ resBerth (p.lo 4) false ++ resBerth (p.hi 5) true ++ resBerth (p.lo 5) false
  | 0x0406 => resColl p.op (p.f 0 15 0)
  | 0x0501 => resBerth (p.hi 1) true ++ resBerth (p.lo 1) false
  | 0x0502 => resBerth (p.hi 1) true ++ resBerth (p.lo 1) false
  | 0x0503 => resBerth (p.lo 0) false
  | 0x0601 => resBerth (p.lo 0) false
  | 0x0602 => resPool (p.f 0 5 0)
  | 0x0603 => resPool (p.f 0 5 0)
  | 0x0803 => if p.bit 0 0 then [] else resBerth (p.hi 0) false
  | 0x0903 => if p.f 0 2 0 < 2 then resBerth (p.hi 2) false else []
  | 0x0A01 => resBerth (p.lo 0) false
  | 0x0A02 => resBerth (p.lo 0) false
  | 0x0A03 => if p.bit 0 32 then [] else resBerth (p.lo 0) true
  | _ => []

/-- Do two packets conflict (R280)? -/
def Pkt.conflicts (p q : Pkt) : Bool :=
  p.names.any fun a => q.names.any fun b => a.1 = b.1 && a.2.1 = b.2.1 && (a.2.2 || b.2.2)

/-- Is the packet serialising (R279)? -/
def Pkt.serialising (p : Pkt) : Bool :=
  phSerial p.hdr || p.admin || p.op = 0x0004 || p.op = 0x0005 || p.op = 0x0006 || p.op = 0x0406 || p.op = 0x0A03

/-- Packets of a ring in progress. -/
def State.progsOf (s : State) (n : Nat) : List Prog := s.cmd.progs.filter fun p => p.ring = n

/-- The ordering conditions of the oldest unaccepted packet hold (R278 to R280): a KERNEL_ABORT has none, since every earlier packet has been accepted
(R282). -/
def State.acceptable (s : State) (p : Pkt) : Bool :=
  let before := s.progsOf p.ring
  !s.health.noAccept &&
    (p.op = 0x0203 || (before.length < 64 && before.all (fun q => !q.pkt.serialising) &&
      (if p.serialising then before.isEmpty else before.all fun q => !p.conflicts q.pkt)))

/-! ### Acceptance and outcome -/

/-- The doorbell that covered a packet: the oldest whose TAIL lies at or beyond its end (R275). -/
def bellFor (bells : List (BitVec 32 × Nat)) (end_ : BitVec 32) (now : Nat) : Nat :=
  ((bells.reverse.find? fun b => (b.1 - end_).toNat < 2 ^ 31).map (·.2)).getD now

/-- Change a command in progress. -/
def State.updProg (s : State) (ring at_ : Nat) (f : Prog → Prog) : State :=
  s.setCmd { s.cmd with progs := s.cmd.progs.map fun p => if p.ring = ring && p.at_ = at_ then f p else p }
/-- A command in progress. -/
def State.prog (s : State) (ring at_ : Nat) : Option Prog := s.cmd.progs.find? fun p => p.ring = ring && p.at_ = at_

/-- Whole microseconds, rounded up. -/
def ceilUs (ticks : Nat) : Nat := ceilDiv ticks ticksPerUs

/-- The key of what the look-ahead has begun for a packet. -/
def aheadKey (ring at_ : Nat) : Nat := ring * 2 ^ 32 + at_
/-- The look-ahead's choice for a packet is used up. -/
def State.leaveAhead (s : State) (ring at_ : Nat) : State := s.setCmd { s.cmd with aheadAt := s.cmd.aheadAt.drop (aheadKey ring at_) }

/-- A packet is accepted: HEAD moves past it, it is in progress, and a job's command log gains its bytes up to its reply slot (R277, R278,
R392). -/
def State.accept (s : State) (p : Pkt) : State :=
  let r := s.ring p.ring
  let end_ := r.head + BitVec.ofNat 32 (phLen p.hdr)
  let g : Prog :=
    { ring := p.ring, at_ := p.at_, hdr := p.hdr, words := p.words, acceptedAt := s.now, bellAt := bellFor r.bells end_ s.now,
      bpWait := (r.bpSince.map fun t => max 1 (ceilUs (s.now - t))).getD 0, netWait := 0, bp := r.bpSince.isSome, claims := [], taken := [],
      work := .none, note := 0, noteDetail := 0, outcome := none }
  let s := s.setRing p.ring { r with head := end_, bpSince := none, ahead := r.ahead - 1,
                                      bells := r.bells.filter fun b => (0 < (b.1 - end_).toNat && (b.1 - end_).toNat < 2 ^ 31) }
  let s := s.setCmd { s.cmd with progs := s.cmd.progs ++ [g] }
  let s := if p.op = 0x0202 then s.leaveAhead p.ring p.at_ else s
  match (if p.admin then none else s.cmd.jobs.get? p.job) with
  | none => s
  | some j =>
    let j := { j with cmdLog := j.cmdLog.upd (p.ring % 4) [] (· ++ p.bytes.take (phSlot p.hdr)) }
    s.setCmd { s.cmd with jobs := s.cmd.jobs.put p.job j }

/-- A command's outcome is set; the first one stands. -/
def State.conclude (s : State) (ring at_ : Nat) (o : Outc) : State :=
  s.updProg ring at_ fun g => if g.outcome.isSome then g else { g with outcome := some o }

/-- An outcome with a status alone. -/
def Outc.of (status : Nat) (detail : BitVec 32) : Outc := { status := status, note := 0, detail := detail, results := [] }

/-- A command is done as asked, with results. -/
def State.done (s : State) (p : Pkt) (rs : List W64) : State := s.conclude p.ring p.at_ { status := 0, note := 0, detail := 0, results := rs }
/-- A command ends with a status and a DETAIL. -/
def State.failed (s : State) (p : Pkt) (status : Nat) (d : BitVec 32) : State := s.conclude p.ring p.at_ (Outc.of status d)
/-- A command is refused: a launch's result words are 0 (R285, R294). -/
def State.refused (s : State) (p : Pkt) (b : Bad) : State :=
  s.conclude p.ring p.at_ { Outc.of b.1 b.2 with results := if p.op = 0x0202 then [0, 0] else [] }
/-- A command's work goes on. -/
def State.works (s : State) (p : Pkt) (w : Work) : State := s.updProg p.ring p.at_ fun g => { g with work := w }

/-- The engine whose requester a command takes buffers for (R159). -/
def engineOf (op : Nat) : Option Nat :=
  if op = 0x0301 then some engFerryRx
  else if 0x0302 ≤ op && op ≤ 0x0305 then some engFerryTx
  else if (0x0401 ≤ op && op ≤ 0x0405) then some engColl
  else if op = 0x0501 || op = 0x0502 then some engStash
  else none

/-- The command meets back-pressure (R164, R165). -/
def State.backpressured (s : State) (p : Pkt) : Bool :=
  match engineOf p.op with
  | none => false
  | some e => !p.admin && s.heldBack (reqIndex p.job e)

/-- The packet's refusal, if it has one: its packet is poisoned, a rule of every opcode, or a rule of its own (R284, R285, R286). -/
def State.refusal (s : State) (p : Pkt) (bads : Pkt → State → List Bad) : Option Bad :=
  -- an opcode's own rules are read only on the ring and with the parameter area that it states
  worst (p.generic ++ if opcodeKnown p.op && p.masks.isSome && !p.wrongRing then bads p s else [])

/-- Accept the packet: refused with no effect, or with its effect taken. -/
def State.take1 (s : State) (p : Pkt) (bads : Pkt → State → List Bad) (eff : Pkt → State → State) : State :=
  let key := sysKey ((s.ring p.ring).addr (s.ring p.ring).head)
  let s := s.discover key p.bytes.length
  if s.mem.poisoned key p.bytes.length then ((s.accept p).refused p (stUncorrectable, 0)).checkHead p.ring
  else
    match s.refusal p bads with
    | some b => ((s.accept p).refused p b).checkHead p.ring
    | none => ((eff p (s.accept p)).tagWants s.wire.wants.length none (some (p.ring, p.at_))).checkHead p.ring

/-- The oldest unaccepted packet of ring `n`, when `sel` picks it and its ordering conditions hold, is accepted; one that meets
back-pressure waits instead (R165), and a header that breaks R283 stops the ring. Otherwise nothing happens (log 1). -/
def State.command (s : State) (n : Nat) (sel : Pkt → Bool) (bads : Pkt → State → List Bad) (eff : Pkt → State → State) :
    Host.Outcome State Fault Refusal :=
  match s.packet n with
  | none => .next (s.checkHead n)
  | some p =>
    if sel p && s.acceptable p then
      if (s.refusal p bads).isNone && s.backpressured p then
        .next (if (s.ring n).bpSince.isSome then s else s.setRing n { (s.ring n) with bpSince := some s.now })
      else if (s.ring n).bpSince.isSome then .next s
      else .next (s.take1 p bads eff)
    else .next s

/-- The packet has this opcode. -/
def isOp (op : Nat) (p : Pkt) : Bool := p.op = op

/-! ### Berths that commands name (R26, R121, R127, R145, R271, R286) -/

/-- A berth that a job may name: its own, or one shared with it (R26). -/
def Berth.usable (b : Berth) (job : Nat) : Bool := b.job = job || b.shared = some job

/-- What is wrong with a handle that a job names in a parameter word, and with `n` bytes from an offset of it. -/
def State.spanBad (s : State) (job word : Nat) (h : BitVec 32) (ofs n : Nat) : List Bad :=
  match s.berthAt h with
  | none => mal word true
  | some b =>
    refuseIf (!b.usable job) stNotOwner 0 ++ mal word (b.length < ofs + n)

/-- What is wrong with a handle. -/
def State.handleBad (s : State) (job word : Nat) (h : BitVec 32) : List Bad := s.spanBad job word h 0 0

/-- The system region's size (R20). -/
def sysBytes : Nat := 2 ^ 35
/-- A range of system addresses that leaves the region. -/
def sysBad (word a n : Nat) : List Bad := mal word (sysBytes < a + n)

/-- A command reads bytes of a berth, or of the system region. -/
def State.getAt (s : State) (sys : Bool) (h : BitVec 32) (ofs n : Nat) : Got × State :=
  if sys then
    let s := s.discover (sysKey ofs) n
    (⟨s.mem.read (sysKey ofs) n, s.mem.poisoned (sysKey ofs) n, false⟩, s)
  else s.readSpan none h ofs n

/-- A command writes bytes of a berth, or of the system region. -/
def State.putAt (s : State) (sys : Bool) (h : BitVec 32) (ofs : Nat) (bs : List Byte) : State :=
  if sys then s.store (sysKey ofs) bs else s.writeSpan none h ofs bs

/-- The status of a read: UNCORRECTABLE for poisoned data, PEER_ABSENT for a LOST page. -/
def Got.status (g : Got) : Option Nat :=
  if g.poisoned then some stUncorrectable else if g.lost then some stAbsent else none

/-- A command that reads: it goes on with the bytes, or ends with the read's status. -/
def State.reading (s : State) (p : Pkt) (sys : Bool) (h : BitVec 32) (ofs n : Nat) (go : List Byte → State → State) : State :=
  let (g, s) := s.getAt sys h ofs n
  match g.status with
  | some st => s.failed p st 0
  | none => go g.data s

end Sys2Proof.Machine
end

