-- ==== Sys2Proof/Machine/LaunchOps.lean ====
section
/-! DEFINITION. Instances on cores: binding, starting, suspending, resuming and ending them, and the end of a launch (R75, R88, R103,
R111 to R115, R230, R231, R295, R319 to R323, R352). -/

namespace Sys2Proof.Machine

/-! ### Power of clusters that work binds (R351, R352) -/

/-- The module is ACTIVE when a cluster is awake, IDLE when every one is gated (R348). -/
def State.settlePower (s : State) : State :=
  if s.side.pstate = .idle || s.side.pstate = .active then
    s.setSide { s.side with pstate := if s.clustersIn.any fun c => (s.cluster c).pow != .gated then .active else .idle }
  else s

/-- An enable of a cluster: it wakes, or is held behind the shut-down that runs (R351). -/
def State.enableCluster (s : State) (c : Nat) : State :=
  match (s.cluster c).pow with
  | .gated => (s.updCluster c fun x => { x with pow := .waking }).settlePower
  | .gating => s.updCluster c fun x => { x with held := true }
  | .rechar => s.updCluster c fun x => { x with held := true }
  | _ => s

/-- Is the cluster awake? -/
def State.awake (s : State) (c : Nat) : Bool := (s.cluster c).pow = .running || (s.cluster c).pow = .idle

/-- The instances that run, with their cores. -/
def State.runningOn (s : State) (c : Nat) : List (Nat × Nat) :=
  s.comp.cores.filterMap fun e => if clusterOf e.1 = c then e.2.inst.map fun i => (e.1, i) else none

/-- Does a cluster run an instance whose launch is a filler's (`f` true) or a main job's (`f` false)? -/
def State.runsKind (s : State) (c : Nat) (f : Bool) : Bool :=
  (s.runningOn c).any fun e => ((s.comp.insts.get? e.2).bind fun x => s.comp.launches.get? x.launch).any fun l => l.filler = f

/-- A filler's instance runs on the module. -/
def State.fillerRuns (s : State) : Bool := (List.range 24).any fun c => s.runsKind c true

/-- The core drains for a SPARE_CORE (R329). -/
def State.coreLeaves (s : State) (k : Nat) : Bool := s.cmd.progs.any fun g => g.work = .repair 3 k

/-- The working cores of a cluster that run nothing. -/
def State.freeCores (s : State) (c : Nat) : List Nat :=
  ((List.range 17).map (17 * c + ·)).filter fun k => s.workingCore k && (s.coreOf k).inst.isNone && !(s.coreHw k).testing && !s.coreLeaves k

/-- The launch is a main job's. -/
def State.mainLaunch (s : State) (l : Nat) : Bool := (s.comp.launches.get? l).any fun x => !x.filler

/-- The cluster that an instance last ran in, or its group's. -/
def State.homeOf (s : State) (x : Inst) : Nat :=
  match x.tried with
  | k :: _ => clusterOf k
  | [] => ((s.comp.groups.get? x.group).map (·.cluster)).getD 0

/-- Main work waits for the cluster: a main group that waits for it or for any cluster, a main instance that left its core there, or a launch
in the look-ahead that the Harbourmaster has placed there (R27, R230, R231). -/
def State.mainNeeds (s : State) (c : Nat) : Bool :=
  s.comp.insts.any (fun e => s.mainLaunch e.2.launch &&
    match e.2.st with
    | .waiting => (s.comp.groups.get? e.2.group).any fun g => !g.bound || g.cluster = c
    | .suspended => s.homeOf e.2 = c
    | _ => false) || s.cmd.aheadAt.any fun e => e.2.contains c && !((s.cmd.jobs.get? (e.1 / 2 ^ 32 / 4)).any (·.filler))

/-- May new instances be bound to the cluster (R335, R354), and filler ones: no main job's work runs there or needs it (R27, R230), and with no
gating to come (R360)? -/
def State.clusterOpen (s : State) (c : Nat) (filler : Bool) : Bool :=
  s.enabled c && (s.cluster c).svc = .inService && !(s.cluster c).keepGated &&
    (!filler || (!s.runsKind c false && !s.mainNeeds c && !(s.cluster c).heldOff))

/-- The spare of a cluster, when it is in service and runs nothing. -/
def State.freeSpare (s : State) (c : Nat) : Option Nat :=
  match (s.cluster c).spare with
  | none => none
  | some n =>
    let k := 17 * c + n
    if s.enabled c && (s.cluster c).svc = .inService && (s.coreHw k).st = .spare && (s.coreOf k).inst.isNone && !(s.coreHw k).testing then some k else none

/-- Cores on which a save area may be restored: the cluster's spare for an arithmetic fault, else a free working core of the same cluster, else
one of another cluster (R319, R320, R323). A main instance does not share a cluster with a filler (R230). -/
def State.replayCores (s : State) (x : Inst) : List Nat :=
  let filler := (s.comp.launches.get? x.launch).any (·.filler)
  let c := s.homeOf x
  let spare := (if x.residue then s.freeSpare c else none).filter fun k => !x.tried.contains k
  match spare with
  | some k => [k]
  | none =>
    let open_ := fun (d : Nat) => s.clusterOpen d filler && s.awake d && (filler || !s.runsKind d true)
    let of_ := fun (d : Nat) => if open_ d then (s.freeCores d).filter fun k => !x.tried.contains k else []
    if (of_ c).isEmpty then (List.range 24).flatMap of_ else of_ c

/-- Instances whose interval waits to be replayed, and which have the first claim on a core that becomes free (R320): those of main jobs, and for a
filler's work all of them. -/
def State.replaysWaiting (s : State) (filler : Bool) : List Inst :=
  s.comp.insts.filterMap fun e => if e.2.st = .suspended && !e.2.tried.isEmpty && (filler || s.mainLaunch e.2.launch) then some e.2 else none

/-- Free cores of a cluster that waiting replays claim. -/
def State.claimed (s : State) (c : Nat) (filler : Bool) : Nat :=
  ((s.replaysWaiting filler).filter fun x => (s.replayCores x).all fun k => clusterOf k = c && (s.coreHw k).st = .working).length

/-! ### Starting an instance -/

/-- The scalar registers that a launch's arguments fill: s1 to s8 (R88). -/
def argRegs (args : List W64) : AMap W64 := (args.zipIdx).map fun a => (a.2 + 1, a.1)

/-- The thin path takes the next instance bound to it (R75), unless it is under self-test or quarantined (R322). -/
def State.nextThin (s : State) (c : Nat) : State :=
  if (s.cluster c).thinInst.isSome || (s.cluster c).thinTest || (s.cluster c).thinQ then s
  else
    match (s.runningOn c).find? fun e => (s.comp.insts.get? e.2).any (·.thin) with
    | some e => s.updCluster c fun x => if x.thinOff then { x with thinInst := some e.2, thinHeld := true } else { x with thinInst := some e.2 }
    | none => s

/-- Instance `i` starts or resumes on core `k`: the state of R88, or the save area of its last restart point (R115). -/
def State.startOn (s : State) (i k : Nat) : State :=
  match s.comp.insts.get? i with
  | none => s
  | some x =>
    let args := ((s.comp.launches.get? x.launch).map (·.args)).getD []
    let old := s.coreOf k
    let base : Core := { Core.init with inst := some i, arrayAt := old.arrayAt, arrayGated := old.arrayGated }
    let core : Core :=
      match x.save with
      | none => { base with regs := { Regs.init with s := argRegs args } }
      | some v => { base with regs := { Regs.init with s := v.s, g := v.g }, stack := v.stack }
    let c := clusterOf k
    let q := (s.cluster c).thinQ || (s.cluster c).thinTest
    let s := (s.setCore k core).updInst i fun y => { y with st := .running k, thin := y.thin && !q }
    let s := s.updCluster c fun y => { y with pow := .running }
    let s := s.setComp { s.comp with
      launches := s.comp.launches.upd x.launch { job := 0, ring := 0, at_ := 0, kernel := 0, total := 0, args := [], filler := false, aborted := false, thin := false, clustersUsed := [] }
        fun l => { l with clustersUsed := (c :: l.clustersUsed).dedup }
      groups := s.comp.groups.mapVals fun g y => if g = x.group then { y with cluster := c } else y }
    let s := if ((s.comp.launches.get? x.launch).any (·.filler)) then
        s.setCmd { s.cmd with jobs := s.cmd.jobs.mapVals fun _ j => { j with fillerRan := true } }
      else s
    ((s.nextThin c).settlePower).arrive k ((x.save.map (·.resume)).getD 0)

/-- The instances of a group that wait to start. -/
def State.waitingOf (s : State) (g : Nat) : List Nat :=
  s.comp.insts.filterMap fun e => if e.2.group = g && e.2.st = .waiting then some e.1 else none

/-- Ask the filler instances of a cluster to leave at their next restart point (R231). -/
def State.askLeave (s : State) (c : Nat) : State :=
  (s.runningOn c).foldl (fun s e => s.updCore e.1 fun x => if x.leave.isSome then x else { x with leave := some s.now }) s

/-- The waiting groups of the unit that a group works on move with it to another cluster (R203). -/
def State.rebindUnit (s : State) (g c : Nat) : State :=
  let mine := fun (y : Inst) => s.comp.insts.any fun e => e.2.group = g && e.2.launch = y.launch && e.2.unit_ = y.unit_
  let gs := s.comp.insts.filterMap fun e => if mine e.2 && e.2.st = .waiting then some e.2.group else none
  s.setComp { s.comp with groups := s.comp.groups.mapVals fun i y => if gs.contains i then { y with cluster := c } else y }

/-- A group starts when some cluster can take all its instances: the one it was bound to, or when that one takes no instance, one that all
groups of its unit then go to; else one the Harbourmaster chooses. Cores that a replay waits for are not free (R320). A gated cluster is enabled
first. A main job's group that finds only filler work in its way asks it to leave (R103, R203, R230, R231, R352, R360). -/
def State.startGroup (s : State) (g : Nat) (filler : Bool) : State :=
  match s.comp.groups.get? g with
  | none => s
  | some x =>
    let is := s.waitingOf g
    let room := fun (c : Nat) => s.clusterOpen c filler && is.length + s.claimed c filler ≤ (s.freeCores c).length
    let ok := fun (c : Nat) => room c && (!x.bound || c = x.cluster || !s.clusterOpen x.cluster filler) && (filler || !s.runsKind c true) && (s.awake c || !filler || s.chip.actions.isEmpty)
    match choose 24 x.cluster ok with
    | some c =>
      let s := if x.bound && c != x.cluster then s.rebindUnit g c else s
      if s.awake c then (is.zip (s.freeCores c)).foldl (fun s e => s.startOn e.1 e.2) s
      else
        (s.setComp { s.comp with groups := s.comp.groups.put g { x with cluster := c } }).enableCluster c
    | none =>
      if filler then s
      else
        match choose 24 x.cluster fun c => s.clusterOpen c false && s.runsKind c true && (!x.bound || c = x.cluster || !s.clusterOpen x.cluster false) with
        | some c => s.askLeave c
        | none => s

/-- A main instance that waits to be resumed and finds no core asks the filler instances of a cluster to leave it (R231, R320). -/
def State.askForReplay (s : State) (x : Inst) : State :=
  if (s.replayCores x).isEmpty then
    match choose 24 (s.homeOf x) fun c => s.clusterOpen c false && s.runsKind c true with
    | some c => s.askLeave c
    | none => s
  else s

/-- Rings are paused for a firmware activation (R308). -/
def State.paused (s : State) : Bool := s.cmd.starting || s.cmd.progs.any fun g => match g.work with
  | .firmware _ _ => g.outcome.isNone
  | _ => false

/-- The groups that wait, those of main jobs first. -/
def State.waitingGroups (s : State) (filler : Bool) : List Nat :=
  s.comp.groups.keyList.filter fun g =>
    s.comp.insts.any fun e => e.2.group = g && e.2.st = .waiting && (s.comp.launches.get? e.2.launch).any fun l => l.filler = filler

/-- Start every waiting group that can start. -/
def State.startWaiting (s : State) : State :=
  let s := (s.comp.insts.filter fun e => e.2.st = .suspended && s.mainLaunch e.2.launch).foldl (fun s e => s.askForReplay e.2) s
  let s := (s.waitingGroups false).foldl (fun s g => s.startGroup g false) s
  if s.paused then s else (s.waitingGroups true).foldl (fun s g => s.startGroup g true) s

/-! ### Ending an instance -/

/-- The semaphore counts that a core's kernel has consumed since its last restart point. -/
def Core.consumed (c : Core) : List (Nat × Nat) := c.cons ++ ((c.commit.map fun m => m.1.cons).getD [])

/-- Add to a semaphore of a group. -/
def Group.post (g : Group) (i n : Nat) : Group := { g with sems := g.sems.put i (g.sems.getD i 0 + n) }

/-- Change the group of a core's instance. -/
def State.updGroup (s : State) (k : Nat) (f : Group → Group) : State :=
  match s.instOf k with
  | none => s
  | some i =>
    match s.comp.groups.get? i.group with
    | none => s
    | some g => s.setComp { s.comp with groups := s.comp.groups.put i.group (f g) }

/-- The held effects of the interval are discarded, and its consumed counts go back to their semaphores (R111, R114). -/
def State.dropHeld (s : State) (k : Nat) : State :=
  let cs := (s.coreOf k).consumed
  let s := s.updGroup k fun g => cs.foldl (fun g c => g.post c.1 c.2) g
  s.updCore k fun c => { c with held := [], commit := none, cons := [] }

/-- What a core has sent, or is about to send, is no longer any instance's: its reads are given up (R111). -/
def State.disown (s : State) (k : Nat) : State :=
  let mine := fun (c : Option (Nat × Nat)) => (c.map (·.1)) = some k
  let s := s.setNet { s.net with
    unacked := s.net.unacked.map fun t => if mine t.core then { t with core := none } else t
    farFlows := s.net.farFlows.mapVals fun _ f => { f with unacked := f.unacked.map fun t => if mine t.core then { t with core := none } else t } }
  if (s.wire.wants ++ s.wire.reads).any fun w => mine w.core then
    s.setWire { s.wire with
      wants := (s.wire.wants.filter fun w => !(mine w.core && w.kind = .read)).map fun w => if mine w.core then { w with core := none } else w
      reads := s.wire.reads.filter fun w => !mine w.core }
  else s

/-- The core runs nothing: what it still had in flight is abandoned, its thin path goes to the next instance, and its cluster may be idle. -/
def State.freeCore (s : State) (k : Nat) : State :=
  let c := clusterOf k
  let old := s.coreOf k
  let s := s.setCore k { Core.init with arrayAt := old.arrayAt, arrayGated := old.arrayGated }
  let s := s.setComp { s.comp with addends := s.comp.addends.map fun a => if a.core = k then { a with core := noCore } else a }
  let s := s.disown k
  let s := if (s.cluster c).thinInst.isSome && (s.cluster c).thinInst = old.inst then
      (s.updCluster c fun x => { x with thinInst := none, thinIdle := s.now }).nextThin c
    else s
  if (s.runningOn c).isEmpty && (s.cluster c).pow = .running then s.updCluster c fun x => { x with pow := .idle, idleSince := s.now } else s

/-- The status that a fault's outcome is (R111). -/
def faultStatus (code : Nat) : Nat :=
  match code with
  | 5 => 0x0304
  | 6 => 0x0405
  | 7 => 0x0401
  | 8 => 0x0405
  | 9 => 0x0404
  | 10 => 0x0403
  | _ => 0x0301

/-- Note ABORTED. -/
def noteAborted : BitVec 16 := 512

/-- The end of a launch whose instances have all ended: its outcome is that of the faulting instance whose INSTANCE is lowest (R112, R294,
R295). -/
def State.launchCheck (s : State) (l : Nat) : State :=
  match s.comp.launches.get? l with
  | none => s
  | some x =>
    let mine := s.comp.insts.filter fun e => e.2.launch = l
    if mine.all fun e => e.2.st = .ended then
      let bad := (mine.filter fun e => e.2.status != 0).foldl (fun acc e =>
        match acc with
        | none => some e.2
        | some y => if e.2.index < y.index then some e.2 else some y) (none : Option Inst)
      let r0 := x.clustersUsed.length * 2 ^ 17 + (if x.thin then 2 ^ 16 else 0) + ((bad.map (·.index)).getD 0) % 65536
      let r1 := ((bad.bind (·.fault)).map FaultRec.word).getD 0
      let o : Outc := { status := if x.aborted then stReset else (bad.map (·.status)).getD 0, note := if x.aborted then noteAborted else 0,
                        detail := 0, results := [BitVec.ofNat 64 r0, r1] }
      let gs := (mine.map (·.2.group)).dedup
      (s.setComp { s.comp with
        launches := s.comp.launches.drop l
        insts := s.comp.insts.keep fun _ y => y.launch != l
        groups := s.comp.groups.keep fun g _ => !gs.contains g }).conclude x.ring x.at_ o
    else s

/-- An instance ends with a status and its fault, wherever it stands. -/
def State.endInst (s : State) (i status : Nat) (f : Option FaultRec) : State :=
  match s.comp.insts.get? i with
  | none => s
  | some x =>
    let s :=
      match x.st with
      | .running k => (s.dropHeld k).freeCore k
      | _ => s
    let s := s.updInst i fun y => { y with st := .ended, status := status, fault := f }
    s.launchCheck x.launch

/-- The other instances of a launch end: those that run at their next bundle, the others at once (R112, R296). -/
def State.endOthers (s : State) (l status : Nat) : State :=
  (s.comp.insts.filter fun e => e.2.launch = l && e.2.st != .ended).foldl (fun s e =>
    match e.2.st with
    | .running k => s.updCore k fun c => if c.ending.isSome then c else { c with ending := some status }
    | _ => s.endInst e.1 status none) s

/-- An instance leaves its core and waits to be resumed from its save area (R115, R231, R319); it is no residue replay unless its fault makes it
one (R16). -/
def State.suspend (s : State) (k : Nat) : State :=
  match (s.coreOf k).inst with
  | none => s
  | some i => ((s.dropHeld k).freeCore k).updInst i fun y => { y with st := .suspended, residue := false }

/-- A fault of core `k`'s instance that is not replayed: the launch's other instances end, and the launch completes when all have (R112). -/
def State.faultEnd (s : State) (k status : Nat) (f : FaultRec) : State :=
  match (s.coreOf k).inst with
  | none => s
  | some i =>
    let l := ((s.comp.insts.get? i).map (·.launch)).getD 0
    (s.endInst i status (some f)).endOthers l 0

/-- May the interval be replayed: the kernel is restartable and fewer than four replays of it have been made (R323)? -/
def State.replayable (s : State) (k : Nat) : Bool := s.restartable k && (s.instOf k).any fun i => i.tried.length < 4

/-- The interval is to be replayed on another core (R319, R337); REPLAYS counts it where the fault was the core's own (R325). -/
def State.replayLater (s : State) (k : Nat) (residue own : Bool) : State :=
  match (s.coreOf k).inst with
  | none => s
  | some i =>
    let thin := (s.instOf k).any (·.thin)
    let s := (s.suspend k).updInst i fun y => { y with tried := k :: y.tried, residue := residue, thin := false }
    if thin || !own then s else s.updCoreHw k fun x => { x with replays := min 65535 (x.replays + 1) }

end Sys2Proof.Machine
end

