-- ==== Sys2Proof/Machine/Sync.lean ====
section
/-! DEFINITION. The sync slot, the events of a waiting bundle, restart points and kernel faults (R91, R103 to R108, R111 to R115, R295). -/

namespace Sys2Proof.Machine

/-- Every access, DMA and flush that core `k` issued is complete and visible within a scope: 0 core, 1 cluster, 2 module, 3 domain (R107). -/
def State.fenceDone (s : State) (k scope : Nat) : Bool :=
  let c := s.coreOf k
  c.loads.isEmpty && c.dmas.isEmpty && s.comp.addends.all (fun a => a.core != k) &&
    (s.restartable k || c.verdicts.all fun v => v.adds.isEmpty) &&
    !s.leavingCore k && (s.unackedCore k).all fun t => scope != 3 && t.msg.isSome

/-! ### Waits (R103 to R106, R108) -/

/-- The condition of a waiting sync operation: SWAIT, EWAIT, SGWAIT or DWAIT. A tag with no DMA outstanding is complete. -/
def State.waitHolds (s : State) (k op : Nat) : Bool :=
  let bits := s.bits k 5
  let idx := fld bits 39 32
  let r := s.src k
  match op with
  | 1 => fld bits 15 0 ≤ s.sem k idx
  | 5 => (s.groupOf k).any fun g => g.events.contains (idx % 64)
  | 6 =>
    let sr := fld bits 31 27
    (s.jobOf k).any fun j => (r.sr (sr + 1)).toNat ≤ (s.signalWord (j.word (r.sr sr).toNat)).toNat
  | _ => !(s.coreOf k).dmas.has (idx % 64)

/-- What a satisfied wait does: SWAIT subtracts its count, and in a restartable kernel records it in the consumption list (R103, R114). -/
def State.waitEffect (s : State) (k op : Nat) : State :=
  if op = 1 then
    let bits := s.bits k 5
    let idx := fld bits 39 32
    let n := fld bits 15 0
    let s := s.updGroup k fun g => { g with sems := g.sems.put idx (g.sems.getD idx 0 - n) }
    if s.restartable k then s.updCore k fun c => { c with cons := c.cons ++ [(idx, n)] } else s
  else s

/-- A sync wait is reached: an index outside the grant raises its fault, a satisfied wait takes effect, and any other holds its bundle
from now on (R91, R103). -/
def State.waitStep (s : State) (k op : Nat) : Host.Outcome State Fault Refusal :=
  if s.mayIssue k 5 op && (s.coreOf k).waiting.isNone then
    match s.syncFault k op (s.bits k 5) (s.src k) with
    | some f => .next (s.raise k ((s.newFault k).getD f))
    | none =>
      if s.waitHolds k op then s.slotStep k 5 op true fun t => t.waitEffect k op
      else .next (s.updCore k fun c => { c with waiting := some s.now })
  else .next s

/-- SWAIT: wait until semaphore IDX is at least IMM, then subtract IMM (R103, R114). -/
def execSwait (k : Nat) (s : State) : Host.Outcome State Fault Refusal := s.waitStep k 1
/-- EWAIT: wait until event line IDX[5:0] is set (R103). -/
def execEwait (k : Nat) (s : State) : Host.Outcome State Fault Refusal := s.waitStep k 5
/-- SGWAIT: wait until signal word s(SR) is at least s(SR + 1), unsigned (R104). -/
def execSgwait (k : Nat) (s : State) : Host.Outcome State Fault Refusal := s.waitStep k 6
/-- DWAIT: wait until DMA tag IDX[5:0] is complete (R106). -/
def execDwait (k : Nat) (s : State) : Host.Outcome State Fault Refusal := s.waitStep k 8

/-- WAIT_SATISFIED: the condition of the wait that holds the core's bundle is true, and the bundle issues (R103, R104, R108). -/
def execWaitSatisfied (k : Nat) (s : State) : Host.Outcome State Fault Refusal :=
  let op := ((s.bundle k).map fun b => slotOp b 5).getD 0
  if (s.coreOf k).waiting.isSome && s.waitHolds k op then s.slotStep k 5 op true fun t => t.waitEffect k op else .next s

/-- A main job's launch has instances that still wait, no cluster takes any, and the job's wait limit has passed since its acceptance (R105,
R354). -/
def State.launchExpired (s : State) (l : Nat) : Bool :=
  (s.comp.launches.get? l).any fun x => !x.filler && (s.comp.insts.any fun e => e.2.launch = l && e.2.st = .waiting) &&
    ((List.range 24).all fun c => !s.clusterOpen c false) &&
    ((s.prog x.ring x.at_).any fun g => (s.cmd.jobs.get? x.job).any fun j => s.after g.acceptedAt (1000 * j.waitMs))

/-- WAIT_TIMEOUT: the job's wait limit has passed since a core's bundle began to wait, and the wait is still unsatisfied: the wait-timeout fault
(R105). A launch that no cluster took within the limit ends with TIMEOUT (R354). -/
def execWaitTimeout (w : Waiter) (s : State) : Host.Outcome State Fault Refusal :=
  match w with
  | .core k =>
    match (s.coreOf k).waiting, s.jobOf k with
    | some t, some j =>
      s.when (s.after t (1000 * j.waitMs) && (s.coreOf k).fault.isNone && !s.waitHolds k (((s.bundle k).map fun b => slotOp b 5).getD 0))
        (s.raise k (s.faultHere k 10 5 true 0))
    | _, _ => .next s
  | .launch l => s.when (s.launchExpired l) (s.endOthers l (faultStatus 10))

/-! ### Posts, events and signals (R103, R104, R108, R113) -/

/-- An effect is held in a restartable kernel, and taken at once in any other (R113). -/
def State.holdOr (s : State) (k : Nat) (h : Held) (now : State → State) : State :=
  if s.restartable k then s.updCore k fun c => { c with held := c.held ++ [h] } else now s

/-- The number that names this module in an SGADD (R103's table). -/
def thisModule : W64 := 0xFFFF#64

/-- Does an SGADD stay on this module? -/
def State.signalHere (s : State) (dst : W64) : Bool := dst = thisModule || s.ownIndex = some dst.toNat

/-- The add of an SGADD of a bundle: to the job's own word, or as a message in the signal class to a present peer (R104). -/
def State.sgaddNow (s : State) (k : Nat) (word add dst : W64) (bundle : Nat) : State :=
  match s.launchOf k with
  | none => s
  | some l =>
    if s.signalHere dst then
      match s.cmd.jobs.get? l.job with
      | none => s
      | some j => s.signalAdd (j.word word.toNat) add
    else if s.peerPresent dst.toNat then
      s.sendPacket dst.toNat 5 clsSignal l.job 0 (Out.signal dst.toNat word add).bytes 0 (some (.signal dst.toNat word add)) none (some (k, bundle))
    else s.raise k ⟨9, 5, false, bundle, 0⟩

/-- The bundle that the core issues, as a fault record names it. -/
def State.bundleNo (s : State) (k : Nat) : Nat := (s.coreOf k).pc % 4096

/-- SPOST: add IMM to semaphore IDX, releasing at cluster scope (R103, R108, R113). -/
def execSpost (k : Nat) (s : State) : Host.Outcome State Fault Refusal :=
  let bits := s.bits k 5
  s.slotStep k 5 2 (s.fenceDone k 1) fun t =>
    t.holdOr k (.spost (fld bits 39 32) (fld bits 15 0) (t.bundleNo k)) fun t => t.updGroup k fun g => g.post (fld bits 39 32) (fld bits 15 0)

/-- Set an event line. -/
def Group.setEvent (g : Group) (i : Nat) : Group := { g with events := if g.events.contains i then g.events else i :: g.events }
/-- Clear an event line. -/
def Group.clearEvent (g : Group) (i : Nat) : Group := { g with events := g.events.filter (· != i) }

/-- ESET: set event line IDX[5:0], releasing at cluster scope (R103, R108, R113). -/
def execEset (k : Nat) (s : State) : Host.Outcome State Fault Refusal :=
  let i := fld (s.bits k 5) 39 32 % 64
  s.slotStep k 5 3 (s.fenceDone k 1) fun t => t.holdOr k (.eset i) fun t => t.updGroup k fun g => g.setEvent i

/-- ECLR: clear event line IDX[5:0] (R103, R113). -/
def execEclr (k : Nat) (s : State) : Host.Outcome State Fault Refusal :=
  let i := fld (s.bits k 5) 39 32 % 64
  s.slotStep k 5 4 true fun t => t.holdOr k (.eclr i) fun t => t.updGroup k fun g => g.clearEvent i

/-- SGADD: add s(SR + 1) to signal word s(SR) on module s(SR + 2), releasing at module or domain scope (R104, R108, R113). -/
def execSgadd (k : Nat) (s : State) : Host.Outcome State Fault Refusal :=
  let r := s.src k
  let sr := fld (s.bits k 5) 31 27
  let dst := r.sr (sr + 2)
  s.slotStep k 5 7 (s.fenceDone k (if s.signalHere dst then 2 else 3)) fun t =>
    t.holdOr k (.sgadd (r.sr sr) (r.sr (sr + 1)) dst (t.bundleNo k)) fun t => t.sgaddNow k (r.sr sr) (r.sr (sr + 1)) dst (t.bundleNo k)

/-- FENCE: later bundles wait until the core's earlier accesses, DMAs and flushes are visible within scope IMM[1:0] (R107). -/
def execSyncFence (k : Nat) (s : State) : Host.Outcome State Fault Refusal :=
  s.slotStep k 5 9 (s.fenceDone k (fld (s.bits k 5) 1 0)) id

/-! ### Restart points (R113 to R115) -/

/-- RESTART: a restart point with resume bundle IMM[11:0]; in a kernel that is not restartable it has no effect (R113). -/
def execRestart (k : Nat) (s : State) : Host.Outcome State Fault Refusal :=
  let resume := fld (s.bits k 5) 11 0
  s.slotStep k 5 10 (s.restartReady k || !s.restartable k) fun t => if t.restartable k then t.restartPoint k resume else t

/-- The records that held effects flush to. -/
def heldKeys (hs : List Held) : List Nat :=
  hs.filterMap fun h => match h with
    | .flush key _ _ => some key
    | _ => none

/-- Held effects can be applied: no page that a held flush names has its accesses held. -/
def State.heldReady (s : State) (hs : List Held) : Bool :=
  (heldKeys hs).all fun key => !s.spanHeld (s.handleOfKey key) (key % 2 ^ 48) 48

/-- The bundle of the first held effect that a predicate picks. -/
def heldBundle (hs : List Held) (f : Held → Option Nat) : Option Nat := hs.findSome? f

/-- The held post at which its semaphore would pass 65,535, by its bundle (R103). -/
def State.heldOverflow (s : State) (k : Nat) (hs : List Held) : Option Nat :=
  (hs.zipIdx).findSome? fun x => match x.1 with
    | .spost i _ b => if 65535 < s.sem k i + heldPosts (hs.take (x.2 + 1)) i then some b else none
    | _ => none

/-- The fault that committing held effects raises, so that none of them takes effect (R103, R104, R111, R113); BUNDLE names the operation that
made the effect. -/
def State.heldFault (s : State) (k : Nat) (hs : List Held) : Option FaultRec :=
  let absent := heldBundle hs fun h => match h with
    | .sgadd _ _ dst b => if s.signalHere dst || s.peerPresent dst.toNat then none else some b
    | _ => none
  let lost := heldBundle hs fun h => match h with
    | .flush key _ b => if s.spanLost (s.handleOfKey key) (key % 2 ^ 48) 48 then some b else none
    | _ => none
  let bad := hs.findSome? fun h => match h with
    | .flush key _ b => if s.recordBad key then some (key, b) else none
    | _ => none
  ((s.heldOverflow k hs).map fun b => ⟨4, 5, true, b, 0⟩) <|> (absent.map fun b => ⟨9, 5, false, b, 0⟩) <|>
    (lost.map fun b => ⟨9, 0, false, b, 0⟩) <|> bad.map fun x => ⟨7, 0, false, x.2, x.1 % 2 ^ 40⟩

/-- Make room for a record among its home cluster's entries by writing one back (R109). -/
def State.laMakeRoom (s : State) (key : Nat) : State :=
  if s.laRoom key then s
  else
    match s.comp.las.find? fun e => s.homeCluster e.1 = s.homeCluster key with
    | none => s
    | some e => (s.writeMem e.1 e.2.bytes).setComp { s.comp with las := s.comp.las.drop e.1 }

/-- One held effect takes effect. -/
def State.applyHeld (s : State) (k : Nat) (h : Held) : State :=
  match h with
  | .flush key v b => if (s.berthAt (s.handleOfKey key)).isNone then s else (s.laMakeRoom key).laAdd (some (k, b)) key (.fp32 v)
  | .spost i n _ => s.updGroup k fun g => g.post i n
  | .eset i => s.updGroup k fun g => g.setEvent i
  | .eclr i => s.updGroup k fun g => g.clearEvent i
  | .sgadd w a d b => s.sgaddNow k w a d b

/-- All held effects take effect in their order. -/
def State.applyHelds (s : State) (k : Nat) (hs : List Held) : State := hs.foldl (fun s h => s.applyHeld k h) s

/-- RESTART_POINT_COMMIT: the held effects and the save area take effect together, or, when one of them cannot, none does and its fault is
raised (R113). An instance asked to leave its core then leaves it (R231, R335). -/
def execRestartPointCommit (k : Nat) (s : State) : Host.Outcome State Fault Refusal :=
  let c := s.coreOf k
  match c.commit, c.inst with
  | some (save, hs), some i =>
    s.when (c.fault.isNone && c.ending.isNone && s.heldReady hs)
      (match s.heldFault k hs with
      | some f => s.raise k f
      | none =>
        let t := (s.applyHelds k hs).updCore k fun c => { c with commit := none, tiles := c.tiles.mapVals fun _ t => { t with locking := [] } }
        let t := t.updInst i fun x => { x with save := some save, tried := [] }
        if c.leave.isSome then (t.suspend k).startWaiting else t)
  | _, _ => .next s

/-- END: the instance ends; its held effects take effect first (R75, R113, R295). It waits until what the core issued is complete and a
restart point under way has committed. -/
def execEndKernel (k : Nat) (s : State) : Host.Outcome State Fault Refusal :=
  let c := s.coreOf k
  match c.inst with
  | none => .next s
  | some i =>
    s.when (s.mayIssue k 5 11 && s.fenceDone k 3 && c.verdicts.isEmpty && c.loading.isNone && c.commit.isNone && s.heldReady c.held)
      (match s.newFault k <|> s.heldFault k c.held with
      | some f => s.raise k f
      | none =>
        let t := (s.applyHelds k c.held).updCore k fun c => { c with held := [], cons := [] }
        (t.endInst i 0 none).startWaiting)

/-! ### Kernel faults (R111, R112, R319 to R323) -/

/-- The core, or the thin path, of a faulted instance leaves service and runs its self-test (R319, R322). -/
def State.startSelfTest (s : State) (k : Nat) (thin : Bool) : State :=
  if thin then s.updCluster (clusterOf k) fun x => { x with thinTest := true } else s.updCoreHw k fun x => { x with testing := true }

/-- KERNEL_FAULT: the fault that a core has raised ends its instance and passes to the Harbourmaster, which replays the interval of a
restartable kernel after an arithmetic fault or a target reset, and otherwise ends the launch (R111, R112, R319, R323, R337). A core that has
been told to end its instance ends it between two bundles (R112, R296). -/
def execKernelFault (k : Nat) (s : State) : Host.Outcome State Fault Refusal :=
  let c := s.coreOf k
  match c.inst with
  | none => .next s
  | some i =>
    match c.fault with
    | some f =>
      let thin := (s.instOf k).any (·.thin)
      let t := if (f.code = 6 || f.code = 8) && s.replayable k && c.ending.isNone then s.replayLater k (f.code = 6) (f.code = 6) else s.faultEnd k (faultStatus f.code) f
      s.when (s.faultReady k) (if f.code = 6 then t.startSelfTest k thin else t).startWaiting
    | none =>
      match c.ending with
      | some st => s.when (c.snap.isNone && s.faultReady k) (s.endInst i st none).startWaiting
      | none => .next s

end Sys2Proof.Machine
end

