-- ==== Sys2Proof/Machine/Rings.lean ====
section
/-! DEFINITION. The ring register block: doorbells, the look-ahead, RESTART, the admin ring, and packets that no other row takes
(R268 to R270, R273, R277, R283, R284, R287). -/

namespace Sys2Proof.Machine

/-- The application cores run, so software reaches the ring register block (R378). -/
def State.osRuns (s : State) : Bool :=
  s.side.harts.getLsbD 0 && (s.side.pstate = .starting || s.side.pstate = .idle || s.side.pstate = .active)

/-- The ring's job is closing (R289): its later doorbells are ignored. -/
def State.muted (s : State) (n : Nat) : Bool := n < adminRing && (s.cmd.jobs.get? (n / 4)).any fun j => j.closing.isSome

/-- A TAIL that a doorbell may not write: not a multiple of 64, moving backward, or more than the ring's size beyond DONE (R283). -/
def badTail (r : Ring) (v : BitVec 32) : Bool := v.toNat % 64 != 0 || 2 ^ 31 ≤ (v - r.tail).toNat || r.bytes < (v - r.done).toNat

/-- DOORBELL: a write of TAIL announces packets, or stops the ring on a bad value; on a closed ring it is ignored (R269, R270, R283). -/
def execDoorbell (n : Nat) (w : BitVec 64) (s : State) : Host.Outcome State Fault Refusal :=
  let r := s.ring n
  let v := w.setWidth 32
  s.when (s.osRuns && r.st != .closed && !s.muted n)
    (if badTail r v then s.stopRing n 5 v else (s.setRing n { r with tail := v, bells := (v, s.now) :: r.bells }).checkHead n)

/-- The announced packet `i` beyond the oldest unaccepted one, at ring offset `off`. -/
def State.packetFrom (s : State) (r : Ring) (n i : Nat) (off : BitVec 32) : Option Pkt :=
  let r := { r with head := off }
  let h := s.headerAt r off
  if off = r.tail || (headError r h).isSome then none
  else
    match i with
    | 0 =>
      let bs := s.mem.read (sysKey (r.addr off)) (phLen h)
      some { ring := n, at_ := off.toNat, hdr := h, words := wordsOf (phPlen h / 8) (bs.drop 32), bytes := bs, job := n / 4 }
    | i + 1 => s.packetFrom r n i (off + BitVec.ofNat 32 (phLen h))

/-- The announced packet `i` beyond a running ring's oldest unaccepted one (R277). -/
def State.packetAhead (s : State) (n i : Nat) : Option Pkt :=
  if (s.ring n).st = .running then s.packetFrom (s.ring n) n i (s.ring n).head else none

/-- DONE moves over the longest prefix of packets that have completed (R269). -/
def Ring.advance (r : Ring) (fuel : Nat) : Ring :=
  match fuel with
  | 0 => r
  | fuel + 1 =>
    match r.finished.find? fun f => f.1 = r.done.toNat with
    | none => r
    | some f => Ring.advance { r with done := r.done + BitVec.ofNat 32 f.2, finished := r.finished.filter (· != f) } fuel

/-- A range of a ring counts as completed. -/
def Ring.finish (r : Ring) (off len : Nat) : Ring :=
  if len = 0 then r else Ring.advance { r with finished := r.finished ++ [(off, len)] } (r.finished.length + 1)

/-- A stopped ring restarts: its unaccepted packets are discarded and it runs, or while rings are paused it is paused as they are (R269, R283, R308). -/
def State.restartRing (s : State) (n : Nat) : State :=
  let r := s.ring n
  let s := s.setCmd { s.cmd with aheadAt := s.cmd.aheadAt.filter fun e => e.1 / 2 ^ 32 != n }
  s.setRing n ({ r with st := if s.paused then .paused else .running, head := r.tail, bells := [], ahead := 0, bpSince := none }.finish r.head.toNat
    (r.tail - r.head).toNat)

/-- A write of a ring status word: IRQ_CORE is stored, and RESTART acts on a stopped ring (R269). -/
def State.writeRstat (s : State) (n : Nat) (w : BitVec 64) : State :=
  let s := s.setRing n { (s.ring n) with irqCore := bitsOf w.toNat 53 49 }
  if w.getLsbD 61 && (s.ring n).st = .stopped then s.restartRing n else s

/-- RING_RESTART: a write of a ring's status word with RESTART set (R269, R283). -/
def execRingRestart (x : RingWord) (s : State) : Host.Outcome State Fault Refusal :=
  s.when (s.osRuns && x.ring < 257 && x.word.getLsbD 61) (s.writeRstat x.ring x.word)

/-- RSTAT.STATE. -/
def RingSt.code (st : RingSt) : Nat :=
  match st with
  | .closed => 0
  | .running => 1
  | .stopped => 2
  | .paused => 3

/-- What a read of the ring register block returns: TAIL, HEAD, DONE, the status word, and the admin ring's descriptor; RESTART and reserved fields read 0
(R9, R11, R269). -/
def State.ringReg (s : State) (ofs : Nat) : W64 :=
  let n := ofs / 32
  let r := s.ring n
  if ofs = 0x2040 then s.cmd.adminDesc
  else if 257 ≤ n then 0
  else
    match ofs % 32 / 8 with
    | 0 => r.tail.setWidth 64
    | 1 => r.head.setWidth 64
    | 2 => r.done.setWidth 64
    | _ => BitVec.ofNat 64 (r.st.code * 2 ^ 62 + (s.progsOf n).length % 128 * 2 ^ 54 + r.irqCore % 32 * 2 ^ 49 + r.err % 8 * 2 ^ 46 + r.errAt.toNat)

/-- SIZE of a ring descriptor. -/
def rdSize (w : W64) : Nat := bitsOf w.toNat 62 59
/-- BASE of a ring descriptor. -/
def rdBase (w : W64) : Nat := bitsOf w.toNat 34 0
/-- VALID of a ring descriptor. -/
def rdValid (w : W64) : Bool := w.getLsbD 63

/-- Do two ranges of bytes overlap? -/
def rangesMeet (a n b m : Nat) : Bool := a < b + m && b < a + n

/-- A descriptor's SIZE or BASE breaks R268, or the ring would overlap an open ring. -/
def State.badRing (s : State) (w : W64) : Bool :=
  10 < rdSize w || rdBase w % 65536 != 0 || sysBytes < rdBase w + 2 ^ (16 + rdSize w) ||
    s.cmd.rings.any fun r => r.2.st != .closed && rangesMeet (rdBase w) (2 ^ (16 + rdSize w)) r.2.base r.2.bytes

/-- A ring opens: running, with TAIL, HEAD and DONE 0 (R269, R288). -/
def State.openRing (s : State) (n : Nat) (w : W64) : State :=
  s.setRing n { Ring.init with size := rdSize w, base := rdBase w, st := .running, irqCore := (s.ring n).irqCore, err := (s.ring n).err,
                               errAt := (s.ring n).errAt }

/-- The fields of a ring descriptor that a register keeps. -/
def rdStored (w : W64) : W64 := w &&& BitVec.ofNat 64 mRing

/-- ADMIN_RING_OPEN: a write of VALID 1 opens the admin ring, or is ignored (R270). -/
def execAdminRingOpen (w : BitVec 64) (s : State) : Host.Outcome State Fault Refusal :=
  s.when (s.osRuns && rdValid w && (s.ring adminRing).st = .closed && !s.badRing w)
    ((s.openRing adminRing w).setCmd { (s.openRing adminRing w).cmd with adminDesc := rdStored w })

/-- ADMIN_RING_CLOSE: a write of VALID 0 closes the admin ring, or is ignored while one of its packets is in progress (R270). -/
def execAdminRingClose (w : BitVec 64) (s : State) : Host.Outcome State Fault Refusal :=
  let t := s.setRing adminRing { (s.ring adminRing) with st := .closed, bpSince := none }
  s.when (s.osRuns && !rdValid w && (s.progsOf adminRing).isEmpty) (t.setCmd { t.cmd with adminDesc := rdStored w })

/-- REGISTER_WRITE: a register with no behaviour of its own stores its RW fields: IRQ_CORE of a ring's RSTAT, and ATTN_MASK of the I3C
window; a reserved field still reads 0, and RESTART of an RSTAT acts (R9, R11, R269, R404). -/
def execRegisterWrite (space : RegSpace) (ofs : Nat) (w : BitVec 64) (s : State) : Host.Outcome State Fault Refusal :=
  match space with
  | .rings =>
    s.when (s.osRuns && ofs < 32 * 257 && ofs % 32 = 24) (s.writeRstat (ofs / 32) w)
  | .window => s.when (s.side.v54 && ofs = 0x001C) (s.setSide { s.side with attnMask := (w.setWidth 32) &&& 0x7F#32 })

/-- Does a row of the table other than NOP take the packet on its ring? -/
def Pkt.hasRow (p : Pkt) : Bool :=
  opcodeKnown p.op && p.op != 0 && (p.admin || !adminOnly p.op) &&
    match p.op with
    | 0x0802 => 1 ≤ p.f 0 3 0 && p.f 0 3 0 ≤ 9
    | 0x0903 => p.f 0 2 0 ≤ 5
    | _ => true

/-- NOP: completes with no effect, its parameter area ignored. A packet that no other row takes, of an unassigned opcode, of a reserved
kind or on the wrong ring, is refused here (R273, R284, R287). -/
def execNop (n : Nat) (s : State) : Host.Outcome State Fault Refusal :=
  s.command n (fun p => !p.hasRow) (fun p _ => mal 0 (p.op != 0)) fun p s => s.done p []

end Sys2Proof.Machine
end

