-- ==== Sys2Proof/Machine/JobOps.lean ====
section
/-! DEFINITION. What ends with a berth, a window or a job: freeing, and the close of a job (R121 to R123, R171, R257, R289). -/

namespace Sys2Proof.Machine

/-! ### Notes (R275) -/

/-- MISSING. -/
def noteMissing : BitVec 16 := 1
/-- EMPTY. -/
def noteEmpty : BitVec 16 := 2
/-- SKIPPED. -/
def noteSkipped : BitVec 16 := 4
/-- QUAY_WARN. -/
def noteWarn : BitVec 16 := 8
/-- ARITH. -/
def noteArith : BitVec 16 := 16
/-- SELF_MISSING. -/
def noteSelf : BitVec 16 := 32
/-- ZERO_DIV. -/
def noteZero : BitVec 16 := 64
/-- MERGED. -/
def noteMerged : BitVec 16 := 128
/-- PEER. -/
def notePeer : BitVec 16 := 256

/-- DETAIL that names a module. -/
def detailModule (m : Nat) : BitVec 32 := detailWord 0x20 m

/-- An outcome whose DETAIL names a peer. -/
def Outc.peer (status m : Nat) : Outc := { status := status, note := notePeer, detail := detailModule m, results := [] }

/-- A command in progress loses its earlier outcome to a new one. -/
def State.reconclude (s : State) (ring at_ : Nat) (o : Outc) : State := s.updProg ring at_ fun g => { g with outcome := some o }

/-! ### Freeing a berth (R121 to R123, R129, R256) -/

/-- Stash room at a peer or far endpoint that a page held is given back in the grant mirror. -/
def State.stashReturn (s : State) (base : BitVec 46) : State :=
  let a := pageAddr base
  let give := fun (k : Nat) (e : BitVec 256) => s.setNet { s.net with mirror := s.net.mirror.put k (e - 1) }
  if gaSpace a = 1 then
    match s.net.mirror.find? fun e => e.1 / 4096 = gaModule a && e.2.getLsbD 25 && bitsOf e.2.toNat 23 0 != 0 with
    | some (k, e) => give k e
    | none => s
  else if gaSpace a = 2 then
    let k := (256 + a / 2 ^ 52 % 256) * 4096 + a / 2 ^ 40 % 4096
    match s.net.mirror.get? k with
    | some e => if bitsOf e.toNat 23 0 != 0 then give k e else s
    | none => s
  else s

/-- A handle names the berth in entry `i`. -/
def namesEntry (i : Nat) (h : BitVec 32) : Bool := h != 0 && handleIndex h = i

/-- A command in progress accesses the berth in entry `i`. What a PREFETCH or a patrol has under way is given up when the berth is freed, and the
BERTH_FREE itself accesses nothing (R123, R280). -/
def Prog.accesses (g : Prog) (i : Nat) : Bool :=
  !([0x0102, 0x0503, 0x0803].contains (phOp g.hdr)) && g.pkt.names.any fun r => r.1 = 0 && namesEntry i (BitVec.ofNat 32 r.2.1)

/-- No access to the berth in entry `i` is still on its way: no command, load, DMA, addend or held flush, and nothing that leaves the module (R123,
log 56). -/
def State.berthQuiet (s : State) (i : Nat) : Bool :=
  s.comp.addends.all (fun a => a.key / 2 ^ 48 != i) &&
    (s.wire.wants ++ s.wire.reads).all (fun w => w.len = 0 || w.key / 2 ^ 48 != i) &&
    s.cmd.progs.all (fun g => !g.accesses i) &&
    s.comp.cores.all fun e =>
      e.2.loads.all (fun l => !namesEntry i l.handle) && e.2.dmas.all (fun d => !namesEntry i d.2.handle && !namesEntry i d.2.src) &&
        (heldKeys (e.2.held ++ (e.2.commit.map (·.2)).getD [])).all (fun k => k / 2 ^ 48 != i)

/-- A berth is freed: its entry's GEN advances, its bytes, marks, records and frames are gone, and what was under way for it is abandoned
(R121, R122, R123). -/
def State.freeBerth (s : State) (i : Nat) : State :=
  match s.place.berths.get? i with
  | none => s
  | some b =>
    let s := s.laEvict (berthKey i 0) (2 ^ 48)
    let s := s.setComp { s.comp with addends := s.comp.addends.filter fun a => a.key / 2 ^ 48 != i }
    let s := b.pages.foldl (fun s p => (s.hideFrame b p.2.base).stashReturn p.2.base) s
    let mine := fun (h : BitVec 32) => handleIndex h = i
    (s.setPlace { s.place with
      berths := s.place.berths.drop i
      gens := s.place.gens.put i (if b.gen = 65535 then 1 else b.gen + 1)
      tcs := s.place.tcs.mapVals fun _ ws => ws.filter fun w => !mine w.1
      shadows := s.place.shadows.mapVals fun _ d => d.filter fun x => !mine x.handle
      fetches := s.place.fetches.mapVals fun _ d => d.filter fun x => !mine x.handle
      shoot := s.place.shoot.filter fun x => x.1 != i }).setMem (s.mem.forget (berthKey i 0) (berthKey (i + 1) 0))

/-! ### Windows (R256, R257) -/

/-- Send a window's entry to each granted source in the peer-management class (R257). -/
def State.sendGrant (s : State) (i : Nat) (w : Window) (bits : BitVec 256) (cmd : Option (Nat × Nat)) : State :=
  (w.modules.filter fun m => s.peerPresent m).foldl (fun s m => s.sendMsg m clsPeer w.job cmd (.grant m i bits)) s

/-- A window goes: its frames are no longer exposed, and pages placed under it are given up (R256, R289). -/
def State.dropWindow (s : State) (i : Nat) : State :=
  let gone := s.net.stashIn.filter fun f => f.1 / 2 ^ 24 % 4096 = i
  let s := gone.foldl (fun s f => s.setMem (s.mem.forget (stashKey f.1 0) (stashKey (f.1 + 1) 0))) s
  s.setNet { s.net with windows := s.net.windows.drop i, frames := s.net.frames.keep fun _ w => w != i,
                        stashIn := s.net.stashIn.keep fun k _ => k / 2 ^ 24 % 4096 != i }

/-! ### The Quay at a job's close (R171) -/

/-- Every owner slot that names a requester of the job is released, its requesters are unbound and its pools removed. -/
def State.quayClose (s : State) (job : Nat) : State :=
  let s := s.quay.descs.foldl (fun s e =>
    (List.range 4).foldl (fun s i =>
      match (s.desc e.1).owners.getD i none with
      | some (r, _) => if r / 16 = job then s.releaseSlot e.1 i else s
      | none => s) s) s
  let gone := s.quay.pools.keep fun _ p => p.job = job
  let s := s.setPlace { s.place with berths := s.place.berths.mapVals fun _ b => if b.pool.any gone.has then { b with pool := none } else b }
  s.setQuay { s.quay with reqs := s.quay.reqs.keep fun r _ => r / 16 != job, pools := s.quay.pools.keep fun _ p => p.job != job }

/-! ### Closing a job (R289) -/

/-- The job's rings close. -/
def State.closeRings (s : State) (job : Nat) : State :=
  s.setCmd { s.cmd with rings := s.cmd.rings.mapVals fun n r => if n / 4 = job && n != adminRing then { r with st := .closed, bpSince := none } else r }

/-- A job is closed: its rings close, the Quay acts, and everything of the job is freed or removed. -/
def State.closeJob (s : State) (job : Nat) : State :=
  let s := (s.closeRings job).quayClose job
  let wins := (s.net.windows.filter fun w => w.2.job = job).map fun w => w
  let s := wins.foldl (fun s w => (s.sendGrant w.1 w.2 0 none).dropWindow w.1) s
  let bs := (s.place.berths.filter fun b => b.2.job = job).map (·.1)
  let s := bs.foldl (fun s i => s.freeBerth i) s
  let s := s.setExch { bindings := s.exch.bindings.keep fun _ b => b.job != job, plans := s.exch.plans.keep fun _ p => p.job != job,
                       heldMarkers := s.exch.heldMarkers.filter fun m => m.1 != job, heldRows := s.exch.heldRows.filter fun r => r.job != job }
  let s := s.setPlace { s.place with predictor := s.place.predictor.keep fun k _ => k / 2 ^ 24 != job
                                     preds := s.place.preds.keep fun k _ => k / 2 ^ 24 != job }
  let s := s.setColl
    { colls := s.coll.colls.keep fun _ c => c.job != job, agrees := s.coll.agrees.keep fun _ a => a.job != job,
      simple := s.coll.simple.filter fun c => c.job != job, usedTags := s.coll.usedTags.filter fun t => t / 2 ^ 16 != job,
      heldMsgs := s.coll.heldMsgs.filter fun m => m.1 != job, heldCon := s.coll.heldCon.filter fun m => m.job != job,
      heldMasks := s.coll.heldMasks.filter fun m => m.job != job }
  let s := s.setNet { s.net with farFlows := s.net.farFlows.keep fun k f =>
      match f.cmd with
      | some (r, _) => r = adminRing || r / 4 != job
      | none => !(40960 ≤ k && k < 73728 && (k - 40960) / 512 = job) }
  s.setCmd { s.cmd with jobs := s.cmd.jobs.drop job, aheadAt := s.cmd.aheadAt.filter fun e => e.1 / 2 ^ 32 / 4 != job, kernels := s.cmd.kernels.keep fun _ k => k.job != job }

/-- The instances of a launch are told to end: with no restart point committed, and the launch aborted (R289, R296). -/
def State.abortLaunch (s : State) (l : Nat) : State :=
  match s.comp.launches.get? l with
  | none => s
  | some x =>
    (s.setComp { s.comp with launches := s.comp.launches.put l { x with aborted := true } }).endOthers l stReset

/-- The outcome of work that an abort ended. -/
def Outc.aborted : Outc := { status := stReset, note := noteAborted, detail := 0, results := [] }

/-- A command in progress is aborted. A launch ends with its last instance; one whose instances have all ended keeps their results (R289, R296). -/
def State.abortProg (s : State) (g : Prog) : State :=
  match g.work with
  | .launch l =>
    if s.comp.launches.has l then s.abortLaunch l
    else s.updProg g.ring g.at_ fun x => { x with outcome := some { (x.outcome.getD Outc.aborted) with status := stReset, note := noteAborted } }
  | _ => s.reconclude g.ring g.at_ Outc.aborted

/-- Announced packets from an offset to TAIL. -/
def State.countPackets (s : State) (r : Ring) (fuel : Nat) (off : BitVec 32) : Nat :=
  match fuel with
  | 0 => 0
  | fuel + 1 =>
    let len := phLen (s.headerAt r off)
    if off = r.tail || 2 ^ 31 ≤ (r.tail - off).toNat || len = 0 then 0 else 1 + s.countPackets r fuel (off + BitVec.ofNat 32 len)

/-- Packets of a job's rings that have not been accepted. -/
def State.unaccepted (s : State) (job : Nat) : Nat :=
  ((List.range 4).map fun i =>
    let r := s.ring (4 * job + i)
    if r.st = .closed then 0 else s.countPackets r (2 ^ r.size * 1024) r.head).sum

/-- Every packet in progress of a job ends with TARGET_RESET and ABORTED, and every unaccepted one is discarded (R289). -/
def State.abortJob (s : State) (job : Nat) : State :=
  let s := s.setCmd { s.cmd with rings := s.cmd.rings.mapVals fun n r =>
    if n / 4 = job && n != adminRing && r.st != .closed then { r with head := r.tail, bells := [], ahead := 0, bpSince := none } else r }
  let gs := s.cmd.progs.filter fun g => g.ring / 4 = job && g.ring != adminRing
  gs.foldl State.abortProg s

/-- Every announced packet of a job's rings has completed. -/
def State.drained (s : State) (job : Nat) : Bool :=
  (List.range 4).all fun i =>
    let r := s.ring (4 * job + i)
    r.st = .closed || (r.head = r.tail && (s.progsOf (4 * job + i)).isEmpty)

end Sys2Proof.Machine
end

