-- ==== Sys2Proof/Machine/JobFamily.lean ====
section
/-! DEFINITION. Job control: JOB_OPEN, JOB_CLOSE, JOB_PRIORITY, FENCE, SIGNAL, WAIT (R204, R287 to R290). -/

namespace Sys2Proof.Machine

/-! ### JOB_OPEN (R204, R268, R288) -/

/-- The entries of a granule table: FIRST and COUNT. -/
def granulesOf (ws : List W64) : List (Nat × Nat) := ws.map fun w => (bitsOf w.toNat 31 0, bitsOf w.toNat 55 32)

/-- A granule table that is refused: a reserved field set, a COUNT of 0, entries not ascending or overlapping (R204). -/
def badGranules (ws : List W64) : Bool :=
  ws.any (fun w => bitsOf w.toNat 63 56 != 0 || bitsOf w.toNat 55 32 = 0) ||
    ((granulesOf ws).zip ((granulesOf ws).drop 1)).any fun e => e.2.1 < e.1.1 + e.1.2

/-- The job's ring descriptors, with their index. -/
def Pkt.ringDescs (p : Pkt) : List (Nat × W64) := ((List.range 4).map fun i => (i, p.w (5 + i))).filter fun d => rdValid d.2

/-- GTABLE. -/
def Pkt.gtable (p : Pkt) : Nat := p.f 4 34 0
/-- GCOUNT. -/
def Pkt.gcount (p : Pkt) : Nat := p.f 4 60 48
/-- The words of the granule table in memory. -/
def State.gtableWords (s : State) (p : Pkt) : List W64 := wordsOf p.gcount (s.mem.read (sysKey p.gtable) (8 * p.gcount))

/-- A run of signal words is free. -/
def State.wordsFree (s : State) (base n : Nat) : Bool := base + n ≤ 4096 && s.cmd.jobs.all fun j => !rangesMeet base n j.2.sigBase j.2.sigWords

/-- The longest free run of signal words. -/
def State.longestRun (s : State) : Nat :=
  let js := s.cmd.jobs.valList.filter fun j => j.sigWords != 0
  ((0 :: js.map fun j => j.sigBase + j.sigWords).map fun a => (js.filterMap fun j => if a ≤ j.sigBase then some j.sigBase else none).foldl min 4096 - a).foldl max 0

/-- What refuses a JOB_OPEN. -/
def jobOpenBad (p : Pkt) (s : State) : List Bad :=
  let ds := p.ringDescs
  let gbad := p.gcount = 0 || 4096 < p.gcount || sysBytes < p.gtable + 8 * p.gcount
  mal 1 (256 < p.f 1 40 32) ++ mal 2 (4096 < p.f 2 28 16 || 60000 < p.f 2 15 0) ++ mal 4 (gbad || badGranules (s.gtableWords p)) ++
    mal 5 (!rdValid (p.w 5)) ++
    (ds.flatMap fun d => mal (5 + d.1) (s.badRing d.2 ||
      ds.any fun e => e.1 < d.1 && rangesMeet (rdBase d.2) (2 ^ (16 + rdSize d.2)) (rdBase e.2) (2 ^ (16 + rdSize e.2)))) ++
    refuseIf ((lowestFree 64 fun j => !s.cmd.jobs.has j).isNone) stQuota (detailWord 0x01 0) ++
    refuseIf ((lowestFree 4097 fun b => s.wordsFree b (p.f 2 28 16)).isNone) stQuota (detailWord 0x02 s.longestRun)

/-- A job as JOB_OPEN makes it (R288). -/
def Pkt.newJob (p : Pkt) (now sigBase : Nat) (gs : List Byte) : Job :=
  { seed := p.w 0, filler := p.bit 1 63, prio := p.f 1 56 49, thin := if p.bit 1 48 then p.f 1 40 32 else 64, rare := p.f 1 31 0,
    waitMs := if p.f 2 15 0 = 0 then 1000 else p.f 2 15 0, sigBase := sigBase, sigWords := p.f 2 28 16, step := p.w 3,
    granules := granulesOf (wordsOf p.gcount gs), gcrc := crc64 gs, frozen := false, frozenStep := false, placeChg := 0, startAt := now,
    energy := 0, stepEnergy := 0, predLate := 0, predWaste := 0, closing := none, cmdLog := [], planLog := [], digLog := [], collLog := [],
    evts := 0, resends := 0, clampN := 0, gov3 := 0, fixedStep := false, engaged := false, fillerRan := false,
    netWait := [] }

/-- JOB_OPEN: a job with its seed, class, limits, signal words, granule table and rings; the slot and the run of signal words are the
module's choice (R25, R55, R75, R105, R204, R210, R230, R268, R288). -/
def execJobOpen (slot sigBase : Nat) (s : State) : Host.Outcome State Fault Refusal :=
  s.command adminRing (isOp 0x0001) jobOpenBad fun p s =>
    s.reading p true 0 p.gtable (8 * p.gcount) fun gs s =>
      match choose 64 slot (fun j => !s.cmd.jobs.has j), choose 4097 sigBase (fun b => s.wordsFree b (p.f 2 28 16)) with
      | some j, some b =>
        let job := p.newJob s.now b gs
        let job := { job with fixedStep := s.chip.fixed, fillerRan := s.fillerRuns }
        let s := p.ringDescs.foldl (fun s d => s.openRing (4 * j + d.1) d.2) s
        let s := s.setCmd { s.cmd with jobs := s.cmd.jobs.put j job }
        let s := s.setComp { s.comp with signals := s.comp.signals.keep fun i _ => i < b || b + job.sigWords ≤ i }
        s.done p [BitVec.ofNat 64 j, job.gcrc]
      | _, _ => s.failed p stQuota 0

/-! ### JOB_CLOSE (R289) and JOB_PRIORITY -/

/-- The job that an admin packet names is not open. -/
def noJob (p : Pkt) (s : State) : List Bad := mal 0 (!s.cmd.jobs.has (p.f 0 5 0))

/-- JOB_CLOSE: acceptance stops on the job's rings; with ABORT its packets in progress end and the others are discarded; the job closes when
they have completed (COMMAND_COMPLETE), or not at all when the job's wait limit passes first (JOB_CLOSE_TIMEOUT) (R289). -/
def execJobClose (s : State) : Host.Outcome State Fault Refusal :=
  s.command adminRing (isOp 0x0002) noJob fun p s =>
    let j := p.f 0 5 0
    let s := s.setCmd { s.cmd with jobs := s.cmd.jobs.mapVals fun i x => if i = j then { x with closing := some s.now } else x }
    if p.bit 0 8 then
      let n := s.unaccepted j
      let s := (s.abortJob j).startWaiting
      (s.works p (.close j s.now)).updProg p.ring p.at_ fun g => { g with outcome := some { status := 0, note := 0, detail := 0, results := [BitVec.ofNat 64 n] } }
    else s.works p (.close j s.now)

/-- JOB_CLOSE_TIMEOUT: the drain passes the job's wait limit: the command completes with TIMEOUT, the job stays open and its rings resume
(R289). -/
def execJobCloseTimeout (job : Nat) (s : State) : Host.Outcome State Fault Refusal :=
  match s.cmd.progs.find? fun g => match g.work with
      | .close j _ => j = job && g.outcome.isNone
      | _ => false, s.cmd.jobs.get? job with
  | some g, some j =>
    let since := match g.work with
      | .close _ t => t
      | _ => 0
    s.when (s.after since (1000 * j.waitMs) && !s.drained job)
      ((s.setCmd { s.cmd with jobs := s.cmd.jobs.put job { j with closing := none } }).conclude g.ring g.at_ (Outc.of stTimeout 0))
  | _, _ => .next s

/-- JOB_PRIORITY: set a job's look-ahead priority and return the former one (R277, R287). -/
def execJobPriority (s : State) : Host.Outcome State Fault Refusal :=
  s.command adminRing (isOp 0x0003) noJob fun p s =>
    match s.cmd.jobs.get? (p.f 0 5 0) with
    | none => s
    | some j => (s.setCmd { s.cmd with jobs := s.cmd.jobs.put (p.f 0 5 0) { j with prio := p.f 0 15 8 } }).done p [BitVec.ofNat 64 j.prio]

/-! ### FENCE, SIGNAL, WAIT (R104, R290) -/

/-- FENCE: completes when every earlier packet of its ring has, which its acceptance waited for, and with JOB_WIDE when every packet of the
job's other rings accepted before it has too (R279, R290). -/
def execFence (n : Nat) (s : State) : Host.Outcome State Fault Refusal :=
  s.command n (isOp 0x0004) (fun _ _ => []) fun p s =>
    let others := (s.cmd.progs.filter fun g => g.ring != p.ring && g.ring / 4 = p.job && g.ring != adminRing).map fun g => (g.ring, g.at_)
    if p.bit 0 0 && !p.admin && !others.isEmpty then s.works p (.fence others) else s.done p []

/-- A WORD beyond the job's grant. -/
def badWord (p : Pkt) (s : State) : List Bad := mal 0 (((s.cmd.jobs.get? p.job).map (·.sigWords)).getD 0 ≤ p.f 0 11 0)

/-- No module of the domain has the index (R119). -/
def State.noModule (s : State) (m : Nat) : Bool := 127 < m || !(s.net.plan.any fun q => q.fps.has m)

/-- SIGNAL: add ADD to the job's signal word WORD on MODULE; a remote one completes once the target has answered (R104, R249, R281, R290). -/
def execSignal (n : Nat) (s : State) : Host.Outcome State Fault Refusal :=
  let dst := fun (p : Pkt) => p.f 0 31 16
  let here := fun (p : Pkt) (s : State) => dst p = 0xFFFF || s.ownIndex = some (dst p)
  s.command n (isOp 0x0005) (fun p s => badWord p s ++ mal 0 (!here p s && s.noModule (dst p))) fun p s =>
    if here p s then
      match s.cmd.jobs.get? p.job with
      | none => s
      | some j => (s.signalAdd (j.word (p.f 0 11 0)) (p.w 1)).done p []
    else if s.peerPresent (dst p) then
      s.sendMsg (dst p) clsSignal p.job (some (p.ring, p.at_)) (.signal (dst p) (BitVec.ofNat 64 (p.f 0 11 0)) (p.w 1))
    else s.conclude p.ring p.at_ (Outc.peer stAbsent (dst p))

/-- WAIT: completes when the word, unsigned, is at least VALUE, or with TIMEOUT at the job's wait limit (R105, R290). -/
def execWait (n : Nat) (s : State) : Host.Outcome State Fault Refusal :=
  s.command n (isOp 0x0006) badWord fun p s =>
    match s.cmd.jobs.get? p.job with
    | none => s
    | some j => s.works p (.signalWait (j.word (p.f 0 11 0)) (p.w 1) s.now)

end Sys2Proof.Machine
end

