-- ==== Sys2Proof/Machine/LoadStore.lean ====
section
/-! DEFINITION. The load/store slot, and the completion of its loads and DMAs (R93, R94, R106, R151). -/

namespace Sys2Proof.Machine

/-- Read a span as a load or DMA delivers it: a compressed tile that begins there is expanded, and its poison is found over its whole
length (R87). -/
def State.loadSpan (s : State) (who : Option Nat) (h : BitVec 32) (ofs n : Nat) : Got × State :=
  let key := spanKey (who.getD 0) h ofs
  if s.mem.tiles.contains key then
    let (g, t) := s.readSpan who h ofs (tileLength (s.mem.read key 8))
    ({ g with data := t.loadBytes key n }, t.freeNext)
  else s.readSpan who h ofs n

/-- The imprecise fault of a read: uncorrectable data, or an absent peer (R127, R145). -/
def State.readFault (s : State) (k sl : Nat) (g : Got) (ofs : Nat) : Option FaultRec :=
  if g.lost then some (s.faultHere k 9 sl false 0)
  else if g.poisoned then some (s.faultHere k 7 sl false ofs)
  else none

/-- Advance G after the access when ADV is set. -/
def State.lsAdvance (s : State) (k bits : Nat) : State :=
  if flag bits 51 then s.updRegs k fun r => r.setG (fld bits 66 64) (genAdvance (r.gr (fld bits 66 64))) else s

/-- What a load writes: its bytes, or 128 elements of a format widened to FP32 (R93). -/
def LoadOp.data (l : LoadOp) : BitVec 4096 :=
  match l.fmt with
  | none => BitVec.ofNat 4096 (leNat l.bytes)
  | some fmt =>
    let a := l.bytes.toArray
    ofLanes fun i => toF32 (inputVal fmt 0 false a i)

/-- Issue a load of `n` bytes: the data are taken now, but for what comes from outside the module, and the register is written when the load completes
(R91, R106, R248). -/
def State.issueLoad (s : State) (k kind reg n : Nat) (lanes : BitVec 128) (fmt : Option Nat) : State :=
  let bits := s.bits k 1
  let r := s.src k
  let ofs := (lsAddr r bits).toNat
  let (g, t) := s.loadSpan (some k) (lsHandle r bits) ofs n
  let op : LoadOp :=
    { kind := kind, reg := reg, fmt := fmt, bytes := g.data, lanes := lanes, fault := s.readFault k 1 g ofs,
      handle := lsHandle r bits, ofs := ofs, len := n, bundle := (s.coreOf k).pc % 4096 }
  (t.updCore k fun c => { c with loads := c.loads ++ [op] }).lsAdvance k bits

/-- A load slot operation: it waits while 32 loads are outstanding or the page's accesses are held (R94, R129). -/
def State.loadStep (s : State) (k op kind reg n : Nat) (lanes : BitVec 128) (fmt : Option Nat) :
    Host.Outcome State Fault Refusal :=
  let bits := s.bits k 1
  let r := s.src k
  s.slotStep k 1 op ((s.coreOf k).loads.length < 32 && !s.spanHeld (lsHandle r bits) (lsAddr r bits).toNat n) fun t =>
    t.issueLoad k kind reg n lanes fmt

/-- A store slot operation: some bytes at the slot's address. -/
def State.storeStep (s : State) (k op : Nat) (bs : Regs → Nat → List (Option Byte)) : Host.Outcome State Fault Refusal :=
  let bits := s.bits k 1
  let r := s.src k
  let h := lsHandle r bits
  let ofs := (lsAddr r bits).toNat
  let data := bs r bits
  s.slotStep k 1 op (!s.spanHeld h ofs data.length) fun t =>
    let u := if t.spanLost h ofs data.length then t.raise k (t.faultHere k 9 1 false 0) else t.writeSpanOpt (some k) h ofs data
    u.lsAdvance k bits

/-- LDS: 8 bytes into sR (R93). -/
def execLds (k : Nat) (s : State) : Host.Outcome State Fault Refusal :=
  s.loadStep k 1 0 (fld (s.bits k 1) 71 67) 8 0 none

/-- STS: 8 bytes from sR (R93). -/
def execSts (k : Nat) (s : State) : Host.Outcome State Fault Refusal :=
  s.storeStep k 2 fun r bits => (leBytes 8 (r.sr (fld bits 71 67)).toNat).map some

/-- LDV: 512 bytes into the lanes of vR whose predicate is set (R93). -/
def execLdv (k : Nat) (s : State) : Host.Outcome State Fault Refusal :=
  let bits := s.bits k 1
  s.loadStep k 3 1 (fld bits 71 67) 512 ((s.src k).pr (fld bits 60 57)) none

/-- STV: the lanes of vR whose predicate is set (R93). -/
def execStv (k : Nat) (s : State) : Host.Outcome State Fault Refusal :=
  s.storeStep k 4 fun r bits =>
    (List.range 128).flatMap fun i =>
      if (r.pr (fld bits 60 57)).getLsbD i then (leBytes 4 (lane (r.vr (fld bits 71 67)) i).toNat).map some
      else List.replicate 4 none

/-- LDVC: 128 elements of a format, widened to FP32 into vR (R93). -/
def execLdvc (k : Nat) (s : State) : Host.Outcome State Fault Refusal :=
  let bits := s.bits k 1
  let fmt := fld bits 56 53
  s.loadStep k 5 1 (fld bits 71 67) (ldvcBytes fmt) (BitVec.allOnes 128) (some fmt)

/-- PLD: 16 bytes into pR[3:0] (R93). -/
def execPld (k : Nat) (s : State) : Host.Outcome State Fault Refusal :=
  s.loadStep k 6 2 (fld (s.bits k 1) 71 67 % 16) 16 0 none

/-- PST: 16 bytes from pR[3:0] (R93). -/
def execPst (k : Nat) (s : State) : Host.Outcome State Fault Refusal :=
  s.storeStep k 7 fun r bits => (leBytes 16 (r.pr (fld bits 71 67 % 16)).toNat).map some

/-- The bytes of a 128 × 128 tile transposed, from its rows (R151, R152). -/
def transposeBytes (esize : Nat) (rows : List (List Byte)) : List Byte :=
  (List.range 128).flatMap fun j => rows.flatMap fun r => (r.drop (j * esize)).take esize

/-- What a DMA reads: its bytes in destination order, the poisoned destination blocks, and its fault (R87, R94, R146, R151). The source is
read as the DMA issues, and the destination written as it completes (R106 leaves the moment of the read open; DESIGN CHOICE, log 203). -/
def State.dmaRead (s : State) (k bits : Nat) (r : Regs) : DmaOp × State :=
  let h := lsHandle r bits
  let a := lsAddr r bits
  let n := (r.sr (fld bits 71 67)).toNat
  let dh := dmaHandle r bits
  let d := (dmaDst r bits).toNat
  let dkey := spanKey k dh d
  if flag bits 52 then
    let fmt := fld bits 56 53
    let rowN := elemBytes fmt 128
    let key := spanKey k h a.toNat
    let at_ := (List.range 128).map fun i => (a + (i : Int) * genStride0 (r.gr (fld bits 66 64))).toNat
    let packed := s.mem.tiles.contains key
    let read := fun (acc : List Got × State) (o : Nat) =>
      let (g, t) := acc.2.readSpan (some k) h o rowN
      (acc.1 ++ [g], t)
    let (gs, t) := if packed then ([], s) else at_.foldl read ([], s)
    let (g, t) := if packed then t.loadSpan (some k) h a.toNat n else (⟨[], false, false⟩, t)
    let rows := if packed then (List.range 128).map fun i => (g.data.drop (i * rowN)).take rowN else gs.map (·.data)
    let bad := g.poisoned || gs.any (·.poisoned)
    let lost := g.lost || gs.any (·.lost)
    ({ handle := dh, ofs := d, bytes := transposeBytes (rowN / 128) rows, poison := if bad then blocksOf dkey n else [],
       fault := if lost then some (s.faultHere k 9 1 false 0) else none, bundle := (s.coreOf k).pc % 4096,
       src := h, sofs := (at_.foldl min a.toNat), slen := at_.foldl max 0 + rowN - at_.foldl min a.toNat, plain := false }, t)
  else
    let key := spanKey k h a.toNat
    let (g, t) := s.loadSpan (some k) h a.toNat n
    let marks := if s.mem.tiles.contains key then (if g.poisoned then blocksOf dkey n else [])
      else if s.spanFailed h a.toNat n then blocksOf dkey n else poisonedDst t.mem key dkey n
    ({ handle := dh, ofs := d, bytes := g.data, poison := marks, fault := if g.lost then some (s.faultHere k 9 1 false 0) else none,
       bundle := (s.coreOf k).pc % 4096, src := h, sofs := a.toNat, slen := n, plain := !s.mem.tiles.contains key }, t)

/-- DMA: copy sR bytes from G to G2; its tag completes with it (R94). With ADV, a generator named by both G and G2 advances once (DESIGN
CHOICE, log 204). -/
def execDma (k : Nat) (s : State) : Host.Outcome State Fault Refusal :=
  let bits := s.bits k 1
  let r := s.src k
  let n := (r.sr (fld bits 71 67)).toNat
  s.slotStep k 1 8 ((s.coreOf k).dmas.length < 16 && !s.spanHeld (lsHandle r bits) (lsAddr r bits).toNat n) fun t =>
    let (op, t) := t.dmaRead k bits r
    let tag := fld bits 50 45
    let t := t.updCore k fun c => { c with dmas := c.dmas.put tag op, tagsDone := c.tagsDone.filter (· != tag) }
    if flag bits 51 then
      t.updRegs k fun x =>
        let x := x.setG (fld bits 66 64) (genAdvance (x.gr (fld bits 66 64)))
        if fld bits 66 64 = fld bits 63 61 then x else x.setG (fld bits 63 61) (genAdvance (x.gr (fld bits 63 61)))
    else t

/-- GCFG: load generator G from 32 bytes of operand SRAM at sR + OFS; its reserved field reads 0. -/
def execGcfg (k : Nat) (s : State) : Host.Outcome State Fault Refusal :=
  let bits := s.bits k 1
  let r := s.src k
  let a := (gcfgAddr r bits).toNat
  s.slotStep k 1 10 true fun t =>
    let (g, u) := t.readSpan (some k) 0 a 32
    let u := u.updRegs k fun x => x.setG (fld bits 66 64) (BitVec.ofNat 256 (leNat g.data / 2 ^ 48 * 2 ^ 48))
    match t.readFault k 1 g a with
    | some f => u.raise k f
    | none => u

/-- GSET: IDX0 := sR[15:0], IDX1 := sR[31:16]. -/
def execGset (k : Nat) (s : State) : Host.Outcome State Fault Refusal :=
  let bits := s.bits k 1
  let v := ((s.src k).sr (fld bits 71 67)).toNat
  s.slotStep k 1 11 true fun t =>
    t.updRegs k fun x => x.setG (fld bits 66 64) (genIdx (x.gr (fld bits 66 64)) (v % 2 ^ 16) (v / 2 ^ 16 % 2 ^ 16))

/-- GADV: advance G without access. -/
def execGadv (k : Nat) (s : State) : Host.Outcome State Fault Refusal :=
  let bits := s.bits k 1
  s.slotStep k 1 12 true fun t => t.updRegs k fun x => x.setG (fld bits 66 64) (genAdvance (x.gr (fld bits 66 64)))

/-- Write a completed load's register: lanes whose predicate is clear keep their value. -/
def LoadOp.write (l : LoadOp) (r : Regs) : Regs :=
  match l.kind with
  | 0 => r.setS l.reg (l.data.setWidth 64)
  | 1 => r.setV l.reg (mergeLanes l.lanes (r.vr l.reg) (lane l.data))
  | _ => r.setP l.reg (l.data.setWidth 128)

/-- Of the data that reaches core `k` over the dies' networks, one block has `n` erroneous symbols: one is corrected, and two poison the block; either is an
event of class 0x15 at the core that consumes the data (R312, R314; log 221). -/
def State.linkError (s : State) (k n : Nat) : State :=
  if n = 0 then s else s.fault 0x15 utCore (coreUnit k) 0 (if 2 ≤ n then 1 else 0) false

/-- The erroneous symbols of a load's block: a read of the core's own operand SRAM crosses no network. -/
def LoadOp.symbols (l : LoadOp) (x : Arrival) : Nat := if l.handle = 0 then 0 else x.symbols
/-- The erroneous symbols of a DMA's block. -/
def DmaOp.symbols (d : DmaOp) (x : Arrival) : Nat := if d.handle = 0 && d.src = 0 then 0 else x.symbols

/-- The fault of a load: its own, or that of a block poisoned on the way. -/
def LoadOp.faultOf (l : LoadOp) (x : Arrival) : Option FaultRec :=
  l.fault <|> if 2 ≤ l.symbols x then some ⟨7, 1, false, l.bundle, l.ofs % 2 ^ 40⟩ else none

/-- The destination blocks that a DMA leaves poisoned: those that it read so, and one poisoned on the way. -/
def DmaOp.poisonOf (d : DmaOp) (k : Nat) (x : Arrival) : List Nat :=
  d.poison ++ if 2 ≤ d.symbols x then ((blocksOf (spanKey k d.handle d.ofs) d.bytes.length)[x.block]?).toList else []

/-- LOAD_COMPLETE: an outstanding load of core `k` completes, when what it reads outside the module has come: it writes its register, or raises its
imprecise fault (R91, R106, R248, R314). -/
def execLoadComplete (k : Nat) (x : Arrival) (s : State) : Host.Outcome State Fault Refusal :=
  match (s.coreOf k).loads[x.n]? with
  | none => .next s
  | some l =>
    let t := (s.linkError k (l.symbols x)).updCore k fun c => { c with loads := c.loads.eraseIdx x.n }
    s.when (!s.awaits k (spanKey k l.handle l.ofs) l.len)
      (match l.faultOf x with
      | some f => t.raise k f
      | none => t.updRegs k l.write)

/-- DMA_COMPLETE: the DMA of a tag completes, when what it reads outside the module has come: its destination is written, poisoned blocks as poisoned, and the
tag is set (R94, R106, R146, R248, R314). -/
def execDmaComplete (k : Nat) (x : Arrival) (s : State) : Host.Outcome State Fault Refusal :=
  match (s.coreOf k).dmas.get? x.n with
  | none => .next s
  | some d =>
    let t := (s.linkError k (d.symbols x)).updCore k fun c => { c with dmas := c.dmas.drop x.n, tagsDone := x.n :: c.tagsDone.filter (· != x.n) }
    s.when (!s.spanHeld d.handle d.ofs d.bytes.length && !s.awaits k (spanKey k d.src d.sofs) d.slen)
      (match d.fault with
      | some f => t.raise k f
      | none =>
        if t.spanLost d.handle d.ofs d.bytes.length then t.raise k ⟨9, 1, false, d.bundle, 0⟩
        else ((t.writeSpan (some k) d.handle d.ofs d.bytes).tagWants t.wire.wants.length (some (k, d.bundle)) none).poisonBlocks (d.poisonOf k x))

/-- The peer whose window exposes a berth under a handle, as the grant mirror shows it: VALID, and RD, WR or ACC (R257). -/
def State.mirrorOf (s : State) (h : BitVec 32) : Option Nat :=
  (s.net.mirror.find? fun e =>
    let src := e.1 / 4096
    src < 128 && s.peerPresent src && e.2.getLsbD 40 && bitsOf e.2.toNat 127 96 = h.toNat && (e.2.getLsbD 31 || e.2.getLsbD 30 || e.2.getLsbD 29)).map
      fun e => e.1 / 4096

/-- TRANSLATION_FILL: on a miss the cluster reads the page entry and fills one way of the set, evicting the least recently used; the entry of a page that a
peer's window exposes is fetched from the peer, in the peer-management class (R127, R254, R257). What the entry then holds is not stated (log 213). -/
def execTranslationFill (cluster : Nat) (handle : BitVec 32) (page : Nat) (s : State) : Host.Outcome State Fault Refusal :=
  match s.berthAt handle, s.mirrorOf handle with
  | some b, _ => s.when (s.inService cluster && (b.pages.get? page).any fun p => !p.held) (s.tcFill cluster handle page)
  | none, some m =>
    let w : Want := { kind := .entry m handle page, addr := 0, key := 0, len := 0, job := 0, cls := clsPeer, core := none, cmd := none }
    s.when (s.inService cluster && handle != 0)
      ((s.setWire { s.wire with wants := s.wire.wants ++ [w] }).tcFill cluster handle page)
  | none, none => .next s

end Sys2Proof.Machine
end

