-- ==== Sys2Proof/Machine/BerthFamily.lean ====
section
/-! DEFINITION. The berth commands (R120 to R126, R138, R139, R151, R232, R233, R291 to R293). -/

namespace Sys2Proof.Machine

/-! ### Capacity (R120, R126, R136, R138) -/

/-- The class of a hint word that R125 refuses: both dies, a reserved bit, or NO_PEER or NO_FAR without a stash. -/
def badHints (cls : Nat) (h : BitVec 12) : Bool :=
  (h.getLsbD 8 && h.getLsbD 9) || h.toNat % 32 != 0 || (cls != 2 && (h.getLsbD 10 || h.getLsbD 11))

/-- Bytes of the pages of a length. -/
def pagesBytes (cls length : Nat) : Nat := pagesFor cls length * pageSize cls

/-- Room that present peers, or present far endpoints, grant for stash pages. -/
def State.grantedRoom (s : State) (far : Bool) : Nat :=
  (s.net.mirror.map fun e =>
    let src := e.1 / 4096
    let here := if far then 256 ≤ src && (s.net.farEps.get? (src - 256)).any (·.present) else src < 128 && s.peerPresent src
    if here && e.2.getLsbD 40 && e.2.getLsbD 25 then (bitsOf e.2.toNat 95 56 / 2 ^ 21 - bitsOf e.2.toNat 23 0) * 2 ^ 21 else 0).sum

/-- Bytes of stash pages not yet placed, of berths that reserve no local HBM. -/
def State.stashOpen (s : State) : Nat :=
  s.place.berths.sumBy fun _ b => if b.resLocal = 0 then (pagesFor b.cls b.length - b.pages.length) * pageSize b.cls else 0

/-- A stash that may not leave the module reserves local HBM, as every other class does. -/
def reservesLocal (cls : Nat) (h : BitVec 12) : Bool := cls != 2 || h.getLsbD 10

/-- Bytes short for a berth of a class, length and hints (R120, R126; the bound over all stash berths is DEDUCED, log 17). -/
def State.capacityShort (s : State) (cls length : Nat) (h : BitVec 12) : Nat :=
  let need := pagesBytes cls length
  let outside := fun (x : BitVec 12) => (if x.getLsbD 10 then 0 else s.grantedRoom false) + (if x.getLsbD 10 || x.getLsbD 11 then 0 else s.grantedRoom true)
  if reservesLocal cls h then max (need - s.localFree) (need + s.stashOpen - (s.localFree + outside 0))
  else need + s.stashOpen - (s.localFree + outside h)

/-- A pinned berth of a length fits a cluster under R138. -/
def State.pinFits (s : State) (length c : Nat) : Bool :=
  s.enabled c && (s.cluster c).svc = .inService && s.pinnedFrames c + pagesFor 3 length ≤ 16

/-- No cluster has room for a pin. -/
def State.noPinRoom (s : State) (length : Nat) : Bool := (lowestFree 24 (s.pinFits length)).isNone

/-- Page entries in use: the pages of every berth (R126). -/
def State.pageEntries (s : State) : Nat := s.place.berths.sumBy fun _ b => pagesFor b.cls b.length

/-- A free berth map entry. -/
def State.entryFree (s : State) (i : Nat) : Bool := 1 ≤ i && !s.place.berths.has i

/-! ### Moves of pages (R132), as a pin needs them -/

/-- A long-accumulator entry holds a record of the page, so it may not begin to move (R132). -/
def State.recordsIn (s : State) (i p cls : Nat) : Bool :=
  s.comp.las.any fun e => recordMeets e.1 (berthKey i (p * pageSize cls)) (pageSize cls)

/-- The bytes of a page, or of its dirty 4 KiB lines, go to its new home where that stands outside the module, in the stash class (R132, R254, R259). -/
def State.sendPage (s : State) (i p : Nat) (b : Berth) (goal : BitVec 46) (lines : Option (List Nat)) : State :=
  let a := pageAddr goal
  if s.isLocal a then s
  else
    let c := if gaSpace a = 2 then 1024 else 4096
    let first := p * pageSize b.cls
    let at_ := (List.range (pageSize b.cls / c)).map (· * c)
    let ofs := match lines with
      | none => at_
      | some ls => at_.filter fun o => ls.contains ((first + o) / 4096)
    let ws := ofs.map fun o =>
      ({ kind := .write (s.mem.read (berthKey i (first + o)) c), addr := a + o, key := berthKey i (first + o), len := c, job := b.job, cls := clsStash,
         core := none, cmd := none } : Want)
    s.setWire { s.wire with wants := s.wire.wants ++ ws }

/-- A page may begin to move: it stands still, no long-accumulator entry holds a record of it, and the migration cap allows the copy and as much again for
what is written meanwhile (R132, R133). -/
def State.movable (s : State) (i p : Nat) (b : Berth) (x : Page) (retire : Bool) : Bool :=
  x.st = .placed && x.goal.isNone && x.old.isNone && !s.recordsIn i p b.cls && s.capAllows retire (4 * pageSize b.cls)

/-- A page begins to move: MIGRATING, with its new home noted, which replicas and shadow lines leave; the page is read and written, and what is written
meanwhile may be copied again, which the migration cap must allow, else the move waits for a later epoch (R132, R133, R140, R150). -/
def State.startMove (s : State) (i p : Nat) (base : BitVec 46) (retire : Bool) : State :=
  match s.place.berths.get? i with
  | none => s
  | some b =>
    match b.pages.get? p with
    | none => s
    | some x =>
      if !s.movable i p b x retire then s
      else
        let s := s.migrates retire (2 * pageSize b.cls)
        let b := { b with pages := b.pages.put p { x with st := .migrating, goal := some base, dirty := [] }, migrations := min (2 ^ 32 - 1) (b.migrations + 1) }
        (((s.putBerth i b).placeChange b.job).yieldFrames base.toNat b.frames).sendPage i p b base none

/-- Hot pages that stand in a cluster's harbour SRAM, unpinned: entry and page. -/
def State.hotIn (s : State) (c : Nat) : List (Nat × Nat) :=
  s.place.berths.flatMap fun b =>
    if b.2.pinAt = some c then []
    else b.2.pages.filterMap fun p =>
      let a := pageAddr p.2.base
      if gaSpace a = 0 && gaRegion a = 1 && gaCluster a = c then some (b.1, p.1) else none

/-- Move some hot page out of a cluster's harbour SRAM to HBM. -/
def State.moveOut (s : State) (e : Nat × Nat) : State :=
  match s.place.berths.get? e.1 with
  | none => s
  | some b =>
    match s.hbmFrame b (s.freeVal.toNat % 2 ^ 32) with
    | none => s
    | some f => s.freeNext.startMove e.1 e.2 (BitVec.ofNat 46 f) false

/-- The job's placement is frozen (R139). -/
def State.frozenJob (s : State) (job : Nat) : Bool := (s.cmd.jobs.get? job).any (·.frozen)
/-- The job is a filler. -/
def State.fillerJob (s : State) (job : Nat) : Bool := (s.cmd.jobs.get? job).any (·.filler)

/-- A page of a filler job. -/
def State.fillerHotPage (s : State) (e : Nat × Nat) : Bool := (s.place.berths.get? e.1).any fun b => s.fillerJob b.job

/-- May a hot page give way to a pin of a job? Other jobs' pages and filler pages may, but for a filler's pin only filler pages, and no frozen job's (R137 to
R139). -/
def State.givesWay (s : State) (job : Nat) (e : Nat × Nat) : Bool :=
  (s.place.berths.get? e.1).any fun b =>
    !s.frozenJob b.job && (s.fillerJob b.job || (b.job != job && !s.fillerJob job))

/-- A cluster in which a pin of a job fits, and in which the hot pages that may not give way leave it room. -/
def State.pinRoom (s : State) (job length c : Nat) : Bool :=
  s.pinFits length c && s.pinnedFrames c + pagesFor 3 length + ((s.hotIn c).filter fun e => !s.givesWay job e).length ≤ 64

/-- The cluster of a pin: one in which room can be made, else any in which it fits under R138; which is the Harbourmaster's choice, or for a frozen job a fixed
function of its command stream (R139). -/
def State.pinCluster (s : State) (job length pick : Nat) : Option Nat :=
  let pick := if s.frozenJob job then (s.pickFor job length).1 else pick
  choose 24 pick (s.pinRoom job length) <|> choose 24 pick (s.pinFits length)

/-- Make room for the pinned frames of a cluster: other jobs' hot pages and filler pages leave, filler pages first, as many as the pins need (R137, R138). -/
def State.makePinRoom (s : State) (job c : Nat) : State :=
  let out := sortBy (fun a b => s.fillerHotPage a || !s.fillerHotPage b) ((s.hotIn c).filter (s.givesWay job))
  (out.take (s.pinnedFrames c + (s.hotIn c).length - 64)).foldl State.moveOut s

/-- Placed pages of a pinned berth move to frames of its cluster as far as there are any. -/
def State.pinPages (s : State) (i c : Nat) : State :=
  match s.place.berths.get? i with
  | none => s
  | some b =>
    b.pages.foldl (fun s p =>
      let a := pageAddr p.2.base
      if gaSpace a = 0 && gaRegion a = 1 && gaCluster a = c then s
      else
        match sramFrameIn s.framesHeld c 0 with
        | none => s
        | some f => s.startMove i p.1 (BitVec.ofNat 46 f) false) s

/-! ### The descriptor (R124) -/

/-- A shadow line of the page is held somewhere (R126 SHADOWED). -/
def State.shadowed (s : State) (h : BitVec 32) (cls p : Nat) : Bool :=
  s.place.shadows.any fun d => d.2.any fun x => x.handle = h && x.line * 65536 / pageSize cls = p

/-- The berth descriptor (R124). -/
def State.berthDesc (s : State) (i : Nat) (b : Berth) : Nat :=
  let states := b.pages.map fun p => s.pageState i b p.1
  let st := if b.freeing then 2 else if states.any (3 ≤ ·) then 3 else if states.any (· = 2) then 1 else 0
  let inSpace := fun (sp : Nat) => (b.pages.filter fun p => gaSpace (pageAddr p.2.base) = sp).length
  let heat := min 65535 (b.pages.sumBy fun _ p => p.heatE + p.heatW)
  (mkHandle b.gen i).toNat * 2 ^ 224 + b.job * 2 ^ 218 + (if b.shared.isSome then 2 ^ 217 else 0) + b.shared.getD 0 * 2 ^ 211 + b.length * 2 ^ 160 +
    b.cls * 2 ^ 158 + (if pageSize b.cls = 2 ^ 21 then 2 ^ 157 else 0) +
    (if (s.cmd.jobs.get? b.job).any (·.frozen) then 2 ^ 156 else 0) + st * 2 ^ 152 + b.hints.toNat * 2 ^ 140 + b.pages.length * 2 ^ 116 +
    inSpace 1 * 2 ^ 96 + inSpace 2 * 2 ^ 76 + (b.pages.map fun p => p.2.replicas).foldl max 0 * 2 ^ 71 + b.migrations * 2 ^ 32 + heat * 2 ^ 16

/-- The Harbourmaster takes a new snapshot of a berth's descriptor: at each placement epoch, and when it places the berth (R124; log 211). -/
def State.snapBerth (s : State) (i : Nat) : State := s.updBerth i fun b => { b with desc := s.berthDesc i b }

/-! ### BERTH_ALLOC, BERTH_FREE, BERTH_HINT, BERTH_PIN -/

/-- CLASS of a BERTH_ALLOC. -/
def Pkt.allocClass (p : Pkt) : Nat := p.f 0 49 48
/-- LENGTH of a BERTH_ALLOC. -/
def Pkt.allocLength (p : Pkt) : Nat := p.f 0 47 0
/-- HINTS of a BERTH_ALLOC. -/
def Pkt.allocHints (p : Pkt) : BitVec 12 := (p.w 0).extractLsb' 50 12

/-- What refuses a BERTH_ALLOC (R120, R125, R126, R138). -/
def berthAllocBad (p : Pkt) (s : State) : List Bad :=
  let short := s.capacityShort p.allocClass p.allocLength p.allocHints
  mal 0 (p.allocLength = 0 || classLimit p.allocClass < p.allocLength || badHints p.allocClass p.allocHints) ++
    refuseIf ((lowestFree 32768 s.entryFree).isNone) stQuota (detailWord 0x03 0) ++
    refuseIf (1048576 < s.pageEntries + pagesFor p.allocClass p.allocLength) stQuota (detailWord 0x04 0) ++
    refuseIf ((short != 0 || s.shortfall != 0) && !(p.allocClass = 3 && s.noPinRoom p.allocLength)) stQuota (detailWord 0x05 (ceilDiv (max short s.shortfall) (2 ^ 20))) ++
    refuseIf (p.allocClass = 3 && s.noPinRoom p.allocLength) stQuota (detailWord 0x06 0)

/-- BERTH_ALLOC: a new berth that reads as zeros, under a handle with its entry's current GEN; the entry and a pinned berth's cluster are the
module's choice (R120 to R122, R125, R126, R138, R291). -/
def execBerthAlloc (n pick cluster : Nat) (s : State) : Host.Outcome State Fault Refusal :=
  s.command n (isOp 0x0101) berthAllocBad fun p s =>
    match choose 32768 pick s.entryFree with
    | none => s.failed p stQuota (detailWord 0x03 0)
    | some i =>
      let cls := p.allocClass
      let gen := s.place.gens.getD i 1
      let pin := if cls = 3 then s.pinCluster p.job p.allocLength cluster else none
      let b : Berth :=
        { gen := gen, job := p.job, shared := if p.bit 1 0 then some (p.f 1 6 1) else none, length := p.allocLength, cls := cls,
          hints := p.allocHints, acting := p.allocHints, desc := 0, freeing := false, pages := [], migrations := 0, pinAt := pin,
          resLocal := if reservesLocal cls p.allocHints then pagesBytes cls p.allocLength else 0, pool := none, listed := 0 }
      let s := s.putBerth i b
      let s := match pin with
        | some c => s.makePinRoom p.job c
        | none => s
      (s.snapBerth i).done p [(mkHandle gen i).setWidth 64]

/-- BERTH_FREE: the berth is FREEING until nothing issued before is on its way; COMMAND_COMPLETE frees it (R121, R123, R171). -/
def execBerthFree (n : Nat) (s : State) : Host.Outcome State Fault Refusal :=
  s.command n (isOp 0x0102) (fun p s => s.handleBad p.job 0 (p.lo 0) ++ mal 0 ((s.berthAt (p.lo 0)).any fun b => b.pool.isSome || b.freeing))
    fun p s => (s.updBerth (handleIndex (p.lo 0)) fun b => { b with freeing := true }).works p (.berthFree (handleIndex (p.lo 0)))

/-- What refuses a BERTH_HINT: FREEZE 3, and a named handle or hints that are bad (R125, R291). -/
def berthHintBad (p : Pkt) (s : State) : List Bad :=
  let h := p.lo 0
  mal 0 (p.f 0 46 45 = 3) ++
    (if p.bit 0 44 || h != 0 then
      s.handleBad p.job 0 h ++ mal 0 (p.bit 0 44 && (s.berthAt h).any fun b => badHints b.cls ((p.w 0).extractLsb' 32 12))
    else [])

/-- BERTH_HINT: changes the berth's hints, and freezes or unfreezes the job's placement (R125, R139, R140). -/
def execBerthHint (n : Nat) (s : State) : Host.Outcome State Fault Refusal :=
  s.command n (isOp 0x0103) berthHintBad fun p s =>
    let s := if p.bit 0 44 then s.updBerth (handleIndex (p.lo 0)) fun b => { b with hints := (p.w 0).extractLsb' 32 12 } else s
    let fz := p.f 0 46 45
    let s := s.setCmd { s.cmd with jobs := s.cmd.jobs.mapVals fun i j =>
      if i = p.job && fz != 0 then { j with frozen := fz = 1, frozenStep := fz = 1 && j.frozen && j.frozenStep } else j }
    s.done p []

/-- What refuses a BERTH_PIN: a berth that is neither hot nor pinned, or no room (R120, R138). -/
def berthPinBad (p : Pkt) (s : State) : List Bad :=
  s.handleBad p.job 0 (p.lo 0) ++
    match s.berthAt (p.lo 0) with
    | none => []
    | some b =>
      mal 0 (b.cls != 0 && b.cls != 3) ++ refuseIf (p.bit 0 32 && b.cls = 0 && s.noPinRoom b.length) stQuota (detailWord 0x06 0)

/-- BERTH_PIN: a hot berth becomes pinned in a cluster of the module's choice, or a pinned one hot again; its reservation stays (R120, R138). -/
def execBerthPin (n cluster : Nat) (s : State) : Host.Outcome State Fault Refusal :=
  s.command n (isOp 0x0104) berthPinBad fun p s =>
    let i := handleIndex (p.lo 0)
    match s.berthAt (p.lo 0) with
    | none => s
    | some b =>
      if p.bit 0 32 then
        if b.cls = 3 then s.done p []
        else
          match s.pinCluster b.job b.length cluster with
          | none => s.failed p stQuota (detailWord 0x06 0)
          | some c => ((((s.putBerth i { b with cls := 3, pinAt := some c }).makePinRoom b.job c).pinPages i c).snapBerth i).done p []
      else ((s.putBerth i { b with cls := 0, pinAt := none }).snapBerth i).done p []

/-! ### BERTH_QUERY (R124, R126, R177, R292) -/

/-- A page entry (R126); an UNPLACED page's is 0. -/
def State.pageEntry (s : State) (i : Nat) (b : Berth) (p : Nat) : Nat :=
  match b.pages.get? p with
  | none => 0
  | some x =>
    x.base.toNat * 2 ^ 18 + x.replicas * 2 ^ 13 + (if s.shadowed (mkHandle b.gen i) b.cls p then 2 ^ 7 else 0) + s.pageState i b p

/-- The 192 bits of an expert binding (R177). -/
def Binding.bits (b : Binding) : Nat :=
  b.stepTokens * 2 ^ 160 + b.gradHandle.toNat * 2 ^ 128 + b.wHandle.toNat * 2 ^ 96 + b.layer * 2 ^ 84 + b.expert * 2 ^ 72 + b.job * 2 ^ 66 +
    b.accepted * 2 ^ 50 + b.replicas * 2 ^ 45 + (if b.thin then 2 ^ 44 else 0) + 2 ^ 43

/-- The 64-bit words of a number, lowest first. -/
def wordsOfNat (n x : Nat) : List W64 := (List.range n).map fun i => BitVec.ofNat 64 (x / 2 ^ (64 * i))

/-- Free bytes of a stack: its usable frames less those that pages hold (R292). -/
def State.stackFree (s : State) (i : Nat) : Nat :=
  let usable := ((List.range 16).map fun g => s.groupFrames i g).sum
  let held := ((s.framesHeld.filter fun f => gaSpace (f.1 * 2 ^ 18) = 0 && gaRegion (f.1 * 2 ^ 18) = 0 && gaStack (f.1 * 2 ^ 18) = i).map (·.2)).sum
  (usable - held) * 2 ^ 18

/-- Items of `w` words from `start`, as many as the reply slot holds: their number, the next START, and the items (R292). -/
def pageItems (p : Pkt) (w start : Nat) (items : List (List W64)) : List W64 :=
  let n := (phRlen p.hdr - 40) / (8 * w)
  let got := (items.drop start).take n
  BitVec.ofNat 64 (got.length + (start + got.length) % 2 ^ 32 * 2 ^ 32) :: got.flatten

/-- One item, with a next START of 0. -/
def oneItem (ws : List W64) : List W64 := 1 :: ws

/-- The results of a BERTH_QUERY. -/
def State.queryWords (s : State) (p : Pkt) : List W64 :=
  let h := p.lo 0
  let start := (p.w 1).toNat
  let mine := s.place.berths.filter fun b => b.2.job = p.job
  match p.f 0 34 32, s.berthAt h with
  | 0, some b => oneItem (wordsOfNat 4 b.desc)
  | 1, some b => pageItems p 1 start ((List.range (pagesFor b.cls b.length)).map fun i => [BitVec.ofNat 64 (s.pageEntry (handleIndex h) b i)])
  | 2, _ =>
    match s.cmd.jobs.get? p.job with
    | none => []
    | some j => oneItem ([j.predLate, j.predWaste, mine.length, (mine.map fun b => b.2.pages.length).sum, j.placeChg, if j.frozen then 1 else 0].map (BitVec.ofNat 64 ·))
  | 3, _ =>
    pageItems p 3 start ((s.exch.bindings.filter fun b => b.2.job = p.job).map fun b => wordsOfNat 3 b.2.bits)
  | 4, _ =>
    oneItem (([s.berthCap, s.localFree] ++ (List.range 16).map s.stackFree ++
      [((List.range 24).map s.pinnedFrames).sum * 2 ^ 18, s.stashReserve]).map (BitVec.ofNat 64 ·))
  | _, _ => []

/-- BERTH_QUERY: returns a descriptor, page entries, job counters, bindings or capacity (R292). -/
def execBerthQuery (n : Nat) (s : State) : Host.Outcome State Fault Refusal :=
  s.command n (isOp 0x0105)
    (fun p s => mal 0 (4 < p.f 0 34 32) ++ (if p.f 0 34 32 < 2 then s.handleBad p.job 0 (p.lo 0) else []))
    fun p s => s.done p (s.queryWords p)

/-! ### BERTH_COPY and BERTH_FILL (R145, R146, R151, R233, R293) -/

/-- The memory key of a byte that a command names. -/
def spaceKey (sys : Bool) (h : BitVec 32) (ofs : Nat) : Nat := if sys then sysKey ofs else berthKey (handleIndex h) ofs

/-- Bytes that leave their space: the system region, or a berth. -/
def State.spaceBad (s : State) (sys : Bool) (job hword oword : Nat) (h : BitVec 32) (ofs n : Nat) : List Bad :=
  if sys then mal hword (h != 0) ++ sysBad oword ofs n
  else s.handleBad job hword h ++ mal oword ((s.berthAt h).any fun b => b.length < ofs + n)

/-- Copy `n` bytes as they stand, with their poison and their compressed tiles, as if the whole source were read first; answers the status
of the read (R87, R145, R146, R293). -/
def State.copyBytes (s : State) (sys1 : Bool) (h1 : BitVec 32) (o1 : Nat) (sys2 : Bool) (h2 : BitVec 32) (o2 n : Nat) : Nat × State :=
  let k1 := spaceKey sys1 h1 o1
  let k2 := spaceKey sys2 h2 o2
  let (g, s) := s.getAt sys1 h1 o1 n
  if g.lost || (!sys2 && s.spanLost h2 o2 n) then (stAbsent, s)
  else
    let marks := if !sys1 && s.spanFailed h1 o1 n then blocksOf k2 n else poisonedDst s.mem k1 k2 n
    let tiles := (s.mem.tiles.filter fun t => k1 ≤ t && t + 8 ≤ k1 + n).map fun t => k2 + (t - k1)
    let s := (s.putAt sys2 h2 o2 g.data).poisonBlocks marks
    (if g.poisoned then stUncorrectable else 0, s.setMem { s.mem with tiles := (tiles ++ s.mem.tiles).dedup })

/-- What refuses a BERTH_COPY. -/
def berthCopyBad (p : Pkt) (s : State) : List Bad :=
  let n := (p.w 3).toNat
  let fmt := p.f 4 3 0
  let stride := p.f 4 63 32
  let tr := p.bit 4 4
  let span := if tr then 127 * stride + elemBytes fmt 128 else n
  s.spaceBad (p.bit 1 48) p.job 0 1 (p.lo 0) (p.f 1 47 0) span ++ s.spaceBad (p.bit 2 48) p.job 0 2 (p.hi 0) (p.f 2 47 0) n ++
    mal 2 (tr && fmt ≤ 4 && p.bit 1 48 = p.bit 2 48 && p.lo 0 = p.hi 0 && rangesMeet (p.f 1 47 0) span (p.f 2 47 0) n) ++
    mal 3 (tr && fmt ≤ 4 && n != trBytes fmt) ++ mal 4 (tr && 4 < fmt)

/-- BERTH_COPY: copies bytes, or one transposed tile, between berths and the system region; poison travels with the bytes, and the copy then
completes UNCORRECTABLE (R145, R146, R151, R286, R293). A transposed copy of a tile with a poisoned block poisons every block of its destination (DESIGN CHOICE,
log 212). -/
def execBerthCopy (n : Nat) (s : State) : Host.Outcome State Fault Refusal :=
  s.command n (isOp 0x0106) berthCopyBad fun p s =>
    let len := (p.w 3).toNat
    let (ss, so) := (p.bit 1 48, p.f 1 47 0)
    let (ds, dofs) := (p.bit 2 48, p.f 2 47 0)
    if p.bit 4 4 then
      let fmt := p.f 4 3 0
      let rowN := elemBytes fmt 128
      let key := spaceKey ss (p.lo 0) so
      let packed := s.mem.tiles.contains key
      let read := fun (acc : List Got × State) (i : Nat) =>
        let (g, t) := acc.2.getAt ss (p.lo 0) (so + i * p.f 4 63 32) rowN
        (acc.1 ++ [g], t)
      let (gs, s) := if packed then ([], s) else (List.range 128).foldl read ([], s)
      let (g, s) := if packed then s.getAt ss (p.lo 0) so (tileLength (s.mem.read key 8)) else (⟨[], false, false⟩, s)
      let tile := s.loadBytes key len
      let rows := if packed then (List.range 128).map fun i => (tile.drop (i * rowN)).take rowN else gs.map (·.data)
      let s := if packed then s.freeNext else s
      let bad := g.poisoned || gs.any (·.poisoned)
      if g.lost || gs.any (·.lost) || (!ds && s.spanLost (p.hi 0) dofs len) then s.failed p stAbsent 0
      else
        let s := s.putAt ds (p.hi 0) dofs (transposeBytes (rowN / 128) rows)
        if bad then (s.poisonBlocks (blocksOf (spaceKey ds (p.hi 0) dofs) len)).failed p stUncorrectable 0 else s.done p []
    else
      let (st, s) := s.copyBytes ss (p.lo 0) so ds (p.hi 0) dofs len
      if st = 0 then s.done p [] else s.failed p st 0

/-- Elements of a random fill. -/
def Pkt.fillCount (p : Pkt) : Nat := p.f 2 31 0 * p.f 2 63 32
/-- Bytes of a fill. -/
def Pkt.fillBytes (p : Pkt) : Nat :=
  if p.bit 0 32 then (if p.f 0 34 33 = 1 then ceilDiv p.fillCount 8 else 4 * p.fillCount) else (p.w 2).toNat

/-- A stream identifier whose use is not software's (R232). -/
def badStream (x : Nat) : Bool := x / 2 ^ 28 % 16 != 0

/-- What refuses a BERTH_FILL. -/
def berthFillBad (p : Pkt) (s : State) : List Bad :=
  s.handleBad p.job 0 (p.lo 0) ++ mal 0 (p.bit 0 32 && p.f 0 34 33 = 3) ++
    mal 1 (p.f 1 47 0 % 8 != 0 || (s.berthAt (p.lo 0)).any fun b => b.length < p.f 1 47 0 + p.fillBytes) ++
    mal 2 (!p.bit 0 32 && (p.w 2).toNat % 8 != 0) ++ mal 5 (p.bit 0 32 && badStream (p.f 5 31 0))

/-- The random word of element `i` of a fill (R55, R233). -/
def Pkt.fillWord (p : Pkt) (j : Job) (i : Nat) : Nat :=
  let cols := max 1 (p.f 2 63 32)
  randomWord j.seed j.step (p.f 5 31 0) (((p.w 3).toNat + i / cols * (p.w 4).toNat + i % cols) % 2 ^ 64)

/-- The bytes of a fill (R233, R293). -/
def Pkt.fillData (p : Pkt) (j : Job) : List Byte :=
  if !p.bit 0 32 then (List.replicate ((p.w 2).toNat / 8) (leBytes 8 (p.w 3).toNat)).flatten
  else
    match p.f 0 34 33 with
    | 0 => (List.range p.fillCount).flatMap fun i => leBytes 4 (p.fillWord j i)
    | 1 =>
      (List.range (ceilDiv p.fillCount 8)).map fun b =>
        BitVec.ofNat 8 (((List.range 8).map fun k =>
          if 8 * b + k < p.fillCount && p.fillWord j (8 * b + k) < p.f 5 63 32 then 2 ^ k else 0).sum)
    | _ => (List.range p.fillCount).flatMap fun i => leBytes 4 (toF32 (.fin false (p.fillWord j i / 256) (-24))).toNat

/-- BERTH_FILL: writes a pattern, or random words, bits or uniforms, into a berth (R55, R232, R233, R293). -/
def execBerthFill (n : Nat) (s : State) : Host.Outcome State Fault Refusal :=
  s.command n (isOp 0x0107) berthFillBad fun p s =>
    if s.spanLost (p.lo 0) (p.f 1 47 0) p.fillBytes then s.failed p stAbsent 0
    else
      match s.cmd.jobs.get? p.job with
      | none => s
      | some j => (s.writeSpan none (p.lo 0) (p.f 1 47 0) (p.fillData j)).done p []

end Sys2Proof.Machine
end

