-- ==== Sys2Proof/Machine/KernelFamily.lean ====
section
/-! DEFINITION. The kernel commands (R58, R75, R88, R169, R199 to R206, R224, R230, R294 to R296). -/

namespace Sys2Proof.Machine

/-! ### KERNEL_LOAD -/

/-- Bytes of a kernel image. -/
def Pkt.imageBytes (p : Pkt) : Nat := 64 * p.f 2 12 0

/-- A free kernel number. -/
def State.kernelFree (s : State) (i : Nat) : Bool := !s.cmd.kernels.has i

/-- What refuses a KERNEL_LOAD. -/
def kernelLoadBad (p : Pkt) (s : State) : List Bad :=
  mal 2 (p.f 2 12 0 = 0 || 4096 < p.f 2 12 0) ++ s.spaceBad (p.bit 1 48) p.job 0 1 (p.lo 0) (p.f 1 47 0) p.imageBytes ++
    refuseIf ((lowestFree 1024 s.kernelFree).isNone) stQuota (detailWord 0x0E 0)

/-- The bundles of an image. -/
def imageOf (n : Nat) (bs : List Byte) : List (BitVec 512) := (List.range n).map fun i => BitVec.ofNat 512 (leNat ((bs.drop (64 * i)).take 64))

/-- KERNEL_LOAD: loads an image of 1 to 4,096 bundles, restartable when it says so, and returns its number, the module's choice (R113, R294). -/
def execKernelLoad (n pick : Nat) (s : State) : Host.Outcome State Fault Refusal :=
  s.command n (isOp 0x0201) kernelLoadBad fun p s =>
    s.reading p (p.bit 1 48) (p.lo 0) (p.f 1 47 0) p.imageBytes fun bs s =>
      match choose 1024 pick s.kernelFree with
      | none => s.failed p stQuota (detailWord 0x0E 0)
      | some i =>
        let k : Kernel := { job := p.job, restartable := p.bit 2 16, image := imageOf (p.f 2 12 0) bs }
        (s.setCmd { s.cmd with kernels := s.cmd.kernels.put i k }).done p [BitVec.ofNat 64 i]

/-! ### Plans and bindings, as a launch sees them (R177, R185, R199 to R203) -/

/-- A plan's key. -/
def planKey (job tag : Nat) : Nat := job * 2 ^ 16 + tag
/-- A binding's key. -/
def bindingKey (job layer expert : Nat) : Nat := job * 2 ^ 24 + layer * 2 ^ 12 + expert

/-- The order of accepted choices in an expert's receive sequence: GRANULE, then TOKEN, then source (R176, R185). -/
def Cand.rowBefore (a b : Cand) : Bool :=
  if a.granule != b.granule then a.granule < b.granule
  else if a.token != b.token then a.token < b.token
  else a.src ≤ b.src

/-- The accepted choices of a local expert, in row order. -/
def Plan.rowsOf (p : Plan) (e : Nat) : List Cand := sortBy Cand.rowBefore (p.accepted.filter fun c => c.expert = e)

/-- The first row of the granule run that holds a row. -/
def runFirst (rows : List Cand) (r : Nat) : Nat :=
  ((rows.zipIdx).find? fun x => (rows[r]?).any fun y => y.granule = x.1.granule).map (·.2) |>.getD 0

/-- The granule runs: first row and number of rows. -/
def runsOfRows (rows : List Cand) : List (Nat × Nat) :=
  sortBy (fun a b => a.1 ≤ b.1) ((rows.map (·.granule)).dedup.map fun g => ((rows.findIdx fun c => c.granule = g), (rows.filter fun c => c.granule = g).length))

/-- The units of an expert launch: first row, number of rows, first row of its run (R203). -/
def unitsOf (split : Nat) (rows : List Cand) : List (Nat × Nat × Nat) :=
  match split with
  | 0 => (List.range (ceilDiv rows.length 128)).map fun u => (128 * u, min 128 (rows.length - 128 * u), runFirst rows (128 * u))
  | 1 => (runsOfRows rows).flatMap fun r => (List.range (ceilDiv r.2 2048)).map fun i => (r.1 + 2048 * i, min 2048 (r.2 - 2048 * i), r.1)
  | _ => if rows.isEmpty then [] else [(0, rows.length, 0)]

/-! ### KERNEL_LAUNCH -/

/-- EXPERT. -/
def Pkt.expert (p : Pkt) : Bool := p.bit 0 52
/-- BACKWARD. -/
def Pkt.backward (p : Pkt) : Bool := p.bit 0 53
/-- The launch's plan. -/
def Pkt.planOf (p : Pkt) (s : State) : Option Plan := s.exch.plans.get? (planKey p.job (p.f 1 15 0))
/-- The key of the launch's binding. -/
def Pkt.bindKey (p : Pkt) : Nat := bindingKey p.job (p.f 1 27 16) (p.f 1 39 28)

/-- How far a plan has come: 0 planning, 1 PLANNED, 2 DISPATCHED, 3 COMBINED, 4 GRAD_SENT (R199). -/
def PlanSt.rank (st : PlanSt) : Nat :=
  match st with
  | .planning _ => 0
  | .planned => 1
  | .dispatched => 2
  | .combined => 3
  | .gradSent => 4

/-- The state that an expert launch needs: DISPATCHED forward, GRAD_SENT backward. -/
def Pkt.needs (p : Pkt) : Nat := if p.backward then 4 else 2

/-- The launch is held: its plan has not come far enough, or the STASH_GET of a landing index it names is in progress (R200, R224). -/
def launchHeld (p : Pkt) (s : State) : Bool :=
  (p.expert && (p.planOf s).any fun x => x.st.rank < p.needs) ||
    ((List.range 8).map (· + 1)).any fun n =>
      p.kind n = 5 && s.cmd.progs.any fun g => phOp g.hdr = 0x0502 && g.pkt.hi 1 = (p.arg n).setWidth 32

/-- A batch range begins at the FIRST of a granule and ends just after the last token of one (R206). -/
def Job.batchOk (j : Job) (first count : Nat) : Bool :=
  j.granules.any (fun g => g.1 = first) && j.granules.any fun g => g.1 + g.2 = first + count

/-- CUT_OFF_SEGMENT. -/
def stCutOff : Nat := 0x0303

/-- Tokens that a launch releases for the kernel requester. -/
def Pkt.tokens (p : Pkt) : List Nat :=
  ((List.range 8).map (· + 1)).filterMap fun n => if p.kind n = 4 then some ((p.arg n).toNat % 2 ^ 32) else none

/-- The tokens that a landing index lists: the entries that the last STASH_GET wrote there (R224). -/
def State.landingTokens (s : State) (h : BitVec 32) : List Nat :=
  match s.berthAt h with
  | none => []
  | some b => (List.range b.listed).map fun i => leNat (s.mem.read (berthKey (handleIndex h) (8 * i)) 4)

/-- The landing indexes that a launch names. -/
def Pkt.landings (p : Pkt) : List (BitVec 32) :=
  ((List.range 8).map (· + 1)).filterMap fun n => if p.kind n = 5 then some ((p.arg n).setWidth 32) else none

/-- Claim what a launch releases: its tokens for the kernel requester, and every buffer that its landing indexes list for the stash requester
(R169, R224). -/
def State.launchClaims (s : State) (p : Pkt) : Option (List (Nat × Nat) × State) :=
  match s.claim (reqIndex p.job engKernel) p.tokens with
  | none => none
  | some (cs, t) =>
    match t.claim (reqIndex p.job engStash) (p.landings.flatMap t.landingTokens) with
    | none => none
    | some (ds, u) => some (cs ++ ds, u)

/-- What refuses an argument of a launch. -/
def argBad (p : Pkt) (s : State) (j : Job) (n : Nat) : List Bad :=
  let a := p.arg n
  let h := a.setWidth 32
  let w := 2 + n
  match p.kind n with
  | 0 => []
  | 4 => []
  | 8 => refuseIf (!j.batchOk (bitsOf a.toNat 31 0) (bitsOf a.toNat 63 32)) stCutOff (detailWord 0x23 w)
  | 9 => refuseIf (bitsOf a.toNat 31 0 % 2048 != 0) stCutOff (detailWord 0x23 w)
  | k =>
    if 10 ≤ k then mal 2 true
    else s.handleBad p.job w h ++ mal w (k = 7 && (s.berthAt h).any fun b => !b.hints.getLsbD 7)

/-- What refuses a KERNEL_LAUNCH (R58, R103, R169, R199, R206, R230, R294, R295). -/
def launchBad (p : Pkt) (s : State) : List Bad :=
  match s.cmd.jobs.get? p.job with
  | none => []
  | some j =>
    let kernel := (s.cmd.kernels.get? (p.f 0 15 0)).filter fun k => k.job = p.job
    mal 0 (kernel.isNone || p.f 0 31 16 = 0 || 256 < p.f 0 44 36 || 64 < p.f 0 51 45 || (j.filler && kernel.any fun k => !k.restartable)) ++
      mal 1 (p.f 1 41 40 = 3 || (!p.expert && p.f 1 41 40 != 0)) ++
      (if p.expert then
        mal 1 (!s.exch.bindings.has p.bindKey || (match p.planOf s with
          | none => true
          | some x => x.params.layer != p.f 1 27 16 || !x.local_.contains (p.f 1 39 28) || p.needs < x.st.rank))
      else []) ++
      (((List.range 8).map (· + 1)).flatMap fun n => argBad p s j n) ++
      refuseIf (s.launchClaims p).isNone stNotOwner 0

/-- The working enabled clusters: those in service that are not kept gated (R202, R354). -/
def State.workingClusters (s : State) : List Nat := (List.range 24).filter fun c => s.enabled c && (s.cluster c).svc = .inService && !(s.cluster c).keepGated

/-- The clusters that run a launch's units: those the Harbourmaster names first, then those that take the launch's instances now, then the other
working ones, which its units wait for (R202, R203). -/
def State.launchClusters (s : State) (places : List Nat) (n : Nat) (filler : Bool) : List Nat :=
  let all := s.workingClusters
  (((places.filter all.contains).dedup ++ all.filter (s.clusterOpen · filler) ++ all).dedup).take n

/-- Instances of a launch, group by group: unit number, its rows, and the instance's place in the unit. -/
def launchPlan (units : List (Nat × Nat × Nat)) (per group : Nat) : List (Nat × (Nat × Nat × Nat) × Nat × Nat × Nat) :=
  (units.zipIdx).flatMap fun u => (List.range per).map fun i =>
    (u.2, u.1, u.2 * ceilDiv per (group + 1) + i / (group + 1), i % (group + 1), min (group + 1) (per - i / (group + 1) * (group + 1)))

/-- Make the launch, its groups and its instances; they wait to start (R88, R103, R203, R295). -/
def State.makeLaunch (s : State) (p : Pkt) (places : List Nat) (units : List (Nat × Nat × Nat)) (clusters : List Nat) (thin : Bool) : State :=
  let filler := (s.cmd.jobs.get? p.job).any (·.filler)
  let per := p.f 0 31 16
  let g := p.f 0 35 32
  let ps := launchPlan units per g
  let id := s.comp.nextId
  let nGroups := units.length * ceilDiv per (g + 1)
  let cl := fun (u gi : Nat) => if p.expert then clusters.getD (u * clusters.length / max 1 units.length) 0 else places.getD gi 24
  let groups := (List.range nGroups).foldl (fun (m : AMap Group) i =>
    let u := i / max 1 (ceilDiv per (g + 1))
    m.put (id + 1 + i) { cluster := cl u i, bound := p.expert || s.frozenJob p.job, nsem := p.f 0 44 36, nev := p.f 0 51 45, sems := [], events := [],
                         left := (ps.filter fun x => x.2.2.1 = i).length }) s.comp.groups
  let insts := (ps.zipIdx).foldl (fun (m : AMap Inst) x =>
    let (u, rows, gi, rank, size) := x.1
    m.put (id + 1 + nGroups + x.2)
      { launch := id, index := x.2, group := id + 1 + gi, rank := rank, groupSize := size, unit_ := if p.expert then u else 0, units := if p.expert then units.length else 1,
        rowFirst := rows.1, rowCount := rows.2.1, runFirst := rows.2.2, st := .waiting, save := none, tried := [], residue := false, fault := none, status := 0, thin := thin }) s.comp.insts
  let l : Launch :=
    { job := p.job, ring := p.ring, at_ := p.at_, kernel := p.f 0 15 0, total := ps.length, args := (List.range 8).map fun i => p.arg (i + 1),
      filler := filler, aborted := false, thin := thin, clustersUsed := [] }
  (s.setComp { s.comp with launches := s.comp.launches.put id l, groups := groups, insts := insts, nextId := id + 1 + nGroups + ps.length }).works p (.launch id)

/-- A page gets as many replicas as there are clusters, one for each: replicas beyond that number are dropped, and those that lack are made as far as the
migration cap and the room for them allow (R133, R135, R202). -/
def State.pageCopies (s : State) (i p : Nat) (cs : List Nat) : State :=
  match (s.place.berths.get? i).bind fun b => b.pages.get? p with
  | none => s
  | some x =>
    let n := min 24 cs.length
    let s := s.dropCopies i p fun c => (x.copies.take n).contains c
    (cs.take n).drop x.copies.length |>.foldl (fun s c =>
      match s.place.berths.get? i with
      | none => s
      | some b =>
        let (pick, t) := s.pickFor b.job (i * 2 ^ 24 + p)
        match s.replicaFrame b x (some c) pick with
        | none => s
        | some f => t.addCopy i p f) s

/-- Set the replicas of an expert's pages for a launch: one for each of its clusters but the home one; only READ_MOSTLY and EXPERT berths receive them
(R135, R202). -/
def State.replicate (s : State) (key : Nat) (cs : List Nat) (thin : Bool) : State :=
  match s.exch.bindings.get? key with
  | none => s
  | some b =>
    let s := s.setExch { s.exch with bindings := s.exch.bindings.put key { b with replicas := cs.length - 1, thin := thin } }
    match s.berthAt b.wHandle with
    | none => s
    | some x =>
      if x.acting.getLsbD 5 || x.acting.getLsbD 7 then
        x.pages.keyList.foldl (fun s p => s.pageCopies (handleIndex b.wHandle) p (cs.drop 1)) s
      else s

/-- The number of clusters that a launch wants: one for each group, or for an expert's the n of R202 once its plan is known. -/
def Pkt.wants (p : Pkt) (s : State) : Nat :=
  if p.expert then max 1 (ceilDiv (((p.planOf s).map fun x => (x.rowsOf (p.f 1 39 28)).length).getD 0) 2048)
  else min 24 (ceilDiv (p.f 0 31 16) (p.f 0 35 32 + 1))

/-- The clusters at which the Harbourmaster places a launch (R27, R139). -/
def State.chooseClusters (s : State) (p : Pkt) : List Nat × State :=
  let all := s.workingClusters
  let (k, t) := s.pickFor p.job p.at_
  let i := k % max 1 all.length
  ((all.drop i ++ all.take i).take (p.wants s), t)

/-- The clusters at which a launch is placed as it is accepted: where the look-ahead has placed it, else for a frozen job as its command stream says, else
where `places` names (R27, R139). -/
def State.placesFor (s : State) (p : Pkt) (places : List Nat) : List Nat :=
  match s.cmd.aheadAt.get? (aheadKey p.ring p.at_) with
  | some l => if s.frozenJob p.job then l else l ++ places.drop l.length
  | none => if s.frozenJob p.job then (s.chooseClusters p).1 else places

/-- KERNEL_LAUNCH: claims what it releases and starts its instances in groups on clusters that the Harbourmaster chooses; an expert with no
accepted choice completes with OK_EMPTY without running (R75, R88, R103, R139, R169, R199 to R203, R224, R230, R294, R295). A launch that R200 or R224
holds is not accepted until the hold ends. -/
def execKernelLaunch (n : Nat) (places : List Nat) (s : State) : Host.Outcome State Fault Refusal :=
  s.command n (fun p => p.op = 0x0202 && !launchHeld p s) launchBad fun p t =>
    let places := s.placesFor p places
    match t.launchClaims p with
    | none => t.refused p (stNotOwner, 0)
    | some (cs, t) =>
      let t := t.updProg p.ring p.at_ fun g => { g with claims := cs }
      let job := t.cmd.jobs.get? p.job
      if p.expert then
        let rows := ((p.planOf t).map fun x => x.rowsOf (p.f 1 39 28)).getD []
        if rows.isEmpty then t.conclude p.ring p.at_ { Outc.of 0x0002 0 with results := [0, 0] }
        else
          let units := unitsOf (p.f 1 41 40) rows
          let thin := job.any fun j => rows.length ≤ j.thin
          let nc := min t.workingClusters.length (ceilDiv rows.length 2048)
          let cs := t.launchClusters places nc (job.any (·.filler))
          ((t.replicate p.bindKey cs thin).makeLaunch p places units cs thin).startWaiting
      else (t.makeLaunch p places [(0, 0, 0)] [] false).startWaiting

/-! ### KERNEL_ABORT (R296) -/

/-- KERNEL_ABORT: the oldest launch in progress with the SEQ on a ring of its job ends with TARGET_RESET and ABORTED; with none, OK_EMPTY
(R282, R296). -/
def execKernelAbort (n : Nat) (s : State) : Host.Outcome State Fault Refusal :=
  s.command n (isOp 0x0203) (fun _ _ => []) fun p s =>
    match s.cmd.progs.find? fun g => g.ring = 4 * p.job + p.f 0 1 0 && phOp g.hdr = 0x0202 && (phSeq g.hdr).toNat = p.f 0 63 32 with
    | none => s.conclude p.ring p.at_ (Outc.of 0x0002 0)
    | some g =>
      let s := s.abortProg g
      (match g.work with
        | .launch _ => s.startWaiting
        | _ => s).done p []

/-- FILLER_PREEMPT_TIMEOUT: 80 µs after it was asked to leave, a restartable instance that committed no restart point loses its held effects and
leaves its core: a filler's, or one in a cluster or on a core that is drained (R114, R231, R329, R335). -/
def execFillerPreemptTimeout (core : Nat) (s : State) : Host.Outcome State Fault Refusal :=
  match (s.coreOf core).leave with
  | none => .next s
  | some t => s.when (s.after t 80 && s.restartable core) (s.suspend core).startWaiting

end Sys2Proof.Machine
end

