-- ==== Sys2Proof/Machine/QuayFamily.lean ====
section
/-! DEFINITION. The Quay's commands: POOL_CREATE, POOL_QUOTA, UNBIND, POOL_STATUS (R157 to R160, R166, R167, R302). -/

namespace Sys2Proof.Machine

/-! ### POOL_CREATE (R157) -/

/-- BACKING of a POOL_CREATE. -/
def Pkt.poolCount (p : Pkt) : Nat := p.f 0 52 36
/-- A run of descriptors that no pool holds. -/
def State.descsFree (s : State) (n first : Nat) : Bool :=
  first + n ≤ 65536 && s.quay.pools.all fun q => !rangesMeet first n q.2.first q.2.count
/-- The largest run of descriptors that no pool holds. -/
def State.largestDescs (s : State) : Nat :=
  let ps := s.quay.pools.valList
  ((0 :: ps.map fun q => q.first + q.count).map fun a => (ps.filterMap fun q => if a ≤ q.first then some q.first else none).foldl min 65536 - a).foldl max 0
/-- Where a run of free descriptors may begin: the lowest place, when the module's choice does not fit. -/
def State.descRun (s : State) (n first : Nat) : Option Nat :=
  if s.descsFree n first then some first else (0 :: s.quay.pools.valList.map fun q => q.first + q.count).find? (s.descsFree n)
/-- A free pool. -/
def State.poolFree (s : State) (i : Nat) : Bool := !s.quay.pools.has i

/-- What refuses a POOL_CREATE. -/
def poolCreateBad (p : Pkt) (s : State) : List Bad :=
  let n := p.poolCount
  let size := p.f 0 35 32
  mal 0 (12 < size || n = 0 || 65536 < n) ++ s.handleBad p.job 0 (p.lo 0) ++
    mal 0 ((s.berthAt (p.lo 0)).any fun b => b.cls = 2 || b.length < n * 2 ^ (12 + size)) ++
    mal 1 (p.bit 0 53 && (s.cmd.jobs.get? p.job).any fun j => j.sigWords ≤ p.f 1 11 0) ++
    refuseIf ((lowestFree 64 s.poolFree).isNone) stQuota (detailWord 0x07 0) ++
    refuseIf ((s.descRun n 65536).isNone) stQuota (detailWord 0x08 s.largestDescs)

/-- POOL_CREATE: a pool of free descriptors over a backing berth; the pool and the run are the module's choice (R157, R158). -/
def execPoolCreate (n pick first : Nat) (s : State) : Host.Outcome State Fault Refusal :=
  s.command n (isOp 0x0601) poolCreateBad fun p s =>
    match choose 64 pick s.poolFree, s.descRun p.poolCount first with
    | some i, some f =>
      let q : Pool := { backing := p.lo 0, first := f, count := p.poolCount, held := 0, size := p.f 0 35 32, job := p.job, warn := false,
                        armed := true, bp := false, sigEn := p.bit 0 53, signal := p.f 1 11 0 }
      ((s.setPool i q).updBerth (handleIndex (p.lo 0)) fun b => { b with pool := some i }).done p [BitVec.ofNat 64 (f * 2 ^ 16 + i)]
    | _, _ => s.failed p stQuota 0

/-! ### POOL_QUOTA and UNBIND (R159, R160) -/

/-- The pool that a command names is not there, or is another job's (R159). -/
def noPool (p : Pkt) (s : State) : List Bad :=
  match s.quay.pools.get? (p.f 0 5 0) with
  | none => mal 0 true
  | some q => refuseIf (q.job != p.job) stNotOwner 0

/-- The requester that a POOL_QUOTA names. -/
def Pkt.quotaReq (p : Pkt) : Nat := reqIndex p.job (p.f 0 9 6)
/-- MIN. -/
def Pkt.quotaMin (p : Pkt) : Nat := p.f 1 16 0
/-- MAX. -/
def Pkt.quotaMax (p : Pkt) : Nat := p.f 1 48 32

/-- Sum of the MIN of the requesters bound to a pool (R158). -/
def State.minSum (s : State) (i : Nat) : Nat := ((s.boundTo i).map fun r => r.2.min).sum

/-- By how much a new MIN raises a requester's unmet minimum in a pool beyond what is unreserved there (R160). -/
def State.quotaShort (s : State) (i : Nat) (q : Pool) (r : Req) (min : Nat) : Nat :=
  let before := if r.pool = some i then r.unmet else 0
  (min - r.held) - before - s.unreserved i q

/-- What refuses a POOL_QUOTA. -/
def poolQuotaBad (p : Pkt) (s : State) : List Bad :=
  let i := p.f 0 5 0
  let r := s.req p.quotaReq
  noPool p s ++ mal 0 (5 < p.f 0 9 6 || (r.held != 0 && r.pool != some i)) ++
    match s.quay.pools.get? i with
    | none => []
    | some q =>
      refuseIf (p.quotaMax < p.quotaMin || q.count < p.quotaMax ||
          q.count < s.minSum i - (if r.pool = some i then r.min else 0) + p.quotaMin) stQuota (detailWord 0x23 1) ++
        refuseIf (s.quotaShort i q r p.quotaMin != 0) 0x0202 (detailWord 0x11 (s.quotaShort i q r p.quotaMin))

/-- A requester's former MAX and MIN. -/
def Req.former (r : Req) : W64 := BitVec.ofNat 64 (r.max * 2 ^ 32 + r.min)

/-- POOL_QUOTA: binds a requester to a pool and sets its MIN and MAX (R159, R160). -/
def execPoolQuota (n : Nat) (s : State) : Host.Outcome State Fault Refusal :=
  s.command n (fun p => p.op = 0x0602 && !p.bit 0 10) poolQuotaBad fun p s =>
    let r := s.req p.quotaReq
    let s := s.setReq p.quotaReq { r with pool := some (p.f 0 5 0), min := p.quotaMin, max := p.quotaMax }
    ((s.checkReq p.quotaReq).2).done p [r.former]

/-- UNBIND: releases a requester's binding, which holds no buffer (R302). MIN, MAX and BP go with it; the latches and counts stay (DESIGN CHOICE, log 74). -/
def execUnbind (n : Nat) (s : State) : Host.Outcome State Fault Refusal :=
  s.command n (fun p => p.op = 0x0602 && p.bit 0 10)
    (fun p s => noPool p s ++ mal 0 (5 < p.f 0 9 6 || (s.req p.quotaReq).held != 0 || (s.req p.quotaReq).pool != some (p.f 0 5 0)))
    fun p s =>
      let r := s.req p.quotaReq
      (s.setReq p.quotaReq { r with pool := none, min := 0, max := 0, bp := false }).done p [r.former]

/-! ### POOL_STATUS (R158, R166, R167) -/

/-- A pool's entry, 128 bits. -/
def State.poolEntry (s : State) (i : Nat) (q : Pool) : Nat :=
  q.backing.toNat * 2 ^ 96 + q.first * 2 ^ 80 + q.count * 2 ^ 63 + q.held * 2 ^ 46 + s.minSum i * 2 ^ 29 + q.size * 2 ^ 25 + q.job * 2 ^ 19 +
    (if q.warn then 2 ^ 18 else 0) + (if q.bp then 2 ^ 17 else 0) + 2 ^ 16 + (if q.sigEn then 2 ^ 15 else 0) + q.signal

/-- A requester's entry, 128 bits. -/
def Req.entry (r : Req) : Nat :=
  r.pool.getD 0 * 2 ^ 122 + (if r.pool.isSome then 2 ^ 121 else 0) + r.min * 2 ^ 104 + r.max * 2 ^ 87 + r.held * 2 ^ 70 + r.peak * 2 ^ 53 +
    (if r.warn then 2 ^ 52 else 0) + (if r.bp then 2 ^ 51 else 0) + Nat.min r.bpWait (2 ^ 32 - 1) * 2 ^ 19 + r.refusals * 2 ^ 3

/-- A buffer descriptor, 128 bits. -/
def Desc.entry (d : Desc) : Nat :=
  let own := fun (i : Nat) => d.owners.getD i none
  let each := fun (f : Nat → Nat) => f 0 + f 1 + f 2 + f 3
  d.gen * 2 ^ 112 + (if d.held then 2 ^ 110 else 0) + each (fun i => if (own i).isSome then 2 ^ (106 + i) else 0) +
    each (fun i => if (own i).any (·.2) then 2 ^ (102 + i) else 0) + d.charge * 2 ^ 92 +
    each (fun i => ((own i).map (·.1)).getD 0 * 2 ^ (52 + 10 * i)) + d.pool * 2 ^ 46 + d.takeStep.toNat * 2 ^ 14

/-- The words of a POOL_STATUS: the pool, its requesters, and with DESC its held buffers from START as far as the reply slot holds them. -/
def State.poolWords (s : State) (p : Pkt) (i : Nat) (q : Pool) : List W64 :=
  let rs := s.boundTo i
  let room := (phRlen p.hdr - 32) / 8 - (3 + 2 * rs.length)
  let held := (s.quay.descs.filter fun d => d.2.held && d.2.pool = i && (p.w 1).toNat ≤ d.1).take (room / 2)
  wordsOfNat 2 (s.poolEntry i q) ++ [BitVec.ofNat 64 rs.length] ++ (rs.flatMap fun r => wordsOfNat 2 r.2.entry) ++
    (if p.bit 0 6 then held.flatMap fun d => wordsOfNat 2 d.2.entry else [])

/-- CLEAR: the WARN latches of a pool and its requesters are cleared, and each PEAK becomes HELD (R167). -/
def State.poolClear (s : State) (i : Nat) (q : Pool) : State :=
  let s := s.setPool i { q with warn := false }
  s.setQuay { s.quay with reqs := s.quay.reqs.mapVals fun _ r => if r.pool = some i then { r with warn := false, peak := r.held } else r }

/-- POOL_STATUS: returns a pool's entry, its requesters' entries and its held descriptors, all of one cycle, and clears on request (R167). -/
def execPoolStatus (n : Nat) (s : State) : Host.Outcome State Fault Refusal :=
  s.command n (isOp 0x0603) noPool fun p s =>
    match s.quay.pools.get? (p.f 0 5 0) with
    | none => s
    | some q =>
      let t := s.done p (s.poolWords p (p.f 0 5 0) q)
      if p.bit 0 7 then t.poolClear (p.f 0 5 0) q else t

end Sys2Proof.Machine
end

