-- ==== Sys2Proof/Machine/PlanOps.lean ====
section
/-! DEFINITION. Plans of the Ferry: token records, the participant check, rounds, ranking, final verdicts, the receive index and the route log
(R172 to R191). -/

namespace Sys2Proof.Machine

/-! ### Rows, records and participants -/

/-- Bytes of a row of `width` elements: the elements, then for MX formats a scale for each 32 (R179). -/
def rowSize (fmt width : Nat) : Nat := elemBytes fmt width + (if isMx fmt then width / 32 else 0)
/-- A size rounded up to a multiple of 64 (R186, R297). -/
def stride64 (n : Nat) : Nat := ceilDiv n 64 * 64
/-- Bytes that `n` rows of `size` bytes take at a stride. -/
def rowsSpan (n stride size : Nat) : Nat := if n = 0 then 0 else (n - 1) * stride + size
/-- The modules of a 128-bit mask, ascending. -/
def maskModules (m : BitVec 128) : List Nat := (List.range 128).filter m.getLsbD
/-- PARTICIPANTS of a packet, from two words. -/
def Pkt.parts (p : Pkt) (w : Nat) : BitVec 128 := (p.w (w + 1)) ++ (p.w w)

/-- A mask of participants that R298 refuses, by its first word at fault: it leaves out the issuing module, or names a module that the cabling
plan does not list. -/
def State.maskBad (s : State) (p : Pkt) (w : Nat) : List Bad :=
  let m := p.parts w
  let bad := fun (i : Nat) => ((List.range 64).any fun b => m.getLsbD (64 * i + b) && s.noModule (64 * i + b)) ||
    (match s.ownIndex with
      | none => i = 0
      | some own => own / 64 = i && !m.getLsbD own)
  mal w (bad 0) ++ mal (w + 1) (!bad 0 && bad 1)

/-! ### Token records (R173 to R175) -/

/-- One token record from its 208 bytes. -/
def tokRec (bs : List Byte) : TokRec × Nat :=
  let h := leNat (bs.take 16)
  let nc := bitsOf h 61 57
  let cand := fun (c : Nat) =>
    let b := (bs.drop (16 + 12 * c)).take 12
    (BitVec.ofNat 32 (leNat (b.take 4)), BitVec.ofNat 32 (leNat ((b.drop 4).take 4)), leNat ((b.drop 8).take 2))
  ({ token := bitsOf h 127 96, granule := bitsOf h 95 84, seq := bitsOf h 83 64, loose := h.testBit 63, skip := h.testBit 62,
     cands := (List.range (min nc 16)).map cand }, nc)

/-- A finite FP32. -/
def finite32 (x : W32) : Bool := bitsOf x.toNat 30 23 != 255

/-- A record that makes its participant's ROUTE_PLAN malformed (R175). -/
def tokBad (j : Job) (experts topk : Nat) (bs : List Byte) : Bool :=
  let (t, nc) := tokRec bs
  let h := leNat (bs.take 16)
  nc < topk || 16 < nc || bitsOf h 56 0 != 0 || (bs.drop (16 + 12 * nc)).any (· != 0) ||
    ((List.range (min nc 16)).any fun c => leNat ((bs.drop (26 + 12 * c)).take 2) != 0) ||
    t.cands.any (fun c => experts ≤ c.2.2 || !finite32 c.1 || !finite32 c.2.1) || !(t.cands.map (·.2.2)).Nodup ||
    j.granules.length ≤ t.granule

/-! ### ROUTE_PLAN's parameters (R179, R297) -/

/-- The shared parameters. -/
def Pkt.planParams (p : Pkt) : PlanParams :=
  { layer := p.f 0 27 16, experts := p.f 0 40 28, topk := p.f 0 44 41, depth := p.f 0 47 45, cap := p.f 0 63 48, fmt := p.f 1 3 0,
    width := p.f 1 20 4, parts := p.parts 2 }
/-- TOKENS. -/
def Pkt.planTokens (p : Pkt) : Nat := p.f 1 38 21
/-- The further owners. -/
def Pkt.planOwners (p : Pkt) : List Nat := ([p.f 6 43 34, p.f 6 53 44, p.f 6 63 54]).take (p.f 6 33 32)

/-- The first word of a ROUTE_PLAN whose parameter leaves its range (R168, R179). -/
def planRange (p : Pkt) : List Bad :=
  let q := p.planParams
  mal 0 (q.experts = 0 || 4096 < q.experts || q.topk = 0 || 8 < q.topk || q.depth = 0 || q.cap = 0) ++
    mal 1 (7 < q.fmt || q.width < 32 || 65536 < q.width || q.width % 32 != 0 || p.planTokens = 0 || 131072 < p.planTokens) ++
    mal 6 (p.planOwners.any fun o => o / 16 != p.job || 5 < o % 16)

/-- Bindings of a layer, ascending in EXPERT. -/
def State.layerExperts (s : State) (job layer : Nat) : List Nat :=
  (s.exch.bindings.valList.filter fun b => b.job = job && b.layer = layer).map (·.expert)

/-- Chunks of a local expert's receive space. -/
def planChunks (q : PlanParams) : Nat := ceilDiv q.cap 128
/-- The row stride of the receive space. -/
def planStride (q : PlanParams) : Nat := stride64 (rowSize q.fmt q.width)
/-- Bytes of one expert's block of the receive index (R187). -/
def planBlock (q : PlanParams) : Nat := 64 + 8 * planChunks q + 16 * q.cap

/-- Bytes read for the check: the read's status when it has one. -/
def readBad (g : Got) : List Bad := (g.status.map fun st => (st, 0)).toList

/-- The participant check on a plan's parameters, records, owner table, bindings, grants, sizes and number (R180), with the records, owner
table and the table's CRC; a table that cannot be read leaves the CRC a free value (log 2). -/
def State.planCheck (s : State) (p : Pkt) (own : Nat) : List Bad × List TokRec × List Nat × BitVec 64 × State :=
  match s.cmd.jobs.get? p.job with
  | none => ([], [], [], 0, s)
  | some j =>
    let q := p.planParams
    let n := p.planTokens
    let (th, oh, sk) := (p.lo 4, p.hi 4, p.lo 6)
    let range := planRange p
    let handles := s.spanBad p.job 4 th 0 (208 * n) ++ s.spanBad p.job 4 oh 0 (2 * q.experts) ++ s.spanBad p.job 5 (p.hi 5) 0 0 ++
      s.spanBad p.job 5 (p.lo 5) 0 (8 * q.topk * n) ++ (if sk = 0 then [] else s.handleBad p.job 6 sk)
    let table := (s.spanBad p.job 4 oh 0 (2 * q.experts)).isEmpty
    let tokens := (s.spanBad p.job 4 th 0 (208 * n)).isEmpty
    let skips := sk != 0 && (s.handleBad p.job 6 sk).isEmpty
    let got : Got := ⟨[], false, false⟩
    let (gt, s) := if tokens then s.readSpan none th 0 (208 * n) else (got, s)
    let (go, s) := if table then s.readSpan none oh 0 (2 * q.experts) else (got, s)
    let (crc, s) := if table then (crc64 go.data, s) else ((s.freeVal.setWidth 64), s.freeNext)
    let owner := if table then (List.range q.experts).map fun e => leNat ((go.data.drop (2 * e)).take 2) else []
    let recs := if tokens then (List.range n).map fun i => (gt.data.drop (208 * i)).take 208 else []
    let toks := recs.map fun b => (tokRec b).1
    let skipLen := ((s.berthAt sk).map (·.length)).getD 0
    let owners := owner.any fun m => 128 ≤ m || !q.parts.getLsbD m
    let mine := (List.range q.experts).filter fun e => owner[e]? = some own
    let lacking := (maskModules q.parts).filter fun m => m != own && !s.mirrorGrants m 27
    let pool := (s.req (reqIndex p.job engFerryRx)).pool.bind fun i => s.quay.pools.get? i
    let bads := range ++ handles ++ readBad gt ++ readBad go ++
      mal 4 (recs.any (tokBad j q.experts q.topk) || owners) ++ mal 0 (table && !owners && s.layerExperts p.job q.layer != mine) ++
      mal 6 (skips && toks.any fun t => skipLen ≤ t.seq / 8) ++
      refuseIf (skips && toks.any fun t => s.mem.poisoned (berthKey (handleIndex sk) (t.seq / 8)) 1) stUncorrectable 0 ++
      mal 5 (table && (s.spanBad p.job 5 (p.hi 5) 0 0).isEmpty && ((s.berthAt (p.hi 5)).map (·.length)).getD 0 < mine.length * planBlock q) ++
      refuseIf (pool.any fun x => x.bytes < 128 * planStride q) stMalformed 0 ++
      (match lacking with
        | [] => []
        | m :: _ => [(stNotOwner, detailModule m)]) ++
      refuseIf (512 ≤ s.exch.plans.length) stQuota (detailWord 0x0C 0)
    (bads, toks, owner, crc, s)

/-! ### Choices and rounds (R172, R173, R184) -/

/-- A token's flag-skip: its SKIP bit, or its bit of the sequence-skip bitmap (R173). -/
def State.flagSkipped (s : State) (sk : BitVec 32) (t : TokRec) : Bool :=
  t.skip || (sk != 0 && ((s.mem.read (berthKey (handleIndex sk) (t.seq / 8)) 1).headD 0).getLsbD (t.seq % 8))

/-- The choices of a plan's tokens at its start; those of flag-skipped tokens have their fate. -/
def initChoices (topk : Nat) (toks : List TokRec) (skipped : TokRec → Bool) : List Choice :=
  toks.zipIdx.flatMap fun t => (List.range topk).map fun k =>
    { pos := t.2, slot := k, cand := k, depth := 0, fate := if skipped t.1 then .skipFlag else .open, row := 0, answered := false,
      rejected := false }

/-- The expert that a choice names now. -/
def Plan.expertOf (p : Plan) (c : Choice) : Nat := ((p.tokens[c.pos]?).bind fun t => t.cands[c.cand]?).map (·.2.2) |>.getD 0
/-- The gate of the candidate that a choice names now. -/
def Plan.gateOf (p : Plan) (c : Choice) : W32 := ((p.tokens[c.pos]?).bind fun t => t.cands[c.cand]?).map (·.2.1) |>.getD 0
/-- The owner of an expert. -/
def Plan.ownerOf (p : Plan) (e : Nat) : Nat := p.owner.getD e 0
/-- The participants. -/
def Plan.modules (p : Plan) : List Nat := maskModules p.params.parts
/-- The candidate that a choice sends. -/
def Plan.candOf (p : Plan) (own : Nat) (c : Choice) : Cand :=
  let t := p.tokens.getD c.pos { token := 0, granule := 0, seq := 0, loose := false, skip := false, cands := [] }
  { token := t.token, score := ((t.cands[c.cand]?).map (·.1)).getD 0, expert := p.expertOf c, granule := t.granule, loose := t.loose,
    slot := c.slot, depth := c.depth, src := own, pos := c.pos }
/-- The 128 bits of a candidate record (R183). -/
def Cand.bits (c : Cand) (plan : Nat) : BitVec 128 :=
  BitVec.ofNat 128 (plan * 2 ^ 112 + c.token * 2 ^ 80 + c.score.toNat * 2 ^ 48 + c.expert * 2 ^ 36 + c.granule * 2 ^ 24 +
    (if c.loose then 2 ^ 23 else 0) + c.slot * 2 ^ 20 + c.depth * 2 ^ 17 + c.src * 2 ^ 10)
/-- The 64 bits of a verdict record (R183). -/
def verdictBits (token slot : Nat) (accept : Bool) (row expert : Nat) : BitVec 64 :=
  BitVec.ofNat 64 (token * 2 ^ 32 + slot * 2 ^ 29 + (if accept then 2 ^ 28 else 0) + row % 65536 * 2 ^ 12 + expert)

/-- The key of a round's marker from a source. -/
def roundKey (round src : Nat) : Nat := round * 128 + src

/-- A verdict reaches its choice: accepted, or rejected for this round. -/
def Plan.verdict (p : Plan) (token slot expert : Nat) (accept : Bool) : Plan :=
  let hit := fun (c : Choice) =>
    c.slot = slot && c.fate = .open && !c.answered && (p.tokens[c.pos]?).any (fun t => t.token = token) && p.expertOf c = expert
  { p with choices := p.choices.map fun c =>
      if hit c then
        { c with answered := true, rejected := !accept, fate := if accept then (if c.depth = 0 then .served else .rerouted) else .open }
      else c }

/-- A final verdict reaches its choice: its row. -/
def Plan.finalRow (p : Plan) (token slot row expert : Nat) : Plan :=
  let served := fun (c : Choice) => c.fate = .served || c.fate = .rerouted
  let hit := fun (c : Choice) => c.slot = slot && served c && (p.tokens[c.pos]?).any (fun t => t.token = token) && p.expertOf c = expert
  { p with choices := p.choices.map (fun c => if hit c then { c with row := row } else c), finals := p.finals + 1 }

/-- The choices of one token after a round: a rejected loose choice is skipped, a firm one takes the next unused alternate or is skipped with
its depth exhausted (R172, R184). -/
def rerouteToken (topk depth : Nat) (t : TokRec) (cs : List Choice) : List Choice :=
  let first := (topk :: cs.map fun c => c.cand + 1).foldl max 0
  ((cs.foldl fun (acc : Nat × List Choice) c =>
    let plain := { c with answered := false, rejected := false }
    if !c.rejected then (acc.1, acc.2 ++ [plain])
    else if t.loose then (acc.1, acc.2 ++ [{ plain with fate := .skipCapacity }])
    else if c.depth = depth || t.cands.length ≤ acc.1 then (acc.1, acc.2 ++ [{ plain with fate := .skipDepth }])
    else (acc.1 + 1, acc.2 ++ [{ plain with cand := acc.1, depth := c.depth + 1 }])) (first, [])).2

/-- All choices after a round. -/
def Plan.reroute (p : Plan) : List Choice :=
  p.tokens.zipIdx.flatMap fun t => rerouteToken p.params.topk p.params.depth t.1 (p.choices.filter fun c => c.pos = t.2)

/-! ### Ranking (R183) -/

/-- The ranking key's order: firm first, SCORE descending as values, TOKEN ascending, then the source (R176). -/
def Cand.ranksBefore (a b : Cand) : Bool :=
  if a.loose != b.loose then !a.loose
  else if (f32Val b.score).lt (f32Val a.score) then true
  else if (f32Val a.score).lt (f32Val b.score) then false
  else if a.token != b.token then a.token < b.token
  else a.src ≤ b.src

/-- Rank one expert's candidates of a round: those accepted and those rejected. -/
def Plan.rankExpert (p : Plan) (e : Nat) : List Cand × List Cand :=
  let room := p.params.cap - (p.accepted.filter fun c => c.expert = e).length
  let cs := sortBy Cand.ranksBefore (p.cands.filter fun c => c.expert = e && c.depth = p.round)
  (cs.take room, cs.drop room)

/-! ### Messages of a plan -/

/-- Send a plan message to another participant. -/
def State.planSend (s : State) (p : Plan) (dst : Nat) (o : Out) : State :=
  if s.peerPresent dst then s.sendMsg dst clsSignal p.job (some (p.ring, p.at_)) o else s

/-- Replace a plan. -/
def State.setPlan (s : State) (p : Plan) : State := s.setExch { s.exch with plans := s.exch.plans.put (planKey p.job p.tag) p }
/-- A live plan. -/
def State.plan (s : State) (job tag : Nat) : Option Plan := s.exch.plans.get? (planKey job tag)

/-- Begin a round: a candidate record for each open choice, then an end marker to every participant (R184). -/
def State.startRound (s : State) (p : Plan) (own : Nat) : State :=
  let cs := (p.choices.filter fun c => c.fate = .open).map (p.candOf own)
  let mine := cs.filter fun c => p.ownerOf c.expert = own
  let others := p.modules.filter (· != own)
  let s := others.foldl (fun s m =>
    let s := (cs.filter fun c => p.ownerOf c.expert = m).foldl (fun s c => s.planSend p m (.candidate m p.job (c.bits p.tag) c.pos)) s
    s.planSend p m (.endMarker m p.job p.tag p.round cs.length false)) s
  s.setPlan { p with cands := p.cands ++ mine, ends := p.ends.put (roundKey p.round own) cs.length, st := .planning .round, since := s.now }

/-- Rank a round and return its verdicts (R183, R184). -/
def State.rankRound (s : State) (p : Plan) (own : Nat) : State :=
  let rs := p.local_.map fun e => (e, p.rankExpert e)
  let acc := rs.flatMap fun r => r.2.1
  let rej := rs.flatMap fun r => r.2.2
  let firm := fun (l : Bool) (m : AMap Nat) => rs.foldl (fun m r => m.upd r.1 0 (· + (r.2.2.filter fun c => c.loose = l).length)) m
  let words := fun (m : Nat) => (acc.filter fun c => c.src = m).map (fun c => verdictBits c.token c.slot true 0 c.expert) ++
    (rej.filter fun c => c.src = m).map (fun c => verdictBits c.token c.slot false 0 c.expert)
  let s := (p.modules.filter (· != own)).foldl (fun s m =>
    let s := (words m).foldl (fun s w => s.planSend p m (.verdict m p.job p.tag w false)) s
    s.planSend p m (.endMarker m p.job p.tag p.round 0 true)) s
  let own1 := (acc.filter fun c => c.src = own).foldl (fun p c => p.verdict c.token c.slot c.expert true) p
  let own2 := (rej.filter fun c => c.src = own).foldl (fun p c => p.verdict c.token c.slot c.expert false) own1
  s.setPlan { own2 with accepted := p.accepted ++ acc, rejFirm := firm false p.rejFirm, rejLoose := firm true p.rejLoose,
                        vends := roundKey p.round own :: own2.vends, st := .planning .verdicts, since := s.now,
                        carried := if (List.range 128).any fun m => 0 < p.ends.getD (roundKey p.round m) 0 then p.round + 1 else p.carried }

/-- Finalise: give every accepted choice its ROW, and return the final verdicts (R185). -/
def State.finaliseRows (s : State) (p : Plan) (own : Nat) : State :=
  let rows := p.local_.flatMap fun e => (p.rowsOf e).zipIdx
  let s := rows.foldl (fun s r =>
    if r.1.src = own then s
    else s.planSend p r.1.src (.verdict r.1.src p.job p.tag (verdictBits r.1.token r.1.slot true r.2 r.1.expert) true)) s
  let p := (rows.filter fun r => r.1.src = own).foldl (fun p r => p.finalRow r.1.token r.1.slot r.2 r.1.expert) p
  s.setPlan { p with st := .planning .final, since := s.now }

/-! ### The records a plan leaves (R187, R188, R190) -/

/-- FATE codes. -/
def Fate.code (f : Fate) : Nat :=
  match f with
  | .served => 0
  | .rerouted => 1
  | .skipCapacity => 2
  | .skipDepth => 3
  | _ => 4

/-- One route log entry. -/
def Plan.logEntry (p : Plan) (c : Choice) : Nat :=
  let served := c.fate = .served || c.fate = .rerouted
  c.fate.code * 2 ^ 61 + c.depth * 2 ^ 58 + (if (p.tokens[c.pos]?).any (·.loose) then 2 ^ 57 else 0) + c.slot * 2 ^ 54 + c.cand * 2 ^ 50 +
    p.expertOf c * 2 ^ 38 + (if served then c.row * 2 ^ 22 else 0)

/-- The route log: one entry per choice, by position and slot. -/
def Plan.routeLog (p : Plan) : List Byte := p.choices.flatMap fun c => leBytes 8 (p.logEntry c)

/-- The block of the receive index of the local expert in place `k`. -/
def Plan.indexBlock (p : Plan) (k e : Nat) : List Byte :=
  let rows := p.rowsOf e
  let firm := (rows.filter fun c => !c.loose).length
  let n := planChunks p.params
  let entry := fun (c : Cand) => c.token * 2 ^ 96 + c.granule * 2 ^ 84 + c.src * 2 ^ 77 + c.slot * 2 ^ 74 + c.pos % 2 ^ 17 * 2 ^ 57
  leBytes 4 rows.length ++ leBytes 2 (ceilDiv rows.length 128) ++ leBytes 2 e ++ leBytes 4 firm ++ leBytes 4 (rows.length - firm) ++
    leBytes 4 (p.rejFirm.getD e 0) ++ leBytes 4 (p.rejLoose.getD e 0) ++ leBytes 4 (runsOfRows rows).length ++ zeros 36 ++
    ((p.bufs.drop (k * n)).take n).flatMap (fun t => leBytes 8 t) ++ rows.flatMap (fun c => leBytes 16 (entry c)) ++
    zeros (16 * (p.params.cap - rows.length))

/-- The plan completes: bindings, receive index, route log, and the counts of its own choices (R188). -/
def State.planDone (s : State) (p : Plan) : State :=
  let s := s.setExch { s.exch with bindings := s.exch.bindings.mapVals fun _ b =>
    if b.job = p.job && b.layer = p.params.layer && p.local_.contains b.expert then
      let n := (p.accepted.filter fun c => c.expert = b.expert).length
      { b with accepted := n, stepTokens := min (2 ^ 32 - 1) (b.stepTokens + n) }
    else b }
  let index := p.local_.zipIdx.flatMap fun e => p.indexBlock e.2 e.1
  let lost := s.spanLost p.rindex 0 index.length || s.spanLost p.rlog 0 p.routeLog.length
  let s := (s.writeSpan none p.rindex 0 index).writeSpan none p.rlog 0 p.routeLog
  let count := fun (f : Fate) => (p.choices.filter fun c => c.fate = f).length
  let skipped := count .skipCapacity + count .skipDepth + count .skipFlag != 0
  let empty := p.local_.any fun e => !p.accepted.any fun c => c.expert = e
  let note := (if skipped then noteSkipped else 0) ||| (if empty then noteEmpty else 0)
  s.conclude p.ring p.at_
    { status := if lost then stAbsent else 0, note := note, detail := 0,
      results := [count .served, count .rerouted, count .skipCapacity, count .skipDepth, count .skipFlag, p.bufs.length * 2 ^ 32 + p.carried].map
        (BitVec.ofNat 64 ·) }

/-- The Ferry receive requester's slot of every receive buffer of a plan that is still held is released (R186). -/
def State.releasePlan (s : State) (p : Plan) : State := s.releaseTaken (p.bufs.filterMap s.heldToken)

/-- A plan ends: its buffers are released and its context is gone (R181, R182, R199). -/
def State.dropPlan (s : State) (p : Plan) : State :=
  let s := s.releasePlan p
  s.setExch { s.exch with plans := s.exch.plans.drop (planKey p.job p.tag),
                          heldRows := s.exch.heldRows.filter fun r => !(r.job = p.job && r.plan = p.tag) }

/-- A plan fails with an outcome. -/
def State.planFail (s : State) (p : Plan) (o : Outc) : State := (s.dropPlan p).conclude p.ring p.at_ o

/-- Write free values (log 2) where the spec leaves bytes without defined content. -/
def State.writeFree (s : State) (h : BitVec 32) (ofs n : Nat) : State :=
  if (s.berthAt h).any fun b => ofs + n ≤ b.length then
    let bs := s.freeBytes n
    (s.setFree (s.free + n / 512 + 1)).writeSpan none h ofs bs
  else s

/-- A plan fails for a missing message or participant: its route log and receive index are left without defined content (R182). -/
def State.planGone (s : State) (p : Plan) (o : Outc) : State :=
  let s :=
    if p.own.ok then
      (s.writeFree p.rlog 0 (8 * p.params.topk * p.tokens.length)).writeFree p.rindex 0 (p.local_.length * planBlock p.params)
    else s
  s.planFail p o

/-! ### The open markers (R180, R181) -/

/-- Every participant's marker has come: the outcome of a plan that does not proceed. -/
def Plan.openFault (p : Plan) (own : Nat) : Option Outc :=
  let ms := p.modules.filterMap fun m => (p.markers.get? m).map fun x => (m, x)
  let mine : List Outc := if p.own.ok then [] else [Outc.of p.own.status p.detail]
  let peer : List Outc :=
    match ms.find? fun x => !x.2.ok with
    | some (m, x) => if m = own then [] else [Outc.peer x.status m]
    | none => []
  let differ : List Outc := if ms.any fun x => x.2.crc != p.own.crc || x.2.params != p.own.params then [Outc.of stMalformed 0] else []
  (mine ++ differ ++ peer).foldl (fun acc o =>
    match acc with
    | none => some o
    | some a => if a.status / 256 < o.status / 256 || (a.status / 256 = o.status / 256 && o.status < a.status) then some o else some a) none

/-- One step of a plan, when the messages that it waits for are all here; false when it waits on. -/
def State.planStep (s : State) (p : Plan) (own : Nat) : Bool × State :=
  let every := fun (f : Nat → Bool) => p.modules.all f
  match p.st with
  | .planning .open =>
    if every p.markers.has then
      match p.openFault own with
      | some o => (false, s.planFail p o)
      | none => (true, s.startRound p own)
    else (false, s)
  | .planning .round =>
    if every fun m => p.ends.has (roundKey p.round m) then
      if every fun m => p.ends.getD (roundKey p.round m) 0 = 0 then (true, s.finaliseRows p own) else (true, s.rankRound p own)
    else (false, s)
  | .planning .verdicts =>
    if every (fun m => p.vends.contains (roundKey p.round m)) && p.choices.all (fun c => c.fate != .open || c.answered) then
      (true, s.startRound { p with choices := p.reroute, round := p.round + 1 } own)
    else (false, s)
  | .planning .final =>
    let served := (p.choices.filter fun c => c.fate = .served || c.fate = .rerouted).length
    (false, if served ≤ p.finals && (s.prog p.ring p.at_).any (·.outcome.isNone) then s.planDone p else s)
  | _ => (false, s)

/-- A plan goes on as far as its messages allow: at most three stages for each of nine rounds. -/
def State.planRun (s : State) (fuel job tag : Nat) : State :=
  match fuel, s.plan job tag, s.ownIndex with
  | fuel + 1, some p, some own =>
    match s.planStep p own with
    | (true, t) => t.planRun fuel job tag
    | (false, t) => t
  | _, _, _ => s

/-- Steps that no plan exceeds. -/
def planFuel : Nat := 40

/-- A message changes a plan in progress, which then goes on as far as it can. -/
def State.planMessage (s : State) (job tag : Nat) (f : Plan → Plan) : State :=
  match s.plan job tag with
  | none => s
  | some p => (s.setPlan (f p)).planRun planFuel job tag

end Sys2Proof.Machine
end

