-- ==== Sys2Proof/Machine/PlanFamily.lean ====
section
/-! DEFINITION. ROUTE_PLAN, the messages and limits of a plan, and EXPERT_MAP (R172 to R191, R297). -/

namespace Sys2Proof.Machine

/-! ### Takes of commands (R161, R162, R166) -/

/-- Take buffers for a command: a refused take is its outcome, a warning that fires is its note, and it goes on with the buffers. -/
def State.taking (s : State) (p : Pkt) (engine n : Nat) (owners : List Nat) (go : List Nat → State → State) : State :=
  let step := ((s.cmd.jobs.get? p.job).map (·.step)).getD 0
  let (t, s) := s.quayTake (reqIndex p.job engine) n owners step
  if t.status != 0 then s.failed p t.status t.detail
  else
    let s := match t.warned with
      | some d => s.updProg p.ring p.at_ fun g => { g with note := g.note ||| noteWarn, noteDetail := d }
      | none => s
    go t.descs s

/-- The command in progress holds the buffers of its take until it completes. -/
def State.holding (s : State) (p : Pkt) (bufs : List Nat) : State := s.updProg p.ring p.at_ fun g => { g with taken := bufs.map fun d => (d, 255) }

/-! ### ROUTE_PLAN -/

/-- The refusals of a ROUTE_PLAN that send no marker: its mask (R298), and a tag that is live (R189). -/
def routePlanBad (p : Pkt) (s : State) : List Bad := s.maskBad p 2 ++ mal 0 ((s.plan p.job (p.f 0 15 0)).isSome)

/-- The participant check, the take, the open markers, and what their answers allow (R180, R181, R186). -/
def routePlanEff (p : Pkt) (s : State) : State :=
  let own := s.ownIndex.getD 0
  let q := p.planParams
  let tag := p.f 0 15 0
  let (bads, toks, owner, crc, s) := s.planCheck p own
  let mine := s.layerExperts p.job q.layer
  let step := ((s.cmd.jobs.get? p.job).map (·.step)).getD 0
  let (t, s) :=
    match worst bads with
    | some b => (({ status := b.1, detail := b.2, descs := [], warned := none } : Taken), s)
    | none => s.quayTake (reqIndex p.job engFerryRx) (mine.length * planChunks q) p.planOwners step
  let s := match t.warned with
    | some d => s.updProg p.ring p.at_ fun g => { g with note := g.note ||| noteWarn, noteDetail := d }
    | none => s
  let m : OpenMarker := { ok := t.status = 0, status := t.status, crc := crc, params := q }
  let held := s.exch.heldMarkers.filter fun h => h.1 = p.job && h.2.1 = tag && q.parts.getLsbD h.2.2.1
  let plan : Plan :=
    { job := p.job, tag := tag, ring := p.ring, at_ := p.at_, params := q, tokens := toks, owner := owner, local_ := mine, crc := crc,
      rindex := p.hi 5, rlog := p.lo 5, bufs := t.descs.map s.tokenOf, own := m, detail := t.detail, st := .planning .open, since := s.now,
      markers := held.foldl (fun (a : AMap OpenMarker) h => a.put h.2.2.1 h.2.2.2) [(own, m)], round := 0, ends := [], vends := [],
      choices := initChoices q.topk toks (s.flagSkipped (p.lo 6)), cands := [], accepted := [], rejFirm := [], rejLoose := [], finals := 0,
      carried := 0, busy := false, combineRec := 0, gradRec := 0, arrived := [], staged := [], bad := [], srcBad := false, exchSince := s.now }
  let others := (maskModules q.parts).filter (· != own)
  let s := (s.works p (.plan tag)).setPlan plan
  let s := s.setExch { s.exch with heldMarkers := s.exch.heldMarkers.filter fun h => !(h.1 = p.job && h.2.1 = tag) }
  let s := others.foldl (fun s o => s.planSend plan o (.openMarker o p.job tag m)) s
  match others.find? fun o => !s.peerPresent o with
  | some o => s.planGone plan (Outc.peer stAbsent o)
  | none => s.planRun planFuel p.job tag

/-- ROUTE_PLAN: makes the participant check, takes its receive buffers, and sends its open marker to every participant; the plan then waits for
theirs (R172 to R181, R186, R189, R297, R298). -/
def execRoutePlan (n : Nat) (s : State) : Host.Outcome State Fault Refusal := s.command n (isOp 0x0301) routePlanBad routePlanEff

/-! ### Messages (R181 to R185) -/

/-- OPEN_MARKER: a participant's marker arrives; one for a plan not yet accepted here is held (R181, R309). -/
def execOpenMarker (job plan src : Nat) (m : OpenMarker) (s : State) : Host.Outcome State Fault Refusal :=
  s.when (s.grants job src (·.exch))
    (match s.plan job plan with
      | none => s.setExch { s.exch with heldMarkers := (s.exch.heldMarkers.filter fun h => !(h.1 = job && h.2.1 = plan && h.2.2.1 = src)) ++ [(job, plan, src, m)] }
      | some p => if p.params.parts.getLsbD src && p.st.rank = 0 then s.planMessage job plan fun p => { p with markers := p.markers.put src m } else s)

/-- A candidate as its record gives it, with its position at its holder, for which the record has no field (log 16). -/
def candOfBits (w : BitVec 128) (pos : Nat) : Cand :=
  let x := w.toNat
  { token := bitsOf x 111 80, score := BitVec.ofNat 32 (bitsOf x 79 48), expert := bitsOf x 47 36, granule := bitsOf x 35 24, loose := x.testBit 23,
    slot := bitsOf x 22 20, depth := bitsOf x 19 17, src := bitsOf x 16 10, pos := pos }

/-- CANDIDATE_RECORD: a candidate reaches its expert's owner (R183). -/
def execCandidateRecord (job : Nat) (w : BitVec 128) (pos : Nat) (s : State) : Host.Outcome State Fault Refusal :=
  let c := candOfBits w (pos % 2 ^ 17)
  let tag := bitsOf w.toNat 127 112
  s.when (s.grants job c.src (·.exch) && (s.plan job tag).any fun p => p.params.parts.getLsbD c.src && p.local_.contains c.expert && p.st.rank = 0)
    (s.planMessage job tag fun p => { p with cands := p.cands ++ [c] })

/-- END_MARKER: a source has sent all candidates, or all verdicts, of a round; an owner that holds every participant's marker ranks the round,
and a holder with all verdicts goes on (R183 to R185). -/
def execEndMarker (job plan src round count : Nat) (verdicts : Bool) (s : State) : Host.Outcome State Fault Refusal :=
  s.when (s.grants job src (·.exch) && (s.plan job plan).any fun p => p.params.parts.getLsbD src && p.st.rank = 0)
    (s.planMessage job plan fun p =>
      if verdicts then { p with vends := roundKey round src :: p.vends } else { p with ends := p.ends.put (roundKey round src) count })

/-- VERDICT_RECORD: an owner's verdict of a round reaches the token's holder (R172, R184). -/
def execVerdictRecord (job plan src : Nat) (w : BitVec 64) (s : State) : Host.Outcome State Fault Refusal :=
  let e := bitsOf w.toNat 11 0
  s.when (s.grants job src (·.exch) && (s.plan job plan).any fun p => p.ownerOf e = src && p.st.rank = 0)
    (s.planMessage job plan fun p => p.verdict (bitsOf w.toNat 63 32) (bitsOf w.toNat 31 29) e (w.getLsbD 28))

/-- FINAL_VERDICT: the row of an accepted choice reaches its holder; with the last one the plan completes (R185, R187, R188, R190). -/
def execFinalVerdict (job plan src : Nat) (w : BitVec 64) (s : State) : Host.Outcome State Fault Refusal :=
  let e := bitsOf w.toNat 11 0
  s.when (s.grants job src (·.exch) && (s.plan job plan).any fun p => p.ownerOf e = src && p.st.rank = 0)
    (s.planMessage job plan fun p => p.finalRow (bitsOf w.toNat 63 32) (bitsOf w.toNat 31 29) (bitsOf w.toNat 27 12) e)

/-- PLAN_STAGE_TIMEOUT: a stage of a plan passes the job's wait limit: TIMEOUT, its buffers released and its context gone (R182). -/
def execPlanStageTimeout (job plan : Nat) (s : State) : Host.Outcome State Fault Refusal :=
  match s.plan job plan, s.cmd.jobs.get? job with
  | some p, some j =>
    s.when (p.st.rank = 0 && s.after p.since (1000 * j.waitMs) && (s.prog p.ring p.at_).any (·.outcome.isNone)) (s.planGone p (Outc.of stTimeout 0))
  | _, _ => .next s

/-- A participant becomes absent during plans: they end with PEER_ABSENT, and what it sent for a later plan is discarded (R182, R253). -/
def State.planAbsent (s : State) (m : Nat) : State :=
  let s := s.setExch { s.exch with heldMarkers := s.exch.heldMarkers.filter fun h => h.2.2.1 != m, heldRows := s.exch.heldRows.filter fun r => r.src != m }
  (s.exch.plans.valList.filter fun p => p.params.parts.getLsbD m && p.st.rank = 0 && (s.prog p.ring p.at_).any (·.outcome.isNone)).foldl
    (fun s p => s.planGone p (Outc.peer stAbsent m)) s

/-! ### EXPERT_MAP (R177) -/

/-- The binding that an EXPERT_MAP names. -/
def Pkt.mapKey (p : Pkt) : Nat := bindingKey p.job (p.f 0 15 4) (p.f 0 27 16)

/-- The job has a live plan of the layer. -/
def State.layerLive (s : State) (job layer : Nat) : Bool := s.exch.plans.valList.any fun p => p.job = job && p.params.layer = layer

/-- What refuses an EXPERT_MAP. -/
def expertMapBad (p : Pkt) (s : State) : List Bad :=
  if p.bit 0 0 then mal 1 (p.w 1 != 0) ++ mal 0 (!s.exch.bindings.has p.mapKey || s.layerLive p.job (p.f 0 15 4))
  else
    let usable := fun (h : BitVec 32) => (s.berthAt h).any fun b => b.usable p.job
    mal 1 (!usable (p.lo 1) || !(s.berthAt (p.lo 1)).any fun b => b.hints.getLsbD 7) ++
      (if p.hi 1 = 0 then [] else s.handleBad p.job 1 (p.hi 1)) ++ mal 0 (s.exch.bindings.has p.mapKey) ++
      refuseIf (8192 ≤ s.exch.bindings.length) stQuota (detailWord 0x0B 0)

/-- EXPERT_MAP: adds or removes a binding of an expert; a new one's predictor bits are all active (R155, R177). -/
def execExpertMap (n : Nat) (s : State) : Host.Outcome State Fault Refusal :=
  s.command n (isOp 0x0306) expertMapBad fun p s =>
    let s := s.setPlace { s.place with predictor := s.place.predictor.drop p.mapKey }
    if p.bit 0 0 then (s.setExch { s.exch with bindings := s.exch.bindings.drop p.mapKey }).done p []
    else
      let b : Binding := { job := p.job, layer := p.f 0 15 4, expert := p.f 0 27 16, wHandle := p.lo 1, gradHandle := p.hi 1, stepTokens := 0,
                           accepted := 0, replicas := 0, thin := false }
      (s.setExch { s.exch with bindings := s.exch.bindings.put p.mapKey b }).done p []

end Sys2Proof.Machine
end

