-- ==== Sys2Proof/Machine/Exchange.lean ====
section
/-! DEFINITION. The exchange commands and their records (R192 to R199, R297). -/

namespace Sys2Proof.Machine

/-! ### Rows as values -/

/-- Element `c` of a row's bytes (R179). -/
def rowValue (fmt width : Nat) (a : Array Byte) (c : Nat) : Val :=
  mxValue fmt (encAt fmt a 0 c) (a.getD (elemBytes fmt width + c / 32) 0).toNat
/-- The values of a row. -/
def rowValues (fmt width : Nat) (bs : List Byte) : List Val :=
  let a := bs.toArray
  (List.range width).map (rowValue fmt width a)
/-- The bytes of a row of values: its elements, and the scales of an MX format's blocks, rounded to nearest even (R34, R46, R197). -/
def rowEncode (fmt : Nat) (mode : OvMode) (vs : List Val) : List Byte :=
  if isMx fmt then
    let blocks := (List.range (vs.length / 32)).map fun b => mxBlock fmt mode (((vs.drop (32 * b)).take 32).map fun v => (v, .rne))
    packElems fmt (blocks.flatMap (·.elems)) ++ blocks.map fun b => BitVec.ofNat 8 b.scale
  else packElems fmt (vs.map fun v => (convertTo fmt mode .rne v).bits)

/-- The exact product of a gate and an element, as one scaled-integer addend (R42, R44, R195). -/
def productAddend (v : Val) : Addend :=
  match v with
  | .nan => .special true false
  | .inf neg => .special false neg
  | .fin neg m e => .scaled (if neg then -(m : Int) else m) e

/-- The poisoned 64-byte blocks, by place, of `n` bytes from a 64-byte aligned offset of a handle (R145, R332). -/
def State.poisonPlaces (s : State) (h : BitVec 32) (ofs n : Nat) : List Nat :=
  let k := spanKey 0 h ofs
  (List.range (ceilDiv n 64)).filter fun b => s.mem.poisoned (k + 64 * b) (min 64 (n - 64 * b)) || s.spanFailed h (ofs + 64 * b) (min 64 (n - 64 * b))

/-! ### The four commands, in common (R192, R193, R199) -/

/-- Kind of an exchange command: 0 DISPATCH, 1 COMBINE, 2 COMBINE_GRAD, 3 DISPATCH_GRAD. -/
def exchKind (op : Nat) : Nat :=
  match op with
  | 0x0302 => 0
  | 0x0303 => 1
  | 0x0305 => 2
  | _ => 3

/-- The plan that an exchange command names. -/
def Pkt.exchPlan (p : Pkt) (s : State) : Option Plan := s.plan p.job (p.f 0 15 0)

/-- The plan is not in the state listed for the command, or has an exchange command in progress (R199). -/
def exchStateBad (p : Pkt) (s : State) : List Bad :=
  mal 0 (match p.exchPlan s with
    | none => true
    | some x => x.busy || x.st.rank != exchKind p.op + 1)

/-- The served choices of the plan's own tokens. -/
def Plan.servedChoices (p : Plan) : List Choice := p.choices.filter fun c => c.fate = .served || c.fate = .rerouted
/-- The local experts' accepted rows with their row numbers. -/
def Plan.localRows (p : Plan) : List (Cand × Nat) := p.local_.flatMap fun e => (p.rowsOf e).zipIdx
/-- The place of a local expert. -/
def Plan.place (p : Plan) (e : Nat) : Nat := p.local_.idxOf e

/-- The modules to which a command of a kind has at least one record, this one left out (R192; that a record to the module itself takes no
send buffer is DEDUCED, log 18). -/
def Plan.dests (p : Plan) (own kind : Nat) : List Nat :=
  let ds := if kind % 2 = 0 then p.servedChoices.map fun c => p.ownerOf (p.expertOf c) else p.localRows.map fun r => r.1.src
  (maskModules p.params.parts).filter fun m => m != own && ds.contains m

/-- A send buffer smaller than one header and one row (R192). -/
def State.sendBufBad (s : State) (job own kind size : Nat) (x : Plan) : List Bad :=
  let pool := (s.req (reqIndex job engFerryTx)).pool.bind fun i => s.quay.pools.get? i
  if x.dests own kind != [] && pool.any (fun q => q.bytes < 16 + size) then [(stMalformed, 0)] else []

/-- A row record's header (toward an expert). -/
def rowHeader (plan expert row fmt : Nat) (grad : Bool) (token bytes : Nat) : BitVec 128 :=
  BitVec.ofNat 128 (plan * 2 ^ 112 + expert * 2 ^ 100 + row * 2 ^ 84 + fmt * 2 ^ 80 + (if grad then 2 ^ 79 else 0) + token * 2 ^ 32 + bytes)
/-- A return record's header (toward a token's holder). -/
def retHeader (plan expert slot : Nat) (grad : Bool) (fmt pos token bytes : Nat) : BitVec 128 :=
  BitVec.ofNat 128 (plan * 2 ^ 112 + expert * 2 ^ 100 + slot * 2 ^ 97 + (if grad then 2 ^ 96 else 0) + fmt * 2 ^ 92 + pos % 2 ^ 17 * 2 ^ 75 +
    token * 2 ^ 32 + bytes)

/-- Send one record, or hand it to this module itself: the records for this module are kept as held rows and taken up at once. -/
def State.sendRecord (s : State) (x : Plan) (own dst kind : Nat) (h : BitVec 128) (bs : List Byte) (poison : List Nat) : State :=
  if dst = own then
    s.setExch { s.exch with heldRows := s.exch.heldRows ++ [{ job := x.job, plan := x.tag, kind := kind, src := own, h := h, payload := bs, poison := poison }] }
  else
    s.sendMsg dst clsExchange x.job (some (x.ring, x.at_))
      (if kind % 2 = 0 then .row dst x.job h bs poison else .ret dst x.job h bs poison)

/-! ### Records arriving (R193 to R198) -/

/-- The exchange command in progress of a plan. -/
def State.exchProg (s : State) (job plan : Nat) : Option Prog :=
  s.cmd.progs.find? fun g => g.ring / 4 = job && g.ring != adminRing && g.work = .exch plan && g.outcome.isNone

/-- The number of records that a plan leads a module to expect. -/
def Plan.expects (p : Plan) (kind : Nat) : Nat := if kind % 2 = 0 then p.localRows.length else p.servedChoices.length

/-- One addend enters a record of a berth. -/
def State.recordAdd (s : State) (h : BitVec 32) (ofs : Nat) (a : Addend) : State :=
  let key := spanKey 0 h ofs
  (s.laMakeRoom key).laAdd none key a

/-- A return record's columns are added to the records of its position (R195, R198). -/
def State.addReturn (s : State) (x : Plan) (kind : Nat) (c : Choice) (fmt : Nat) (bs : List Byte) : State :=
  let h := if kind = 1 then x.combineRec else x.gradRec
  let w := x.params.width
  (rowValues fmt w bs).zipIdx.foldl (fun s v =>
    let a := if kind = 1 then productAddend ((f32Val (x.gateOf c)).mul v.1) else .fp32 (toF32 v.1)
    s.recordAdd h (48 * (w * c.pos + v.2)) a) s

/-- A record of a position is poisoned in memory. -/
def State.recordsPoisoned (s : State) (h : BitVec 32) (w pos : Nat) : Bool :=
  (List.range w).any fun c => s.recordBad (spanKey 0 h (48 * (w * pos + c)))

/-- A record that a plan expects is applied to the command in progress; any other is not (R192, R193). -/
def State.exchTake (s : State) (x : Plan) (r : HeldRow) : State :=
  let n := r.h.toNat
  if r.kind % 2 = 0 then
    let (e, row) := (bitsOf n 111 100, bitsOf n 99 84)
    let id := e * 65536 + row
    let expected := x.local_.contains e && ((x.rowsOf e)[row]?).any fun c => c.src = r.src && c.token = bitsOf n 63 32
    if expected && !x.arrived.contains id then
      s.setPlan { x with arrived := id :: x.arrived, staged := x.staged ++ [(id, r.payload, r.poison)], exchSince := s.now }
    else s
  else
    let (pos, slot, e) := (bitsOf n 91 75, bitsOf n 99 97, bitsOf n 111 100)
    let id := pos * 8 + slot
    match x.servedChoices.find? fun c => c.pos = pos && c.slot = slot with
    | none => s
    | some c =>
      if x.expertOf c = e && x.ownerOf e = r.src && !x.arrived.contains id then
        let h := if r.kind = 1 then x.combineRec else x.gradRec
        let bad := !r.poison.isEmpty || s.recordsPoisoned h x.params.width pos
        let s := s.setPlan { x with arrived := id :: x.arrived, bad := if bad then (pos :: x.bad).dedup else x.bad, exchSince := s.now }
        if bad then s else s.addReturn x r.kind c (bitsOf n 95 92) r.payload
      else s

/-! ### Completion (R186, R194, R196) -/

/-- The rows of a DISPATCH or COMBINE_GRAD are written into the receive buffers at a stride, with their poison marks (R146, R186, R248). -/
def State.writeStaged (s : State) (x : Plan) (stride : Nat) : State :=
  x.staged.foldl (fun s r =>
    let (e, row) := (r.1 / 65536, r.1 % 65536)
    match (x.bufs[x.place e * planChunks x.params + row / 128]?).bind s.heldToken with
    | none => s
    | some d =>
      match s.bufferAt d with
      | none => s
      | some (h, ofs, _) =>
        let o := ofs + row % 128 * stride
        (s.writeSpan none h o r.2.1).poisonBlocks (r.2.2.map fun b => spanKey 0 h o / 64 + b)) s

/-- What a read-out of one token row counts: records with LOW_LOST, with NAN, saturated elements. -/
abbrev ReadOut := Nat × Nat × Nat

/-- Read one token's row out of its records, after its residual has been added, into the destination (R45, R49, R56, R196). -/
def State.readToken (s : State) (p : Pkt) (x : Plan) (acc : ReadOut) (pos : Nat) : ReadOut × Bool × State :=
  let w := x.params.width
  let dfmt := p.f 0 23 20
  let rfmt := p.f 0 31 28
  let mode := (ovMode (p.f 0 25 24)).getD .sat
  let recs := if p.op = 0x0303 then x.combineRec else x.gradRec
  let res := p.hi 2
  let (rg, s) := if res = 0 then (⟨[], false, false⟩, s) else s.readSpan none res (pos * stride64 (rowSize rfmt w)) (rowSize rfmt w)
  let bad := x.bad.contains pos || rg.poisoned || s.recordsPoisoned recs w pos
  let s := if res = 0 || s.recordsPoisoned recs w pos then s
    else (rowValues rfmt w rg.data).zipIdx.foldl (fun s v => s.recordAdd recs (48 * (w * pos + v.2)) (.fp32 (toF32 v.1))) s
  let token := ((x.tokens[pos]?).map (·.token)).getD 0
  let (seed, step) := ((s.cmd.jobs.get? p.job).map fun j => (j.seed, j.step)).getD (0, 0)
  let cells := (List.range w).map fun c =>
    let e := s.laEntry (spanKey 0 recs (48 * (w * pos + c)))
    let rnd := if p.bit 0 26 && dfmt != 9 then RndMode.sr (randomWord seed step (p.f 3 31 0) (token * w + c)) else .rne
    (e, convertTo dfmt mode rnd e.val)
  let out := packElems dfmt (cells.map fun c => c.2.bits)
  let ofs := pos * stride64 (rowSize dfmt w)
  let s := s.writeSpan none (p.lo 2) ofs out
  let s := if bad then s.poisonBlocks (blocksOf (spanKey 0 (p.lo 2) ofs) out.length) else s
  let count := fun (f : LaEntry × Rnd → Bool) => (cells.filter f).length
  ((acc.1 + count (·.1.lowLost), acc.2.1 + count (·.1.nan), acc.2.2 + count (·.2.ov)), bad, s)

/-- Every expected record has arrived: the rows are written, or read out, and the command is done (R193, R196). -/
def State.exchFinish (s : State) (p : Pkt) (x : Plan) : State :=
  let kind := exchKind p.op
  let got := x.expects kind
  if kind % 2 = 0 then
    let s := s.writeStaged x (if kind = 0 then planStride x.params else stride64 (rowSize (p.f 0 19 16) x.params.width))
    let o : Outc := { status := if x.srcBad then stUncorrectable else 0, note := 0, detail := 0,
                      results := [BitVec.ofNat 64 x.servedChoices.length, BitVec.ofNat 64 got] }
    s.conclude p.ring p.at_ o
  else
    let n := x.tokens.length
    let size := rowSize (p.f 0 23 20) x.params.width
    let rsize := rowSize (p.f 0 31 28) x.params.width
    let recs := if kind = 1 then x.combineRec else x.gradRec
    if s.spanLost (p.lo 2) 0 (rowsSpan n (stride64 size) size) || s.spanLost recs 0 (48 * n * x.params.width) ||
        (p.hi 2 != 0 && s.spanLost (p.hi 2) 0 (rowsSpan n (stride64 rsize) rsize)) then s.conclude p.ring p.at_ (Outc.of stAbsent 0)
    else
      let (r, bad, s) := (List.range n).foldl (fun (acc : ReadOut × Bool × State) pos =>
        let (r, b, s) := acc.2.2.readToken p x acc.1 pos
        (r, acc.2.1 || b, s)) ((0, 0, 0), x.srcBad, s)
      let o : Outc := { status := if bad then stUncorrectable else 0, note := if r.1 + r.2.1 + r.2.2 = 0 then 0 else noteArith, detail := 0,
                        results := [r.1, r.2.1, r.2.2, x.localRows.length, got].map (BitVec.ofNat 64 ·) }
      s.conclude p.ring p.at_ o

/-- No addend issued before is still on its way to a record that a read-out needs (R45). -/
def State.recordsQuiet (s : State) (x : Plan) (kind : Nat) : Bool :=
  let from_ := spanKey 0 (if kind = 1 then x.combineRec else x.gradRec) 0
  let here := fun (k : Nat) => from_ ≤ k && k < from_ + 48 * x.tokens.length * x.params.width
  kind % 2 = 0 || !(s.comp.addends.any (fun a => here a.key) || s.comp.cores.any fun c => c.2.verdicts.any fun v => v.adds.any fun a => here a.1)

/-- The records held for a plan's command in progress are taken up, and the command is done when all that it expects have arrived, those that it sent have
been acknowledged, and no addend is on its way to the records that it reads out (R45, R193). -/
def State.exchRun (s : State) (job tag : Nat) : State :=
  match s.exchProg job tag with
  | none => s
  | some g =>
    let kind := exchKind (phOp g.hdr)
    let mine := fun (r : HeldRow) => r.job = job && r.plan = tag && r.kind = kind
    let rs := s.exch.heldRows.filter mine
    let s := s.setExch { s.exch with heldRows := s.exch.heldRows.filter fun r => !mine r }
    let s := rs.foldl (fun s r =>
      match s.plan job tag with
      | none => s
      | some x => s.exchTake x r) s
    match s.plan job tag with
    | none => s
    | some x => if x.arrived.length = x.expects kind && (s.unackedOf g.ring g.at_).isEmpty && s.recordsQuiet x kind then s.exchFinish g.pkt x else s

/-- An exchange command whose records were acknowledged since the last one arrived is done (R193). -/
def State.exchSettle (s : State) (g : Prog) : State :=
  match g.work, g.outcome with
  | .exch tag, none => s.exchRun (g.ring / 4) tag
  | _, _ => s

/-- A record arrives: it is applied to its command in progress, or held for one that its plan has still to see (R193, R309). -/
def State.exchArrive (s : State) (r : HeldRow) : State :=
  match s.plan r.job r.plan with
  | none => s
  | some x =>
    if x.params.parts.getLsbD r.src && (x.st.rank ≤ r.kind + 1) && !(x.st.rank = r.kind + 1 && x.busy && (s.exchProg r.job r.plan).isNone) then
      (s.setExch { s.exch with heldRows := s.exch.heldRows ++ [r] }).exchRun r.job r.plan
    else s

/-- ROW_RECORD: a dispatched row or a gradient row reaches its expert's owner (R193, R194, R197). -/
def execRowRecord (job src : Nat) (h : BitVec 128) (payload : List Byte) (poison : List Nat) (s : State) : Host.Outcome State Fault Refusal :=
  s.when (s.grants job src (·.exch))
    (s.exchArrive { job := job, plan := bitsOf h.toNat 127 112, kind := if h.getLsbD 79 then 2 else 0, src := src, h := h, payload := payload, poison := poison })

/-- RETURN_RECORD: an expert's row reaches its token's holder, where it enters the records exactly; after the last one the rows are read out
once (R49, R193, R195, R196, R198). -/
def execReturnRecord (job src : Nat) (h : BitVec 128) (payload : List Byte) (poison : List Nat) (s : State) : Host.Outcome State Fault Refusal :=
  s.when (s.grants job src (·.exch))
    (s.exchArrive { job := job, plan := bitsOf h.toNat 127 112, kind := if h.getLsbD 96 then 3 else 1, src := src, h := h, payload := payload, poison := poison })

/-- An exchange command ends early: its records are abandoned and it writes no destination row (R192, R193). -/
def State.exchStop (s : State) (g : Prog) (o : Outc) : State :=
  (s.abandon (g.ring, g.at_)).conclude g.ring g.at_ o

/-- EXCHANGE_TIMEOUT: the job's wait limit passes with an expected record missing (R193). -/
def execExchangeTimeout (job plan : Nat) (s : State) : Host.Outcome State Fault Refusal :=
  match s.plan job plan, s.cmd.jobs.get? job, s.exchProg job plan with
  | some x, some j, some g =>
    s.when (s.after x.exchSince (1000 * j.waitMs) && x.arrived.length != x.expects (exchKind (phOp g.hdr))) (s.exchStop g (Outc.of stTimeout 0))
  | _, _, _ => .next s

/-- A participant becomes absent during exchange commands (R193). -/
def State.exchAbsent (s : State) (m : Nat) : State :=
  s.exch.plans.valList.foldl (fun s x =>
    if x.params.parts.getLsbD m then
      match s.exchProg x.job x.tag with
      | some g => s.exchStop g (Outc.peer stAbsent m)
      | none => s
    else s) s

/-! ### Starting a command -/

/-- Start an exchange command: its send buffers are taken, its records sent, and what has arrived for it taken up; with a participant absent it
ends with PEER_ABSENT (R192, R193, R199). `prep` makes the records ready, `send` sends them. -/
def State.exchStart (s : State) (p : Pkt) (prep : Plan → State → Plan × State) (send : Plan → State → State) : State :=
  match p.exchPlan s with
  | none => s
  | some x =>
    let own := s.ownIndex.getD 0
    let kind := exchKind p.op
    let ds := x.dests own kind
    s.taking p engFerryTx ds.length [] fun bufs s =>
      let s := s.updProg p.ring p.at_ fun g => { g with taken := bufs.zip ds, work := .exch x.tag }
      let x := { x with busy := true, ring := p.ring, at_ := p.at_, arrived := [], staged := [], bad := [], srcBad := false, exchSince := s.now }
      let (x, s) := prep x s
      let s := s.setPlan x
      match (maskModules x.params.parts).find? fun m => m != own && !s.peerPresent m with
      | some m => s.conclude p.ring p.at_ (Outc.peer stAbsent m)
      | none => (send x s).exchRun x.job x.tag

/-- Initialise a berth of records: zeros, and no entry held (R109, R194). -/
def State.initRecords (s : State) (h : BitVec 32) (n : Nat) : State := s.writeSpan none h 0 (zeros (48 * n))

/-- A plan notes that a row was read poisoned. -/
def State.noteSrc (s : State) (x : Plan) (bad : Bool) : State :=
  match s.plan x.job x.tag with
  | some y => if bad then s.setPlan { y with srcBad := true } else s
  | none => s

/-- Send the row of every served choice to its expert's owner; `f` makes the bytes sent from the bytes read (R194, R197). -/
def State.sendRows (s : State) (x : Plan) (kind fmt : Nat) (h : BitVec 32) (f : Choice → List Byte → List Byte) : State :=
  let own := s.ownIndex.getD 0
  let size := rowSize fmt x.params.width
  x.servedChoices.foldl (fun s c =>
    let ofs := c.pos * stride64 size
    let places := s.poisonPlaces h ofs size
    let (g, s) := s.readSpan none h ofs size
    let e := x.expertOf c
    let token := ((x.tokens[c.pos]?).map (·.token)).getD 0
    let marks := if kind = 2 && !places.isEmpty then List.range (ceilDiv size 64) else places
    (s.noteSrc x (!places.isEmpty)).sendRecord x own (x.ownerOf e) kind (rowHeader x.tag e c.row fmt (kind = 2) token size) (f c g.data) marks) s

/-- Send every accepted row to its token's holder (R195, R198). -/
def State.sendBack (s : State) (x : Plan) (kind fmt stride : Nat) (h : BitVec 32) : State :=
  let own := s.ownIndex.getD 0
  let size := rowSize fmt x.params.width
  x.localRows.foldl (fun s r =>
    let ofs := (x.place r.1.expert * x.params.cap + r.2) * stride
    let places := s.poisonPlaces h ofs size
    let (g, s) := s.readSpan none h ofs size
    (s.noteSrc x (!places.isEmpty)).sendRecord x own r.1.src kind (retHeader x.tag r.1.expert r.1.slot (kind = 3) fmt r.1.pos r.1.token size) g.data places) s

/-! ### DISPATCH and COMBINE_GRAD -/

/-- What refuses a DISPATCH. -/
def dispatchBad (p : Pkt) (s : State) : List Bad :=
  exchStateBad p s ++
    match p.exchPlan s with
    | none => []
    | some x =>
      let size := rowSize x.params.fmt x.params.width
      let n := x.tokens.length
      s.spanBad p.job 1 (p.lo 1) 0 (rowsSpan n (stride64 size) size) ++ s.spanBad p.job 1 (p.hi 1) 0 (48 * n * x.params.width) ++
        s.sendBufBad p.job (s.ownIndex.getD 0) 0 size x

/-- DISPATCH's effect. -/
def dispatchEff (p : Pkt) (s : State) : State :=
  s.exchStart p (fun x s => ({ x with combineRec := p.hi 1 }, s.initRecords (p.hi 1) (x.tokens.length * x.params.width)))
    fun x s => s.sendRows x 0 x.params.fmt (p.lo 1) fun _ bs => bs

/-- DISPATCH: initialises the combine records and sends the row of every served choice to its expert's owner (R192 to R194, R199). -/
def execDispatch (n : Nat) (s : State) : Host.Outcome State Fault Refusal := s.command n (isOp 0x0302) dispatchBad dispatchEff

/-- What refuses a COMBINE_GRAD. -/
def combineGradBad (p : Pkt) (s : State) : List Bad :=
  exchStateBad p s ++
    match p.exchPlan s with
    | none => []
    | some x =>
      let fmt := p.f 0 19 16
      let size := rowSize fmt x.params.width
      let n := x.tokens.length
      let buf := (x.bufs.filterMap s.heldToken).head?.bind s.bufferAt
      mal 0 (7 < fmt || p.f 0 22 21 = 3 || buf.any fun b => b.2.2 < 128 * stride64 size) ++
        refuseIf (x.bufs.any fun t => (s.heldToken t).isNone) stNotOwner 0 ++
        s.spanBad p.job 1 (p.lo 1) 0 (rowsSpan n (stride64 size) size) ++ s.spanBad p.job 1 (p.hi 1) 0 (48 * n * x.params.width) ++
        s.sendBufBad p.job (s.ownIndex.getD 0) 2 size x

/-- The gated row of COMBINE_GRAD: each element times the slot's GATE, rounded once (R197). -/
def gatedRow (p : Pkt) (x : Plan) (c : Choice) (bs : List Byte) : List Byte :=
  if p.bit 0 20 then
    rowEncode (p.f 0 19 16) ((ovMode (p.f 0 22 21)).getD .sat)
      ((rowValues (p.f 0 19 16) x.params.width bs).map fun v => (f32Val (x.gateOf c)).mul v)
  else bs

/-- COMBINE_GRAD's effect. -/
def combineGradEff (p : Pkt) (s : State) : State :=
  s.exchStart p (fun x s => ({ x with gradRec := p.hi 1 }, s.initRecords (p.hi 1) (x.tokens.length * x.params.width)))
    fun x s => s.sendRows x 2 (p.f 0 19 16) (p.lo 1) (gatedRow p x)

/-- COMBINE_GRAD: initialises the gradient records and sends output-gradient rows, gated on request, to the experts' owners (R197, R199). -/
def execCombineGrad (n : Nat) (s : State) : Host.Outcome State Fault Refusal := s.command n (isOp 0x0305) combineGradBad combineGradEff

/-! ### COMBINE and DISPATCH_GRAD -/

/-- Formats of an output, and of a residual (R195, R196, R297). -/
def outFmt (f : Nat) : Bool := f ≤ 3 || f = 9
/-- Residual formats. -/
def resFmt (f : Nat) : Bool := f ≤ 1 || f = 9

/-- What refuses a COMBINE or a DISPATCH_GRAD. -/
def gatherBad (p : Pkt) (s : State) : List Bad :=
  exchStateBad p s ++
    match p.exchPlan s with
    | none => []
    | some x =>
      let fmt := p.f 0 19 16
      let w := x.params.width
      let size := rowSize fmt w
      let stride := p.f 1 63 32
      let n := x.tokens.length
      let dsize := rowSize (p.f 0 23 20) w
      let rsize := rowSize (p.f 0 31 28) w
      mal 0 (!outFmt fmt || !outFmt (p.f 0 23 20) || p.f 0 25 24 = 3 || (p.hi 2 != 0 && !resFmt (p.f 0 31 28))) ++ mal 1 (stride < size) ++
        mal 3 (p.bit 0 26 && badStream (p.f 3 31 0)) ++
        s.spanBad p.job 1 (p.lo 1) 0 (rowsSpan (x.local_.length * x.params.cap) stride size) ++
        s.spanBad p.job 2 (p.lo 2) 0 (rowsSpan n (stride64 dsize) dsize) ++
        (if p.hi 2 = 0 then [] else s.spanBad p.job 2 (p.hi 2) 0 (rowsSpan n (stride64 rsize) rsize)) ++
        s.spanBad p.job 0 (if p.op = 0x0303 then x.combineRec else x.gradRec) 0 (48 * n * w) ++
        s.sendBufBad p.job (s.ownIndex.getD 0) (exchKind p.op) size x

/-- The effect of a COMBINE or a DISPATCH_GRAD. -/
def gatherEff (p : Pkt) (s : State) : State :=
  s.exchStart p (fun x s => (x, s)) fun x s => s.sendBack x (exchKind p.op) (p.f 0 19 16) (p.f 1 63 32) (p.lo 1)

/-- COMBINE: sends every accepted row to its token's holder, which adds it, gated, to its records; the token rows are then read out once
(R192, R193, R195, R196, R199, R232). -/
def execCombine (n : Nat) (s : State) : Host.Outcome State Fault Refusal := s.command n (isOp 0x0303) gatherBad gatherEff

/-- DISPATCH_GRAD: sends every input-gradient row to its token's holder, which adds it, without a gate, to its records (R198, R199, R232). -/
def execDispatchGrad (n : Nat) (s : State) : Host.Outcome State Fault Refusal := s.command n (isOp 0x0304) gatherBad gatherEff

/-! ### What the completion of these commands does to their plan (R189, R198, R199) -/

/-- A plan's state after one of its commands completes, whatever its status; DISPATCH_GRAD, and COMBINE with RETIRE, retire it. A ROUTE_PLAN that ends
with its plan made, though its log or index could not be written, leaves it PLANNED; one that ends otherwise leaves no plan (R186, R199). -/
def State.planMoves (s : State) (g : Prog) : State :=
  let job := g.ring / 4
  match g.work with
  | .plan tag =>
    match s.plan job tag, g.outcome with
    | some x, some o =>
      if x.ring = g.ring && x.at_ = g.at_ then
        (if o.status < 0x0200 || o.status = stAbsent then s.setPlan { x with st := .planned } else s.dropPlan x)
      else s
    | _, _ => s
  | .exch tag =>
    match s.plan job tag with
    | none => s
    | some x =>
      let x := { x with busy := false, arrived := [], staged := [], bad := [] }
      match exchKind (phOp g.hdr) with
      | 0 => s.setPlan { x with st := .dispatched }
      | 1 => if g.pkt.bit 0 27 then s.dropPlan x else s.setPlan { x with st := .combined }
      | 2 => s.setPlan { x with st := .gradSent }
      | _ => s.dropPlan x
  | _ => s

end Sys2Proof.Machine
end

