-- ==== Sys2Proof/Machine/FarOps.lean ====
section
/-! DEFINITION. Far flows as commands use them (R247, R258 to R261). -/

namespace Sys2Proof.Machine

/-- Command far flows in use. -/
def State.farInUse (s : State) : Nat := (s.net.farFlows.filter fun f => farCmdBase ≤ f.1).length

/-- The lowest free context among the command far flows. -/
def State.farFree (s : State) : Option Nat :=
  if s.farInUse < farCmdCount then
    ((0 :: (s.net.farFlows.filter fun f => farCmdBase ≤ f.1).map fun f => f.1 + 1 - farCmdBase).find? fun i =>
      i < farCmdCount && !s.net.farFlows.has (farCmdBase + i)).map (farCmdBase + ·)
  else none

/-- Send bytes on a far flow, in packets of the path's size, of which the last carries LAST (R259, R260). -/
def State.farBytes (s : State) (ctx typ : Nat) (x : FarName) (bs : List Byte) : State :=
  let n := s.farSegment ctx
  let ps := pieces (bs.length + 1) n bs
  let cmd := (s.net.farFlows.get? ctx).bind (·.cmd)
  ps.zipIdx.foldl (fun s b => s.farSendFor ctx typ (b.2 + 1 = ps.length) { x with poison := x.poison / 2 ^ (b.2 * n / 64) % 2 ^ (ceilDiv n 64) } b.1 none cmd) s

/-- Open a command far flow to an endpoint in a class, or none when every context is in use (R259). -/
def State.farOpen (s : State) (cmd : Nat × Nat) (ep cls : Nat) : Option State :=
  s.farFree.map fun ctx =>
    (s.setNet { s.net with farFlows := s.net.farFlows.put ctx (FarFlow.opened ep cls (some cmd) s.now) }).farSend ctx 9 []

/-- Open the command far flows to several endpoints, or none. -/
def State.farOpens (s : State) (cmd : Nat × Nat) (eps : List Nat) (cls : Nat) : Option State :=
  eps.foldl (fun acc e => acc.bind fun s => s.farOpen cmd e cls) (some s)

/-- The far flow of a command to an endpoint. -/
def State.farCtx (s : State) (cmd : Nat × Nat) (ep : Nat) : Option Nat :=
  (s.net.farFlows.find? fun f => f.2.cmd = some cmd && f.2.ep = ep).map (·.1)

/-- The bit of a window entry that grants a kind of message, by the message's code. -/
def grantBit (code : Nat) : Nat := 28 - code

/-- The window at an endpoint that grants a kind of message, as the grant mirror shows it; 0 when it shows none. -/
def State.farWindowOf (s : State) (ep code : Nat) : Nat :=
  if 3 ≤ code then 0
  else ((s.net.mirror.find? fun e => e.1 / 4096 = 256 + ep && e.2.getLsbD 40 && e.2.getLsbD (grantBit code)).map fun e => e.1 % 4096).getD 0

/-- A message for an endpoint on a command's far flow: WINDOW names the window that grants its kind, and OFFSET is its code (log 19). -/
def State.farMsg (s : State) (cmd : Nat × Nat) (ep code : Nat) (bs : List Byte) : State :=
  match s.farCtx cmd ep with
  | none => s
  | some c => s.farBytes c 5 { FarName.bare with window := s.farWindowOf ep code, ofs := code } bs

/-- The command far flows of a command close as it completes (R259). -/
def State.farCloses (s : State) (cmd : Nat × Nat) : State :=
  let mine := s.net.farFlows.filter fun f => f.2.cmd = some cmd
  let s := mine.foldl (fun s f =>
    s.toPort f.2.ep f.2.cls 10 f.2.nextTx (s.farHeader 10 f.2.cls 2 f.1 f.2.nextTx f.2.ack FarName.bare []) []) s
  s.setNet { s.net with farFlows := s.net.farFlows.keep fun _ f => f.cmd != some cmd }

/-- FLOW_TABLE_FULL. -/
def stFlowFull : Nat := 0x0204

/-- The far transport's engine. -/
def engFar : Nat := 4

/-- A command whose take was granted is refused all the same: it gives back what it took (R162, R259). -/
def State.giveBack (s : State) (p : Pkt) (bufs : List Nat) (status : Nat) (d : BitVec 32) : State :=
  let s := s.failed p status d
  if bufs.isEmpty then s else s.releaseTaken bufs

/-- Open what far flows a command needs, take the far transport's buffers for their windows, which the command holds until it completes, and go on; or end
with FLOW_TABLE_FULL or the take's refusal, and no effect (R159, R162, R259). How many buffers a flow's windows take is not stated (log 216). -/
def State.withFar (s : State) (p : Pkt) (bufs eps : List Nat) (cls : Nat) (go : State → State) : State :=
  match s.farOpens (p.ring, p.at_) eps cls with
  | none => s.giveBack p bufs stFlowFull (detailWord 0x10 s.farInUse)
  | some t =>
    if eps.isEmpty || p.admin then go t
    else
      let step := ((s.cmd.jobs.get? p.job).map (·.step)).getD 0
      let r := reqIndex p.job engFar
      let (k, u) := t.quayTake r (eps.length * Config.farWindow) [] step
      if k.status != 0 then (s.setReq r (u.req r)).giveBack p bufs k.status k.detail
      else
        let u := match k.warned with
          | some d => u.updProg p.ring p.at_ fun g => { g with note := g.note ||| noteWarn, noteDetail := d }
          | none => u
        (go u).updProg p.ring p.at_ fun g => { g with taken := g.taken ++ k.descs.map fun d => (d, 255) }

end Sys2Proof.Machine
end

