-- ==== Sys2Proof/Machine/CollOps.lean ====
section
/-! DEFINITION. Slices, block exponents, digits, shards, masks, result shards and the end of SCALE_AGREE and REDUCE (R204 to R221). -/

namespace Sys2Proof.Machine

/-! ### Participants (R208, R298) -/

/-- Far endpoints that a packet lists in a word, first in [7:0]. -/
def Pkt.farList (p : Pkt) (word n : Nat) : List Nat := (List.range (min n 8)).map fun i => p.f word (8 * i + 7) (8 * i)
/-- Participant indices in rank order: modules, then far participants from 128. -/
def Pkt.rankList (p : Pkt) (word nfar : Nat) : List Nat := maskModules (p.parts word) ++ (List.range (min nfar 8)).map (128 + ·)

/-- What is wrong with PARTICIPANTS: the mask, the number of far participants, a far endpoint that does not exist; or no context is left for
the far flows (R259, R298). -/
def State.partsBad (s : State) (p : Pkt) (maskWord nfarWord nfar listWord : Nat) : List Bad :=
  s.maskBad p maskWord ++ mal nfarWord (8 < nfar) ++
    mal listWord ((p.farList listWord nfar).any (fun e => !s.net.farEps.has e) || !(p.farList listWord nfar).Nodup) ++
    refuseIf (nfar != 0 && farCmdCount < s.farInUse + nfar) stFlowFull (detailWord 0x10 s.farInUse)

/-- A participant of a collective is present. -/
def State.partPresent (s : State) (me : Nat) (far : List Nat) (q : Nat) : Bool :=
  q = me || (if q < 128 then s.peerPresent q else s.farPresent (far.getD (q - 128) 0))

/-- A job's window allows collective messages from a participant: a module, or some far endpoint (R256). -/
def State.collAllowed (s : State) (job src : Nat) : Bool :=
  if src < 128 then s.grants job src (·.coll)
  else s.net.windows.any fun w => w.2.job = job && w.2.farEp.isSome && w.2.coll && s.cmd.jobs.has job

/-- Send a message to a participant: a message for a module, bytes for a far endpoint; nothing to this module or to an absent one. -/
def State.tellPart (s : State) (cmd : Nat × Nat) (job cls me : Nat) (far : List Nat) (q : Nat) (o : Out) (bs : List Byte) : State :=
  if q = me || !s.partPresent me far q then s
  else if q < 128 then s.sendMsg q cls job (some cmd) o
  else s.farMsg cmd (far.getD (q - 128) 0) 2 bs

/-- Whole buffers of a requester's pool that hold `n` bytes (DESIGN CHOICE, log 20: R221 does not say how a take's bytes become buffers). -/
def State.buffersFor (s : State) (r n : Nat) : Nat :=
  let size := (((s.req r).pool.bind fun i => s.quay.pools.get? i).map Pool.bytes).getD 4096
  ceilDiv n size

/-! ### Slices (R207) -/

/-- One slice list entry. -/
structure Slice where
  handle : BitVec 32
  ofs : Nat
  granule : Nat
  kind : Nat
  spare : Nat
  deriving DecidableEq, Repr

/-- A slice list entry from its 16 bytes. -/
def sliceOf (bs : List Byte) : Slice :=
  let x := leNat bs
  { handle := BitVec.ofNat 32 (bitsOf x 127 96), ofs := bitsOf x 95 48, granule := bitsOf x 47 36, kind := bitsOf x 35 35, spare := bitsOf x 34 0 }

/-- Bytes of an element. -/
def Slice.size (l : Slice) : Nat := if l.kind = 0 then 4 else 48

/-- The entries of a slice list. -/
def slicesOf (n : Nat) (bs : List Byte) : List Slice := (List.range n).map fun i => sliceOf ((bs.drop (16 * i)).take 16)

/-- The slice list as it stands in memory. -/
def State.slicesAt (s : State) (h : BitVec 32) (n : Nat) : List Slice := slicesOf n (s.mem.read (berthKey (handleIndex h) 0) (16 * n))

/-- Numbers strictly ascend. -/
def ascending (l : List Nat) : Bool := (l.zip l.tail).all fun x => x.1 < x.2

/-- What is wrong with a slice list (R207, R208). -/
def State.sliceBad (s : State) (p : Pkt) (word : Nat) (h : BitVec 32) (ns n tokens : Nat) (grad : Option (BitVec 32)) : List Bad :=
  mal word (4096 < ns || (ns = 0 && tokens != 0)) ++
    if ns = 0 then (if h = 0 then [] else s.handleBad p.job word h)
    else
      match s.spanBad p.job word h 0 (16 * ns) with
      | b :: bs => b :: bs
      | [] =>
        let sls := s.slicesAt h ns
        let count := ((s.cmd.jobs.get? p.job).map fun j => j.granules.length).getD 0
        refuseIf (s.mem.poisoned (berthKey (handleIndex h) 0) (16 * ns)) stUncorrectable 0 ++
          mal word (!ascending (sls.map (·.granule)) || sls.any fun l =>
            l.spare != 0 || count ≤ l.granule || (l.kind = 1 && l.ofs % 16 != 0) || grad.any (· != l.handle)) ++
          sls.flatMap fun l => s.spanBad p.job word l.handle l.ofs (n * l.size)

/-- The exact values of a slice's elements. -/
def Slice.vals (l : Slice) (n : Nat) (bs : List Byte) : List Val :=
  (List.range n).map fun i =>
    let b := (bs.drop (l.size * i)).take l.size
    if l.kind = 0 then f32Val (BitVec.ofNat 32 (leNat b))
    else (LaEntry.ofBits (BitVec.ofNat 320 (leNat (b.take 40))) (BitVec.ofNat 64 (leNat (b.drop 40)))).val

/-- Read the slices: their values, and the status of the reads when it is not OK. -/
def State.readSlices (s : State) (sls : List Slice) (n : Nat) : List (Slice × List Val) × Option Nat × State :=
  sls.foldl (fun (acc : List (Slice × List Val) × Option Nat × State) l =>
    let (g, s) := acc.2.2.readSpan none l.handle l.ofs (n * l.size)
    (acc.1 ++ [(l, l.vals n g.data)], acc.2.1 <|> g.status, s)) ([], none, s)

/-! ### Block exponents (R209, R210) -/

/-- ZERO. -/
def wordZero : BitVec 16 := 0x8000#16
/-- NAN. -/
def wordNan : BitVec 16 := 0x7FFF#16
/-- Is the word an exponent? -/
def wordExp (w : BitVec 16) : Bool := w != wordZero && w != wordNan
/-- The later of two words in the order ZERO < every exponent < NAN. -/
def wordMax (a b : BitVec 16) : BitVec 16 := if a.slt b then b else a
/-- The word of one value. -/
def wordOf (v : Val) : BitVec 16 :=
  match v with
  | .fin _ m e => if m = 0 then wordZero else BitVec.ofInt 16 ((m.log2 : Int) + e)
  | _ => wordNan
/-- The block exponent of some values. -/
def blockWord (vs : List Val) : BitVec 16 := vs.foldl (fun w v => wordMax w (wordOf v)) wordZero
/-- Blocks of a tensor. -/
def blocksIn (n : Nat) : Nat := ceilDiv n 32
/-- The block exponents of several slices. -/
def blockWords (n : Nat) (sls : List (Slice × List Val)) : List (BitVec 16) :=
  (List.range (blocksIn n)).map fun b => blockWord (sls.flatMap fun l => (l.2.drop (32 * b)).take 32)

/-! ### Digits and sums (R215 to R217) -/

/-- X: the exponent of the weight of an agreed exponent. -/
def scaleExp (ss32 : Bool) (w : BitVec 16) : Int := w.toInt - (if ss32 then 30 else 6)
/-- The clamp. -/
def digitMax (ss32 : Bool) : Nat := if ss32 then 2 ^ 31 - 1 else 127

/-- One digit, and whether the element is counted as SCALE_EXCEEDED. -/
def digitOf (ss32 : Bool) (w : BitVec 16) (rnd : RndMode) (v : Val) : Int × Bool :=
  let lim := digitMax ss32
  let sgn := fun (neg : Bool) (k : Nat) => if neg then -(k : Int) else k
  match v with
  | .nan => (0, true)
  | .inf neg => (sgn neg lim, true)
  | .fin neg m e =>
    if m = 0 then (0, false)
    else if w.toInt < (m.log2 : Int) + e then (sgn neg lim, true)
    else
      let d := e - scaleExp ss32 w
      (sgn neg (min lim (roundQuot (m * pow2 d) (pow2 (-d)) rnd)), false)

/-- ⌈log2 n⌉. -/
def clog2 (n : Nat) : Nat := if n ≤ 1 then 0 else (n - 1).log2 + 1
/-- The width of sums over `n` slices. -/
def sumWidth (ss32 : Bool) (n : Nat) : Nat := (if ss32 then 32 else 8) + clog2 n

/-- The sums of all elements, and the number counted as SCALE_EXCEEDED. -/
def sumsOf (ss32 : Bool) (n : Nat) (words : List (BitVec 16)) (seed step : W64) (tag : Nat) (sls : List (Slice × List Val)) : List Int × Nat :=
  let ds := (List.range n).map fun i =>
    let w := words.getD (i / 32) wordZero
    if !wordExp w then ((0 : Int), 0)
    else sls.foldl (fun (acc : Int × Nat) l =>
      let rnd := if ss32 then RndMode.rne else .sr (randomWord seed step (0x10000000 + l.1.granule * 2 ^ 16 + tag) i)
      let (d, x) := digitOf ss32 w rnd (l.2.getD i (.fin false 0 0))
      (acc.1 + d, acc.2 + if x then 1 else 0)) (0, 0)
  (ds.map (·.1), (ds.map (·.2)).sum)

/-- A block of 32 sums on the wire. -/
def packSums (w : Nat) (ds : List Int) : List Byte :=
  leBytes (4 * w) (ds.zipIdx.map fun d => (d.1 % ((2 ^ w : Nat) : Int)).toNat * 2 ^ (w * d.2)).sum
/-- A sum of a block on the wire. -/
def unpackSum (w : Nat) (bs : List Byte) (j : Nat) : Int :=
  let x := leNat bs / 2 ^ (w * j) % 2 ^ w
  if 2 ^ (w - 1) ≤ x then (x : Int) - (2 ^ w : Nat) else x

/-! ### Shards (R212) -/

/-- The key of a collective in progress. -/
def collKey (job tag : Nat) (reduce : Bool) : Nat := job * 2 ^ 17 + tag * 2 + (if reduce then 1 else 0)
/-- This collective's key. -/
def Coll.key (c : Coll) : Nat := collKey c.job c.tag c.reduce
/-- The collective in progress. -/
def State.collOf (s : State) (job tag : Nat) (reduce : Bool) : Option Coll := s.coll.colls.get? (collKey job tag reduce)
/-- Store a collective in progress. -/
def State.setCollOf (s : State) (c : Coll) : State := s.setColl { s.coll with colls := s.coll.colls.put c.key c }

/-- The first block of shard `i` of `p`, of a tensor with `b` blocks; also the end of shard `i` - 1. -/
def shardLo (b p i : Nat) : Nat := i * b / p
/-- The blocks of a shard: first, and one after the last. -/
def Coll.range (c : Coll) (i : Nat) : Nat × Nat :=
  (shardLo (blocksIn c.n) c.parts.length i, shardLo (blocksIn c.n) c.parts.length (i + 1))
/-- The number of elements in blocks from `lo` up to `hi`. -/
def blockElems (n lo hi : Nat) : Nat := min (32 * hi) n - min (32 * lo) n
/-- The blocks from `lo` up to `hi` that carry a payload. -/
def paidBlocks (words : List (BitVec 16)) (lo hi : Nat) : List Nat :=
  ((List.range (hi - lo)).map (lo + ·)).filter fun b => wordExp (words.getD b wordZero)
/-- The participant that reduces a shard now (R214). -/
def Coll.reducerOf (c : Coll) (i : Nat) : Nat := (c.moved.get? i).getD (c.parts.getD i 0)

/-- This module's payload for a shard. -/
def Coll.payload (c : Coll) (i : Nat) : List Byte :=
  let (lo, hi) := c.range i
  if c.self.empty then []
  else if c.reduce then
    (paidBlocks c.words lo hi).flatMap fun b => packSums c.self.width ((List.range 32).map fun j => c.sums.getD (32 * b + j) 0)
  else ((c.words.drop lo).take (hi - lo)).flatMap fun w => leBytes 2 w.toNat

/-- The announcement on the wire (R220). -/
def announceBytes (tag : Nat) (a : Announce) : List Byte :=
  leBytes 2 tag ++ leBytes 1 a.src ++ leBytes 1 a.kind ++ leBytes 1 a.width ++ leBytes 1 (if a.empty then 1 else 0) ++ leBytes 2 a.nslice ++
    leBytes 8 a.tokens ++ leBytes 8 a.n ++ leBytes 4 a.step.toNat ++ leBytes 8 a.gcrc.toNat ++ zeros 28 ++
    leBytes 512 (a.granules.map (2 ^ ·)).sum

/-- A contribution reaches this module: its announcement, and all of its payload or not yet (R212, R213). -/
def Coll.arrive (c : Coll) (i : Nat) (a : Announce) (payload : List Byte) (whole : Bool) : Coll :=
  let k := i * 256 + a.src
  let shut := c.closed.contains i && !((c.masks.getD i []).contains a.src)
  let c := { c with ann := c.ann.put a.src a }
  if c.got.has k || !c.parts.contains a.src then c
  else if shut || !whole then { c with late := if c.late.contains k then c.late else k :: c.late }
  else { c with got := c.got.put k payload, late := c.late.filter (· != k) }

/-- This module's contribution to a shard goes to its reducer (R212, R214). -/
def State.contribute (s : State) (c : Coll) (i : Nat) : Coll × State :=
  let q := c.reducerOf i
  if !c.awaited.contains c.me then (c, s)
  else if q = c.me then (c.arrive i c.self (c.payload i) true, s)
  else (c, s.tellPart (c.ring, c.at_) c.job clsCollective c.me c.far q (.contribution q c.job i c.tag c.self (c.payload i))
    (announceBytes c.tag c.self ++ c.payload i))

/-- A set of participants as 136 bits. -/
def partBits (l : List Nat) : Nat := (l.dedup.map (2 ^ ·)).sum

/-- A shard's arrival mask is fixed here and goes to every participant (R212 to R214). -/
def State.sendMask (s : State) (c : Coll) (i : Nat) (mask late : List Nat) : Coll × State :=
  ({ c with closed := if c.closed.contains i then c.closed else i :: c.closed, masks := c.masks.put i mask, lateAt := c.lateAt.put i late },
    c.parts.foldl (fun s q => s.tellPart (c.ring, c.at_) c.job clsSignal c.me c.far q (.arrivalMask q c.job c.tag c.reduce i mask late)
      (leBytes 17 (partBits mask) ++ leBytes 17 (partBits late))) s)

/-- Close a shard (R212, R213). -/
def State.closeShard (s : State) (c : Coll) (i : Nat) : Coll × State :=
  s.sendMask c i (c.awaited.filter fun q => c.got.has (i * 256 + q)) (c.parts.filter fun q => c.late.contains (i * 256 + q))

/-! ### Results (R210, R218) -/

/-- The present contributors of a shard that carry values, with their announcements and payloads. -/
def Coll.values (c : Coll) (pres : List Nat) (i : Nat) : List (Announce × List Byte) :=
  pres.filterMap fun q =>
    match c.ann.get? q with
    | some a => if a.empty then none else (c.got.get? (i * 256 + q)).map fun b => (a, b)
    | none => none

/-- The token count of the present contributors. -/
def Coll.tokensOf (c : Coll) (pres : List Nat) : Nat := (pres.map fun q => ((c.ann.get? q).map (·.tokens)).getD 0).sum

/-- One result element: its encoding, and whether it overflowed. -/
def resultElem (rfmt : Nat) (mode : OvMode) (v : Val) (d : Nat) : Nat × Bool :=
  if rfmt = 10 then ((pairOf mode v d).1, (pairOf mode v d).2.1)
  else
    match fform rfmt, v with
    | some f, .fin neg m e => let r := f.round mode .rne neg m d e; (r.bits, r.ov)
    | _, _ => let r := convertTo rfmt mode .rne v; (r.bits, r.ov)

/-- Bytes of a result element. -/
def resultBytes (rfmt : Nat) : Nat := elemBits rfmt / 8

/-- A shard of SCALE_AGREE: the maximum of the present words. -/
def Coll.agreeShard (c : Coll) (pres : List Nat) (i : Nat) : List Byte :=
  let (lo, hi) := c.range i
  let vs := c.values pres i
  (List.range (hi - lo)).flatMap fun b =>
    leBytes 2 (vs.foldl (fun w v => wordMax w (BitVec.ofNat 16 (leNat ((v.2.drop (2 * b)).take 2)))) wordZero).toNat

/-- A shard of REDUCE: its bytes, and the counts of LOW_LOST, NaN and saturation. -/
def Coll.reduceShard (c : Coll) (rfmt : Nat) (mode : OvMode) (mean : Bool) (pres : List Nat) (i : Nat) : List Byte × Nat × Nat × Nat :=
  let (lo, hi) := c.range i
  let vs := c.values pres i
  let d := c.tokensOf pres
  let paid := paidBlocks c.words lo hi
  let cells := ((List.range (hi - lo)).map (lo + ·)).flatMap fun b =>
    let w := c.words.getD b wordZero
    (List.range (blockElems c.n b (b + 1))).map fun j =>
      if d = 0 || w = wordZero then (LaEntry.init, false, (0, false))
      else if w = wordNan then (LaEntry.init, true, resultElem rfmt mode .nan 1)
      else
        let k := paid.idxOf b
        let e := vs.foldl (fun (e : LaEntry) v =>
          e.add (.scaled (unpackSum v.1.width ((v.2.drop (4 * v.1.width * k)).take (4 * v.1.width)) j) (scaleExp (c.fmt = 1) w))) LaEntry.init
        (e, e.nan, resultElem rfmt mode e.val (if mean then d else 1))
  (cells.flatMap (fun x => leBytes (resultBytes rfmt) x.2.2.1), (cells.filter (·.1.lowLost)).length, (cells.filter (·.2.1)).length,
    (cells.filter (·.2.2.2)).length)

/-! ### The end (R213, R219, R393) -/

/-- Three result words of a set of participants. -/
def partWords (l : List Nat) : List W64 := (List.range 3).map fun i => BitVec.ofNat 64 (partBits l / 2 ^ (64 * i))

/-- Contributors late at some reducer, as this module knows. -/
def Coll.lates (c : Coll) : List Nat :=
  let l := c.late.map (· % 256) ++ (c.lateAt.valList.flatMap id)
  c.parts.filter fun q => l.contains q && !((c.present.map (·.1)).getD []).contains q

/-- Present, missing, late and present-empty contributors. -/
def Coll.sets (c : Coll) : List Nat × List Nat × List Nat × List Nat :=
  let pres := (c.present.map (·.1)).getD []
  (pres, c.parts.filter (fun q => !pres.contains q), c.lates, pres.filter fun q => (c.ann.get? q).any (·.empty))

/-- The format that SCALE_AGREE reaches: SS32, by name or by AUTO below RARE_TOKENS (R210, R211). -/
def Coll.reaches (c : Coll) (rare : Nat) : Bool :=
  if c.reduce then c.fmt = 1 else c.fmt = 1 || (c.fmt = 2 && c.tokensOf ((c.present.map (·.1)).getD []) < rare)

/-- The collective entry of the step record (R393). -/
def Coll.entry (c : Coll) (rare : Nat) : List Byte :=
  let (pres, miss, late, empty) := c.sets
  leBytes 2 (if c.reduce then 0x0401 else 0x0405) ++ leBytes 2 c.tag ++ leBytes 1 (if c.reaches rare then 1 else 0) ++ zeros 3 ++
    leBytes 17 (partBits pres) ++ leBytes 17 (partBits miss) ++ leBytes 17 (partBits late) ++ leBytes 17 (partBits empty) ++ zeros 4

/-- The collective is over: its outcome is set, its entry logged, and a REDUCE ends its agreement (R210, R393). -/
def State.collEnd (s : State) (c : Coll) (o : Outc) : State :=
  let s := s.conclude c.ring c.at_ o
  let s := match s.cmd.jobs.get? c.job with
    | none => s
    | some j => s.setCmd { s.cmd with jobs := s.cmd.jobs.put c.job { j with collLog := j.collLog ++ [(c.ring % 4, c.at_, c.entry j.rare)] } }
  s.setColl { s.coll with colls := s.coll.colls.drop c.key,
                          agrees := if c.reduce then s.coll.agrees.drop (c.job * 2 ^ 16 + c.tag) else s.coll.agrees }

/-- The present set: in every reducer's mask. -/
def Coll.meet (c : Coll) : List Nat := c.awaited.filter fun q => c.masks.valList.all (·.contains q)

/-- Present announcements that do not fit together: granules that overlap, or CRCs or sizes that differ (R205, R219). -/
def Coll.clash (c : Coll) (pres : List Nat) : Bool :=
  let anns := pres.filterMap fun q => c.ann.get? q
  !(anns.flatMap (·.granules)).Nodup || anns.any fun a => anns.any fun b => a.gcrc != b.gcrc || a.n != b.n

/-- Every participant's results are held: SCALE_AGREE and REDUCE complete (R210, R218, R219). -/
def State.collFinish (s : State) (p : Pkt) (c : Coll) : State :=
  let (pres, miss, late, empty) := c.sets
  let note := (if miss.isEmpty && late.isEmpty then 0 else noteMissing) ||| (if empty.isEmpty then 0 else noteEmpty) |||
    (if pres.contains c.me then 0 else noteSelf)
  let head := partWords pres ++ partWords miss ++ partWords late ++ partWords empty
  let all := List.range c.parts.length
  let data := fun (i : Nat) => (c.results.getD i ([], 0, 0, 0)).1
  let t := c.tokensOf pres
  if c.reduce then
    let scatter := p.bit 0 23
    let held := if scatter then all.filter fun i => c.reducerOf i = c.me else all
    let bytes := held.flatMap data
    if s.spanLost (p.lo 2) 0 bytes.length then s.collEnd c (Outc.of stAbsent 0)
    else
      let s := s.writeSpan none (p.lo 2) 0 bytes
      let count := fun (f : List Byte × Nat × Nat × Nat → Nat) => (held.map fun i => f (c.results.getD i ([], 0, 0, 0))).sum
      let (low, nan, sat) := (count (·.2.1), count (·.2.2.1), count (·.2.2.2))
      let note := note ||| (if t = 0 then noteZero else 0) ||| (if c.exceeded + low + nan + sat = 0 then 0 else noteArith)
      let first := (held.head?.map fun i => (c.range i).1).getD 0
      let blocks := (held.map fun i => (c.range i).2 - (c.range i).1).sum
      s.collEnd c { status := 0, note := note, detail := 0,
                    results := head ++ ([t, c.exceeded, low, nan, sat] ++ (if scatter then [first, blocks] else [])).map (BitVec.ofNat 64 ·) }
  else
    let bytes := all.flatMap data
    let h := p.lo 7
    if h != 0 && s.spanLost h 0 bytes.length then s.collEnd c (Outc.of stAbsent 0)
    else
      let s := if h = 0 then s else s.writeSpan none h 0 bytes
      let ss32 := c.reaches (((s.cmd.jobs.get? c.job).map (·.rare)).getD 0)
      let a : Agree :=
        { job := c.job, tag := c.tag, n := c.n, parts := c.parts, far := c.far,
          words := (List.range (blocksIn c.n)).map fun b => BitVec.ofNat 16 (leNat ((bytes.drop (2 * b)).take 2)),
          present := pres, ann := c.ann.keep fun q _ => pres.contains q, total := t, ss32 := ss32, slices := c.slices,
          tokens := c.self.tokens, bindingKey := c.binding, used := false }
      let s := s.collEnd c { status := 0, note := note, detail := 0, results := head ++ [BitVec.ofNat 64 t, if ss32 then 1 else 0] }
      s.setColl { s.coll with agrees := s.coll.agrees.put (c.job * 2 ^ 16 + c.tag) a }

/-- Close every shard here whose awaited contributions have all arrived. -/
def State.collClose (s : State) (c : Coll) : Coll × State :=
  c.shards.keyList.foldl (fun (x : Coll × State) i =>
    if x.1.closed.contains i || !(x.1.awaited.all fun q => x.1.got.has (i * 256 + q)) then x else x.2.closeShard x.1 i) (c, s)

/-- Reduce every shard here whose present contributions are all held, and send its result. -/
def State.collReduce (s : State) (p : Pkt) (c : Coll) (pres : List Nat) : Coll × State :=
  c.shards.keyList.foldl (fun (x : Coll × State) i =>
    let (c, s) := x
    if c.results.has i || c.reducerOf i != c.me || !(pres.all fun q => c.got.has (i * 256 + q)) then x
    else
      let r := if c.reduce then c.reduceShard (p.f 0 19 16) ((ovMode (p.f 0 21 20)).getD .sat) (p.bit 0 22) pres i
        else (c.agreeShard pres i, 0, 0, 0)
      let c := { c with results := c.results.put i r }
      if c.reduce && p.bit 0 23 then (c, s)
      else (c, c.parts.foldl (fun s q => s.tellPart (c.ring, c.at_) c.job clsCollective c.me c.far q
        (.resultShard q c.job c.tag c.reduce i r.1 r.2.1 r.2.2.1 r.2.2.2) (r.1 ++ leBytes 8 r.2.1 ++ leBytes 8 r.2.2.1 ++ leBytes 8 r.2.2.2)) s))
    (c, s)

/-- Go on as far as what has arrived allows: close shards, form the present set, reduce, and complete (R212 to R219). -/
def State.collRun (s : State) (c : Coll) : State :=
  match s.prog c.ring c.at_ with
  | none => s.setCollOf c
  | some g =>
    let (c, s) := s.collClose c
    let c := if c.present.isNone && (List.range c.parts.length).all c.masks.has then { c with present := some (c.meet, s.now) } else c
    match c.present with
    | none => s.setCollOf c
    | some (pres, _) =>
      if c.clash pres then s.collEnd c (Outc.of stMalformed 0)
      else
        let (c, s) := s.collReduce g.pkt c pres
        let need := (List.range c.parts.length).filter fun i => !(c.reduce && g.pkt.bit 0 23) || c.reducerOf i = c.me
        if need.all c.results.has then s.collFinish g.pkt c else s.setCollOf c

/-- A collective starts: this module's contributions go out, and what has been held for it is taken up (R212, R309). -/
def State.collStart (s : State) (c : Coll) : State :=
  let (c, s) := (List.range c.parts.length).foldl (fun (x : Coll × State) i => x.2.contribute x.1 i) (c, s)
  let con := fun (h : HeldCon) => h.job = c.job && h.tag = c.tag && (h.a.kind != 0) = c.reduce && h.a.step = c.self.step
  let msk := fun (h : HeldMask) => h.job = c.job && h.tag = c.tag && h.reduce = c.reduce
  let c := (s.coll.heldCon.filter con).foldl (fun (c : Coll) h => c.arrive h.shard h.a h.payload h.whole) c
  let c := (s.coll.heldMasks.filter msk).foldl (fun (c : Coll) h =>
    { c with masks := c.masks.put h.shard h.mask, lateAt := c.lateAt.put h.shard h.late }) c
  let s := s.setColl { s.coll with heldCon := s.coll.heldCon.filter (fun h => !con h), heldMasks := s.coll.heldMasks.filter fun h => !msk h }
  s.collRun c

end Sys2Proof.Machine
end

