-- ==== Sys2Proof/Machine/CollFamily.lean ====
section
/-! DEFINITION. SCALE_AGREE, REDUCE and what reaches them: contributions, deadlines, arrival masks, succession and result shards (R204 to
R221, R298). -/

namespace Sys2Proof.Machine

/-- The binding's key (R177) that SCALE_AGREE names. -/
def agreeBinding (p : Pkt) : Option Nat := if p.bit 5 40 then some (bindingKey p.job (p.f 6 11 0) (p.f 6 23 12)) else none

/-- A contribution's token count: the binding's STEP_TOKENS, or TOKENS (R208). -/
def State.agreeTokens (s : State) (p : Pkt) : Nat :=
  match agreeBinding p with
  | none => p.f 5 39 0
  | some k => ((s.exch.bindings.get? k).map (·.stepTokens)).getD 0

/-- A deadline out of its range. -/
def badDeadline (d : Nat) : Bool := d < 10 || 10000000 < d

/-- What refuses a SCALE_AGREE. -/
def scaleAgreeBad (p : Pkt) (s : State) : List Bad :=
  let n := p.f 0 63 24
  let tag := p.f 0 15 0
  let key := p.job * 2 ^ 16 + tag
  let b := (agreeBinding p).bind fun k => s.exch.bindings.get? k
  s.partsBad p 1 4 (p.f 4 3 0) 3 ++
    mal 0 (n = 0 || p.f 0 17 16 = 3 || s.coll.agrees.has key || s.coll.usedTags.contains key || (s.collOf p.job tag false).isSome) ++
    mal 6 (badDeadline (p.f 6 47 24) || ((agreeBinding p).isSome && b.isNone)) ++
    s.sliceBad p 4 (p.hi 4) (p.f 4 16 4) n (s.agreeTokens p) (b.map (·.gradHandle)) ++
    (if p.lo 7 = 0 then [] else s.spanBad p.job 7 (p.lo 7) 0 (2 * blocksIn n)) ++
    refuseIf (256 ≤ s.coll.agrees.length + (s.coll.colls.filter fun c => !c.2.reduce).length) stQuota (detailWord 0x0D 0)

/-- A collective as it is accepted. -/
def Coll.opened (p : Pkt) (j : Job) (reduce : Bool) (tag n : Nat) (parts far : List Nat) (me deadline now : Nat) : Coll :=
  { job := p.job, tag := tag, ring := p.ring, at_ := p.at_, reduce := reduce, parts := parts, far := far, me := me, n := n,
    deadline := deadline, ann := [], got := [], late := [], shards := [(parts.idxOf me, now)], closed := [], masks := [], lateAt := [],
    results := [], moved := [],
    self := { src := me, kind := 0, width := 0, empty := false, nslice := 0, tokens := 0, n := n, step := j.step.setWidth 32, gcrc := j.gcrc,
              granules := [] },
    words := [], slices := [], fmt := 0, binding := none, awaited := parts, present := none, sums := [], exceeded := 0 }

/-- What a contribution reads of its slices: nothing when its token count is 0, whatever they hold (R208). -/
def State.slicesFor (s : State) (tokens : Nat) (sls : List Slice) (n : Nat) : List (Slice × List Val) × Option Nat × State :=
  if tokens = 0 then (sls.map fun l => (l, []), none, s) else s.readSlices sls n

/-- SCALE_AGREE's effect. -/
def scaleAgreeEff (p : Pkt) (s : State) : State :=
  match s.cmd.jobs.get? p.job with
  | none => s
  | some j =>
    let n := p.f 0 63 24
    let tag := p.f 0 15 0
    let ns := p.f 4 16 4
    let tokens := s.agreeTokens p
    let (lg, s) := s.readSpan none (p.hi 4) 0 (16 * ns)
    let (vals, st, s) := s.slicesFor tokens (slicesOf ns lg.data) n
    match lg.status <|> st with
    | some st => s.failed p st 0
    | none =>
      let c := Coll.opened p j false tag n (p.rankList 1 (p.f 4 3 0)) (p.farList 3 (p.f 4 3 0)) (s.ownIndex.getD 0) (p.f 6 47 24) s.now
      let a := { c.self with empty := tokens = 0, nslice := ns, tokens := tokens, granules := vals.map (·.1.granule) }
      let c := { c with self := a, words := if tokens = 0 then [] else blockWords n vals, slices := vals.map fun v => (v.1.granule, v.1.kind),
                        fmt := p.f 0 17 16, binding := agreeBinding p }
      let np := c.parts.length
      let b := blocksIn n
      let mine := c.range (c.parts.idxOf c.me)
      let r := reqIndex p.job engColl
      let count := s.buffersFor r (576 * np + (if tokens = 0 then 0 else 2 * b)) + s.buffersFor r (np * (576 + 2 * (mine.2 - mine.1))) +
        s.buffersFor r (2 * b)
      s.taking p engColl count [] fun bufs s => s.withFar p bufs c.far clsCollective fun s =>
        let s := s.updProg p.ring p.at_ fun g => { g with taken := bufs.map fun d => (d, 255), work := .coll p.op tag }
        let s := s.setColl { s.coll with usedTags := (p.job * 2 ^ 16 + tag) :: s.coll.usedTags }
        s.collStart c

/-- SCALE_AGREE: computes block exponents and sends its contribution to every reducer (R207 to R214, R219 to R221). -/
def execScaleAgree (n : Nat) (s : State) : Host.Outcome State Fault Refusal := s.command n (isOp 0x0405) scaleAgreeBad scaleAgreeEff

/-- What refuses a REDUCE. -/
def reduceBad (p : Pkt) (s : State) : List Bad :=
  let tag := p.f 0 15 0
  let rfmt := p.f 0 19 16
  mal 0 (badDeadline (p.f 0 47 24) || !(rfmt = 0 || rfmt = 9 || rfmt = 10) || p.f 0 21 20 = 3 || (s.collOf p.job tag true).isSome) ++
    match s.coll.agrees.get? (p.job * 2 ^ 16 + tag) with
    | none => mal 0 true
    | some a =>
      let b := a.bindingKey.bind fun k => s.exch.bindings.get? k
      let own := s.ownIndex.getD 0
      let ns := p.f 1 12 0
      let r := a.parts.idxOf own
      let np := a.parts.length
      let nb := blocksIn a.n
      let elems := if p.bit 0 23 then blockElems a.n (shardLo nb np r) (shardLo nb np (r + 1)) else a.n
      mal 0 (a.bindingKey.isSome && b.isNone) ++ s.sliceBad p 1 (p.hi 1) ns a.n a.tokens (b.map (·.gradHandle)) ++
        mal 1 ((ns = 0 || (s.spanBad p.job 1 (p.hi 1) 0 (16 * ns)).isEmpty) && (s.slicesAt (p.hi 1) ns).map (fun l => (l.granule, l.kind)) != a.slices) ++
        s.spanBad p.job 2 (p.lo 2) 0 (elems * resultBytes rfmt) ++
        refuseIf (!a.far.isEmpty && farCmdCount < s.farInUse + a.far.length) stFlowFull (detailWord 0x10 s.farInUse)

/-- REDUCE's effect. -/
def reduceEff (p : Pkt) (s : State) : State :=
  match s.cmd.jobs.get? p.job, s.coll.agrees.get? (p.job * 2 ^ 16 + p.f 0 15 0) with
  | some j, some a =>
    let tag := p.f 0 15 0
    let ns := p.f 1 12 0
    let (lg, s) := s.readSpan none (p.hi 1) 0 (16 * ns)
    let (vals, st, s) := s.slicesFor a.tokens (slicesOf ns lg.data) a.n
    match lg.status <|> st with
    | some st =>
      -- the REDUCE completes, and the agreement ends with it (R210)
      let s := s.failed p st 0
      s.setColl { s.coll with agrees := s.coll.agrees.drop (p.job * 2 ^ 16 + p.f 0 15 0) }
    | none =>
      let c := Coll.opened p j true tag a.n a.parts a.far (s.ownIndex.getD 0) (p.f 0 47 24) s.now
      let w := sumWidth a.ss32 ns
      let sends := a.present.contains c.me && a.tokens != 0
      let (sums, exceeded) := if sends then sumsOf a.ss32 a.n a.words j.seed j.step tag vals else ([], 0)
      let self := { c.self with kind := if a.ss32 then 2 else 1, width := w, empty := a.tokens = 0, nslice := ns, tokens := a.tokens,
                                granules := vals.map (·.1.granule) }
      let c := { c with self := self, words := a.words, slices := a.slices, fmt := if a.ss32 then 1 else 0, binding := a.bindingKey,
                        awaited := a.present, sums := sums, exceeded := exceeded }
      let np := c.parts.length
      let nb := blocksIn a.n
      let mine := c.range (c.parts.idxOf c.me)
      let paid := (paidBlocks a.words mine.1 mine.2).length
      let recv := (a.ann.valList.map fun x => 576 + if x.empty then 0 else 4 * sumWidth a.ss32 x.nslice * paid).sum
      let stage := if a.present.contains c.me then 576 * np + (if sends then 4 * w * (paidBlocks a.words 0 nb).length else 0) else 0
      let r := reqIndex p.job engColl
      let count := s.buffersFor r stage + s.buffersFor r recv + (if p.bit 0 23 then 0 else s.buffersFor r (a.n * resultBytes (p.f 0 19 16)))
      s.taking p engColl count [] fun bufs s => s.withFar p bufs c.far clsCollective fun s =>
        (s.updProg p.ring p.at_ fun g => { g with taken := bufs.map fun d => (d, 255), work := .coll p.op tag }).collStart c
  | _, _ => s

/-- REDUCE: quantises slices at the agreed scale and sends sums to the reducers (R212 to R221). -/
def execReduce (n : Nat) (s : State) : Host.Outcome State Fault Refusal := s.command n (isOp 0x0401) reduceBad reduceEff

/-- Hold a contribution for a command not yet accepted (R309). -/
def State.holdCon (s : State) (h : HeldCon) : State :=
  s.setColl { s.coll with heldCon := (s.coll.heldCon.filter fun x =>
    !(x.job = h.job && x.shard = h.shard && x.tag = h.tag && x.a = h.a)) ++ [h] }

/-- CONTRIBUTION: an announcement and its payload, whole or not yet, reach a reducer (R205, R212, R213, R218, R219). One of an earlier step
is dropped. -/
def execContribution (job shard : Nat) (a : Announce) (tag : Nat) (payload : List Byte) (complete : Bool) (s : State) :
    Host.Outcome State Fault Refusal :=
  match s.cmd.jobs.get? job with
  | none => .next s
  | some j =>
    let ahead := (a.step - j.step.setWidth 32).toNat
    s.when (s.collAllowed job a.src && ahead < 2 ^ 31)
      (match s.collOf job tag (a.kind != 0) with
        | some c =>
          if a.step = c.self.step && shard < c.parts.length then s.collRun (c.arrive shard a payload complete)
          else if a.step = c.self.step then s
          else s.holdCon { job := job, shard := shard, tag := tag, a := a, payload := payload, whole := complete }
        | none => s.holdCon { job := job, shard := shard, tag := tag, a := a, payload := payload, whole := complete })

/-- Shards whose deadline has passed. -/
def State.dueShards (s : State) (c : Coll) : List Nat :=
  (c.shards.filter fun x => !c.closed.contains x.1 && s.after x.2 c.deadline).map (·.1)

/-- DEADLINE: the deadline closes this reducer's shard, and its arrival mask goes out (R212, R213). -/
def execDeadline (job tag : Nat) (reduce : Bool) (s : State) : Host.Outcome State Fault Refusal :=
  match s.collOf job tag reduce with
  | none => .next s
  | some c =>
    s.when (!(s.dueShards c).isEmpty)
      (let (c, s) := (s.dueShards c).foldl (fun (x : Coll × State) i => x.2.closeShard x.1 i) (c, s)
       s.collRun c)

/-- ARRIVAL_MASK: a reducer's mask arrives; a successor that was collecting it sends it on unchanged; with all masks held the present set
is formed (R212 to R214, R218, R219). -/
def execArrivalMask (job tag : Nat) (reduce : Bool) (shard : Nat) (mask late : List Nat) (s : State) : Host.Outcome State Fault Refusal :=
  match s.collOf job tag reduce with
  | none =>
    s.when (s.cmd.jobs.has job)
      (let h : HeldMask := { job := job, tag := tag, reduce := reduce, shard := shard, mask := mask, late := late }
       s.setColl { s.coll with heldMasks := s.coll.heldMasks ++ [h] })
  | some c =>
    s.when (shard < c.parts.length && !c.masks.has shard)
      (if c.shards.has shard then
        let (c, s) := s.sendMask c shard mask late
        s.collRun c
      else s.collRun { c with masks := c.masks.put shard mask, lateAt := c.lateAt.put shard late })

/-- The next present participant after a rank, in cyclic order (R214). -/
def State.successor (s : State) (c : Coll) (rank : Nat) : Option Nat :=
  (c.parts.drop (rank + 1) ++ c.parts.take rank).find? fun q => s.partPresent c.me c.far q

/-- SHARD_SUCCESSION: an absent reducer's shard passes to the next present participant, to which every participant sends the absent reducer's mask, where
it holds it, and every contributor resends; a successor that holds the mask or receives it sends it unchanged, and one that does not closes the shard itself. A present contributor that is absent cannot resend: the
command ends (R214). -/
def execShardSuccession (job tag : Nat) (reduce : Bool) (shard : Nat) (s : State) : Host.Outcome State Fault Refusal :=
  match s.collOf job tag reduce with
  | none => .next s
  | some c =>
    let q := c.reducerOf shard
    match s.successor c (c.parts.idxOf q) with
    | none => .next s
    | some r =>
      s.when (shard < c.parts.length && !s.partPresent c.me c.far q)
        (match (c.present.map (·.1)).getD [] |>.find? fun x => !s.partPresent c.me c.far x with
        | some x => s.collEnd c { Outc.peer stAbsent x with detail := if x < 128 then detailModule x else 0 }
        | none =>
          let s := match c.masks.get? shard with
            | some m =>
              s.tellPart (c.ring, c.at_) c.job clsSignal c.me c.far r (.arrivalMask r c.job c.tag c.reduce shard m (c.lateAt.getD shard []))
                (leBytes 17 (partBits m) ++ leBytes 17 (partBits (c.lateAt.getD shard [])))
            | none => s
          let (c, s) := s.contribute { c with moved := c.moved.put shard r } shard
          if r != c.me then s.setCollOf c
          else
            let c := { c with shards := c.shards.put shard s.now }
            match c.masks.get? shard with
            | some m =>
              let (c, s) := s.sendMask c shard m (c.lateAt.getD shard [])
              s.collRun c
            | none => s.collRun c)

/-- RESULT_SHARD: a result shard arrives; with every one held the collective completes (R210, R218, R219). -/
def execResultShard (job tag : Nat) (reduce : Bool) (shard : Nat) (payload : List Byte) (low nan sat : Nat) (s : State) :
    Host.Outcome State Fault Refusal :=
  match s.collOf job tag reduce with
  | none => .next s
  | some c =>
    s.when (shard < c.parts.length && !c.results.has shard && c.reducerOf shard != c.me)
      (s.collRun { c with results := c.results.put shard (payload, low, nan, sat) })

/-- The wait for result shards, or for the masks that precede them, has lasted the job's wait limit. -/
def State.resultLate (s : State) (c : Coll) : Bool :=
  let ms := ((s.cmd.jobs.get? c.job).map (·.waitMs)).getD 0
  match c.present with
  | some (_, t) => s.after t (1000 * ms)
  | none => c.shards.valList.all fun t => s.after t (c.deadline + 1000 * ms)

/-- RESULT_SHARD_TIMEOUT: a result shard has not arrived by the wait limit after the present set is known (R219); so too for an arrival mask
that has not arrived by that long after the deadline. -/
def execResultShardTimeout (job tag : Nat) (s : State) : Host.Outcome State Fault Refusal :=
  match (s.collOf job tag true) <|> (s.collOf job tag false) with
  | none => .next s
  | some c => s.when (s.resultLate c) (s.collEnd c (Outc.of stTimeout 0))

end Sys2Proof.Machine
end

