-- ==== Sys2Proof/Machine/SimpleFamily.lean ====
section
/-! DEFINITION. GATHER, BROADCAST, PERMUTE and BARRIER, their messages and their limit (R226, R227, R298, R299). -/

namespace Sys2Proof.Machine

/-! ### The commands in common -/

/-- Opcodes. -/
def opGather : Nat := 0x0402
/-- BROADCAST. -/
def opBroadcast : Nat := 0x0404
/-- PERMUTE. -/
def opPermute : Nat := 0x0403
/-- BARRIER. -/
def opBarrier : Nat := 0x0406

/-- The key of such a collective (R298). -/
def Simple.is (c : Simple) (job op tag : Nat) : Bool := c.job = job && c.opcode = op && c.tag = tag
/-- The collective in progress. -/
def State.simpleOf (s : State) (job op tag : Nat) : Option Simple := s.coll.simple.find? fun c => c.is job op tag
/-- The list without it. -/
def State.dropSimple (s : State) (c : Simple) : State :=
  s.setColl { s.coll with simple := s.coll.simple.filter fun d => !d.is c.job c.opcode c.tag }
/-- Store it. -/
def State.setSimple (s : State) (c : Simple) : State :=
  let s := s.dropSimple c
  s.setColl { s.coll with simple := s.coll.simple ++ [c] }

/-- It ends with an outcome; destination bytes that it did not finish writing are then undefined, and of a PERMUTE all that it was to receive (R227, R299;
log 2). -/
def State.simpleEnd (s : State) (c : Simple) (o : Outc) : State :=
  let s := (if c.opcode = opPermute then c.rows else c.due).foldl (fun s d => s.writeFree c.handle d.2.1 d.2.2) s
  (s.dropSimple c).conclude c.ring c.at_ o

/-- The class of its messages: a BARRIER's travel in the signal class (R254). -/
def simpleClass (op : Nat) : Nat := if op = opBarrier then clsSignal else clsCollective

/-- The bytes of a message for a far participant: its parameters, then its data (log 19). -/
def collBytes (m : CollMsg) : List Byte :=
  leBytes 8 m.length ++ leBytes 1 m.root ++ leBytes 1 m.far.length ++ zeros 6 ++ leBytes 16 m.parts.toNat ++ m.bytes.flatMap fun b => leBytes 8 b.1 ++ b.2

/-- Send a message to a participant. -/
def State.simpleTell (s : State) (c : Simple) (q : Nat) (m : CollMsg) : State :=
  s.tellPart (c.ring, c.at_) c.job (simpleClass c.opcode) c.me c.far q (.collective q c.job c.opcode c.tag m) (collBytes m)

/-- The message that carries this module's parameters. -/
def Simple.msg (c : Simple) (root : Nat) (bytes : List (Nat × List Byte)) : CollMsg :=
  { length := c.length, root := root, parts := c.mask, far := c.far, bytes := bytes }

/-- Do a message's parameters differ from this module's (R299)? A far endpoint's index is each module's own, so the number is compared. -/
def Simple.differs (c : Simple) (m : CollMsg) : Bool :=
  m.length != c.length || (c.opcode = opBroadcast && m.root != c.root) || m.parts != c.mask || m.far.length != c.far.length

/-- Everything has arrived: the command completes; a PERMUTE first tells the others that its new shard is written (R227, R299). -/
def State.simpleRun (s : State) (c : Simple) : State :=
  if !(c.parts.all fun q => q = c.me || c.got.contains q) || !c.due.isEmpty then s.setSimple c
  else if c.opcode != opPermute then (s.dropSimple c).conclude c.ring c.at_ (Outc.of 0 0)
  else
    let (c, s) :=
      if c.written.contains c.me then (c, s)
      else ({ c with written := c.me :: c.written }, c.parts.foldl (fun s q => s.simpleTell c q (c.msg 1 [])) s)
    if c.parts.all c.written.contains then (s.dropSimple c).conclude c.ring c.at_ (Outc.of 0 0) else s.setSimple c

/-- The bytes of a message that belong to a range still to come. -/
def Simple.bytesFor (c : Simple) (m : CollMsg) (d : Nat × Nat × Nat) : Option (List Byte) :=
  ((if c.opcode = opPermute then m.bytes.find? fun b => b.1 = d.2.1 else m.bytes.head?).map (·.2)).filter fun b => b.length = d.2.2

/-- A participant's message is applied (R299). -/
def State.simpleTake (s : State) (c : Simple) (src : Nat) (m : CollMsg) : State :=
  if c.opcode = opPermute && m.root = 1 then s.simpleRun { c with written := if c.written.contains src then c.written else src :: c.written }
  else if c.differs m then s.simpleEnd c (Outc.of stMalformed 0)
  else
    let (mine, rest) := c.due.partition fun d => d.1 = src && (c.bytesFor m d).isSome
    if mine.any fun d => s.spanLost c.handle d.2.1 d.2.2 then s.simpleEnd c (Outc.of stAbsent 0)
    else
      let s := mine.foldl (fun s d => s.writeSpan none c.handle d.2.1 ((c.bytesFor m d).getD [])) s
      s.simpleRun { c with due := rest, got := src :: c.got }

/-- A message arrives: it is applied, or held for a command not yet accepted, or for the participant's next of the tag (R298, R309). -/
def State.simpleMsg (s : State) (job op tag src : Nat) (m : CollMsg) : State :=
  let hold := s.setColl { s.coll with heldMsgs := s.coll.heldMsgs ++ [(job, op, tag, src, m)] }
  match s.simpleOf job op tag with
  | none => hold
  | some c =>
    if !c.parts.contains src then s
    else if c.got.contains src && !(op = opPermute && m.root = 1) then hold
    else s.simpleTake c src m

/-- What is wrong with the tag of a collective (R298). -/
def State.tagBad (s : State) (p : Pkt) : List Bad := mal 0 (s.simpleOf p.job p.op (p.f 0 15 0)).isSome

/-- The command as it is accepted. -/
def Simple.opened (p : Pkt) (s : State) (nfar length root : Nat) (h : BitVec 32) : Simple :=
  { job := p.job, opcode := p.op, tag := p.f 0 15 0, ring := p.ring, at_ := p.at_, parts := p.rankList 1 nfar,
    far := if nfar = 0 then [] else p.farList 3 nfar, me := s.ownIndex.getD 0, length := length, root := root, mask := p.parts 1, handle := h,
    due := [], got := [], rows := [], written := [], since := s.now }

/-- Start the command, once it has its far flows: what it writes here at once, then its messages go out, an absent participant ends it, and what has been
held for it is taken up (R162, R298, R299, R309). -/
def State.simpleStart (s : State) (p : Pkt) (c : Simple) (bufs : List Nat) (own : State → State) (msg : Nat → CollMsg) : State :=
  s.withFar p bufs c.far (simpleClass c.opcode) fun s =>
    let s := (own s).updProg p.ring p.at_ fun g => { g with taken := bufs.map fun d => (d, 255), work := .coll p.op c.tag }
    let s := c.parts.foldl (fun s q => s.simpleTell c q (msg q)) s
    match c.parts.find? fun q => !s.partPresent c.me c.far q with
    | some q => s.simpleEnd c { Outc.peer stAbsent q with detail := if q < 128 then detailModule q else 0 }
    | none =>
      let s := s.simpleRun c
      let mine := fun (h : Nat × Nat × Nat × Nat × CollMsg) => h.1 = c.job && h.2.1 = c.opcode && h.2.2.1 = c.tag
      let hs := s.coll.heldMsgs.filter mine
      let s := s.setColl { s.coll with heldMsgs := s.coll.heldMsgs.filter fun h => !mine h }
      hs.foldl (fun s h => s.simpleMsg h.1 h.2.1 h.2.2.1 h.2.2.2.1 h.2.2.2.2) s

/-- Read this module's bytes, take its buffers and go on (R221, R286, R298). -/
def State.simpleRead (s : State) (p : Pkt) (h : BitVec 32) (ofs n count : Nat) (go : List Byte → List Nat → State → State) : State :=
  s.reading p false h ofs n fun bs s => s.taking p engColl count [] fun bufs s => go bs bufs s

/-! ### GATHER and BROADCAST -/

/-- What refuses a GATHER. -/
def gatherAllBad (p : Pkt) (s : State) : List Bad :=
  let n := (p.w 7).toNat
  s.partsBad p 1 0 (p.f 0 19 16) 3 ++ s.tagBad p ++ s.handleBad p.job 4 (p.lo 4) ++ s.handleBad p.job 4 (p.hi 4) ++
    mal 5 ((s.berthAt (p.lo 4)).any fun b => b.length < p.f 5 47 0 + n) ++
    mal 6 ((s.berthAt (p.hi 4)).any fun b => b.length < p.f 6 47 0 + n * (p.rankList 1 (p.f 0 19 16)).length)

/-- GATHER's effect. -/
def gatherAllEff (p : Pkt) (s : State) : State :=
  let n := (p.w 7).toNat
  let c := Simple.opened p s (p.f 0 19 16) n 0 (p.hi 4)
  let at_ := fun (q : Nat) => p.f 6 47 0 + c.parts.idxOf q * n
  let r := reqIndex p.job engColl
  s.simpleRead p (p.lo 4) (p.f 5 47 0) n (s.buffersFor r n + s.buffersFor r ((c.parts.length - 1) * n)) fun bs bufs s =>
    if s.spanLost (p.hi 4) (p.f 6 47 0) (n * c.parts.length) then (s.holding p bufs).failed p stAbsent 0
    else
      s.simpleStart p { c with due := if n = 0 then [] else (c.parts.filter (· != c.me)).map fun q => (q, at_ q, n) } bufs
        (·.writeSpan none (p.hi 4) (at_ c.me) bs) fun _ => c.msg 0 [(0, bs)]

/-- GATHER: every participant's bytes reach every participant's destination, in rank order (R298, R299). -/
def execGather (n : Nat) (s : State) : Host.Outcome State Fault Refusal := s.command n (isOp 0x0402) gatherAllBad gatherAllEff

/-- What refuses a BROADCAST. -/
def broadcastBad (p : Pkt) (s : State) : List Bad :=
  s.partsBad p 1 0 (p.f 0 19 16) 3 ++ s.tagBad p ++ mal 0 ((p.rankList 1 (p.f 0 19 16)).length ≤ p.f 0 27 20) ++ s.handleBad p.job 4 (p.lo 4) ++
    mal 5 ((s.berthAt (p.lo 4)).any fun b => b.length < p.f 5 47 0 + (p.w 6).toNat)

/-- BROADCAST's effect. -/
def broadcastEff (p : Pkt) (s : State) : State :=
  let n := (p.w 6).toNat
  let c := Simple.opened p s (p.f 0 19 16) n (p.f 0 27 20) (p.lo 4)
  let root := c.parts.getD c.root 0
  let count := s.buffersFor (reqIndex p.job engColl) n
  if root = c.me then
    s.simpleRead p (p.lo 4) (p.f 5 47 0) n count fun bs bufs s => s.simpleStart p c bufs id fun _ => c.msg c.root [(0, bs)]
  else if s.spanLost (p.lo 4) (p.f 5 47 0) n then s.failed p stAbsent 0
  else
    s.taking p engColl count [] fun bufs s =>
      s.simpleStart p { c with due := if n = 0 then [] else [(root, p.f 5 47 0, n)] } bufs id fun _ => c.msg c.root []

/-- BROADCAST: the root's bytes reach every other participant's berth (R298, R299). -/
def execBroadcast (n : Nat) (s : State) : Host.Outcome State Fault Refusal := s.command n (isOp 0x0404) broadcastBad broadcastEff

/-! ### PERMUTE -/

/-- One rectangle of a layout (R226). -/
structure Rect where
  module : Nat
  row0 : Nat
  rows : Nat
  col0 : Nat
  cols : Nat
  spare : Nat
  deriving DecidableEq, Repr

/-- A layout entry from its 16 bytes. -/
def rectOf (bs : List Byte) : Rect :=
  let x := leNat bs
  { module := bitsOf x 127 121, row0 := bitsOf x 120 97, rows := bitsOf x 96 73, col0 := bitsOf x 72 49, cols := bitsOf x 48 25, spare := bitsOf x 24 0 }

/-- A layout's entries. -/
def rectsOf (n : Nat) (bs : List Byte) : List Rect := (List.range n).map fun i => rectOf ((bs.drop (16 * i)).take 16)

/-- Do two rectangles share an element? -/
def Rect.meets (a b : Rect) : Bool := a.row0 < b.row0 + b.rows && b.row0 < a.row0 + a.rows && a.col0 < b.col0 + b.cols && b.col0 < a.col0 + a.cols

/-- The rectangles partition the tensor among the modules of a mask. -/
def partitions (rows cols : Nat) (mask : BitVec 128) (rs : List Rect) : Bool :=
  rs.all (fun r => r.spare = 0 && mask.getLsbD r.module && r.rows != 0 && r.cols != 0 && r.row0 + r.rows ≤ rows && r.col0 + r.cols ≤ cols) &&
    (rs.zipIdx.all fun a => rs.zipIdx.all fun b => a.2 = b.2 || !a.1.meets b.1) && (rs.map fun r => r.rows * r.cols).sum = rows * cols

/-- Elements that a module holds. -/
def shardElems (rs : List Rect) (m : Nat) : Nat := ((rs.filter fun r => r.module = m).map fun r => r.rows * r.cols).sum
/-- A module's rectangles with the element at which each begins in its berth. -/
def placedRects (rs : List Rect) : List (Rect × Nat) := rs.zipIdx.map fun r => (r.1, shardElems (rs.take r.2) r.1.module)

/-- A run of elements that moves: from module, element there, to module, element there, number. -/
abbrev Move5 := Nat × Nat × Nat × Nat × Nat

/-- The runs that move between two layouts, one for each row of each pair of rectangles that meet. -/
def movesOf (old new : List Rect) : List Move5 :=
  (placedRects old).flatMap fun a => (placedRects new).flatMap fun b =>
    let r0 := max a.1.row0 b.1.row0
    let r1 := min (a.1.row0 + a.1.rows) (b.1.row0 + b.1.rows)
    let c0 := max a.1.col0 b.1.col0
    let c1 := min (a.1.col0 + a.1.cols) (b.1.col0 + b.1.cols)
    if c1 ≤ c0 then []
    else (List.range (r1 - r0)).map fun i =>
      (a.1.module, a.2 + (r0 + i - a.1.row0) * a.1.cols + (c0 - a.1.col0), b.1.module, b.2 + (r0 + i - b.1.row0) * b.1.cols + (c0 - b.1.col0), c1 - c0)

/-- Does a range on an axis cut it where it may not be cut: the K axis off a multiple of 2,048 short of its end, the batch axis off a granule
boundary (R206, R226)? -/
def cutBad (j : Job) (kaxis baxis axis size first count : Nat) : Bool :=
  (kaxis = axis && (first % 2048 != 0 || ((first + count) % 2048 != 0 && first + count != size))) || (baxis = axis && !j.batchOk first count)

/-- The layouts of a PERMUTE as they stand in memory: old and new. -/
def State.layouts (s : State) (p : Pkt) : List Rect × List Rect :=
  let get := fun (h : BitVec 32) (n : Nat) => rectsOf n (s.mem.read (berthKey (handleIndex h) 0) (16 * n))
  (get (p.lo 4) (p.f 4 41 32 + 1), get (p.lo 5) (p.f 4 51 42 + 1))

/-- What refuses a PERMUTE. -/
def permuteBad (p : Pkt) (s : State) : List Bad :=
  let (no, nn) := (16 * (p.f 4 41 32 + 1), 16 * (p.f 4 51 42 + 1))
  let (rows, cols) := (p.f 3 23 0, p.f 3 47 24)
  let (ka, ba) := (p.f 0 19 18, p.f 0 21 20)
  let own := s.ownIndex.getD 0
  let es := 2 ^ p.f 0 17 16
  s.maskBad p 1 ++ s.tagBad p ++ mal 0 (ka = 3 || ba = 3) ++ s.handleBad p.job 5 (p.hi 5) ++
    match s.spanBad p.job 4 (p.lo 4) 0 no ++ s.spanBad p.job 5 (p.lo 5) 0 nn with
    | b :: bs => b :: bs
    | [] =>
      let (old, new) := s.layouts p
      let len := ((s.berthAt (p.hi 5)).map (·.length)).getD 0
      refuseIf (s.mem.poisoned (berthKey (handleIndex (p.lo 4)) 0) no || s.mem.poisoned (berthKey (handleIndex (p.lo 5)) 0) nn) stUncorrectable 0 ++
        mal 4 (!partitions rows cols (p.parts 1) old || len < shardElems old own * es) ++
        mal 5 (!partitions rows cols (p.parts 1) new || len < shardElems new own * es) ++
        refuseIf ((s.cmd.jobs.get? p.job).any fun j =>
          new.any fun r => cutBad j ka ba 1 rows r.row0 r.rows || cutBad j ka ba 2 cols r.col0 r.cols) stCutOff (detailWord 0x23 5)

/-- PERMUTE's effect: every byte that is sent or moved is read before any is written (R227). -/
def permuteEff (p : Pkt) (s : State) : State :=
  let (old, new) := s.layouts p
  let es := 2 ^ p.f 0 17 16
  let c := Simple.opened p s 0 0 0 (p.hi 5)
  let ms := movesOf old new
  let (size, nsize) := (shardElems old c.me * es, shardElems new c.me * es)
  let due := (ms.filter fun m => m.1 != c.me && m.2.2.1 = c.me).map fun m => (m.1, m.2.2.2.1 * es, m.2.2.2.2 * es)
  s.simpleRead p (p.hi 5) 0 size (s.buffersFor (reqIndex p.job engColl) (due.map (·.2.2)).sum) fun bs bufs s =>
    if s.spanLost (p.hi 5) 0 nsize then (s.holding p bufs).failed p stAbsent 0
    else
      let run := fun (m : Move5) => (m.2.2.2.1 * es, (bs.drop (m.2.1 * es)).take (m.2.2.2.2 * es))
      let s := (ms.filter fun m => m.1 = c.me && m.2.2.1 = c.me && m.2.1 != m.2.2.2.1).foldl (fun s m =>
        s.writeSpan none (p.hi 5) (run m).1 (run m).2) s
      s.simpleStart p { c with due := due, rows := due } bufs id fun q => c.msg 0 ((ms.filter fun m => m.1 = c.me && m.2.2.1 = q).map run)

/-- PERMUTE: re-shards a two-dimensional tensor among the participants in place (R226, R227, R298, R299). -/
def execPermute (n : Nat) (s : State) : Host.Outcome State Fault Refusal := s.command n (isOp 0x0403) permuteBad permuteEff

/-! ### BARRIER -/

/-- What refuses a BARRIER. -/
def barrierBad (p : Pkt) (s : State) : List Bad := s.partsBad p 1 0 (p.f 0 19 16) 3 ++ s.tagBad p

/-- BARRIER's effect. -/
def barrierEff (p : Pkt) (s : State) : State :=
  let c := Simple.opened p s (p.f 0 19 16) 0 0 0
  s.simpleStart p c [] id fun _ => c.msg 0 []

/-- BARRIER: completes when every participant's has arrived (R298, R299). -/
def execBarrier (n : Nat) (s : State) : Host.Outcome State Fault Refusal := s.command n (isOp 0x0406) barrierBad barrierEff

/-! ### Messages and limits -/

/-- COLLECTIVE_MESSAGE: a message of one of these collectives arrives and is applied, or held (R298, R299, R309). -/
def execCollectiveMessage (job opcode tag src : Nat) (m : CollMsg) (s : State) : Host.Outcome State Fault Refusal :=
  s.when (s.collAllowed job src && [opGather, opBroadcast, opPermute, opBarrier].contains opcode) (s.simpleMsg job opcode tag src m)

/-- COLLECTIVE_TIMEOUT: a participant is missing at the job's wait limit (R299). -/
def execCollectiveTimeout (job opcode tag : Nat) (s : State) : Host.Outcome State Fault Refusal :=
  match s.simpleOf job opcode tag, s.cmd.jobs.get? job with
  | some c, some j => s.when (s.after c.since (1000 * j.waitMs)) (s.simpleEnd c (Outc.of stTimeout 0))
  | _, _ => .next s

/-- A module becomes absent: the collectives of this kind in which it takes part end (R227, R299). -/
def State.simpleAbsent (s : State) (m : Nat) : State :=
  (s.coll.simple.filter fun c => c.parts.contains m).foldl (fun s c => s.simpleEnd c (Outc.peer stAbsent m)) s

/-- A far endpoint becomes absent: so too. -/
def State.simpleFarAbsent (s : State) (ep : Nat) : State :=
  (s.coll.simple.filter fun c => c.far.contains ep).foldl (fun s c => s.simpleEnd c { Outc.peer stAbsent 0 with detail := 0 }) s

end Sys2Proof.Machine
end

