-- ==== Sys2Proof/Machine/StashFamily.lean ====
section
/-! DEFINITION. STASH_PUT, STASH_GET and PREFETCH, and what the Tug and the stash path do for them (R153, R154, R222 to R225, R229, R300,
R301). -/

namespace Sys2Proof.Machine

/-! ### STASH_PUT -/

/-- Formats that a NARROW put takes, and those it makes. -/
def narrowFrom (f : Nat) : Bool := f = 0 || f = 1 || f = 9
/-- Formats that it makes. -/
def narrowTo (f : Nat) : Bool := f ≤ 3 || f = 5 || f = 6

/-- Bytes that STASH_PUT reads, and the room it needs in the stash berth. -/
def Pkt.putSpan (p : Pkt) : Nat × Nat :=
  let n := (p.w 4).toNat
  let t := p.f 4 31 0
  let stride := p.f 4 63 32
  match p.f 0 1 0 with
  | 1 => (t * stride, 8 * t + t * stride)
  | 2 => (n, rowSize (p.f 0 9 6) (n / max 1 (elemBytes (p.f 0 5 2) 1)))
  | _ => (n, n)

/-- The dense size of the compressed tile whose header starts these bytes (R85). -/
def denseSize (hdr : List Byte) : Nat :=
  let h := leNat (hdr.take 8)
  bitsOf h 55 48 * (elemBytes (bitsOf h 47 44) (bitsOf h 63 56) + scaleBytes (bitsOf h 47 44) (bitsOf h 63 56))

/-- The tiles of a PACKED source as it stands: offset and length of each. -/
def State.packedTiles (s : State) (p : Pkt) : List (Nat × Nat) :=
  (List.range (p.f 4 31 0)).map fun i =>
    let ofs := p.f 2 47 0 + i * p.f 4 63 32
    (ofs, tileLength (s.mem.read (berthKey (handleIndex (p.lo 1)) ofs) 8))

/-- A tile and its dense form fit a slot stride of at least the dense size plus 8. -/
def tileFits (stride : Nat) (hdr : List Byte) : Bool := tileLength hdr ≤ stride && denseSize hdr + 8 ≤ stride

/-- What refuses a STASH_PUT. A row length of 0 in a put with stochastic rounding is out of range (DESIGN CHOICE, log 214: R222 gives ROWLEN no range). -/
def stashPutBad (p : Pkt) (s : State) : List Bad :=
  let form := p.f 0 1 0
  let (n, room) := p.putSpan
  let src := s.handleBad p.job 1 (p.lo 1) ++ mal 2 ((s.berthAt (p.lo 1)).any fun b => b.length < p.f 2 47 0 + n)
  mal 0 (form = 3 || (form = 2 && (!narrowFrom (p.f 0 5 2) || !narrowTo (p.f 0 9 6) || p.f 0 12 11 = 3))) ++ src ++
    s.handleBad p.job 1 (p.hi 1) ++ mal 1 ((s.berthAt (p.hi 1)).any fun b => b.cls != 2) ++
    mal 3 ((s.berthAt (p.hi 1)).any fun b => b.length < p.f 3 47 0 + room) ++
    mal 4 ((form = 2 && n % (if isMx (p.f 0 9 6) then 32 * elemBytes (p.f 0 5 2) 1 else max 1 (elemBytes (p.f 0 5 2) 1)) != 0) ||
      (form = 1 && src.isEmpty && (s.packedTiles p).any fun t =>
        !tileFits (p.f 4 63 32) (s.mem.read (berthKey (handleIndex (p.lo 1)) t.1) 8))) ++
    mal 5 (form = 2 && p.bit 0 10 && badStream (p.f 5 31 0)) ++ mal 7 (form = 2 && p.bit 0 10 && (p.w 7).toNat = 0)

/-- The narrowed bytes of a put: element i of the region has index E0 + i, its rows standing one after another (R102, R222). -/
def Pkt.narrowed (p : Pkt) (j : Job) (bs : List Byte) : List Byte :=
  let (sf, nf) := (p.f 0 5 2, p.f 0 9 6)
  let mode := (ovMode (p.f 0 12 11)).getD .sat
  let a := bs.toArray
  let rnd := fun (i : Nat) => if p.bit 0 10 && nf != 9 then RndMode.sr (randomWord j.seed j.step (p.f 5 31 0) (((p.w 6).toNat + i) % 2 ^ 64)) else .rne
  let vs := (List.range (bs.length / max 1 (elemBytes sf 1))).map fun i => (elemValue sf (encAt sf a 0 i), rnd i)
  if isMx nf then
    let blocks := (List.range (vs.length / 32)).map fun b => mxBlock nf mode ((vs.drop (32 * b)).take 32)
    packElems nf (blocks.flatMap (·.elems)) ++ blocks.map fun b => BitVec.ofNat 8 b.scale
  else packElems nf (vs.map fun v => (convertTo nf mode v.2 v.1).bits)

/-- The directory of a PACKED region, from the lengths of its tiles: each tile 8-byte aligned after the last (R222). -/
def packDir (t : Nat) (lens : List Nat) : List (Nat × Nat) :=
  (lens.foldl (fun (acc : List (Nat × Nat) × Nat) n => (acc.1 ++ [(acc.2, n)], acc.2 + (n + 7) / 8 * 8)) ([], 8 * t)).1

/-- The bytes that a PACKED region uses. -/
def packUsed (dir : List (Nat × Nat)) (t : Nat) : Nat := (dir.getLast?.map fun d => d.1 + (d.2 + 7) / 8 * 8).getD (8 * t)

/-- Copy several pieces; the worst status of the reads. -/
def State.copyPieces (s : State) (h1 h2 : BitVec 32) (ps : List (Nat × Nat × Nat)) : Nat × State :=
  ps.foldl (fun (acc : Nat × State) q =>
    let (st, s) := acc.2.copyBytes false h1 q.1 false h2 q.2.1 q.2.2
    (if acc.1 = 0 then st else acc.1, s)) (0, s)

/-- STASH_PUT's effect: staging buffers are taken and the data goes to the stash berth, which is to acknowledge it (R222, R223). -/
def stashPutEff (p : Pkt) (s : State) : State :=
  let (n, room) := p.putSpan
  let tiles := s.packedTiles p
  let dir := packDir tiles.length (tiles.map (·.2))
  let used := match p.f 0 1 0 with
    | 1 => packUsed dir tiles.length
    | 2 => room
    | _ => n
  s.taking p engStash (s.buffersFor (reqIndex p.job engStash) used) [] fun bufs s =>
    let s := s.updProg p.ring p.at_ fun g => { g with taken := bufs.map fun d => (d, 255) }
    if s.spanLost (p.lo 1) (p.f 2 47 0) n || s.spanLost (p.hi 1) (p.f 3 47 0) used then s.failed p stAbsent 0
    else
      match p.f 0 1 0 with
      | 1 =>
        let s := s.writeSpan none (p.hi 1) (p.f 3 47 0) (dir.flatMap fun d => leBytes 8 (d.2 * 2 ^ 40 + d.1))
        let (st, s) := s.copyPieces (p.lo 1) (p.hi 1) ((tiles.zip dir).map fun t => (t.1.1, p.f 3 47 0 + t.2.1, t.1.2))
        s.works p (.stashPut used (st != 0))
      | 2 =>
        match s.cmd.jobs.get? p.job with
        | none => s
        | some j =>
          let (g, s) := s.readSpan none (p.lo 1) (p.f 2 47 0) n
          let out := p.narrowed j g.data
          let s := s.writeSpan none (p.hi 1) (p.f 3 47 0) out
          let s := if g.poisoned then s.poisonBlocks (blocksOf (berthKey (handleIndex (p.hi 1)) (p.f 3 47 0)) out.length) else s
          s.works p (.stashPut used g.poisoned)
      | _ =>
        let (st, s) := s.copyBytes false (p.lo 1) (p.f 2 47 0) false (p.hi 1) (p.f 3 47 0) n
        s.works p (.stashPut used (st != 0))

/-- STASH_PUT: stages plain, packed or narrowed data into a stash berth (R53, R222, R223, R300). -/
def execStashPut (n : Nat) (s : State) : Host.Outcome State Fault Refusal := s.command n (isOp 0x0501) stashPutBad stashPutEff

/-- STASH_ACKNOWLEDGED: the stash berth's location has acknowledged every byte; one that has been lost has not, and the put ends with
PEER_ABSENT (R223). -/
def execStashAcknowledged (n at_ : Nat) (s : State) : Host.Outcome State Fault Refusal :=
  match s.prog n at_ with
  | none => .next s
  | some g =>
    match g.work, g.outcome with
    | .stashPut used bad, none =>
      let p := g.pkt
      .next (s.conclude n at_
        (if s.spanLost (p.hi 1) (p.f 3 47 0) used then Outc.of stAbsent 0
        else { status := if bad then stUncorrectable else 0, note := 0, detail := 0, results := [BitVec.ofNat 64 used] }))
    | _, _ => .next s

/-! ### STASH_GET -/

/-- Slots of a stride in a landing buffer. -/
def slotsPer (size stride : Nat) : Nat := size / max 1 stride

/-- The size of a landing buffer: that of the stash requester's pool. -/
def State.landingSize (s : State) (job : Nat) : Nat :=
  (((s.req (reqIndex job engStash)).pool.bind fun i => s.quay.pools.get? i).map Pool.bytes).getD 4096

/-- Landing buffers that a get needs: no tile straddles two (R224). -/
def Pkt.getBuffers (p : Pkt) (size : Nat) : Nat :=
  if p.f 0 1 0 = 1 then ceilDiv (p.f 3 31 0) (max 1 (slotsPer size (p.f 3 63 32))) else ceilDiv (p.w 3).toNat size

/-- The directory of a PACKED region as it stands: offset and length of each tile. -/
def State.packedDir (s : State) (p : Pkt) : List (Nat × Nat) :=
  (List.range (p.f 3 31 0)).map fun i =>
    let x := leNat (s.mem.read (berthKey (handleIndex (p.lo 1)) (p.f 2 47 0 + 8 * i)) 8)
    (bitsOf x 39 0, bitsOf x 63 40)

/-- The directory of a PACKED region is there to be read: none of it is poisoned or LOST (R225). -/
def State.dirReadable (s : State) (p : Pkt) : Bool :=
  let n := 8 * p.f 3 31 0
  !s.mem.poisoned (berthKey (handleIndex (p.lo 1)) (p.f 2 47 0)) n && !s.spanLost (p.lo 1) (p.f 2 47 0) n && !s.spanFailed (p.lo 1) (p.f 2 47 0) n

/-- Bytes that a get reads from the start of its region; of a PACKED region whose directory cannot be read, the directory alone. -/
def State.getSpan (s : State) (p : Pkt) : Nat :=
  if p.f 0 1 0 = 1 then
    (if s.dirReadable p then s.packedDir p else []).foldl (fun m d => max m (d.1 + d.2)) (8 * p.f 3 31 0)
  else (p.w 3).toNat

/-- What refuses a STASH_GET. A directory that is poisoned or LOST is not judged: the get then ends as its read does (R225). -/
def stashGetBad (p : Pkt) (s : State) : List Bad :=
  let form := p.f 0 1 0
  let size := s.landingSize p.job
  let stride := p.f 3 63 32
  let first := if form = 1 then 8 * p.f 3 31 0 else (p.w 3).toNat
  let region := s.handleBad p.job 1 (p.lo 1) ++ mal 2 ((s.berthAt (p.lo 1)).any fun b => b.length < p.f 2 47 0 + first)
  mal 0 (form = 3) ++ region ++ s.handleBad p.job 1 (p.hi 1) ++
    mal 1 ((s.berthAt (p.hi 1)).any fun b => b.length < 8 * p.getBuffers size) ++
    mal 3 (form = 1 && (stride = 0 || size < stride ||
      (s.dirReadable p && ((region.isEmpty && ((s.berthAt (p.lo 1)).any fun b => b.length < p.f 2 47 0 + s.getSpan p)) ||
        (s.packedDir p).any fun d => stride < d.2))))

/-- STASH_GET's effect: landing buffers are taken; the Tug is to start the transfer (R224). -/
def stashGetEff (p : Pkt) (s : State) : State :=
  s.taking p engStash (p.getBuffers (s.landingSize p.job)) [] fun bufs s =>
    s.updProg p.ring p.at_ fun g => { g with taken := bufs.map fun d => (d, 255), work := .stashGet false }

/-- STASH_GET: takes landing buffers and has the Tug bring a stash back (R224, R225, R300). -/
def execStashGet (n : Nat) (s : State) : Host.Outcome State Fault Refusal := s.command n (isOp 0x0502) stashGetBad stashGetEff

/-- Deliver one tile of a PACKED region to its slot, compressed, or dense with EXPAND (R87, R224). -/
def State.landTile (s : State) (p : Pkt) (bufs : List Nat) (size : Nat) (i : Nat) (d : Nat × Nat) : State :=
  let stride := p.f 3 63 32
  let per := max 1 (slotsPer size stride)
  match (bufs[i / per]?).bind s.bufferAt with
  | none => s
  | some (h, ofs, _) =>
    let dst := ofs + i % per * stride
    if p.bit 0 2 then
      let (g, s) := s.readSpan none (p.lo 1) (p.f 2 47 0 + d.1) d.2
      s.writeSpan none h dst ((decompress g.data).take stride)
    else (s.copyBytes false (p.lo 1) (p.f 2 47 0 + d.1) false h dst d.2).2

/-- A STASH_PUT among some commands writes the region of a STASH_GET (R224). -/
def State.putUnder (s : State) (gs : List Prog) (p : Pkt) : Bool :=
  gs.any fun g => phOp g.hdr = 0x0501 && g.pkt.hi 1 = p.lo 1 && rangesMeet (g.pkt.f 3 47 0) g.pkt.putSpan.2 (p.f 2 47 0) (s.getSpan p)

/-- The transfer of a STASH_GET: a LOST page or poisoned data ends it with nothing written; else the buffers and the landing index are
written, and the buffers stay the stash requester's until a launch releases them. Bytes outside the module are asked for, unless the look-ahead has
(R224, R225, R229). -/
def State.stashTransfer (s : State) (p : Pkt) (bufs : List Nat) : State :=
  let size := s.landingSize p.job
  let n := s.getSpan p
  let dir := s.packedDir p
  let (g, t) := s.readSpan none (p.lo 1) (p.f 2 47 0) n
  let t := if s.cmd.aheadAt.has (aheadKey p.ring p.at_) then t.setWire s.wire else t
  if g.lost then t.failed p stAbsent 0
  else if g.poisoned then t.failed p stUncorrectable 0
  else
    let t :=
      if p.f 0 1 0 = 1 then dir.zipIdx.foldl (fun s d => s.landTile p bufs size d.2 d.1) t
      else bufs.zipIdx.foldl (fun s d =>
        match s.bufferAt d.1 with
        | none => s
        | some (h, ofs, _) => s.writeSpan none h ofs ((g.data.drop (size * d.2)).take size)) t
    let t := t.writeSpan none (p.hi 1) 0 (bufs.flatMap fun d => leBytes 8 (t.tokenOf d))
    let t := t.updBerth (handleIndex (p.hi 1)) fun b => { b with listed := bufs.length }
    (t.updProg p.ring p.at_ fun g => { g with taken := [], work := .stashGet true }).done p [BitVec.ofNat 64 bufs.length]

/-- STASH_GET_TRANSFER: the Tug transfers the stash of the command in progress at a ring offset, once no STASH_PUT accepted before it still writes the
region (R224, R225, R229). -/
def execStashGetTransfer (n at_ : Nat) (s : State) : Host.Outcome State Fault Refusal :=
  match s.prog n at_ with
  | none => .next s
  | some g =>
    match g.work, g.outcome with
    | .stashGet false, none =>
      s.when (!s.putUnder (s.cmd.progs.takeWhile (· != g)) g.pkt)
        ((s.stashTransfer g.pkt (g.taken.map (·.1))).tagWants s.wire.wants.length none (some (n, at_)))
    | _, _ => .next s

/-! ### The Tug -/

/-- A fetch reads what stands outside the module: none of it is still on its way. -/
def State.fetchArrived (s : State) (x : Shadow) : Bool :=
  let key := berthKey (handleIndex x.handle) (65536 * x.line)
  !(s.wire.wants ++ s.wire.reads).any fun w => w.kind = .read && w.core.isNone && w.key < key + 65536 && key < w.key + w.len

/-- The Tug starts to fetch lines of a berth into a cluster's shadow area for the packet that consumes them: lines already there serve it too. Fetches
stand in the order of their packets, and within a packet in ascending berth offset; what stands outside the module is asked for in the stash class
(R153, R154). -/
def State.tugStart (s : State) (c : Nat) (h : BitVec 32) (ls : List Nat) (ring at_ : Nat) : State :=
  let d := s.place.shadows.getD c []
  let fs := s.place.fetches.getD c []
  let len := ((s.berthAt h).map (·.length)).getD 0
  let have_ := fun (l : List Shadow) (i : Nat) => l.any fun x => x.handle = h && x.line = i
  let new := ls.filter fun i => !have_ d i && !have_ fs i
  let fresh := fun (x : Shadow) =>
    if x.handle = h && ls.contains x.line && 2 ^ 33 ≤ s.evictRank x then { x with ring := ring, at_ := at_, read := false } else x
  let fs := fs ++ new.map fun l => ({ handle := h, line := l, ring := ring, at_ := at_, read := false } : Shadow)
  let before := fun (x y : Shadow) => if s.evictRank x != s.evictRank y then decide (s.evictRank x < s.evictRank y) else decide (x.line ≤ y.line)
  let s := s.setPlace { s.place with fetches := s.place.fetches.put c (sortBy before fs)
                                     shadows := if d.isEmpty then s.place.shadows else s.place.shadows.put c (d.map fresh) }
  new.foldl (fun s l => s.wantRead none h (65536 * l) (min 65536 (len - 65536 * l))) s

/-- The lines of a berth that the Tug fetches for a launch: all of them, or of a predictor's target those whose blocks the binding's bits predict as
active (R155). -/
def State.tugLines (s : State) (binding : Option Nat) (h : BitVec 32) : List Nat :=
  match s.berthAt h with
  | none => []
  | some b =>
    let all := linesOf 0 b.length
    match binding.bind fun k => (s.place.preds.get? k).map fun r => (r, s.place.predictor.getD k (BitVec.allOnes 64)) with
    | none => all
    | some (r, bits) =>
      let size := blockBytesOf b.length r.blocks
      all.filter fun l => (List.range ((65536 * l + 65535) / size + 1 - 65536 * l / size)).any fun i =>
        64 ≤ i + 65536 * l / size || bits.getLsbD (i + 65536 * l / size)

/-- The berths that a launch marks as prefetchable, each with whether it is the predictor's weight target (R154, R155, R294). -/
def Pkt.prefetchable (p : Pkt) : List (BitVec 32 × Bool) :=
  if p.op = 0x0202 then
    ((List.range 8).map (· + 1)).filterMap fun n =>
      if p.kind n = 3 then some ((p.arg n).setWidth 32, false) else if p.kind n = 7 then some ((p.arg n).setWidth 32, true) else none
  else []

/-- The clusters at which a launch in the look-ahead is placed: chosen when it is first looked at, and kept (R27, R230, R277). -/
def State.placeAhead (s : State) (p : Pkt) : List Nat × State :=
  match s.cmd.aheadAt.get? (aheadKey p.ring p.at_) with
  | some l => (l, s)
  | none =>
    let (l, t) := s.chooseClusters p
    (l, t.setCmd { t.cmd with aheadAt := t.cmd.aheadAt.put (aheadKey p.ring p.at_) l })

/-- A launch in the look-ahead is placed, and the Tug fetches what it marks into its clusters, as far as they have shadow space (R154, R155, R277). -/
def State.launchAhead (s : State) (p : Pkt) : State :=
  let (cs, t) := s.placeAhead p
  let hs := p.prefetchable.filter fun h => (t.berthAt h.1).any (·.usable p.job)
  hs.foldl (fun t h => cs.foldl (fun t c =>
    t.tugStart c h.1 ((t.tugLines (if h.2 && p.expert then some p.bindKey else none) h.1).take (t.shadowRoom c)) p.ring p.at_) t) t

/-- The transfer of a STASH_GET in the look-ahead starts: what stands outside the module is asked for (R224, R229). -/
def State.getAhead (s : State) (p : Pkt) : State :=
  if (stashGetBad p s).isEmpty && !s.putUnder s.cmd.progs p then
    let t := (s.wantRead none (p.lo 1) (p.f 2 47 0) (s.getSpan p)).tagWants s.wire.wants.length none (some (p.ring, p.at_))
    t.setCmd { t.cmd with aheadAt := t.cmd.aheadAt.put (aheadKey p.ring p.at_) [] }
  else s

/-! ### PREFETCH and the Tug -/

/-- What refuses a PREFETCH. -/
def prefetchBad (p : Pkt) (s : State) : List Bad :=
  mal 0 (512 < p.f 0 41 32) ++ s.handleBad p.job 0 (p.lo 0) ++ mal 2 ((s.berthAt (p.lo 0)).any fun b => b.length < p.f 1 47 0 + (p.w 2).toNat)

/-- Bytes of a range that lie in a 64 KiB line. -/
def lineBytes (ofs n line : Nat) : Nat := min (ofs + n) (65536 * (line + 1)) - max ofs (65536 * line)

/-- The clusters of the die of higher heat for a berth (R301). -/
def State.hotClusters (s : State) (h : BitVec 32) : List Nat :=
  let (e, w) := ((s.berthAt h).map fun b => (b.pages.sumBy fun _ p => p.heatE, b.pages.sumBy fun _ p => p.heatW)).getD (0, 0)
  s.clustersIn.filter fun c => dieOf c = (if w ≤ e then 0 else 1)

/-- The fetches of a PREFETCH begin, when packet `i` beyond the oldest unaccepted one is the one `AHEAD` names: into the clusters of the launch that stands
there, for which the lines are kept, or without one into the clusters of higher heat, for the PREFETCH itself (DESIGN CHOICE, log 215). Where shadow
space runs short, `lines` of them find some. The answer is the lines that are fetched (R154, R229, R301). -/
def State.prefetch (s : State) (p : Pkt) (i lines : Nat) : List Nat × State :=
  let all := linesOf (p.f 1 47 0) (p.w 2).toNat
  let launch := if p.f 0 41 32 = 0 then none else (s.packetAhead p.ring i).filter fun q => q.op = 0x0202
  let (cs, at_, t) :=
    match launch with
    | some q =>
      let (l, t) := s.placeAhead q
      (l, q.at_, t)
    | none => (s.hotClusters (p.lo 0), p.at_, s)
  let room := ((cs.map t.shadowRoom).min?).getD 0
  let ls := if all.length ≤ room then all else all.take (min lines room)
  (ls, cs.foldl (fun t c => t.tugStart c (p.lo 0) ls p.ring at_) t)

/-- PREFETCH's effect: the fetches begin; COMMAND_COMPLETE waits for the lines (R301). -/
def prefetchEff (lines : Nat) (p : Pkt) (s : State) : State :=
  let (ofs, n) := (p.f 1 47 0, (p.w 2).toNat)
  let (ls, s) := s.prefetch p (p.f 0 41 32 - 1) lines
  s.conclude p.ring p.at_ { status := if ls.length < (linesOf ofs n).length then 1 else 0, note := 0, detail := 0,
                            results := [BitVec.ofNat 64 (ls.map (lineBytes ofs n)).sum] }

/-- PREFETCH: fetches a berth range into shadow lines of the clusters of a later launch; `lines` is how many find shadow space when it runs short (R154,
R229, R301). -/
def execPrefetch (n lines : Nat) (s : State) : Host.Outcome State Fault Refusal := s.command n (isOp 0x0503) prefetchBad (prefetchEff lines)

/-- The look-ahead of a ring comes before another's: main jobs before fillers, and within a class jobs of higher PRIO (R277). -/
def State.ringBefore (s : State) (a b : Nat) : Bool :=
  match s.cmd.jobs.get? (a / 4), s.cmd.jobs.get? (b / 4) with
  | some x, some y => if x.filler != y.filler then y.filler else y.prio < x.prio
  | _, _ => false

/-- A ring has an announced packet that the look-ahead may read: up to 512 beyond the oldest unaccepted one (R277). -/
def State.unread (s : State) (n : Nat) : Bool := (s.ring n).ahead ≤ 512 && (s.packetAhead n (s.ring n).ahead).isSome

/-- What the look-ahead does with packet `i` of a ring, when the packet stands on a job ring with the parameter area that its opcode requires: it places a
launch and fetches for it, starts the transfer of a STASH_GET, and carries out a PREFETCH (R154, R224, R229, R277). -/
def State.lookAt (s : State) (p : Pkt) (i : Nat) : State :=
  if p.admin || p.masks.isNone then s
  else
    match p.op with
    | 0x0202 => s.launchAhead p
    | 0x0502 => s.getAhead p
    | 0x0503 => if (prefetchBad p s).isEmpty then (s.prefetch p (i + p.f 0 41 32) 0).2 else s
    | _ => s

/-- LOOK_AHEAD_READ: the Harbourmaster reads the next announced packet of a ring, up to 512 beyond the oldest unaccepted one, when no ring that comes before
it has one to be read; the look-ahead stops while rings are paused (R27, R154, R229, R277, R309). -/
def execLookAheadRead (n : Nat) (s : State) : Host.Outcome State Fault Refusal :=
  let r := s.ring n
  match s.packetAhead n r.ahead with
  | none => .next s
  | some p =>
    s.when (r.ahead ≤ 512 && !s.paused && !(s.cmd.rings.keyList.any fun m => s.ringBefore m n && s.unread m))
      ((s.setRing n { r with ahead := r.ahead + 1 }).lookAt p r.ahead)

/-- TUG_FETCH_COMPLETE: the first fetch of a cluster, with all that it asked for, fills its shadow line; other lines make room for it first (R150, R153,
R154). -/
def execTugFetchComplete (cluster : Nat) (handle : BitVec 32) (line : Nat) (s : State) : Host.Outcome State Fault Refusal :=
  match s.place.fetches.getD cluster [] with
  | [] => .next s
  | x :: rest =>
    let t := s.setPlace { s.place with fetches := s.place.fetches.put cluster rest }
    let u := t.trimShadows cluster (t.shadowRoom cluster - 1) 256
    let d := u.place.shadows.getD cluster []
    s.when (x.handle = handle && x.line = line && s.fetchArrived x)
      (if (s.berthAt handle).isNone || s.spanLost handle (65536 * line) 1 || t.shadowRoom cluster = 0 then t
      else u.setPlace { u.place with shadows := u.place.shadows.put cluster (d ++ [x]) })

end Sys2Proof.Machine
end

