-- ==== Sys2Proof/Machine/Complete.lean ====
section
/-! DEFINITION. The end of a command: its reply, its releases, DONE and the interrupt; and the end of a wait under back-pressure (R165, R272
to R276, R278). -/

namespace Sys2Proof.Machine

/-! ### COMMAND_COMPLETE -/

/-- Commands that complete without waiting for the acknowledgement of their packets: what ROUTE_PLAN, SCALE_AGREE, REDUCE, BARRIER and PEER_WINDOW
send are messages and no writes, and their own rules say when they complete (R182, R219, R281, R299, R304; DEDUCED, log 193). -/
def needsNoAck (op : Nat) : Bool := [0x0301, 0x0401, 0x0405, 0x0406, 0x0903].contains op

/-- Packets that a command waits for: all of its own, none for an opcode that needs no acknowledgement, and none once it has ended with TIMEOUT or
PEER_ABSENT, which may come before (R192, R281, R299). -/
def State.awaitedOf (s : State) (g : Prog) : List TxPkt :=
  if needsNoAck (phOp g.hdr) || g.outcome.any (fun o => o.status = stTimeout || o.status = stAbsent) then [] else s.unackedOf g.ring g.at_

/-- Something that the command started is still under way: packets not acknowledged, or Tug fetches. -/
def State.progBusy (s : State) (g : Prog) : Bool :=
  !(s.awaitedOf g).isEmpty || s.farUnackedOf g.ring g.at_ || s.leavingOf g.ring g.at_ ||
    (phOp g.hdr = 0x0503 && s.place.fetches.any fun f => f.2.any fun x =>
      x.handle = g.pkt.lo 0 && (linesOf (g.pkt.f 1 47 0) (g.pkt.w 2).toNat).contains x.line)

/-- The wait limit of the command's job, in ms; none on the admin ring (R286). -/
def State.progLimit (s : State) (g : Prog) : Option Nat :=
  if g.ring = adminRing then none else (s.cmd.jobs.get? (g.ring / 4)).map (·.waitMs)

/-- A packet that the command waits for has not been acknowledged within the job's wait limit (R286). -/
def State.progLate (s : State) (g : Prog) : Option Outc :=
  match s.progLimit g with
  | none => none
  | some ms => ((s.awaitedOf g).find? fun t => s.after t.sentAt (1000 * ms)).map fun t => Outc.peer stTimeout t.dst

/-- A repair outcome (R327). -/
def repairWord (kind result fuses lost : Nat) : W64 :=
  BitVec.ofNat 64 (kind % 16 * 2 ^ 60 + result % 16 * 2 ^ 56 + fuses % 8 * 2 ^ 53 + lost % 2 ^ 48)

/-- The injections of a FAULT_INJECT that are still armed (R344). -/
def State.injectLeft (s : State) (g : Prog) : Nat :=
  ((s.health.armed.filter fun a => a.1 = g.pkt.f 0 7 0 && a.2.1 = g.pkt.lo 1).map (·.2.2)).sum

/-- A FAULT_INJECT completes when its faults are made or 1 s has passed, with their number (R344). -/
def State.injectOutcome (s : State) (g : Prog) : Option Outc :=
  if s.injectLeft g = 0 || s.after g.acceptedAt 1000000 then
    some { Outc.of 0 0 with results := [BitVec.ofNat 64 ((g.pkt.w 2).toNat - s.injectLeft g)] }
  else none

/-- The command's outcome, when its work has ended. -/
def State.progOutcome (s : State) (g : Prog) : Option Outc :=
  match g.outcome with
  | some o =>
    if o.note.getLsbD 9 then some o
    else if s.progBusy g then s.progLate g
    else
      match g.work with
      | .close j _ => if o.status < 0x0100 && !s.drained j then none else some o
      | _ => some o
  | none =>
    match g.work with
    | .close j _ => if s.drained j then some { Outc.of 0 0 with results := [0] } else none
    | .fence os => if os.all fun o => (s.prog o.1 o.2).isNone then some (Outc.of 0 0) else none
    | .signalWait w v t =>
      if v.toNat ≤ (s.signalWord w).toNat then some { Outc.of 0 0 with results := [s.signalWord w] }
      else if (s.progLimit g).any fun ms => s.after t (1000 * ms) then some (Outc.of stTimeout 0) else none
    | .berthFree i => if s.berthQuiet i then some (Outc.of 0 0) else none
    | .repair 3 k => if (s.coreOf k).inst.isNone then some { Outc.of 0 0 with results := [BitVec.ofNat 64 k, repairWord 3 0 0 0] } else none
    | .none =>
      if phOp g.hdr = 0x0005 && !s.progBusy g then some (Outc.of 0 0)
      else if phOp g.hdr = 0x0804 then s.injectOutcome g
      else s.progLate g
    | _ => s.progLate g

/-- A core is retired and the cluster's spare takes its place (R16, R329). -/
def State.spareCore (s : State) (k : Nat) : State :=
  let c := clusterOf k
  match (s.cluster c).spare with
  | none => s
  | some n =>
    let s := (s.updCoreHw k fun x => { x with st := .retired, reason := 5 }).updCoreHw (17 * c + n) fun x => { x with st := .working, reason := 0 }
    (s.updCluster c fun x => { x with spare := none }).unitLost 4 5 (coreUnit k)

/-- A STEP_RECORD is complete: the job's next step starts; for a main job's, clusters whose re-characterisation is 7 days overdue are drained, which
counts as placement changes of that step; STEP_TOKENS of the job's bindings become 0 (R140, R178, R306, R367, R391). -/
def State.stepStarts (s : State) (job : Nat) : State :=
  let due := s.chip.recharDue.any fun t => t + 604800 ≤ s.powerS
  let late :=
    if due && (s.cmd.jobs.get? job).any (fun j => !j.filler) then
      s.clustersIn.filter fun c => (s.cluster c).svc = .inService && !(s.cluster c).recharDone && !(s.cluster c).keepGated
    else []
  let s := s.setExch { s.exch with bindings := s.exch.bindings.mapVals fun _ b => if b.job = job then { b with stepTokens := 0 } else b }
  let s := late.foldl (fun s c => (s.updCluster c fun x => { x with keepGated := true }).askLeave c) s
  s.setCmd { s.cmd with jobs := s.cmd.jobs.mapVals fun i j => if i = job then { j with startAt := s.now, placeChg := j.placeChg + late.length } else j }

/-- What a command's end itself does: a job closes, a berth is freed, a drained core is retired, a step starts, an injection is disarmed (R121,
R289, R306, R329, R344). -/
def State.progEnds (s : State) (g : Prog) (o : Outc) : State :=
  if o.status < 0x0100 then
    match g.work with
    | .close j _ => s.closeJob j
    | .berthFree i => s.freeBerth i
    | .repair 3 k => s.spareCore k
    | _ =>
      if phOp g.hdr = 0x0A03 then s.stepStarts (g.ring / 4)
      else if phOp g.hdr = 0x0804 then
        s.setHealth { s.health with armed := s.health.armed.filter fun a => !(a.1 = g.pkt.f 0 7 0 && a.2.1 = g.pkt.lo 1) }
      else s
  else s

/-- The status that the reply carries: a wait under back-pressure, or a note, changes an OK (R165, R285). -/
def finalStatus (status : Nat) (bp : Bool) (note : BitVec 16) : Nat :=
  if 0x0100 ≤ status then status else if bp then 0x0103 else if note != 0 then 0x0001 else status

/-- The DETAIL that the reply carries (R276). -/
def finalDetail (g : Prog) (o : Outc) (note : BitVec 16) : BitVec 32 :=
  if 0x0200 ≤ o.status then o.detail else if note.getLsbD 8 then o.detail else if note.getLsbD 3 then g.noteDetail else 0

/-- A count that saturates at 32 bits. -/
def sat32 (n : Nat) : Nat := min n (2 ^ 32 - 1)

/-- The first 32 bytes of a reply. -/
def replyHeader (status : Nat) (note : BitVec 16) (trunc : Bool) (rbytes : Nat) (seq detail : BitVec 32) (bp net run queue : Nat) : List Byte :=
  leBytes 2 status ++ leBytes 2 note.toNat ++ leBytes 2 (1 + if trunc then 2 else 0) ++ leBytes 2 rbytes ++ leBytes 4 seq.toNat ++
    leBytes 4 detail.toNat ++ leBytes 4 (sat32 bp) ++ leBytes 4 (sat32 net) ++ leBytes 4 (sat32 run) ++ leBytes 4 (sat32 queue)

/-- The result words as the reply carries them: a BERTH_QUERY of scope 2 gives the job's frozen flag as it stands now (R292). -/
def State.resultsAt (s : State) (g : Prog) (o : Outc) : List W64 :=
  match (if phOp g.hdr = 0x0105 && g.pkt.f 0 34 32 = 2 then s.cmd.jobs.get? (g.ring / 4) else none) with
  | some j => o.results.set 6 (if j.frozen then 1 else 0)
  | none => o.results

/-- The reply is written: results and bytes 8 to 31 first, then bytes 0 to 7 with DONE (R275). A slot of length 0 takes none. -/
def State.writeReply (s : State) (g : Prog) (o : Outc) : State :=
  if phRlen g.hdr = 0 then s
  else
    let key := sysKey ((s.ring g.ring).addr (BitVec.ofNat 32 g.at_) + phSlot g.hdr)
    let rs := s.resultsAt g o
    let fits := rs.take ((phRlen g.hdr - 32) / 8)
    let note := o.note ||| g.note
    let h := replyHeader (finalStatus o.status g.bp note) note (fits.length < rs.length) (8 * fits.length) (phSeq g.hdr)
      (finalDetail g o note) g.bpWait (ceilUs g.netWait) (s.usSince g.acceptedAt) ((g.acceptedAt - g.bellAt) / ticksPerUs)
    let s := s.store (key + 32) (fits.flatMap fun w => leBytes 8 w.toNat)
    (s.store (key + 8) (h.drop 8)).store key (h.take 8)

/-- What a completed command adds to its job's step: a plan's log, a digest; and to every job's step and the Ledger, a REPAIR
(R370, R371, R391, R392). -/
def State.progLogs (s : State) (g : Prog) (o : Outc) : State :=
  let job := g.ring / 4
  let p := g.pkt
  match (if g.ring = adminRing then none else s.cmd.jobs.get? job) with
  | some j =>
    if 0x0100 ≤ o.status then s
    else if p.op = 0x0301 then
      let n := p.planTokens
      let log := s.mem.read (berthKey (handleIndex (p.lo 5)) 0) (8 * p.planParams.topk * n)
      let e := (g.ring % 4, g.at_, leBytes 2 (p.f 0 15 0) ++ leBytes 4 n ++ log)
      s.setCmd { s.cmd with jobs := s.cmd.jobs.put job { j with planLog := j.planLog ++ [e] } }
    else if p.op = 0x0A01 then
      let d := BitVec.ofNat 512 (leNat (o.results.flatMap fun w => leBytes 8 w.toNat))
      s.setCmd { s.cmd with jobs := s.cmd.jobs.put job { j with digLog := j.digLog ++ [(g.ring % 4, g.at_, d)] } }
    else s
  | none =>
    if p.op = 0x0802 && o.status < 0x0200 then
      let s := s.setCmd { s.cmd with jobs := s.cmd.jobs.mapVals fun _ j => { j with evts := j.evts + 1 } }
      (s.perm 3 (p.f 0 31 4 * 16) (leBytes 8 (p.w 0).toNat ++ leBytes 8 (o.results.getD 1 0).toNat)).bump ctrRepairs 1
    else s

/-- When a launch completes, the lines of a predictor's target that it was to read leave the clusters' shadow areas (R154, R156). -/
def State.dropTargets (s : State) (g : Prog) : State :=
  let hit := fun (x : Shadow) => x.ring = g.ring && x.at_ = g.at_ && s.place.preds.any fun e => e.2.target = x.handle
  let gone := s.place.shadows.flatMap fun d => d.2.filter hit
  if phOp g.hdr != 0x0202 || gone.isEmpty then s
  else gone.foldl State.lineGone (s.setPlace { s.place with shadows := s.place.shadows.mapVals fun _ d => d.filter fun x => !hit x })

/-- A command ends with an outcome: its effect on its plan, its reply, its releases, DONE and its interrupt (R163, R169, R199, R259, R272,
R275, R278). -/
def State.complete (s : State) (g : Prog) (o : Outc) : State :=
  let mine := fun (c : Option (Nat × Nat)) => if c = some (g.ring, g.at_) then none else c
  let s := if [0x0302, 0x0303, 0x0304, 0x0305].contains (phOp g.hdr) && (o.status = stTimeout || o.status = stAbsent) then s.abandon (g.ring, g.at_) else s
  let s := s.setNet { s.net with
    unacked := s.net.unacked.map fun t => { t with cmd := mine t.cmd }
    ports := s.net.ports.mapVals fun _ x => { x with queue := x.queue.map fun q => { q with cmd := mine q.cmd } } }
  let g := { g with outcome := some o }
  let s := ((s.progEnds g o).progLogs g o).writeReply g o
  let s := ((s.planMoves g).releaseClaims g.claims).releaseTaken (g.taken.map (·.1))
  let s := ((s.farCloses (g.ring, g.at_)).dropTargets g).leaveAhead g.ring g.at_
  let s := s.setCmd { s.cmd with progs := s.cmd.progs.filter fun q => !(q.ring = g.ring && q.at_ = g.at_) }
  let r := (s.ring g.ring).finish g.at_ (phLen g.hdr)
  let s := s.setRing g.ring r
  if phIrq g.hdr then s.emit (.irq r.irqCore (g.ring + 1)) else s

/-- COMMAND_COMPLETE: the work of the command at a ring offset has ended; the reply is written with DONE last, releases take effect and DONE
advances (R272, R275, R276, R278). -/
def execCommandComplete (n at_ : Nat) (s : State) : Host.Outcome State Fault Refusal :=
  match s.prog n at_ with
  | none => .next s
  | some g0 =>
    let t := s.exchSettle g0
    let g := (t.prog n at_).getD g0
    match t.progOutcome g with
    | none => .next s
    | some o => .next (t.complete g o)

/-! ### The end of a wait under back-pressure (R165) -/

/-- What refuses a packet that takes buffers. -/
def waitingBads (op : Nat) : Pkt → State → List Bad :=
  match op with
  | 0x0301 => routePlanBad
  | 0x0302 => dispatchBad
  | 0x0303 => gatherBad
  | 0x0304 => gatherBad
  | 0x0305 => combineGradBad
  | 0x0405 => scaleAgreeBad
  | 0x0401 => reduceBad
  | 0x0402 => gatherAllBad
  | 0x0404 => broadcastBad
  | 0x0403 => permuteBad
  | 0x0501 => stashPutBad
  | _ => stashGetBad

/-- The effect of a packet that takes buffers. -/
def waitingEff (op : Nat) : Pkt → State → State :=
  match op with
  | 0x0301 => routePlanEff
  | 0x0302 => dispatchEff
  | 0x0303 => gatherEff
  | 0x0304 => gatherEff
  | 0x0305 => combineGradEff
  | 0x0405 => scaleAgreeEff
  | 0x0401 => reduceEff
  | 0x0402 => gatherAllEff
  | 0x0404 => broadcastEff
  | 0x0403 => permuteEff
  | 0x0501 => stashPutEff
  | _ => stashGetEff

/-- The oldest packet of a ring, when it waits under back-pressure, and since when. -/
def State.waitingPkt (s : State) (n : Nat) : Option (Pkt × Nat) :=
  match s.packet n, (s.ring n).bpSince with
  | some p, some t => some (p, t)
  | _, _ => none

/-- The wait is over: the requester counts it, and the packet is accepted and attempts its take. -/
def State.waitOver (s : State) (p : Pkt) (since : Nat) : State :=
  let r := reqIndex p.job ((engineOf p.op).getD 0)
  let s := s.setReq r { (s.req r) with bpWait := sat32 ((s.req r).bpWait + max 1 (ceilUs (s.now - since))) }
  s.take1 p (waitingBads p.op) (waitingEff p.op)

/-- BACKPRESSURE_END: back-pressure ends and the waiting command attempts its take (R165). -/
def execBackpressureEnd (n : Nat) (s : State) : Host.Outcome State Fault Refusal :=
  match s.waitingPkt n with
  | none => .next s
  | some (p, t) => s.when (!s.backpressured p) (s.waitOver p t)

/-- BACKPRESSURE_WAIT_LIMIT: the waiting command reaches the job's wait limit and attempts its take (R165). -/
def execBackpressureWaitLimit (n : Nat) (s : State) : Host.Outcome State Fault Refusal :=
  match s.waitingPkt n with
  | none => .next s
  | some (p, t) => s.when ((s.cmd.jobs.get? p.job).any fun j => s.after t (1000 * j.waitMs)) (s.waitOver p t)

end Sys2Proof.Machine
end

