-- ==== Sys2Proof/Machine/PowerOps.lean ====
section
/-! DEFINITION. Power as commands and events share it: the gating of a cluster, the wait of `CLUSTER_STATE`, the governor's and the clamp's
actions, and the seconds of the always-on counter (R351 to R354, R359 to R362, R371). -/

namespace Sys2Proof.Machine

/-! ### Seconds (R355, R371) -/

/-- Each whole second of the always-on counter adds to POWER_S, to RUN_S in IDLE and ACTIVE, and to HOT_S at or above 95 °C (R371). -/
def State.second (s : State) : State :=
  if s.now % 25000000 = 0 then
    let s := s.bump ctrPowerS 1
    let s := if s.side.pstate = .idle || s.side.pstate = .active then s.bump ctrRunS 1 else s
    if 95 ≤ s.side.tj then s.bump 4 1 else s
  else s

/-- The fast clocks run: STARTING, IDLE and ACTIVE (R350). -/
def State.clocked (s : State) : Bool := s.side.pstate = .starting || s.side.pstate = .idle || s.side.pstate = .active

/-- The module is ready: IDLE or ACTIVE (R348). -/
def State.running (s : State) : Bool := s.side.pstate = .idle || s.side.pstate = .active

/-- Has a compare timer's period passed since it was last served (R357)? -/
def State.timerDue (s : State) (i us : Nat) : Bool := s.after ((s.clk.timers.getD i 0).toNat) us

/-- A compare timer is served. -/
def State.served (s : State) (i : Nat) : State := s.setClk { s.clk with timers := s.clk.timers.put i s.clk.counter }

/-! ### Gating a cluster (R352) -/

/-- The home of a page is in the harbour SRAM of a cluster of this module. -/
def inSramOf (c : Nat) (base : BitVec 46) : Bool :=
  gaSpace (pageAddr base) = 0 && gaRegion (pageAddr base) = 1 && gaCluster (pageAddr base) = c

/-- Some page has its home, or the home it moves to, in the cluster. -/
def State.sramPages (s : State) (c : Nat) : Bool :=
  s.place.berths.any fun b => b.2.pages.any fun p => inSramOf c p.2.base || p.2.goal.any (inSramOf c) || p.2.old.any (inSramOf c)

/-- The cluster runs nothing and holds no page. -/
def State.clusterQuiet (s : State) (c : Nat) : Bool := (s.runningOn c).isEmpty && !s.sramPages c

/-- Work that waits for a cluster. -/
def State.workWaits (s : State) (c : Nat) : Bool :=
  (s.waitingGroups false ++ s.waitingGroups true).any fun g => (s.comp.groups.get? g).any fun x => x.cluster = c

/-- A packet in a ring's look-ahead binds work to the cluster (R352, R367). -/
def State.aheadBinds (s : State) (c : Nat) : Bool := s.cmd.aheadAt.any fun e => e.2.contains c

/-- No instance is bound to the cluster, and no packet in the look-ahead binds work there (R352, R367). -/
def State.unbound (s : State) (c : Nat) : Bool := (s.runningOn c).isEmpty && !s.workWaits c && !s.aheadBinds c

/-- The replicas that the cluster holds are dropped (R135, R352). -/
def State.dropReplicas (s : State) (c : Nat) : State := s.dropWhere fun _ f => sramCluster f != some c

/-- Every long-accumulator entry of a cluster is written back, and its place freed (R109, R352). -/
def State.laHome (s : State) (c : Nat) : State :=
  let mine := s.comp.las.filter fun e => s.homeCluster e.1 = c
  let s := mine.foldl (fun s e => s.writeMem e.1 e.2.bytes) s
  s.setComp { s.comp with las := s.comp.las.keep fun k _ => !(mine.any fun e => e.1 = k) }

/-- The cluster's shadow lines, fetches and cached translations go. -/
def State.dropLines (s : State) (c : Nat) : State :=
  (s.place.shadows.getD c []).foldl State.lineGone
    (s.setPlace { s.place with shadows := s.place.shadows.drop c, fetches := s.place.fetches.drop c, tcs := s.place.tcs.keep fun k _ => k / 256 != c })

/-- The cores of a cluster, spares among them. -/
def coresOf (c : Nat) : List Nat := (List.range 17).map (17 * c + ·)

/-- Operand SRAM and instruction memory of the cluster's cores, and what their registers hold, are discarded (R352). -/
def State.forgetCores (s : State) (c : Nat) : State :=
  (coresOf c).foldl (fun s k =>
    (s.setMem ((s.mem.forget (sramKey k 0) (sramKey (k + 1) 0)).forget (imemKey k 0) (imemKey (k + 1) 0))).setComp
      { s.comp with cores := s.comp.cores.drop k }) s

/-- The gating sequence starts (R352). -/
def State.gateStart (s : State) (c : Nat) : State :=
  let s := (((s.laHome c).dropReplicas c).dropLines c).forgetCores c
  s.updCluster c fun x => { x with pow := .gating, thinOn := false, thinOff := false, thinHeld := false }

/-- A gate that waits for the cluster begins: the cluster is idle, holds no work, and no page when it is kept gated (R354, R360). -/
def State.gateReady (s : State) (c : Nat) : Bool :=
  let x := s.cluster c
  x.pow = .idle && (s.runningOn c).isEmpty && ((x.keepGated && !s.sramPages c) || x.heldOff)

/-- Begin the gating of a cluster that is ready for it. -/
def State.gateIfReady (s : State) (c : Nat) : State := if s.gateReady c then s.gateStart c else s

/-! ### CLUSTER_STATE (R353, R354) -/

/-- Has the cluster reached the state that a gate (1) or a wake (2, 3) waits for? -/
def State.reached (s : State) (want c : Nat) : Bool :=
  if want = 1 then (s.cluster c).pow = .gated else (s.cluster c).pow = .running || (s.cluster c).pow = .idle

/-- STATE of a cluster's state byte. -/
def State.clusterCode (s : State) (c : Nat) : Nat :=
  if !s.enabled c then 8
  else
    match (s.cluster c).svc with
    | .disabled => 8
    | .retired => 7
    | .resetting => 6
    | _ =>
      match (s.cluster c).pow with
      | .running => 0
      | .idle => 1
      | .gating => 2
      | .gated => 3
      | .waking => 4
      | .rechar => 5

/-- Only filler work is bound to the cluster. -/
def State.onlyFiller (s : State) (c : Nat) : Bool := s.runsKind c true && !s.runsKind c false

/-- A cluster's state byte (R353). -/
def State.clusterByte (s : State) (c : Nat) : Byte :=
  BitVec.ofNat 8 (s.clusterCode c * 16 + (if (s.cluster c).held then 8 else 0) + (if (s.cluster c).manual then 4 else 0) +
    (if s.onlyFiller c then 2 else 0))

/-- r0 to r2 of CLUSTER_STATE: one byte per cluster. -/
def State.clusterWords (s : State) : List W64 := wordsOf 3 ((List.range 24).map s.clusterByte)

/-- HELD. -/
def stHeld : Nat := 0x0102

/-- CLUSTER_STATE commands that wait for clusters go on: one whose clusters have all reached their state completes (R354). -/
def State.clusterDone (s : State) : State :=
  s.cmd.progs.foldl (fun s g =>
    match g.work with
    | .cluster want left =>
      let left := left.filter fun c => !s.reached want c
      let s := s.updProg g.ring g.at_ fun g => { g with work := .cluster want left }
      if left.isEmpty then
        s.conclude g.ring g.at_ { status := if want = 3 then stHeld else 0, note := 0, detail := 0, results := s.clusterWords }
      else s
    | _ => s) s

/-! ### The governor and the clamp (R359 to R362) -/

/-- Clusters with the FILLER bit whose duty is above 1/8. -/
def State.fillerDuty (s : State) : List Nat := s.clustersIn.filter fun c => s.onlyFiller c && 1 < (s.cluster c).duty

/-- Set the issue duty of some clusters. -/
def State.setDuty (s : State) (ds : List (Nat × Nat)) : State := ds.foldl (fun s d => s.updCluster d.1 fun x => { x with duty := d.2 }) s

/-- The duties as they stand. -/
def State.duties (s : State) (cs : List Nat) : List (Nat × Nat) := cs.map fun c => (c, (s.cluster c).duty)

/-- The draw after the last action is known: its saving is recorded (R360). -/
def State.govSettle (s : State) (draw : Nat) : State :=
  match s.chip.govBefore with
  | none => s
  | some (a, b) => s.setChip { s.chip with actions := (a, b - draw) :: s.chip.actions, govBefore := none }

/-- An action is taken at a draw (R360). -/
def State.govAct (s : State) (a : GovAct) (draw : Nat) : State := s.setChip { s.chip with govBefore := some (a, draw), govQuiet := none }

/-- Every open job's step is marked. -/
def State.markJobs (s : State) (f : Job → Job) : State := s.setCmd { s.cmd with jobs := s.cmd.jobs.mapVals fun _ j => f j }

/-- The governor takes the first action that remains: filler duty, gating of a filler cluster, or a lower clock (R360, R364). -/
def State.govLower (s : State) (draw : Nat) (clock : Bool) : State :=
  let cs := s.fillerDuty
  if !cs.isEmpty then
    (s.setDuty ((s.duties cs).map fun d => (d.1, d.2 - 1))).govAct (.duty (s.duties cs)) draw
  else
    match (s.clustersIn.filter fun c => s.onlyFiller c && !(s.cluster c).heldOff).max? with
    | some c => ((s.updCluster c fun x => { x with heldOff := true }).askLeave c).govAct (.gate c) draw
    | none =>
      if clock && s.chip.step < 5 then
        ((s.setChip { s.chip with step := s.chip.step + 1 }).markJobs fun j => { j with gov3 := j.gov3 + 1, engaged := true }).govAct (.clock s.chip.step) draw
      else s

/-- Undo an action (R360); a step change in fixed-clock mode sets the cap-engaged flag of each job's step record (R364). -/
def State.govUndo (s : State) (a : GovAct) : State :=
  match a with
  | .duty ds => s.setDuty ds
  | .gate c => (s.updCluster c fun x => { x with heldOff := false }).enableCluster c
  | .clock b =>
    let t := s.setChip { s.chip with step := max b s.chip.modeStep }
    if s.chip.fixed && t.chip.step != s.chip.step then t.markJobs fun j => { j with engaged := true } else t
  | .halve => s.setChip { s.chip with halved := false }

/-- The governor reverses the most recent action when, for 10 ms, the draw plus its saving has stayed below the cap less 50 W (R360). -/
def State.govRaise (s : State) (draw : Nat) : State :=
  match s.chip.actions with
  | [] => s
  | (a, w) :: rest =>
    if draw + w + 50 < s.chip.cap then
      match s.chip.govQuiet with
      | none => s.setChip { s.chip with govQuiet := some s.now }
      | some t => if s.after t 10000 then (s.setChip { s.chip with actions := rest, govQuiet := none }).govUndo a else s
    else s.setChip { s.chip with govQuiet := none }

/-- A clamp action is counted, in the Ledger and in the step of every job (R362). -/
def State.clampAct (s : State) (a : GovAct) (average : Nat) : State :=
  (((s.govSettle average).govAct a average).bump ctrClamp 1).markJobs fun j => { j with clampN := j.clampN + 1, engaged := true }

/-- The clamp's next action, the first of an excess or a later one: filler duty to 1/8, then the clock, then the issue rate (R362). -/
def State.clampNow (s : State) (first : Bool) (average : Nat) : State :=
  let cs := s.fillerDuty
  if first then
    if cs.isEmpty then s
    else (s.clampAct (.duty (s.duties cs)) average).setDuty (cs.map fun c => (c, 1))
  else if s.chip.step < 5 then
    let t := s.clampAct (.clock s.chip.step) average
    t.setChip { t.chip with step := s.chip.step + 1 }
  else if !s.chip.halved then
    let t := s.clampAct .halve average
    t.setChip { t.chip with halved := true }
  else s

end Sys2Proof.Machine
end

