-- ==== Sys2Proof/Machine/PowerFamily.lean ====
section
/-! DEFINITION. The power commands, and the governor, the clamp, droop, energy and Ledger events (R347 to R371). -/

namespace Sys2Proof.Machine

/-! ### POWER_CAP, CLAMP_ADOPT, CLOCK_MODE (R359, R364) -/

/-- The cap of a POWER_CAP in W. -/
def Pkt.watts (p : Pkt) : Nat := p.f 0 11 0

/-- What refuses a POWER_CAP. -/
def powerCapBad (p : Pkt) (_ : State) : List Bad := mal 0 (p.watts < 1200 || 3200 < p.watts || p.watts % 25 != 0)

/-- POWER_CAP: sets the cap and returns the former one; the clamp register adopts a higher cap at once and a lower one 10 ms later (R303, R359). -/
def execPowerCap (s : State) : Host.Outcome State Fault Refusal :=
  s.command adminRing (isOp 0x0701) powerCapBad fun p s =>
    let old := s.chip.cap
    let chip := { s.chip with cap := p.watts }
    let chip :=
      if chip.clamp ≤ p.watts then { chip with clamp := p.watts, clampDue := [] }
      else { chip with clampDue := (chip.clampDue.filter fun d => p.watts ≤ d.1) ++ [(p.watts, s.now + 10000 * ticksPerUs)] }
    (s.setChip chip).done p [BitVec.ofNat 64 old]

/-- CLAMP_ADOPT: 10 ms after a lower POWER_CAP completed, the clamp register adopts it (R347, R359). -/
def execClampAdopt (s : State) : Host.Outcome State Fault Refusal :=
  match s.chip.clampDue with
  | [] => .next s
  | (w, t) :: rest => s.when (t ≤ s.now) (s.setChip { s.chip with clamp := w, clampDue := rest })

/-- STEP of a CLOCK_MODE. -/
def Pkt.clockStep (p : Pkt) : Nat := p.f 0 3 1

/-- A clock action of the governor or the clamp is in force. -/
def Chip.slowed (c : Chip) : Bool :=
  (c.actions.map (·.1) ++ (c.govBefore.map (·.1)).toList).any fun a =>
    match a with
    | .clock _ => true
    | _ => false

/-- The actions without those on the clock. -/
def Chip.unclock (c : Chip) : Chip :=
  let isClock := fun (a : GovAct) =>
    match a with
    | .clock _ => true
    | _ => false
  { c with actions := c.actions.filter fun a => !isClock a.1, govBefore := if (c.govBefore.map (·.1)).any isClock then none else c.govBefore }

/-- What refuses a CLOCK_MODE. -/
def clockModeBad (p : Pkt) (_ : State) : List Bad := mal 0 (5 < p.clockStep)

/-- CLOCK_MODE: sets governed or fixed mode and the step, and returns the former mode and step as the parameter word holds them (R303, R364). -/
def execClockMode (s : State) : Host.Outcome State Fault Refusal :=
  s.command adminRing (isOp 0x0702) clockModeBad fun p s =>
    let old := s.chip.modeStep * 2 + (if s.chip.fixed then 1 else 0)
    let chip := { s.chip with fixed := p.bit 0 0, modeStep := p.clockStep }
    let chip :=
      if p.bit 0 0 then { chip.unclock with step := p.clockStep }
      else { chip with step := if chip.slowed then max chip.step p.clockStep else p.clockStep }
    let s := s.setChip chip
    (if p.bit 0 0 then s else s.markJobs fun j => { j with fixedStep := false }).done p [BitVec.ofNat 64 old]

/-! ### ENERGY_READ and ENERGY_INTERVAL (R369) -/

/-- The scope of an ENERGY_READ names no open job, or another job than the ring's. -/
def energyBad (p : Pkt) (s : State) : List Bad :=
  mal 0 (p.f 0 6 0 != 127 && !s.cmd.jobs.has (p.f 0 6 0)) ++ mal 0 (!p.admin && p.f 0 6 0 != p.job)

/-- ENERGY_READ: a job's energy since JOB_OPEN and in the step, or the module's since start-up, in mJ (R303, R369). -/
def execEnergyRead (n : Nat) (s : State) : Host.Outcome State Fault Refusal :=
  s.command n (isOp 0x0703) energyBad fun p s =>
    match (if p.f 0 6 0 = 127 then none else s.cmd.jobs.get? (p.f 0 6 0)) with
    | some j => s.done p [BitVec.ofNat 64 (j.energy / 1000), BitVec.ofNat 64 (j.stepEnergy / 1000)]
    | none => s.done p [BitVec.ofNat 64 (s.chip.energy / 1000), 0]

/-- What one meter's energy gives to a job: a part in proportion to the job's uses (R369 steps 1 and 2). -/
def energyPart (u : EnergyUse) (job : Nat) : Nat :=
  u.energy * ((u.uses.filter fun e => e.1 = job).map (·.2)).sum / (u.uses.map (·.2)).sum

/-- A job's energy from the clusters and stacks (R369 steps 1 and 2). -/
def directEnergy (meters : List EnergyUse) (job : Nat) : Nat := (meters.map fun u => energyPart u job).sum

/-- A job's energy of an interval in µJ: its energy from the clusters and stacks, and with it a part in proportion of the rest (R369 step 3). -/
def jobEnergy (total : Nat) (meters : List EnergyUse) (job : Nat) : Nat :=
  let jobs := (meters.flatMap fun u => u.uses.map (·.1)).dedup
  let own := directEnergy meters job
  own + (total - (meters.map (·.energy)).sum) * own / (jobs.map (directEnergy meters)).sum

/-- ENERGY_INTERVAL: each 1 ms the module's input energy is measured in µJ and attributed to jobs in proportion to the cycles and bytes that they
used; what no job receives, and what a part in whole µJ leaves over, is the module's own (R369). The measurements, and the uses that go with
them, arrive with the event. -/
def execEnergyInterval (total : Nat) (meters : List EnergyUse) (s : State) : Host.Outcome State Fault Refusal :=
  let given := (s.cmd.jobs.keyList.map (jobEnergy total meters)).sum
  let t := s.setCmd { s.cmd with jobs := s.cmd.jobs.mapVals fun i j =>
    { j with energy := j.energy + jobEnergy total meters i, stepEnergy := j.stepEnergy + jobEnergy total meters i } }
  let t := t.bump ctrEnergy ((s.chip.energy % 1000 + total) / 1000)
  let t := t.setChip { t.chip with energy := s.chip.energy + total, ownEnergy := s.chip.ownEnergy + (total - given) }
  s.when (s.clocked && s.timerDue 8 1000 && (meters.map (·.energy)).sum ≤ total) (t.served 8)

/-- The clusters that a CLUSTER_STATE acts on. -/
def Pkt.clusters (p : Pkt) (s : State) : List Nat := if p.bit 0 7 then s.clustersIn else [12 * p.f 0 2 2 + p.f 0 6 3]

/-- The packet is a CLUSTER_STATE with an action. -/
def isClusterState (a : Nat) (p : Pkt) : Bool := p.op = 0x0704 && p.f 0 1 0 = a

/-- A cluster out of range, or a gate or wake of a retired or disabled one. -/
def clusterBad (p : Pkt) (s : State) : List Bad :=
  mal 0 (!p.bit 0 7 && 11 < p.f 0 6 3) ++ mal 0 ((p.f 0 1 0 = 1 || p.f 0 1 0 = 2) && !(p.clusters s).all s.inService)

/-- CLUSTER_STATE with action 0: every cluster's state byte (R353, R354). -/
def execClusterStateRead (s : State) : Host.Outcome State Fault Refusal :=
  s.command adminRing (isClusterState 0) clusterBad fun p s => s.done p s.clusterWords

/-- CLUSTER_STATE gate: no new instance is bound, the cluster's work leaves it, and it is gated and kept gated; the command completes when it
is (R351, R354). -/
def execClusterStateGate (s : State) : Host.Outcome State Fault Refusal :=
  s.command adminRing (isClusterState 1) clusterBad fun p s =>
    let cs := p.clusters s
    let s := cs.foldl (fun s c =>
      ((s.updCluster c fun x => { x with keepGated := true, manual := true }).askLeave c).gateIfReady c) s
    (s.works p (.cluster 1 cs)).clusterDone

/-- CLUSTER_STATE wake: the cluster wakes and is kept awake; its wake may be held behind a shut-down, or merge into an enable already held
(R351, R354). -/
def execClusterStateWake (s : State) : Host.Outcome State Fault Refusal :=
  s.command adminRing (isClusterState 2) clusterBad fun p s =>
    let cs := p.clusters s
    let down := fun (c : Nat) => (s.cluster c).pow = .gating || (s.cluster c).pow = .rechar
    let held := cs.any fun c => down c && !(s.cluster c).held
    let merged := cs.any fun c => down c && (s.cluster c).held
    let s := cs.foldl (fun s c => (s.updCluster c fun x => { x with keepGated := false, manual := true }).enableCluster c) s
    let s := if merged then s.updProg p.ring p.at_ fun g => { g with note := g.note ||| noteMerged } else s
    (s.works p (.cluster (if held then 3 else 2) cs)).clusterDone

/-- CLUSTER_STATE automatic: MANUAL is cleared (R354). -/
def execClusterStateAutomatic (s : State) : Host.Outcome State Fault Refusal :=
  s.command adminRing (isClusterState 3) clusterBad fun p s =>
    let s := (p.clusters s).foldl (fun s c => s.updCluster c fun x => { x with keepGated := false, manual := false }) s
    s.done p s.clusterWords

/-! ### Gating, waking and their ends (R351, R352) -/

/-- CLUSTER_AUTO_GATE: a cluster that has been idle for 2 ms, with no packet in the look-ahead that binds work to it, starts its gating
sequence; a gate that a command or the governor asked for starts when the cluster's work has left it (R352, R354, R360). -/
def execClusterAutoGate (c : Nat) (s : State) : Host.Outcome State Fault Refusal :=
  let x := s.cluster c
  let idle := x.pow = .idle && !x.manual && s.after x.idleSince 2000 && s.unbound c
  s.when (s.running && s.inService c && (s.gateReady c || idle)) (s.gateStart c)

/-- CLUSTER_WAKE: a binding, an access to a retained bank or a CLUSTER_STATE wake enables the cluster (R351, R352). -/
def execClusterWake (c : Nat) (why : WakeBy) (s : State) : Host.Outcome State Fault Refusal :=
  let asked := match why with
    | .binding => s.workWaits c && !(s.cluster c).keepGated
    | .retainedAccess => s.sramPages c
    | .command => s.cmd.progs.any fun g => match g.work with
      | .cluster want left => 2 ≤ want && left.contains c
      | _ => false
  s.when (s.running && s.inService c && asked) (s.enableCluster c)

/-- THIN_PATH_GATE: a thin path with no instance bound for 100 µs shuts down (R351). -/
def execThinPathGate (c : Nat) (s : State) : Host.Outcome State Fault Refusal :=
  let x := s.cluster c
  s.when (x.thinOn && x.thinInst.isNone && s.after x.thinIdle 100) (s.updCluster c fun x => { x with thinOn := false, thinOff := true })

/-- ENABLE_COMPLETE: a function's enable has finished: the work that waited for it goes on, and a disable that waited is applied. A port's
enable is its training and the module's is start-up, which end by their own events (R351). -/
def execEnableComplete (f : PowerFn) (s : State) : Host.Outcome State Fault Refusal :=
  let awake := fun (c : Nat) =>
    s.when ((s.cluster c).pow = .waking)
      (((((s.updCluster c fun x => { x with pow := .idle, idleSince := s.now }).settlePower).startWaiting).gateIfReady c).clusterDone)
  match f with
  | .cluster c => awake c
  | .rechar c => awake c
  | .thinPath c =>
    let x := s.cluster c
    s.when (x.thinInst.isSome && !x.thinOn && !x.thinOff && s.awake c) (s.updCluster c fun x => { x with thinOn := true })
  | .port _ => .next s
  | .module => .next s

/-! ### Governor, clamp and droop (R360 to R363) -/

/-- The hottest junction is measured: THERMAL_CYCLES counts a fall to 40 °C or below after 80 °C or above (R361, R371). -/
def State.measure (s : State) (junction : Nat) : State :=
  let s := if junction ≤ 40 && s.side.hot80 then s.bump 3 1 else s
  s.setSide { s.side with tj := junction, cool := junction < 85, hot80 := if 80 ≤ junction then true else if junction ≤ 40 then false else s.side.hot80 }

/-- GOVERNOR_TICK: every 100 µs, on the 100 µs average of the input power and the hottest junction, the governor takes one action above the cap
or while the thermal governor acts, and reverses the most recent one when the draw allows it; the coolant sensor that it reads gives a free value (R360,
R361, R364, R407; log 2). -/
def execGovernorTick (draw junction : Nat) (s : State) : Host.Outcome State Fault Refusal :=
  let t := (s.measure junction).served 3
  let t := (t.setSide { t.side with tcool := t.freeVal.toNat % 256 }).freeNext
  let hot := if 100 ≤ junction then true else if junction < 97 then false else s.chip.hot
  let t := (t.setChip { t.chip with hot := hot }).govSettle draw
  let t := if s.chip.cap < draw || hot then t.govLower draw (!s.chip.fixed || hot) else t.govRaise draw
  s.when (s.running && s.timerDue 3 100) (if hot && t.chip.govBefore.isSome then t.attn causeThermal else t)

/-- CLAMP_CHECK: while the 10 ms average exceeds the clamp register, the clamp sets filler duty to 1/8 at once, lowers the clock by a step each
1 ms, and at step 5 halves the arrays' issue rate; PIN shows the average (R362, R407). -/
def execClampCheck (average : Nat) (s : State) : Host.Outcome State Fault Refusal :=
  let next := fun (s : State) => s.setChip { s.chip with clampNext := some (s.now + 1000 * ticksPerUs) }
  let u := s.setSide { s.side with pin := average }
  .next (if !s.running then s
  else if average ≤ s.chip.clamp then u.setChip { s.chip with clampNext := none }
  else
    match s.chip.clampNext with
    | none => next (u.clampNow true average)
    | some t => if t ≤ s.now then next (u.clampNow false average) else u)

/-- DROOP_STRETCH: a droop detector stretches its domain's clock, a cluster below 24 or a Pier control domain above; each event is counted (R363). -/
def execDroopStretch (d : Nat) (s : State) : Host.Outcome State Fault Refusal :=
  let on := if d < 24 then (s.cluster d).stretched else s.chip.stretched.contains d
  let t := if d < 24 then s.updCluster d fun x => { x with stretched := true } else s.setChip { s.chip with stretched := d :: s.chip.stretched }
  s.when (s.clocked && !on && (24 ≤ d || s.inService d)) (t.bump ctrDroops 1)

/-- STRETCH_RELEASE: the rail has recovered for 200 ns and the stretch ends (R363). -/
def execStretchRelease (d : Nat) (s : State) : Host.Outcome State Fault Refusal :=
  .next (if d < 24 then s.updCluster d fun x => { x with stretched := false }
  else s.setChip { s.chip with stretched := s.chip.stretched.filter (· != d) })

/-! ### RECHAR_DUE and the Ledger (R358, R367, R370) -/

/-- Re-characterisation has fallen due: 2,000 power-on hours, or 30 calendar days with a calendar, after the last round (R367). -/
def State.recharNow (s : State) : Bool :=
  s.counter ctrRecharPower + 7200000 ≤ s.powerS ||
    (s.clk.calendar.isSome && s.counter ctrRecharCal != 0 && s.counter ctrRecharCal + 2592000 ≤ s.calendarNow)

/-- RECHAR_DUE: re-characterisation falls due for every cluster (R367). -/
def execRecharDue (s : State) : Host.Outcome State Fault Refusal :=
  let t := s.setChip { s.chip with recharDue := some s.powerS }
  s.when (s.chip.recharDue.isNone && s.recharNow) ((List.range 24).foldl (fun t c => t.updCluster c fun x => { x with recharDone := false }) t)

/-- LEDGER_SNAPSHOT: each hour of power-on time the counter snapshot is written (R370). -/
def execLedgerSnapshot (s : State) : Host.Outcome State Fault Refusal :=
  s.when (s.side.v54 && s.after s.ledger.snapAt 3600000000) s.snapshot

/-- LEDGER_EVENT_WRITE: the oldest ordinary event that waits is written; permanent events were written before their actions completed (R370). -/
def execLedgerEventWrite (s : State) : Host.Outcome State Fault Refusal :=
  match s.ledger.waiting with
  | [] => .next s
  | e :: rest => s.when s.side.v54 (s.setLedger ({ s.ledger with waiting := rest }.writeOrd e))

end Sys2Proof.Machine
end

