-- ==== Sys2Proof/Machine/ResetOps.lean ====
section
/-! DEFINITION. The module reset, the start of a start-up, and units that leave service (R313, R338, R342, R348, R349, R372 to R374). -/

namespace Sys2Proof.Machine

/-! ### What a module reset leaves (R338) -/

/-- A cluster after a module reset: its trim and its retirement remain. -/
def Cluster.afterReset (c : Cluster) : Cluster :=
  { Cluster.init with
    svc := if c.svc = .retired || c.svc = .disabled then c.svc else if c.retireAfter then .retired else .inService
    spare := c.spare, trim := c.trim, recharDone := c.recharDone }

/-- A core after a module reset: its fuses, its retirement or quarantine and its last self-test remain, and its mapping is that of its fuses. -/
def CoreHw.afterReset (c : CoreHw) : CoreHw :=
  { c with fusePend := false, mapped := c.fuse, faults := [], replays := 0, testing := false }

/-- A stack after a module reset. -/
def Stack.afterReset (x : Stack) : Stack := { Stack.init with st := x.st, sysGroup := x.sysGroup, sysUnits := x.sysUnits }

/-- A pseudo-channel after a module reset: its repairs remain. -/
def Pc.afterReset (x : Pc) (kept : Bool) : Pc :=
  { Pc.init with st := if x.st = .retiring && !kept then .inService else x.st, pprLeft := x.pprLeft, pprSpent := x.pprSpent, pprUsed := x.pprUsed, pprSoft := x.pprSoft }

/-- The units after a module reset: what is fused, trimmed or retired remains; cap, clock and energy are as at start-up (R359, R364, R369). -/
def Chip.afterReset (c : Chip) : Chip :=
  { Chip.init with
    gradeB := c.gradeB, enMask := c.enMask, fuseBlock := c.fuseBlock, fp := c.fp, certs := c.certs
    clusters := c.clusters.mapVals fun _ x => x.afterReset
    cores := c.cores.mapVals fun _ x => x.afterReset
    hbm := c.hbm.mapVals fun _ x => x.afterReset
    pcs := c.pcs.mapVals fun i x => x.afterReset (c.retiring.contains (.pc (i / 64) (i % 64)) || c.retiring.contains (.stack (i / 64)))
    pairs := c.pairs, pierTrim := c.pierTrim, recharDue := c.recharDue, retiring := c.retiring }

/-- Memory after a module reset: the flash alone (R338, R377). -/
def Mem.afterReset (m : Mem) : Mem := { Mem.init with cells := m.cells.filter fun c => flashKey 0 ≤ c.1 && c.1 < flashKey (2 ^ 48) }

/-- The networks after a module reset: the configuration in flash alone (R245, R260, R262, R377). -/
def Net.afterReset (n : Net) : Net := { Net.init with plan := n.plan, farPort := n.farPort, farShare := n.farShare }

/-- What waits to leave, after a module reset: Cricket's own queue and buffer alone (R338). -/
def Wire.afterReset (w : Wire) : Wire := { Wire.init with cricketTx := w.cricketTx, cricketRx := w.cricketRx, cricketSent := w.cricketSent }

/-- Cricket after a module reset: its always-on state remains; start-up begins again after stage 1 (R338, R372). -/
def Side.afterReset (d : Side) : Side :=
  { d with pstate := .standby, pg := false, stageDone := d.stageDone &&& 2, halted := false, retiredAny := false, ready := false, readyHeld := false,
           shutting := false, heldOn := false, osMeas := 0, harts := 0, hartEntry := [], datagram := false, reports := [], romPath := false,
           stage1Latch := false, tj := 0 }

/-- Counters that the events in flash carry, which no loss of the live counters touches. -/
def ledgerKept : List Nat := [ctrInc, ctrPermSeq, ctrOrdSeq, ctrOrdLost, ctrFlags]

/-- The live counters are lost back to the last snapshot (R370; DESIGN CHOICE, log 24: the most that the rule allows). -/
def Ledger.lose (l : Ledger) : Ledger :=
  { l with ctr := ledgerKept.foldl (fun m w => if l.ctr.has w then m.put w (l.ctr.getD w 0) else m) l.snap, units := l.unitSnap }

/-- Causes before which the counter snapshot is written: the watchdog, a hard fault, FAULT_INJECT and an orderly shut-down (R348, R370). -/
def snapshotFirst (cause : Nat) : Bool := [2, 5, 6, 7, 8, 9, 10].contains cause

/-- Everything volatile is lost, and nothing is started (R338). -/
def State.loseAll (s : State) : State :=
  (((((((((((s.setSide s.side.afterReset).setChip s.chip.afterReset).setComp Comp.init).setMem s.mem.afterReset).setPlace Place.init).setCmd
    Cmd.init).setQuay Quay.init).setExch Exch.init).setColl Colls.init).setNet s.net.afterReset).setHealth Health.init).setWire s.wire.afterReset

/-- A firmware image that is being written when power or clocks go may be left invalid: which, is a free value (R343; log 2). -/
def State.tearImage (s : State) : State :=
  if s.cmd.starting then (s.setSide { s.side with fwImage := if s.freeVal.getLsbD 0 then [] else s.side.fwImage }).freeNext else s

/-- A start-up begins when PWR_EN is asserted, RESET_N released, stage 1 complete, and neither a trip nor recovery holds the module (R372). -/
def State.tryStart (s : State) : State :=
  let d := s.side
  if d.v54 && d.pstate = .standby && d.pwrEn && !d.resetN && !d.supplyHeld && !d.shutting && d.stageDone.getLsbD 1 then
    (s.setSide { d with pstate := .starting, startAt := s.now, stageDone := 2, halted := false, retiredAny := false, fail := 0 }).bump ctrStarts 1
  else s

/-- Recovery mode is entered: everything but Cricket stays in reset, and the firmware cause is raised (R342). -/
def State.recovery (s : State) : State :=
  (s.setSide { s.side with pstate := .recovery, lstate := 0, rcvd := 0, llen := 0, limage := [], wdStarts := 0, halted := false }).attn causeFirmware

/-- A module reset of a cause (R338, R349): it is recorded, everything volatile is lost, and start-up follows; the third start-up in a row that a
watchdog reset ends before the operating system reports ready leads to recovery mode (R342). A module in TRIPPED or in recovery mode stays in it. -/
def State.moduleReset (s : State) (cause : Nat) : State :=
  let s := if snapshotFirst cause then s.snapshot else s.setLedger s.ledger.lose
  let s := (s.ord 1 0 (leBytes 1 cause)).bump ctrResets 1
  let s := if cause = 2 then s.bump ctrWatchdog 1 else s
  let s := s.attn causeReset
  let early := cause = 2 && s.side.pstate = .starting
  let wd := if early then s.side.wdStarts + 1 else if s.side.pstate = .starting then 0 else s.side.wdStarts
  let s := s.setSide { s.side with resetCause := cause, resetInc := s.ledger.inc + 1, wdStarts := wd }
  let p := s.side.pstate
  let s := s.tearImage.loseAll
  if p = .tripped || p = .recovery then s.setSide { s.side with pstate := p } else if 3 ≤ wd then s.recovery else s.tryStart

/-- A module reset after a hard fault of a control block, or as `FAULT_INJECT` asks (R317, R338, R344). -/
def State.hardReset (s : State) (cls : Nat) (unit_ : BitVec 32) (cause : Nat) (injected : Bool) : State :=
  (s.fault cls none unit_ 0 5 injected).moduleReset cause

/-! ### Halts (R373) -/

/-- The module halts with a fail code: in STARTING, with the cause that the code has. -/
def State.halt (s : State) (code : Nat) : State :=
  let s := s.setSide { s.side with halted := true, fail := code }
  if code = 0x11 then s.setSide { s.side with stage1Latch := true }
  else if code / 16 = 2 || code = 0x71 then s.attn causeFirmware
  else s.attn causeHealth

end Sys2Proof.Machine
end

