-- ==== Sys2Proof/Machine/RepairOps.lean ====
section
/-! DEFINITION. Repair as commands and events share it: units that a packet names, fuse words, emptying a unit, and the reset of a cluster
(R69 to R71, R143, R324 to R337). -/

namespace Sys2Proof.Machine

/-! ### The unit that a packet names (R303, R324) -/

/-- KIND. -/
def Pkt.kindOf (p : Pkt) : Nat := p.f 0 3 0
/-- INDEX. -/
def Pkt.index (p : Pkt) : Nat := p.f 0 31 24
/-- The cluster's index. -/
def Pkt.uCluster (p : Pkt) : Nat := 12 * p.f 0 4 4 + p.f 0 8 5
/-- The core's index. -/
def Pkt.uCore (p : Pkt) : Nat := 17 * p.uCluster + p.f 0 13 9
/-- The stack. -/
def Pkt.uStack (p : Pkt) : Nat := p.f 0 17 14
/-- The pseudo-channel's number in its stack. -/
def Pkt.uPc (p : Pkt) : Nat := p.f 0 23 18

/-- The packet is a REPAIR of a kind. -/
def isRepair (k : Nat) (p : Pkt) : Bool := p.op = 0x0802 && p.kindOf = k

/-- A field that the kind does not use is set: `i` INDEX, `m` the memory fields, `u` the core, `c` cluster and die. -/
def Pkt.unused (p : Pkt) (i pc stack core cluster : Bool) : Bool :=
  (!i && p.index != 0) || (!pc && p.uPc != 0) || (!stack && p.uStack != 0) || (!core && p.f 0 13 9 != 0) || (!cluster && p.f 0 8 4 != 0)

/-- A cluster that the packet names is disabled or out of range. -/
def clusterAbsent (p : Pkt) (s : State) : Bool := 11 < p.f 0 8 5 || !s.enabled p.uCluster || (s.cluster p.uCluster).svc = .disabled
/-- A core that the packet names is disabled or out of range. -/
def coreAbsent (p : Pkt) (s : State) : Bool := clusterAbsent p s || 16 < p.f 0 13 9 || (s.coreHw p.uCore).st = .disabled

/-! ### Array fuse words (R69 to R71, R328) -/

/-- The index that entry `e` holds: 0 ROW0, 1 ROW1, 2 COL0, 3 COL1. -/
def fuseIndex (w : BitVec 64) (e : Nat) : Nat := bitsOf w.toNat (9 * e + 7) (9 * e)
/-- Entry `e` is valid. -/
def fuseValid (w : BitVec 64) (e : Nat) : Bool := w.getLsbD (9 * e + 8)
/-- The word fails the check of R70: FCHECK, an index above 129, or one index twice. -/
def fuseBad (w : BitVec 64) : Bool :=
  crc16 (leBytes 5 w.toNat) != bitsOf w.toNat 55 40 ||
    ((List.range 4).any fun e => fuseValid w e && 129 < fuseIndex w e) ||
    (fuseValid w 0 && fuseValid w 1 && fuseIndex w 0 = fuseIndex w 1) || (fuseValid w 2 && fuseValid w 3 && fuseIndex w 2 = fuseIndex w 3)
/-- The word with entry `e` programmed in service, its INSVC bit set and FCHECK rewritten (R328). -/
def fuseProgram (w : BitVec 64) (e i : Nat) : BitVec 64 :=
  let low := bitsOf w.toNat 39 0 ||| ((i + 256) <<< (9 * e)) ||| (1 <<< (36 + e))
  BitVec.ofNat 64 (low + crc16 (leBytes 5 low) * 2 ^ 40)
/-- The first free entry of a kind: rows from 0, columns from 2. -/
def fuseFree (w : BitVec 64) (base : Nat) : Option Nat := [base, base + 1].find? fun e => !fuseValid w e
/-- FUSE_LEFT: the lesser of the counter and the free entries (R325). -/
def CoreHw.fuseLeft (c : CoreHw) : Nat := min (4 - c.spent) ((List.range 4).filter fun e => !fuseValid c.fuse e).length

/-! ### Emptying a unit (R134, R141, R143, R332) -/

/-- Some page stands, or moves to, a place that a predicate holds of. -/
def State.anyHome (s : State) (f : Berth → BitVec 46 → Bool) : Bool :=
  s.place.berths.any fun b => b.2.pages.any fun p => f b.2 p.2.base || p.2.goal.any (f b.2) || p.2.old.any (f b.2)

/-- Some page stands in a group of a stack. -/
def State.groupPages (s : State) (stack group : Nat) : Bool :=
  (s.anyHome fun _ x => inLocalHbm x && gaStack (pageAddr x) = stack && gaGroup (pageAddr x) = group) ||
    s.net.stashIn.any fun f => gaStack (f.2 * 2 ^ 18) = stack && gaGroup (f.2 * 2 ^ 18) = group

/-- Some page stands over the system region's share of its stack, or would. -/
def State.sharePages (s : State) : Bool :=
  s.anyHome fun b x => inLocalHbm x && (s.stack (gaStack (pageAddr x))).sysGroup = gaGroup (pageAddr x) && s.misplaced x b.frames

/-- The shares of the system region among some stacks: units of 256 KiB, one more on the lowest-numbered (R143). -/
def shareOf (sts : List Nat) (i : Nat) : Nat :=
  if sts.contains i then
    131072 / sts.length + (if sts.idxOf i < 131072 % sts.length then 1 else 0)
  else 0

/-- Lay the system region out over the stacks that are in service and not being retired. -/
def State.layShares (s : State) : State :=
  let st := (List.range 16).filter fun i => (s.stack i).st = .inService
  (List.range 16).foldl (fun s i => s.updStack i fun x => { x with sysUnits := shareOf st i }) s

/-- A stack is to be retired: all its groups are emptied, and its share of the system region moves (R143, R332). -/
def State.emptyStack (s : State) (stack : Nat) : State :=
  let s := if (s.stack stack).st = .inService then s.updStack stack fun x => { x with st := .retiring } else s
  let s := if s.chip.retiring.contains (.stack stack) then s else s.setChip { s.chip with retiring := s.chip.retiring ++ [.stack stack] }
  s.layShares

/-- Bytes of HBM that the pages of berths and of peers hold, with the harbour SRAM pages of a cluster that is emptied. -/
def State.heldBytes (s : State) (cluster : Option Nat) : Nat :=
  (s.place.berths.sumBy fun _ b => b.pages.sumBy fun _ p =>
    if inLocalHbm p.base || cluster.any (fun c => inSramOf c p.base) then pageSize b.cls else 0) + s.net.stashIn.length * 2 ^ 21

/-- MiB for which the pages that a retirement must move have no room, after `lost` bytes of berth capacity (R327). -/
def State.noRoom (s : State) (lost : Nat) (cluster : Option Nat) : Nat := ceilDiv (s.heldBytes cluster - (s.berthCap - lost)) (2 ^ 20)

/-- The REPAIR in progress of a kind on a unit, if there is one. -/
def State.repairOf (s : State) (kinds : List Nat) (unit_ : Nat) : Option (Prog × Nat) :=
  s.cmd.progs.findSome? fun g =>
    match g.work with
    | .repair k u => if kinds.contains k && u = unit_ && g.outcome.isNone then some (g, k) else none
    | _ => none

/-- A REPAIR in progress ends. -/
def State.repaired (s : State) (g : Prog) (kind unit_ result lost : Nat) : State :=
  s.conclude g.ring g.at_ { Outc.of 0 0 with results := [BitVec.ofNat 64 unit_, repairWord kind result 0 lost] }

/-! ### Draining and resetting a cluster (R334 to R337) -/

/-- A cluster begins to drain for a reset, which ends in its retirement or not (R334, R335). -/
def State.startDrain (s : State) (c : Nat) (retire : Bool) : State :=
  if (s.cluster c).svc = .inService then
    (s.updCluster c fun x => { x with svc := .draining, drainAt := some s.now, forced := false, retireAfter := retire }).askLeave c
  else if retire then s.updCluster c fun x => { x with retireAfter := true }
  else s

/-- The target-reset fault (code 0x08) of a kernel, of the operation that its bundle and slot name (R111, R337). -/
def State.targetReset (s : State) (k slot bundle : Nat) : State := s.raise k ⟨8, slot, false, bundle, 0⟩

/-- A page of a handle stands in the cluster. -/
def State.spanIn (s : State) (c : Nat) (h : BitVec 32) (ofs n : Nat) : Bool := h != 0 && s.anyPage h ofs n fun p => inSramOf c p.base

/-- The load reads the cluster. -/
def State.loadIn (s : State) (c : Nat) (l : LoadOp) : Bool := s.spanIn c l.handle l.ofs l.len
/-- The DMA reads or writes the cluster. -/
def State.dmaIn (s : State) (c : Nat) (d : DmaOp) : Bool := s.spanIn c d.src d.sofs d.slen || s.spanIn c d.handle d.ofs d.bytes.length

/-- Requests of a core of another cluster that are in flight to the cluster complete with TARGET_RESET: its loads and its DMAs (R336). -/
def State.resetAccesses (s : State) (c k : Nat) : State :=
  let x := s.coreOf k
  if clusterOf k = c || x.inst.isNone then s
  else
    match (x.loads.find? (s.loadIn c)).map (·.bundle) <|> (x.dmas.find? fun d => s.dmaIn c d.2).map (·.2.bundle) with
    | none => s
    | some b =>
      (s.updCore k fun x => { x with loads := x.loads.filter fun l => !s.loadIn c l, dmas := x.dmas.keep fun _ d => !s.dmaIn c d }).targetReset k 1 b

/-- Addends in flight to records homed in the cluster complete with TARGET_RESET, and none of them is added: those of a running kernel raise its
fault; an engine's and a peer's are sent again, and an ended instance's, which stand, with them (R111, R336, R337). -/
def State.resetAddends (s : State) (c : Nat) : State :=
  let hit := fun (a : Flush) => a.core < noCore && s.homeCluster a.key = c
  let t := s.setComp { s.comp with addends := s.comp.addends.filter fun a => !hit a }
  (s.comp.addends.filter hit).foldl (fun t a => t.targetReset a.core 0 a.bundle) t

/-- A forced reset starts: requests in flight to the cluster end with the target-reset fault, its instances end as if they had received it, its
pages and records are held until they have moved, and its logic is cleared; harbour SRAM and long-accumulator entries are kept (R336, R337). -/
def State.forcedReset (s : State) (c : Nat) (retire : Bool) : State :=
  let s := s.resetAddends c
  let s := s.updCluster c fun x => { x with svc := .resetting, retireAfter := x.retireAfter || retire }
  let s := s.comp.cores.keyList.foldl (fun s k => s.resetAccesses c k) s
  -- the cluster's own instances
  let s := (s.runningOn c).foldl (fun s e =>
    let f := s.faultHere e.1 8 7 false 0
    if s.replayable e.1 && (s.coreOf e.1).ending.isNone then s.replayLater e.1 false false else s.faultEnd e.1 (faultStatus 8) f) s
  let hold := fun (b : Berth) => { b with pages := b.pages.mapVals fun _ p => if inSramOf c p.base then { p with held := true, st := if p.st = .placed then .migrating else p.st } else p }
  let s := s.setPlace { s.place with berths := s.place.berths.mapVals fun _ b => hold b }
  ((s.dropReplicas c).dropLines c).forgetCores c

end Sys2Proof.Machine
end

