-- ==== Sys2Proof/Machine/RepairFamily.lean ====
section
/-! DEFINITION. HEALTH_READ, the kinds of REPAIR, PATROL and FAULT_INJECT (R149, R303, R325 to R335, R344, R345). -/

namespace Sys2Proof.Machine

/-! ### HEALTH_READ (R325) -/

/-- The number of bits set below `n`. -/
def bitCount (n x : Nat) : Nat := ((List.range n).filter fun i => x.testBit i).length
/-- A count of times in the last 24 hours, saturating. -/
def State.daily (s : State) (ts : List Nat) (top : Nat) : Nat := min top (recent s.now ts).length

/-- PROMISE: the start-up self-test has passed and every envelope monitor reads within limits (R375). -/
def State.promise (s : State) : Bool := (s.side.stageDone &&& 0x3C) = 0x3C && !s.side.halted && s.side.envelopeOk && s.side.v54
/-- A soft repair awaits commit, or a core or thin path is quarantined. -/
def State.repairDue (s : State) : Bool :=
  (List.range 408).any (fun k => s.enabled (clusterOf k) && (s.coreHw k).st = .quarantined) ||
    (List.range 24).any (fun c => s.inService c && (s.cluster c).thinQ) || s.chip.pcs.any fun p => p.2.pprSoft != 0

/-- The module summary, 256 bits. -/
def State.summary (s : State) : Nat :=
  s.berthCap * 2 ^ 192 + s.shortfall % 2 ^ 64 * 2 ^ 128 + s.clustersIn.length * 2 ^ 120 +
    ((List.range 408).filter s.workingCore).length * 2 ^ 111 + (s.clustersIn.filter fun c => (s.cluster c).spare.isSome).length * 2 ^ 106 +
    ((List.range 408).filter fun k => s.enabled (clusterOf k) && (s.coreHw k).st = .quarantined).length * 2 ^ 97 + s.stacksIn.length * 2 ^ 92 +
    ((List.range 16).map s.pcsRetired).sum * 2 ^ 81 + bitCount 8 s.chip.pairs.toNat * 2 ^ 77 + (if s.promise then 2 ^ 76 else 0) +
    (if s.repairDue then 2 ^ 75 else 0) + s.health.total % 2 ^ 64

/-- STATE of a cluster record. -/
def State.clusterSvc (s : State) (c : Nat) : Nat :=
  if !s.enabled c then 4
  else
    match (s.cluster c).svc with
    | .inService => 0
    | .draining => 1
    | .resetting => 2
    | .retired => 3
    | .disabled => 4

/-- A cluster record, 64 bits. -/
def State.clusterRecord (s : State) (c : Nat) : Nat :=
  let x := s.cluster c
  s.clusterSvc c * 2 ^ 61 + ((coresOf c).filter s.workingCore).length * 2 ^ 56 + (if x.spare.isSome then 2 ^ 55 else 0) +
    (if x.thinQ then 2 ^ 54 else 0) + s.daily x.sramCe 65535 * 2 ^ 24 + x.sramUe % 256 * 2 ^ 16 + s.daily x.ctlMm 65535

/-- STATE of a core record. -/
def State.coreCode (s : State) (k : Nat) : Nat :=
  if !s.enabled (clusterOf k) then 4
  else
    match (s.coreHw k).st with
    | .working => 0
    | .spare => 1
    | .quarantined => 2
    | .retired => 3
    | .disabled => 4

/-- A core record, 64 bits. -/
def State.coreRecord (s : State) (k : Nat) : Nat :=
  let x := s.coreHw k
  s.coreCode k * 2 ^ 61 + (if x.st = .quarantined || x.st = .retired then x.reason % 8 else 0) * 2 ^ 58 + (if x.fusePend then 2 ^ 57 else 0) +
    (if x.stPass then 2 ^ 56 else 0) + x.badRow % 256 * 2 ^ 48 + x.badCol % 256 * 2 ^ 40 + x.fuseLeft * 2 ^ 37 +
    s.daily x.faults 65535 * 2 ^ 16 + x.replays % 65536

/-- A stack record, 64 bits. -/
def State.stackRecord (s : State) (i : Nat) : Nat :=
  let x := s.stack i
  let st := match x.st with
    | .inService => 0
    | .retiring => 1
    | .retired => 2
    | .failed => 3
  st * 2 ^ 62 + s.pcsRetired i * 2 ^ 55 + s.daily x.ce 65535 * 2 ^ 32 + x.ue % 65536 * 2 ^ 16 +
    min 255 (((List.range 64).map fun j => (s.pc (64 * i + j)).pprSoft).sum) * 2 ^ 8 + min 255 ((s.now - x.passAt) / 1500000000)

/-- A pseudo-channel record, 64 bits. -/
def State.pcRecord (s : State) (i : Nat) : Nat :=
  let x := s.pc i
  let st := match x.st with
    | .inService => 0
    | .retiring => 1
    | .retired => 2
  st * 2 ^ 62 + min 255 x.resourcesLeft * 2 ^ 48 + x.pprUsed % 256 * 2 ^ 40 + x.pprSoft % 256 * 2 ^ 32 + s.daily x.ce 65535 * 2 ^ 16 + x.ue % 65536

/-- A fault event, 128 bits. -/
def FEvent.bits (e : FEvent) : Nat :=
  e.time % 2 ^ 64 * 2 ^ 64 + e.cls % 256 * 2 ^ 56 + (if e.injected then 2 ^ 55 else 0) + e.outcome % 8 * 2 ^ 52 + e.port % 4096 * 2 ^ 40 + e.unit_.toNat

/-- The records of a scope: words of each, their number, and record i. -/
def State.scopeOf (s : State) (scope : Nat) : Nat × Nat × (Nat → Nat) :=
  match scope with
  | 0 => (4, 1, fun _ => s.summary)
  | 1 => (1, 24, s.clusterRecord)
  | 2 => (1, 408, s.coreRecord)
  | 3 => (1, 408, fun k => (s.coreHw k).fuse.toNat)
  | 4 => (1, 16, s.stackRecord)
  | 5 => (1, 1024, s.pcRecord)
  | _ => (2, s.health.events.length, fun i => (s.health.events[i]?).elim 0 FEvent.bits)

/-- HEALTH_READ: the records of one scope from START on, as many as the reply slot holds (R303, R325). -/
def execHealthRead (n : Nat) (s : State) : Host.Outcome State Fault Refusal :=
  s.command n (isOp 0x0801) (fun p _ => mal 0 (7 ≤ p.f 0 3 0)) fun p s =>
    let (w, total, rec) := s.scopeOf (p.f 0 3 0)
    let start := (p.w 1).toNat
    let room := (phRlen p.hdr - 40) / (8 * w)
    let is := (List.range (min room (total - start))).map (start + ·)
    s.done p (BitVec.ofNat 64 (is.length + (start + is.length) % 2 ^ 32 * 2 ^ 32) :: is.flatMap fun i => wordsOfNat w (rec i))

/-! ### FUSE_ROW, FUSE_COL (R69, R71, R327, R328) -/

/-- What refuses a fuse kind: entries from `base` on. -/
def fuseRefused (base : Nat) (p : Pkt) (s : State) : List Bad :=
  let c := s.coreHw p.uCore
  mal 0 (coreAbsent p s || p.unused true false false true true || 129 < p.index ||
    [base, base + 1].any (fun e => fuseValid c.fuse e && fuseIndex c.fuse e = p.index) || !(c.st = .quarantined || c.st = .retired)) ++
    refuseIf ((fuseFree c.fuse base).isNone || 4 ≤ c.spent) stQuota (detailWord 0x0F 0)

/-- Program the first free entry of a kind: the Ledger records it before it is done, and the mapping waits for the core's next reset. -/
def State.fuseEff (s : State) (base kind : Nat) (p : Pkt) : State :=
  let k := p.uCore
  match fuseFree (s.coreHw k).fuse base with
  | none => s.failed p stQuota (detailWord 0x0F 0)
  | some e =>
    let w := fuseProgram (s.coreHw k).fuse e p.index
    let s := ((s.perm 2 (coreUnit k).toNat (leBytes 8 w.toNat)).updCoreHw k fun c => { c with fuse := w, spent := c.spent + 1, fusePend := true }).bump ctrFuses 1
    s.done p [BitVec.ofNat 64 k, repairWord kind 1 (s.coreHw k).fuseLeft 0]

/-- FUSE_ROW: programs the first free row entry with INDEX (R326, R328). -/
def execFuseRow (s : State) : Host.Outcome State Fault Refusal :=
  s.command adminRing (isRepair 1) (fuseRefused 0) fun p s => s.fuseEff 0 1 p

/-- FUSE_COL: programs the first free column entry with INDEX (R326, R328). -/
def execFuseCol (s : State) : Host.Outcome State Fault Refusal :=
  s.command adminRing (isRepair 2) (fuseRefused 2) fun p s => s.fuseEff 2 2 p

/-! ### SPARE_CORE, RESTORE_SPARE (R16, R327, R329) -/

/-- What refuses a SPARE_CORE. -/
def spareCoreBad (p : Pkt) (s : State) : List Bad :=
  mal 0 (coreAbsent p s || p.unused false false false true true || !s.inService p.uCluster || (s.coreHw p.uCore).st = .spare ||
      (s.coreHw p.uCore).st = .retired) ++
    refuseIf ((s.cluster p.uCluster).spare.isNone) stQuota (detailWord 0x0F 0)

/-- SPARE_CORE: drains a working core, retires it, and puts the cluster's spare in its place (R329); it completes when the core runs nothing. -/
def execSpareCore (s : State) : Host.Outcome State Fault Refusal :=
  s.command adminRing (isRepair 3) spareCoreBad fun p s =>
    let k := p.uCore
    let s := if (s.coreOf k).inst.isSome && (s.coreOf k).leave.isNone then s.updCore k fun c => { c with leave := some s.now } else s
    s.works p (.repair 3 k)

/-- What refuses a RESTORE_SPARE before its self-test. -/
def restoreSpareBad (p : Pkt) (s : State) : List Bad :=
  mal 0 (coreAbsent p s || p.unused false false false true true || !s.inService p.uCluster || (s.coreHw p.uCore).st != .retired) ++
    refuseIf (s.cluster p.uCluster).spare.isSome stQuota (detailWord 0x0F 0)

/-- The core is reset: its fuse word's mapping takes effect, and nothing of its memories and registers is left (R328, R329). -/
def State.resetCore (s : State) (k : Nat) : State :=
  let s := s.updCoreHw k fun c => { c with mapped := c.fuse, fusePend := false }
  let s := s.setMem ((s.mem.forget (sramKey k 0) (sramKey (k + 1) 0)).forget (imemKey k 0) (imemKey (k + 1) 0))
  s.setComp { s.comp with cores := s.comp.cores.drop k }

/-- RESTORE_SPARE: resets a retired core, whose pending fuse entries then take effect, and runs its self-test, whose verdict is `pass`, with the failing
row and column where it locates one: a core that passes becomes the cluster's spare, and one that fails stays retired, and the command is
refused (R321, R327, R329). -/
def execRestoreSpare (x : TestResult) (s : State) : Host.Outcome State Fault Refusal :=
  s.command adminRing (isRepair 4) restoreSpareBad fun p s =>
    let k := p.uCore
    let s := (s.resetCore k).updCoreHw k fun c => { c with stPass := x.pass, badRow := if x.pass then 255 else x.row % 256, badCol := if x.pass then 255 else x.col % 256 }
    if x.pass then
      let s := s.updCoreHw k fun c => { c with st := .spare, reason := 0 }
      ((s.updCluster p.uCluster fun c => { c with spare := some (k % 17) }).attn causeHealth).done p [BitVec.ofNat 64 k, repairWord 4 0 0 0]
    else s.failed p stQuota (detailWord 0x0F 0)

/-! ### PPR_COMMIT, RETIRE_PC, RETIRE_STACK (R327, R331, R332) -/

/-- The index of the pseudo-channel that the packet names. -/
def Pkt.pcIndex (p : Pkt) : Nat := 64 * p.uStack + p.uPc

/-- The pseudo-channel is retired, or its stack is. -/
def pcGone (p : Pkt) (s : State) : Bool := (s.stack p.uStack).st = .retired || (s.pc p.pcIndex).st = .retired

/-- What refuses a PPR_COMMIT. -/
def pprCommitBad (p : Pkt) (s : State) : List Bad :=
  mal 0 (p.unused false true true false false || pcGone p s)

/-- PPR_COMMIT: empties the pseudo-channel's group, commits its soft repairs as hard, and returns the group to use (R331); with no soft repair
there is nothing to do. -/
def execPprCommit (s : State) : Host.Outcome State Fault Refusal :=
  s.command adminRing (isRepair 5) pprCommitBad fun p s =>
    if (s.pc p.pcIndex).pprSoft = 0 then s.done p [BitVec.ofNat 64 p.pcIndex, repairWord 5 2 0 0]
    else
      let s := s.updPc p.pcIndex fun x => { x with st := if x.st = .inService then .retiring else x.st }
      (s.moveShare p.uStack (p.uPc / 4)).works p (.repair 5 p.pcIndex)

/-- Bytes of berth capacity that a stack still gives. -/
def State.stackCap (s : State) (i : Nat) : Nat := (64 - s.pcsRetired i) * 2 ^ 30

/-- Another stack of the die stays in service. -/
def State.otherStack (s : State) (i : Nat) : Bool := (List.range 16).any fun j => j != i && j / 8 = i / 8 && (s.stack j).st = .inService

/-- The retirement of a pseudo-channel is the 17th of its stack, which the module then retires (R332). -/
def State.lastPc (s : State) (stack : Nat) : Bool := 16 ≤ s.pcsRetired stack && (s.stack stack).st = .inService

/-- Bytes of berth capacity that a RETIRE_PC removes, with the rest of the stack where it is retired too. -/
def State.pcCap (s : State) (stack : Nat) : Nat := if s.lastPc stack then s.stackCap stack else 2 ^ 30

/-- What refuses a RETIRE_PC. -/
def retirePcBad (p : Pkt) (s : State) : List Bad :=
  mal 0 (p.unused false true true false false || pcGone p s || (s.lastPc p.uStack && !s.otherStack p.uStack)) ++
    refuseIf (s.noRoom (s.pcCap p.uStack) none != 0) stQuota (detailWord 0x05 (s.noRoom (s.pcCap p.uStack) none))

/-- RETIRE_PC: the pseudo-channel's group is emptied; the command completes when it is retired (R332). -/
def execRetirePc (s : State) : Host.Outcome State Fault Refusal :=
  s.command adminRing (isRepair 6) retirePcBad fun p s =>
    (s.startRetirePc p.uStack p.uPc).works p (.repair 6 p.pcIndex)

/-- What refuses a RETIRE_STACK. -/
def retireStackBad (p : Pkt) (s : State) : List Bad :=
  mal 0 (p.unused false false true false false || (s.stack p.uStack).st = .retired || !s.otherStack p.uStack) ++
    refuseIf (s.noRoom (s.stackCap p.uStack) none != 0) stQuota (detailWord 0x05 (s.noRoom (s.stackCap p.uStack) none))

/-- RETIRE_STACK: all the stack's groups are emptied and its share of the system region moves; the command completes when it is retired (R332). -/
def execRetireStack (s : State) : Host.Outcome State Fault Refusal :=
  s.command adminRing (isRepair 7) retireStackBad fun p s =>
    (s.emptyStack p.uStack).works p (.repair 7 p.uStack)

/-! ### RETIRE_CLUSTER, RESET_CLUSTER (R327, R334 to R336) -/

/-- The cluster is retired. -/
def clusterGone (p : Pkt) (s : State) : Bool := (s.cluster p.uCluster).svc = .retired
/-- Another cluster of the die stays in service. -/
def State.otherCluster (s : State) (c : Nat) : Bool := s.clustersIn.any fun d => d != c && dieOf d = dieOf c && !(s.cluster d).retireAfter

/-- What refuses a RETIRE_CLUSTER. -/
def retireClusterBad (p : Pkt) (s : State) : List Bad :=
  mal 0 (clusterAbsent p s || p.unused false false false false true || clusterGone p s || !s.otherCluster p.uCluster) ++
    refuseIf (s.noRoom 0 (some p.uCluster) != 0) stQuota (detailWord 0x05 (s.noRoom 0 (some p.uCluster)))

/-- RETIRE_CLUSTER: runs a drained reset, after which the cluster is retired (R334). -/
def execRetireCluster (s : State) : Host.Outcome State Fault Refusal :=
  s.command adminRing (isRepair 8) retireClusterBad fun p s =>
    (s.startDrain p.uCluster true).works p (.repair 8 p.uCluster)

/-- What refuses a RESET_CLUSTER. -/
def resetClusterBad (p : Pkt) (s : State) : List Bad :=
  mal 0 (clusterAbsent p s || p.unused true false false false true || 1 < p.index || clusterGone p s)

/-- RESET_CLUSTER: a drained reset of a cluster, or with INDEX 1 a forced one, which returns it to service (R335, R336). -/
def execResetCluster (s : State) : Host.Outcome State Fault Refusal :=
  s.command adminRing (isRepair 9) resetClusterBad fun p s =>
    let c := p.uCluster
    let s := if p.index = 0 then s.startDrain c false else if (s.cluster c).svc = .resetting then s else s.forcedReset c false
    (s.works p (.repair 9 c)).startWaiting

/-! ### PATROL (R149) -/

/-- A latent error lies in what a PATROL reads. -/
def State.patrolHits (s : State) (p : Pkt) (b : Nat) : Bool :=
  if p.bit 0 0 then
    match s.unitOfBlock b with
    | .hbm st _ => st = p.f 0 4 1
    | _ => false
  else b * 64 / 2 ^ 48 = handleIndex (p.hi 0) && (s.unitOfBlock b != .elsewhere)

/-- Blocks that a PATROL reads: those of a stack, or of the berth's pages on this module. -/
def State.patrolBlocks (s : State) (p : Pkt) : Nat :=
  if p.bit 0 0 then if (s.stack (p.f 0 4 1)).st = .retired || (s.stack (p.f 0 4 1)).st = .failed then 0 else s.stackCap (p.f 0 4 1) / 64
  else
    match s.berthAt (p.hi 0) with
    | none => 0
    | some b => (b.pages.filter fun x => s.isLocal (pageAddr x.2.base)).length * pageSize b.cls / 64

/-- What refuses a PATROL. -/
def patrolBad (p : Pkt) (s : State) : List Bad :=
  if p.bit 0 0 then [] else if p.admin then mal 0 (s.berthAt (p.hi 0)).isNone else s.handleBad p.job 0 (p.hi 0)

/-- PATROL: an immediate pass over a berth or a stack: every block is read, and errors found are treated as R145 does; it answers the numbers of
blocks read, corrected and poisoned (R149, R303). -/
def execPatrol (n : Nat) (s : State) : Host.Outcome State Fault Refusal :=
  s.command n (isOp 0x0803) patrolBad fun p s =>
    let hits := s.mem.errors.filter fun e => s.patrolHits p e.1
    let blocks := s.patrolBlocks p
    let s := hits.foldl (fun s e => s.blockError (s.unitOfBlock e.1) e.1 e.2) s
    s.done p [BitVec.ofNat 64 blocks, BitVec.ofNat 64 (hits.filter fun e => e.2 % 4 != 2).length, BitVec.ofNat 64 (hits.filter fun e => e.2 % 4 = 2).length]

/-! ### FAULT_INJECT (R344, R345) -/

/-- The unit word of the target. -/
def Pkt.target (p : Pkt) : BitVec 32 := p.lo 1
/-- The target as a REPAIR names its unit. -/
def Pkt.targetPkt (p : Pkt) : Pkt := { p with words := [p.w 1] }

/-- The target is a unit of the class's kind, neither disabled nor retired; none for a class that is not injectable (R314, R344). -/
def injectTarget (cls : Nat) (p : Pkt) (s : State) : Option Bool :=
  let q := p.targetPkt
  let kind0 := q.kindOf = 0
  let core := kind0 && !q.unused false false false true true && !coreAbsent q s && s.inService q.uCluster && (s.coreHw q.uCore).st != .retired
  let cluster := kind0 && !q.unused false false false false true && !clusterAbsent q s && s.inService q.uCluster
  let index := fun (n : Nat) => kind0 && !q.unused true false false false false && q.index < n
  match cls with
  | 1 => some (kind0 && !q.unused false true true false false && !pcGone q s)
  | 2 => some (kind0 && !q.unused false true true false false && !pcGone q s)
  | 3 => some cluster
  | 4 => some core
  | 5 => some core
  | 6 => some cluster
  | 7 => some core
  | 8 => some cluster
  | 9 => some (p.target = 0)
  | 10 => some (p.target = 0)
  | 11 => some (index 8 && s.chip.pairs.getLsbD q.index)
  | 12 => some (p.target = 0)
  | 13 => some (index 36)
  | 14 => some (index 36)
  | 19 => some (p.target = 0)
  | _ => none

/-- What refuses a FAULT_INJECT. -/
def faultInjectBad (p : Pkt) (s : State) : List Bad :=
  mal 0 (injectTarget (p.f 0 7 0) p s).isNone ++ mal 1 (injectTarget (p.f 0 7 0) p s = some false) ++ mal 2 ((p.w 2).toNat = 0 || 255 < (p.w 2).toNat)

/-- FAULT_INJECT: arms a number of faults of one class at a target, each of which acts at the target's next use; class 0x13 resets the module
(R344, R345). It completes when they are made or 1 s has passed (COMMAND_COMPLETE). -/
def execFaultInject (s : State) : Host.Outcome State Fault Refusal :=
  s.command adminRing (isOp 0x0804) faultInjectBad fun p s =>
    if p.f 0 7 0 = 19 then s.hardReset 0x13 0 9 true
    else s.setHealth { s.health with armed := s.health.armed ++ [(p.f 0 7 0, p.target, (p.w 2).toNat)] }

end Sys2Proof.Machine
end

