-- ==== Sys2Proof/Machine/FaultFamily.lean ====
section
/-! DEFINITION. Faults that units meet: patrols, mismatches, replays, self-tests, resets of clusters, the watchdog, and re-characterisation
(R147, R149, R312 to R323, R330 to R341, R366 to R368). -/

namespace Sys2Proof.Machine

/-! ### Memory (R147, R149, R316) -/

/-- The system address that stands at an offset of a stack's system group (R143). -/
def State.systemAt (s : State) (stack gofs : Nat) : Option Nat :=
  let x := s.stack stack
  let top := s.groupSize stack x.sysGroup
  let base := top - x.sysUnits * 2 ^ 18
  if base ≤ gofs && gofs < top then
    some (((s.stacksIn.filter (· < stack)).map fun i => (s.stack i).sysUnits * 2 ^ 18).sum + (gofs - base))
  else none

/-- The memory key of a byte of a stack: the system region's, or a placed page's; none for capacity that holds nothing. -/
def State.stackKey (s : State) (stack group gofs : Nat) : Option Nat :=
  match (if (s.stack stack).sysGroup = group then s.systemAt stack gofs else none) with
  | some a => some (sysKey a)
  | none => s.physKey (hbmAddr stack group gofs)

/-- A patrol reads a block: a latent error of it is found, and so is one that the read itself meets, coded as `Mem.errors` codes it. A block that
holds nothing is counted and repaired, and no mark of it remains. -/
def State.patrolBlock (s : State) (u : MemUnit) (key : Option Nat) (code : Nat) : State :=
  match key with
  | none => if code = 0 then s else (s.blockError u 0 code).setMem s.mem
  | some k =>
    let s := match s.mem.errors.get? (k / 64) with
      | some e => s.blockError u (k / 64) e
      | none => s
    if code = 0 then s else s.blockError u (k / 64) code

/-- SCARAB_READ: a stack's Scarab reads the next block of its pass; `symbols` is 0 for a block without error, 1 or 2 for its erroneous symbols, 3
for one symbol that recurs after its write-back (R145, R149, R330). -/
def execScarabRead (stack symbols : Nat) (s : State) : Host.Outcome State Fault Refusal :=
  let at_ := (s.stack stack).scarabAt
  let (group, gofs) := (at_ / 2 ^ 26, at_ % 2 ^ 26 * 64)
  let t := if gofs < s.groupSize stack group then
      s.patrolBlock (.hbm stack (s.pcOf stack group gofs)) (s.stackKey stack group gofs) symbols
    else s
  let t := t.updStack stack fun x =>
    { x with scarabAt := (at_ + 1) % 2 ^ 30, passAt := if at_ + 1 = 2 ^ 30 then s.now else x.passAt }
  s.when (s.clocked && stack < 16 && symbols ≤ 3 && ((s.stack stack).st = .inService || (s.stack stack).st = .retiring)) t

/-- HBM_REFRESH: a per-bank refresh of a pseudo-channel; it stalls its bank alone (R147). -/
def execHbmRefresh (stack pc bank : Nat) (s : State) : Host.Outcome State Fault Refusal :=
  s.when (s.clocked && stack < 16 && pc < 64 && (s.stack stack).st != .retired && (s.pc (64 * stack + pc)).st != .retired)
    (s.updPc (64 * stack + pc) fun x => { x with refreshes := x.refreshes.upd bank 0 (· + 1) })

/-- A patrol of an instruction memory: a two-symbol error, or a block already poisoned, is rewritten from the Harbourmaster's copy (R316). -/
def State.patrolImem (s : State) (k block symbols : Nat) : State :=
  let b := imemKey k (64 * block) / 64
  let code := if symbols != 0 then symbols else (s.mem.errors.get? b).getD 0
  let s := if code = 0 then s else s.fault 4 utCore (coreUnit k) 0 0 (4 ≤ code)
  s.setMem { s.mem with errors := s.mem.errors.drop b, poison := s.mem.poison.filter (· != b) }

/-- A patrol of an accumulator store: two symbols poison the block, which a read of its row then finds (R145, R316). -/
def State.patrolTile (s : State) (k block symbols : Nat) : State :=
  if symbols = 0 then s
  else
    let s := s.fault 4 utCore (coreUnit k) 0 (if symbols = 2 then 1 else 0) false
    if symbols = 2 then
      s.updCore k fun c => { c with tiles := c.tiles.upd (block / 1024) Tile.init fun t => { t with bad := (block % 1024 :: t.bad).dedup } }
    else s

/-- A harbour SRAM bank of the cluster has poisoned 16 blocks within 24 h (R150, R334); injected errors do not count (R345). -/
def Cluster.manyPoisoned (x : Cluster) (now : Nat) : Bool :=
  (List.range 32).any fun b => 16 ≤ (x.sramBad.filter fun e => e.1 = b && withinDay now e.2).length

/-- A cluster of which a harbour SRAM bank has poisoned 16 blocks within 24 h is reset by force and retired (R334): the patrol, which reads every
block within 100 ms, acts on it. -/
def State.bankCheck (s : State) (c : Nat) : State :=
  if (s.cluster c).manyPoisoned s.now && ((s.cluster c).svc = .inService || (s.cluster c).svc = .draining) then (s.forcedReset c true).startWaiting else s

/-- SRAM_PATROL_READ: a patrol of a harbour SRAM, or of a core's operand SRAM, accumulator store or instruction memory, reads a block with 0, 1 or
2 erroneous symbols (R316). -/
def execSramPatrolRead (u : SramUnit) (block symbols : Nat) (s : State) : Host.Outcome State Fault Refusal :=
  let core := fun (k : Nat) => k < 408 && s.enabled (clusterOf k)
  let go := fun (ok : Bool) (t : State) => s.when (s.clocked && symbols ≤ 2 && ok) t
  match u with
  | .harbour c => go (c < 24 && block < 2 ^ 18 && s.inService c) ((s.patrolBlock (.harbour c (block / 4 % 32)) (s.physKey (sramAddr c (64 * block))) symbols).bankCheck c)
  | .operand k => go (core k && block < 2 ^ 14) (s.patrolBlock (.core k) (some (sramKey k (64 * block))) symbols)
  | .accumulator k => go (core k && block < 8192) (s.patrolTile k block symbols)
  | .instruction k => go (core k && block < 4096) (s.patrolImem k block symbols)

/-! ### Emptied units and failed stacks (R141, R331 to R333) -/

/-- The pseudo-channel's group is empty, the system region's share included. -/
def State.pcEmpty (s : State) (stack pc : Nat) : Bool :=
  (s.pc (64 * stack + pc)).st = .retiring && !s.groupPages stack (pc / 4) && (s.stack stack).sysGroup != pc / 4 && !s.sharePages

/-- Soft repairs of a pseudo-channel are committed as hard: the Ledger records them first (R331, R370). -/
def State.pprCommit (s : State) (i : Nat) : State :=
  let n := (s.pc i).pprSoft
  if n = 0 then s
  else ((s.perm 5 (pcUnit (i / 64) (i % 64)).toNat (leBytes 4 n)).updPc i fun x => { x with pprSoft := 0 }).bump ctrPprHard n

/-- An emptied pseudo-channel: its soft repairs are committed when a PPR_COMMIT asked for it, and it is retired when it was to be (R331, R332). -/
def State.pcEmptied (s : State) (stack pc : Nat) : State :=
  let i := 64 * stack + pc
  let s := match s.repairOf [5] i with
    | some (g, _) => (s.pprCommit i).repaired g 5 i 0 0
    | none => s
  if s.chip.retiring.contains (.pc stack pc) then
    let byCmd := s.repairOf [6] i
    let s := s.updPc i fun x => { x with st := .retired }
    let s := s.setChip { s.chip with retiring := s.chip.retiring.filter (· != .pc stack pc) }
    let s := s.unitLost 4 (if byCmd.isSome then 5 else 0) (pcUnit stack pc)
    let s := match byCmd with
      | some (g, _) => s.repaired g 6 i 0 (2 ^ 30)
      | none => s
    if 16 < s.pcsRetired stack && (s.stack stack).st = .inService then s.emptyStack stack else s
  else s.updPc i fun x => { x with st := .inService }

/-- No page stands on the stack, and the system region's share has left it. -/
def State.stackEmpty (s : State) (stack : Nat) : Bool :=
  s.chip.retiring.contains (.stack stack) && (s.stack stack).sysUnits = 0 && !((List.range 16).any fun g => s.groupPages stack g) && !s.sharePages

/-- An emptied stack is retired (R332). -/
def State.stackEmptied (s : State) (stack : Nat) : State :=
  let lost := s.stackCap stack
  let byCmd := s.repairOf [7] stack
  let s := s.updStack stack fun x => { x with st := .retired }
  let s := s.setChip { s.chip with retiring := s.chip.retiring.filter fun u =>
    match u with
    | .stack i => i != stack
    | .pc i _ => i != stack }
  let s := s.unitLost 4 (if byCmd.isSome then 5 else 0) (unitWord 0 0 stack 0 0 0)
  match byCmd with
  | some (g, _) => s.repaired g 7 stack 0 lost
  | none => s

/-- UNIT_EMPTIED: a retiring pseudo-channel or stack holds no page and no share of the system region: it is retired, or its soft repairs are
committed and its group returns to use (R141, R331, R332). -/
def execUnitEmptied (u : RetUnit) (s : State) : Host.Outcome State Fault Refusal :=
  match u with
  | .pc stack pc => s.when (stack < 16 && pc < 64 && s.pcEmpty stack pc) (s.pcEmptied stack pc)
  | .stack stack => s.when (stack < 16 && s.stackEmpty stack) (s.stackEmptied stack)

/-- Blocks of the system region on a stack. -/
def State.systemBlocks (s : State) (stack : Nat) : List Nat :=
  let first := ((s.stacksIn.filter (· < stack)).map fun i => (s.stack i).sysUnits).sum * 4096
  (List.range ((s.stack stack).sysUnits * 4096)).map (first + ·)

/-- A stack fails: it cannot be read, its pages and its share of the system region are poisoned, and it is retired (R332). -/
def State.failStack (s : State) (stack : Nat) : State :=
  let s := s.poisonBlocks (s.systemBlocks stack)
  let peers := s.net.stashIn.filter fun f => gaStack (f.2 * 2 ^ 18) = stack
  let s := peers.foldl (fun s f => s.poisonBlocks (blocksOf (stashKey f.1 0) (2 ^ 21))) s
  let s := (s.updStack stack fun x => { x with st := .failed }).attn causeHealth
  s.emptyStack stack

/-- STACK_LINK_ERROR: a link error of a stack's interface; a failed retraining makes the stack fail (R332). -/
def execStackLinkError (stack : Nat) (retrained : Bool) (s : State) : Host.Outcome State Fault Refusal :=
  s.when (s.clocked && stack < 16 && !retrained && ((s.stack stack).st = .inService || (s.stack stack).st = .retiring)) (s.failStack stack)

/-! ### Replay (R319, R320, R323) -/

/-- A core leaves service for good: it is quarantined, and a spare is no spare any more (R321, R325). -/
def State.quarantine (s : State) (k reason : Nat) : State :=
  let c := clusterOf k
  let was := (s.coreHw k).st
  let s := s.updCoreHw k fun x => { x with st := .quarantined, reason := reason, testing := false }
  let s := if (s.cluster c).spare = some (k % 17) && was = .spare then s.updCluster c fun x => { x with spare := none } else s
  s.unitLost 3 reason (coreUnit k)

/-- A mismatch of the block of a key: is it hard, recurring three times on the same request or the 16th within 1 s? An injected one counts toward
nothing (R317, R345). -/
def State.mismatch (s : State) (key same : Nat) (injected : Bool) : Bool × State :=
  if injected then (false, s)
  else
    let ts := s.now :: ((s.chip.mismatches.getD key []).filter fun t => s.now ≤ t + 25000000)
    (3 ≤ same || 16 ≤ ts.length, s.setChip { s.chip with mismatches := s.chip.mismatches.put key ts })

/-- The key of a core's sequencer among the duplicated blocks. -/
def keySequencer (k : Nat) : Nat := 64 + k

/-- The core serves: it is working or a spare of an enabled cluster. -/
def State.coreServes (s : State) (k : Nat) : Bool :=
  k < 408 && s.inService (clusterOf k) && ((s.coreHw k).st = .working || (s.coreHw k).st = .spare)

/-- SEQUENCER_MISMATCH: a core's sequencer halves disagree; the core stops before any output of that cycle, its instance is replayed elsewhere or
ends, and the core runs its self-test, whether it ran an instance or not; a hard mismatch, which has recurred `same` times on one request or is the
16th within 1 s, quarantines it (R314, R317, R319, R321, R323). The spec gives this end no fault record: its CODE is a free value (log 2). -/
def execSequencerMismatch (x : CoreMismatch) (s : State) : Host.Outcome State Fault Refusal :=
  let k := x.core
  let (injected, t) := s.takeInjection 7 (coreUnit k)
  let (hard, t) := t.mismatch (keySequencer k) x.same injected
  let busy := (s.coreOf k).inst.isSome
  let again := busy && s.replayable k && (s.coreOf k).ending.isNone
  let t := t.fault 7 utCore (coreUnit k) 0 (if hard then 3 else if again then 2 else 1) injected
  let t := if injected then t else t.updCoreHw k fun x => { x with faults := t.now :: recent t.now x.faults }
  let f : FaultRec := ⟨t.freeVal.toNat % 255 + 1, 7, false, (t.coreOf k).pc % 4096, 0⟩
  let t := if !busy then t else if again then t.replayLater k false true else t.freeNext.faultEnd k 0x0405 f
  s.when (s.clocked && s.coreServes k) (if hard then t.quarantine k 4 else t.startSelfTest k false).startWaiting

/-- REPLAY_RESUME: an instance that left its core, by a fault, a preemption or a drain, is resumed from its save area on another core
(R115, R231, R319, R320, R323, R335). While a firmware activation waits for the launches in progress, only fillers stay suspended (R308). -/
def execReplayResume (inst core : Nat) (s : State) : Host.Outcome State Fault Refusal :=
  match s.comp.insts.get? inst with
  | none => .next s
  | some x => s.when (x.st = .suspended && (!s.paused || s.mainLaunch x.launch) && (s.replayCores x).contains core) (s.startOn inst core)

/-! ### Self-tests (R321, R322) -/

/-- Faults within 24 h. -/
def State.dayFaults (s : State) (ts : List Nat) : Nat := (ts.filter fun t => s.now ≤ t + 24 * 90000000000).length

/-- CORE_SELF_TEST: a core's self-test ends, with the failing physical row and column where it locates one and 255 for none; the core returns to
service, or is quarantined when it failed or had its third fault within 24 h (R321, R325). -/
def execCoreSelfTest (k : Nat) (pass : Bool) (row col : Nat) (s : State) : Host.Outcome State Fault Refusal :=
  let x := s.coreHw k
  let t := s.updCoreHw k fun x => { x with testing := false, stPass := pass, badRow := if pass then 255 else row % 256, badCol := if pass then 255 else col % 256 }
  let t := if pass && s.dayFaults x.faults < 3 then t else t.quarantine k (if pass then 2 else 1)
  s.when (k < 408 && (s.coreHw k).testing && (s.coreOf k).inst.isNone) t.startWaiting

/-- The instances of a cluster that were bound to its thin path run on their arrays instead (R322). -/
def State.toArrays (s : State) (c : Nat) : State :=
  ((s.runningOn c).foldl (fun s e => s.updInst e.2 fun x => { x with thin := false }) s).updCluster c fun x => { x with thinInst := none }

/-- THIN_PATH_SELF_TEST: a thin path's self-test ends; it serves its next instance, or is quarantined when it failed or had its third fault within
24 h, and its instances run on arrays (R322). -/
def execThinPathSelfTest (c : Nat) (pass : Bool) (s : State) : Host.Outcome State Fault Refusal :=
  let bad := !pass || 3 ≤ s.dayFaults (s.cluster c).thinFaults
  let t := s.updCluster c fun x => { x with thinTest := false, thinQ := x.thinQ || bad }
  s.when (c < 24 && (s.cluster c).thinTest) (if bad then (t.toArrays c).unitLost 3 (if pass then 2 else 1) (clusterUnit c) else t.nextThin c)

/-! ### Mismatches of duplicated blocks (R317, R318, R338) -/

/-- Keys of the blocks: clusters, the Quay, the Ferry, Cricket and the Harbourmaster pairs. -/
def keyQuay : Nat := 24
/-- The Ferry. -/
def keyFerry : Nat := 25
/-- Cricket. -/
def keyCricket : Nat := 26
/-- A pair. -/
def keyPair (p : Nat) : Nat := 32 + p

/-- A mismatch of a block whose hard fault resets the module: masked, as its requests run again from the committed state, or hard (R317, R318). -/
def State.blockMismatch (s : State) (cls key same cause : Nat) (injected : Bool) : State :=
  let (hard, s) := s.mismatch key same injected
  if hard then s.hardReset cls 0 cause false else s.fault cls none 0 0 0 injected

/-- CONTROL_MISMATCH: the halves of a duplicated block disagree; the cycle is discarded and its requests run again, so nothing else changes; a hard
mismatch resets and retires a cluster, or resets the module. `same` is how often it has recurred on the same request (R317, R318). -/
def execControlMismatch (b : CtlBlock) (same : Nat) (s : State) : Host.Outcome State Fault Refusal :=
  match b with
  | .cluster c =>
    let (injected, t) := s.takeInjection 8 (clusterUnit c)
    let (hard, t) := t.mismatch c same injected
    let t := if injected then t else t.updCluster c fun x => { x with ctlMm := t.now :: recent t.now x.ctlMm }
    let t := t.fault 8 utCluster (clusterUnit c) 0 (if hard then 4 else 0) injected
    s.when (s.running && s.inService c) (if !hard then t else if (s.cluster c).svc = .resetting then t.updCluster c fun x => { x with retireAfter := true }
      else (t.forcedReset c true).startWaiting)
  | .quay =>
    let (injected, t) := s.takeInjection 9 0
    s.when s.running (t.blockMismatch 9 keyQuay same 5 injected)
  | .ferry =>
    let (injected, t) := s.takeInjection 10 0
    s.when s.running (t.blockMismatch 10 keyFerry same 6 injected)

/-- QUAY_MISMATCH: a Quay mismatch reruns the cycle's takes and releases from the tables as they stood: no take or release is lost or doubled, and
nothing but the fault event changes, unless it is the 16th within 1 s (R314, R317, R318). -/
def execQuayMismatch (injected : Bool) (s : State) : Host.Outcome State Fault Refusal :=
  let (armed, t) := if injected then s.takeInjection 9 0 else (false, s)
  s.when (s.running && (!injected || armed)) (t.blockMismatch 9 keyQuay 0 5 injected)

/-- HARBOURMASTER_PAIR_MISMATCH: a pair reruns its task from the journal, so that no effect is repeated or lost; a hard mismatch retires the pair,
fewer than four pairs accept no packet, and with none left the module resets (R317, R338). -/
def execHarbourmasterPairMismatch (p same : Nat) (s : State) : Host.Outcome State Fault Refusal :=
  let unit_ := unitWord p 0 0 0 0 0
  let (injected, t) := s.takeInjection 11 unit_
  let (hard, t) := t.mismatch (keyPair p) same injected
  let left := s.chip.pairs &&& ~~~(BitVec.ofNat 8 (2 ^ p))
  s.when (s.clocked && p < 8 && s.chip.pairs.getLsbD p)
    (if !hard then t.fault 11 utPair unit_ p 0 injected
    else
      let t := (t.setChip { t.chip with pairs := left }).fault 11 utPair unit_ p 4 false
      let t := t.unitLost 4 0 unit_
      if left = 0 then t.moduleReset 8
      else if bitCount 8 left.toNat < 4 then t.setHealth { t.health with noAccept := true }
      else t)

/-- CRICKET_MISMATCH: Cricket restarts after a mismatch of its pair; a hard one resets the module (R314, R317). -/
def execCricketMismatch (same : Nat) (s : State) : Host.Outcome State Fault Refusal :=
  let (injected, t) := s.takeInjection 12 0
  let t := t.setSide { t.side with cricketRestarts := t.side.cricketRestarts + 1 }
  s.when (s.side.v54 && s.side.pstate != .off && s.side.fail != 0x11) (t.blockMismatch 12 keyCricket same 7 injected)

/-! ### Resets of clusters (R334 to R337) -/

/-- DRAIN_TIMEOUT: a drained reset whose instances have not left within 1 s goes on as a forced reset (R335). -/
def execDrainTimeout (c : Nat) (s : State) : Host.Outcome State Fault Refusal :=
  let x := s.cluster c
  s.when (x.svc = .draining && x.drainAt.any (fun t => s.after t 1000000) && !(s.runningOn c).isEmpty)
    (((s.updCluster c fun x => { x with forced := true }).forcedReset c false).startWaiting)

/-- A page of the cluster is placed at a home outside it, as the scan path read it out (R337). -/
def State.scanPage (s : State) (c : Nat) (moves : List Move) (i p : Nat) : State :=
  match s.place.berths.get? i with
  | none => s
  | some b =>
    match b.pages.get? p with
    | none => s
    | some x =>
      let held := s.framesHeld
      let fits := fun (f : BitVec 46) => gaSpace (pageAddr f) = 0 && !inSramOf c f && !s.misplaced f b.frames && !s.badLocal (pageAddr f) &&
        framesFree held f.toNat b.frames && (gaRegion (pageAddr f) = 0 || b.frames = 1)
      let pick := (moves.find? fun m => m.berth = i && m.page = p && fits m.base).map (·.base)
      match pick <|> (s.hbmFrame b (s.freeVal.toNat % 2 ^ 32)).map (BitVec.ofNat 46 ·) with
      | none => s
      | some f =>
        let s := s.freeNext.discover (berthKey i (p * pageSize b.cls)) (pageSize b.cls)
        let s := (s.tcRemove i p).hideFrame b x.base
        let s := s.updBerth i fun b => { b with pages := b.pages.put p { x with base := f, st := if x.st = .lost then .lost else .placed, goal := none, dirty := [], held := false, old := none } }
        let s := if b.pinAt.isSome then s.ord 11 0 (leBytes 4 (mkHandle b.gen i).toNat ++ leBytes 4 p) else s
        (s.exposeFrame i b f).placeChange b.job

/-- SCAN_READOUT_COMPLETE: the pages and long-accumulator entries of a cluster under forced reset have been read out; the pages stand where the
Harbourmaster placed them, and the entries are back in their records (R337). -/
def execScanReadoutComplete (c : Nat) (moves : List Move) (s : State) : Host.Outcome State Fault Refusal :=
  let pages := s.place.berths.flatMap fun b => (b.2.pages.filter fun p => inSramOf c p.2.base || p.2.goal.any (inSramOf c)).map fun p => (b.1, p.1)
  s.when ((s.cluster c).svc = .resetting) (pages.foldl (fun s e => s.scanPage c moves e.1 e.2) (s.laHome c))

/-- A cluster leaves its reset: its cores take the mapping of their fuses, and it returns to service or is retired (R322, R328, R334, R335). -/
def State.clusterReset (s : State) (c : Nat) (retire : Bool) : State :=
  let s := (((s.laHome c).dropReplicas c).dropLines c).forgetCores c
  let s := (coresOf c).foldl (fun s k => s.updCoreHw k fun x => { x with mapped := x.fuse, fusePend := false, testing := false }) s
  let s := s.updCluster c fun x =>
    { x with svc := if retire then .retired else .inService, drainAt := none, forced := false, retireAfter := false, thinQ := false, thinTest := false,
             thinOn := false, thinOff := false, thinHeld := false, thinInst := none, pow := if retire then .gated else .idle, held := false,
             heldOff := false, idleSince := s.now, duty := 8 }
  if retire then s.unitLost 4 (if (s.repairOf [8] c).isSome then 5 else 0) (clusterUnit c) else s.attn causeHealth

/-- CLUSTER_SELF_TEST: a cluster that has been emptied is reset and its self-test ends: it returns to service, or is retired when it was to be or
when a shared part failed (R334, R335). -/
def execClusterSelfTest (c : Nat) (pass : Bool) (s : State) : Host.Outcome State Fault Refusal :=
  let x := s.cluster c
  let ready := (x.svc = .draining || x.svc = .resetting) && (s.runningOn c).isEmpty && !s.sramPages c
  let retire := x.retireAfter || !pass || (x.svc = .resetting && x.manyPoisoned s.now)
  let g := s.repairOf [8, 9] c
  let t := (s.clusterReset c retire).settlePower
  let t := match g with
    | some (g, k) => t.repaired g k c (if x.forced then 3 else 0) 0
    | none => t
  s.when (c < 24 && ready) t.startWaiting

/-! ### The watchdog (R340) -/

/-- The key under which the ROM path's reports stand, and the quiescent point's. -/
def keyRom : Nat := 8
/-- The quiescent point. -/
def keyQuiet : Nat := 9

/-- WATCHDOG_REPORT: a pair in service, or the ROM path while it writes and starts an image, reports (R340). -/
def execWatchdogReport (r : Reporter) (s : State) : Host.Outcome State Fault Refusal :=
  match r with
  | .pair p =>
    s.when (s.clocked && s.side.stageDone.getLsbD 2 && p < 8 && s.chip.pairs.getLsbD p)
      (let reports := if s.side.romPath then ((List.range 8).map fun i => (i, s.now)) else s.side.reports
       s.setSide { s.side with reports := AMap.put reports p s.now, romPath := false })
  | .romPath => s.when (s.clocked && s.side.romPath) (s.setSide { s.side with reports := s.side.reports.put keyRom s.now })

/-- The watchdog's limit has passed: 40 ms for a pair; while the ROM path holds it, 1 s, or 300 ms from the quiescent point to a pair's first
report (R340). -/
def State.hung (s : State) : Bool :=
  let late := fun (k us : Nat) => s.after (s.side.reports.getD k s.now) us
  if s.side.romPath then late keyRom 1000000 || late keyQuiet 300000
  else (List.range 8).any fun p => s.chip.pairs.getLsbD p && late p 40000

/-- FIRMWARE_HANG: a watchdog limit has passed without a report, and Cricket starts a module reset (R338, R340, R342). -/
def execFirmwareHang (s : State) : Host.Outcome State Fault Refusal :=
  s.when (s.clocked && s.side.stageDone.getLsbD 2 && !s.side.halted && s.hung) ((s.fault 0x13 none 0 0 5 false).moduleReset 2)

/-! ### Re-characterisation (R366 to R368) -/

/-- The round of re-characterisation ends when every cluster in service has been through it (R371). -/
def State.recharEnd (s : State) : State :=
  if s.clustersIn.all fun c => (s.cluster c).recharDone then
    let l := s.ledger.ctr.put ctrRecharPower s.powerS
    (s.setLedger { s.ledger with ctr := l.put ctrRecharCal s.calendarNow }).setChip { s.chip with recharDue := none }
  else s

/-- RECHARACTERISATION: a gated cluster that is due, with no work bound to it and none in the look-ahead, is re-characterised: its trim becomes the smallest at which
every replica passes, never below the former one; above +60 mV the cluster is retired (R366 to R368). -/
def execRecharacterisation (c trim freq : Nat) (s : State) : Host.Outcome State Fault Refusal :=
  let x := s.cluster c
  let ok := s.running && s.inService c && x.svc = .inService && s.chip.recharDue.isSome && !x.recharDone && x.pow = .gated && s.unbound c &&
    trim % 5 = 0 && x.trim ≤ trim
  let data := leBytes 2 trim ++ leBytes 4 freq
  let t :=
    if 60 < trim then
      ((s.perm 14 (clusterUnit c).toNat data).attn causeHealth).startDrain c true
    else
      ((s.perm 13 (clusterUnit c).toNat data).updCluster c fun x => { x with trim := trim, pow := .rechar }).bump ctrRechar 1
  s.when ok ((t.updCluster c fun x => { x with recharDone := true }).recharEnd)

end Sys2Proof.Machine
end

