-- ==== Sys2Proof/Machine/PlaceFamily.lean ====
section
/-! DEFINITION. Placement: the epoch's moves and replicas, the sequence of a move, and the activity predictor (R129 to R140, R155, R156). -/

namespace Sys2Proof.Machine

/-! ### The look-ahead (R23, R130) -/

/-- The announced packets of a ring from an offset on. -/
def State.packetsFrom (s : State) (n fuel : Nat) (off : BitVec 32) : List Pkt :=
  match fuel with
  | 0 => []
  | fuel + 1 =>
    match s.packetFrom (s.ring n) n 0 off with
    | none => []
    | some p => p :: s.packetsFrom n fuel (off + BitVec.ofNat 32 (phLen p.hdr))

/-- The next 512 packets of a running ring. -/
def State.ahead (s : State) (n : Nat) : List Pkt := if (s.ring n).st = .running then s.packetsFrom n 512 (s.ring n).head else []

/-- How far ahead a packet names a berth map entry, in packets of its ring; 512 when none does. -/
def State.aheadRank (s : State) (i : Nat) : Nat :=
  (s.cmd.rings.keyList.map fun n => (s.ahead n).findIdx fun p => p.names.any fun r => r.1 = 0 && handleIndex (BitVec.ofNat 32 r.2.1) = i).foldl min 512

/-! ### Which pages an epoch acts on (R131, R134, R136, R137) -/

/-- A page of a berth, as the epoch ranks it: filler jobs last, then by the packet that names it. -/
structure Ranked where
  berth : Nat
  page : Nat
  filler : Bool
  rank : Nat
  deriving DecidableEq, Repr

/-- Every placed page, in the order in which the epoch acts: main jobs before fillers, and within them by the look-ahead (R131). -/
def State.rankedPages (s : State) : List Ranked :=
  let all := s.place.berths.flatMap fun b =>
    let r := s.aheadRank b.1
    b.2.pages.keyList.map fun p => ({ berth := b.1, page := p, filler := s.fillerJob b.2.job, rank := r } : Ranked)
  sortBy (fun a b => if a.filler != b.filler then b.filler else a.rank ≤ b.rank) all

/-- May a page stand at a home on this module: its frames are usable, free and aligned, and harbour SRAM takes 256 KiB pages alone? -/
def State.fits (s : State) (held : List (Nat × Nat)) (b : Berth) (f : BitVec 46) : Bool :=
  gaSpace (pageAddr f) = 0 && !s.misplaced f b.frames && !s.badLocal (pageAddr f) && f.toNat % b.frames = 0 && framesFree held f.toNat b.frames &&
    (gaRegion (pageAddr f) = 0 || b.frames = 1)

/-- A cluster serves pinned pages. -/
def State.servesPins (s : State) (c : Nat) : Bool := (s.cluster c).svc = .inService && !(s.cluster c).keepGated

/-- The cluster that a pinned berth belongs in: its own while it serves, else one with room under R138, those with a free frame first and then those in
which room can be made (R134). -/
def State.pinHome (s : State) (b : Berth) : Option Nat :=
  match b.pinAt with
  | none => none
  | some c =>
    if s.servesPins c then some c
    else
      let ok := fun (d : Nat) => s.servesPins d && s.pinFits b.length d
      lowestFree 24 (fun d => ok d && (sramFrameIn s.framesHeld d 0).isSome) <|> lowestFree 24 (fun d => ok d && s.pinRoom b.job b.length d)

/-- A page named by its berth map entry and its number. -/
def State.pageOf (s : State) (e : Nat × Nat) : Option (Berth × Page) :=
  (s.place.berths.get? e.1).bind fun b => (b.pages.get? e.2).map fun x => (b, x)

/-- Stash pages that move outward in this epoch: as many as the reserve lacks, filler pages first, then those that the look-ahead does not name, and of those
the coldest (R131, R136, R137). -/
def State.outward (s : State) : List (Nat × Nat) :=
  let lacks := ceilDiv (s.stashReserve - s.localFree) (2 ^ 21)
  if lacks = 0 then []
  else
    let open_ := s.place.berths.flatMap fun b =>
      if b.2.cls != 2 || b.2.acting.getLsbD 10 || s.frozenJob b.2.job then []
      else
        let named := decide (s.aheadRank b.1 < 512)
        (b.2.pages.filter fun p => p.2.st = .placed && inLocalHbm p.2.base && !s.misplaced p.2.base b.2.frames).map fun p =>
          ((b.1, p.1), s.fillerJob b.2.job, named, p.2.heatE + p.2.heatW)
    let before := fun (a b : (Nat × Nat) × Bool × Bool × Nat) =>
      if a.2.1 != b.2.1 then a.2.1 else if a.2.2.1 != b.2.2.1 then b.2.2.1 else decide (a.2.2.2 ≤ b.2.2.2)
    ((sortBy before open_).take lacks).map (·.1)

/-- A cluster of a die has room for one more hot page (R131, R138). -/
def State.hotRoom (s : State) (held : List (Nat × Nat)) (c : Nat) : Bool :=
  s.enabled c && s.servesPins c && s.hotFrames c + s.pinnedFrames c < 64 && (sramFrameIn held c 0).isSome

/-- The clusters of a die. -/
def dieClusters (d : Nat) : List Nat := (List.range 12).map (12 * d + ·)

/-- A filler job's hot page in harbour SRAM of a die, which a main job's page may displace (R131, R137). -/
def State.fillerHot (s : State) (d : Nat) : Option (Nat × Nat) :=
  ((dieClusters d).flatMap s.hotIn).find? fun e => (s.pageOf e).any fun x => s.fillerJob x.1.job && !s.frozenJob x.1.job && x.2.st = .placed

/-- The die whose heat for a page is higher. -/
def Page.hotDie (x : Page) : Option Nat := if x.heatW < x.heatE then some 0 else if x.heatE < x.heatW then some 1 else none

/-- The die whose HBM holds a page. -/
def hbmDie (base : BitVec 46) : Nat := gaStack (pageAddr base) / 8

/-- The page's heat on the other die is more than four times its heat on its own. -/
def Page.wrongDie (x : Page) : Bool :=
  if hbmDie x.base = 0 then 4 * x.heatE < x.heatW else 4 * x.heatW < x.heatE

/-- A pinned page goes to its berth's cluster: at once when the cluster has a free frame, else room is made there and the page waits (R134, R138). -/
def State.movePinned (s : State) (i p c : Nat) (b : Berth) (retire : Bool) : State :=
  match sramFrameIn s.framesHeld c 0 with
  | some f => (s.updBerth i fun b => { b with pinAt := some c }).startMove i p (BitVec.ofNat 46 f) retire
  | none => s.makePinRoom b.job c

/-- A move of a pinned page off its unit is recorded in the Ledger (R134). -/
def State.pinRecord (s : State) (i p : Nat) (b : Berth) : State := s.ord 11 0 (leBytes 4 (mkHandle b.gen i).toNat ++ leBytes 4 p)

/-- A misplaced page moves off its unit: a pinned one to the cluster it now belongs in, or else to HBM, either of which the Ledger records (R131, R134). -/
def State.moveOff (s : State) (i p : Nat) (b : Berth) (asked : Option (BitVec 46)) (pick : Nat) : State :=
  match s.pinHome b with
  | some c =>
    let t := s.movePinned i p c b true
    if (t.pageOf (i, p)).any fun x => x.2.st = .migrating then t.pinRecord i p b else t
  | none =>
    match asked <|> (s.hbmFrame b pick).map (BitVec.ofNat 46 ·) with
    | none => s
    | some f => if b.cls = 3 then (s.startMove i p f true).pinRecord i p b else s.startMove i p f true

/-- A hot page in HBM moves into harbour SRAM of the die that heats it more, or has a filler job's hot page moved out for it (R131, R137). -/
def State.moveHot (s : State) (e : Ranked) (d : Nat) (asked : (BitVec 46 → Bool) → Option (BitVec 46)) : State :=
  let held := s.framesHeld
  let there := fun (f : BitVec 46) => (sramCluster f).any fun c => dieOf c = d && s.hotRoom held c
  let room := ((dieClusters d).find? (s.hotRoom held)).bind fun c => (sramFrameIn held c 0).map (BitVec.ofNat 46 ·)
  match asked there <|> room with
  | some f => s.startMove e.berth e.page f false
  | none =>
    match (if e.filler then none else s.fillerHot d) with
    | some v => s.moveOut v
    | none => s

/-- What an epoch does with one page: the first case of R131 that applies, but for the moves outward, which `out` names; `moves` names homes that the
Harbourmaster chooses, and for a frozen job the choice is a fixed function of its command stream (R131, R139). -/
def State.epochPage (moves : List Move) (out : List (Nat × Nat)) (s : State) (e : Ranked) : State :=
  let (i, p) := (e.berth, e.page)
  match s.pageOf (i, p) with
  | none => s
  | some (b, x) =>
    let held := s.framesHeld
    let asked := fun (ok : BitVec 46 → Bool) =>
      if s.frozenJob b.job then none
      else (moves.find? fun m => m.kind = .move && m.berth = i && m.page = p && s.fits held b m.base && ok m.base).map (·.base)
    let (pick, t) := s.pickFor b.job (i * 2 ^ 24 + p)
    let off := s.misplaced x.base b.frames
    if !s.movable i p b x off then s
    else if off then t.moveOff i p b (asked fun _ => true) pick
    else if b.cls = 3 then
      match s.pinHome b with
      | some c => if sramCluster x.base = some c then s else s.movePinned i p c b false
      | none => s
    else if s.frozenJob b.job || out.contains (i, p) then s
    else if b.cls = 0 then
      match (if inLocalHbm x.base then x.hotDie else none) with
      | some d => s.moveHot e d asked
      | none => s
    else if inLocalHbm x.base && x.wrongDie then
      let d := 1 - hbmDie x.base
      match asked (fun f => gaRegion (pageAddr f) = 0 && hbmDie f = d) <|> (s.hbmOnDie held b d b.frames pick).map (BitVec.ofNat 46 ·) with
      | some f => t.startMove i p f false
      | none => s
    else s

/-- A stash page moves outward, to the first place of R136 beyond the module that has room. -/
def State.moveOutward (s : State) (e : Nat × Nat) : State :=
  match s.pageOf e with
  | none => s
  | some (b, x) =>
    if !s.movable e.1 e.2 b x false then s
    else
      let (pick, t) := s.pickFor b.job (e.1 * 2 ^ 24 + e.2)
      match t.stashHome b pick true with
      | (some f, t) => t.startMove e.1 e.2 f false
      | (none, _) => s

/-- May a replica of a page stand at a home: whole free frames, of another cluster's harbour SRAM or of the other die's HBM (R135)? -/
def State.copyFits (s : State) (b : Berth) (x : Page) (f : BitVec 46) : Bool :=
  let die := fun (f : BitVec 46) => let a := pageAddr f; if gaRegion a = 1 then a / 2 ^ 28 % 2 else gaStack a / 8
  gaSpace (pageAddr f) = 0 && !s.misplaced f b.frames && !s.badLocal (pageAddr f) && f.toNat % b.frames = 0 &&
    framesFree (s.framesHeld ++ s.copiesHeld) f.toNat b.frames && (if (sramCluster f).isSome then sramCluster f != sramCluster x.base else die f != die x.base)

/-- The berth's pages may have replicas (R135). -/
def Berth.replicable (b : Berth) : Bool := b.acting.getLsbD 5 || b.acting.getLsbD 7

/-- A replica of a READ_MOSTLY or EXPERT page is made or dropped (R131, R135). -/
def State.epochReplica (s : State) (m : Move) : State :=
  match s.pageOf (m.berth, m.page) with
  | none => s
  | some (b, x) =>
    if x.st != .placed || s.frozenJob b.job || !b.replicable then s
    else
      match m.kind with
      | .addReplica =>
        match (if s.copyFits b x m.base then some m.base else s.replicaFrame b x none 0) with
        | some f => s.addCopy m.berth m.page f
        | none => s
      | .dropReplica => s.dropCopies m.berth m.page fun c => c != m.base
      | .move => s

/-- A page placed here for a source stands on a unit that is emptied: it moves to a free frame of local HBM, which the frame table then names.
How the source learns the new home is not stated (R134, R256; log 27). -/
def State.moveStash (s : State) (e : Nat × Nat) : State :=
  let n := 2 * 2 ^ 21
  if s.misplaced (BitVec.ofNat 46 e.2) 8 && s.capAllows true n then
    match s.hbmFrame stashBerth (s.freeVal.toNat % 2 ^ 32) with
    | none => s
    | some f =>
      let s := (s.freeNext).migrates true n
      let fs := (List.range 8).foldl (fun fs j => (fs.drop (e.2 + j)).put (f + j) (e.1 / 2 ^ 24 % 4096)) s.net.frames
      (s.setNet { s.net with stashIn := s.net.stashIn.put e.1 f, frames := fs }).yieldFrames f 8
  else s

/-- Heat is halved (R130). -/
def Page.cool (p : Page) : Page := { p with heatE := p.heatE / 2, heatW := p.heatW / 2 }

/-- Hints take effect (R125): replicas that no hint and no unit in service keeps are dropped (R134, R135). -/
def State.hintsAct (s : State) : State :=
  let t := s.setPlace { s.place with berths := s.place.berths.mapVals fun _ b => { b with acting := b.hints } }
  t.dropWhere fun b f => b.replicable && !t.misplaced f b.frames

/-- Room goes on being made for pins (R138). -/
def State.keepPinRoom (s : State) : State :=
  s.place.berths.foldl (fun s b =>
    match b.2.pinAt with
    | some c => if s.servesPins c then s.makePinRoom b.2.job c else s
    | none => s) s

/-- Heat is halved, and every descriptor is taken anew (R124, R130). -/
def State.epochEnd (s : State) (now : Nat) : State :=
  let t := s.place.berths.keyList.foldl State.snapBerth s
  t.setPlace { t.place with epochAt := now, berths := t.place.berths.mapVals fun _ b => { b with pages := b.pages.mapVals fun _ p => p.cool } }

/-- PLACEMENT_EPOCH: each 1 ms hints take effect, the Harbourmaster moves the pages that R131 names, within the migration cap, makes and drops replicas, and
halves the heat (R124, R125, R130 to R140). -/
def execPlacementEpoch (moves : List Move) (s : State) : Host.Outcome State Fault Refusal :=
  let t := s.hintsAct.keepPinRoom
  let out := t.outward
  let t := t.rankedPages.foldl (State.epochPage moves out) t
  let t := out.foldl State.moveOutward t
  let t := t.net.stashIn.foldl State.moveStash t
  s.when (s.running && s.after s.place.epochAt 1000) ((moves.foldl State.epochReplica t).epochEnd s.now)

/-! ### The sequence of a move (R129, R132, R146) -/

/-- The key range of a page. -/
def pageKey (i p cls : Nat) : Nat := berthKey i (p * pageSize cls)

/-- Accesses that carry the page's bytes to or from a home outside the module have not all completed. -/
def State.pageOnWire (s : State) (i p cls : Nat) : Bool :=
  let meets := fun (w : Want) => w.key < pageKey i p cls + pageSize cls && pageKey i p cls < w.key + w.len
  (s.wire.wants ++ s.wire.reads).any meets

/-- PAGE_COPY_COMPLETE: the copy has been made; new accesses to the page are held and its shootdown begins, in the module and at the modules
that reach it through a window (R129, R132). -/
def execPageCopyComplete (berth page : Nat) (s : State) : Host.Outcome State Fault Refusal :=
  match s.pageOf (berth, page) with
  | none => .next s
  | some (b, x) =>
    let t := s.updBerth berth fun b => { b with pages := b.pages.put page { x with held := true } }
    let t := t.setPlace { t.place with shoot := t.place.shoot ++ [(berth, page)] }
    s.when (s.running && x.st = .migrating && x.goal.isSome && !x.held && !s.pageOnWire berth page b.cls) (t.shootDown berth page)

/-- A shootdown of the page has not been acknowledged by every module. -/
def State.shooting (s : State) (h : BitVec 32) (page : Nat) : Bool :=
  (s.wire.wants.any fun w =>
    match w.kind with
    | .shootdown _ h2 p2 => h2 = h && p2 = page
    | _ => false) ||
  s.net.unacked.any fun t =>
    match t.msg with
    | some (.shootdown _ h2 p2) => h2 = h && p2 = page
    | _ => false

/-- SHOOTDOWN_COMPLETE: the dirty lines are copied again, which counts as migration, the page entry gets its new BASE and the held accesses go on at the
new home; every block of a page that came off a failed stack is poisoned (R129, R132, R133, R146, R332). -/
def execShootdownComplete (berth page : Nat) (s : State) : Host.Outcome State Fault Refusal :=
  match s.pageOf (berth, page) with
  | none => .next s
  | some (b, x) =>
    match x.goal with
    | none => .next s
    | some f =>
      let lost := inLocalHbm x.base && (s.stack (gaStack (pageAddr x.base))).st = .failed
      let t := (s.tcRemove berth page).hideFrame b x.base
      let t := if x.dirty.isEmpty then t
        else (t.migrates (s.misplaced x.base b.frames) (2 * 4096 * x.dirty.length)).sendPage berth page b f (some x.dirty)
      let t := t.updBerth berth fun b =>
        { b with pages := b.pages.put page { x with base := f, st := .placed, goal := none, dirty := [], held := false, old := some x.base } }
      let t := t.setPlace { t.place with shoot := t.place.shoot.filter fun e => e != (berth, page) }
      let t := t.exposeFrame berth b f
      let t := if lost then t.poisonBlocks (blocksOf (pageKey berth page b.cls) (pageSize b.cls)) else t
      s.when (s.running && x.held && s.place.shoot.contains (berth, page) && !s.shooting (mkHandle b.gen berth) page) t

/-- The page meets a range of a handle. -/
def touchesPage (berth cls page : Nat) (h : BitVec 32) (ofs n : Nat) : Bool :=
  h != 0 && handleIndex h = berth && (pagesTouched cls ofs n).contains page

/-- An access that may have been issued to a page's old home is still under way: a load, a DMA's read or write, or an access outside the module. -/
def State.pageInFlight (s : State) (berth cls page : Nat) : Bool :=
  s.pageOnWire berth page cls || s.comp.cores.any fun c =>
    (c.2.dmas.any fun d => touchesPage berth cls page d.2.handle d.2.ofs d.2.bytes.length || touchesPage berth cls page d.2.src d.2.sofs d.2.slen) ||
      c.2.loads.any fun l => touchesPage berth cls page l.handle l.ofs l.len

/-- OLD_FRAME_RELEASE: every access to the old home has completed, and its frame is free (R132). -/
def execOldFrameRelease (berth page : Nat) (s : State) : Host.Outcome State Fault Refusal :=
  match s.pageOf (berth, page) with
  | none => .next s
  | some (b, x) =>
    s.when (x.old.isSome && !s.pageInFlight berth b.cls page)
      (s.updBerth berth fun b => { b with pages := b.pages.put page { x with old := none } })

/-! ### The activity predictor (R155, R156) -/

/-- A launch in progress of an expert, with an activation source and a weight target. -/
def State.predicting (s : State) (job layer expert : Nat) : Option Prog :=
  s.cmd.progs.find? fun g =>
    let p := g.pkt
    p.op = 0x0202 && g.ring / 4 = job && p.expert && p.f 1 27 16 = layer && p.f 1 39 28 = expert && g.outcome.isNone &&
      ((List.range 8).any fun n => p.kind (n + 1) = 6) && ((List.range 8).any fun n => p.kind (n + 1) = 7)

/-- The clusters on which a launch's instances run or wait. -/
def State.launchIn (s : State) (g : Prog) : List Nat :=
  match g.work with
  | .launch l =>
    ((s.comp.insts.filter fun e => e.2.launch = l).filterMap fun e =>
      match e.2.st with
      | .running k => some (clusterOf k)
      | _ => (s.comp.groups.get? e.2.group).map (·.cluster)).dedup
  | _ => []

/-- The berths of a packet's arguments of a KIND. -/
def Pkt.argsOf (p : Pkt) (kind : Nat) : List (BitVec 32) :=
  ((List.range 8).filter fun n => p.kind (n + 1) = kind).map fun n => (p.arg (n + 1)).setWidth 32

/-- FORM in the tile header at an offset of a berth (R85). -/
def State.formAt (s : State) (h : BitVec 32) (ofs : Nat) : Nat := bitsOf (leNat (s.mem.read (berthKey (handleIndex h) ofs) 8)) 43 42

/-- The column blocks of H of which some tile's header shows a FORM other than ZERO. Tile i stands `pitch` bytes after tile i − 1, and belongs to column
block i mod `blocks`: how a kernel lays H out is its own matter (R155; log 66). -/
def State.activeBlocks (s : State) (h : BitVec 32) (blocks pitch : Nat) : List Nat :=
  let tiles := (((s.berthAt h).map (·.length)).getD 0) / max 8 pitch
  ((List.range tiles).filter fun i => s.formAt h (i * max 8 pitch) != 0).map (· % max 1 blocks) |>.dedup

/-- The lines of a weight target that hold some of its row blocks. -/
def blockLines (length blocks : Nat) (bs : List Nat) : List Nat :=
  let size := blockBytesOf length blocks
  (bs.flatMap fun b => linesOf (b * size) (min size (length - b * size))).dedup

/-- PREDICTOR_UPDATE: the H headers of a launch's micro-batch are complete: the Tug adds the blocks that they show to be active and that were predicted
inactive, and the bits become what the headers show (R155). Late and wasted blocks are counted as kernels read and lines go (R156). -/
def execPredictorUpdate (job layer expert blocks pitch : Nat) (s : State) : Host.Outcome State Fault Refusal :=
  match s.predicting job layer expert with
  | none => .next s
  | some g =>
    let key := bindingKey job layer expert
    let n := min 64 blocks
    let active := (g.pkt.argsOf 6).flatMap fun h => s.activeBlocks h blocks pitch
    let was := s.place.predictor.getD key (BitVec.allOnes 64)
    let late := (List.range n).filter fun b => active.contains b && !was.getLsbD b
    let bits := (List.range n).foldl (fun (v : Nat) b => if active.contains b then v else v - 2 ^ b) (2 ^ 64 - 1)
    let target := ((g.pkt.argsOf 7).head?).getD 0
    let run : PredRun := { target := target, blocks := blocks, was := was, seen := [], wasted := [] }
    let t := s.setPlace { s.place with predictor := s.place.predictor.put key (BitVec.ofNat 64 bits), preds := s.place.preds.put key run }
    let len := ((s.berthAt target).map (·.length)).getD 0
    let t := if late.isEmpty then t
      else (s.launchIn g).foldl (fun t c => t.tugStart c target ((blockLines len blocks late).take (t.shadowRoom c)) g.ring g.at_) t
    s.when (s.exch.bindings.has key && 0 < blocks) t

end Sys2Proof.Machine
end

