-- ==== Sys2Proof/Machine/AuditOps.lean ====
section
/-! DEFINITION. Identity, signatures, firmware images, the start-up state word, the attestation report and the step record (R376, R380 to R393). -/

namespace Sys2Proof.Machine

/-! ### Signatures and images (R380, R384) -/

/-- The little-endian bytes of a number of bits. -/
def bytesOf {w : Nat} (x : BitVec w) : List Byte := leBytes (w / 8) x.toNat

/-- The key unit signs a digest in a domain: 114 bytes over the digest, the measurement register and the incarnation (R384). -/
def State.sign (s : State) (domain : Nat) (d : List Byte) : List Byte :=
  bytesOf (Config.ed448Sign domain (d ++ bytesOf s.side.fwMeas ++ bytesOf s.ledger.inc))

/-- The body length of a firmware image. -/
def imageLength (im : List Byte) : Nat := leNat (im.take 8)
/-- The measurement of a firmware image: SHAKE256 of header bytes 0 to 23 and the body (R380). -/
def imageMeas (im : List Byte) : BitVec 512 := shake (im.take 24 ++ (im.drop 256).take (imageLength im))
/-- An image is valid: whole, of a length at most 67,108,608, header bytes 138 to 255 zero, and its SIG verifies (R380). -/
def imageValid (im : List Byte) : Bool :=
  256 + imageLength im ≤ im.length && imageLength im ≤ 67108608 && ((im.take 256).drop 138).all (· = 0) &&
    Config.firmwareSigOk ((im.take 138).drop 24) (imageMeas im)

/-! ### The start-up state word (R376) -/

/-- STAGE: the lowest-numbered stage not yet complete; 8 when ready, 0xE in recovery mode. -/
def State.stageField (s : State) : Nat :=
  if s.side.pstate = .recovery then 14
  else if s.side.ready then 8
  else ((List.range 7).find? fun i => !s.side.stageDone.getLsbD (i + 1)).elim 8 (· + 1)

/-- The start-up state word. -/
def State.startWord (s : State) : Nat :=
  s.stageField * 4096 + (if s.side.halted then 2048 else 0) + (if s.side.retiredAny then 1024 else 0) + s.side.fail % 256

/-! ### The attestation report (R385) -/

/-- A mask of clusters as a number. -/
def clusterMask (cs : List Nat) : Nat := (cs.map fun c => 2 ^ c).sum
/-- The clusters enabled by fuse. -/
def State.clustersOn (s : State) : List Nat := (List.range 24).filter s.enabled
/-- The part number (R2). -/
def State.part (s : State) : List Byte := fit 16 (ascii (if s.chip.gradeB then "SLM-1024-B" else "SLM-1024-A"))
/-- FUSE_DIGEST: the module fuse block and every array fuse word. -/
def State.fuseDigest (s : State) : List Byte := shakeBytes (s.chip.fuseBlock ++ (List.range 408).flatMap fun k => bytesOf (s.coreHw k).fuse)

/-- Bytes 80 to 335 of the report. -/
def State.attestInfo (s : State) : List Byte :=
  bytesOf s.ledger.inc ++ leBytes 1 (if s.chip.gradeB then 1 else 0) ++ leBytes 1 0xB0 ++ leBytes 1 2 ++ leBytes 1 s.clustersOn.length ++
    leBytes 1 s.clustersIn.length ++ leBytes 1 s.stacksIn.length ++ leBytes 4 (clusterMask s.clustersOn) ++ leBytes 4 (clusterMask s.clustersIn) ++
    leBytes 2 ((List.range 408).filter s.workingCore).length ++ leBytes 2 ((List.range 16).map s.pcsRetired).sum ++ zeros 4 ++
    leBytes 8 s.berthCap ++ s.part ++ bytesOf s.side.fwMeas ++ bytesOf s.side.osMeas ++ s.fuseDigest ++ leBytes 8 (s.counter ctrFuses) ++
    leBytes 8 (s.counter ctrPprHard)

/-- The report of a nonce, 474 bytes. -/
def State.attestReport (s : State) (nonce : List Byte) : List Byte :=
  let body := leBytes 2 1 ++ leBytes 2 474 ++ zeros 4 ++ fit 64 nonce ++ bytesOf s.chip.fp ++ s.attestInfo ++
    leBytes 8 (s.counter ctrRetired) ++ leBytes 8 s.now ++ leBytes 8 s.calendarNow
  body ++ s.sign 1 (shakeBytes body)

/-- The certificate chain: module, intermediate and root, each after its length. -/
def State.chain (s : State) : List Byte := ((List.range 3).map fun i => s.chip.certs.getD i []).flatMap fun c => leBytes 4 c.length ++ c

/-! ### The step record (R391 to R393) -/

/-- Entries of a step's log in ring-then-acceptance order. -/
def State.inOrder {α : Type} (s : State) (job : Nat) (l : List (Nat × Nat × α)) : List α :=
  let age := fun (e : Nat × Nat × α) => ((s.ring (4 * job + e.1)).head - BitVec.ofNat 32 e.2.1).toNat
  (sortBy (fun a b => if a.1 != b.1 then a.1 ≤ b.1 else age b ≤ age a) l).map (·.2.2)

/-- CMD_DIGEST; the record's own packet, the last of its ring, is excluded. -/
def cmdDigest (j : Job) (ring own : Nat) : List Byte :=
  shakeBytes ((List.range 4).flatMap fun i =>
    let l := j.cmdLog.getD i []
    shakeBytes (if i = ring then l.take (l.length - own) else l))

/-- DIGEST_LOG. -/
def digestLog (ds : List (BitVec 512)) : List Byte := ds.foldl (fun l d => shakeBytes (l ++ bytesOf d)) (zeros 64)

/-- FLAGS. -/
def Job.flags (j : Job) : Nat :=
  (if j.filler then 1 else 0) + (if j.frozen && j.frozenStep then 2 else 0) + (if j.fixedStep then 4 else 0) + (if j.engaged then 8 else 0) +
    (if j.fillerRan then 16 else 0) + (if 4096 < j.collLog.length then 32 else 0)

/-- Collective entries that a record lists. -/
def Job.nColl (j : Job) : Nat := min 4096 j.collLog.length
/-- The bytes of a step record. -/
def Job.recordBytes (j : Job) : Nat := 498 + 80 * j.nColl

/-- The step record of a job's ring, accepted now; `own` is the length of the record's packet before its reply slot. REFRESH_US and RETRY_US, the
measured stalls behind refresh and behind retries, are free values (R147; log 2). -/
def State.stepRecord (s : State) (job ring own : Nat) (j : Job) : List Byte :=
  let body := leBytes 2 1 ++ zeros 2 ++ leBytes 4 j.recordBytes ++ bytesOf j.step ++ bytesOf j.seed ++ bytesOf s.chip.fp ++ bytesOf s.ledger.inc ++
    leBytes 1 job ++ leBytes 1 j.flags ++ leBytes 4 j.nColl ++ leBytes 8 j.startAt ++ leBytes 8 s.now ++ leBytes 8 s.calendarNow ++
    cmdDigest j ring own ++ shakeBytes (s.inOrder job j.planLog).flatten ++ digestLog (s.inOrder job j.digLog) ++ leBytes 4 j.digLog.length ++
    leBytes 4 j.planLog.length ++ leBytes 4 j.placeChg ++ leBytes 4 j.evts ++ leBytes 8 (j.stepEnergy / 1000) ++ leBytes 4 s.freeVal.toNat ++
    leBytes 4 (s.freeVal.toNat / 2 ^ 32) ++ leBytes 4 j.resends ++ leBytes 4 j.clampN ++ leBytes 4 j.gov3 ++
    ((List.range 5).flatMap fun c => leBytes 4 (ceilUs (j.netWait.getD c 0))) ++ bytesOf s.side.fwMeas ++ ((s.inOrder job j.collLog).take 4096).flatten
  body ++ s.sign 2 (shakeBytes body)

/-- The job's step is closed: the step counter advances, and what the record covers starts anew (R178, R306, R391). -/
def Job.nextStep (j : Job) (fixed fillers : Bool) : Job :=
  { j with step := j.step + 1, cmdLog := [], planLog := [], digLog := [], collLog := [], placeChg := 0, frozenStep := j.frozen, stepEnergy := 0,
           evts := 0, resends := 0, clampN := 0, gov3 := 0, fixedStep := fixed, engaged := false,
           fillerRan := fillers, netWait := [] }

/-- The step of a job closes (R306). -/
def State.closeStep (s : State) (job : Nat) : State :=
  let s := s.setCmd { s.cmd with jobs := s.cmd.jobs.mapVals fun i j => if i = job then j.nextStep s.chip.fixed s.fillerRuns else j }
  s.setColl { s.coll with usedTags := s.coll.usedTags.filter fun t => t / 2 ^ 16 != job }

/-! ### Tally (R387, R389) -/

/-- A running value: STATE, 200 bytes, and the bytes absorbed. -/
structure Running where
  state : List Byte
  count : Nat
  deriving DecidableEq, Repr

/-- The initial running value of an algorithm. -/
def Running.start (alg : Nat) : Running :=
  match alg with
  | 0 => ⟨fit 200 (leBytes 4 0xFFFFFFFF), 0⟩
  | 1 => ⟨fit 200 (leBytes 8 0xFFFFFFFFFFFFFFFF), 0⟩
  | _ => ⟨zeros 200, 0⟩

/-- A running value after some bytes. -/
def Running.scan (r : Running) (alg : Nat) (bs : List Byte) : Running :=
  let st := match alg with
    | 0 => fit 200 (leBytes 8 (crcRun polyCrc32c (leNat (r.state.take 4)) bs))
    | 1 => fit 200 (leBytes 8 (crcRun polyCrc64 (leNat (r.state.take 8)) bs))
    | _ => (keccakAbsorb (r.state, r.count % 136) bs).1
  ⟨st, (r.count + bs.length) % 2 ^ 62⟩

/-- The check value of a running value, padded to 64 bytes. -/
def Running.final (r : Running) (alg : Nat) : List Byte :=
  match alg with
  | 0 => fit 64 (leBytes 4 (leNat (r.state.take 4) ^^^ 0xFFFFFFFF))
  | 1 => fit 64 (leBytes 8 (leNat (r.state.take 8) ^^^ 0xFFFFFFFFFFFFFFFF))
  | _ => keccakFinish (r.state, r.count % 136)

/-- The 208-byte layout of a running value. -/
def Running.bytes (r : Running) (alg : Nat) : List Byte := r.state ++ leBytes 8 (alg * 2 ^ 62 + r.count)

/-! ### Ledger records (R371) -/

/-- The module counter record, 512 bytes. -/
def State.counterRecord (s : State) : List Byte :=
  (List.range 64).flatMap fun w => leBytes 8 (if w = ctrInc then s.ledger.inc.toNat else s.counter w)

/-- A unit counter record, 32 bytes. -/
def unitRecord (e : Nat × UnitCtr) : List Byte :=
  leBytes 4 (e.1 / 256) ++ leBytes 1 (e.1 / 2 ^ 40) ++ leBytes 1 e.1 ++ zeros 2 ++ leBytes 8 e.2.masked ++ leBytes 8 e.2.detected ++ leBytes 8 e.2.injected

/-- An event record, 192 bytes. -/
def LEvent.bytes (e : LEvent) : List Byte :=
  leBytes 8 e.seq ++ leBytes 8 e.cal ++ leBytes 8 e.powerS ++ bytesOf e.inc ++ leBytes 1 e.typ ++ zeros 1 ++ leBytes 4 e.unit_ ++ fit 32 e.data ++
    bytesOf e.measA ++ bytesOf e.measB

/-- The records of a kind from START on, each with the START that follows it. -/
def State.ledgerRecords (s : State) (kind start : Nat) : List (Nat × List Byte) :=
  let events := fun (l : List LEvent) => (l.filter fun e => start ≤ e.seq).map fun e => (e.seq + 1, e.bytes)
  let indexed := fun (l : List (List Byte)) => (l.zipIdx.map fun e => (e.2 + 1, e.1)).drop start
  match kind with
  | 0 => indexed [s.counterRecord]
  | 1 => indexed (s.ledger.units.map unitRecord)
  | 2 => events s.ledger.perm
  | _ => events s.ledger.ord

/-- The record length of a kind. -/
def ledgerSize (kind : Nat) : Nat := if kind = 0 then 512 else if kind = 1 then 32 else 192

end Sys2Proof.Machine
end

