-- ==== Sys2Proof/Machine/AuditFamily.lean ====
section
/-! DEFINITION. The audit, Ledger, calendar and firmware commands, and the events of a firmware activation (R305 to R310, R358, R370, R371,
R380 to R393). -/

namespace Sys2Proof.Machine

/-! ### DIGEST and CHECK_VALUE (R389) -/

/-- The berth, OFS and LENGTH of a scan. -/
def scanBad (p : Pkt) (s : State) : List Bad :=
  s.handleBad p.job 0 (p.lo 0) ++ mal 1 ((s.berthAt (p.lo 0)).any fun b => b.length < p.f 1 47 0 + (p.w 2).toNat)

/-- DIGEST: the SHAKE256 of bytes of a berth as they are stored; a poisoned block ends it with UNCORRECTABLE (R305, R389). -/
def execDigest (n : Nat) (s : State) : Host.Outcome State Fault Refusal :=
  s.command n (isOp 0x0A01) scanBad fun p s =>
    s.reading p false (p.lo 0) (p.f 1 47 0) (p.w 2).toNat fun bs s => s.done p (wordsOf 8 (shakeBytes bs))

/-- The running value that a CHECK_VALUE resumes from. -/
def Pkt.resumed (p : Pkt) : Running :=
  ⟨(List.range 25).flatMap fun i => bytesOf (p.w (3 + i)), p.f 28 61 0⟩

/-- What refuses a CHECK_VALUE: its span, a reserved algorithm, or a resume of another algorithm. -/
def checkBad (p : Pkt) (s : State) : List Bad :=
  scanBad p s ++ mal 0 (p.f 0 33 32 = 3) ++ mal 28 (p.bit 0 34 && p.f 28 63 62 != p.f 0 33 32)

/-- CHECK_VALUE: scans bytes of a berth with an algorithm, from its initial state or a running value, and returns the running value or the check
value (R305, R387, R389). -/
def execCheckValue (n : Nat) (s : State) : Host.Outcome State Fault Refusal :=
  s.command n (isOp 0x0A02) checkBad fun p s =>
    let alg := p.f 0 33 32
    s.reading p false (p.lo 0) (p.f 1 47 0) (p.w 2).toNat fun bs s =>
      let r := (if p.bit 0 34 then p.resumed else Running.start alg).scan alg bs
      s.done p (if p.bit 0 35 then wordsOf 8 (r.final alg) else wordsOf 26 (r.bytes alg))

/-! ### STEP_RECORD and ATTEST (R306, R385, R391) -/

/-- What refuses a STEP_RECORD: a destination that does not go with SYS, or without room for the record. -/
def stepRecordBad (p : Pkt) (s : State) : List Bad :=
  match s.cmd.jobs.get? p.job with
  | none => []
  | some j => s.spaceBad (p.bit 0 32) p.job 0 1 (p.lo 0) (p.f 1 47 0) j.recordBytes

/-- STEP_RECORD: writes the signed record of the job's step, sets STEP_TOKENS to 0 and advances the step counter (R178, R305, R306, R391). -/
def execStepRecord (n : Nat) (s : State) : Host.Outcome State Fault Refusal :=
  s.command n (isOp 0x0A03) stepRecordBad fun p s =>
    match s.cmd.jobs.get? p.job with
    | none => s
    | some j =>
      if !p.bit 0 32 && s.spanLost (p.lo 0) (p.f 1 47 0) j.recordBytes then s.failed p stAbsent 0
      else
        let rec_ := s.stepRecord p.job (p.ring % 4) (phSlot p.hdr) j
        ((s.putAt (p.bit 0 32) (p.lo 0) (p.f 1 47 0) rec_).closeStep p.job).freeNext.done p [j.step, BitVec.ofNat 64 j.recordBytes]

/-- ATTEST: writes the signed attestation report and the certificate chain at a system address (R305, R385). -/
def execAttest (n : Nat) (s : State) : Host.Outcome State Fault Refusal :=
  s.command n (isOp 0x0A04) (fun p _ => sysBad 8 (p.f 8 34 0) (p.w 9).toNat ++ mal 9 ((p.w 9).toNat < 4570)) fun p s =>
    let out := s.attestReport ((List.range 8).flatMap fun i => bytesOf (p.w i)) ++ s.chain.take 4096
    (s.putAt true 0 (p.f 8 34 0) out).done p [BitVec.ofNat 64 out.length]

/-! ### LEDGER_READ and CALENDAR_SET (R358, R371) -/

/-- LEDGER_READ: writes as many whole records of a kind as fit, from START on, and returns their number and the next START (R305, R371). -/
def execLedgerRead (s : State) : Host.Outcome State Fault Refusal :=
  s.command adminRing (isOp 0x0B01) (fun p _ => mal 0 (3 < p.f 0 3 0) ++ sysBad 2 (p.f 2 34 0) (p.w 3).toNat) fun p s =>
    let start := (p.w 1).toNat
    let got := (s.ledgerRecords (p.f 0 3 0) start).take ((p.w 3).toNat / ledgerSize (p.f 0 3 0))
    let next := (got.getLast?.map (·.1)).getD start
    (s.putAt true 0 (p.f 2 34 0) (got.flatMap (·.2))).done p [BitVec.ofNat 64 got.length, BitVec.ofNat 64 next]

/-- CALENDAR_SET: the calendar is the given seconds from now on; the event records the former calendar (R305, R358). -/
def execCalendarSet (s : State) : Host.Outcome State Fault Refusal :=
  s.command adminRing (isOp 0x0B02) (fun p _ => mal 0 (p.w 0 = 0)) fun p s =>
    let old := s.calendarNow
    ((s.setClk { s.clk with calendar := some ((p.w 0).toNat, s.now) }).ord 12 0 (leBytes 8 old)).done p []

/-! ### FW_STAGE and FW_ACTIVATE (R307 to R310) -/

/-- FW_STAGE: copies a firmware image and holds it when it is valid, replacing any staged earlier (R305, R307, R380). -/
def execFwStage (s : State) : Host.Outcome State Fault Refusal :=
  s.command adminRing (isOp 0x0B03) (fun p _ => sysBad 0 (p.f 0 34 0) (p.w 1).toNat ++ mal 1 (2 ^ 26 < (p.w 1).toNat)) fun p s =>
    s.reading p true 0 (p.f 0 34 0) (p.w 1).toNat fun im s =>
      if imageValid im then
        (s.setCmd { s.cmd with staged := some (im.take (256 + imageLength im)) }).done p (wordsOf 8 (bytesOf (imageMeas im)))
      else s.failed p stMalformed (detailWord 0x24 0)

/-- Every open ring is paused, a stopped one too (R308). -/
def State.pauseRings (s : State) : State :=
  s.setCmd { s.cmd with rings := s.cmd.rings.mapVals fun _ r => if r.st = .closed then r else { r with st := .paused } }

/-- Every paused ring runs again, and acts on its doorbells; a head that stopped its ring before stops it again (R283, R308, R309). -/
def State.resumeRings (s : State) : State :=
  let ns := (s.cmd.rings.filter fun r => r.2.st = .paused).map (·.1)
  let s := s.setCmd { s.cmd with rings := s.cmd.rings.mapVals fun _ r => if r.st = .paused then { r with st := .running } else r }
  ns.foldl (fun s n => s.checkHead n) s

/-- FW_ACTIVATE: acceptance stops, every open ring pauses, and filler kernels are brought to their restart points; what follows is
FW_QUIESCENT or FW_ACTIVATE_TIMEOUT (R305, R308). -/
def execFwActivate (s : State) : Host.Outcome State Fault Refusal :=
  s.command adminRing (isOp 0x0B04)
    (fun p s => mal 0 (p.f 0 15 0 = 0 || 60000 < p.f 0 15 0) ++ refuseIf s.cmd.staged.isNone stMalformed 0) fun p s =>
    let s := (s.works p (.firmware (s.now + 1000 * p.f 0 15 0 * ticksPerUs) s.side.fwMeas)).pauseRings
    ((List.range 24).filter fun c => s.runsKind c true).foldl State.askLeave s

/-- The firmware activation in progress, with its limit and the measurement that it replaces. -/
def State.activation (s : State) : Option (Prog × Nat × BitVec 512) :=
  s.cmd.progs.findSome? fun g =>
    match g.work with
    | .firmware t m => if g.outcome.isNone then some (g, t, m) else none
    | _ => none

/-- A command in progress does not hold the activation: it is the activation, or a filler's launch none of whose instances runs. -/
def State.letsActivate (s : State) (g : Prog) : Bool :=
  match g.work with
  | .firmware _ _ => true
  | .launch l =>
    (s.comp.launches.get? l).any (·.filler) && s.comp.insts.all fun e =>
      e.2.launch != l ||
        match e.2.st with
        | .running _ => false
        | _ => true
  | _ => false

/-- FW_QUIESCENT: every accepted packet has completed within the limit; Cricket's ROM path takes the watchdog, writes the staged image to flash,
and starts it, which sets the measurement register; the Ledger records the activation, whether or not the image then passes its checks (R308, R310, R340,
R370, R381). -/
def execFwQuiescent (s : State) : Host.Outcome State Fault Refusal :=
  match s.activation, s.cmd.staged with
  | some (_, t, old), some im =>
    let u := s.setCmd { s.cmd with starting := true }
    let u := u.setSide { u.side with
      fwImage := im, fwMeas := imageMeas im, romPath := true, reports := (u.side.reports.put keyRom s.now).put keyQuiet s.now }
    s.when (s.running && !s.cmd.starting && s.now < t && s.cmd.progs.all s.letsActivate) ((u.permMeas 6 [] old (imageMeas im)).bump ctrFwAct 1)
  | _, _ => .next s

/-- FW_ACTIVATE_TIMEOUT: the limit passes first: every ring runs again, the firmware is unchanged and the image stays staged (R308). -/
def execFwActivateTimeout (s : State) : Host.Outcome State Fault Refusal :=
  match s.activation with
  | none => .next s
  | some (g, t, _) =>
    s.when (!s.cmd.starting && t ≤ s.now) ((s.conclude g.ring g.at_ (Outc.of stTimeout 0)).resumeRings).startWaiting

/-- FIRMWARE_RESUME: the new firmware accepts packets again, resumes suspended filler kernels, and FW_ACTIVATE completes with both measurements (R308). -/
def execFirmwareResume (s : State) : Host.Outcome State Fault Refusal :=
  match s.activation with
  | none => .next s
  | some (g, _, old) =>
    let t := (s.setCmd { s.cmd with starting := false }).resumeRings
    s.when (s.cmd.starting && !s.after (s.side.reports.getD keyQuiet s.now) 300000)
      (t.conclude g.ring g.at_ { Outc.of 0 0 with results := wordsOf 8 (bytesOf old) ++ wordsOf 8 (bytesOf s.side.fwMeas) }).startWaiting

end Sys2Proof.Machine
end

