-- ==== Sys2Proof/Machine/WindowOps.lean ====
section
/-! DEFINITION. The I3C register window, fabric ports as start-up and the link rows share them, and the pins' effects on start-up (R240 to R246,
R348, R361, R372 to R379, R403 to R409). -/

namespace Sys2Proof.Machine

/-! ### The I3C register window (R407) -/

/-- A little-endian 64-bit register from (position, value) fields. -/
def regBytes (fields : List (Nat × Nat)) : List Byte := leBytes 8 ((fields.map fun f => f.2 * 2 ^ f.1).sum)

/-- PSTATE. -/
def PState.code (p : PState) : Nat :=
  match p with
  | .off => 0
  | .standby => 1
  | .starting => 2
  | .idle => 3
  | .active => 4
  | .tripped => 5
  | .recovery => 6

/-- A bit as a number. -/
def bit01 (b : Bool) : Nat := if b then 1 else 0

/-- ID. -/
def State.idReg (s : State) : List Byte :=
  regBytes [(56, bit01 s.chip.gradeB), (48, 0xB0), (40, 2), (32, s.clustersOn.length), (0, s.chip.enMask.toNat)]

/-- STATUS; the clusters and stacks in service show once their stages are complete. -/
def State.statusReg (s : State) : List Byte :=
  regBytes [(60, s.side.pstate.code), (59, bit01 s.side.pwrEn), (58, bit01 s.side.resetN), (57, bit01 s.side.pg), (56, bit01 s.side.thermTrip),
    (55, bit01 s.promise), (40, if s.side.stageDone.getLsbD 5 then s.clustersIn.length else 0),
    (32, if s.side.stageDone.getLsbD 3 then s.stacksIn.length else 0), (0, s.startWord)]

/-- TELEMETRY. -/
def State.telemetryReg (s : State) : List Byte :=
  regBytes [(48, s.side.vin % 65536), (32, s.side.pin % 65536), (24, s.side.tj % 256), (16, s.side.tcool % 256), (7, s.chip.cap / 25 % 512)]

/-- LOADER. -/
def State.loaderReg (s : State) : List Byte := regBytes [(60, s.side.lstate), (32, s.side.rcvd), (0, s.side.llen)]

/-- Bytes 0x0000 to 0x004F of the window. -/
def State.window (s : State) : List Byte :=
  s.idReg ++ bytesOf s.chip.fp ++ s.statusReg ++ bytesOf s.side.attnCause ++ bytesOf s.side.attnMask ++
    regBytes [(48, s.side.resetInc.toNat), (0, s.side.resetCause)] ++ leBytes 8 s.now ++ s.telemetryReg ++ regBytes [(2, bit01 s.side.rejected)] ++
    s.loaderReg ++ leBytes 8 s.side.mac.toNat

/-- A byte of the window: what the map does not name, and LOADER_DATA, read 0. -/
def State.windowByte (s : State) (o : Nat) : Byte := s.window.getD o 0

/-- The window holds a register of 8 bytes at the offset: all but the two of 4 bytes at 0x0018. -/
def longReg (o : Nat) : Bool := o < 0x50 && o / 8 != 3

/-- A transfer of `n` bytes from the pointer covers an offset. -/
def State.transfers (s : State) (n o : Nat) : Bool := (o + 65536 - s.side.ptr.toNat) % 65536 < n

/-- A byte of a private read of `n` bytes: a register of 8 bytes reads as it was sampled when its first byte was last read (R407). -/
def State.readByte (s : State) (n o : Nat) : Byte :=
  let r := o / 8 * 8
  if longReg o && !s.transfers n r then ((s.side.latch.get? r).map fun v => v.extractLsb' (8 * (o % 8)) 8).getD (s.windowByte o) else s.windowByte o

/-- The registers whose first byte a transfer reads are sampled (R407). -/
def State.sampled (s : State) (n : Nat) : AMap (BitVec 64) :=
  (((List.range 10).map (8 * ·)).filter fun r => longReg r && s.transfers n r).foldl
    (fun m r => m.put r (BitVec.ofNat 64 (leNat ((s.window.drop r).take 8)))) s.side.latch

/-- The I3C target answers: from the end of stage 1 (R373, R403). -/
def State.i3cAnswers (s : State) : Bool := s.side.v54 && s.side.stageDone.getLsbD 1

/-- UDP port of Cricket's status port (R266). -/
def statusPort : Nat := 48612
/-- The all-nodes multicast address ff02::1 (R379). -/
def allNodes : BitVec 128 := 0xFF020000000000000000000000000001#128
/-- The MAC address to which frames for the all-nodes address go (RFC 2464). -/
def allNodesMac : BitVec 48 := 0x333300000001#48

/-! ### Cricket's network identity and its frames (R265 to R267) -/

/-- The modified EUI-64 interface identifier of a MAC address (R267). -/
def eui64 (mac : BitVec 48) : BitVec 64 :=
  BitVec.ofNat 64 (mac.toNat / 2 ^ 24 * 2 ^ 40 + 0xFFFE * 2 ^ 24 + mac.toNat % 2 ^ 24) ^^^ 0x0200000000000000#64
/-- Cricket's link-local address. -/
def State.linkLocal (s : State) : BitVec 128 := 0xFE80000000000000#64 ++ eui64 s.side.mac
/-- Cricket uses an address: its link-local one unless it was found to be a duplicate, and each global one that passed its check. -/
def State.cricketUses (s : State) (a : BitVec 128) : Bool :=
  if a = s.linkLocal then !s.side.addrs.contains (a, false) else s.side.addrs.contains (a, true)
/-- An address that Cricket uses, its link-local one before any other. -/
def State.cricketAddr (s : State) : Option (BitVec 128) := (s.linkLocal :: s.side.addrs.map (·.1)).find? s.cricketUses

/-- ICMPv6 type of a neighbour advertisement (RFC 4861). -/
def naType : Nat := 136
/-- ICMPv6 type of an echo reply (RFC 4443). -/
def echoType : Nat := 129

/-- An ICMPv6 message with its checksum. -/
def icmpBytes (src dst : BitVec 128) (typ : Nat) (data : List Byte) : List Byte :=
  let head := fun (c : Nat) => beBytes 1 typ ++ beBytes 1 0 ++ beBytes 2 c ++ data
  head (upperSum src dst 58 (head 0))

/-- The frame in which Cricket sends something from an address to a MAC address, an IPv6 address and a port: from its own MAC, with no tag. A neighbour
advertisement is solicited and overrides, names its address and gives the MAC, at hop limit 255 (R266, R267, RFC 4861). -/
def State.cricketFrame (s : State) (src : BitVec 128) (mac : BitVec 48) (dst : BitVec 128) (port kind : Nat) (body : List Byte) : Frame :=
  let frame := ipFrame mac s.side.mac 0 0 0 0
  if kind = naType then frame 255 src dst 58 (icmpBytes src dst kind (beBytes 4 0x60000000 ++ beBytes 16 src.toNat ++ [2, 1] ++ body))
  else if kind = echoType then frame Config.hopLimit.toNat src dst 58 (icmpBytes src dst kind body)
  else frame Config.hopLimit.toNat src dst 17 (udpBytes src dst kind port body)

/-- Cricket sends something from one of its addresses: its own lock lets no frame pass whose source is not an address that it uses. Where the request names
who asks, the frame waits in Cricket's own transmit queue (R265 to R267; log 218). -/
def State.cricketSend (s : State) (src : BitVec 128) (to_ : Option (BitVec 48 × BitVec 128 × Nat)) (kind : Nat) (body : List Byte) : State :=
  if s.cricketUses src then
    let t := s.emit (.cricket src kind body)
    match to_ with
    | none => t
    | some (mac, dst, port) => t.setWire { t.wire with cricketTx := t.wire.cricketTx ++ [s.cricketFrame src mac dst port kind body] }
  else s

/-- Bytes that Cricket has sent in the last 100 µs. -/
def State.cricketSpent (s : State) : Nat := ((s.wire.cricketSent.filter fun e => s.now < e.1 + 100 * ticksPerUs).map (·.2)).sum

/-- Cricket's share of the management lane: 2.5 Gb/s over 100 µs, in bytes (R265). -/
def cricketShare : Nat := 31250

/-- Cricket's waiting frames leave on the management lane, all of them or while it has used less than its share (R265). -/
def State.cricketPump (s : State) (all : Bool) (fuel : Nat) : State :=
  match fuel with
  | 0 => s
  | fuel + 1 =>
    match s.wire.cricketTx with
    | [] => s
    | f :: rest =>
      if all || s.cricketSpent < cricketShare then
        let sent := (s.now, f.bytes.length) :: s.wire.cricketSent.filter fun e => s.now < e.1 + 100 * ticksPerUs
        ((s.setWire { s.wire with cricketTx := rest, cricketSent := sent }).emit (.frame 2 f)).cricketPump all fuel
      else s

/-- The frames that wait at a port leave, as far as its lock's rate lets them. On the management lane Cricket's go first while it has used less than its
share of the lane, and then after the operating system's (R262, R264, R265). -/
def State.portPump (s : State) (p : Nat) : State :=
  if p = 2 then
    let s := s.cricketPump false s.wire.cricketTx.length
    let s := s.ethPump 2 (s.txPort 2).waiting
    if (s.txPort 2).waiting = 0 then s.cricketPump true s.wire.cricketTx.length else s
  else s.ethPump p (s.txPort p).waiting

/-! ### Fabric ports (R240 to R246, R351) -/

/-- The direct topology's spare port with no peer named stays untrained (R243). -/
def State.untrained (s : State) (p : Nat) : Bool := s.net.plan.any (·.direct) && p = 35 && (s.portPlan 35).isNone

/-- The unit word of a fabric port. -/
def portUnit (p : Nat) : BitVec 32 := unitWord p 0 0 0 0 0

/-- WIDTH. -/
def Width.code (w : Width) : Nat :=
  match w with
  | .down => 0
  | .x2 => 1
  | .x4 => 2

/-- The Ledger's record of a lane failure or a change of width (R242, R370). -/
def State.widthEvent (s : State) (p : Nat) : State :=
  let x := s.port p
  s.ord 9 (portUnit p).toNat (leBytes 1 p ++ leBytes 1 x.lanes.toNat ++ leBytes 1 x.width.code)

/-- A port that is down. -/
def Port.down (x : Port) : Port := { x with width := .down, lanes := 0, training := none, checked := false }

/-- A port goes down, which is a change of width (R242). -/
def State.portDown (s : State) (p : Nat) : State :=
  let t := s.updPort p Port.down
  if (s.port p).width = .down then t else t.widthEvent p

/-- An enable of a port: its training begins, or is held behind its shut-down (R246, R351). -/
def State.trainPort (s : State) (p : Nat) : State :=
  if (s.port p).shutting then s.updPort p fun x => { x with held := true }
  else (s.portDown p).updPort p fun x => { x with training := some s.now, shut := false }

/-- Stage 6 starts: every port but an unused spare one trains (R246, R372). -/
def State.startFabric (s : State) : State :=
  ((List.range 36).filter fun p => !s.untrained p).foldl State.trainPort s

/-! ### Pins (R348, R361, R373, R374, R403) -/

/-- An orderly shut-down ends, or a start-up is abandoned: the counter snapshot is written and everything volatile is lost (R348, R374). -/
def State.orderlyEnd (s : State) : State := (s.setSide { s.side with shutting := false }).moduleReset 10

/-- The module leaves a halt: after fail code 0x11 stage 1 runs again (R373). -/
def State.leaveHalt (s : State) : State :=
  if s.side.halted then
    if s.side.fail = 0x11 then s.setSide { s.side with halted := false, stage1Latch := false, stageDone := 0, fail := 0, pstate := .standby }
    else s.setSide { s.side with halted := false }
  else s

/-- PWR_EN as acted on becomes asserted (R348, R361, R373, R403). -/
def State.powerOn (s : State) : State :=
  let s := s.setSide { s.side with pwrEn := true }
  if s.side.shutting then s.setSide { s.side with heldOn := true }
  else if s.side.pstate = .tripped then
    if s.side.tripLow && s.side.cool then
      (s.setSide { s.side with pstate := .standby, thermTrip := false, tripLow := false }).tryStart
    else s.setSide { s.side with tripLow := false }
  else s.leaveHalt.tryStart

/-- PWR_EN as acted on becomes deasserted (R348, R361, R373, R374). -/
def State.powerOff (s : State) : State :=
  let s := s.setSide { s.side with pwrEn := false }
  match s.side.pstate with
  | .idle => (s.setSide { s.side with pg := false, shutting := true }).setHealth { s.health with noAccept := true }
  | .active => (s.setSide { s.side with pg := false, shutting := true }).setHealth { s.health with noAccept := true }
  | .starting => if s.side.halted then s.setSide { s.side with pstate := .standby } else s.orderlyEnd
  | .tripped => s.setSide { s.side with tripLow := true }
  | _ => s

/-- READY is acted on when stages 5 and 6 are complete: PG is released, the ready datagram sent from an address that Cricket uses, and the module enters
IDLE, or ACTIVE when a cluster is awake (R267, R342, R348, R379). -/
def State.becomeReady (s : State) : State :=
  let d := s.side
  if d.readyHeld && !d.ready && d.stageDone.getLsbD 5 && d.stageDone.getLsbD 6 && d.pstate = .starting && !d.halted then
    let s := s.setSide { d with ready := true, readyHeld := false, pg := true, stageDone := d.stageDone ||| 0x80, pstate := .idle, wdStarts := 0,
                                datagram := s.cricketAddr.isSome }
    let s := s.settlePower
    match s.cricketAddr with
    | some a => s.cricketSend a (some (allNodesMac, allNodes, statusPort)) statusPort s.window
    | none => s
  else s

end Sys2Proof.Machine
end

