-- ==== Sys2Proof/Machine/StartFamily.lean ====
section
/-! DEFINITION. Power and reset pins, trips, the stages of start-up, READY, the operating system's start, and the ends of shut-downs (R341,
R342, R346 to R354, R361, R372 to R379, R403 to R405, R410). -/

namespace Sys2Proof.Machine

/-! ### 54 V, PWR_EN and RESET_N (R348, R349, R374, R403, R410) -/

/-- POWER_GOOD: 54 V becomes good: the counter starts at 0, the straps are sampled, the module stands in STANDBY and stage 1 runs (R347, R355,
R372, R399). -/
def execPowerGood (slot ethKr : BitVec 4) (s : State) : Host.Outcome State Fault Refusal :=
  let d := s.side
  let t := s.setClk Clk.init
  s.when (!d.v54)
    (t.setSide { Side.init with
      slot := slot, ethKr := ethKr, pwrPin := d.pwrPin, resetN := d.resetN, pwrEn := d.pwrPin && !d.resetN, mac := d.mac, fwImage := d.fwImage,
      vin := d.vin })

/-- POWER_LOST: 54 V is lost: the module is OFF, and nothing but flash and fuses keeps its contents; counts since the last snapshot and the
calendar are lost (R346, R358, R370, R405, R410). -/
def execPowerLost (s : State) : Host.Outcome State Fault Refusal :=
  let d := s.side
  let t := s.tearImage
  let t := (t.setLedger { t.ledger.lose with waiting := [] }).loseAll
  let t := (t.setClk Clk.init).setWire Wire.init
  s.when d.v54
    (t.setSide { Side.init with
      v54 := false, pstate := .off, pwrPin := d.pwrPin, resetN := d.resetN, mac := d.mac, fwImage := t.side.fwImage })

/-- PWR_EN_ASSERT: the pin is asserted; it is acted on unless RESET_N is asserted, and held behind an orderly shut-down. In TRIPPED, whether every
sensor reads below 85 °C is a free value (R348, R351, R361, R372, R403; log 2). -/
def execPwrEnAssert (s : State) : Host.Outcome State Fault Refusal :=
  let t := s.setSide { s.side with pwrPin := true }
  let t := if t.side.pstate = .tripped then (t.setSide { t.side with cool := t.freeVal.getLsbD 0 }).freeNext else t
  s.when (!s.side.pwrPin) (if s.side.v54 && !s.side.resetN then t.powerOn else t)

/-- PWR_EN_DEASSERT: the pin is deasserted; it is acted on unless RESET_N is asserted: an orderly shut-down begins, or start-up is abandoned
(R348, R361, R374, R403). -/
def execPwrEnDeassert (s : State) : Host.Outcome State Fault Refusal :=
  let t := s.setSide { s.side with pwrPin := false }
  s.when s.side.pwrPin
    (if s.side.v54 && !s.side.resetN then (if s.side.shutting then t.setSide { t.side with pwrEn := false, heldOn := false } else t.powerOff) else t)

/-- RESET_N_ASSERT: a module reset, with no orderly part (R338, R349, R373, R374, R403). -/
def execResetNAssert (s : State) : Host.Outcome State Fault Refusal :=
  let t := s.setSide { s.side with resetN := true }
  s.when (!s.side.resetN) (if s.side.v54 then t.leaveHalt.moduleReset 1 else t)

/-- RESET_N_RELEASE: a change of PWR_EN that waited takes effect, and start-up may begin (R372, R374, R403). -/
def execResetNRelease (s : State) : Host.Outcome State Fault Refusal :=
  let t := s.setSide { s.side with resetN := false }
  let t := if !s.side.v54 || s.side.pwrPin = s.side.pwrEn then t else if s.side.pwrPin then t.powerOn else t.powerOff
  s.when s.side.resetN t.tryStart

/-- ORDERLY_SHUTDOWN_COMPLETE: every job has ended, the counter snapshot is written, and the module is in STANDBY; a held enable starts it
(R348, R351). -/
def execOrderlyShutdownComplete (s : State) : Host.Outcome State Fault Refusal := s.when s.side.shutting s.orderlyEnd

/-! ### Trips (R341, R361) -/

/-- SUPPLY_TRIP: a clock or supply excursion stops every fast clock; the module is reset and held until its supplies and clocks have stayed within
their limits for 100 ms (R314, R341, R346). What the live counters lose is lost before the trip is counted (R370; log 24). -/
def execSupplyTrip (s : State) : Host.Outcome State Fault Refusal :=
  let t := (s.fault 0x12 none 0 0 5 false).attn causeSupply
  let t := t.setSide { t.side with supplyHeld := true, tripAt := s.now }
  s.when s.side.v54 (((t.moduleReset 3).bump (ctrClass 0x12) 1).bump ctrSupply 1)

/-- TRIP_RECOVERY: supplies and clocks have stayed within their limits for 100 ms, and the module starts again (R341). -/
def execTripRecovery (s : State) : Host.Outcome State Fault Refusal :=
  s.when (s.side.v54 && s.side.supplyHeld && s.after s.side.tripAt 100000) ((s.setSide { s.side with supplyHeld := false }).tryStart)

/-- THERMAL_TRIP: a junction at 110 °C: every fast clock stops, THERM_TRIP_N is asserted and the module is in TRIPPED (R338, R361, R405). -/
def execThermalTrip (s : State) : Host.Outcome State Fault Refusal :=
  let t := s.attn causeThermal
  let t := t.setSide { t.side with pstate := .tripped, wdStarts := 0, cool := false }
  let t := (t.moduleReset 4).bump ctrThermal 1
  s.when (s.clocked && !s.side.halted)
    (t.setSide { t.side with thermTrip := true, tripLow := !t.side.pwrEn, tj := 0 })

/-! ### Stages 1 to 4 (R372, R373) -/

/-- Start-up stands before stage `n`, and stage `m` is complete. -/
def State.stageDue (s : State) (m n : Nat) : Bool :=
  s.side.v54 && s.side.pstate = .starting && !s.side.halted && s.side.stageDone.getLsbD m && !s.side.stageDone.getLsbD n

/-- A stage is complete. -/
def State.stageEnds (s : State) (n : Nat) : State := s.setSide { s.side with stageDone := s.side.stageDone ||| BitVec.ofNat 8 (2 ^ n) }

/-- Start-up retired or quarantined a unit. -/
def State.startLost (s : State) (outcome reason : Nat) (unit_ : BitVec 32) : State :=
  let s := s.unitLost outcome reason unit_
  s.setSide { s.side with retiredAny := true }

/-- STAGE_CRICKET: stage 1, the ROM self-test of the Cricket pair and the counter, passes, and start-up goes on when the pins allow; or the module
halts with fail code 0x11 (R372, R373). -/
def execStageCricket (pass : Bool) (s : State) : Host.Outcome State Fault Refusal :=
  s.when (s.side.v54 && !s.side.stageDone.getLsbD 1 && !s.side.halted)
    (if pass then (s.stageEnds 1).tryStart
    else
      let t := s.halt 0x11
      t.setSide { t.side with pstate := if s.side.pwrEn && !s.side.resetN then .starting else s.side.pstate })

/-- STAGE_PIER_FIRMWARE: stage 2 checks the module fuse block, sets Pier's trim, measures the flash image and checks its signature, advances the
incarnation and self-tests the Harbourmaster pairs; it halts with 0x21 or 0x23, or leads to recovery mode (R252, R340, R342, R366, R372, R381). -/
def execStagePierFirmware (fuseOk : Bool) (pairs : List Bool) (trim : Nat) (s : State) : Host.Outcome State Fault Refusal :=
  let t :=
    if !fuseOk then (s.fault 0x14 none 0 0 4 false).halt 0x21
    else
      let t := s.setChip { s.chip with pierTrim := max s.chip.pierTrim trim }
      let t := t.setSide { t.side with fwMeas := imageMeas t.side.fwImage }
      if !imageValid t.side.fwImage then t.recovery
      else
        let t := t.setLedger { t.ledger with inc := t.ledger.inc + 1, ctr := t.ledger.ctr.put ctrInc (t.ledger.inc + 1).toNat }
        let bad := (List.range 8).filter fun i => t.chip.pairs.getLsbD i && !pairs.getD i true
        let t := bad.foldl (fun t i => (t.setChip { t.chip with pairs := t.chip.pairs &&& ~~~(BitVec.ofNat 8 (2 ^ i)) }).startLost 4 1 (unitWord i 0 0 0 0 0)) t
        if bitCount 8 t.chip.pairs.toNat < 4 then t.halt 0x23
        else
          let t := t.stageEnds 2
          t.setSide { t.side with reports := (List.range 8).map fun i => (i, s.now) }
  s.when (s.stageDue 1 2 && trim % 5 = 0 && trim ≤ 60) t

/-- STAGE_HBM: stage 3 trains the stacks; one that fails is retired; soft repairs are committed and the system region is laid out; a die that would
keep no stack halts the module with 0x31 (R20, R143, R331, R332, R372). -/
def execStageHbm (failed : List Nat) (s : State) : Host.Outcome State Fault Refusal :=
  let lost := (List.range 16).filter fun i => failed.contains i && (s.stack i).st != .retired
  let t := lost.foldl (fun t i =>
    let t := (t.updStack i fun x => { x with st := .retired }).startLost 4 1 (unitWord 0 0 i 0 0 0)
    t.setChip { t.chip with retiring := t.chip.retiring.filter (· != .stack i) }) s
  let none_ := (List.range 2).any fun d => ((List.range 8).all fun i => !t.stacksIn.contains (8 * d + i))
  let t := if none_ then t.halt 0x31 else ((t.chip.pcs.keyList.foldl (fun t i => t.pprCommit i) t).layShares).stageEnds 3
  s.when (s.stageDue 2 3) t

/-- STAGE_DIE_LINKS: stage 4 trains the die links, or halts with 0x41 (R372). -/
def execStageDieLinks (pass : Bool) (s : State) : Host.Outcome State Fault Refusal :=
  s.when (s.stageDue 3 4) (if pass then s.stageEnds 4 else s.halt 0x41)

/-! ### Stages 5 and 6 (R70, R246, R321, R322, R334, R372) -/

/-- A core fails at start-up: it is quarantined, and a spare that fails is no spare any more. -/
def State.startCore (s : State) (k reason : Nat) : State :=
  let s := s.updCoreHw k fun x => { x with st := .quarantined, reason := reason, stPass := false }
  let c := clusterOf k
  let s := if (s.cluster c).spare = some (k % 17) then s.updCluster c fun x => { x with spare := none } else s
  s.startLost 3 reason (coreUnit k)

/-- The core may be tested: its cluster is in service, and it is a working core or a spare. -/
def State.testable (s : State) (k : Nat) : Bool :=
  s.inService (clusterOf k) && ((s.coreHw k).st = .working || (s.coreHw k).st = .spare)

/-- The fuse word of a core fails the check of R70: it is recorded, the core is out of service if it was not already, and its health record
reports the failure. Every fuse word is checked, that of a quarantined, retired or disabled core too. -/
def State.startFuse (s : State) (k : Nat) : State :=
  if fuseBad (s.coreHw k).fuse then
    let t := (s.fault 0x14 utCore (coreUnit k) 0 3 false).perm 8 (coreUnit k).toNat (bytesOf (s.coreHw k).fuse)
    if s.testable k then t.startCore k 3 else t.updCoreHw k fun x => { x with reason := 3 }
  else s

/-- STAGE_CLUSTERS: stage 5 checks the fuse words and self-tests cores, thin paths and the clusters' shared parts; failing cores and thin paths are
quarantined, failing clusters retired, and the fused spares that pass are the spares; a die that would keep no cluster halts the module with 0x51
(R16, R70, R321, R322, R334, R372). -/
def execStageClusters (badCores badThin badClusters : List Nat) (s : State) : Host.Outcome State Fault Refusal :=
  let t := (List.range 408).foldl State.startFuse s
  let t := (List.range 408).foldl (fun t k =>
    if !t.testable k then t
    else if badCores.contains k then t.startCore k 1
    else t.updCoreHw k fun x => { x with stPass := true, mapped := x.fuse, fusePend := false }) t
  let t := (List.range 24).foldl (fun t c =>
    if t.inService c && badThin.contains c then (t.updCluster c fun x => { x with thinQ := true }).startLost 3 1 (clusterUnit c) else t) t
  let t := (List.range 24).foldl (fun t c =>
    if t.inService c && badClusters.contains c then (t.updCluster c fun x => { x with svc := .retired }).startLost 4 1 (clusterUnit c) else t) t
  let none_ := (List.range 2).any fun d => !(t.clustersIn.any fun c => dieOf c = d)
  s.when (s.stageDue 4 5) (if none_ then t.halt 0x51 else (t.stageEnds 5).becomeReady)

/-- STAGE_FABRIC: stage 6 starts the training of the fabric ports under the stored cabling plan; it is complete when every port has its outcome
(R245, R246, R372). -/
def execStageFabric (s : State) : Host.Outcome State Fault Refusal :=
  s.when (s.stageDue 5 6)
    (if s.net.ports.isEmpty then s.startFabric
    else if s.net.ports.all fun p => p.2.training.isNone && (p.2.width = .down || p.2.checked) then (s.stageEnds 6).becomeReady
    else s)

/-! ### Stage 7 (R377 to R379) -/

/-- Where the operating-system boot area lies in the flash. -/
def bootArea : Nat := 0x04510000
/-- Where stage 7 copies the header and image. -/
def bootLoad : Nat := 0x00200000

/-- The boot header's LENGTH and ENTRY, when it is valid. -/
def State.bootHeader (s : State) : Option (Nat × Nat) :=
  let h := s.mem.read (flashKey bootArea) 64
  let len := leNat (h.take 8)
  let entry := leNat ((h.drop 8).take 8)
  if 1 ≤ len && len ≤ 268435392 && entry < len && (h.drop 16).all (· = 0) then some (len, entry) else none

/-- The start-up description (448 bytes). -/
def State.description (s : State) : List Byte :=
  bytesOf Config.ringBlockPa ++ bytesOf Config.systemPa ++ leBytes 8 sysBytes ++ leBytes 8 s.berthCap ++ bytesOf s.chip.fp ++ bytesOf s.ledger.inc ++
    leBytes 1 ((s.ownIndex).getD 255) ++ leBytes 1 (s.net.plan.elim 255 fun c => bit01 c.direct) ++ leBytes 4 (clusterMask s.clustersIn) ++
    leBytes 8 s.now ++ leBytes 8 s.startWord ++ bytesOf s.side.fwMeas ++ bytesOf s.side.osMeas ++ s.attestInfo

/-- STAGE_OPERATING_SYSTEM: stage 7 loads and measures the image of the boot area, writes the start-up description and starts core 0; an invalid
header halts the module with 0x71 (R372, R378). -/
def execStageOperatingSystem (s : State) : Host.Outcome State Fault Refusal :=
  let t := match s.bootHeader with
    | none => s.halt 0x71
    | some (len, entry) =>
      let im := s.mem.read (flashKey bootArea) (64 + len)
      let t := s.writeMem (sysKey bootLoad) im
      let t := t.setSide { t.side with osMeas := shake im }
      let t := t.writeMem (sysKey 0) t.description
      t.setSide { t.side with harts := 1, hartEntry := [(0, Config.systemPa + BitVec.ofNat 64 (bootLoad + 64 + entry))] }
  s.when (s.stageDue 4 7 && !s.side.harts.getLsbD 0) t

/-- STAGE_7_TIMEOUT: no READY by t+120 s is a watchdog reset; the fail code it leaves is a free value (R342, R372, R376; log 2). -/
def execStage7Timeout (s : State) : Host.Outcome State Fault Refusal :=
  let t := s.moduleReset 2
  s.when (s.side.pstate = .starting && !s.side.halted && s.side.stageDone.getLsbD 4 && s.after s.side.startAt 120000000)
    ((t.setSide { t.side with fail := t.freeVal.toNat % 256 }).freeNext)

/-- READY: a write of 1 to the ready register makes the module ready as soon as stages 5 and 6 are complete; until then it is held (R379). -/
def execReady (w : BitVec 64) (s : State) : Host.Outcome State Fault Refusal :=
  s.when (s.osRuns && w.getLsbD 0 && !s.side.ready) (s.setSide { s.side with readyHeld := true }).becomeReady

/-- HART_START: the firmware's SBI starts a waiting application core at an entry (R378). -/
def execHartStart (hart : Nat) (entry : BitVec 64) (s : State) : Host.Outcome State Fault Refusal :=
  s.when (s.osRuns && hart < 32 && !s.side.harts.getLsbD hart)
    (s.setSide { s.side with harts := s.side.harts ||| BitVec.ofNat 32 (2 ^ hart), hartEntry := s.side.hartEntry.put hart entry })

/-- BOOT_AREA_WRITE: the application cores write bytes of the boot area through their flash window, which exposes nothing else (R377). -/
def execBootAreaWrite (ofs : Nat) (bytes : List Byte) (s : State) : Host.Outcome State Fault Refusal :=
  s.when (s.osRuns && ofs + bytes.length ≤ 2 ^ 28) (s.writeMem (flashKey (bootArea + ofs)) bytes)

/-! ### Ends of shut-downs (R351, R352, R367) -/

/-- A cluster's shut-down ends: it is gated, or a held enable wakes it, and a disable that waited follows. -/
def State.gated (s : State) (c : Nat) : State :=
  let s := s.updCluster c fun x => if x.held then { x with pow := .waking, held := false } else { x with pow := .gated }
  (s.settlePower).clusterDone

/-- SHUTDOWN_COMPLETE: a function's shut-down has ended, and a held enable runs (R348, R351, R352, R367). -/
def execShutdownComplete (f : PowerFn) (s : State) : Host.Outcome State Fault Refusal :=
  match f with
  | .cluster c => s.when (s.running && (s.cluster c).pow = .gating) (s.gated c)
  | .rechar c =>
    s.when (s.running && (s.cluster c).pow = .rechar)
      (((s.updCluster c fun x => { x with keepGated := x.keepGated && x.manual }).gated c).startWaiting)
  | .thinPath c =>
    s.when (s.running && (s.cluster c).thinOff)
      (s.updCluster c fun x => { x with thinOff := false, thinOn := x.thinHeld, thinHeld := false, thinIdle := s.now })
  | .port p =>
    let x := s.port p
    let t := s.updPort p fun x => { x with shutting := false, shut := true, held := false }
    s.when (s.clocked && x.shutting) (if x.held then t.trainPort p else t)
  | .module => s.when s.side.shutting s.orderlyEnd

end Sys2Proof.Machine
end

