-- ==== Sys2Proof/Machine/LinkFamily.lean ====
section
/-! DEFINITION. The cabling plan, LINK_STATUS, flits with link retry and credits, lanes, training and the cabling check (R239 to R246, R304,
R315, R351). -/

namespace Sys2Proof.Machine

/-! ### CABLE_PLAN and LINK_STATUS (R245, R246, R303, R304) -/

/-- The plan that a CABLE_PLAN packet holds (R304). -/
def Pkt.plan (p : Pkt) : CablePlan :=
  { direct := p.bit 0 0, own := p.f 0 14 8
    fps := ((List.range 128).filter fun i => p.w (1 + i) != 0).map fun i => (i, p.w (1 + i))
    ports := ((List.range 36).filter fun i => p.w (129 + 2 * i) != 0 || p.w (130 + 2 * i) != 0).map fun i =>
      (i, (p.w (129 + 2 * i), p.f (130 + 2 * i) 7 0, p.f (130 + 2 * i) 15 8)) }

/-- CABLE. -/
def Cable.code (c : Cable) : Nat :=
  match c with
  | .ok => 0
  | .swapped => 1
  | .wrongPeer => 2
  | .noPeer => 3
  | .degraded => 4
/-- A port takes a cabling outcome: a change is recorded, and one other than MATCH raises the cabling cause (R246, R370, R404). -/
def State.outcome (s : State) (p : Nat) (c : Cable) : State :=
  let x := s.port p
  let s := s.updPort p fun x => { x with cable := c, checked := true, noPeerAt := if c = .noPeer then s.now else x.noPeerAt }
  let s := if x.cable != c then s.ord 10 (portUnit p).toNat (leBytes 1 p ++ leBytes 1 c.code) else s
  if c != .ok then s.attn causeCabling else s

/-- Every fabric port goes down. -/
def State.allDown (s : State) : State := (List.range 36).foldl State.portDown s

/-- The spare port that the plan names no peer for goes down, and stays untrained (R243, R246). -/
def State.dropSpare (s : State) : State :=
  let x := s.port 35
  if s.untrained 35 && (x.width != .down || x.training.isSome) then (s.portDown 35).outcome 35 .noPeer else s

/-- CABLE_PLAN's effect: the plan is kept; a new index takes every port down first; every port trains that the plan changes, or that is down
(R243, R245, R351). -/
def cablePlanEff (p : Pkt) (s : State) : State :=
  let c := p.plan
  let all := s.net.plan.all fun o => o.own != c.own || o.direct != c.direct
  let changed := (List.range 36).filter fun i => all || s.portPlan i != c.ports.get? i || (s.port i).shut || (s.port i).shutting || (s.port i).width = .down
  let s := if s.net.plan.any fun o => o.own != c.own then s.allDown else s
  let s := (s.setNet { s.net with plan := some c }).dropSpare
  ((changed.filter fun i => !s.untrained i).foldl State.trainPort s).done p []

/-- CABLE_PLAN: stores the domain's topology, index and expected port peers (R245, R304). -/
def execCablePlan (s : State) : Host.Outcome State Fault Refusal := s.command adminRing (isOp 0x0901) (fun _ _ => []) cablePlanEff

/-- The port status word (R246). -/
def State.portStatus (s : State) (p : Nat) : W64 :=
  let x := s.port p
  BitVec.ofNat 64 (x.cable.code * 2 ^ 61 + x.width.code * 2 ^ 59 + x.lanes.toNat * 2 ^ 55 + bit01 (s.inUse p) * 2 ^ 54 + x.peerPort % 256 * 2 ^ 40 +
    min x.retries 65535 * 2 ^ 24 + min x.fecCorr 65535 * 2 ^ 8 + x.peerIndex % 256)

/-- The ports that a LINK_STATUS names. -/
def Pkt.ports (p : Pkt) : List Nat := (List.range 36).filter fun i => p.bit 0 i

/-- The FEC counters of some ports are read: what they have added since the last reading is a free value (R246; log 2). -/
def State.readFec (s : State) (ps : List Nat) : State :=
  ps.foldl (fun s i => (s.updPort i fun x => { x with fecCorr := min 65535 (x.fecCorr + s.freeVal.toNat % 65536) }).freeNext) s

/-- LINK_STATUS's effect. -/
def linkStatusEff (p : Pkt) (s : State) : State :=
  let s := s.readFec p.ports
  let rs := p.ports.flatMap fun i => [s.portStatus i, (s.port i).farFp]
  let es := if p.bit 0 38 then (List.range 3).map fun e => BitVec.ofNat 64 (s.net.eth.getD e EthPort.init).drops else []
  let s := if p.bit 0 36 then p.ports.foldl (fun s i => s.updPort i fun x => { x with retries := 0 }) s else s
  let s := if p.bit 0 37 then (p.ports.filter fun i => !s.untrained i).foldl (fun s i => (s.updPort i fun x => { x with failed := 0 }).trainPort i) s else s
  s.done p (rs ++ es)

/-- LINK_STATUS: port status words and far fingerprints, with lock drop counts, a clear of the retry counts, or retraining (R242, R246, R303). -/
def execLinkStatus (n : Nat) (s : State) : Host.Outcome State Fault Refusal :=
  s.command n (isOp 0x0902) (fun p _ => mal 0 (p.bit 0 37 && !p.admin)) linkStatusEff

/-! ### Flits and link retry (R239, R240) -/

/-- A port in use resends its replay buffer in the original order (R239, R246). -/
def State.replayFlits (s : State) (p : Nat) : State :=
  let x := s.port p
  if s.inUse p then
    (s.emitAll (x.replay.map fun f => Out.flit p f)).updPort p fun x => { x with retries := min 65535 (x.retries + x.replay.length), ackAt := s.now }
  else s

/-- What follows the flit with a sequence number, or the whole buffer when it is not there. -/
def afterSeq (ack : BitVec 12) (l : List Flit) : List Flit :=
  match l.findIdx? fun f => (flitSeq f) = ack with
  | some i => l.drop (i + 1)
  | none => l

/-- A good flit's acknowledgement and NAK take effect, and its credits unless it has been taken before; the eighth failed send of one flit retrains the
port (R239, R240). -/
def State.linkAck (s : State) (p : Nat) (f : Flit) (new : Bool) : State :=
  let x := s.port p
  let rest := if f.hdr.getLsbD 39 then afterSeq (flitAck f) x.replay else x.replay
  let moved := rest.length != x.replay.length
  let nak := f.hdr.getLsbD 38 && f.hdr.getLsbD 39 && !rest.isEmpty
  let fails := (if moved then 0 else x.fails) + (if nak then 1 else 0)
  let s := s.updPort p fun x =>
    { x with replay := rest, fails := fails, ackAt := if moved then s.now else x.ackAt,
             credits := if !new || (flitCred f) = 0 || 5 ≤ (flitCrcls f) then x.credits else x.credits.put (flitCrcls f) (min 4095 (x.credits.getD (flitCrcls f) 0 + (flitCred f))) }
  if nak then
    if 8 ≤ fails then (s.updPort p fun x => { x with fails := 0 }).trainPort p else (s.replayFlits p).pump p x.queue.length
  else s.pump p x.queue.length

/-- FLIT_RECEIVE: a flit whose CRC fails is discarded, with every later one until the resend, and answered with NAK; a good one in sequence is
taken once and acknowledged, and its credit is owed; a port that is not in use takes link-control flits alone (R239, R240, R246, R314, R344). -/
def execFlitReceive (port : Nat) (f : Flit) (s : State) : Host.Outcome State Fault Refusal :=
  let x := s.port port
  let (injected, u) := s.takeInjection 13 (portUnit port)
  let t :=
    if injected || f.crc != flitSum f then
      ((u.fault 0x0D utPort (portUnit port) port 0 injected).updPort port fun x => { x with naking := true }).linkFlit port true []
    else if (flitKind f) = 1 || (flitKind f) = 2 then
      if !s.inUse port then s
      else if (flitSeq f) = x.rxSeq + 1 then
        let t := s.updPort port fun x => { x with rxSeq := (flitSeq f), naking := false, owed := x.owed.put (flitCls f) (x.owed.getD (flitCls f) 0 + 1) }
        (t.linkAck port f true).linkFlit port false []
      else if x.naking then s
      else if (x.rxSeq - (flitSeq f)).toNat < 2048 then (s.linkAck port f false).linkFlit port false []
      else (s.updPort port fun x => { x with naking := true }).linkFlit port true []
    else if x.naking then s
    else s.linkAck port f true
  s.when (s.clocked && port < 36 && x.up && f.payload.length = 244) t

/-- FLIT_RESEND: no acknowledgement for 2 µs, and the sender resends its unacknowledged flits (R239). -/
def execFlitResend (port : Nat) (s : State) : Host.Outcome State Fault Refusal :=
  let x := s.port port
  s.when (s.clocked && port < 36 && x.up && !x.replay.isEmpty && s.after x.ackAt 2) (s.replayFlits port)

/-! ### Lanes and training (R241, R242, R246, R315) -/

/-- The working lanes of a set of failed ones. -/
def working (failed : BitVec 4) : BitVec 4 := ~~~failed
/-- The width that a number of working lanes gives: never three lanes (R241). -/
def widthOf (lanes : BitVec 4) : Width :=
  let n := bitCount 4 lanes.toNat
  if n = 4 then .x4 else if 2 ≤ n then .x2 else .down
/-- The lanes in use: at x4 all, at x2 the two lowest-numbered working ones (R242). -/
def activeLanes (lanes : BitVec 4) : List Nat :=
  let l := (List.range 4).filter lanes.getLsbD
  if l.length = 4 then l else l.take 2

/-- LANE_FAILURE: a lane is declared failed, of a port that runs or trains; a port with two working lanes left retrains at x2, a spare lane is lost without a
retraining, and a port with no lane left goes down (R240 to R242, R314). -/
def execLaneFailure (port lane : Nat) (s : State) : Host.Outcome State Fault Refusal :=
  let x := s.port port
  let failed := x.failed ||| BitVec.ofNat 4 (2 ^ lane)
  let lanes := working failed
  let (injected, t) := s.takeInjection 14 (portUnit port)
  let t := t.fault 0x0E utPort (portUnit port) port 0 injected
  let t := t.updPort port fun x =>
    if widthOf lanes = .down then { x.down with failed := failed, lanes := lanes }
    else if x.training.isSome && x.width = .down then { x with failed := failed }
    else if (activeLanes x.lanes).contains lane then { x with failed := failed, lanes := lanes, width := .x2, training := some s.now, checked := false }
    else { x with failed := failed, lanes := lanes }
  s.when (s.clocked && port < 36 && lane < 4 && (x.training.isSome || x.width != .down) && !x.failed.getLsbD lane)
    (t.widthEvent port)

/-- PORT_RETRAINED: training ends at x4 or x2, and the cabling exchange runs (R242, R246). -/
def execPortRetrained (port : Nat) (s : State) : Host.Outcome State Fault Refusal :=
  let x := s.port port
  let lanes := working x.failed
  let t := s.updPort port fun x => { x with training := none, lanes := lanes, width := widthOf lanes, naking := false, checked := false }
  let t := if x.width != widthOf lanes then t.widthEvent port else t
  s.when (s.clocked && port < 36 && x.training.isSome)
    (if widthOf lanes = .down then t else t.linkFlit port false (bytesOf s.chip.fp ++ leBytes 1 port))

/-- The cabling outcome of a fingerprint and a port number under the plan (R246). -/
def State.cabling (s : State) (p : Nat) (fp : BitVec 64) (farPort : Nat) : Cable :=
  match s.portPlan p with
  | none => .noPeer
  | some (want, q, _) =>
    if fp != want then .wrongPeer
    else if farPort != q then .swapped
    else if (s.port p).width = .x4 then .ok else .degraded

/-- CABLING_EXCHANGE: the far end's fingerprint and port number arrive in link-control flits, the port takes its outcome, and one that carries transport
traffic sends its replay buffer again (R242, R246). -/
def execCablingExchange (port : Nat) (fp : BitVec 64) (farPort : Nat) (s : State) : Host.Outcome State Fault Refusal :=
  let c := s.cabling port fp farPort
  let good := c = .ok || c = .degraded
  let index := if good && s.net.plan.any (·.direct) then ((s.portPlan port).map (·.2.2)).getD 255 else 255
  let t := (s.updPort port fun x => { x with farFp := fp, peerPort := farPort, peerIndex := index }).outcome port c
  s.when (s.clocked && port < 36 && farPort < 256 && (s.port port).up) ((if (s.port port).checked then t else t.replayFlits port).pump port (t.port port).queue.length)

/-- NO_PEER: a port that has not trained within 2 s takes outcome NO_PEER (R246). -/
def execNoPeer (port : Nat) (s : State) : Host.Outcome State Fault Refusal :=
  s.when (s.clocked && port < 36 && (s.port port).training.any fun t => s.after t 2000000) ((s.portDown port).outcome port .noPeer)

/-- FLIT_ERROR_RATIO: over 1 s more than 10⁻⁹ of a port's flits failed after FEC, and the port retrains with a class 0x0E event (R315). -/
def execFlitErrorRatio (port bad total : Nat) (s : State) : Host.Outcome State Fault Refusal :=
  s.when (s.clocked && port < 36 && (s.port port).up && total < bad * 1000000000)
    ((s.fault 0x0E utPort (portUnit port) port 0 false).trainPort port)

/-- PORT_SHUTDOWN: a port with no plan entry after 2 s in NO_PEER, or the direct topology's unused spare port, begins to shut down (R243,
R351). -/
def execPortShutdown (port : Nat) (s : State) : Host.Outcome State Fault Refusal :=
  let x := s.port port
  s.when (s.clocked && port < 36 && !x.shutting && !x.shut && x.training.isNone && x.cable = .noPeer && (s.portPlan port).isNone &&
      (s.untrained port || s.after x.noPeerAt 2000000))
    ((s.portDown port).updPort port fun x => { x with shutting := true, held := false })

end Sys2Proof.Machine
end

