-- ==== Sys2Proof/Machine/WindowFamily.lean ====
section
/-! DEFINITION. PEER_WINDOW in its six forms (R256 to R258, R303, R304). -/

namespace Sys2Proof.Machine

/-- A PEER_WINDOW packet with an OP. -/
def isWindow (k : Nat) (p : Pkt) : Bool := p.op = 0x0903 && p.f 0 2 0 = k
/-- WINDOW. -/
def Pkt.window (p : Pkt) : Nat := p.f 0 14 3
/-- FAR_EP. -/
def Pkt.farEp (p : Pkt) : Nat := p.f 0 22 15
/-- The entry of w1 to w4. -/
def Pkt.entry (p : Pkt) : BitVec 256 := p.w 4 ++ p.w 3 ++ p.w 2 ++ p.w 1
/-- An entry as result words r0 to r3. -/
def entryWords (e : BitVec 256) : List W64 := (List.range 4).map fun i => e.extractLsb' (64 * i) 64
/-- An entry with VALID clear. -/
def noValid (bit : Nat) (e : BitVec 256) : BitVec 256 := e &&& ~~~(BitVec.ofNat 256 (2 ^ bit))

/-! ### Windows -/

/-- The window that an entry asks for. -/
def Window.ofEntry (e : BitVec 256) (job used : Nat) : Window :=
  let n := e.toNat
  { sources := e.extractLsb' 128 128, berth := e.extractLsb' 96 32, stashBytes := bitsOf n 95 56, job := job,
    farEp := if e.getLsbD 41 then some (bitsOf n 49 42) else none, rd := e.getLsbD 31, wr := e.getLsbD 30, acc := e.getLsbD 29,
    sig := e.getLsbD 28, exch := e.getLsbD 27, coll := e.getLsbD 26, stash := e.getLsbD 25, used := used }

/-- What refuses the window entry of a grant or change (R11, R304). -/
def windowEntryBad (p : Pkt) (s : State) : List Bad :=
  let e := p.entry
  mal 1 ((p.w 1).toNat &&& maskOf [(55, 50), (40, 32), (24, 0)] != 0 || bitsOf e.toNat 95 56 % 2 ^ 21 != 0) ++
    mal 3 (e.getLsbD 41 && p.w 3 != 0) ++ mal 4 (e.getLsbD 41 && p.w 4 != 0) ++
    (if p.hi 2 = 0 then [] else s.handleBad p.job 2 (p.hi 2))

/-- A change, revoke or read of a window of another job is refused (R304); a change or revoke of one that does not exist names no window. -/
def windowBad (absent : Bool) (p : Pkt) (s : State) : List Bad :=
  match s.net.windows.get? p.window with
  | none => mal 0 absent
  | some w => refuseIf (w.job != p.job) stNotOwner 0

/-- w1 to w4 are zero in a packet that names its window or endpoint in w0. -/
def entryZero (p : Pkt) : List Bad := ((List.range 4).map (· + 1)).flatMap fun i => mal i (p.w i != 0)

/-- The frame table follows the windows of a berth (R256). -/
def State.reframe (s : State) (h : BitVec 32) : State :=
  match s.berthAt h with
  | none => s
  | some b => b.pages.foldl (fun s p => (s.hideFrame b p.2.base).exposeFrame (handleIndex h) b p.2.base) s

/-- The bytes by which a far endpoint hears of a window: its number and its entry (log 19). -/
def grantBytes (i : Nat) (e : BitVec 256) : List Byte := leBytes 2 i ++ leBytes 32 e.toNat

/-- A window's entry goes to its sources, near or far, and is the command's result (R257, R304). -/
def State.tellWindow (s : State) (p : Pkt) (w : Window) (e : BitVec 256) : State :=
  let s := s.sendGrant p.window w e (some (p.ring, p.at_))
  let s := match w.farEp.filter s.farPresent with
    | none => s
    | some ep => s.farMsg (p.ring, p.at_) ep 3 (grantBytes p.window e)
  s.done p (entryWords e)

/-- A window's change goes on with the far flow that its present far source needs; without the flow's context or its buffers nothing happens (R162, R259). -/
def State.windowFar (s : State) (p : Pkt) (w : Window) (go : State → State) : State :=
  match w.farEp.filter s.farPresent with
  | none => go s
  | some ep => s.withFar p [] [ep] clsPeer go

/-- Store a window and move the frame table from its former berth to its new one. -/
def State.storeWindow (s : State) (p : Pkt) (w : Window) : State :=
  s.windowFar p w fun s =>
    let old := s.net.windows.get? p.window
    let t := s.setNet { s.net with windows := s.net.windows.put p.window w, frames := s.net.frames.keep fun _ i => i != p.window }
    let t := (match old with
      | some o => t.reframe o.berth
      | none => t).reframe w.berth
    t.tellWindow p w w.bits

/-- WINDOW_GRANT: creates a window of the job and sends it to the granted sources (R256, R257, R304). -/
def execWindowGrant (n : Nat) (s : State) : Host.Outcome State Fault Refusal :=
  s.command n (isWindow 0)
    (fun p s => windowBad false p s ++ mal 0 ((s.net.windows.get? p.window).any fun w => w.job = p.job) ++ windowEntryBad p s)
    fun p s => s.storeWindow p (Window.ofEntry p.entry p.job 0)

/-- WINDOW_CHANGE: alters a window of the job, keeping the pages placed under it, and sends it to its sources (R257, R304). -/
def execWindowChange (n : Nat) (s : State) : Host.Outcome State Fault Refusal :=
  s.command n (isWindow 1) (fun p s => windowBad true p s ++ windowEntryBad p s) fun p s =>
    s.storeWindow p (Window.ofEntry p.entry p.job (((s.net.windows.get? p.window).map (·.used)).getD 0))

/-- WINDOW_REVOKE: removes a window unless stash pages stand under it (R257, R304). -/
def execWindowRevoke (n : Nat) (s : State) : Host.Outcome State Fault Refusal :=
  s.command n (isWindow 2)
    (fun p s => windowBad true p s ++ entryZero p ++ mal 0 ((s.net.windows.get? p.window).any fun w => w.used != 0))
    fun p s =>
      match s.net.windows.get? p.window with
      | none => s
      | some w => s.windowFar p w fun s => ((s.dropWindow p.window).reframe w.berth).tellWindow p w (noValid 40 w.bits)

/-- WINDOW_READ: returns a window's entry, all zero for one that does not exist (R304). -/
def execWindowRead (n : Nat) (s : State) : Host.Outcome State Fault Refusal :=
  s.command n (isWindow 3) (fun p s => windowBad false p s ++ entryZero p) fun p s =>
    s.done p (entryWords (((s.net.windows.get? p.window).map Window.bits).getD 0))

/-! ### Far endpoints (R258, R304) -/

/-- An IPv6 address from its sixteen octets, the first the most significant. -/
def ipv6Of (octets : List Byte) : BitVec 128 := BitVec.ofNat 128 (leNat octets.reverse)
/-- The sixteen octets of an IPv6 address. -/
def octetsOf (a : BitVec 128) : List Byte := (leBytes 16 a.toNat).reverse

/-- A far endpoint's entry (256 bits). -/
def FarEp.bits (e : FarEp) : BitVec 256 :=
  BitVec.ofNat 256 (leNat (octetsOf e.ipv6) * 2 ^ 128 + e.fp.toNat * 2 ^ 64 + e.udpPort % 65536 * 2 ^ 48 + e.vlan % 4096 * 2 ^ 36 + e.pcp % 8 * 2 ^ 33 +
    e.dscp % 64 * 2 ^ 27 + e.mtu % 2 ^ 14 * 2 ^ 13 + e.ports % 4 * 2 ^ 11 + bit01 e.ecn * 2 ^ 10 + 2 ^ 9 + bit01 e.present * 2 ^ 8)

/-- The far endpoint that an entry asks for; it is present once packets arrive from it (R261). -/
def FarEp.ofEntry (e : BitVec 256) (now : Nat) : FarEp :=
  let n := e.toNat
  { ipv6 := ipv6Of (leBytes 16 (n / 2 ^ 128)), fp := e.extractLsb' 64 64, udpPort := bitsOf n 63 48, vlan := bitsOf n 47 36, pcp := bitsOf n 35 33,
    dscp := bitsOf n 32 27, mtu := bitsOf n 26 13, ports := bitsOf n 12 11, ecn := e.getLsbD 10, present := false, inc := 0, dead := [], lastAt := now, probedAt := now }

/-- What refuses the addition of a far endpoint: an index in use, a field out of its range, or a field the module fills in (R258, R304). -/
def addFarBad (p : Pkt) (s : State) : List Bad :=
  let mtu := p.f 1 26 13
  mal 0 (s.net.farEps.has p.farEp) ++
    mal 1 ((p.w 1).toNat &&& maskOf [(9, 0)] != 0 || mtu < 1280 || 9000 < mtu || p.f 1 12 11 = 0)

/-- ADD_FAR_ENDPOINT: adds an entry to the far endpoint table (R258, R304). -/
def execAddFarEndpoint (n : Nat) (s : State) : Host.Outcome State Fault Refusal :=
  s.command n (isWindow 4) addFarBad fun p s =>
    let e := FarEp.ofEntry p.entry s.now
    (s.setNet { s.net with farEps := s.net.farEps.put p.farEp e }).done p (entryWords e.bits)

/-- The endpoint holds a flow or a far page (R261, R304). -/
def State.farHolds (s : State) (ep : Nat) : Bool :=
  s.net.farFlows.any (fun f => f.2.ep = ep) ||
    s.place.berths.any fun b => b.2.pages.any fun p => gaSpace (pageAddr p.2.base) = 2 && pageAddr p.2.base / 2 ^ 52 % 256 = ep

/-- REMOVE_FAR_ENDPOINT: removes an entry that holds no flow and no far page (R304). -/
def execRemoveFarEndpoint (n : Nat) (s : State) : Host.Outcome State Fault Refusal :=
  s.command n (isWindow 5) (fun p s => mal 0 (!s.net.farEps.has p.farEp || s.farHolds p.farEp) ++ entryZero p) fun p s =>
    let e := ((s.net.farEps.get? p.farEp).map FarEp.bits).getD 0
    (s.setNet { s.net with farEps := s.net.farEps.drop p.farEp }).done p (entryWords (noValid 9 e))

end Sys2Proof.Machine
end

