-- ==== Sys2Proof/Machine/TransportFamily.lean ====
section
/-! DEFINITION. Transport packets as they arrive and are answered, resends, heartbeats, a peer's absence, the grant mirror and shootdowns (R129,
R136, R247 to R257, R309, R314). -/

namespace Sys2Proof.Machine

/-! ### Accesses that end, and reads that are answered (R248, R249, R253, R289) -/

/-- A command in progress that has not failed fails: what it sent is refused, or what it asked for is poisoned or never comes (R249, R253, R286). -/
def State.spoil (s : State) (ring at_ : Nat) (o : Outc) : State :=
  s.updProg ring at_ fun g => if g.outcome.all fun x => x.status < 0x0200 then { g with outcome := some o } else g

/-- A core, by the bundle whose access it is, ends it with a fault, or a command with an outcome. -/
def State.endsFor (s : State) (core cmd : Option (Nat × Nat)) (code : Nat) (o : Outc) : State :=
  let s :=
    match core with
    | some (k, b) => s.raise k ⟨code, 5, false, b, 0⟩
    | none => s
  match cmd with
  | some (r, i) => s.spoil r i o
  | none => s

/-- The module that an access goes to. -/
def Want.module (w : Want) : Option Nat :=
  match w.kind with
  | .shootdown m _ _ => some m
  | .entry m _ _ => some m
  | _ => if gaSpace w.addr = 1 then some (gaModule w.addr) else none

/-- The far endpoint that an access goes to. -/
def Want.endpoint (w : Want) : Option Nat :=
  match w.kind with
  | .shootdown _ _ _ => none
  | .entry _ _ _ => none
  | _ => if gaSpace w.addr = 2 then some (w.addr / 2 ^ 52 % 256) else none

/-- Accesses that have not left, and reads that have no response yet, end, of those that a predicate holds of (R253). -/
def State.endWants (s : State) (gone : Want → Bool) (o : Outc) : State :=
  let mine := (s.wire.wants ++ s.wire.reads).filter gone
  if mine.isEmpty then s
  else
    mine.foldl (fun s w => s.endsFor w.core w.cmd 9 o)
      (s.setWire { s.wire with wants := s.wire.wants.filter fun w => !gone w, reads := s.wire.reads.filter fun w => !gone w })

/-- A read is refused: no response will come. -/
def State.forgetRead (s : State) (addr len : Nat) (core cmd : Option (Nat × Nat)) : State :=
  match s.wire.reads.find? fun w => w.addr = addr && w.len = len && w.core = core && w.cmd = cmd with
  | none => s
  | some w => s.setWire { s.wire with reads := s.wire.reads.erase w }

/-- A page of this module whose home, at a peer or a far endpoint, refuses an access as no window's is LOST; one that was to move there stays (R289). -/
def State.pageRefused (s : State) (a : Nat) : State :=
  let f := fun (b : Berth) (x : Page) =>
    let in_ := fun (base : BitVec 46) => gaSpace (pageAddr base) != 0 && pageAddr base ≤ a && a < pageAddr base + pageSize b.cls
    if in_ x.base then { x with st := .lost, goal := none, held := false, dirty := [] }
    else if x.goal.any in_ then { x with st := .placed, goal := none, held := false, dirty := [] }
    else x
  s.setPlace { s.place with berths := s.place.berths.mapVals fun _ b => { b with pages := b.pages.mapVals fun _ x => f b x } }

/-- Some bytes replace those of a list from an index on, as far as they lie in it. -/
def patch (old : List Byte) (at_ : Int) (new : List Byte) : List Byte :=
  old.zipIdx.map fun b => if at_ ≤ b.2 && (b.2 : Int) < at_ + new.length then new.getD ((b.2 : Int) - at_).toNat b.1 else b.1

/-- What a core reads outside the module comes: its bytes reach the load or DMA that asked for them, unless a compressed or transposed tile made of them was
formed as it issued; a poisoned block makes a load's fault, or poisoned blocks of a DMA's destination (R127, R145, R146, R248; log 219). -/
def State.coreGets (s : State) (k : Nat) (w : Want) (payload : List Byte) (bad : Bool) : State :=
  let meets := fun (h : BitVec 32) (ofs n : Nat) => spanKey k h ofs < w.key + w.len && w.key < spanKey k h ofs + n
  let at_ := fun (h : BitVec 32) (ofs : Nat) => (w.key : Int) - spanKey k h ofs
  s.updCore k fun c =>
    { c with
      loads := c.loads.map fun l =>
        if !meets l.handle l.ofs l.len then l
        else
          { l with bytes := if s.mem.tiles.contains (spanKey k l.handle l.ofs) then l.bytes else patch l.bytes (at_ l.handle l.ofs) payload
                   fault := if bad && l.fault.isNone then some ⟨7, 1, false, l.bundle, l.ofs % 2 ^ 40⟩ else l.fault }
      dmas := c.dmas.mapVals fun _ d =>
        if !meets d.src d.sofs d.slen then d
        else
          let dst := spanKey k d.handle d.ofs
          { d with bytes := if d.plain then patch d.bytes (at_ d.src d.sofs) payload else d.bytes
                   poison := if !bad then d.poison
                     else if d.plain then (d.poison ++ poisonedDst s.mem (spanKey k d.src d.sofs) dst d.bytes.length).dedup
                     else blocksOf dst d.bytes.length } }

/-- A command reads poisoned data: it ends UNCORRECTABLE, and what a BERTH_COPY has copied of them is poisoned (R146, R286). -/
def State.commandGets (s : State) (r i : Nat) : State :=
  let s := s.spoil r i (Outc.of stUncorrectable 0)
  match s.prog r i with
  | none => s
  | some g =>
    let p := g.pkt
    if p.op = 0x0106 && !p.bit 4 4 then
      let src := spaceKey (p.bit 1 48) (p.lo 0) (p.f 1 47 0)
      let dst := spaceKey (p.bit 2 48) (p.hi 0) (p.f 2 47 0)
      s.poisonBlocks (poisonedDst s.mem src dst (p.w 3).toNat)
    else if p.op = 0x0106 then s.poisonBlocks (blocksOf (spaceKey (p.bit 2 48) (p.hi 0) (p.f 2 47 0)) (p.w 3).toNat)
    else s

/-- Blocks that a POISON mask marks, for a payload that lies at a key. -/
def maskBlocks (mask : Nat → Bool) (key n : Nat) : List Nat :=
  (List.range (ceilDiv n 64)).flatMap fun i => if mask i then blocksOf (key + 64 * i) (min 64 (n - 64 * i)) else []

/-- A read response completes the oldest read that it answers, with its poisoned blocks; one that no read awaits is discarded (R248, R253). -/
def State.readArrives (s : State) (mine : Want → Bool) (payload : List Byte) (mask : Nat → Bool) : State :=
  match s.wire.reads.find? fun w => mine w && w.len = payload.length with
  | none => s
  | some w =>
    let bad := maskBlocks mask w.key payload.length
    let s := (s.setWire { s.wire with reads := s.wire.reads.erase w }).poisonBlocks bad
    match w.core with
    | some (k, _) => s.coreGets k w payload (!bad.isEmpty)
    | none =>
      match w.cmd with
      | some (r, i) => if bad.isEmpty then s else s.commandGets r i
      | none => s

/-! ### What a packet may touch (R119, R136, R256, R336) -/

/-- The handle and offset of a key that lies in a berth. -/
def State.spanOfKey (s : State) (key : Nat) : Option (BitVec 32 × Nat) :=
  (s.place.berths.get? (key / 2 ^ 48)).map fun b => (mkHandle b.gen (key / 2 ^ 48), key % 2 ^ 48)

/-- The frame of a local address holds a page placed here for a peer. -/
def State.stashFrame (s : State) (a : Nat) : Bool :=
  s.net.stashIn.any fun f => f.2 ≤ a % 2 ^ 52 / 2 ^ 18 && a % 2 ^ 52 / 2 ^ 18 < f.2 + 8

/-- The window check of a memory access: the frame's window names the source and sets the kind bit, STASH for a page placed under it (R256). -/
def State.allowed (s : State) (a src : Nat) (kind : Window → Bool) : Bool :=
  s.exposes a src fun w => if s.stashFrame a then w.stash else kind w

/-- The address lies in a cluster under forced reset (R336). -/
def State.resetTarget (s : State) (a : Nat) : Bool :=
  gaRegion a = 1 && gaCluster a < 24 && (s.cluster (gaCluster a)).svc = .resetting

/-- A window under which the source may place one more stash page here (R257). -/
def State.stashGrant (s : State) (src : Nat) : Option (Nat × Window) :=
  s.net.windows.find? fun w => w.2.names src && w.2.stash && (w.2.used + 1) * 2 ^ 21 ≤ w.2.stashBytes

/-- The next count under a window for a source. -/
def State.stashNext (s : State) (src i : Nat) : Nat :=
  (lowestFree 4096 fun c => !s.net.stashIn.has (src * 2 ^ 36 + i * 2 ^ 24 + c)).getD 4096

/-- Place a stash page for a source at a frame, under a window (R136, R256, R257). -/
def State.placeStash (s : State) (src i : Nat) (w : Window) (count frame : Nat) : State :=
  s.setNet { s.net with
    windows := s.net.windows.put i { w with used := w.used + 1 }
    stashIn := s.net.stashIn.put (src * 2 ^ 36 + i * 2 ^ 24 + count) frame
    frames := (List.range 8).foldl (fun fs j => fs.put (frame + j) i) s.net.frames }

/-- A write by a source with stash room to a free frame of HBM outside the system region places a page there, while no berth reservation lacks
capacity (R20, R136, R257, R333; DEDUCED, log 26). -/
def State.placeOnWrite (s : State) (a src : Nat) : State :=
  let f := a % 2 ^ 52 / 2 ^ 21 * 8
  match s.stashGrant src with
  | none => s
  | some (i, w) =>
    if gaRegion a = 0 && gaGofs a / 2 ^ 21 * 8 + 8 ≤ s.groupFrames (gaStack a) (gaGroup a) && s.shortfall = 0 && (s.net.frames.get? f).isNone && framesFree s.framesHeld f 8 then s.placeStash src i w (s.stashNext src i) f else s

/-! ### Serving an access (R146, R247 to R249, R256) -/

/-- Bytes that a peer writes at a key, with their poison marks. -/
def State.peerWrite (s : State) (key : Nat) (bs : List Byte) (mask : Nat → Bool) : State :=
  let s :=
    match s.spanOfKey key with
    | some (h, ofs) => s.writeSpan none h ofs bs
    | none => (s.laEvict key bs.length).store key bs
  s.poisonBlocks (maskBlocks mask key bs.length)

/-- Bytes at a key are poisoned, or stand on a stack that has failed (R145, R332). -/
def State.keyPoisoned (s : State) (key n : Nat) : Bool :=
  s.mem.poisoned key n || (match s.spanOfKey key with
    | some (h, ofs) => s.spanFailed h ofs n
    | none => false)

/-- Bytes that a peer reads at a key, with their poison marks. -/
def State.peerRead (s : State) (key n : Nat) : List Byte × Nat × State :=
  let (g, s) :=
    match s.spanOfKey key with
    | some (h, ofs) => s.readSpan none h ofs n
    | none =>
      let s := (s.laSync key n).discover key n
      (⟨s.mem.read key n, s.mem.poisoned key n, false⟩, s)
  let marks := ((List.range (ceilDiv n 64)).filter fun i => s.keyPoisoned (key + 64 * i) (min 64 (n - 64 * i))).map fun i => 2 ^ i
  (g.data, marks.sum, s)

/-- The address rules of an access of `n` bytes: a reason to refuse it, or the key it falls on (R119, R249, R256). -/
def State.accessKey (s : State) (a n src : Nat) (kind : Window → Bool) : Nat ⊕ Nat :=
  let z := a + (n - 1)
  if s.badGlobal a || s.badGlobal z || !s.isLocal a || !s.isLocal z then .inl nakAddress
  else if s.resetTarget a then .inl nakReset
  else if !s.allowed a src kind || !s.allowed z src kind then .inl nakWindow
  else
    match s.physKey a with
    | none => .inl nakWindow
    | some k => .inr k

/-- FP32 addends of a payload, four bytes each, for consecutive records of 48 bytes (log 26). -/
def addendsOf (key : Nat) (payload : List Byte) : List Flush :=
  (List.range (payload.length / 4)).map fun i =>
    ⟨noCore, 0, key + 48 * i, .fp32 (BitVec.ofNat 32 (leNat ((payload.drop (4 * i)).take 4)))⟩

/-- What a message's ADDR names, as `Out.code` gives it (log 26). -/
def messageCode (h : BitVec 256) : Nat := (hAddr h).toNat % 256

/-- The job whose signal words a signal message adds to: one whose window grants signal access to the source; the job slot of the message where
it has such a window, else that of the lowest window number (R104, R256; DEDUCED, log 192). -/
def State.signalJob (s : State) (job src : Nat) : Option Nat :=
  if s.grants job src (·.sig) then some job
  else (s.net.windows.find? fun w => s.grants w.2.job src (·.sig)).map (·.2.job)

/-- Apply a packet: none, or the reason why it is refused. -/
def State.applyPacket (s : State) (p : TPacket) : Option Nat × State :=
  let h := p.hdr
  let src := hSrc h
  let job := hFlow h / 640
  let a := (hAddr h).toNat
  match hType h with
  | 1 =>
    let t := if s.allowed a src (·.wr) then s else s.placeOnWrite a src
    match t.accessKey a p.payload.length src (·.wr) with
    | .inl r => (some r, s)
    | .inr k => (none, t.peerWrite k p.payload (hPoison h).getLsbD)
  | 2 =>
    match s.accessKey a (hLen h) src (·.rd) with
    | .inl r => (some r, s)
    | .inr k =>
      let (bs, marks, t) := s.peerRead k (hLen h)
      (none, t.sendPacket src 3 (hClass h) job (hAddr h) bs (BitVec.ofNat 64 marks) none none none)
  | 3 => (none, s.readArrives (fun w => w.module = some src && w.addr = a && domainFlow w.job ((s.ownIndex).getD 0) w.cls = hFlow h) p.payload (hPoison h).getLsbD)
  | 4 =>
    match s.accessKey a (12 * p.payload.length) src (·.acc) with
    | .inl r => (some r, s)
    | .inr k => (none, s.setComp { s.comp with addends := s.comp.addends ++ addendsOf k p.payload })
  | _ =>
    match messageCode h with
    | 0 =>
      match (s.signalJob job src).bind s.cmd.jobs.get? with
      | none => (some nakWindow, s)
      | some j =>
        let w := leNat (p.payload.take 8)
        if w < j.sigWords then (none, s.signalAdd (j.word w) (BitVec.ofNat 64 (leNat ((p.payload.drop 8).take 8)))) else (some nakAddress, s)
    | 1 => if s.grants job src (·.exch) then (none, s) else (some nakWindow, s)
    | 2 => if s.grants job src (·.coll) then (none, s) else (some nakWindow, s)
    | _ => (none, s)

/-! ### Arrival in order (R248, R251, R253) -/

/-- The packet comes from a present peer's current incarnation, for this module, and in the direct topology over a port cabled to it. -/
def State.fromPeer (s : State) (p : TPacket) : Bool :=
  let h := p.hdr
  s.clocked && p.port < 36 && s.inUse p.port && s.ownIndex = some (hDst h) &&
    (!s.net.plan.any (·.direct) || (s.portPlan p.port).any fun e => e.2.2 = hSrc h) &&
    (s.net.peers.get? (hSrc h)).any fun q => q.present && q.inc = hInc h

/-- A receiving flow. -/
def State.rxFlow (s : State) (k : Nat) : RxFlow := s.net.rx.getD k RxFlow.init
/-- Change a receiving flow. -/
def State.setRx (s : State) (k : Nat) (f : RxFlow) : State := s.setNet { s.net with rx := s.net.rx.put k f }

/-- Apply the packets that are next in their flow, one after another; a target under reset leaves the flow where it stands. -/
def State.deliver (s : State) (k fuel : Nat) : State :=
  match fuel with
  | 0 => s
  | fuel + 1 =>
    let f := s.rxFlow k
    match f.held.find? fun p => hPsn p.hdr = f.next with
    | none => s
    | some p =>
      let rest := f.held.filter fun q => hPsn q.hdr != f.next
      match s.applyPacket p with
      | (none, t) => (t.setRx k { next := f.next + 1, held := rest }).deliver k fuel
      | (some r, t) =>
        if r = nakReset then (t.setRx k { f with held := rest }).answerPacket p.hdr 7 (hPsn p.hdr) r
        else ((t.setRx k { next := f.next + 1, held := rest }).answerPacket p.hdr 7 (hPsn p.hdr) r).deliver k fuel

/-- A packet of a flow arrives: a CRC failure and a packet beyond the reorder window are refused, one already applied is acknowledged again, and
the rest are applied in order and acknowledged cumulatively (R248, R249, R314). -/
def State.flowArrive (s : State) (p : TPacket) : State :=
  let h := p.hdr
  let k := flowKey (hSrc h) (hFlow h)
  let f := s.rxFlow k
  if crc32c p.payload != hPcrc h then (s.fault 0x0F none 0 p.port 0 false).answerPacket h 7 (hPsn h) nakCrc
  else if !psnGe (hPsn h) f.next then s.answerPacket h 6 (f.next - 1) 0
  else if 256 ≤ (hPsn h - f.next).toNat then s.answerPacket h 7 (hPsn h) nakReorder
  else
    let held := if f.held.any fun q => hPsn q.hdr = hPsn h then f.held else f.held ++ [p]
    let t := (s.setRx k { f with held := held }).deliver k 256
    t.answerPacket h 6 ((t.rxFlow k).next - 1) 0

/-- A packet of a TYPE arrives; a read request carries no payload, and any other LEN bytes. -/
def State.packetArrives (s : State) (typ : Nat) (p : TPacket) : Host.Outcome State Fault Refusal :=
  s.when (hType p.hdr = typ && s.fromPeer p && hLen p.hdr ≤ 4096 && p.payload.length = (if typ = 2 then 0 else hLen p.hdr)) (s.flowArrive p)

/-- WRITE: a transport write packet arrives, is window-checked and applied in PSN order (R248, R256). -/
def execWrite (p : TPacket) (s : State) : Host.Outcome State Fault Refusal := s.packetArrives 1 p

/-- READ_REQUEST: a transport read request arrives, is window-checked and answered (R248, R256). -/
def execReadRequest (p : TPacket) (s : State) : Host.Outcome State Fault Refusal := s.packetArrives 2 p

/-- READ_RESPONSE: a transport read response arrives and completes the access that asked for it (R248). -/
def execReadResponse (p : TPacket) (s : State) : Host.Outcome State Fault Refusal := s.packetArrives 3 p

/-- ACCUMULATE: addends arrive for long-accumulator records here (R43, R248, R256). -/
def execAccumulate (p : TPacket) (s : State) : Host.Outcome State Fault Refusal := s.packetArrives 4 p

/-- MESSAGE: a message arrives and reaches its engine when a window of its job grants its kind (R104, R256). What the Ferry and the collective
engine make of one is their own rows'. -/
def execMessage (p : TPacket) (s : State) : Host.Outcome State Fault Refusal := s.packetArrives 5 p

/-! ### Answers and resends (R161, R248, R249) -/

/-- A send buffer is released when no packet of its command to the buffer's module remains unacknowledged (R161, R193). -/
def State.releaseSent (s : State) (m : Nat) (cmds : List (Nat × Nat)) : State :=
  (s.cmd.progs.filter fun g => cmds.contains (g.ring, g.at_)).foldl (fun s g =>
    if (s.unackedOf g.ring g.at_).any fun t => t.dst = m then s
    else
      let ds := (g.taken.filter fun t => t.2 = m).map (·.1)
      (s.releaseTaken ds).updProg g.ring g.at_ fun g => { g with taken := g.taken.filter fun t => t.2 != m }) s

/-- An answer arrives whole: its PCRC matches; one that fails it is discarded (R248). -/
def arrivedWhole (p : TPacket) : Bool := crc32c p.payload = hPcrc p.hdr

/-- ACKNOWLEDGE: a cumulative acknowledgement completes sends and releases send buffers (R161, R193, R248). -/
def execAcknowledge (p : TPacket) (s : State) : Host.Outcome State Fault Refusal :=
  let h := p.hdr
  let covered := fun (t : TxPkt) => t.dst = hSrc h && t.flow = hFlow h && psnGe (hPsn h) t.psn
  let cmds := (s.net.unacked.filter covered).filterMap (·.cmd)
  let t := s.setNet { s.net with unacked := s.net.unacked.filter fun t => !covered t }
  s.when (hType h = 6 && s.fromPeer p)
    (if arrivedWhole p then t.releaseSent (hSrc h) cmds else s.fault 0x0F none 0 p.port 0 false)

/-- Send a packet again. -/
def State.resend (s : State) (t : TxPkt) : State :=
  let s := s.setNet { s.net with unacked := s.net.unacked.map fun u => if u = t then { u with sentAt := s.now } else u }
  (s.emit (t.msg.getD (.packet t.hdr t.payload))).onWire t.hdr t.payload t.cmd

/-- A packet is sent no more. -/
def State.dropPacket (s : State) (t : TxPkt) : State := s.setNet { s.net with unacked := s.net.unacked.filter (· != t) }

/-- A packet's access ends: the core that it serves raises a fault, or its command gets an outcome, and a read awaits no response (R249). -/
def State.accessEnds (s : State) (t : TxPkt) (code : Nat) (o : Outc) : State :=
  let s := if hType t.hdr = 2 then s.forgetRead (hAddr t.hdr).toNat (hLen t.hdr) t.core t.cmd else s
  s.endsFor t.core t.cmd code o

/-- NEGATIVE_ACKNOWLEDGE: the source acts on the reason; a page whose home refuses an access as no window's is LOST (R249, R289). -/
def execNegativeAcknowledge (p : TPacket) (s : State) : Host.Outcome State Fault Refusal :=
  let h := p.hdr
  let m := hSrc h
  match s.net.unacked.find? fun t => t.dst = m && t.flow = hFlow h && t.psn = hPsn h with
  | none => .next s
  | some t =>
    let r := (hAddr h).toNat % 256
    let earlier := s.net.unacked.any fun u => u.dst = m && u.flow = t.flow && u.psn != t.psn && psnGe t.psn u.psn
    let u :=
      if r = nakCrc then s.resend t
      else if r = nakReorder then (if earlier then s else s.resend t)
      else if r = nakReset then (if t.core.isSome then (s.dropPacket t).accessEnds t 8 (Outc.of stReset 0) else s)
      else if r = nakAddress then (s.dropPacket t).accessEnds t 2 (Outc.peer stMalformed m)
      else
        let u := (s.dropPacket t).accessEnds t 2 (Outc.peer stNotOwner m)
        if hType t.hdr = 5 then u else u.pageRefused (hAddr t.hdr).toNat
    s.when (hType h = 7 && s.fromPeer p) (if arrivedWhole p then u else s.fault 0x0F none 0 p.port 0 false)

/-- A packet that is sent again counts its flits in RETRIES of the port that it takes (R246, R248). -/
def State.countRetry (s : State) (t : TxPkt) : State :=
  match s.choosePort t.dst (hClass t.hdr) with
  | none => s
  | some p => s.updPort p fun x => { x with retries := min 65535 (x.retries + (flitPieces t.hdr t.payload).length) }

/-- TRANSPORT_RESEND: a packet without an acknowledgement for 100 µs is sent again and counted as a transport retry in LINK_STATUS and the step
record (R248). -/
def execTransportResend (dst flow : Nat) (psn : BitVec 24) (s : State) : Host.Outcome State Fault Refusal :=
  match s.net.unacked.find? fun t => t.dst = dst && t.flow = flow && t.psn = psn with
  | none => .next s
  | some t =>
    let u := (s.countRetry t).resend t
    let u := u.setCmd { u.cmd with jobs := u.cmd.jobs.mapVals fun i j => if i = flow / 640 then { j with resends := j.resends + 1 } else j }
    s.when (s.clocked && s.after t.sentAt 100) u

/-! ### Heartbeats and presence (R252, R253) -/

/-- Pages on their way to a module stay where they are, and pages that it held are LOST (R126, R253). -/
def Page.peerLost (m : Nat) (x : Page) : Page :=
  let at_ := fun (b : BitVec 46) => gaSpace (pageAddr b) = 1 && gaModule (pageAddr b) = m
  if at_ x.base then { x with st := .lost, goal := none, held := false, dirty := [] }
  else if x.goal.any at_ then { x with st := .placed, goal := none, held := false, dirty := [] }
  else x

/-- Pages placed here for a source are given up (R136, R253). -/
def State.dropSource (s : State) (src : Nat) : State :=
  let gone := s.net.stashIn.filter fun f => f.1 / 2 ^ 36 = src
  gone.foldl (fun s f =>
    let i := f.1 / 2 ^ 24 % 4096
    let s := s.setMem (s.mem.forget (stashKey f.1 0) (stashKey (f.1 + 1) 0))
    s.setNet { s.net with
      stashIn := s.net.stashIn.drop f.1
      frames := (List.range 8).foldl (fun fs j => fs.drop (f.2 + j)) s.net.frames
      windows := s.net.windows.mapVals fun n w => if n = i then { w with used := w.used - 1 } else w }) s

/-- Does a packet belong to a collective with deadlines, which goes on without an absent contributor (R214)? -/
def State.ofCollective (s : State) (t : TxPkt) : Bool :=
  (t.cmd.bind fun c => s.prog c.1 c.2).any fun g => phOp g.hdr = 0x0401 || phOp g.hdr = 0x0405

/-- Every outstanding request to a module ends: the peer-absent fault in a kernel, PEER_ABSENT for a command other than SCALE_AGREE and REDUCE
(R214, R253). -/
def State.endRequests (s : State) (m : Nat) : State :=
  let lost := s.net.unacked.filter fun t => t.dst = m && !s.ofCollective t
  let s := s.setNet { s.net with unacked := s.net.unacked.filter fun t => t.dst != m }
  lost.foldl (fun s t => s.accessEnds t 9 (Outc.peer stAbsent m)) (s.endWants (fun w => w.module = some m) (Outc.peer stAbsent m))

/-- A module is declared absent (R126, R182, R193, R227, R253, R314). -/
def State.peerGone (s : State) (m : Nat) : State :=
  let q := s.net.peers.getD m Peer.init
  let s := s.fault 0x10 none 0 m 1 false
  let s := s.setNet { s.net with peers := s.net.peers.put m { q with present := false, dead := q.inc :: q.dead, mask := 0 } }
  let s := (((s.planAbsent m).exchAbsent m).simpleAbsent m).endRequests m
  let s := s.setPlace { s.place with berths := s.place.berths.mapVals fun _ b => { b with pages := b.pages.mapVals fun _ x => x.peerLost m } }
  let live := s.place.shoot.filter fun x => ((s.place.berths.get? x.1).bind fun b => b.pages.get? x.2).any (·.held)
  let s := s.setPlace { s.place with shoot := live }
  let s := s.dropSource m
  s.setNet { s.net with rx := s.net.rx.keep (fun k _ => k / 2 ^ 18 != m)
                        txPsn := s.net.txPsn.keep (fun k _ => k / 2 ^ 18 != m)
                        mirror := s.net.mirror.keep (fun k _ => k / 4096 != m) }

/-- The ports that the domain gives to a module in the direct topology. -/
def State.portsTo (s : State) (m : Nat) : List Nat := (List.range 36).filter fun p => (s.portPlan p).any (·.2.2 = m)

/-- PEER_ABSENT: no heartbeat for 1,500 µs, or in the direct topology every port to the peer down, and the peer is declared absent (R253). -/
def execPeerAbsent (m : Nat) (s : State) : Host.Outcome State Fault Refusal :=
  let q := s.net.peers.getD m Peer.init
  let cut := s.net.plan.any (·.direct) && (s.portsTo m).all fun p => !(s.port p).up
  s.when (s.clocked && q.present && (s.after q.lastAt 1500 || cut)) (s.peerGone m)

/-- HEARTBEAT: presence is refreshed, or a new incarnation becomes present with new flows; one declared absent is discarded (R252, R253). -/
def execHeartbeat (p : TPacket) (s : State) : Host.Outcome State Fault Refusal :=
  let h := p.hdr
  let m := hSrc h
  let q := s.net.peers.getD m Peer.init
  let t := if q.present && q.inc != hInc h then s.peerGone m else s
  let q := t.net.peers.getD m Peer.init
  let mask := BitVec.ofNat 64 (leNat (p.payload.take 8))
  let here := s.clocked && p.port < 36 && s.inUse p.port && s.ownIndex = some (hDst h) &&
    (!s.net.plan.any (·.direct) || (s.portPlan p.port).any fun e => e.2.2 = m)
  let bad := crc32c p.payload != hPcrc h
  s.when (hType h = 8 && here && (bad || !q.dead.contains (hInc h)))
    (if bad then s.fault 0x0F none 0 p.port 0 false
    else t.setNet { t.net with peers := t.net.peers.put m { q with present := true, inc := hInc h, lastAt := s.now, mask := mask } })

/-- A heartbeat to a module, on a port taken in rotation. -/
def State.beat (s : State) (own m : Nat) : State :=
  let ps := (List.range 36).filter fun p => s.inUse p && (!s.net.plan.any (·.direct) || (s.portPlan p).any (·.2.2 = m))
  match ps[(s.now / 6250 + m) % max 1 ps.length]? with
  | none => s
  | some p =>
    let mask := leBytes 8 s.portMask
    let h := mkHdr 8 clsSignal m own s.ledger.inc 0 0 8 0 0 (crc32c mask)
    (s.emit (.heartbeat m s.ledger.inc (BitVec.ofNat 64 s.portMask))).assign p h mask none

/-- HEARTBEAT_SEND: every 250 µs a heartbeat goes to every other module of the domain, with the incarnation and the mask of ports in use (R252). -/
def execHeartbeatSend (s : State) : Host.Outcome State Fault Refusal :=
  match s.net.plan with
  | none => .next s
  | some c =>
    let t := (c.fps.keyList.filter (· != c.own)).foldl (fun t m => t.beat c.own m) s
    s.when (s.clocked && s.portMask != 0 && s.after s.net.hbAt 250) (t.setNet { t.net with hbAt := s.now })

/-! ### The grant mirror and shootdowns (R129, R257) -/

/-- Pages that stood under a removed window are LOST: those at a far endpoint whose far handle names it, and those at a peer that grants stash room under no
other window (R289; which window a peer's page stands under, its address does not say: log 220). -/
def State.windowGone (s : State) (src window : Nat) : State :=
  let f := fun (x : Page) =>
    let a := pageAddr x.base
    let under :=
      if src < 128 then gaSpace a = 1 && gaModule a = src && !(s.net.mirror.any fun e => e.1 / 4096 = src && e.2.getLsbD 25)
      else gaSpace a = 2 && a / 2 ^ 52 % 256 = src - 256 && a / 2 ^ 40 % 4096 = window
    if under then { x with st := .lost, goal := none, held := false, dirty := [] } else x
  s.setPlace { s.place with berths := s.place.berths.mapVals fun _ b => { b with pages := b.pages.mapVals fun _ x => f x } }

/-- GRANT_MIRROR: a window's entry arrives from its target, near (an index below 128) or far (256 and up), and the mirror keeps it; one with VALID
clear removes it, and stash pages that stood under it are LOST (R257, R289). -/
def execGrantMirror (src window : Nat) (e : BitVec 256) (s : State) : Host.Outcome State Fault Refusal :=
  let k := src * 4096 + window
  let put := fun (m : AMap (BitVec 256)) => s.setNet { s.net with mirror := m }
  let stash := (s.net.mirror.get? k).any fun o => o.getLsbD 25
  s.when (s.clocked && window < 4096 && (if src < 128 then s.peerPresent src else 256 ≤ src && s.farPresent (src - 256)))
    (if e.getLsbD 40 then put (s.net.mirror.put k e)
    else if stash then (put (s.net.mirror.drop k)).windowGone src window
    else put (s.net.mirror.drop k))

/-- SHOOTDOWN: a request removes a page's entry from every translation cache (R129). -/
def execShootdown (handle : BitVec 32) (page : Nat) (s : State) : Host.Outcome State Fault Refusal :=
  s.when s.clocked (s.setPlace { s.place with tcs := s.place.tcs.mapVals fun _ ws => ws.filter (· != (handle, page)) })

end Sys2Proof.Machine
end

