-- ==== Sys2Proof/Machine/FarFamily.lean ====
section
/-! DEFINITION. Far-transport packets as they arrive, resends, rates, probes and the absence of a far endpoint (R258 to R261). -/

namespace Sys2Proof.Machine

/-! ### The far-transport header (R259) -/

/-- A field of the header: `n` bytes from byte `b`. -/
def farField (p : FarPkt) (b n : Nat) : Nat := leNat ((p.hdr.drop b).take n)
/-- TYPE. -/
def farType (p : FarPkt) : Nat := farField p 1 1
/-- FLOW. -/
def farFlowOf (p : FarPkt) : Nat := farField p 4 4
/-- PSN. -/
def farPsn (p : FarPkt) : Nat := farField p 8 4
/-- SRC_INC. -/
def farInc (p : FarPkt) : BitVec 16 := BitVec.ofNat 16 (farField p 24 2)
/-- OFFSET. -/
def farOffset (p : FarPkt) : Nat := farField p 28 5

/-- Is `a` at or after `b` in the modular order of 32-bit sequence numbers? -/
def psnGe32 (a b : Nat) : Bool := (a + 2 ^ 32 - b % 2 ^ 32) % 2 ^ 32 < 2 ^ 31

/-- The endpoint whose entry matches the packet's source address. -/
def State.farSource (s : State) (p : FarPkt) : Option (Nat × FarEp) := s.net.farEps.find? fun e => e.2.ipv6 = p.src

/-- Change a far endpoint. -/
def State.updFarEp (s : State) (ep : Nat) (f : FarEp → FarEp) : State :=
  match s.net.farEps.get? ep with
  | none => s
  | some e => s.setNet { s.net with farEps := s.net.farEps.put ep (f e) }
/-- Change a far flow. -/
def State.updFlow (s : State) (ctx : Nat) (f : FarFlow → FarFlow) : State :=
  match s.net.farFlows.get? ctx with
  | none => s
  | some x => s.setNet { s.net with farFlows := s.net.farFlows.put ctx (f x) }

/-! ### Absence (R253, R261) -/

/-- Pages placed at a far endpoint are LOST, and moves to it are abandoned. -/
def Page.farLost (ep : Nat) (x : Page) : Page :=
  let at_ := fun (b : BitVec 46) => gaSpace (pageAddr b) = 2 && pageAddr b / 2 ^ 52 % 256 = ep
  if at_ x.base then { x with st := .lost, goal := none, held := false, dirty := [] }
  else if x.goal.any at_ then { x with st := .placed, goal := none, held := false, dirty := [] }
  else x

/-- A far endpoint is declared absent, with the consequences of a domain peer's absence (R253, R261, R314). -/
def State.farGone (s : State) (ep : Nat) : State :=
  let s := s.fault 0x11 none 0 ep 1 false
  let s := s.updFarEp ep fun e => { e with present := false, dead := if e.dead.contains e.inc then e.dead else e.inc :: e.dead }
  let gone : Outc := { Outc.peer stAbsent 0 with detail := 0 }
  let mine := s.net.farFlows.filter fun f => f.2.ep = ep
  let s := mine.foldl (fun s f => f.2.unacked.foldl (fun s u => s.endsFor u.core u.cmd 9 gone) (s.endsFor none f.2.cmd 9 gone)) s
  let s := s.endWants (fun w => w.endpoint = some ep) gone
  let s := s.simpleFarAbsent ep
  let s := s.setPlace { s.place with berths := s.place.berths.mapVals fun _ b => { b with pages := b.pages.mapVals fun _ x => x.farLost ep } }
  let s := s.dropSource (256 + ep)
  s.setNet { s.net with farFlows := s.net.farFlows.keep fun _ f => f.ep != ep, mirror := s.net.mirror.keep fun k _ => k / 4096 != 256 + ep }

/-- FAR_ENDPOINT_ABSENT: one flow has failed 12 consecutive resends, or nothing has arrived for 200 ms (R261). -/
def execFarEndpointAbsent (ep : Nat) (s : State) : Host.Outcome State Fault Refusal :=
  match s.net.farEps.get? ep with
  | none => .next s
  | some e =>
    s.when (s.clocked && ((s.net.farFlows.any fun f => f.2.ep = ep && 12 ≤ f.2.resends) || (e.present && s.after e.lastAt 200000))) (s.farGone ep)

/-! ### Serving (R136, R256, R258) -/

/-- The key of an offset of a window's stash capacity, whose backing page is placed when a write first needs it (R136, R258). -/
def State.farStash (s : State) (ep i : Nat) (w : Window) (ofs : Nat) (write : Bool) : Option Nat × State :=
  let page := ofs / 2 ^ 21
  let n := (256 + ep) * 2 ^ 36 + i * 2 ^ 24 + page
  let key := stashKey n (ofs % 2 ^ 21)
  match s.net.stashIn.get? n with
  | some _ => (some key, s)
  | none =>
    if write && (w.used + 1) * 2 ^ 21 ≤ w.stashBytes && s.shortfall = 0 then
      match s.hbmFrame stashBerth (s.freeVal.toNat % 2 ^ 32) with
      | some f => (some key, (s.freeNext).placeStash (256 + ep) i w page f)
      | none => (none, s)
    else (none, s)

/-- Home addresses, on this module, of the ends of a range of a berth that stand on placed pages. -/
def Berth.homes (b : Berth) (ofs n : Nat) : List Nat :=
  [ofs, ofs + n - 1].filterMap fun o => (b.pages.get? (o / pageSize b.cls)).map fun x => pageAddr x.base + o % pageSize b.cls

/-- The key on which an access of `n` bytes at OFFSET of a window falls, or the reason to refuse it: the window is the endpoint's, and so is the window that
exposes each frame reached, with the kind bit set; nothing reached lies in a cluster under forced reset (R249, R256, R258, R336). -/
def State.farKey (s : State) (ep i ofs n : Nat) (kind : Window → Bool) (write : Bool) : (Nat ⊕ Nat) × State :=
  match s.net.windows.get? i with
  | none => (.inl nakWindow, s)
  | some w =>
    if w.farEp != some ep then (.inl nakWindow, s)
    else if w.stash && ofs + n ≤ w.stashBytes then
      match s.farStash ep i w ofs write with
      | (none, t) => (.inl nakWindow, t)
      | (some k, t) =>
        match t.farStash ep i ((t.net.windows.get? i).getD w) (ofs + (n - 1)) write with
        | (none, t) => (.inl nakWindow, t)
        | (some _, t) => (.inr k, t)
    else if kind w then
      match s.berthAt w.berth with
      | none => (.inl nakWindow, s)
      | some b =>
        let at_ := b.homes ofs n
        if b.length < ofs + n then (.inl nakAddress, s)
        else if at_.any fun a => s.isLocal a && s.resetTarget a then (.inl nakReset, s)
        else if !(at_.all fun a => s.isLocal a && s.exposes a (256 + ep) kind) then (.inl nakWindow, s)
        else (.inr (berthKey (handleIndex w.berth) ofs), s)
    else (.inl nakWindow, s)

/-- A window of the endpoint grants a kind of message. -/
def State.farGrants (s : State) (ep i : Nat) (kind : Window → Bool) : Bool :=
  (s.net.windows.get? i).any fun w => w.farEp = some ep && kind w

/-- The kind bit that a message needs, by its code: as near messages do (R256; log 19). -/
def messageKind (code : Nat) (w : Window) : Bool :=
  match code with
  | 0 => w.sig
  | 1 => w.exch
  | 2 => w.coll
  | _ => true

/-- An answer to a far packet, or a probe, which is not itself acknowledged: a refusal carries its reason in byte 33 of the header, and an
acknowledgement ECE when the packet that it answers came through congestion (R249, R259, R261). -/
def State.farAnswer (s : State) (ep ctx typ psn reason : Nat) (ece : Bool) : State :=
  let f := s.net.farFlows.get? ctx
  let cls := (f.map (·.cls)).getD 0
  let ack := (f.map FarFlow.ack).getD 0
  s.toPort ep cls typ psn (s.farHeader typ cls (if ece then 3 else 2) ctx psn ack { FarName.bare with reason := reason } []) []

/-- Apply a data packet of a far flow: none, or the reason why it is refused. -/
def State.farApply (s : State) (ep ctx : Nat) (p : FarPkt) : Option Nat × State :=
  let i := farField p 26 2
  let ofs := farOffset p
  let n := farField p 34 2
  let mask := BitVec.ofNat 128 (farField p 36 16)
  match farType p with
  | 1 =>
    match s.farKey ep i ofs p.payload.length (·.wr) true with
    | (.inl r, _) => (some r, s)
    | (.inr k, t) => (none, t.peerWrite k p.payload mask.getLsbD)
  | 2 =>
    match s.farKey ep i ofs n (·.rd) false with
    | (.inl r, _) => (some r, s)
    | (.inr k, t) =>
      let (bs, marks, t) := t.peerRead k n
      (none, t.farBytes ctx 3 { FarName.bare with poison := marks } bs)
  | 3 =>
    let mine := fun (w : Want) => w.endpoint = some ep && (ctx < 73728 → farShared w.job ep (if w.cls = 1 then 1 else 3) = ctx)
    (none, s.readArrives mine p.payload mask.getLsbD)
  | 4 =>
    match s.farKey ep i ofs (12 * p.payload.length) (·.acc) false with
    | (.inl r, _) => (some r, s)
    | (.inr k, t) => (none, t.setComp { t.comp with addends := t.comp.addends ++ addendsOf k p.payload })
  | 5 => if ofs < 3 && !s.farGrants ep i (messageKind ofs) then (some nakWindow, s) else (none, s)
  | _ => (none, s)

/-- Apply the held packets that are next in a far flow; a target under reset leaves the flow where it stands. -/
def State.farDeliver (s : State) (ep ctx fuel : Nat) : State :=
  match fuel with
  | 0 => s
  | fuel + 1 =>
    match s.net.farFlows.get? ctx with
    | none => s
    | some f =>
      match f.heldRx.find? fun h => h.1 = f.nextRx with
      | none => s
      | some (psn, bytes) =>
        let rest := f.heldRx.filter fun h => h.1 != f.nextRx
        let next := fun (f : FarFlow) => { f with nextRx := (psn + 1) % 2 ^ 32, heldRx := rest }
        let p : FarPkt := { src := 0, udpPort := 0, udpOk := true, ce := false, hdr := bytes.take 64, payload := bytes.drop 64 }
        match s.farApply ep ctx p with
        | (none, t) => (t.updFlow ctx next).farDeliver ep ctx fuel
        | (some r, t) =>
          if r = nakReset then (t.updFlow ctx fun f => { f with heldRx := rest }).farAnswer ep ctx 7 psn r false
          else ((t.updFlow ctx next).farAnswer ep ctx 7 psn r false).farDeliver ep ctx fuel

/-! ### Acknowledgements and rates (R249, R261) -/

/-- Packets up to an acknowledged number are done; progress restores the first timeout. -/
def FarFlow.acked (f : FarFlow) (psn now : Nat) : FarFlow :=
  let rest := f.unacked.filter fun u => !psnGe32 psn u.psn
  if rest.length = f.unacked.length then f else { f with unacked := rest, resends := 0, timeout := 500, sentAt := now }

/-- Congestion seen: the rate is halved, at most once in each 100 µs, and does not rise for 100 µs. -/
def FarFlow.congested (f : FarFlow) (now : Nat) : FarFlow :=
  let f := { f with eceAt := now }
  if f.halvedAt.all fun t => t + 100 * ticksPerUs ≤ now then { f with rate := f.rate / 2, halvedAt := some now, rateAt := now } else f

/-- Packets of a far flow that are not yet acknowledged go to their port again. -/
def State.farAgain (s : State) (ctx : Nat) (which : FarTx → Bool) : State :=
  match s.net.farFlows.get? ctx with
  | none => s
  | some f => (f.unacked.filter which).foldl (fun s u => s.toPort f.ep f.cls u.typ u.psn u.hdr u.payload) s

/-- The far address that a packet of a flow names. -/
def FarTx.addr (u : FarTx) (ep : Nat) : Nat :=
  2 ^ 63 + (ep * 4096 + leNat ((u.hdr.drop 26).take 2) % 4096) * 2 ^ 40 + leNat ((u.hdr.drop 28).take 5)

/-- A packet of a far flow is refused for good: it is not sent again, and its access ends (R249). -/
def State.farEnds (s : State) (ctx : Nat) (f : FarFlow) (u : FarTx) (code : Nat) (o : Outc) : State :=
  let s := s.updFlow ctx fun f => { f with unacked := f.unacked.filter (· != u) }
  let s := if u.typ = 2 then s.forgetRead (u.addr f.ep) (leNat ((u.hdr.drop 34).take 2)) u.core u.cmd else s
  s.endsFor u.core (u.cmd <|> f.cmd) code o

/-- A refused packet of a far flow: the source acts on the reason; a page whose home refuses an access as no window's is LOST (R249, R289). -/
def State.farRefused (s : State) (ctx psn reason : Nat) : State :=
  match s.net.farFlows.get? ctx with
  | none => s
  | some f =>
    match f.unacked.find? fun u => u.psn = psn with
    | none => s
    | some u =>
      if reason = nakCrc then s.farAgain ctx (· = u)
      else if reason = nakReorder then (if f.unacked.head? = some u then s.farAgain ctx (· = u) else s)
      else if reason = nakReset then (if u.core.isSome then s.farEnds ctx f u 8 (Outc.of stReset 0) else s)
      else if reason = nakAddress then s.farEnds ctx f u 2 (Outc.of stMalformed 0)
      else
        let t := s.farEnds ctx f u 2 { Outc.peer stNotOwner 0 with detail := 0 }
        if u.typ = 5 then t else t.pageRefused (u.addr f.ep)

/-! ### Arrival (R259 to R261) -/

/-- A context of a shared far flow, which is opened on first use (R247, R259). -/
def sharedCtx (ctx : Nat) : Bool := 40960 ≤ ctx && ctx < farCmdBase

/-- A packet of an endpoint may open the flow at a context: one that is not in use, of the command far flows when it is an open packet, or of the shared far
flow of an open job with this endpoint and class (R247, R259; log 15). -/
def State.farOpensAt (s : State) (ep ctx cls typ : Nat) : Bool :=
  !s.net.farFlows.has ctx &&
    if sharedCtx ctx then
      let job := (ctx - 40960) / 512
      s.cmd.jobs.has job && (cls = 1 || cls = 3) && ctx = farShared job ep cls
    else typ = 9 && farCmdBase ≤ ctx && ctx < farCmdBase + farCmdCount

/-- The flow that a packet names, opened where it opens one. -/
def State.farFlowFor (s : State) (ep ctx cls typ psn : Nat) : State :=
  if s.farOpensAt ep ctx cls typ then
    s.setNet { s.net with farFlows := s.net.farFlows.put ctx { (FarFlow.opened ep cls none s.now) with nextRx := if typ = 9 then psn else 0 } }
  else s

/-- What a packet of a far flow does: acknowledgements, refusals, opens and closes, and data in order through a window of 1,024 packets. FLOW is the
sender's own context at both ends, and one table holds the flows that either end opened (DESIGN CHOICE, log 15). -/
def State.farFlowIn (s : State) (ep : Nat) (p : FarPkt) : State :=
  let ctx := farFlowOf p
  let typ := farType p
  let psn := farPsn p
  let s := s.farFlowFor ep ctx (farField p 2 1) typ psn
  match s.net.farFlows.get? ctx with
  | none => s
  | some f =>
    if f.ep != ep then s
    else
      let s := s.updFlow ctx fun f =>
        let f := f.acked (if typ = 6 then psn else farField p 12 4) s.now
        if (farField p 3 1).testBit 0 then f.congested s.now else f
      match typ with
      | 6 => s
      | 7 => s.farRefused ctx psn (farField p 33 1)
      | 10 => (s.farAnswer ep ctx 6 psn 0 p.ce).setNet
          { (s.farAnswer ep ctx 6 psn 0 p.ce).net with farFlows := if f.cmd.isSome then s.net.farFlows else s.net.farFlows.drop ctx }
      | _ =>
        let ahead := (psn + 2 ^ 32 - f.nextRx) % 2 ^ 32
        if 2 ^ 31 ≤ ahead then s.farAnswer ep ctx 6 f.ack 0 p.ce
        else if 1024 ≤ ahead then s.farAnswer ep ctx 7 psn nakReorder p.ce
        else
          let held := if f.heldRx.any fun h => h.1 = psn then f.heldRx else f.heldRx ++ [(psn, p.hdr ++ p.payload)]
          let s := (s.updFlow ctx fun f => { f with heldRx := held }).farDeliver ep ctx 1024
          s.farAnswer ep ctx 6 (((s.net.farFlows.get? ctx).map FarFlow.ack).getD 0) 0 p.ce

/-- A far packet arrives: it is discarded when a check fails, or when its incarnation was declared absent; else its endpoint is present, and its
flow takes it (R260, R261). -/
def State.farIn (s : State) (p : FarPkt) : State :=
  if BitVec.ofNat 32 (farField p 60 4) != crc32c (p.hdr.take 60) || !p.udpOk then s.fault 0x0F none 0 0 0 false
  else if farField p 0 1 != 1 || p.udpPort != s.net.farPort then s
  else
    match s.farSource p with
    | none => s
    | some (ep, e) =>
      if e.fp.toNat != farField p 16 8 || e.dead.contains (farInc p) then s
      else if BitVec.ofNat 32 (farField p 52 4) != crc32c p.payload then
        (s.fault 0x0F none 0 0 0 false).farAnswer ep (farFlowOf p) 7 (farPsn p) nakCrc p.ce
      else
        let s := if e.present && e.inc != farInc p then s.farGone ep else s
        let s := s.updFarEp ep fun e => { e with present := true, inc := farInc p, lastAt := s.now }
        if farType p = 8 then s.farAnswer ep (farFlowOf p) 6 (farPsn p) 0 p.ce else s.farFlowIn ep p

/-- Far packets that the module takes: 64 bytes of header, and a payload of LEN bytes, none for a read request. -/
def State.farReady (s : State) (p : FarPkt) : Bool :=
  s.clocked && p.hdr.length = 64 && p.payload.length = (if farType p = 2 then 0 else farField p 34 2) && p.payload.length ≤ 8192

/-- FAR_PACKET: a far-transport packet arrives, is checked, and is applied in its flow (R256, R258, R260, R261). -/
def execFarPacket (p : FarPkt) (s : State) : Host.Outcome State Fault Refusal :=
  s.when (s.farReady p && farType p != 9 && farType p != 10) (s.farIn p)

/-- FAR_OPEN: an endpoint opens a far flow at a context here (R259). -/
def execFarOpen (p : FarPkt) (s : State) : Host.Outcome State Fault Refusal := s.when (s.farReady p && farType p = 9) (s.farIn p)

/-- FAR_CLOSE: an endpoint closes a far flow (R259). -/
def execFarClose (p : FarPkt) (s : State) : Host.Outcome State Fault Refusal := s.when (s.farReady p && farType p = 10) (s.farIn p)

/-! ### Resends, rates and probes (R261) -/

/-- The job whose traffic a far flow carries: that of its command, or of the shared flow's context (R247, R259). -/
def FarFlow.job (f : FarFlow) (ctx : Nat) : Option Nat :=
  match f.cmd with
  | some (r, _) => if r = adminRing then none else some (r / 4)
  | none => if sharedCtx ctx then some ((ctx - 40960) / 512) else none

/-- FAR_RESEND: a flow's timeout passes; its packets go out again, counted in the step record, and the timeout doubles, up to 32 ms (R261,
R391). -/
def execFarResend (flow : Nat) (s : State) : Host.Outcome State Fault Refusal :=
  match s.net.farFlows.get? flow with
  | none => .next s
  | some f =>
    s.when (s.clocked && !f.unacked.isEmpty && s.after f.sentAt f.timeout)
      (((s.farAgain flow fun _ => true).updFlow flow fun f => { f with sentAt := s.now, timeout := min 32000 (2 * f.timeout), resends := f.resends + 1 }).setCmd
        { s.cmd with jobs := s.cmd.jobs.mapVals fun i j => if f.job flow = some i then { j with resends := j.resends + f.unacked.length } else j })

/-- FAR_RATE_RAISE: 100 µs without ECE, and the flow's rate rises by 1 Gb/s, up to the line rate (R261). -/
def execFarRateRaise (flow : Nat) (s : State) : Host.Outcome State Fault Refusal :=
  match s.net.farFlows.get? flow with
  | none => .next s
  | some f =>
    s.when (s.clocked && s.after (max f.rateAt f.eceAt) 100)
      (s.updFlow flow fun f => { f with rate := min 800000 (f.rate + 1000), rateAt := s.now })

/-- FAR_PROBE: every 10 ms an endpoint that holds a flow or a far page is probed (R261). -/
def execFarProbe (ep : Nat) (s : State) : Host.Outcome State Fault Refusal :=
  match s.net.farEps.get? ep with
  | none => .next s
  | some e =>
    s.when (s.clocked && s.farHolds ep && s.after e.probedAt 10000)
      ((s.farAnswer ep 0 8 0 0 false).updFarEp ep fun e => { e with probedAt := s.now })

end Sys2Proof.Machine
end

