-- ==== Sys2Proof/Machine/EtherFamily.lean ====
section
/-! DEFINITION. Ethernet frames, address locks, and Cricket's network (R262 to R267). -/

namespace Sys2Proof.Machine

/-! ### Cricket's network (R266, R267) -/

/-- NEIGHBOUR_DISCOVERY: Cricket answers for its addresses with its MAC address (R266). -/
def execNeighbourDiscovery (target : BitVec 128) (s : State) : Host.Outcome State Fault Refusal :=
  s.when (s.i3cAnswers && s.cricketUses target) (s.cricketSend target none naType (beBytes 6 s.side.mac.toNat))

/-- ICMPV6_ECHO: Cricket returns the data of an echo request (R266). -/
def execIcmpv6Echo (dst : BitVec 128) (data : List Byte) (s : State) : Host.Outcome State Fault Refusal :=
  s.when (s.i3cAnswers && s.cricketUses dst) (s.cricketSend dst none echoType data)

/-- STATUS_REQUEST: a UDP request to the status port is answered with the I3C window's contents; Cricket accepts no other request (R266, R407). -/
def execStatusRequest (dst : BitVec 128) (udpPort : Nat) (s : State) : Host.Outcome State Fault Refusal :=
  s.when (s.i3cAnswers && s.cricketUses dst && udpPort = statusPort) (s.cricketSend dst none statusPort s.window)

/-- ROUTER_ADVERTISEMENT: a prefix with the autonomous flag gives Cricket a global address, at most one per prefix and four in all, which is
tentative until its duplicate address detection (R267). -/
def execRouterAdvertisement (pfx : BitVec 64) (autonomous : Bool) (s : State) : Host.Outcome State Fault Refusal :=
  let a := pfx ++ eui64 s.side.mac
  let globals := s.side.addrs.filter fun x => x.1 != s.linkLocal
  s.when (s.i3cAnswers && autonomous && a != s.linkLocal && globals.length < 4 && globals.all fun x => x.1 != a)
    (s.setSide { s.side with addrs := s.side.addrs ++ [(a, false)] })

/-- DUPLICATE_ADDRESS_DETECTION: an address passes and is used, or is a duplicate and is not (R267). -/
def execDuplicateAddressDetection (addr : BitVec 128) (duplicate : Bool) (s : State) : Host.Outcome State Fault Refusal :=
  let d := s.side
  let t :=
    if addr = s.linkLocal then (if duplicate && !d.addrs.contains (addr, false) then s.setSide { d with addrs := d.addrs ++ [(addr, false)] } else s)
    else if duplicate then s.setSide { d with addrs := d.addrs.filter fun x => x.1 != addr }
    else s.setSide { d with addrs := d.addrs.map fun x => if x.1 = addr then (addr, true) else x }
  s.when s.i3cAnswers t

/-! ### Frames (R262 to R265) -/

/-- A frame is for the far transport engine: its UDP destination is the far-transport port, and its destination address one of the module's far
addresses, which either Ethernet port's lock may hold (R263). -/
def State.farFrame (s : State) (port : Nat) (f : Frame) : Bool :=
  port < 2 && f.udpDst = some s.net.farPort && (f.dst6.any fun a => [0, 1].any fun p => (s.ethPort p).lock.any fun l => l.ips.contains a)

/-- The far packet that a frame carries. -/
def farOfFrame (f : Frame) : FarPkt :=
  { src := f.src6.getD 0, udpPort := f.udpDst.getD 0, udpOk := f.udpSumOk, ce := f.ce, hdr := f.body.take 64, payload := f.body.drop 64 }

/-- Bytes that wait in Cricket's receive buffer. -/
def State.cricketHeld (s : State) : Nat := (s.wire.cricketRx.map fun f => f.bytes.length).sum

/-- A frame joins Cricket's receive buffer of 64 KiB, as far as it has room (R265). -/
def State.toCricket (s : State) (f : Frame) : State :=
  if s.cricketHeld + f.bytes.length ≤ 65536 then s.setWire { s.wire with cricketRx := s.wire.cricketRx ++ [f] } else s

/-- ETHERNET_FRAME: a received frame goes to the far transport engine, to Cricket's own buffer, or to the operating system's queues; on the management lane
neighbour discovery for a group of stations reaches Cricket and the operating system (R263, R265; DEDUCED, log 218). -/
def execEthernetFrame (port : Nat) (f : Frame) (s : State) : Host.Outcome State Fault Refusal :=
  let os := fun (s : State) => if s.osRuns then s.emit (.osFrame port f) else s
  let t :=
    if port = 2 && f.dstMac = s.side.mac then s.toCricket f
    else if port = 2 && f.multicast && f.neighbourDiscovery then os (s.toCricket f)
    else if s.farFrame port f then (if s.farReady (farOfFrame f) then s.farIn (farOfFrame f) else s)
    else os s
  s.when (port ≤ 2 && f.bytes.length ≤ maxFrame && (if port = 2 then s.i3cAnswers else s.clocked)) t

/-- ADDRESS_LOCK_WRITE: software writes a port's lock once after each start-up (R264). -/
def execAddressLockWrite (port : Nat) (l : AddrLock) (s : State) : Host.Outcome State Fault Refusal :=
  s.when (s.osRuns && port ≤ 2 && (s.ethPort port).lock.isNone && l.ips.length ≤ 8 && l.vlans.length ≤ 64 && 1000 ≤ l.rate && l.rate ≤ lineRate port)
    (s.updEth port fun e => { e with lock := some l })

/-- OS_FRAME_TRANSMIT: a frame that the operating system queues is dropped and counted when it breaks the lock; else it waits in its queue until the rate
limit and the port's other traffic let it leave (R262, R264, R265). -/
def execOsFrameTransmit (port : Nat) (f : QueuedFrame) (s : State) : Host.Outcome State Fault Refusal :=
  s.when (s.osRuns && port ≤ 2 && f.queue < 64 && f.frame.bytes.length ≤ maxFrame)
    (if (s.ethPort port).passes f.frame then (s.updTx port fun x => { x with os := x.os ++ [(f.queue, f.frame)] }).portPump port
    else s.updEth port fun e => { e with drops := e.drops + 1 })

end Sys2Proof.Machine
end

