-- ==== Sys2Proof/Machine/I3cFamily.lean ====
section
/-! DEFINITION. The sideband I3C target, its register window, the recovery loader and the envelope monitors (R342, R346, R404, R406 to R409). -/

namespace Sys2Proof.Machine

/-- Answer on the bus. -/
def State.i3c (s : State) (bs : List Byte) : Host.Outcome State Fault Refusal := s.when s.i3cAnswers (s.emit (.i3c bs))
/-- A 16-bit value on the bus, most significant byte first. -/
def msb16 (x : BitVec 16) : List Byte := (leBytes 2 x.toNat).reverse

/-! ### Common commands (R406) -/

/-- ENTDAA: a target without a dynamic address takes one (R406). -/
def execEntdaa (addr : BitVec 7) (s : State) : Host.Outcome State Fault Refusal :=
  s.when (s.i3cAnswers && s.side.dynAddr.isNone) (s.setSide { s.side with dynAddr := some addr })

/-- SETDASA: the target at its own static address, 0x30 + SLOT, takes a dynamic one (R406). -/
def execSetdasa (static addr : BitVec 7) (s : State) : Host.Outcome State Fault Refusal :=
  s.when (s.i3cAnswers && s.side.dynAddr.isNone && static.toNat = 0x30 + s.side.slot.toNat) (s.setSide { s.side with dynAddr := some addr })

/-- RSTDAA: the dynamic address is given up (R406). -/
def execRstdaa (s : State) : Host.Outcome State Fault Refusal := s.when s.i3cAnswers (s.setSide { s.side with dynAddr := none })

/-- The provisioned ID (R406). -/
def State.provisionedId (s : State) : Nat := Config.manufacturerCode.toNat * 2 ^ 33 + 0x51AE * 2 ^ 16 + s.side.slot.toNat * 2 ^ 12

/-- GETPID: the provisioned ID, six bytes (R406). -/
def execGetpid (s : State) : Host.Outcome State Fault Refusal := s.i3c (leBytes 6 s.provisionedId).reverse

/-- GETBCR: 0x00 (R406). -/
def execGetbcr (s : State) : Host.Outcome State Fault Refusal := s.i3c [0]

/-- GETDCR: 0x00 (R406). -/
def execGetdcr (s : State) : Host.Outcome State Fault Refusal := s.i3c [0]

/-- GETSTATUS: two bytes, which the spec leaves open (R406; log 2). -/
def execGetstatus (s : State) : Host.Outcome State Fault Refusal :=
  s.when s.i3cAnswers ((s.emit (.i3c (leBytes 2 s.freeVal.toNat))).freeNext)

/-- SETMWL: the maximum write length (R406). -/
def execSetmwl (len : BitVec 16) (s : State) : Host.Outcome State Fault Refusal := s.when s.i3cAnswers (s.setSide { s.side with mwl := len })

/-- SETMRL: the maximum read length (R406). -/
def execSetmrl (len : BitVec 16) (s : State) : Host.Outcome State Fault Refusal := s.when s.i3cAnswers (s.setSide { s.side with mrl := len })

/-- GETMWL: the maximum write length (R406). -/
def execGetmwl (s : State) : Host.Outcome State Fault Refusal := s.i3c (msb16 s.side.mwl)

/-- GETMRL: the maximum read length (R406). -/
def execGetmrl (s : State) : Host.Outcome State Fault Refusal := s.i3c (msb16 s.side.mrl)

/-! ### Registers of the window (R404, R408, R409) -/

/-- A write of ATTN_CAUSE clears the causes whose bits are 1 (R404). -/
def State.clearCauses (s : State) (w : BitVec 32) : State := s.setSide { s.side with attnCause := s.side.attnCause &&& ~~~w }

/-- The module may enter recovery mode on request: in STANDBY, halted, or held by RESET_N; a tripped module stays so (R361, R408). -/
def State.mayRecover (s : State) : Bool :=
  s.side.pstate != .tripped && (s.side.pstate = .standby || s.side.halted || s.side.resetN)

/-- A CONTROL write: with the key and one of its bits it enters or leaves recovery mode where that is allowed; any other sets REJECTED (R408). -/
def State.controlWrite (s : State) (w : BitVec 64) : State :=
  let key := w.extractLsb' 48 16 = 0x5A3C#16
  let (rec, ex) := (w.getLsbD 0, w.getLsbD 1)
  if key && rec && !ex && s.mayRecover then s.recovery.setSide { s.recovery.side with rejected := false }
  else if key && ex && !rec && s.side.pstate = .recovery && s.side.lstate != 1 then
    (s.setSide { s.side with pstate := .standby, rejected := false }).tryStart
  else s.setSide { s.side with rejected := true }

/-- A write of LEN starts the reception of an image in recovery mode, unless one is being checked (R409). -/
def State.loaderLength (s : State) (w : BitVec 64) : State :=
  let n := bitsOf w.toNat 27 0
  if s.side.pstate = .recovery && s.side.lstate != 2 && 257 ≤ n && n ≤ 67108864 then
    s.setSide { s.side with lstate := 1, rcvd := 0, llen := n, limage := [] }
  else s

/-- Bytes of an image arrive; those beyond LEN are ignored, and a whole image goes to its check (R409). -/
def State.loaderBytes (s : State) (bs : List Byte) : State :=
  if s.side.pstate = .recovery && s.side.lstate = 1 then
    let im := (s.side.limage ++ bs.take 256).take s.side.llen
    s.setSide { s.side with limage := im, rcvd := im.length, lstate := if im.length = s.side.llen then 2 else 1 }
  else s

/-- ATTN_CAUSE: a write of 1 clears each cause, and ATTN_N is released with the last unmasked one (R404). -/
def execAttnCause (w : BitVec 32) (s : State) : Host.Outcome State Fault Refusal := s.when s.i3cAnswers (s.clearCauses w)

/-- RECOVER: a CONTROL write that asks for recovery mode (R342, R408). -/
def execRecover (w : BitVec 64) (s : State) : Host.Outcome State Fault Refusal := s.when (s.i3cAnswers && w.getLsbD 0) (s.controlWrite w)

/-- EXIT: a CONTROL write that does not ask for recovery mode, with EXIT or with neither (R408). -/
def execExit (w : BitVec 64) (s : State) : Host.Outcome State Fault Refusal := s.when (s.i3cAnswers && !w.getLsbD 0) (s.controlWrite w)

/-- LOADER_LEN: a write of LOADER (R409). -/
def execLoaderLen (w : BitVec 64) (s : State) : Host.Outcome State Fault Refusal := s.when s.i3cAnswers (s.loaderLength w)

/-- LOADER_DATA: a private write at offset 0x0100 (R409). -/
def execLoaderData (bytes : List Byte) (s : State) : Host.Outcome State Fault Refusal := s.when s.i3cAnswers (s.loaderBytes bytes)

/-- IMAGE_CHECK: a whole image is measured and its signature checked; one that passes is written to flash, its measurement stands in the
measurement register and the module starts from it; one that fails is discarded (R342, R370, R380, R409). -/
def execImageCheck (s : State) : Host.Outcome State Fault Refusal :=
  let im := s.side.limage
  let t :=
    if imageValid im then
      let t := ((s.permMeas 7 [1] 0 (imageMeas im)).bump ctrRecoveries 1)
      (t.setSide { t.side with lstate := 3, fwImage := im, fwMeas := imageMeas im, limage := [], pstate := .standby }).tryStart
    else
      let t := s.permMeas 7 [0] 0 (imageMeas im)
      t.setSide { t.side with lstate := 4, limage := [] }
  s.when (s.i3cAnswers && s.side.pstate = .recovery && s.side.lstate = 2) t

/-! ### Private transfers (R407) -/

/-- A register that lies whole within `n` bytes from offset `o` of a transfer takes the bytes written there. -/
def State.windowReg (s : State) (o : Nat) (data : List Byte) (at_ size : Nat) (f : State → Nat → State) : State :=
  if o ≤ at_ && at_ + size ≤ o + data.length then f s (leNat ((data.drop (at_ - o)).take size)) else s

/-- WINDOW_POINTER_WRITE: two bytes set the pointer; further bytes are written at it, each register taking effect with its last byte (R11, R404,
R407 to R409). -/
def execWindowPointerWrite (bytes : List Byte) (s : State) : Host.Outcome State Fault Refusal :=
  let o := leNat (bytes.take 2)
  let data := bytes.drop 2
  let t := s.setSide { s.side with ptr := BitVec.ofNat 16 (o + data.length) }
  let t :=
    if o = 0x0100 then (if data.isEmpty then t else t.loaderBytes data)
    else
      let t := t.windowReg o data 0x0018 4 fun t v => t.clearCauses (BitVec.ofNat 32 v)
      let t := t.windowReg o data 0x001C 4 fun t v => t.setSide { t.side with attnMask := BitVec.ofNat 32 v &&& 0x7F#32 }
      let t := t.windowReg o data 0x0038 8 fun t v => t.controlWrite (BitVec.ofNat 64 v)
      t.windowReg o data 0x0040 8 fun t v => t.loaderLength (BitVec.ofNat 64 v)
  s.when (s.i3cAnswers && 2 ≤ bytes.length) t

/-- PRIVATE_READ: bytes of the window from the pointer, which advances; a register of 8 bytes is sampled whole at its first byte (R407). -/
def execPrivateRead (count : Nat) (s : State) : Host.Outcome State Fault Refusal :=
  let bs := (List.range count).map fun i => s.readByte count ((s.side.ptr.toNat + i) % 65536)
  let t := s.setSide { s.side with ptr := s.side.ptr + BitVec.ofNat 16 count, latch := s.sampled count }
  s.when s.i3cAnswers (t.emit (.i3c bs))

/-! ### The envelope (R311, R346, R404) -/

/-- ENVELOPE_EXCURSION: the monitors read an input between the trip limits, in units of 10 mV, and whether another limit of the envelope is broken;
an input outside 46.0 V to 60.0 V latches the supply cause, and PROMISE holds only inside the envelope (R346, R404). -/
def execEnvelopeExcursion (vin : Nat) (other : Bool) (s : State) : Host.Outcome State Fault Refusal :=
  let out := vin < 4600 || 6000 < vin
  let t := s.setSide { s.side with vin := vin, envelopeOk := !out && !other }
  s.when (s.side.v54 && 4400 ≤ vin && vin ≤ 6200) (if out then t.attn causeSupply else t)

end Sys2Proof.Machine
end

