-- ==== Sys2Proof/Machine/OutFamily.lean ====
section
/-! DEFINITION. The out-path slot (R45, R82 to R87, R101, R102, R116). -/

namespace Sys2Proof.Machine

/-- The key of a held flush. -/
def Held.flushKey (h : Held) : Option Nat :=
  match h with
  | .flush k _ _ => some k
  | _ => none

/-- Keys of addends that were issued and are not yet applied, as an OREAD of core `k` must await them (R101). -/
def State.pendingKeys (s : State) (k : Nat) : List Nat :=
  let c := s.coreOf k
  s.comp.addends.map (·.key) ++ (c.held ++ (c.commit.map (·.2)).getD []).filterMap Held.flushKey ++ c.verdicts.flatMap fun v => v.adds.map (·.1)

/-- Handle offsets of the records that an OREAD reads. -/
def oreadOfs (bits : Nat) (r : Regs) : List Nat :=
  (recordOfs (r.gr (fld bits 55 53)) (fld bits 19 13 + 1) (r.pr (fld bits 6 3))).map (·.2.2.toNat)

/-- Write the rows of an out-path operation: a compressed tile at GD's address, or plain rows STRIDE0 apart (R101). -/
def State.outWrite (s : State) (k bits : Nat) (r : Regs) (rows : List OutRow) : State :=
  let g := outCfg r bits
  let gd := r.gr (fld bits 52 50)
  let h := genHandle gd
  if outCompressed bits then
    let ofs := (genAddr gd).toNat
    let t := s.writeSpan (some k) h ofs (compressRows g.fmt g.cols rows)
    t.setMem { t.mem with tiles := spanKey k h ofs :: t.mem.tiles }
  else
    (rows.zipIdx).foldl (fun t x =>
      let ofs := (genAddr gd + (x.2 : Int) * genStride0 gd).toNat
      t.writeSpanOpt (some k) h ofs (x.1.plain g.fmt (t.mem.read (spanKey k h ofs) 64))) s

/-- The bytes that an out-path operation may write in its destination, as a span of the handle. -/
def outSpan (op bits : Nat) (r : Regs) : Nat × Nat :=
  let gd := r.gr (fld bits 52 50)
  let at_ := (List.range (outRowCount op bits)).map fun i => (genAddr gd + (i : Int) * genStride0 gd).toNat
  let lo := at_.foldl min (genAddr gd).toNat
  (lo, if outCompressed bits then 128 * 1024 + 8 else at_.foldl max lo + 1032 - lo)

/-- An out-path operation: compute its rows, write them, raise the status bits in AST, and advance GS and GD once each, once in all
when both fields name the same generator (R82, R101; DESIGN CHOICE, log 204). -/
def State.outStep (s : State) (k op : Nat) (srcs : List Nat) : Host.Outcome State Fault Refusal :=
  let bits := s.bits k 4
  let r := s.src k
  let gsI := fld bits 55 53
  let gdI := fld bits 52 50
  let gs := r.gr gsI
  let gd := r.gr gdI
  let ast := fld bits 2 0
  let keys := srcs.map (spanKey k (genHandle gs))
  let (dofs, dn) := outSpan op bits r
  s.slotStep k 4 op
    (((s.coreOf k).tiles.getD ast Tile.init).verdicts = 0 && !keys.any (fun x => (s.pendingKeys k).contains x) &&
      !srcs.any (fun o => s.spanHeld (genHandle gs) o 48) && !s.spanHeld (genHandle gd) dofs dn) fun t =>
    let t := keys.foldl (fun t x => t.discover x 48) t
    let t := srcs.foldl (fun t o => t.heatPages (some k) (genHandle gs) o 48) t
    let u := t.updRegs k fun x =>
      let x := x.setG gsI (genAdvance gs)
      if gsI = gdI then x else x.setG gdI (genAdvance gd)
    match srcs.find? (fun o => t.spanLost (genHandle gs) o 48) with
    | some _ => u.raise k (t.faultHere k 9 4 false 0)
    | none =>
      match srcs.find? (fun o => !t.comp.las.has (spanKey k (genHandle gs) o) && t.mem.poisoned (spanKey k (genHandle gs) o) 48) with
      | some o => u.raise k (t.faultHere k 7 4 false o)
      | none =>
        if t.spanLost (genHandle gd) dofs dn then u.raise k (t.faultHere k 9 4 false 0)
        else
          let rows := t.outRows k op bits r
          let st := rows.foldl (fun acc x => acc ||| x.status) 0
          (u.outWrite k bits r rows).updTile k ast fun x => { x with status := x.status ||| BitVec.ofNat 32 st }

/-- OREAD: read out the records of rows 0 to ROWS and the columns of PCOL, apply R82, and write to GD, after every flush issued to them
before it (R45, R101). -/
def execOread (k : Nat) (s : State) : Host.Outcome State Fault Refusal := s.outStep k 1 (oreadOfs (s.bits k 4) (s.src k))

/-- OVEC: apply R82 to the 128 lanes of VSRC as one row, and write to GD (R82, R101). -/
def execOvec (k : Nat) (s : State) : Host.Outcome State Fault Refusal := s.outStep k 2 []

end Sys2Proof.Machine
end

