-- ==== Sys2Proof/Machine/Scalar.lean ====
section
/-! DEFINITION. The scalar and branch slot (R91, R92). -/

namespace Sys2Proof.Machine

/-- The immediate, sign-extended. -/
def scalarImm (bits : Nat) : W64 := (BitVec.ofNat 32 (fld bits 31 0)).signExtend 64

/-- An operation that writes a scalar register from sa, sb and the immediate. -/
def State.scalarOp (s : State) (k op : Nat) (f : W64 → W64 → W64 → W64) : Host.Outcome State Fault Refusal :=
  let bits := s.bits k 6
  let r := s.src k
  s.slotStep k 6 op true fun t =>
    t.updRegs k fun x => x.setS (fld bits 55 51) (f (r.sr (fld bits 50 46)) (r.sr (fld bits 45 41)) (scalarImm bits))

/-- This bundle plus the immediate; a target below bundle 0 lies beyond the image (R89; DEDUCED, log 14). -/
def branchTarget (pc bits : Nat) : Nat :=
  let t := (pc : Int) + sgn 32 (fld bits 31 0)
  if t < 0 then 4096 else t.toNat

/-- A branch taken when `f` holds of sa and sb; it takes effect after its bundle (R91). -/
def State.branchOp (s : State) (k op : Nat) (f : W64 → W64 → Bool) : Host.Outcome State Fault Refusal :=
  let bits := s.bits k 6
  let r := s.src k
  s.slotStep k 6 op true fun t =>
    t.updCore k fun c =>
      if f (r.sr (fld bits 50 46)) (r.sr (fld bits 45 41)) then { c with target := some (branchTarget c.pc bits) } else c

/-- 1 for true, 0 for false. -/
def boolWord (b : Bool) : W64 := if b then 1 else 0

/-- ADD: sd := sa + sb modulo 2⁶⁴ (R91). -/
def execAdd (k : Nat) (s : State) : Host.Outcome State Fault Refusal := s.scalarOp k 1 fun a b _ => a + b

/-- ADDI: sd := sa + imm (R91). -/
def execAddi (k : Nat) (s : State) : Host.Outcome State Fault Refusal := s.scalarOp k 2 fun a _ i => a + i

/-- SUB: sd := sa − sb (R91). -/
def execSub (k : Nat) (s : State) : Host.Outcome State Fault Refusal := s.scalarOp k 3 fun a b _ => a - b

/-- MUL: sd := low 64 bits of sa × sb (R91). -/
def execMul (k : Nat) (s : State) : Host.Outcome State Fault Refusal := s.scalarOp k 4 fun a b _ => a * b

/-- AND, bitwise (R91). -/
def execAnd (k : Nat) (s : State) : Host.Outcome State Fault Refusal := s.scalarOp k 5 fun a b _ => a &&& b

/-- OR, bitwise (R91). -/
def execOr (k : Nat) (s : State) : Host.Outcome State Fault Refusal := s.scalarOp k 6 fun a b _ => a ||| b

/-- XOR, bitwise (R91). -/
def execXor (k : Nat) (s : State) : Host.Outcome State Fault Refusal := s.scalarOp k 7 fun a b _ => a ^^^ b

/-- SHL: sa shifted left by sb[5:0] (R91). -/
def execShl (k : Nat) (s : State) : Host.Outcome State Fault Refusal := s.scalarOp k 8 fun a b _ => a <<< (b.toNat % 64)

/-- SHR: sa shifted right logically by sb[5:0] (R91). -/
def execShr (k : Nat) (s : State) : Host.Outcome State Fault Refusal := s.scalarOp k 9 fun a b _ => a >>> (b.toNat % 64)

/-- SRA: sa shifted right arithmetically by sb[5:0] (R91). -/
def execSra (k : Nat) (s : State) : Host.Outcome State Fault Refusal := s.scalarOp k 10 fun a b _ => a.sshiftRight (b.toNat % 64)

/-- LIH: sd := (imm << 32) or sa[31:0] (R91). -/
def execLih (k : Nat) (s : State) : Host.Outcome State Fault Refusal := s.scalarOp k 11 fun a _ i => (i <<< 32) ||| (a &&& 0xFFFFFFFF#64)

/-- SLT: sd := 1 when sa < sb (signed), else 0 (R91). -/
def execSlt (k : Nat) (s : State) : Host.Outcome State Fault Refusal := s.scalarOp k 12 fun a b _ => boolWord (a.slt b)

/-- SLTU: sd := 1 when sa < sb (unsigned), else 0 (R91). -/
def execSltu (k : Nat) (s : State) : Host.Outcome State Fault Refusal := s.scalarOp k 13 fun a b _ => boolWord (a.ult b)

/-- BEQ: branch when sa = sb (R91). -/
def execBeq (k : Nat) (s : State) : Host.Outcome State Fault Refusal := s.branchOp k 16 fun a b => a = b

/-- BNE: branch when sa ≠ sb (R91). -/
def execBne (k : Nat) (s : State) : Host.Outcome State Fault Refusal := s.branchOp k 17 fun a b => a != b

/-- BLT: branch when sa < sb (signed) (R91). -/
def execBlt (k : Nat) (s : State) : Host.Outcome State Fault Refusal := s.branchOp k 18 fun a b => a.slt b

/-- BGE: branch when sa ≥ sb (signed) (R91). -/
def execBge (k : Nat) (s : State) : Host.Outcome State Fault Refusal := s.branchOp k 19 fun a b => !a.slt b

/-- JMP: continue at this bundle plus imm (R91). -/
def execJmp (k : Nat) (s : State) : Host.Outcome State Fault Refusal := s.branchOp k 20 fun _ _ => true

/-- CALL: push this bundle plus one and jump; a full return stack raises the call-depth fault (R92). -/
def execCall (k : Nat) (s : State) : Host.Outcome State Fault Refusal :=
  let bits := s.bits k 6
  s.slotStep k 6 0x15 true fun t =>
    t.updCore k fun c => { c with stack := BitVec.ofNat 12 (c.pc + 1) :: c.stack, target := some (branchTarget c.pc bits) }

/-- RET: pop the return stack and continue there; an empty stack raises the illegal-operation fault (R92). -/
def execRet (k : Nat) (s : State) : Host.Outcome State Fault Refusal :=
  s.slotStep k 6 0x16 true fun t =>
    t.updCore k fun c => { c with stack := c.stack.tail, target := c.stack.head?.map (·.toNat) }

/-- A special register's value; none where the spec states none: CYCLES, whose count of core cycles a model without cycles does not
have, and the numbers that the table does not assign (log 2). -/
def State.specialReg (s : State) (k n : Nat) : Option W64 :=
  match s.instOf k with
  | none => none
  | some i =>
    match n with
    | 0 => some (BitVec.ofNat 64 i.index)
    | 1 => some (BitVec.ofNat 64 (((s.launchOf k).map (·.total)).getD 0))
    | 2 => some (BitVec.ofNat 64 i.rank)
    | 3 => some (BitVec.ofNat 64 i.groupSize)
    | 4 => some (((s.jobOf k).map (·.step)).getD 0)
    | 6 => some (BitVec.ofNat 64 i.unit_)
    | 7 => some (BitVec.ofNat 64 i.units)
    | 8 => some (BitVec.ofNat 64 i.rowFirst)
    | 9 => some (BitVec.ofNat 64 i.rowCount)
    | 10 => some (BitVec.ofNat 64 i.runFirst)
    | _ =>
      if 0x10 ≤ n && n ≤ 0x17 then some ((((s.coreOf k).tiles.getD (n - 0x10) Tile.init).status).setWidth 64) else none

/-- GETSR: sd := special register imm[11:0] (R92). -/
def execGetsr (k : Nat) (s : State) : Host.Outcome State Fault Refusal :=
  let bits := s.bits k 6
  s.slotStep k 6 0x18 true fun t =>
    match s.specialReg k (fld bits 11 0) with
    | some v => t.updRegs k fun x => x.setS (fld bits 55 51) v
    | none => (t.updRegs k fun x => x.setS (fld bits 55 51) (t.freeVal.extractLsb' 0 64)).freeNext

/-- Change an accumulator tile of a core. -/
def Core.updTile (c : Core) (i : Nat) (f : Tile → Tile) : Core := { c with tiles := c.tiles.upd i Tile.init f }

/-- SETSR: bits of TSTATn that are set in sa are cleared; any other register raises the illegal-operation fault (R47, R92). -/
def execSetsr (k : Nat) (s : State) : Host.Outcome State Fault Refusal :=
  let bits := s.bits k 6
  let v := ((s.src k).sr (fld bits 50 46)).setWidth 32
  s.slotStep k 6 0x19 true fun t =>
    t.updCore k fun c => c.updTile (fld bits 11 0 - 0x10) fun x => { x with status := x.status &&& ~~~v }

end Sys2Proof.Machine
end

