-- ==== Sys2Proof/Machine/Vector.lean ====
section
/-! DEFINITION. Vector slots A and B (R95, R116). -/

namespace Sys2Proof.Machine

/-- The slot number of a vector slot: A, or B when `b` is set. -/
def vecSlot (b : Bool) : Nat := if b then 3 else 2

/-- An operation that writes the lanes of vd whose predicate is set. -/
def State.vecOp (s : State) (k sl op : Nat) (f : Regs → Nat → Nat → W32) : Host.Outcome State Fault Refusal :=
  let bits := s.bits k sl
  let r := s.src k
  s.slotStep k sl op true fun t =>
    t.updRegs k fun x => x.setV (fld bits 63 59) (mergeLanes (r.pr (fld bits 43 40)) (x.vr (fld bits 63 59)) (f r bits))

/-- A lane-wise operation of va, vb and vc. -/
def State.laneOp (s : State) (k sl op : Nat) (f : W32 → W32 → W32 → W32) : Host.Outcome State Fault Refusal :=
  s.vecOp k sl op fun r bits i =>
    f (lane (r.vr (fld bits 58 54)) i) (lane (r.vr (fld bits 53 49)) i) (lane (r.vr (fld bits 48 44)) i)

/-- An operation that writes the lanes of pd whose predicate is set. -/
def State.predOp (s : State) (k sl op : Nat) (f : Regs → Nat → Nat → Bool) : Host.Outcome State Fault Refusal :=
  let bits := s.bits k sl
  let r := s.src k
  s.slotStep k sl op true fun t =>
    t.updRegs k fun x =>
      let p := r.pr (fld bits 43 40)
      let old := x.pr (fld bits 39 36)
      x.setP (fld bits 39 36) (ofPred fun i => if p.getLsbD i then f r bits i else old.getLsbD i)

/-- The sign operations keep NaNs canonical (R33, R95). -/
def canonical (a x : W32) : W32 := if (f32Val a).isNan then nan32 else x

/-- FADD: va + vb (R95). -/
def execFadd (k : Nat) (s : State) : Host.Outcome State Fault Refusal := s.laneOp k 2 1 fun a b _ => f32Add a b

/-- FSUB: va − vb (R95). -/
def execFsub (k : Nat) (s : State) : Host.Outcome State Fault Refusal := s.laneOp k 2 2 fun a b _ => f32Sub a b

/-- FMUL: va × vb (R95). -/
def execFmul (k : Nat) (s : State) : Host.Outcome State Fault Refusal := s.laneOp k 2 3 fun a b _ => f32Mul a b

/-- FMA: va × vb + vc with one rounding (R95). -/
def execFma (k : Nat) (s : State) : Host.Outcome State Fault Refusal := s.laneOp k 2 4 fun a b c => f32Fma a b c

/-- FMAX: the larger value; −0 < +0; a NaN in either gives the canonical NaN (R95). -/
def execFmax (k : Nat) (s : State) : Host.Outcome State Fault Refusal := s.laneOp k 2 5 fun a b _ => f32Pick true a b

/-- FMIN: the smaller value; −0 < +0; a NaN in either gives the canonical NaN (R95). -/
def execFmin (k : Nat) (s : State) : Host.Outcome State Fault Refusal := s.laneOp k 2 6 fun a b _ => f32Pick false a b

/-- FABS: clear the sign (R95). -/
def execFabs (k : Nat) (s : State) : Host.Outcome State Fault Refusal := s.laneOp k 2 7 fun a _ _ => canonical a (f32Abs a)

/-- FNEG: invert the sign (R95). -/
def execFneg (k : Nat) (s : State) : Host.Outcome State Fault Refusal := s.laneOp k 2 8 fun a _ _ => canonical a (f32Neg a)

/-- FRCP: 1 ÷ va (R95). -/
def execFrcp (k : Nat) (s : State) : Host.Outcome State Fault Refusal := s.laneOp k 2 9 fun a _ _ => f32Rcp a

/-- FDIV: va ÷ vb (R95). -/
def execFdiv (k : Nat) (s : State) : Host.Outcome State Fault Refusal := s.laneOp k 2 10 fun a b _ => f32Div a b

/-- FSQRT: √va (R95). -/
def execFsqrt (k : Nat) (s : State) : Host.Outcome State Fault Refusal := s.laneOp k 2 11 fun a _ _ => f32Sqrt a

/-- The comparison of a sub-operation: 0 EQ, 1 LT, 2 LE, 3 NE, 4 UNORDERED. -/
def fcmp (sub : Nat) (a b : W32) : Bool :=
  let x := f32Val a
  let y := f32Val b
  match sub with
  | 0 => x.eqv y
  | 1 => x.lt y
  | 2 => x.lt y || x.eqv y
  | 3 => !x.eqv y
  | _ => x.isNan || y.isNan

/-- FCMP: pd lane := va ? vb by SUB (R95). -/
def execFcmp (k : Nat) (s : State) : Host.Outcome State Fault Refusal :=
  s.predOp k 2 0x0C fun r bits i => fcmp (fld bits 35 32) (lane (r.vr (fld bits 58 54)) i) (lane (r.vr (fld bits 53 49)) i)

/-- SEL: va where pd is set, else vb (R95). -/
def execSel (k : Nat) (b : Bool) (s : State) : Host.Outcome State Fault Refusal :=
  s.vecOp k (vecSlot b) 0x0D fun r bits i =>
    if (r.pr (fld bits 39 36)).getLsbD i then lane (r.vr (fld bits 58 54)) i else lane (r.vr (fld bits 53 49)) i

/-- VIMM: every lane := IMM (R95). -/
def execVimm (k : Nat) (b : Bool) (s : State) : Host.Outcome State Fault Refusal :=
  s.vecOp k (vecSlot b) 0x0E fun _ bits _ => BitVec.ofNat 32 (fld bits 31 0)

/-- IADD: modulo 2³² (R95). -/
def execIadd (k : Nat) (b : Bool) (s : State) : Host.Outcome State Fault Refusal := s.laneOp k (vecSlot b) 0x10 fun x y _ => x + y

/-- ISUB: modulo 2³² (R95). -/
def execIsub (k : Nat) (b : Bool) (s : State) : Host.Outcome State Fault Refusal := s.laneOp k (vecSlot b) 0x11 fun x y _ => x - y

/-- IAND (R95). -/
def execIand (k : Nat) (b : Bool) (s : State) : Host.Outcome State Fault Refusal := s.laneOp k (vecSlot b) 0x12 fun x y _ => x &&& y

/-- IOR (R95). -/
def execIor (k : Nat) (b : Bool) (s : State) : Host.Outcome State Fault Refusal := s.laneOp k (vecSlot b) 0x13 fun x y _ => x ||| y

/-- IXOR (R95). -/
def execIxor (k : Nat) (b : Bool) (s : State) : Host.Outcome State Fault Refusal := s.laneOp k (vecSlot b) 0x14 fun x y _ => x ^^^ y

/-- ISHL: by vb lane [4:0] (R95). -/
def execIshl (k : Nat) (b : Bool) (s : State) : Host.Outcome State Fault Refusal := s.laneOp k (vecSlot b) 0x15 fun x y _ => x <<< (y.toNat % 32)

/-- ISHR: logical right by vb lane [4:0] (R95). -/
def execIshr (k : Nat) (b : Bool) (s : State) : Host.Outcome State Fault Refusal := s.laneOp k (vecSlot b) 0x16 fun x y _ => x >>> (y.toNat % 32)

/-- BCAST: every lane := lane imm[6:0] of va (R95). -/
def execBcast (k : Nat) (s : State) : Host.Outcome State Fault Refusal :=
  s.vecOp k 2 0x18 fun r bits _ => lane (r.vr (fld bits 58 54)) (fld bits 6 0)

/-- PERM: lane i := lane (vb lane i mod 128) of va (R95). -/
def execPerm (k : Nat) (s : State) : Host.Outcome State Fault Refusal :=
  s.vecOp k 2 0x19 fun r bits i => lane (r.vr (fld bits 58 54)) ((lane (r.vr (fld bits 53 49)) i).toNat % 128)

/-- One level of the fixed tree: neighbours are added (R95). -/
def treeLevel (xs : List W32) : List W32 :=
  match xs with
  | a :: b :: t => f32Add a b :: treeLevel t
  | t => t

/-- FRSUM's tree of seven levels. -/
def treeSum (n : Nat) (xs : List W32) : W32 :=
  match n with
  | 0 => xs.headD 0
  | n + 1 => treeSum n (treeLevel xs)

/-- A reduction writes lane 0 and +0 in every other lane, whatever P holds (R95). -/
def State.reduceOp (s : State) (k op : Nat) (f : List W32 → W32) (empty : W32) : Host.Outcome State Fault Refusal :=
  let bits := s.bits k 2
  let r := s.src k
  s.slotStep k 2 op true fun t =>
    let p := r.pr (fld bits 43 40)
    let xs := (List.range 128).map fun i => if p.getLsbD i then lane (r.vr (fld bits 58 54)) i else empty
    t.updRegs k fun x => x.setV (fld bits 63 59) (ofLanes fun i => if i = 0 then f xs else 0)

/-- FRSUM: the sum in a fixed tree over the lanes where P is set; a clear lane enters as +0 (R95). -/
def execFrsum (k : Nat) (s : State) : Host.Outcome State Fault Refusal := s.reduceOp k 0x1A (treeSum 7) 0

/-- FRMAX: the maximum over the lanes where P is set; a clear lane enters as −∞ (R95). -/
def execFrmax (k : Nat) (s : State) : Host.Outcome State Fault Refusal :=
  s.reduceOp k 0x1B (fun xs => xs.foldl (f32Pick true) 0xFF800000#32) 0xFF800000#32

/-- TRD: vd := row imm[6:0] of tile a(va[2:0]), once every slab added to the tile has its verdict (R73, R116). -/
def execTrd (k : Nat) (s : State) : Host.Outcome State Fault Refusal :=
  let bits := s.bits k 2
  let r := s.src k
  let tile := (s.coreOf k).tiles.getD (fld bits 58 54 % 8) Tile.init
  s.slotStep k 2 0x1C (tile.verdicts = 0) fun t =>
    let u := t.updRegs k fun x =>
      x.setV (fld bits 63 59) (mergeLanes (r.pr (fld bits 43 40)) (x.vr (fld bits 63 59)) fun i => tile.e.getD (128 * fld bits 6 0 + i) 0)
    if tile.bad.any (fun b => b / 8 = fld bits 6 0) then u.raise k (u.faultHere k 7 2 false 0) else u

/-- PLOG: pd := pa SUB pb, with SUB 0 AND, 1 OR, 2 XOR, 3 AND-NOT, 4 NOT pa (R95). -/
def execPlog (k : Nat) (b : Bool) (s : State) : Host.Outcome State Fault Refusal :=
  s.predOp k (vecSlot b) 0x1D fun r bits i =>
    let x := (r.pr (fld bits 58 54 % 16)).getLsbD i
    let y := (r.pr (fld bits 53 49 % 16)).getLsbD i
    match fld bits 35 32 with
    | 0 => x && y
    | 1 => x || y
    | 2 => x != y
    | 3 => x && !y
    | _ => !x

/-- PSET: pd lane i := 1 for i < imm[7:0], else 0 (R95). -/
def execPset (k : Nat) (b : Bool) (s : State) : Host.Outcome State Fault Refusal :=
  s.predOp k (vecSlot b) 0x1E fun _ bits i => i < fld bits 7 0

end Sys2Proof.Machine
end

