-- ==== Sys2Proof/Machine/Dispatch.lean ====
section
/-! DEFINITION. The meaning of every command: one direct call per constructor. -/

namespace Sys2Proof.Machine

def exec (i : Instr) (s : State) : Host.Outcome State Fault Refusal :=
  match i with
  | .add k => Sys2Proof.Machine.execAdd k s
  | .addi k => Sys2Proof.Machine.execAddi k s
  | .sub k => Sys2Proof.Machine.execSub k s
  | .mul k => Sys2Proof.Machine.execMul k s
  | .and k => Sys2Proof.Machine.execAnd k s
  | .or k => Sys2Proof.Machine.execOr k s
  | .xor k => Sys2Proof.Machine.execXor k s
  | .shl k => Sys2Proof.Machine.execShl k s
  | .shr k => Sys2Proof.Machine.execShr k s
  | .sra k => Sys2Proof.Machine.execSra k s
  | .lih k => Sys2Proof.Machine.execLih k s
  | .slt k => Sys2Proof.Machine.execSlt k s
  | .sltu k => Sys2Proof.Machine.execSltu k s
  | .beq k => Sys2Proof.Machine.execBeq k s
  | .bne k => Sys2Proof.Machine.execBne k s
  | .blt k => Sys2Proof.Machine.execBlt k s
  | .bge k => Sys2Proof.Machine.execBge k s
  | .jmp k => Sys2Proof.Machine.execJmp k s
  | .call k => Sys2Proof.Machine.execCall k s
  | .ret k => Sys2Proof.Machine.execRet k s
  | .getsr k => Sys2Proof.Machine.execGetsr k s
  | .setsr k => Sys2Proof.Machine.execSetsr k s
  | .lds k => Sys2Proof.Machine.execLds k s
  | .sts k => Sys2Proof.Machine.execSts k s
  | .ldv k => Sys2Proof.Machine.execLdv k s
  | .stv k => Sys2Proof.Machine.execStv k s
  | .ldvc k => Sys2Proof.Machine.execLdvc k s
  | .pld k => Sys2Proof.Machine.execPld k s
  | .pst k => Sys2Proof.Machine.execPst k s
  | .dma k => Sys2Proof.Machine.execDma k s
  | .gcfg k => Sys2Proof.Machine.execGcfg k s
  | .gset k => Sys2Proof.Machine.execGset k s
  | .gadv k => Sys2Proof.Machine.execGadv k s
  | .fadd k => Sys2Proof.Machine.execFadd k s
  | .fsub k => Sys2Proof.Machine.execFsub k s
  | .fmul k => Sys2Proof.Machine.execFmul k s
  | .fma k => Sys2Proof.Machine.execFma k s
  | .fmax k => Sys2Proof.Machine.execFmax k s
  | .fmin k => Sys2Proof.Machine.execFmin k s
  | .fabs k => Sys2Proof.Machine.execFabs k s
  | .fneg k => Sys2Proof.Machine.execFneg k s
  | .frcp k => Sys2Proof.Machine.execFrcp k s
  | .fdiv k => Sys2Proof.Machine.execFdiv k s
  | .fsqrt k => Sys2Proof.Machine.execFsqrt k s
  | .fcmp k => Sys2Proof.Machine.execFcmp k s
  | .sel k b => Sys2Proof.Machine.execSel k b s
  | .vimm k b => Sys2Proof.Machine.execVimm k b s
  | .iadd k b => Sys2Proof.Machine.execIadd k b s
  | .isub k b => Sys2Proof.Machine.execIsub k b s
  | .iand k b => Sys2Proof.Machine.execIand k b s
  | .ior k b => Sys2Proof.Machine.execIor k b s
  | .ixor k b => Sys2Proof.Machine.execIxor k b s
  | .ishl k b => Sys2Proof.Machine.execIshl k b s
  | .ishr k b => Sys2Proof.Machine.execIshr k b s
  | .bcast k => Sys2Proof.Machine.execBcast k s
  | .perm k => Sys2Proof.Machine.execPerm k s
  | .frsum k => Sys2Proof.Machine.execFrsum k s
  | .frmax k => Sys2Proof.Machine.execFrmax k s
  | .trd k => Sys2Proof.Machine.execTrd k s
  | .plog k b => Sys2Proof.Machine.execPlog k b s
  | .pset k b => Sys2Proof.Machine.execPset k b s
  | .aldw k => Sys2Proof.Machine.execAldw k s
  | .amul k => Sys2Proof.Machine.execAmul k s
  | .aflush k => Sys2Proof.Machine.execAflush k s
  | .aclr k => Sys2Proof.Machine.execAclr k s
  | .linit k => Sys2Proof.Machine.execLinit k s
  | .oread k => Sys2Proof.Machine.execOread k s
  | .ovec k => Sys2Proof.Machine.execOvec k s
  | .swait k => Sys2Proof.Machine.execSwait k s
  | .spost k => Sys2Proof.Machine.execSpost k s
  | .eset k => Sys2Proof.Machine.execEset k s
  | .eclr k => Sys2Proof.Machine.execEclr k s
  | .ewait k => Sys2Proof.Machine.execEwait k s
  | .sgwait k => Sys2Proof.Machine.execSgwait k s
  | .sgadd k => Sys2Proof.Machine.execSgadd k s
  | .dwait k => Sys2Proof.Machine.execDwait k s
  | .syncFence k => Sys2Proof.Machine.execSyncFence k s
  | .restart k => Sys2Proof.Machine.execRestart k s
  | .endKernel k => Sys2Proof.Machine.execEndKernel k s
  | .waitSatisfied k => Sys2Proof.Machine.execWaitSatisfied k s
  | .waitTimeout w => Sys2Proof.Machine.execWaitTimeout w s
  | .loadComplete k x => Sys2Proof.Machine.execLoadComplete k x s
  | .dmaComplete k x => Sys2Proof.Machine.execDmaComplete k x s
  | .shadowTileLoaded k => Sys2Proof.Machine.execShadowTileLoaded k s
  | .residueVerdict k err => Sys2Proof.Machine.execResidueVerdict k err s
  | .restartPointCommit k => Sys2Proof.Machine.execRestartPointCommit k s
  | .arrayGate k => Sys2Proof.Machine.execArrayGate k s
  | .kernelFault k => Sys2Proof.Machine.execKernelFault k s
  | .laAddend i_ => Sys2Proof.Machine.execLaAddend i_ s
  | .laWriteBack key => Sys2Proof.Machine.execLaWriteBack key s
  | .translationFill cluster handle page => Sys2Proof.Machine.execTranslationFill cluster handle page s
  | .doorbell n w => Sys2Proof.Machine.execDoorbell n w s
  | .lookAheadRead n => Sys2Proof.Machine.execLookAheadRead n s
  | .commandComplete n at_ => Sys2Proof.Machine.execCommandComplete n at_ s
  | .ringRestart x => Sys2Proof.Machine.execRingRestart x s
  | .adminRingOpen w => Sys2Proof.Machine.execAdminRingOpen w s
  | .adminRingClose w => Sys2Proof.Machine.execAdminRingClose w s
  | .registerWrite space ofs w => Sys2Proof.Machine.execRegisterWrite space ofs w s
  | .nop n => Sys2Proof.Machine.execNop n s
  | .jobOpen slot sigBase => Sys2Proof.Machine.execJobOpen slot sigBase s
  | .jobClose => Sys2Proof.Machine.execJobClose s
  | .jobCloseTimeout job => Sys2Proof.Machine.execJobCloseTimeout job s
  | .jobPriority => Sys2Proof.Machine.execJobPriority s
  | .fence n => Sys2Proof.Machine.execFence n s
  | .signal n => Sys2Proof.Machine.execSignal n s
  | .wait n => Sys2Proof.Machine.execWait n s
  | .berthAlloc n pick cluster => Sys2Proof.Machine.execBerthAlloc n pick cluster s
  | .berthFree n => Sys2Proof.Machine.execBerthFree n s
  | .berthHint n => Sys2Proof.Machine.execBerthHint n s
  | .berthPin n cluster => Sys2Proof.Machine.execBerthPin n cluster s
  | .berthQuery n => Sys2Proof.Machine.execBerthQuery n s
  | .berthCopy n => Sys2Proof.Machine.execBerthCopy n s
  | .berthFill n => Sys2Proof.Machine.execBerthFill n s
  | .kernelLoad n pick => Sys2Proof.Machine.execKernelLoad n pick s
  | .kernelLaunch n places => Sys2Proof.Machine.execKernelLaunch n places s
  | .kernelAbort n => Sys2Proof.Machine.execKernelAbort n s
  | .routePlan n => Sys2Proof.Machine.execRoutePlan n s
  | .dispatch n => Sys2Proof.Machine.execDispatch n s
  | .combine n => Sys2Proof.Machine.execCombine n s
  | .combineGrad n => Sys2Proof.Machine.execCombineGrad n s
  | .dispatchGrad n => Sys2Proof.Machine.execDispatchGrad n s
  | .expertMap n => Sys2Proof.Machine.execExpertMap n s
  | .scaleAgree n => Sys2Proof.Machine.execScaleAgree n s
  | .reduce n => Sys2Proof.Machine.execReduce n s
  | .gather n => Sys2Proof.Machine.execGather n s
  | .broadcast n => Sys2Proof.Machine.execBroadcast n s
  | .permute n => Sys2Proof.Machine.execPermute n s
  | .barrier n => Sys2Proof.Machine.execBarrier n s
  | .stashPut n => Sys2Proof.Machine.execStashPut n s
  | .stashGet n => Sys2Proof.Machine.execStashGet n s
  | .prefetch n lines => Sys2Proof.Machine.execPrefetch n lines s
  | .poolCreate n pick first => Sys2Proof.Machine.execPoolCreate n pick first s
  | .poolQuota n => Sys2Proof.Machine.execPoolQuota n s
  | .unbind n => Sys2Proof.Machine.execUnbind n s
  | .poolStatus n => Sys2Proof.Machine.execPoolStatus n s
  | .powerCap => Sys2Proof.Machine.execPowerCap s
  | .clockMode => Sys2Proof.Machine.execClockMode s
  | .energyRead n => Sys2Proof.Machine.execEnergyRead n s
  | .clusterStateRead => Sys2Proof.Machine.execClusterStateRead s
  | .clusterStateGate => Sys2Proof.Machine.execClusterStateGate s
  | .clusterStateWake => Sys2Proof.Machine.execClusterStateWake s
  | .clusterStateAutomatic => Sys2Proof.Machine.execClusterStateAutomatic s
  | .healthRead n => Sys2Proof.Machine.execHealthRead n s
  | .fuseRow => Sys2Proof.Machine.execFuseRow s
  | .fuseCol => Sys2Proof.Machine.execFuseCol s
  | .spareCore => Sys2Proof.Machine.execSpareCore s
  | .restoreSpare x => Sys2Proof.Machine.execRestoreSpare x s
  | .pprCommit => Sys2Proof.Machine.execPprCommit s
  | .retirePc => Sys2Proof.Machine.execRetirePc s
  | .retireStack => Sys2Proof.Machine.execRetireStack s
  | .retireCluster => Sys2Proof.Machine.execRetireCluster s
  | .resetCluster => Sys2Proof.Machine.execResetCluster s
  | .patrol n => Sys2Proof.Machine.execPatrol n s
  | .faultInject => Sys2Proof.Machine.execFaultInject s
  | .cablePlan => Sys2Proof.Machine.execCablePlan s
  | .linkStatus n => Sys2Proof.Machine.execLinkStatus n s
  | .windowGrant n => Sys2Proof.Machine.execWindowGrant n s
  | .windowChange n => Sys2Proof.Machine.execWindowChange n s
  | .windowRevoke n => Sys2Proof.Machine.execWindowRevoke n s
  | .windowRead n => Sys2Proof.Machine.execWindowRead n s
  | .addFarEndpoint n => Sys2Proof.Machine.execAddFarEndpoint n s
  | .removeFarEndpoint n => Sys2Proof.Machine.execRemoveFarEndpoint n s
  | .digest n => Sys2Proof.Machine.execDigest n s
  | .checkValue n => Sys2Proof.Machine.execCheckValue n s
  | .stepRecord n => Sys2Proof.Machine.execStepRecord n s
  | .attest n => Sys2Proof.Machine.execAttest n s
  | .ledgerRead => Sys2Proof.Machine.execLedgerRead s
  | .calendarSet => Sys2Proof.Machine.execCalendarSet s
  | .fwStage => Sys2Proof.Machine.execFwStage s
  | .fwActivate => Sys2Proof.Machine.execFwActivate s
  | .fwQuiescent => Sys2Proof.Machine.execFwQuiescent s
  | .fwActivateTimeout => Sys2Proof.Machine.execFwActivateTimeout s
  | .firmwareResume => Sys2Proof.Machine.execFirmwareResume s
  | .backpressureEnd n => Sys2Proof.Machine.execBackpressureEnd n s
  | .backpressureWaitLimit n => Sys2Proof.Machine.execBackpressureWaitLimit n s
  | .quayMismatch injected => Sys2Proof.Machine.execQuayMismatch injected s
  | .openMarker job plan src m => Sys2Proof.Machine.execOpenMarker job plan src m s
  | .candidateRecord job w pos => Sys2Proof.Machine.execCandidateRecord job w pos s
  | .endMarker job plan src round count verdicts => Sys2Proof.Machine.execEndMarker job plan src round count verdicts s
  | .verdictRecord job plan src w => Sys2Proof.Machine.execVerdictRecord job plan src w s
  | .finalVerdict job plan src w => Sys2Proof.Machine.execFinalVerdict job plan src w s
  | .planStageTimeout job plan => Sys2Proof.Machine.execPlanStageTimeout job plan s
  | .rowRecord job src h payload poison => Sys2Proof.Machine.execRowRecord job src h payload poison s
  | .returnRecord job src h payload poison => Sys2Proof.Machine.execReturnRecord job src h payload poison s
  | .exchangeTimeout job plan => Sys2Proof.Machine.execExchangeTimeout job plan s
  | .contribution job shard a tag payload complete => Sys2Proof.Machine.execContribution job shard a tag payload complete s
  | .deadline job tag reduce => Sys2Proof.Machine.execDeadline job tag reduce s
  | .arrivalMask job tag reduce shard mask late => Sys2Proof.Machine.execArrivalMask job tag reduce shard mask late s
  | .shardSuccession job tag reduce shard => Sys2Proof.Machine.execShardSuccession job tag reduce shard s
  | .resultShard job tag reduce shard payload low nan sat => Sys2Proof.Machine.execResultShard job tag reduce shard payload low nan sat s
  | .resultShardTimeout job tag => Sys2Proof.Machine.execResultShardTimeout job tag s
  | .collectiveMessage job opcode tag src m => Sys2Proof.Machine.execCollectiveMessage job opcode tag src m s
  | .collectiveTimeout job opcode tag => Sys2Proof.Machine.execCollectiveTimeout job opcode tag s
  | .flitReceive port f => Sys2Proof.Machine.execFlitReceive port f s
  | .flitResend port => Sys2Proof.Machine.execFlitResend port s
  | .laneFailure port lane => Sys2Proof.Machine.execLaneFailure port lane s
  | .portRetrained port => Sys2Proof.Machine.execPortRetrained port s
  | .cablingExchange port fp farPort => Sys2Proof.Machine.execCablingExchange port fp farPort s
  | .noPeer port => Sys2Proof.Machine.execNoPeer port s
  | .flitErrorRatio port bad total => Sys2Proof.Machine.execFlitErrorRatio port bad total s
  | .portShutdown port => Sys2Proof.Machine.execPortShutdown port s
  | .write p => Sys2Proof.Machine.execWrite p s
  | .readRequest p => Sys2Proof.Machine.execReadRequest p s
  | .readResponse p => Sys2Proof.Machine.execReadResponse p s
  | .accumulate p => Sys2Proof.Machine.execAccumulate p s
  | .message p => Sys2Proof.Machine.execMessage p s
  | .acknowledge p => Sys2Proof.Machine.execAcknowledge p s
  | .negativeAcknowledge p => Sys2Proof.Machine.execNegativeAcknowledge p s
  | .transportResend dst flow psn => Sys2Proof.Machine.execTransportResend dst flow psn s
  | .heartbeat p => Sys2Proof.Machine.execHeartbeat p s
  | .heartbeatSend => Sys2Proof.Machine.execHeartbeatSend s
  | .peerAbsent m => Sys2Proof.Machine.execPeerAbsent m s
  | .grantMirror src window e => Sys2Proof.Machine.execGrantMirror src window e s
  | .shootdown handle page => Sys2Proof.Machine.execShootdown handle page s
  | .farPacket p => Sys2Proof.Machine.execFarPacket p s
  | .farOpen p => Sys2Proof.Machine.execFarOpen p s
  | .farClose p => Sys2Proof.Machine.execFarClose p s
  | .farResend flow => Sys2Proof.Machine.execFarResend flow s
  | .farRateRaise flow => Sys2Proof.Machine.execFarRateRaise flow s
  | .farProbe ep => Sys2Proof.Machine.execFarProbe ep s
  | .farEndpointAbsent ep => Sys2Proof.Machine.execFarEndpointAbsent ep s
  | .ethernetFrame port f => Sys2Proof.Machine.execEthernetFrame port f s
  | .neighbourDiscovery target => Sys2Proof.Machine.execNeighbourDiscovery target s
  | .icmpv6Echo dst data => Sys2Proof.Machine.execIcmpv6Echo dst data s
  | .statusRequest dst udpPort => Sys2Proof.Machine.execStatusRequest dst udpPort s
  | .routerAdvertisement pfx autonomous => Sys2Proof.Machine.execRouterAdvertisement pfx autonomous s
  | .duplicateAddressDetection addr duplicate => Sys2Proof.Machine.execDuplicateAddressDetection addr duplicate s
  | .placementEpoch moves => Sys2Proof.Machine.execPlacementEpoch moves s
  | .pageCopyComplete berth page => Sys2Proof.Machine.execPageCopyComplete berth page s
  | .shootdownComplete berth page => Sys2Proof.Machine.execShootdownComplete berth page s
  | .oldFrameRelease berth page => Sys2Proof.Machine.execOldFrameRelease berth page s
  | .unitEmptied u => Sys2Proof.Machine.execUnitEmptied u s
  | .tugFetchComplete cluster handle line => Sys2Proof.Machine.execTugFetchComplete cluster handle line s
  | .stashGetTransfer n at_ => Sys2Proof.Machine.execStashGetTransfer n at_ s
  | .stashAcknowledged n at_ => Sys2Proof.Machine.execStashAcknowledged n at_ s
  | .predictorUpdate job layer expert blocks pitch => Sys2Proof.Machine.execPredictorUpdate job layer expert blocks pitch s
  | .hbmRefresh stack pc bank => Sys2Proof.Machine.execHbmRefresh stack pc bank s
  | .scarabRead stack symbols => Sys2Proof.Machine.execScarabRead stack symbols s
  | .sramPatrolRead u block symbols => Sys2Proof.Machine.execSramPatrolRead u block symbols s
  | .sequencerMismatch x => Sys2Proof.Machine.execSequencerMismatch x s
  | .replayResume inst core => Sys2Proof.Machine.execReplayResume inst core s
  | .coreSelfTest core pass row col => Sys2Proof.Machine.execCoreSelfTest core pass row col s
  | .thinPathSelfTest cluster pass => Sys2Proof.Machine.execThinPathSelfTest cluster pass s
  | .controlMismatch b sameRequest => Sys2Proof.Machine.execControlMismatch b sameRequest s
  | .harbourmasterPairMismatch pair sameRequest => Sys2Proof.Machine.execHarbourmasterPairMismatch pair sameRequest s
  | .cricketMismatch sameRequest => Sys2Proof.Machine.execCricketMismatch sameRequest s
  | .scanReadoutComplete cluster moves => Sys2Proof.Machine.execScanReadoutComplete cluster moves s
  | .drainTimeout cluster => Sys2Proof.Machine.execDrainTimeout cluster s
  | .clusterSelfTest cluster pass => Sys2Proof.Machine.execClusterSelfTest cluster pass s
  | .fillerPreemptTimeout core => Sys2Proof.Machine.execFillerPreemptTimeout core s
  | .watchdogReport r => Sys2Proof.Machine.execWatchdogReport r s
  | .firmwareHang => Sys2Proof.Machine.execFirmwareHang s
  | .supplyTrip => Sys2Proof.Machine.execSupplyTrip s
  | .tripRecovery => Sys2Proof.Machine.execTripRecovery s
  | .thermalTrip => Sys2Proof.Machine.execThermalTrip s
  | .governorTick draw junction => Sys2Proof.Machine.execGovernorTick draw junction s
  | .clampCheck average => Sys2Proof.Machine.execClampCheck average s
  | .clampAdopt => Sys2Proof.Machine.execClampAdopt s
  | .droopStretch domain => Sys2Proof.Machine.execDroopStretch domain s
  | .stretchRelease domain => Sys2Proof.Machine.execStretchRelease domain s
  | .energyInterval total meters => Sys2Proof.Machine.execEnergyInterval total meters s
  | .clusterAutoGate cluster => Sys2Proof.Machine.execClusterAutoGate cluster s
  | .thinPathGate cluster => Sys2Proof.Machine.execThinPathGate cluster s
  | .shutdownComplete f => Sys2Proof.Machine.execShutdownComplete f s
  | .clusterWake cluster why => Sys2Proof.Machine.execClusterWake cluster why s
  | .enableComplete f => Sys2Proof.Machine.execEnableComplete f s
  | .recharDue => Sys2Proof.Machine.execRecharDue s
  | .recharacterisation cluster trim freq => Sys2Proof.Machine.execRecharacterisation cluster trim freq s
  | .ledgerSnapshot => Sys2Proof.Machine.execLedgerSnapshot s
  | .ledgerEventWrite => Sys2Proof.Machine.execLedgerEventWrite s
  | .powerGood slot ethKr => Sys2Proof.Machine.execPowerGood slot ethKr s
  | .powerLost => Sys2Proof.Machine.execPowerLost s
  | .pwrEnAssert => Sys2Proof.Machine.execPwrEnAssert s
  | .pwrEnDeassert => Sys2Proof.Machine.execPwrEnDeassert s
  | .resetNAssert => Sys2Proof.Machine.execResetNAssert s
  | .resetNRelease => Sys2Proof.Machine.execResetNRelease s
  | .orderlyShutdownComplete => Sys2Proof.Machine.execOrderlyShutdownComplete s
  | .stageCricket pass => Sys2Proof.Machine.execStageCricket pass s
  | .stagePierFirmware fuseOk pairs trim => Sys2Proof.Machine.execStagePierFirmware fuseOk pairs trim s
  | .stageHbm failed => Sys2Proof.Machine.execStageHbm failed s
  | .stageDieLinks pass => Sys2Proof.Machine.execStageDieLinks pass s
  | .stageClusters badCores badThin badClusters => Sys2Proof.Machine.execStageClusters badCores badThin badClusters s
  | .stageFabric => Sys2Proof.Machine.execStageFabric s
  | .stageOperatingSystem => Sys2Proof.Machine.execStageOperatingSystem s
  | .stage7Timeout => Sys2Proof.Machine.execStage7Timeout s
  | .ready w => Sys2Proof.Machine.execReady w s
  | .entdaa addr => Sys2Proof.Machine.execEntdaa addr s
  | .setdasa static addr => Sys2Proof.Machine.execSetdasa static addr s
  | .rstdaa => Sys2Proof.Machine.execRstdaa s
  | .getpid => Sys2Proof.Machine.execGetpid s
  | .getbcr => Sys2Proof.Machine.execGetbcr s
  | .getdcr => Sys2Proof.Machine.execGetdcr s
  | .getstatus => Sys2Proof.Machine.execGetstatus s
  | .setmwl len => Sys2Proof.Machine.execSetmwl len s
  | .setmrl len => Sys2Proof.Machine.execSetmrl len s
  | .getmwl => Sys2Proof.Machine.execGetmwl s
  | .getmrl => Sys2Proof.Machine.execGetmrl s
  | .windowPointerWrite bytes => Sys2Proof.Machine.execWindowPointerWrite bytes s
  | .privateRead count => Sys2Proof.Machine.execPrivateRead count s
  | .attnCause w => Sys2Proof.Machine.execAttnCause w s
  | .recover w => Sys2Proof.Machine.execRecover w s
  | .exit w => Sys2Proof.Machine.execExit w s
  | .loaderLen w => Sys2Proof.Machine.execLoaderLen w s
  | .loaderData bytes => Sys2Proof.Machine.execLoaderData bytes s
  | .imageCheck => Sys2Proof.Machine.execImageCheck s
  | .envelopeExcursion vin other => Sys2Proof.Machine.execEnvelopeExcursion vin other s
  | .addressLockWrite port l => Sys2Proof.Machine.execAddressLockWrite port l s
  | .osFrameTransmit port f => Sys2Proof.Machine.execOsFrameTransmit port f s
  | .hartStart hart entry => Sys2Proof.Machine.execHartStart hart entry s
  | .stackLinkError stack retrained => Sys2Proof.Machine.execStackLinkError stack retrained s
  | .bootAreaWrite ofs bytes => Sys2Proof.Machine.execBootAreaWrite ofs bytes s

end Sys2Proof.Machine
end

