-- ==== Sys2Proof/Machine/Idle.lean ====
section
/-! DEFINITION. What time brings while no command waits: accesses and frames that wait leave, Cricket answers what it has received, NET_WAIT counts, and the
always-on counter advances (R18, R255, R262 to R267, R355). -/

namespace Sys2Proof.Machine

/-! ### NET_WAIT (R255) -/

/-- A port holds back its replay buffer: a resend is awaited, or the port trains (R239, R240). -/
def State.holdsBack (s : State) (p : Nat) : Bool :=
  let x := s.port p
  !x.replay.isEmpty && (x.naking || x.fails != 0 || x.training.isSome || !s.inUse p)

/-- The classes in which a command has a packet ready that no port has sent: flits that wait in a port's queue, flits that await a resend, packets to a
module that no port leads to, and far frames that wait at an Ethernet port (R255). -/
def State.waitClasses (s : State) (cmd : Nat × Nat) : List Nat :=
  let queued := s.net.ports.flatMap fun p => (p.2.queue.filter fun q => q.cmd = some cmd).map (·.cls)
  let sent := s.net.unacked.filter fun t => t.cmd = some cmd
  let stuck := (sent.filter fun t => (s.choosePort t.dst (hClass t.hdr)).isNone).map fun t => hClass t.hdr
  let back := (List.range 36).flatMap fun p => if s.holdsBack p then ((s.port p).replay.map flitCls) else []
  let again := (sent.map fun t => hClass t.hdr).filter back.contains
  let far := s.net.farFlows.flatMap fun f =>
    if f.2.unacked.any (fun u => (u.cmd <|> f.2.cmd) = some cmd) && (s.wire.tx.any fun x => x.2.far.any fun q => q.1 = f.2.cls) then [f.2.cls] else []
  (queued ++ stuck ++ again ++ far).dedup

/-- NET_WAIT: a count of time passes for each command with a packet ready that no port has sent, and for its job in the packet's classes (R255). -/
def State.netTick (s : State) : State :=
  let waits := (s.cmd.progs.map fun g => (g, s.waitClasses (g.ring, g.at_))).filter fun w => !w.2.isEmpty
  if waits.isEmpty then s
  else
    s.setCmd { s.cmd with
      progs := s.cmd.progs.map fun g => if waits.any fun w => w.1.ring = g.ring && w.1.at_ = g.at_ then { g with netWait := g.netWait + 1 } else g
      jobs := s.cmd.jobs.mapVals fun i j =>
        let cs := (waits.filter fun w => w.1.ring != adminRing && w.1.ring / 4 = i).flatMap (·.2)
        { j with netWait := cs.foldl (fun m c => m.upd c 0 (· + 1)) j.netWait } }

/-! ### Cricket's receive buffer (R265, R266) -/

/-- Cricket answers a frame that it has received: a neighbour solicitation for an address that it uses, an ICMPv6 echo request, or a UDP request to its status
port; it accepts untagged frames only and nothing else (R266, R267). -/
def State.cricketServe (s : State) (f : Frame) : State :=
  let back := fun (port : Nat) => some (f.srcMac, f.src6.getD 0, port)
  let dst := f.dst6.getD 0
  let kind := if f.next = 58 then beNat (f.upper.take 1) else 0
  let target := BitVec.ofNat 128 (beNat ((f.upper.drop 8).take 16))
  if f.tagged || !f.isIpv6 then s
  else if kind = 135 && s.cricketUses target then s.cricketSend target (back 0) naType (beBytes 6 s.side.mac.toNat)
  else if kind = 128 && s.cricketUses dst then s.cricketSend dst (back 0) echoType (f.upper.drop 4)
  else if f.udpDst = some statusPort && f.udpSumOk && s.cricketUses dst then s.cricketSend dst (back (beNat (f.upper.take 2))) statusPort s.window
  else s

/-- Cricket takes the oldest frame from its receive buffer while it runs. -/
def State.cricketTick (s : State) : State :=
  match s.wire.cricketRx with
  | [] => s
  | f :: rest => if s.i3cAnswers then (s.setWire { s.wire with cricketRx := rest }).cricketServe f else s

/-! ### The tick -/

/-- Accesses that wait leave while the fast clocks run, and frames leave on their ports (R18, R262, R265). -/
def State.wireTick (s : State) : State :=
  let s := if s.clocked then s.sendWants else s
  [0, 1, 2].foldl (fun s p => if p = 2 || s.clocked then s.portPump p else s) s

/-- One tick: the counter advances by one count of 40 ns while 54 V is good; what waits to leave leaves, and what must wait longer has waited for it (R18,
R255, R265, R355; DESIGN CHOICE, log 4). -/
def State.tick (s : State) : State :=
  if s.side.v54 then ((s.setClk { s.clk with counter := s.clk.counter + 1 }).second.cricketTick.wireTick).netTick else s

end Sys2Proof.Machine
end

