-- ==== Sys2Proof/WellFormed.lean ====
section
/-! DEFINITION. The operand ranges of each command: what the sender of a command may name. -/

namespace Sys2Proof

/-- A command is well formed: every operand is in the range that the spec gives the thing it names. -/
def Instr.wf (i : Instr) : Bool :=
  match i with
  | .add k => k < 408
  | .addi k => k < 408
  | .sub k => k < 408
  | .mul k => k < 408
  | .and k => k < 408
  | .or k => k < 408
  | .xor k => k < 408
  | .shl k => k < 408
  | .shr k => k < 408
  | .sra k => k < 408
  | .lih k => k < 408
  | .slt k => k < 408
  | .sltu k => k < 408
  | .beq k => k < 408
  | .bne k => k < 408
  | .blt k => k < 408
  | .bge k => k < 408
  | .jmp k => k < 408
  | .call k => k < 408
  | .ret k => k < 408
  | .getsr k => k < 408
  | .setsr k => k < 408
  | .lds k => k < 408
  | .sts k => k < 408
  | .ldv k => k < 408
  | .stv k => k < 408
  | .ldvc k => k < 408
  | .pld k => k < 408
  | .pst k => k < 408
  | .dma k => k < 408
  | .gcfg k => k < 408
  | .gset k => k < 408
  | .gadv k => k < 408
  | .fadd k => k < 408
  | .fsub k => k < 408
  | .fmul k => k < 408
  | .fma k => k < 408
  | .fmax k => k < 408
  | .fmin k => k < 408
  | .fabs k => k < 408
  | .fneg k => k < 408
  | .frcp k => k < 408
  | .fdiv k => k < 408
  | .fsqrt k => k < 408
  | .fcmp k => k < 408
  | .sel k _ => k < 408
  | .vimm k _ => k < 408
  | .iadd k _ => k < 408
  | .isub k _ => k < 408
  | .iand k _ => k < 408
  | .ior k _ => k < 408
  | .ixor k _ => k < 408
  | .ishl k _ => k < 408
  | .ishr k _ => k < 408
  | .bcast k => k < 408
  | .perm k => k < 408
  | .frsum k => k < 408
  | .frmax k => k < 408
  | .trd k => k < 408
  | .plog k _ => k < 408
  | .pset k _ => k < 408
  | .aldw k => k < 408
  | .amul k => k < 408
  | .aflush k => k < 408
  | .aclr k => k < 408
  | .linit k => k < 408
  | .oread k => k < 408
  | .ovec k => k < 408
  | .swait k => k < 408
  | .spost k => k < 408
  | .eset k => k < 408
  | .eclr k => k < 408
  | .ewait k => k < 408
  | .sgwait k => k < 408
  | .sgadd k => k < 408
  | .dwait k => k < 408
  | .syncFence k => k < 408
  | .restart k => k < 408
  | .endKernel k => k < 408
  | .waitSatisfied k => k < 408
  | .waitTimeout w =>
    match w with
    | .core k => k < 408
    | .launch _ => true
  | .loadComplete k _ => k < 408
  | .dmaComplete k x => k < 408 && x.n < 64
  | .shadowTileLoaded k => k < 408
  | .residueVerdict k _ => k < 408
  | .restartPointCommit k => k < 408
  | .arrayGate k => k < 408
  | .kernelFault k => k < 408
  | .laAddend _ => true
  | .laWriteBack _ => true
  | .translationFill cluster _ page => cluster < 24 && page < 2 ^ 31
  | .doorbell n _ => n ≤ 256
  | .lookAheadRead n => n ≤ 256
  | .commandComplete n at_ => n ≤ 256 && at_ < 2 ^ 32
  | .ringRestart x => x.ring ≤ 256
  | .adminRingOpen _ => true
  | .adminRingClose _ => true
  | .registerWrite _ _ _ => true
  | .nop n => n ≤ 256
  | .jobOpen slot sigBase => slot < 64 && sigBase < 4096
  | .jobClose => true
  | .jobCloseTimeout job => job < 64
  | .jobPriority => true
  | .fence n => n ≤ 256
  | .signal n => n ≤ 256
  | .wait n => n ≤ 256
  | .berthAlloc n _ cluster => n ≤ 256 && cluster < 24
  | .berthFree n => n ≤ 256
  | .berthHint n => n ≤ 256
  | .berthPin n cluster => n ≤ 256 && cluster < 24
  | .berthQuery n => n ≤ 256
  | .berthCopy n => n ≤ 256
  | .berthFill n => n ≤ 256
  | .kernelLoad n _ => n ≤ 256
  | .kernelLaunch n _ => n ≤ 256
  | .kernelAbort n => n ≤ 256
  | .routePlan n => n ≤ 256
  | .dispatch n => n ≤ 256
  | .combine n => n ≤ 256
  | .combineGrad n => n ≤ 256
  | .dispatchGrad n => n ≤ 256
  | .expertMap n => n ≤ 256
  | .scaleAgree n => n ≤ 256
  | .reduce n => n ≤ 256
  | .gather n => n ≤ 256
  | .broadcast n => n ≤ 256
  | .permute n => n ≤ 256
  | .barrier n => n ≤ 256
  | .stashPut n => n ≤ 256
  | .stashGet n => n ≤ 256
  | .prefetch n _ => n ≤ 256
  | .poolCreate n _ _ => n ≤ 256
  | .poolQuota n => n ≤ 256
  | .unbind n => n ≤ 256
  | .poolStatus n => n ≤ 256
  | .powerCap => true
  | .clockMode => true
  | .energyRead n => n ≤ 256
  | .clusterStateRead => true
  | .clusterStateGate => true
  | .clusterStateWake => true
  | .clusterStateAutomatic => true
  | .healthRead n => n ≤ 256
  | .fuseRow => true
  | .fuseCol => true
  | .spareCore => true
  | .restoreSpare x => x.row < 256 && x.col < 256
  | .pprCommit => true
  | .retirePc => true
  | .retireStack => true
  | .retireCluster => true
  | .resetCluster => true
  | .patrol n => n ≤ 256
  | .faultInject => true
  | .cablePlan => true
  | .linkStatus n => n ≤ 256
  | .windowGrant n => n ≤ 256
  | .windowChange n => n ≤ 256
  | .windowRevoke n => n ≤ 256
  | .windowRead n => n ≤ 256
  | .addFarEndpoint n => n ≤ 256
  | .removeFarEndpoint n => n ≤ 256
  | .digest n => n ≤ 256
  | .checkValue n => n ≤ 256
  | .stepRecord n => n ≤ 256
  | .attest n => n ≤ 256
  | .ledgerRead => true
  | .calendarSet => true
  | .fwStage => true
  | .fwActivate => true
  | .fwQuiescent => true
  | .fwActivateTimeout => true
  | .firmwareResume => true
  | .backpressureEnd n => n ≤ 256
  | .backpressureWaitLimit n => n ≤ 256
  | .quayMismatch _ => true
  | .openMarker job plan src _ => job < 64 && plan < 65536 && src < 128
  | .candidateRecord job _ pos => job < 64 && pos < 2 ^ 17
  | .endMarker job plan src _ _ _ => job < 64 && plan < 65536 && src < 128
  | .verdictRecord job plan src _ => job < 64 && plan < 65536 && src < 128
  | .finalVerdict job plan src _ => job < 64 && plan < 65536 && src < 128
  | .planStageTimeout job plan => job < 64 && plan < 65536
  | .rowRecord job src _ _ _ => job < 64 && src < 128
  | .returnRecord job src _ _ _ => job < 64 && src < 128
  | .exchangeTimeout job plan => job < 64 && plan < 65536
  | .contribution job shard _ tag _ _ => job < 64 && shard < 256 && tag < 65536
  | .deadline job tag _ => job < 64 && tag < 65536
  | .arrivalMask job tag _ shard _ _ => job < 64 && tag < 65536 && shard < 256
  | .shardSuccession job tag _ shard => job < 64 && tag < 65536 && shard < 256
  | .resultShard job tag _ shard _ _ _ _ => job < 64 && tag < 65536 && shard < 256
  | .resultShardTimeout job tag => job < 64 && tag < 65536
  | .collectiveMessage job opcode tag src _ => job < 64 && opcode < 65536 && tag < 65536 && src < 256
  | .collectiveTimeout job opcode tag => job < 64 && opcode < 65536 && tag < 65536
  | .flitReceive port f => port < 36 && f.payload.length = 244
  | .flitResend port => port < 36
  | .laneFailure port lane => port < 36 && lane < 4
  | .portRetrained port => port < 36
  | .cablingExchange port _ farPort => port < 36 && farPort < 256
  | .noPeer port => port < 36
  | .flitErrorRatio port _ _ => port < 36
  | .portShutdown port => port < 36
  | .write p => p.port < 36 && p.payload.length ≤ 4096
  | .readRequest p => p.port < 36 && p.payload.length ≤ 4096
  | .readResponse p => p.port < 36 && p.payload.length ≤ 4096
  | .accumulate p => p.port < 36 && p.payload.length ≤ 4096
  | .message p => p.port < 36 && p.payload.length ≤ 4096
  | .acknowledge p => p.port < 36 && p.payload.length ≤ 4096
  | .negativeAcknowledge p => p.port < 36 && p.payload.length ≤ 4096
  | .transportResend dst flow _ => dst < 128 && flow < 2 ^ 18
  | .heartbeat p => p.port < 36 && p.payload.length ≤ 4096
  | .heartbeatSend => true
  | .peerAbsent m => m < 128
  | .grantMirror src window _ => src < 512 && window < 4096
  | .shootdown _ page => page < 2 ^ 31
  | .farPacket p => p.hdr.length = 64 && p.payload.length ≤ 8192
  | .farOpen p => p.hdr.length = 64 && p.payload.length ≤ 8192
  | .farClose p => p.hdr.length = 64 && p.payload.length ≤ 8192
  | .farResend flow => flow < 2 ^ 18
  | .farRateRaise flow => flow < 2 ^ 18
  | .farProbe ep => ep < 256
  | .farEndpointAbsent ep => ep < 256
  | .ethernetFrame port f => port < 3 && f.bytes.length ≤ 9216
  | .neighbourDiscovery _ => true
  | .icmpv6Echo _ _ => true
  | .statusRequest _ udpPort => udpPort < 65536
  | .routerAdvertisement _ _ => true
  | .duplicateAddressDetection _ _ => true
  | .placementEpoch _ => true
  | .pageCopyComplete berth page => 0 < berth && berth < 32768 && page < 2 ^ 31
  | .shootdownComplete berth page => 0 < berth && berth < 32768 && page < 2 ^ 31
  | .oldFrameRelease berth page => 0 < berth && berth < 32768 && page < 2 ^ 31
  | .unitEmptied _ => true
  | .tugFetchComplete cluster _ _ => cluster < 24
  | .stashGetTransfer n at_ => n ≤ 256 && at_ < 2 ^ 32
  | .stashAcknowledged n at_ => n ≤ 256 && at_ < 2 ^ 32
  | .predictorUpdate job layer expert blocks _ => job < 64 && layer < 4096 && expert < 4096 && 0 < blocks
  | .hbmRefresh stack pc bank => stack < 16 && pc < 64 && bank < 64
  | .scarabRead stack _ => stack < 16
  | .sramPatrolRead _ _ _ => true
  | .sequencerMismatch x => x.core < 408
  | .replayResume _ core => core < 408
  | .coreSelfTest core _ _ _ => core < 408
  | .thinPathSelfTest cluster _ => cluster < 24
  | .controlMismatch _ _ => true
  | .harbourmasterPairMismatch pair _ => pair < 8
  | .cricketMismatch _ => true
  | .scanReadoutComplete cluster _ => cluster < 24
  | .drainTimeout cluster => cluster < 24
  | .clusterSelfTest cluster _ => cluster < 24
  | .fillerPreemptTimeout core => core < 408
  | .watchdogReport _ => true
  | .firmwareHang => true
  | .supplyTrip => true
  | .tripRecovery => true
  | .thermalTrip => true
  | .governorTick _ _ => true
  | .clampCheck _ => true
  | .clampAdopt => true
  | .droopStretch _ => true
  | .stretchRelease _ => true
  | .energyInterval _ _ => true
  | .clusterAutoGate cluster => cluster < 24
  | .thinPathGate cluster => cluster < 24
  | .shutdownComplete _ => true
  | .clusterWake cluster _ => cluster < 24
  | .enableComplete _ => true
  | .recharDue => true
  | .recharacterisation cluster trim _ => cluster < 24 && trim ≤ 60
  | .ledgerSnapshot => true
  | .ledgerEventWrite => true
  | .powerGood _ _ => true
  | .powerLost => true
  | .pwrEnAssert => true
  | .pwrEnDeassert => true
  | .resetNAssert => true
  | .resetNRelease => true
  | .orderlyShutdownComplete => true
  | .stageCricket _ => true
  | .stagePierFirmware _ _ trim => trim ≤ 60
  | .stageHbm _ => true
  | .stageDieLinks _ => true
  | .stageClusters _ _ _ => true
  | .stageFabric => true
  | .stageOperatingSystem => true
  | .stage7Timeout => true
  | .ready _ => true
  | .entdaa _ => true
  | .setdasa _ _ => true
  | .rstdaa => true
  | .getpid => true
  | .getbcr => true
  | .getdcr => true
  | .getstatus => true
  | .setmwl _ => true
  | .setmrl _ => true
  | .getmwl => true
  | .getmrl => true
  | .windowPointerWrite bytes => 2 ≤ bytes.length
  | .privateRead _ => true
  | .attnCause _ => true
  | .recover _ => true
  | .exit _ => true
  | .loaderLen _ => true
  | .loaderData bytes => bytes.length ≤ 256
  | .imageCheck => true
  | .envelopeExcursion vin _ => vin < 65536
  | .addressLockWrite port l => port < 3 && l.ips.length ≤ 8 && l.vlans.length ≤ 64
  | .osFrameTransmit port f => port < 3 && f.queue < 64 && f.frame.bytes.length ≤ 9216
  | .hartStart hart _ => hart < 32
  | .stackLinkError stack _ => stack < 16
  | .bootAreaWrite _ _ => true

end Sys2Proof
end

