-- ==== Sys2Proof/Safety.lean ====
section
/-! DEFINITION. What counts as a safe step, the invariant of the machine, and the words in which statements about commands are made. -/

namespace Sys2Proof.Machine

/-! ### Steps -/

/-- A step that goes on: neither a fault nor a refusal. -/
def State.Safe (s : State) : Prop := ∃ t, step s = .next t

/-- A command answers a next state of which `P` holds. -/
def Answers (o : Host.Outcome State Fault Refusal) (P : State → Prop) : Prop := ∃ t, o = .next t ∧ P t

/-- The invariant: memory is in canonical form, the module keeps at most 4,096 fault events (R313), the Ledger's areas hold at most 5,461 and
10,922 events (R370), reserved bits of ATTN_MASK read 0 (R404), and the instances are listed by rising number. -/
def State.Inv (s : State) : Prop :=
  s.mem.wf = true ∧ s.health.events.length ≤ 4096 ∧ s.ledger.perm.length ≤ 5461 ∧ s.ledger.ord.length ≤ 10922 ∧ s.side.attnMask &&& ~~~0x7F#32 = 0 ∧
    (s.comp.insts.map (·.1)).Pairwise (· < ·)

/-! ### Frames -/

/-- The components of the state that frames speak of: all but the queue, and `wire`, what waits to leave the module, to which any access outside the module may
add (R18, R118). -/
inductive Part where
  | clk | side | ledger | chip | comp | mem | place | cmd | quay | exch | coll | net | health | out | free
  deriving DecidableEq, Repr

/-- Two states agree on a component. -/
def State.same (p : Part) (s t : State) : Prop :=
  match p with
  | .clk => t.clk = s.clk
  | .side => t.side = s.side
  | .ledger => t.ledger = s.ledger
  | .chip => t.chip = s.chip
  | .comp => t.comp = s.comp
  | .mem => t.mem = s.mem
  | .place => t.place = s.place
  | .cmd => t.cmd = s.cmd
  | .quay => t.quay = s.quay
  | .exch => t.exch = s.exch
  | .coll => t.coll = s.coll
  | .net => t.net = s.net
  | .health => t.health = s.health
  | .out => t.out = s.out
  | .free => t.free = s.free

/-- The queue, and every component but those listed, are as they were; what waits to leave the module is not among them. -/
def State.only (ps : List Part) (s t : State) : Prop := t.pending = s.pending ∧ ∀ p, p ∉ ps → State.same p s t

/-- Every byte of memory outside the `n` bytes from key `k` reads as it did. -/
def State.bytesBut (k n : Nat) (s t : State) : Prop := ∀ a, (a < k ∨ k + n ≤ a) → cellGet t.mem.cells a = cellGet s.mem.cells a

/-- Every byte of memory reads as it did. -/
def State.bytesSame (s t : State) : Prop := ∀ a, cellGet t.mem.cells a = cellGet s.mem.cells a

/-! ### Slots of a wide core -/

/-- Slot `sl` of core `k`'s bundle holds `op`, may take effect now, and the bundle raises no precise fault (R90, R91, R111). -/
def State.issues (s : State) (k sl op : Nat) : Bool := s.mayIssue k sl op && (s.newFault k).isNone

/-- What the slots of core `k` leave alone: every other core, every byte of memory, and every component but those that fetching the next bundle
may find errors in (R91, R145); where memory holds no error not yet found, every component but the compute side. -/
def State.slotFrame (k : Nat) (s t : State) : Prop :=
  (∀ j, j ≠ k → t.coreOf j = s.coreOf j) ∧ s.bytesSame t ∧ s.only [.comp, .mem, .health, .ledger, .chip, .cmd] t ∧
    (s.mem.errors = [] → s.only [.comp] t)

/-- The compute side is as it was but for the cores. -/
def State.compKept (s t : State) : Prop := t.comp = { s.comp with cores := t.comp.cores }

/-- A core without what the issue of bundles keeps: the bundle index, the bundle's sources, the slots taken, the branch target, the wait, and a
fault, which the next bundle's fetch may have raised. -/
def Core.bare (c : Core) : Core := { c with pc := 0, snap := none, taken := 0, target := none, waiting := none, fault := none }

/-- Core `d` is core `c` but for what the issue of bundles keeps. -/
def Core.issued (c d : Core) : Prop := d.bare = c.bare

/-- A core with other registers. -/
def Core.withRegs (c : Core) (r : Regs) : Core := { c with regs := r }

/-- A slot of core `k` made its core `c`, and nothing else changed. -/
def State.slotMakes (s : State) (k : Nat) (c : Core) (t : State) : Prop := c.issued (t.coreOf k) ∧ s.compKept t ∧ s.slotFrame k t

/-- A slot of core `k` made its core `c`; free values may have been consumed, and errors found. -/
def State.slotFreely (s : State) (k : Nat) (c : Core) (t : State) : Prop :=
  c.issued (t.coreOf k) ∧ s.compKept t ∧ (∀ j, j ≠ k → t.coreOf j = s.coreOf j) ∧ s.bytesSame t ∧
    s.only [.comp, .mem, .health, .ledger, .chip, .cmd, .free] t

/-- No instance waits to start. -/
def State.noneWaiting (s : State) : Prop := ∀ e ∈ s.comp.insts, e.2.st ≠ .waiting ∧ (e.2.st = .suspended → s.mainLaunch e.2.launch = false)

/-- Slot `sl` is the only slot of core `k`'s bundle still to take effect. -/
def State.lastSlot (s : State) (k sl : Nat) : Prop :=
  ∃ b, s.bundle k = some b ∧ ∀ x ∈ activeSlots b, x = sl ∨ (s.coreOf k).taken.getLsbD x = true

/-- Where core `k` goes on from bundle index `pc`: the next bundle that holds an operation. -/
def State.seekFrom (s : State) (k pc : Nat) : Nat := (seek (((s.kernelOf k).map (·.image)).getD []) 4097 pc).1

/-- After slot `sl`, with the branch target `tgt`: a bundle whose slots have all taken effect goes on at the target, or at the next bundle; any
other stands, and keeps the target (R91). -/
def State.goesOn (s : State) (k sl : Nat) (tgt : Option Nat) (t : State) : Prop :=
  (s.lastSlot k sl → (t.coreOf k).pc = s.seekFrom k (tgt.getD ((s.coreOf k).pc + 1))) ∧
    (¬ s.lastSlot k sl → (t.coreOf k).pc = (s.coreOf k).pc ∧ (t.coreOf k).target = tgt)

/-- No record of a long-accumulator entry in use that meets the `n` bytes from a key holds byte `a`. -/
def State.offRecords (s : State) (key n a : Nat) : Prop := ∀ e ∈ s.comp.las, recordMeets e.1 key n = true → a < e.1 ∨ e.1 + 48 ≤ a

/-- What a read or a write of `n` bytes from a key, by a slot of core `k`, leaves alone: every other core, and every component but those that
translation, placement, heat and errors found touch. -/
def State.accessFrame (k : Nat) (s t : State) : Prop :=
  (∀ j, j ≠ k → t.coreOf j = s.coreOf j) ∧
    t.comp = { s.comp with cores := t.comp.cores, las := t.comp.las } ∧
    s.only [.comp, .mem, .health, .ledger, .chip, .cmd, .place, .net, .free] t

/-- A load: its command, its opcode, the kind of its register, the register's number, the bytes it reads, the lanes it loads, and the value it
makes of the bytes. -/
structure LoadRow where
  cmd : Nat → Instr
  op : Nat
  kind : Nat
  reg : Nat → Nat
  n : Nat → Nat
  lanes : Regs → Nat → BitVec 128
  f : Nat → List Byte → BitVec 4096

/-- A store: its command, its opcode, and the bytes it stores, an absent byte being left as it is. -/
structure StoreRow where
  cmd : Nat → Instr
  op : Nat
  bytes : Regs → Nat → List (Option Byte)

/-- The row's destination in an out-path operation that writes plain rows. -/
def outRowKey (k bits : Nat) (r : Regs) (row : Nat) : Nat :=
  spanKey k (genHandle (r.gr (fld bits 52 50))) (genAddr (r.gr (fld bits 52 50)) + (row : Int) * genStride0 (r.gr (fld bits 52 50))).toNat

/-- Byte `a` stands outside what an out-path operation writes, and outside the records that its stores write back. -/
def State.offOutput (s : State) (k op bits : Nat) (r : Regs) (a : Nat) : Prop :=
  if outCompressed bits = true then
    ∀ n, n = (compressRows (outCfg r bits).fmt (outCfg r bits).cols (s.outRows k op bits r)).length →
      (a < outRowKey k bits r 0 ∨ outRowKey k bits r 0 + n ≤ a) ∧ s.offRecords (outRowKey k bits r 0) n a
  else ∀ i < outRowCount op bits, (a < outRowKey k bits r i ∨ outRowKey k bits r i + 1032 ≤ a) ∧ s.offRecords (outRowKey k bits r i) 1032 a

/-- The generators after an access: G advanced when ADV is set (R93). -/
def advanced (bits : Nat) (r : Regs) : Regs := if flag bits 51 then r.setG (fld bits 66 64) (genAdvance (r.gr (fld bits 66 64))) else r

/-- A command that one slot of a core's bundle holds, with the slot and the opcode. -/
structure SlotRow where
  cmd : Nat → Instr
  slot : Nat
  op : Nat

/-- An operation of the scalar slot: its command, its opcode, and what it writes from sa, sb and the immediate. -/
structure ScalarRow where
  cmd : Nat → Instr
  op : Nat
  f : W64 → W64 → W64 → W64

/-- A branch: its command, its opcode, and when it is taken. -/
structure BranchRow where
  cmd : Nat → Instr
  op : Nat
  f : W64 → W64 → Bool

/-- An operation of a vector slot: its command, its slot, its opcode, and what lane i receives from the registers and the slot's bits. -/
structure LaneRow where
  cmd : Nat → Instr
  slot : Nat
  op : Nat
  f : Regs → Nat → Nat → W32

/-- A lane-wise operation of va, vb and vc. -/
def lanes3 (f : W32 → W32 → W32 → W32) (r : Regs) (bits i : Nat) : W32 :=
  f (lane (r.vr (fld bits 58 54)) i) (lane (r.vr (fld bits 53 49)) i) (lane (r.vr (fld bits 48 44)) i)

/-! ### Command packets -/

/-- `n` bytes from a key hold no poisoned block and no latent error. -/
def Mem.clean (m : Mem) (key n : Nat) : Bool := !m.poisoned key n && m.errors.all fun e => !touches key n e.1

/-- The oldest packet of ring `n` is `p`, which is read clean, picked, accepted and refused for no reason, and meets no back-pressure; no command
in progress stands at its offset (R274, R278 to R286). -/
def State.takes (s : State) (n : Nat) (p : Pkt) (sel : Pkt → Bool) (bads : Pkt → State → List Bad) : Prop :=
  s.packet n = some p ∧ sel p = true ∧ s.acceptable p = true ∧ s.refusal p bads = none ∧ s.backpressured p = false ∧ (s.ring n).bpSince = none ∧
    s.mem.clean (sysKey ((s.ring n).addr (s.ring n).head)) p.bytes.length = true ∧ s.prog n p.at_ = none

/-- The same, but the packet is refused, with a status and a DETAIL. -/
def State.refuses (s : State) (n : Nat) (p : Pkt) (sel : Pkt → Bool) (bads : Pkt → State → List Bad) (b : Bad) : Prop :=
  s.packet n = some p ∧ sel p = true ∧ s.acceptable p = true ∧ s.refusal p bads = some b ∧ (s.ring n).bpSince = none ∧
    s.mem.clean (sysKey ((s.ring n).addr (s.ring n).head)) p.bytes.length = true ∧ s.prog n p.at_ = none

/-- The outcome of the command in progress at an offset of a ring. -/
def State.outcomeAt (s : State) (n at_ : Nat) : Option Outc := (s.prog n at_).bind (·.outcome)

/-- The command in progress there is done, with results. -/
def State.doneAt (s : State) (n at_ : Nat) (rs : List W64) : Prop := s.outcomeAt n at_ = some { status := 0, note := 0, detail := 0, results := rs }

/-- A packet command of ring `n` answers a state; before the header of the ring's next packet is checked (R283), `P` holds of it. -/
def Takes (o : Host.Outcome State Fault Refusal) (n : Nat) (P : State → Prop) : Prop := ∃ u, o = .next (u.checkHead n) ∧ P u

/-- The command side is as the packet's acceptance left it, but for what stands with the packet's own command in progress (R277, R278). -/
def State.inProgress (s : State) (p : Pkt) (u : State) : Prop :=
  u.cmd = { (s.accept p).cmd with progs := u.cmd.progs } ∧
    ∃ g : Prog, u.cmd.progs = s.cmd.progs ++ [g] ∧ g.ring = p.ring ∧ g.at_ = p.at_ ∧ g.hdr = p.hdr ∧ g.words = p.words ∧ g.acceptedAt = s.now

/-- The packet's command has completed, with results, and nothing of the command side but its own place changed. -/
def State.completes (s : State) (p : Pkt) (rs : List W64) (u : State) : Prop := s.inProgress p u ∧ u.doneAt p.ring p.at_ rs

/-- A packet row: its command for a ring, which packets are its own, and what refuses them. -/
structure PacketRow where
  cmd : Nat → Instr
  sel : Pkt → Bool
  bads : Pkt → State → List Bad

/-- Only ring `n`, of the command side and of everything else, changed. -/
def State.ringOnly (n : Nat) (s t : State) : Prop :=
  s.only [.cmd] t ∧ t.cmd = { s.cmd with rings := t.cmd.rings } ∧ ∀ m, m ≠ n → t.ring m = s.ring m

/-- One packet left for a module: it is kept until it is acknowledged, for a command of a ring where one waits for it, and it stands in the output,
before the flits that carry it (R248, R251). -/
def State.sends (s : State) (dst : Nat) (o : Out) (cmd : Option (Nat × Nat)) (u : State) : Prop :=
  (∃ x : TxPkt, u.net.unacked = s.net.unacked ++ [x] ∧ x.dst = dst ∧ x.msg = some o ∧ x.cmd = cmd ∧ x.sentAt = s.now) ∧
    ∃ flits, u.out = flits ++ o :: s.out

/-- Every ring but some is as it was. -/
def State.ringsBut (ns : List Nat) (s t : State) : Prop := ∀ m, m ∉ ns → t.ring m = s.ring m

/-- Every job but one is as it was. -/
def State.jobsBut (j : Nat) (s t : State) : Prop := ∀ i, i ≠ j → t.cmd.jobs.get? i = s.cmd.jobs.get? i

/-- A named field of a job. -/
def State.jobIs (s : State) (j : Nat) (P : Job → Prop) : Prop := ∃ x, s.cmd.jobs.get? j = some x ∧ P x

/-- What a module reset of a cause leaves (R338): the cause and the incarnation it was recorded under are kept and the reset cause is raised; every
volatile component is as at reset; of memory the flash alone is kept, and of the networks the configuration in flash. -/
def State.resets (s : State) (cause : Nat) (t : State) : Prop :=
  t.side.resetCause = cause ∧ t.side.resetInc = s.ledger.inc + 1 ∧ t.side.attnCause.getLsbD 5 = true ∧ t.side.ready = false ∧ t.side.pg = false ∧ t.side.harts = 0 ∧
    t.comp = Comp.init ∧ t.place = Place.init ∧ t.cmd = Cmd.init ∧ t.quay = Quay.init ∧ t.exch = Exch.init ∧ t.coll = Colls.init ∧ t.health = Health.init ∧
    t.net = { Net.init with plan := s.net.plan, farPort := s.net.farPort, farShare := s.net.farShare } ∧ t.wire = s.wire.afterReset ∧ t.mem.poison = [] ∧ t.mem.errors = [] ∧
    (s.mem.wf = true → ∀ a, cellGet t.mem.cells a = if flashKey 0 ≤ a ∧ a < flashKey (2 ^ 48) then cellGet s.mem.cells a else 0) ∧
    t.chip.cap = 3200 ∧ t.chip.step = 0 ∧ t.chip.energy = 0 ∧ t.chip.enMask = s.chip.enMask ∧ t.chip.gradeB = s.chip.gradeB ∧ t.clk = s.clk ∧ t.pending = s.pending

/-- A start-up may begin (R372): 54 V is good, PWR_EN asserted, RESET_N released, no trip holds the module, no shut-down runs, and stage 1 is complete. -/
def State.mayStart (s : State) : Prop :=
  s.side.v54 = true ∧ s.side.pwrEn = true ∧ s.side.resetN = false ∧ s.side.supplyHeld = false ∧ s.side.shutting = false ∧ s.side.stageDone.getLsbD 1 = true

/-! ### Transport -/

/-- A transport packet of a TYPE that a present peer sends here, with the payload that its LEN says. -/
def State.heardFrom (s : State) (typ : Nat) (p : TPacket) : Prop :=
  hType p.hdr = typ ∧ s.fromPeer p = true ∧ hLen p.hdr ≤ 4096 ∧ p.payload.length = (if typ = 2 then 0 else hLen p.hdr)

/-- One answer left for a packet's source, of a TYPE, with a PSN and a reason; what else left are the flits that carry it. -/
def State.answers (s : State) (p : TPacket) (typ : Nat) (psn : BitVec 24) (reason : Nat) (t : State) : Prop :=
  ∃ fl a, t.out = fl ++ .packet a [] :: s.out ∧ hType a = typ ∧ hPsn a = psn ∧ hAddr a = BitVec.ofNat 64 reason ∧ hDst a = hSrc p.hdr ∧ hFlow a = hFlow p.hdr ∧ (∀ o ∈ fl, ∃ q f, o = .flit q f)

/-- A far packet that passes every check of its header, source and payload, from an endpoint of the table whose incarnation was never declared absent (R260, R261). -/
def State.farHeard (s : State) (p : FarPkt) (ep : Nat) (e : FarEp) : Prop :=
  s.farReady p = true ∧ BitVec.ofNat 32 (farField p 60 4) = crc32c (p.hdr.take 60) ∧ p.udpOk = true ∧ farField p 0 1 = 1 ∧ p.udpPort = s.net.farPort ∧ s.farSource p = some (ep, e) ∧
    e.fp.toNat = farField p 16 8 ∧ farInc p ∉ e.dead ∧ BitVec.ofNat 32 (farField p 52 4) = crc32c p.payload

/-- The state after a far packet made its endpoint present. -/
def State.farSeen (s : State) (p : FarPkt) (ep : Nat) (e : FarEp) : State :=
  s.setNet { s.net with farEps := s.net.farEps.put ep { e with present := true, inc := farInc p, lastAt := s.now } }

end Sys2Proof.Machine
end

