-- ==== Sys2Proof/Certificates/Slice0/Obligations.lean ====
section
/-! DEFINITION. The statements for the provers, family by family: what each command does in the states where the spec lets it run, what it
leaves unchanged, and the invariant that every step keeps. -/

open Sys2Proof Sys2Proof.Machine

/-! ### Steps and the whole machine -/

/-- A step with a command at the front of the queue is that command's effect on the state with the queue's rest. -/
def Obligations.StepRunsFront : Prop :=
  ∀ (s : State) (c : Instr) (rest : List Instr), s.pending = c :: rest → step s = exec c (s.setPending rest)

/-- No command ends in a fault or a refusal, and none changes the queue. -/
def Obligations.EveryCommandAnswers : Prop := ∀ (c : Instr) (s : State), Answers (exec c s) fun t => t.pending = s.pending

/-- Every step keeps the invariant: memory's canonical form, the bounds of the fault events and of the Ledger's areas, the reserved bits of ATTN_MASK, and the order of the
instances. -/
def Obligations.StepKeepsInv : Prop := ∀ s t : State, s.Inv → step s = .next t → t.Inv

/-- The state right after reset has the invariant. -/
def Obligations.ResetHasInv : Prop := State.reset.Inv

/-! ### The scalar and branch slot -/

/-- The arithmetic of the scalar slot: each operation writes its result to sd, where s0 discards it, and changes nothing else of its core. s0 reads 0 and p0 reads all ones,
whatever is written to them. -/
def Obligations.ScalarAndHardwired : Prop :=
  (∀ (s : State) (k : Nat), ∀ r ∈ ([⟨.add, 1, fun a b _ => a + b⟩, ⟨.addi, 2, fun a _ i => a + i⟩, ⟨.sub, 3, fun a b _ => a - b⟩,
      ⟨.mul, 4, fun a b _ => BitVec.ofNat 64 (a.toNat * b.toNat)⟩, ⟨.and, 5, fun a b _ => a &&& b⟩, ⟨.or, 6, fun a b _ => a ||| b⟩,
      ⟨.xor, 7, fun a b _ => a ^^^ b⟩, ⟨.shl, 8, fun a b _ => a <<< (b.toNat % 64)⟩, ⟨.shr, 9, fun a b _ => a >>> (b.toNat % 64)⟩,
      ⟨.sra, 10, fun a b _ => a.sshiftRight (b.toNat % 64)⟩, ⟨.lih, 11, fun a _ i => (i <<< 32) ||| (a.setWidth 32).setWidth 64⟩,
      ⟨.slt, 12, fun a b _ => if a.toInt < b.toInt then 1 else 0⟩, ⟨.sltu, 13, fun a b _ => if a.toNat < b.toNat then 1 else 0⟩] :
      List ScalarRow),
    s.issues k 6 r.op = true → Answers (exec (r.cmd k) s) fun t =>
      s.slotMakes k ((s.coreOf k).withRegs ((s.coreOf k).regs.setS (fld (s.bits k 6) 55 51)
        (r.f ((s.src k).sr (fld (s.bits k 6) 50 46)) ((s.src k).sr (fld (s.bits k 6) 45 41)) ((BitVec.ofNat 32 (fld (s.bits k 6) 31 0)).signExtend 64)))) t ∧
      s.goesOn k 6 (s.coreOf k).target t) ∧
  (∀ (r : Regs) (v : W64) (p : BitVec 128), (r.setS 0 v).sr 0 = 0 ∧ r.sr 0 = 0 ∧ r.setS 0 v = r ∧ r.pr 0 = BitVec.allOnes 128 ∧ r.setP 0 p = r ∧
    ∀ i, i ≠ 0 → (r.setS i v).sr i = v ∧ (r.setP i p).pr i = p ∧ ∀ j, j ≠ i → (r.setS i v).sr j = r.sr j ∧ (r.setP i p).pr j = r.pr j)

/-- Branches: taken when their condition holds of sa and sb, to this bundle plus the immediate, after the bundle; no register changes. A branch target is this bundle plus the
sign-extended immediate; a sum below bundle 0 lies beyond every image. CALL pushes this bundle plus one and jumps; RET pops the return stack and continues there. -/
def Obligations.ControlFlow : Prop :=
  (∀ (s : State) (k : Nat), ∀ r ∈ ([⟨.beq, 16, fun a b => a == b⟩, ⟨.bne, 17, fun a b => a != b⟩, ⟨.blt, 18, fun a b => decide (a.toInt < b.toInt)⟩,
      ⟨.bge, 19, fun a b => decide (b.toInt ≤ a.toInt)⟩, ⟨.jmp, 20, fun _ _ => true⟩] : List BranchRow),
    s.issues k 6 r.op = true → Answers (exec (r.cmd k) s) fun t =>
      s.slotMakes k (s.coreOf k) t ∧
      s.goesOn k 6 (if r.f ((s.src k).sr (fld (s.bits k 6) 50 46)) ((s.src k).sr (fld (s.bits k 6) 45 41)) = true
        then some (branchTarget (s.coreOf k).pc (s.bits k 6)) else (s.coreOf k).target) t) ∧
  (∀ pc bits : Nat, ∀ d : Int, d = (BitVec.ofNat 32 (fld bits 31 0)).toInt →
    (0 ≤ (pc : Int) + d → (branchTarget pc bits : Int) = pc + d) ∧ ((pc : Int) + d < 0 → branchTarget pc bits = 4096)) ∧
  ((∀ (s : State) (k : Nat), s.issues k 6 0x15 = true → Answers (exec (.call k) s) fun t =>
    s.slotMakes k { s.coreOf k with stack := BitVec.ofNat 12 ((s.coreOf k).pc + 1) :: (s.coreOf k).stack } t ∧
    s.goesOn k 6 (some (branchTarget (s.coreOf k).pc (s.bits k 6))) t) ∧
  (∀ (s : State) (k : Nat) (a : BitVec 12) (rest : List (BitVec 12)), s.issues k 6 0x16 = true → (s.coreOf k).stack = a :: rest →
    Answers (exec (.ret k) s) fun t => s.slotMakes k { s.coreOf k with stack := rest } t ∧ s.goesOn k 6 (some a.toNat) t))

/-- GETSR reads each special register, and SETSR clears the bits of a tile's status that are set in sa; a call on a full return stack, a return on an empty one, and a SETSR
of any other register raise their faults, and the slot has no effect. CYCLES and the numbers that the table does not assign read some value. -/
def Obligations.SpecialRegisters : Prop :=
  (∀ (s : State) (k : Nat) (i : Inst), s.issues k 6 0x18 = true → s.instOf k = some i →
    Answers (exec (.getsr k) s) fun t => ∃ v : W64,
      s.slotFreely k ((s.coreOf k).withRegs ((s.coreOf k).regs.setS (fld (s.bits k 6) 55 51) v)) t ∧
      ∀ x ∈ [(0, BitVec.ofNat 64 i.index), (1, BitVec.ofNat 64 (((s.launchOf k).map (·.total)).getD 0)), (2, BitVec.ofNat 64 i.rank),
          (3, BitVec.ofNat 64 i.groupSize), (4, ((s.jobOf k).map (·.step)).getD 0), (6, BitVec.ofNat 64 i.unit_), (7, BitVec.ofNat 64 i.units),
          (8, BitVec.ofNat 64 i.rowFirst), (9, BitVec.ofNat 64 i.rowCount), (10, BitVec.ofNat 64 i.runFirst)] ++
          (List.range 8).map (fun j => (16 + j, (((s.coreOf k).tiles.getD j Tile.init).status).setWidth 64)),
        fld (s.bits k 6) 11 0 = x.1 → v = x.2) ∧
  (∀ (s : State) (k j : Nat), s.issues k 6 0x19 = true → j < 8 → fld (s.bits k 6) 11 0 = 16 + j → Answers (exec (.setsr k) s) fun t =>
    s.slotMakes k ((s.coreOf k).updTile j fun x => { x with status := x.status &&& ~~~((s.src k).sr (fld (s.bits k 6) 50 46)).setWidth 32 }) t) ∧
  (∀ (s : State) (k : Nat) (b : BitVec 512), (s.coreOf k).snap = none → s.bundle k = some b →
    (∀ sl < 6, slotActive b sl = true → s.slotFault k sl (slotOp b sl) (slotBits b sl) (s.coreOf k).regs = none) →
    (s.mayIssue k 6 0x15 = true → 16 ≤ (s.coreOf k).stack.length →
      exec (.call k) s = .next (s.raise k ⟨3, 6, true, (s.coreOf k).pc % 4096, 0⟩)) ∧
    (s.mayIssue k 6 0x16 = true → (s.coreOf k).stack = [] → exec (.ret k) s = .next (s.raise k ⟨1, 6, true, (s.coreOf k).pc % 4096, 0⟩)) ∧
    (s.mayIssue k 6 0x19 = true → (fld (s.bits k 6) 11 0 < 16 ∨ 23 < fld (s.bits k 6) 11 0) →
      exec (.setsr k) s = .next (s.raise k ⟨1, 6, true, (s.coreOf k).pc % 4096, 0⟩)))

/-! ### The load/store slot -/

/-- Loads: while fewer than 32 are outstanding and the page's accesses are not held, LDS, LDV, LDVC and PLD take their bytes as memory and the long accumulators hold them,
and queue the register's write; G advances when ADV is set, and no other register changes. Stores: STS, STV and PST write their bytes at the slot's address and leave
every other byte, a long-accumulator record that they meet being written back first; G advances when ADV is set, and no other register changes. DMA queues its copy under
its tag, which is no longer complete, and advances G and G2 when ADV is set. -/
def Obligations.MemorySlots : Prop :=
  (∀ (s : State) (k : Nat), ∀ r ∈ ([⟨.lds, 1, 0, fun b => fld b 71 67, fun _ => 8, fun _ _ => 0, fun _ b => BitVec.ofNat 4096 (leNat b)⟩,
      ⟨.ldv, 3, 1, fun b => fld b 71 67, fun _ => 512, fun g b => g.pr (fld b 60 57), fun _ b => BitVec.ofNat 4096 (leNat b)⟩,
      ⟨.ldvc, 5, 1, fun b => fld b 71 67, fun b => ldvcBytes (fld b 56 53), fun _ _ => BitVec.allOnes 128,
        fun x b => ofLanes fun i => toF32 (inputVal (fld x 56 53) 0 false b.toArray i)⟩,
      ⟨.pld, 6, 2, fun b => fld b 71 67 % 16, fun _ => 16, fun _ _ => 0, fun _ b => BitVec.ofNat 4096 (leNat b)⟩] : List LoadRow),
    ∀ bits h ofs key n, bits = s.bits k 1 → h = lsHandle (s.src k) bits → ofs = (lsAddr (s.src k) bits).toNat → key = spanKey k h ofs → n = r.n bits →
    s.issues k 1 r.op = true → (s.coreOf k).loads.length < 32 → s.spanHeld h ofs n = false →
    Answers (exec (r.cmd k) s) fun t => ∃ l : LoadOp,
      Core.issued { s.coreOf k with loads := (s.coreOf k).loads ++ [l], regs := advanced bits (s.coreOf k).regs } (t.coreOf k) ∧
      l.kind = r.kind ∧ l.reg = r.reg bits ∧ l.lanes = r.lanes (s.src k) bits ∧
      (s.mem.tiles.contains key = false → l.data = r.f bits ((s.laSync key n).mem.read key n)) ∧
      (s.mem.tiles.contains key = false → s.spanLost h ofs n = true → l.fault = some ⟨9, 1, false, (s.coreOf k).pc % 4096, 0⟩) ∧
      (s.mem.tiles.contains key = false → s.spanLost h ofs n = false → s.spanFailed h ofs n = false → s.mem.poison = [] → s.mem.errors = [] →
        l.fault = none) ∧
      s.accessFrame k t ∧ t.net = s.net ∧ t.comp.las = s.comp.las ∧
      (s.mem.tiles.contains key = false → ∀ a, s.offRecords key n a → cellGet t.mem.cells a = cellGet s.mem.cells a)) ∧
  (∀ (s : State) (k : Nat), ∀ r ∈ ([⟨.sts, 2, fun g b => (leBytes 8 (g.sr (fld b 71 67)).toNat).map some⟩,
      ⟨.stv, 4, fun g b => (List.range 128).flatMap fun i =>
        if (g.pr (fld b 60 57)).getLsbD i then (leBytes 4 (lane (g.vr (fld b 71 67)) i).toNat).map some else List.replicate 4 none⟩,
      ⟨.pst, 7, fun g b => (leBytes 16 (g.pr (fld b 71 67 % 16)).toNat).map some⟩] : List StoreRow),
    ∀ bits h ofs key data, bits = s.bits k 1 → h = lsHandle (s.src k) bits → ofs = (lsAddr (s.src k) bits).toNat → key = spanKey k h ofs →
    data = r.bytes (s.src k) bits →
    s.issues k 1 r.op = true → s.spanHeld h ofs data.length = false → s.spanLost h ofs data.length = false → (h = 0 ∨ (s.berthAt h).isSome = true) →
    s.mem.wf = true →
    Answers (exec (r.cmd k) s) fun t =>
      Core.issued { s.coreOf k with regs := advanced bits (s.coreOf k).regs } (t.coreOf k) ∧
      (∀ i v, data[i]? = some (some v) → cellGet t.mem.cells (key + i) = v) ∧
      (∀ i, data[i]? = some none → s.offRecords key data.length (key + i) → cellGet t.mem.cells (key + i) = cellGet s.mem.cells (key + i)) ∧
      (∀ a, (a < key ∨ key + data.length ≤ a) → s.offRecords key data.length a → cellGet t.mem.cells a = cellGet s.mem.cells a) ∧
      s.accessFrame k t) ∧
  (∀ (s : State) (k : Nat), ∀ bits h ofs n tag, bits = s.bits k 1 → h = lsHandle (s.src k) bits → ofs = (lsAddr (s.src k) bits).toNat →
    n = ((s.src k).sr (fld bits 71 67)).toNat → tag = fld bits 50 45 →
    s.issues k 1 8 = true → (s.coreOf k).dmas.length < 16 → s.spanHeld h ofs n = false →
    Answers (exec (.dma k) s) fun t => ∃ d : DmaOp,
      Core.issued ({ s.coreOf k with dmas := (s.coreOf k).dmas.put tag d, tagsDone := (s.coreOf k).tagsDone.filter (· != tag) }.withRegs
        (if flag bits 51 && fld bits 66 64 != fld bits 63 61
          then (advanced bits (s.coreOf k).regs).setG (fld bits 63 61) (genAdvance ((s.coreOf k).regs.gr (fld bits 63 61)))
          else advanced bits (s.coreOf k).regs)) (t.coreOf k) ∧
      d.handle = dmaHandle (s.src k) bits ∧ d.ofs = (dmaDst (s.src k) bits).toNat ∧
      (s.mem.tiles.contains (spanKey k h ofs) = false → flag bits 52 = false → d.bytes = (s.laSync (spanKey k h ofs) n).mem.read (spanKey k h ofs) n) ∧
      s.accessFrame k t ∧ t.net = s.net ∧ t.comp.las = s.comp.las)

/-- The generator operations: GCFG loads G from 32 bytes of operand SRAM with its reserved field 0, GSET sets both indices, GADV advances. To advance a generator, IDX0 rises
by 1; at COUNT0 it becomes 0 and IDX1 rises by 1; at COUNT1 that becomes 0; a count of 0 means 65,536. The other fields, and the address they give, are as R93 says. -/
def Obligations.Generators : Prop :=
  ((∀ (s : State) (k a : Nat), a = (gcfgAddr (s.src k) (s.bits k 1)).toNat → s.issues k 1 10 = true → Answers (exec (.gcfg k) s) fun t =>
    Core.issued ((s.coreOf k).withRegs ((s.coreOf k).regs.setG (fld (s.bits k 1) 66 64)
      (BitVec.ofNat 256 (leNat ((s.laSync (sramKey k a) 32).mem.read (sramKey k a) 32) / 2 ^ 48 * 2 ^ 48)))) (t.coreOf k) ∧
    s.accessFrame k t ∧ t.net = s.net ∧ t.comp.las = s.comp.las ∧ t.place = s.place) ∧
  (∀ (s : State) (k : Nat), s.issues k 1 11 = true → Answers (exec (.gset k) s) fun t =>
    s.slotMakes k ((s.coreOf k).withRegs ((s.coreOf k).regs.setG (fld (s.bits k 1) 66 64)
      (genIdx ((s.coreOf k).regs.gr (fld (s.bits k 1) 66 64)) (bitsOf ((s.src k).sr (fld (s.bits k 1) 71 67)).toNat 15 0)
        (bitsOf ((s.src k).sr (fld (s.bits k 1) 71 67)).toNat 31 16)))) t) ∧
  (∀ (s : State) (k : Nat), s.issues k 1 12 = true → Answers (exec (.gadv k) s) fun t =>
    s.slotMakes k ((s.coreOf k).withRegs ((s.coreOf k).regs.setG (fld (s.bits k 1) 66 64)
      (genAdvance ((s.coreOf k).regs.gr (fld (s.bits k 1) 66 64))))) t)) ∧
  (∀ g : BitVec 256, ∀ i0 i1 c0 c1 : Nat, i0 = bitsOf g.toNat 79 64 → i1 = bitsOf g.toNat 63 48 →
    c0 = (if bitsOf g.toNat 143 128 = 0 then 65536 else bitsOf g.toNat 143 128) → c1 = (if bitsOf g.toNat 95 80 = 0 then 65536 else bitsOf g.toNat 95 80) →
    (i0 + 1 = c0 → bitsOf (genAdvance g).toNat 79 64 = 0 ∧ (i1 + 1 = c1 → bitsOf (genAdvance g).toNat 63 48 = 0) ∧
      (i1 + 1 ≠ c1 → bitsOf (genAdvance g).toNat 63 48 = (i1 + 1) % 65536)) ∧
    (i0 + 1 ≠ c0 → bitsOf (genAdvance g).toNat 79 64 = (i0 + 1) % 65536 ∧ bitsOf (genAdvance g).toNat 63 48 = i1) ∧
    bitsOf (genAdvance g).toNat 255 80 = bitsOf g.toNat 255 80 ∧
    genAddr g = (bitsOf g.toNat 223 176 : Int) + (i0 : Int) * (BitVec.ofNat 32 (bitsOf g.toNat 175 144)).toInt +
      (i1 : Int) * (BitVec.ofNat 32 (bitsOf g.toNat 127 96)).toInt)

/-- LOAD_COMPLETE writes the register of an outstanding load, lane by lane for a vector, or raises the load's fault, that of a block poisoned on the way among them;
DMA_COMPLETE writes the destination, poisoned blocks as poisoned, and sets the tag, or raises the DMA's fault. A symbol error in the dies' networks makes an event of
class 0x15. LA_ADDEND adds the addend exactly to its record's entry; LA_WRITE_BACK writes an entry's record to memory and frees its place. TRANSLATION_FILL makes a placed
page the most recently used of the eight ways of its set. -/
def Obligations.MemoryCompletes : Prop :=
  ((∀ (s u : State) (k : Nat) (x : Arrival) (l : LoadOp), u = s.linkError k (l.symbols x) → (s.coreOf k).loads[x.n]? = some l →
    s.awaits k (spanKey k l.handle l.ofs) l.len = false → Answers (exec (.loadComplete k x) s) fun t =>
    u.only [.comp] t ∧ u.compKept t ∧ (∀ j, j ≠ k → t.coreOf j = s.coreOf j) ∧
    (l.faultOf x = none → t.coreOf k = { s.coreOf k with loads := (s.coreOf k).loads.eraseIdx x.n, regs := l.write (s.coreOf k).regs }) ∧
    (∀ f, l.faultOf x = some f → (s.coreOf k).fault = none →
      t.coreOf k = { s.coreOf k with loads := (s.coreOf k).loads.eraseIdx x.n, fault := some f })) ∧
  (∀ (s : State) (k : Nat) (x : Arrival) (d : DmaOp), (s.coreOf k).dmas.get? x.n = some d → s.spanHeld d.handle d.ofs d.bytes.length = false →
    s.awaits k (spanKey k d.src d.sofs) d.slen = false → Answers (exec (.dmaComplete k x) s) fun t =>
      s.accessFrame k t ∧ (t.coreOf k).dmas = (s.coreOf k).dmas.drop x.n ∧ x.n ∈ (t.coreOf k).tagsDone ∧ (t.coreOf k).regs = (s.coreOf k).regs ∧
      (d.fault = none → s.spanLost d.handle d.ofs d.bytes.length = false → (d.handle = 0 ∨ (s.berthAt d.handle).isSome = true) → s.mem.wf = true →
        (t.coreOf k).fault = (s.coreOf k).fault ∧ (∀ b ∈ d.poisonOf k x, b ∈ t.mem.poison) ∧
        (∀ i v, d.bytes[i]? = some v → cellGet t.mem.cells (spanKey k d.handle d.ofs + i) = v) ∧
        ∀ a, (a < spanKey k d.handle d.ofs ∨ spanKey k d.handle d.ofs + d.bytes.length ≤ a) →
          s.offRecords (spanKey k d.handle d.ofs) d.bytes.length a → cellGet t.mem.cells a = cellGet s.mem.cells a) ∧
      (∀ f, d.fault = some f → (s.coreOf k).fault = none → (t.coreOf k).fault = some f ∧ t.mem = s.mem)) ∧
  (∀ (s : State) (k : Nat), (∀ (x : Arrival) (l : LoadOp), (s.coreOf k).loads[x.n]? = some l → s.awaits k (spanKey k l.handle l.ofs) l.len = true →
      exec (.loadComplete k x) s = .next s) ∧
    ∀ (x : Arrival) (d : DmaOp), (s.coreOf k).dmas.get? x.n = some d → s.awaits k (spanKey k d.src d.sofs) d.slen = true → exec (.dmaComplete k x) s = .next s) ∧
  (∀ (s : State) (k n : Nat), s.linkError k 0 = s ∧ s.only [.health, .ledger, .cmd] (s.linkError k n) ∧
    (0 < n → (s.linkError k n).health.total = s.health.total + 1 ∧
      ((s.linkError k n).health.events.head?.map fun e => (e.cls, e.unit_, e.outcome)) = some (0x15, coreUnit k, if 2 ≤ n then 1 else 0)))) ∧
  ((∀ (s : State) (i : Nat) (a : Flush) (b : Berth), ∀ key h ofs, key = a.key → h = s.handleOfKey key → ofs = key % 2 ^ 48 → s.comp.addends[i]? = some a →
    s.berthAt h = some b → (∀ p ∈ pagesTouched b.cls ofs 48, b.pages.has p = true) → s.laRoom key = true → s.spanHeld h ofs 48 = false →
    s.spanLost h ofs 48 = false → s.recordBad key = false → (s.comp.las.has key = true ∨ s.mem.clean key 48 = true) → Answers (exec (.laAddend i) s) fun t =>
      t.comp.addends = s.comp.addends.eraseIdx i ∧ t.comp.las.get? key = some ((s.laEntry key).add a.val) ∧
      (∀ j, j ≠ key → t.comp.las.get? j = s.comp.las.get? j) ∧ t.comp.cores = s.comp.cores ∧ t.mem.cells = s.mem.cells ∧
      s.only [.comp, .place, .net, .free, .cmd] t) ∧
  (∀ (s : State) (key : Nat) (e : LaEntry), s.comp.las.get? key = some e → s.mem.wf = true → Answers (exec (.laWriteBack key) s) fun t =>
    t.comp = { s.comp with las := s.comp.las.drop key } ∧ s.bytesBut key 48 t ∧ s.only [.comp, .mem] t ∧
    ∀ i v, (leBytes 40 e.value.toNat ++ leBytes 8 e.status.toNat)[i]? = some v → cellGet t.mem.cells (key + i) = v)) ∧
  (∀ (s : State) (c page : Nat) (h : BitVec 32) (b : Berth) (p : Page), s.inService c = true → s.berthAt h = some b → b.pages.get? page = some p →
    p.held = false → Answers (exec (.translationFill c h page) s) fun t => ∃ ways : List (BitVec 32 × Nat),
      t.place.tcs.get? (tcKey c h page) = some ((h, page) :: ways) ∧ ways.length ≤ 7 ∧ (∀ w ∈ ways, w ∈ s.place.tcs.getD (tcKey c h page) []) ∧
      (h, page) ∉ ways ∧ (∀ j, j ≠ tcKey c h page → t.place.tcs.get? j = s.place.tcs.get? j) ∧ s.only [.place] t)

/-! ### The vector slots -/

/-- Lane operations write the lanes of vd whose predicate bit is set, in both vector slots, and change nothing else of their core. Every floating-point operation of a lane
gives the canonical NaN when an operand is a NaN. -/
def Obligations.LaneResults : Prop :=
  (∀ (s : State) (k : Nat), ∀ r ∈ ([⟨.fadd, 2, 1, lanes3 fun a b _ => f32Add a b⟩, ⟨.fsub, 2, 2, lanes3 fun a b _ => f32Sub a b⟩,
      ⟨.fmul, 2, 3, lanes3 fun a b _ => f32Mul a b⟩, ⟨.fma, 2, 4, lanes3 f32Fma⟩, ⟨.fmax, 2, 5, lanes3 fun a b _ => f32Pick true a b⟩,
      ⟨.fmin, 2, 6, lanes3 fun a b _ => f32Pick false a b⟩,
      ⟨.fabs, 2, 7, lanes3 fun a _ _ => if (f32Val a).isNan then nan32 else a &&& 0x7FFFFFFF#32⟩,
      ⟨.fneg, 2, 8, lanes3 fun a _ _ => if (f32Val a).isNan then nan32 else a ^^^ 0x80000000#32⟩, ⟨.frcp, 2, 9, lanes3 fun a _ _ => f32Rcp a⟩,
      ⟨.fdiv, 2, 10, lanes3 fun a b _ => f32Div a b⟩, ⟨.fsqrt, 2, 11, lanes3 fun a _ _ => f32Sqrt a⟩,
      ⟨(.sel · false), 2, 0x0D, fun g b i => if (g.pr (fld b 39 36)).getLsbD i then lane (g.vr (fld b 58 54)) i else lane (g.vr (fld b 53 49)) i⟩,
      ⟨(.sel · true), 3, 0x0D, fun g b i => if (g.pr (fld b 39 36)).getLsbD i then lane (g.vr (fld b 58 54)) i else lane (g.vr (fld b 53 49)) i⟩,
      ⟨(.vimm · false), 2, 0x0E, fun _ b _ => BitVec.ofNat 32 (fld b 31 0)⟩, ⟨(.vimm · true), 3, 0x0E, fun _ b _ => BitVec.ofNat 32 (fld b 31 0)⟩,
      ⟨(.iadd · false), 2, 0x10, lanes3 fun a b _ => a + b⟩, ⟨(.iadd · true), 3, 0x10, lanes3 fun a b _ => a + b⟩,
      ⟨(.isub · false), 2, 0x11, lanes3 fun a b _ => a - b⟩, ⟨(.isub · true), 3, 0x11, lanes3 fun a b _ => a - b⟩,
      ⟨(.iand · false), 2, 0x12, lanes3 fun a b _ => a &&& b⟩, ⟨(.iand · true), 3, 0x12, lanes3 fun a b _ => a &&& b⟩,
      ⟨(.ior · false), 2, 0x13, lanes3 fun a b _ => a ||| b⟩, ⟨(.ior · true), 3, 0x13, lanes3 fun a b _ => a ||| b⟩,
      ⟨(.ixor · false), 2, 0x14, lanes3 fun a b _ => a ^^^ b⟩, ⟨(.ixor · true), 3, 0x14, lanes3 fun a b _ => a ^^^ b⟩,
      ⟨(.ishl · false), 2, 0x15, lanes3 fun a b _ => a <<< (b.toNat % 32)⟩, ⟨(.ishl · true), 3, 0x15, lanes3 fun a b _ => a <<< (b.toNat % 32)⟩,
      ⟨(.ishr · false), 2, 0x16, lanes3 fun a b _ => a >>> (b.toNat % 32)⟩, ⟨(.ishr · true), 3, 0x16, lanes3 fun a b _ => a >>> (b.toNat % 32)⟩,
      ⟨.bcast, 2, 0x18, fun g b _ => lane (g.vr (fld b 58 54)) (fld b 6 0)⟩,
      ⟨.perm, 2, 0x19, fun g b i => lane (g.vr (fld b 58 54)) ((lane (g.vr (fld b 53 49)) i).toNat % 128)⟩] : List LaneRow),
    s.issues k r.slot r.op = true → Answers (exec (r.cmd k) s) fun t => ∃ v : BitVec 4096,
      s.slotMakes k ((s.coreOf k).withRegs ((s.coreOf k).regs.setV (fld (s.bits k r.slot) 63 59) v)) t ∧
      ∀ i < 128, lane v i = if ((s.src k).pr (fld (s.bits k r.slot) 43 40)).getLsbD i then r.f (s.src k) (s.bits k r.slot) i
        else lane ((s.coreOf k).regs.vr (fld (s.bits k r.slot) 63 59)) i) ∧
  (∀ a b c : W32, (f32Val a).isNan = true → f32Add a b = nan32 ∧ f32Add b a = nan32 ∧ f32Sub a b = nan32 ∧ f32Sub b a = nan32 ∧ f32Mul a b = nan32 ∧
    f32Mul b a = nan32 ∧ f32Fma a b c = nan32 ∧ f32Fma b a c = nan32 ∧ f32Fma b c a = nan32 ∧ f32Pick true a b = nan32 ∧ f32Pick true b a = nan32 ∧
    f32Pick false a b = nan32 ∧ f32Pick false b a = nan32 ∧ f32Rcp a = nan32 ∧ f32Div a b = nan32 ∧ f32Div b a = nan32 ∧ f32Sqrt a = nan32)

/-- The predicate operations write the lanes of pd whose predicate bit is set: FCMP by SUB, PLOG by SUB, PSET by the immediate. The reductions write their result to lane 0
and +0 to every other lane, whatever P holds, a clear lane entering as +0 or −∞; TRD copies the set lanes of a tile's row, once its verdicts have arrived, and a poisoned
row raises the fault too. -/
def Obligations.PredicatesAndReductions : Prop :=
  (∀ (s : State) (k : Nat), ∀ r ∈ ([(.fcmp, 2, 0x0C, fun g b i => fcmp (fld b 35 32) (lane (g.vr (fld b 58 54)) i) (lane (g.vr (fld b 53 49)) i))] ++
      ([(false, 2), (true, 3)] : List (Bool × Nat)).flatMap (fun x =>
        [((.plog · x.1), x.2, 0x1D, fun g b i =>
            [(g.pr (fld b 58 54 % 16)).getLsbD i && (g.pr (fld b 53 49 % 16)).getLsbD i, (g.pr (fld b 58 54 % 16)).getLsbD i || (g.pr (fld b 53 49 % 16)).getLsbD i,
              (g.pr (fld b 58 54 % 16)).getLsbD i != (g.pr (fld b 53 49 % 16)).getLsbD i,
              (g.pr (fld b 58 54 % 16)).getLsbD i && !(g.pr (fld b 53 49 % 16)).getLsbD i].getD (fld b 35 32) (!(g.pr (fld b 58 54 % 16)).getLsbD i)),
          ((.pset · x.1), x.2, 0x1E, fun _ b i => decide (i < fld b 7 0))]) : List ((Nat → Instr) × Nat × Nat × (Regs → Nat → Nat → Bool))),
    s.issues k r.2.1 r.2.2.1 = true → Answers (exec (r.1 k) s) fun t => ∃ v : BitVec 128,
      s.slotMakes k ((s.coreOf k).withRegs ((s.coreOf k).regs.setP (fld (s.bits k r.2.1) 39 36) v)) t ∧
      ∀ i < 128, v.getLsbD i = if ((s.src k).pr (fld (s.bits k r.2.1) 43 40)).getLsbD i then r.2.2.2 (s.src k) (s.bits k r.2.1) i
        else ((s.coreOf k).regs.pr (fld (s.bits k r.2.1) 39 36)).getLsbD i) ∧
  ((∀ (s : State) (k : Nat), ∀ r ∈ ([(.frsum, 0x1A, treeSum 7, 0), (.frmax, 0x1B, fun xs => xs.foldl (f32Pick true) 0xFF800000#32, 0xFF800000#32)] :
      List ((Nat → Instr) × Nat × (List W32 → W32) × W32)),
    s.issues k 2 r.2.1 = true → Answers (exec (r.1 k) s) fun t => ∃ v : BitVec 4096,
      s.slotMakes k ((s.coreOf k).withRegs ((s.coreOf k).regs.setV (fld (s.bits k 2) 63 59) v)) t ∧
      lane v 0 = r.2.2.1 ((List.range 128).map fun i => if ((s.src k).pr (fld (s.bits k 2) 43 40)).getLsbD i
        then lane ((s.src k).vr (fld (s.bits k 2) 58 54)) i else r.2.2.2) ∧
      ∀ i, 0 < i → i < 128 → lane v i = 0) ∧
  (∀ (s : State) (k : Nat) (tile : Tile), tile = (s.coreOf k).tiles.getD (fld (s.bits k 2) 58 54 % 8) Tile.init → s.issues k 2 0x1C = true →
    tile.verdicts = 0 → Answers (exec (.trd k) s) fun t => ∃ v : BitVec 4096,
      s.slotMakes k ((s.coreOf k).withRegs ((s.coreOf k).regs.setV (fld (s.bits k 2) 63 59) v)) t ∧
      (∀ i < 128, lane v i = if ((s.src k).pr (fld (s.bits k 2) 43 40)).getLsbD i then tile.e.getD (128 * fld (s.bits k 2) 6 0 + i) 0
        else lane ((s.coreOf k).regs.vr (fld (s.bits k 2) 63 59)) i) ∧
      (tile.bad.any (fun b => b / 8 = fld (s.bits k 2) 6 0) = true → (s.coreOf k).fault = none → (t.coreOf k).fault.isSome = true)))

/-! ### The array slot and the out path -/

/-- ALDW begins to load the shadow tile from operand SRAM. SHADOW_TILE_LOADED makes it the shadow tile; poisoned bytes, or a block that breaks the sparse format, raise their
fault instead. ARRAY_GATE gates an array that has been idle. -/
def Obligations.WeightTiles : Prop :=
  (∀ (s : State) (k : Nat), s.issues k 0 1 = true → s.arrayReady k = true → (s.coreOf k).loading = none → Answers (exec (.aldw k) s) fun t =>
    s.slotMakes k { s.coreOf k with loading := some (aldwTile s k (s.bits k 0) (s.src k)), arrayAt := s.now, arrayGated := false } t) ∧
  (∀ (s : State) (k : Nat), s.issues k 0 2 = true → s.arrayReady k = true → (s.coreOf k).loading = none → ∃ t : State, exec (.amul k) s = .next t ∧ (t.coreOf k).arrayAt = s.now ∧
    (t.coreOf k).arrayGated = false ∧ (flag (s.bits k 0) 57 = true → (t.coreOf k).active = (s.coreOf k).shadow ∧ (t.coreOf k).shadow = none) ∧
    (flag (s.bits k 0) 57 = false → (t.coreOf k).active = (s.coreOf k).active ∧ (t.coreOf k).shadow = (s.coreOf k).shadow)) ∧
  (∀ (s : State) (k : Nat) (w : WTile), (s.coreOf k).loading = some w → Answers (exec (.shadowTileLoaded k) s) fun t =>
    s.only [.comp] t ∧ s.compKept t ∧ (∀ j, j ≠ k → t.coreOf j = s.coreOf j) ∧
    (s.mem.poisoned (sramKey k w.addr) w.bytes.length = false → (w.sparse = false ∨ firstBadBlock w.fmt w.bytes = none) →
      t.coreOf k = { s.coreOf k with loading := none, shadow := some w }) ∧
    (s.mem.poisoned (sramKey k w.addr) w.bytes.length = true → (s.coreOf k).fault = none →
      t.coreOf k = { s.coreOf k with loading := none, fault := some ⟨7, 0, false, w.bundle, w.addr⟩ }) ∧
    (∀ b, s.mem.poisoned (sramKey k w.addr) w.bytes.length = false → w.sparse = true → firstBadBlock w.fmt w.bytes = some b → (s.coreOf k).fault = none →
      t.coreOf k = { s.coreOf k with loading := none, fault := some ⟨5, 0, false, w.bundle, w.addr + b * 2 ^ 20⟩ })) ∧
  (∀ (s : State) (k : Nat), (s.coreOf k).arrayGated = false → (s.coreOf k).arrayAt + 2 ≤ s.now →
    exec (.arrayGate k) s = .next (s.setCore k { s.coreOf k with arrayGated := true }))

/-- AMUL: with the tile it asks for, it computes its rows into its accumulator tile, or for a split-pair pass keeps the addends of its records until the verdict; it queues
its verdict, swaps the shadow tile in when asked, and advances GA by its rows and, split, GL once. One input row through a dense tile in its first slab: every unmasked
column of the row becomes its slab sum, every other entry stays. -/
def Obligations.ArrayPasses : Prop :=
  (∀ (s : State) (k : Nat), ∀ bits r c wt rows at_ ga, bits = s.bits k 0 → r = s.src k → c = (s.coreOf k).swap bits →
    wt = s.tileFor c.active (fld bits 66 63) (flag bits 60) (fld bits 21 20 != 0) → rows = (s.amulRows k bits r).1 → at_ = fld bits 87 85 →
    ga = genAdvanceN (fld bits 45 38 + 1) (r.gr (fld bits 76 74)) →
    s.issues k 0 2 = true → s.arrayReady k = true → (flag bits 57 && (s.coreOf k).loading.isSome) = false →
    ∃ t : State, exec (.amul k) s = .next t ∧ s.slotFreely k (if fld bits 21 20 = 0
        then { c with arrayAt := s.now, arrayGated := false,
                      verdicts := c.verdicts ++ List.replicate (rows.length * if flag bits 60 = true then 2 else 1) ⟨some at_, (s.coreOf k).pc % 4096, []⟩,
                      tiles := c.tiles.upd at_ Tile.init (amulTileAfter wt rows bits r), regs := c.regs.setG (fld bits 76 74) ga }
        else { c with arrayAt := s.now, arrayGated := false, verdicts := c.verdicts ++ (List.range rows.length).map fun i => ⟨none, (s.coreOf k).pc % 4096, splitAdds k wt rows bits r i⟩,
                      regs := (c.regs.setG (fld bits 76 74) ga).setG (fld bits 37 35) (genAdvance (r.gr (fld bits 37 35))) }) t ∧
      (c.active = some wt → t.free = s.free)) ∧
  (∀ (mode : OvMode) (w : WTile) (x : Array Val) (prow pcol : BitVec 128) (row : Nat) (tile : Tile) (i : Nat), w.sparse = false →
    (passRow mode w w.bytes.toArray x prow pcol 0 row tile).e.getD i 0 =
      if i / 128 = row ∧ pcol.getLsbD (i % 128) = true
        then (slabSum mode (slabProducts w w.bytes.toArray x prow 0 (i % 128))).bits else tile.e.getD i 0)

/-- AFLUSH sends its rows' entries to their records as addends, or holds them in a restartable kernel, where it locks the rows, and with RPT begins a restart point; it sets
the slab cursor and advances GL once. ACLR makes its rows +0 and resets the slab cursor; LINIT makes the records of its rows and unmasked columns 48 zero bytes each, with
no entry in use for them. -/
def Obligations.Flushes : Prop :=
  (∀ (s : State) (k : Nat), ∀ bits r at_ tile gl adds c, bits = s.bits k 0 → r = s.src k → at_ = fld bits 87 85 →
    tile = (s.coreOf k).tiles.getD at_ Tile.init → gl = r.gr (fld bits 37 35) →
    adds = ((recordOfs gl (fld bits 45 38 + 1) (r.pr (fld bits 80 77))).map fun x =>
      (spanKey k (genHandle gl) x.2.2.toNat, tile.e.getD (128 * (fld bits 52 46 + x.1) + x.2.1) 0)) →
    c = { s.coreOf k with arrayAt := s.now, arrayGated := false, regs := (s.coreOf k).regs.setG (fld bits 37 35) (genAdvance gl) } →
    s.issues k 0 3 = true → s.arrayReady k = true → tile.verdicts = 0 → badRows tile (arrRows bits) = false →
    (s.restartable k = false → Answers (exec (.aflush k) s) fun t =>
      Core.issued { c with tiles := c.tiles.upd at_ Tile.init fun x => { x with cursor := fld bits 56 53, opened := false } } (t.coreOf k) ∧
      t.comp = { s.comp with cores := t.comp.cores, addends := s.comp.addends ++ adds.map fun a => ⟨k, (s.coreOf k).pc % 4096, a.1, Addend.fp32 a.2⟩ } ∧ s.slotFrame k t) ∧
    (s.restartable k = true → flag bits 34 = false → Answers (exec (.aflush k) s) fun t =>
      s.slotMakes k { c with held := c.held ++ adds.map (fun a => Held.flush a.1 a.2 ((s.coreOf k).pc % 4096)),
                             tiles := c.tiles.upd at_ Tile.init fun x => { x with cursor := fld bits 56 53, opened := false, locked := (x.locked ++ arrRows bits).dedup } } t) ∧
    (s.restartable k = true → flag bits 34 = true → s.restartReady k = true →
      (∀ b, s.bundle k = some b → ∀ x ∈ activeSlots b, x = 0 ∨ x = 5 ∨ (s.coreOf k).taken.getLsbD x = true) → Answers (exec (.aflush k) s) fun t =>
        (t.coreOf k).held = [] ∧ (t.coreOf k).cons = [] ∧ (t.coreOf k).regs = c.regs ∧
        (t.coreOf k).commit = some ({ s := c.regs.s, g := c.regs.g, stack := c.stack, resume := fld bits 33 22, cons := c.cons },
          c.held ++ adds.map (fun a => Held.flush a.1 a.2 ((s.coreOf k).pc % 4096))) ∧ s.compKept t ∧ s.slotFrame k t)) ∧
  ((∀ (s : State) (k : Nat), ∀ bits, bits = s.bits k 0 → s.issues k 0 4 = true → s.arrayReady k = true → Answers (exec (.aclr k) s) fun t =>
    (∃ x : Tile, s.slotMakes k { s.coreOf k with arrayAt := s.now, arrayGated := false, tiles := (s.coreOf k).tiles.put (fld bits 87 85) x } t ∧
      x.cursor = fld bits 56 53 ∧ x.opened = false ∧
      ∀ i, x.e.getD i 0 = if (arrRows bits).contains (i / 128) = true then 0
        else ((s.coreOf k).tiles.getD (fld bits 87 85) Tile.init).e.getD i 0)) ∧
  (∀ (s : State) (k : Nat), ∀ bits gl os, bits = s.bits k 0 → gl = (s.src k).gr (fld bits 37 35) →
    os = (recordOfs gl (fld bits 45 38 + 1) ((s.src k).pr (fld bits 80 77))).map (·.2.2.toNat) →
    s.issues k 0 5 = true → s.arrayReady k = true → (∀ o ∈ os, s.spanHeld (genHandle gl) o 48 = false ∧ s.spanLost (genHandle gl) o 48 = false) →
    (s.berthAt (genHandle gl)).isSome = true → genHandle gl ≠ 0 → s.mem.wf = true → Answers (exec (.linit k) s) fun t =>
      Core.issued { s.coreOf k with arrayAt := s.now, arrayGated := false } (t.coreOf k) ∧ s.accessFrame k t ∧
      (∀ o ∈ os, t.comp.las.has (spanKey k (genHandle gl) o) = false ∧ ∀ i < 48, cellGet t.mem.cells (spanKey k (genHandle gl) o + i) = 0) ∧
      ∀ a, (∀ o ∈ os, (a < spanKey k (genHandle gl) o ∨ spanKey k (genHandle gl) o + 48 ≤ a) ∧ s.offRecords (spanKey k (genHandle gl) o) 48 a) →
        cellGet t.mem.cells a = cellGet s.mem.cells a))

/-- OREAD and OVEC: with every flush to its records applied and no verdict awaited, the operation writes its rows at GD, raises its status bits in AST, and advances GS and GD
once each. RESIDUE_VERDICT: the verdict of the oldest array operation arrives. A good one lets its addends go; a bad one poisons its tile, stops the array operations of
the kernel and raises the arithmetic-check fault. -/
def Obligations.OutPathAndVerdicts : Prop :=
  (∀ (s : State) (k : Nat), ∀ o ∈ ([(.oread, 1, oreadOfs (s.bits k 4) (s.src k)), (.ovec, 2, [])] : List ((Nat → Instr) × Nat × List Nat)),
    ∀ bits r gs gd rows dofs dn, bits = s.bits k 4 → r = s.src k → gs = r.gr (fld bits 55 53) → gd = r.gr (fld bits 52 50) →
    rows = s.outRows k o.2.1 bits r → dofs = (outSpan o.2.1 bits r).1 → dn = (outSpan o.2.1 bits r).2 →
    s.issues k 4 o.2.1 = true → ((s.coreOf k).tiles.getD (fld bits 2 0) Tile.init).verdicts = 0 →
    (∀ x ∈ o.2.2, (s.pendingKeys k).contains (spanKey k (genHandle gs) x) = false ∧ s.spanHeld (genHandle gs) x 48 = false ∧
      s.spanLost (genHandle gs) x 48 = false ∧
      (s.comp.las.has (spanKey k (genHandle gs) x) = true ∨
        (s.mem.poisoned (spanKey k (genHandle gs) x) 48 = false ∧ s.mem.errors = []))) →
    s.spanHeld (genHandle gd) dofs dn = false → s.spanLost (genHandle gd) dofs dn = false → s.mem.wf = true →
    Answers (exec (o.1 k) s) fun t =>
      Core.issued { s.coreOf k with
        tiles := (s.coreOf k).tiles.upd (fld bits 2 0) Tile.init fun x => { x with status := x.status ||| BitVec.ofNat 32 (rows.foldl (fun a x => a ||| x.status) 0) },
        regs := if fld bits 55 53 = fld bits 52 50 then (s.coreOf k).regs.setG (fld bits 55 53) (genAdvance gs)
                else ((s.coreOf k).regs.setG (fld bits 55 53) (genAdvance gs)).setG (fld bits 52 50) (genAdvance gd) } (t.coreOf k) ∧
      t.mem.cells = (s.outWrite k bits r rows).mem.cells ∧
      (outCompressed bits = true → t.mem.tiles.contains (outRowKey k bits r 0) = true) ∧
      (∀ a, s.offOutput k o.2.1 bits r a → cellGet t.mem.cells a = cellGet s.mem.cells a) ∧ s.accessFrame k t) ∧
  (∀ (s : State) (k : Nat) (v : Verdict) (rest : List Verdict), (s.coreOf k).verdicts = v :: rest → s.health.armed = [] → ∀ err : Int,
    (err % 127 = 0 → Answers (exec (.residueVerdict k err) s) fun t =>
      (t.coreOf k).verdicts = rest ∧ (t.coreOf k).stopped = (s.coreOf k).stopped ∧ (t.coreOf k).fault = (s.coreOf k).fault ∧
      (t.coreOf k).regs = (s.coreOf k).regs ∧ (∀ j, j ≠ k → t.coreOf j = s.coreOf j) ∧ s.only [.comp] t ∧
      (∀ i, v.tile = some i → ((t.coreOf k).tiles.getD i Tile.init).verdicts = ((s.coreOf k).tiles.getD i Tile.init).verdicts - 1 ∧
        ((t.coreOf k).tiles.getD i Tile.init).e = ((s.coreOf k).tiles.getD i Tile.init).e) ∧
      (s.restartable k = false → t.comp.addends = s.comp.addends ++ v.adds.map fun a => ⟨k, v.bundle, a.1, Addend.fp32 a.2⟩) ∧
      (s.restartable k = true → t.comp.addends = s.comp.addends ∧ (t.coreOf k).held = (s.coreOf k).held ++ v.adds.map fun a => Held.flush a.1 a.2 v.bundle)) ∧
    (err % 127 ≠ 0 → Answers (exec (.residueVerdict k err) s) fun t =>
      (t.coreOf k).verdicts = rest ∧ (t.coreOf k).stopped = true ∧ ((s.coreOf k).fault = none → (t.coreOf k).fault = some ⟨6, 0, false, v.bundle, 0⟩) ∧
      t.comp.addends = s.comp.addends ∧ t.mem = s.mem ∧ t.health.total = s.health.total + 1 ∧
      ∀ i, v.tile = some i → ((t.coreOf k).tiles.getD i Tile.init).poisoned = true))

/-- An addend enters its record exactly: a finite FP32 value and a scaled integer as their value in units of 2⁻¹⁴⁹, what a scaled integer has below that truncated and marked;
a NaN addend sets NAN, an infinite one PINF or NINF, a scaled integer of 2¹²⁸ or more NAN, and these leave the integer; each counts in ADDS, and a full entry takes no
more. The order of two addends does not matter. -/
def Obligations.AddendEffects : Prop :=
  (∀ (x : LaEntry) (v : W32) (e f : Nat), e = bitsOf v.toNat 30 23 → f = bitsOf v.toNat 22 0 → x.adds < 2 ^ 42 - 1 →
    (e = 255 → f ≠ 0 → x.add (.fp32 v) = { x with adds := x.adds + 1, nan := true }) ∧
    (e = 255 → f = 0 → v.getLsbD 31 = false → x.add (.fp32 v) = { x with adds := x.adds + 1, pinf := true }) ∧
    (e = 255 → f = 0 → v.getLsbD 31 = true → x.add (.fp32 v) = { x with adds := x.adds + 1, ninf := true }) ∧
    (∀ m : Nat, e < 255 → m = (if e = 0 then f else (2 ^ 23 + f) * 2 ^ (e - 1)) →
      x.add (.fp32 v) = { x with adds := x.adds + 1, value := x.value + BitVec.ofInt 320 (if v.getLsbD 31 = true then -(m : Int) else m) })) ∧
  (∀ (x : LaEntry) (m w : Int) (n : Nat), x.adds < 2 ^ 42 - 1 → n = w.natAbs →
    (0 ≤ w → 2 ^ 128 ≤ m.natAbs * 2 ^ n → x.add (.scaled m w) = { x with adds := x.adds + 1, nan := true }) ∧
    (0 ≤ w → m.natAbs * 2 ^ n < 2 ^ 128 → x.add (.scaled m w) = { x with adds := x.adds + 1, value := x.value + BitVec.ofInt 320 (m * 2 ^ (n + 149)) }) ∧
    (w < 0 → 2 ^ 128 * 2 ^ n ≤ m.natAbs → x.add (.scaled m w) = { x with adds := x.adds + 1, nan := true }) ∧
    (w < 0 → n ≤ 149 → m.natAbs < 2 ^ 128 * 2 ^ n → x.add (.scaled m w) = { x with adds := x.adds + 1, value := x.value + BitVec.ofInt 320 (m * 2 ^ (149 - n)) }) ∧
    (w < 0 → 149 < n → m.natAbs < 2 ^ 128 * 2 ^ n → x.add (.scaled m w) =
      { x with adds := x.adds + 1, value := x.value + BitVec.ofInt 320 (m.tdiv (2 ^ (n - 149))), lowLost := x.lowLost || decide (m.natAbs % 2 ^ (n - 149) ≠ 0) })) ∧
  (∀ (x : LaEntry) (a : Addend), 2 ^ 42 - 1 ≤ x.adds → x.add a = { x with full := true, nan := true }) ∧
  (∀ (x : LaEntry) (a b : Addend), x.adds + 2 ≤ 2 ^ 42 - 1 → (x.add a).add b = (x.add b).add a)

/-! ### The sync slot -/

/-- SPOST, ESET and ECLR act on the group at once, or are held until the restart point in a restartable kernel. SGADD adds to a signal word of the job on this module, sends
the add to a present peer, raises the peer-absent fault for any other module, and is held in a restartable kernel. -/
def Obligations.PostsAndSignals : Prop :=
  (∀ (s : State) (k : Nat) (i : Inst) (g : Group), ∀ bits, bits = s.bits k 5 → s.instOf k = some i → s.comp.groups.get? i.group = some g →
    ∀ r ∈ ([(.spost, 2, .spost (fld bits 39 32) (fld bits 15 0) ((s.coreOf k).pc % 4096), { g with sems := g.sems.put (fld bits 39 32) (g.sems.getD (fld bits 39 32) 0 + fld bits 15 0) }),
        (.eset, 3, .eset (fld bits 39 32 % 64), { g with events := if g.events.contains (fld bits 39 32 % 64) then g.events else fld bits 39 32 % 64 :: g.events }),
        (.eclr, 4, .eclr (fld bits 39 32 % 64), { g with events := g.events.filter (· != fld bits 39 32 % 64) })] :
        List ((Nat → Instr) × Nat × Held × Group)),
    s.issues k 5 r.2.1 = true → (r.2.1 ≠ 4 → s.fenceDone k 1 = true) →
    (s.restartable k = true → Answers (exec (r.1 k) s) fun t => s.slotMakes k { s.coreOf k with held := (s.coreOf k).held ++ [r.2.2.1] } t) ∧
    (s.restartable k = false → Answers (exec (r.1 k) s) fun t => (s.coreOf k).issued (t.coreOf k) ∧ s.slotFrame k t ∧
      t.comp = { s.comp with cores := t.comp.cores, groups := s.comp.groups.put i.group r.2.2.2 })) ∧
  (∀ (s : State) (k : Nat) (l : Launch) (j : Job), ∀ r sr word add dst, r = s.src k → sr = fld (s.bits k 5) 31 27 → word = r.sr sr →
    add = r.sr (sr + 1) → dst = r.sr (sr + 2) → s.launchOf k = some l → s.cmd.jobs.get? l.job = some j → s.issues k 5 7 = true →
    s.fenceDone k 3 = true →
    (s.restartable k = true → Answers (exec (.sgadd k) s) fun t => s.slotMakes k { s.coreOf k with held := (s.coreOf k).held ++ [.sgadd word add dst ((s.coreOf k).pc % 4096)] } t) ∧
    (s.restartable k = false → (dst = 0xFFFF ∨ s.ownIndex = some dst.toNat) → Answers (exec (.sgadd k) s) fun t =>
      (s.coreOf k).issued (t.coreOf k) ∧ s.slotFrame k t ∧
      t.comp = { s.comp with cores := t.comp.cores, signals := s.comp.signals.put (j.sigBase + word.toNat) (s.comp.signals.getD (j.sigBase + word.toNat) 0 + add) }) ∧
    (∀ own, s.restartable k = false → s.ownIndex = some own → own ≠ dst.toNat → dst ≠ 0xFFFF → s.peerPresent dst.toNat = true →
      Answers (exec (.sgadd k) s) fun t => (s.coreOf k).issued (t.coreOf k) ∧ s.compKept t ∧ s.bytesSame t ∧ Out.signal dst.toNat word add ∈ t.out ∧
        ∃ p : TxPkt, t.net.unacked = s.net.unacked ++ [p] ∧ p.dst = dst.toNat ∧ p.msg = some (.signal dst.toNat word add) ∧
          p.core = some (k, (s.coreOf k).pc % 4096)) ∧
    (s.restartable k = false → dst ≠ 0xFFFF → s.ownIndex ≠ some dst.toNat → s.peerPresent dst.toNat = false → Answers (exec (.sgadd k) s) fun t =>
      (t.coreOf k).fault = some ⟨9, 5, false, (s.coreOf k).pc % 4096, 0⟩ ∧ s.slotMakes k (s.coreOf k) t))

/-- Waits: one whose condition holds takes effect, SWAIT subtracting its count; any other holds its bundle until WAIT_SATISFIED finds the condition true, or WAIT_TIMEOUT,
after the job's wait limit, raises the wait-timeout fault; a launch that no cluster took within it (counted from its acceptance: log 223) ends with TIMEOUT. FENCE lets
its bundle end once everything the core issued is complete. RESTART begins a restart point, in a restartable kernel only. RESTART_POINT_COMMIT makes the save area the
instance's, with the held effects, or raises the fault of one that cannot be applied. -/
def Obligations.WaitsAndRestartPoints : Prop :=
  ((∀ (s : State) (k : Nat), ∀ r ∈ ([(.swait, 1), (.ewait, 5), (.sgwait, 6), (.dwait, 8)] : List ((Nat → Instr) × Nat)),
    s.mayIssue k 5 r.2 = true → s.newFault k = none → s.syncFault k r.2 (s.bits k 5) (s.src k) = none → (s.coreOf k).waiting = none →
    (s.waitHolds k r.2 = false → exec (r.1 k) s = .next (s.setCore k { s.coreOf k with waiting := some s.now })) ∧
    (s.waitHolds k r.2 = true → r.2 ≠ 1 → Answers (exec (r.1 k) s) fun t => s.slotMakes k (s.coreOf k) t)) ∧
  (∀ (s : State) (k op : Nat), (op = 5 ∨ op = 6 ∨ op = 8) → (s.coreOf k).waiting.isSome = true → s.mayIssue k 5 op = true → s.newFault k = none →
    s.waitHolds k op = true → Answers (exec (.waitSatisfied k) s) fun t => s.slotMakes k (s.coreOf k) t) ∧
  (∀ (s : State) (k : Nat) (i : Inst) (g : Group), ∀ idx n, idx = fld (s.bits k 5) 39 32 → n = fld (s.bits k 5) 15 0 → s.instOf k = some i →
    s.comp.groups.get? i.group = some g → n ≤ g.sems.getD idx 0 → s.mayIssue k 5 1 = true → s.newFault k = none →
    ∀ c ∈ ([.swait k, .waitSatisfied k] : List Instr),
    (c = .swait k → (s.coreOf k).waiting = none ∧ s.syncFault k 1 (s.bits k 5) (s.src k) = none) →
    (c = .waitSatisfied k → (s.coreOf k).waiting.isSome = true) → Answers (exec c s) fun t =>
      Core.issued (if s.restartable k = true then { s.coreOf k with cons := (s.coreOf k).cons ++ [(idx, n)] } else s.coreOf k) (t.coreOf k) ∧
      t.comp = { s.comp with cores := t.comp.cores, groups := s.comp.groups.put i.group { g with sems := g.sems.put idx (g.sems.getD idx 0 - n) } } ∧
      s.slotFrame k t) ∧
  (∀ (s : State) (k t0 : Nat) (j : Job), (s.coreOf k).waiting = some t0 → s.jobOf k = some j → t0 + 1000 * j.waitMs * 25 ≤ s.now →
    (s.coreOf k).fault = none → (∀ b, s.bundle k = some b → s.waitHolds k (slotOp b 5) = false) → (s.bundle k).isSome = true →
    exec (.waitTimeout (.core k)) s = .next (s.setCore k { s.coreOf k with fault := some ⟨10, 5, true, (s.coreOf k).pc % 4096, 0⟩ })) ∧
  (∀ (s : State) (l : Nat) (x : Launch) (g : Prog) (j : Job), s.comp.launches.get? l = some x → x.filler = false → x.aborted = false →
    (∃ e ∈ s.comp.insts, e.2.launch = l) → (∀ e ∈ s.comp.insts, e.2.launch = l → e.2.st = .waiting) → (s.comp.insts.map (·.1)).Pairwise (· < ·) →
    (∀ c < 24, s.clusterOpen c false = false) → s.prog x.ring x.at_ = some g → g.outcome = none → s.cmd.jobs.get? x.job = some j →
    g.acceptedAt + 1000 * j.waitMs * 25 ≤ s.now → Answers (exec (.waitTimeout (.launch l)) s) fun t =>
      t.comp.launches.get? l = none ∧ (∀ e ∈ t.comp.insts, e.2.launch ≠ l) ∧ (t.outcomeAt x.ring x.at_).map (·.status) = some 0x0403 ∧
      s.only [.comp, .cmd] t)) ∧
  ((∀ (s : State) (k : Nat), s.issues k 5 9 = true → s.fenceDone k (fld (s.bits k 5) 1 0) = true → Answers (exec (.syncFence k) s) fun t =>
    s.slotMakes k (s.coreOf k) t) ∧
  (∀ (s : State) (k : Nat), s.issues k 5 10 = true →
    (s.restartable k = false → Answers (exec (.restart k) s) fun t => s.slotMakes k (s.coreOf k) t) ∧
    (s.restartable k = true → s.restartReady k = true → Answers (exec (.restart k) s) fun t =>
      s.slotMakes k { s.coreOf k with
        commit := some ({ s := (s.coreOf k).regs.s, g := (s.coreOf k).regs.g, stack := (s.coreOf k).stack, resume := fld (s.bits k 5) 11 0, cons := (s.coreOf k).cons }, (s.coreOf k).held),
        held := [], cons := [], tiles := (s.coreOf k).tiles.mapVals fun _ x => { x with locked := [], locking := x.locked } } t)) ∧
  (∀ (s : State) (k i : Nat) (x : Inst) (save : Save) (hs : List Held), (s.coreOf k).commit = some (save, hs) → (s.coreOf k).inst = some i →
    s.comp.insts.get? i = some x → (s.coreOf k).fault = none → (s.coreOf k).ending = none → s.heldReady hs = true →
    (s.heldFault k hs = none → (s.coreOf k).leave = none → Answers (exec (.restartPointCommit k) s) fun t =>
      t.comp.insts.get? i = some { x with save := some save, tried := [] } ∧ (t.coreOf k).commit = none ∧ (t.coreOf k).regs = (s.coreOf k).regs ∧
      (∀ j, j ≠ k → t.coreOf j = s.coreOf j)) ∧
    (∀ f, s.heldFault k hs = some f → exec (.restartPointCommit k) s = .next (s.setCore k { s.coreOf k with fault := some f }))))

/-- END ends the instance with status 0 and frees its core; KERNEL_FAULT ends it with its fault, tells the launch's other instances to end, or suspends it for a replay; the
launch is over with its last instance. The status of a fault's outcome, by its code. A bundle that raises a precise fault: none of its slots takes effect; the fault is
raised, or the slot awaits its turn. -/
def Obligations.InstancesAndFaults : Prop :=
  (∀ (s : State) (k i : Nat) (x : Inst), (s.coreOf k).inst = some i → s.comp.insts.get? i = some x → x.st = .running k → s.noneWaiting →
    s.comp.launches.has x.launch = true → (s.comp.insts.map (·.1)).Pairwise (· < ·) →
    (s.mayIssue k 5 11 = true → s.newFault k = none → s.fenceDone k 3 = true → (s.coreOf k).verdicts = [] → (s.coreOf k).loading = none →
      (s.coreOf k).commit = none → (s.coreOf k).held = [] → Answers (exec (.endKernel k) s) fun t =>
        (t.coreOf k).inst = none ∧
        ((∃ e ∈ s.comp.insts, e.1 ≠ i ∧ e.2.launch = x.launch ∧ e.2.st ≠ .ended) → t.comp.insts.get? i = some { x with st := .ended, status := 0, fault := none }) ∧
        ((∀ e ∈ s.comp.insts, e.1 ≠ i → e.2.launch = x.launch → e.2.st = .ended) → t.comp.launches.get? x.launch = none ∧ t.comp.insts.get? i = none)) ∧
    (∀ f, (s.coreOf k).fault = some f → (f.code = 6 ∨ f.code = 8) → s.replayable k = true → (s.coreOf k).ending = none → s.faultReady k = true →
      Answers (exec (.kernelFault k) s) fun t => (t.coreOf k).inst = none ∧
        t.comp.insts.get? i = some { x with st := .suspended, tried := k :: x.tried, residue := decide (f.code = 6), thin := false }) ∧
    (∀ f, (s.coreOf k).fault = some f → f.code ≠ 6 → f.code ≠ 8 → s.faultReady k = true → Answers (exec (.kernelFault k) s) fun t =>
      (t.coreOf k).inst = none ∧
      (∀ j y c, j ≠ k → (j, c) ∈ s.comp.cores → s.comp.cores.get? j = some c → c.inst = some y → c.ending = none →
        (∃ z, s.comp.insts.get? y = some z ∧ z.launch = x.launch ∧ z.st = .running j) → y ≠ i →
          (t.coreOf j).ending = some 0 ∧
          t.comp.insts.get? i = some { x with st := .ended, status := faultStatus f.code, fault := some f })) ∧
    (∀ st, (s.coreOf k).fault = none → (s.coreOf k).ending = some st → (s.coreOf k).snap = none → s.faultReady k = true → Answers (exec (.kernelFault k) s) fun t =>
      (t.coreOf k).inst = none ∧
      ((∃ e ∈ s.comp.insts, e.1 ≠ i ∧ e.2.launch = x.launch ∧ e.2.st ≠ .ended) → t.comp.insts.get? i = some { x with st := .ended, status := st, fault := none }))) ∧
  (∀ x ∈ [(1, 0x0301), (2, 0x0301), (3, 0x0301), (4, 0x0301), (5, 0x0304), (7, 0x0401), (9, 0x0404), (10, 0x0403)], faultStatus x.1 = x.2) ∧
  (∀ (s : State) (k : Nat) (f : FaultRec), s.newFault k = some f → ∀ c ∈ ([.add k, .addi k, .sub k, .mul k, .and k, .or k, .xor k, .shl k, .shr k, .sra k,
      .lih k, .slt k, .sltu k, .beq k, .bne k, .blt k, .bge k, .jmp k, .call k, .ret k, .getsr k, .setsr k, .lds k, .sts k, .ldv k, .stv k, .ldvc k, .pld k,
      .pst k, .dma k, .gcfg k, .gset k, .gadv k, .fadd k, .fsub k, .fmul k, .fma k, .fmax k, .fmin k, .fabs k, .fneg k, .frcp k, .fdiv k, .fsqrt k,
      .fcmp k, .bcast k, .perm k, .frsum k, .frmax k, .trd k, .aldw k, .amul k, .aflush k, .aclr k, .linit k, .oread k, .ovec k, .spost k, .eset k,
      .eclr k, .sgadd k, .syncFence k, .restart k, .endKernel k] ++ [false, true].flatMap (fun b => [.sel k b, .vimm k b, .iadd k b, .isub k b,
      .iand k b, .ior k b, .ixor k b, .ishl k b, .ishr k b, .plog k b, .pset k b]) : List Instr),
    exec c s = .next s ∨ exec c s = .next (s.raise k f))

/-! ### Rings and command packets -/

/-- The ring registers: a doorbell moves TAIL, or stops the ring on a value that R283 does not allow; RESTART discards the unaccepted packets of a stopped ring and sets it
running, and DONE passes over them; RSTAT stores IRQ_CORE, and the I3C window ATTN_MASK; no other offset stores a write. The admin ring opens with the size and base of
its descriptor, running with TAIL, HEAD and DONE 0, and closes; the writes that R270 names are ignored. -/
def Obligations.RingsOpen : Prop :=
  ((∀ (s : State) (n : Nat) (w : BitVec 64) (v : BitVec 32), v = w.setWidth 32 → s.osRuns = true → (s.ring n).st ≠ .closed → s.muted n = false →
    ((v.toNat % 64 ≠ 0 ∨ 2 ^ 31 ≤ (v - (s.ring n).tail).toNat ∨ 2 ^ (16 + (s.ring n).size) < (v - (s.ring n).done).toNat) →
      Answers (exec (.doorbell n w) s) fun t => s.ringOnly n t ∧ t.ring n = { s.ring n with st := .stopped, err := 5, errAt := v, bpSince := none }) ∧
    (¬ (v.toNat % 64 ≠ 0 ∨ 2 ^ 31 ≤ (v - (s.ring n).tail).toNat ∨ 2 ^ (16 + (s.ring n).size) < (v - (s.ring n).done).toNat) →
      Takes (exec (.doorbell n w) s) n fun u => s.ringOnly n u ∧ u.ring n = { s.ring n with tail := v, bells := (v, s.now) :: (s.ring n).bells })) ∧
  (∀ (s : State) (n : Nat) (w : BitVec 64), s.osRuns = true → (s.ring n).st = .closed → exec (.doorbell n w) s = .next s) ∧
  (∀ (s : State) (n : Nat) (w : BitVec 64), s.osRuns = true → n < 257 → (s.ring n).st = .stopped → w.getLsbD 61 = true →
    Answers (exec (.ringRestart ⟨n, w⟩) s) fun t =>
      s.only [.cmd] t ∧ t.cmd = { s.cmd with rings := t.cmd.rings, aheadAt := t.cmd.aheadAt } ∧ (∀ e, e ∈ t.cmd.aheadAt ↔ e ∈ s.cmd.aheadAt ∧ e.1 / 2 ^ 32 ≠ n) ∧
      (∀ m, m ≠ n → t.ring m = s.ring m) ∧ (t.ring n).st = (if s.paused = true then .paused else .running) ∧ (t.ring n).irqCore = bitsOf w.toNat 53 49 ∧
      (t.ring n).head = (s.ring n).tail ∧ (t.ring n).tail = (s.ring n).tail ∧
      ((s.ring n).done = (s.ring n).head → (s.ring n).finished = [] → (t.ring n).done = (s.ring n).tail)) ∧
  (∀ (s : State) (n : Nat) (w : BitVec 64), n < 257 → s.osRuns = true →
    (w.getLsbD 61 = true → exec (.registerWrite .rings (32 * n + 24) w) s = exec (.ringRestart ⟨n, w⟩) s) ∧
    (w.getLsbD 61 = false ∨ (s.ring n).st ≠ .stopped → Answers (exec (.registerWrite .rings (32 * n + 24) w) s) fun t =>
      s.ringOnly n t ∧ t.ring n = { s.ring n with irqCore := bitsOf w.toNat 53 49 })) ∧
  (∀ (s : State) (w : BitVec 64), s.side.v54 = true → Answers (exec (.registerWrite .window 0x1C w) s) fun t =>
    s.only [.side] t ∧ t.side = { s.side with attnMask := (w.setWidth 32) &&& 0x7F#32 }) ∧
  (∀ (s : State) (ofs : Nat) (w : BitVec 64), (ofs % 32 ≠ 24 → exec (.registerWrite .rings ofs w) s = .next s) ∧
    (ofs ≠ 0x1C → exec (.registerWrite .window ofs w) s = .next s))) ∧
  ((∀ (s : State) (w : BitVec 64), s.osRuns = true → w.getLsbD 63 = true →
    ((s.ring 256).st = .closed → bitsOf w.toNat 62 59 ≤ 10 → bitsOf w.toNat 34 0 % 65536 = 0 →
      bitsOf w.toNat 34 0 + 2 ^ (16 + bitsOf w.toNat 62 59) ≤ 2 ^ 35 →
      (∀ e ∈ s.cmd.rings, e.2.st ≠ .closed → bitsOf w.toNat 34 0 + 2 ^ (16 + bitsOf w.toNat 62 59) ≤ e.2.base ∨
        e.2.base + 2 ^ (16 + e.2.size) ≤ bitsOf w.toNat 34 0) →
      Answers (exec (.adminRingOpen w) s) fun t =>
        s.only [.cmd] t ∧ s.ringsBut [256] t ∧ t.cmd = { s.cmd with rings := t.cmd.rings, adminDesc := w &&& BitVec.ofNat 64 mRing } ∧
        (t.ring 256).st = .running ∧ (t.ring 256).size = bitsOf w.toNat 62 59 ∧ (t.ring 256).base = bitsOf w.toNat 34 0 ∧
        (t.ring 256).tail = 0 ∧ (t.ring 256).head = 0 ∧ (t.ring 256).done = 0) ∧
    ((s.ring 256).st ≠ .closed ∨ 10 < bitsOf w.toNat 62 59 ∨ bitsOf w.toNat 34 0 % 65536 ≠ 0 ∨
      2 ^ 35 < bitsOf w.toNat 34 0 + 2 ^ (16 + bitsOf w.toNat 62 59) ∨
      (∃ e ∈ s.cmd.rings, e.2.st ≠ .closed ∧ bitsOf w.toNat 34 0 < e.2.base + 2 ^ (16 + e.2.size) ∧
        e.2.base < bitsOf w.toNat 34 0 + 2 ^ (16 + bitsOf w.toNat 62 59)) →
      exec (.adminRingOpen w) s = .next s)) ∧
  (∀ (s : State) (w : BitVec 64), s.osRuns = true → w.getLsbD 63 = false →
    ((∀ g ∈ s.cmd.progs, g.ring ≠ 256) → Answers (exec (.adminRingClose w) s) fun t =>
      s.only [.cmd] t ∧ s.ringsBut [256] t ∧ t.cmd = { s.cmd with rings := t.cmd.rings, adminDesc := w &&& BitVec.ofNat 64 mRing } ∧
      t.ring 256 = { s.ring 256 with st := .closed, bpSince := none }) ∧
    ((∃ g ∈ s.cmd.progs, g.ring = 256) → exec (.adminRingClose w) s = .next s)))

/-- The look-ahead reads the next announced packet, at most 512 beyond the oldest unaccepted one, once no ring that comes before has one to be read; a launch that it reads is
placed at working clusters, and the Tug starts to fetch there what the launch marks; nothing else changes. A command whose wait under back-pressure ends, or reaches its
job's wait limit, is accepted and attempts its take; the requester counts the wait, and the reply will say BACKPRESSURED. -/
def Obligations.LookAheadAndBackPressure : Prop :=
  (∀ (s : State) (n : Nat) (p : Pkt), s.packetAhead n (s.ring n).ahead = some p → (s.ring n).ahead ≤ 512 → s.paused = false →
    ∀ at_, at_ = n * 2 ^ 32 + p.at_ →
    ((∀ m ∈ s.cmd.rings.keyList, s.ringBefore m n = true → s.unread m = false) →
      (p.op ∉ [0x0202, 0x0502, 0x0503] → exec (.lookAheadRead n) s = .next (s.setRing n { s.ring n with ahead := (s.ring n).ahead + 1 })) ∧
      (Answers (exec (.lookAheadRead n) s) fun t =>
        t.ring n = { s.ring n with ahead := (s.ring n).ahead + 1 } ∧ s.ringsBut [n] t ∧ t.cmd = { s.cmd with rings := t.cmd.rings, aheadAt := t.cmd.aheadAt } ∧
        s.only [.cmd, .place, .free] t ∧ t.place = { s.place with fetches := t.place.fetches, shadows := t.place.shadows } ∧
        (p.op = 0x0502 → s.only [.cmd] t) ∧
        (n ≠ 256 → p.masks.isSome = true → p.op = 0x0202 → ∃ cs, t.cmd.aheadAt.get? at_ = some cs ∧ (∀ l, s.cmd.aheadAt.get? at_ = some l → cs = l) ∧
          (s.cmd.aheadAt.get? at_ = none → ∀ c ∈ cs, c < 24 ∧ s.enabled c = true ∧ (s.cluster c).svc = .inService ∧ (s.cluster c).keepGated = false) ∧
          (∀ c, c ∉ cs → t.place.fetches.getD c [] = s.place.fetches.getD c []) ∧
          (∀ c, ∀ x ∈ s.place.fetches.getD c [], x ∈ t.place.fetches.getD c []) ∧
          ∀ c, ∀ x ∈ t.place.fetches.getD c [], x ∈ s.place.fetches.getD c [] ∨
            ((∃ h ∈ p.prefetchable, x.handle = h.1) ∧ x.ring = n ∧ x.at_ = p.at_ ∧ x.read = false)))) ∧
    ((∃ m ∈ s.cmd.rings.keyList, s.ringBefore m n = true ∧ s.unread m = true) → exec (.lookAheadRead n) s = .next s)) ∧
  (∀ (s : State) (n : Nat) (p : Pkt) (since : Nat) (e : Nat), s.packet n = some p → (s.ring n).bpSince = some since → engineOf p.op = some e →
    ∀ w r c, w = max 1 (((s.now - since) + 24) / 25) → r = p.job * 16 + e →
      c ∈ ([(.backpressureEnd n, !s.backpressured p),
        (.backpressureWaitLimit n, (s.cmd.jobs.get? p.job).any fun j => decide (since + 1000 * j.waitMs * 25 ≤ s.now))] : List (Instr × Bool)) → c.2 = true →
    ∀ u, u = s.setReq r { s.req r with bpWait := min ((s.req r).bpWait + w) (2 ^ 32 - 1) } →
      exec c.1 s = .next (u.take1 p (waitingBads p.op) (waitingEff p.op)) ∧
      ((u.accept p).cmd.progs.getLast?.map fun g => (g.bp, g.bpWait)) = some (true, w) ∧
      ∀ b, u.refusal p (waitingBads p.op) = some b → u.mem.clean (sysKey ((s.ring n).addr (s.ring n).head)) p.bytes.length = true → s.prog n p.at_ = none →
        Takes (exec c.1 s) n fun v => u.inProgress p v ∧ v.outcomeAt n p.at_ = some (Outc.of b.1 b.2) ∧ u.only [.cmd] v)

/-- A packet is accepted in its ring's order: HEAD moves past it, it is in progress, and its job's command log gains its bytes up to its reply slot; NOP then completes, its
parameter area ignored. The header of the next packet is checked, and an error stops the ring. A packet that a rule refuses has no effect: its command gets the status and
the DETAIL of the reason that comes first (R284, R285), whatever the row, and nothing else changes. -/
def Obligations.Packets : Prop :=
  ((∀ (s : State) (n : Nat) (p : Pkt), s.takes n p (fun p => p.op = 0) (fun _ _ => []) → Takes (exec (.nop n) s) n fun u => s.completes p [] u ∧ s.only [.cmd] u) ∧
  (∀ (s : State) (n : Nat) (p : Pkt), s.packet n = some p →
    s.only [.cmd] (s.accept p) ∧ s.ringsBut [n] (s.accept p) ∧ (s.accept p).cmd.kernels = s.cmd.kernels ∧
    ((s.accept p).ring n).head = (s.ring n).head + BitVec.ofNat 32 (64 * bitsOf p.hdr.toNat 26 16) ∧
    ((s.accept p).ring n).tail = (s.ring n).tail ∧ ((s.accept p).ring n).done = (s.ring n).done ∧ ((s.accept p).ring n).st = (s.ring n).st ∧
    s.jobsBut (n / 4) (s.accept p) ∧ (n = 256 → (s.accept p).cmd.jobs = s.cmd.jobs) ∧
    ∀ j, n ≠ 256 → s.cmd.jobs.get? (n / 4) = some j →
      (s.accept p).cmd.jobs.get? (n / 4) = some { j with cmdLog := j.cmdLog.put (n % 4) (j.cmdLog.getD (n % 4) [] ++ p.bytes.take (64 * bitsOf p.hdr.toNat 37 27)) }) ∧
  (∀ (s : State) (n : Nat), (s.ring n).st = .running → (s.ring n).head ≠ (s.ring n).tail →
    ∀ h len slot rlen plen op, h = s.headerAt (s.ring n) (s.ring n).head → len = 64 * bitsOf h.toNat 26 16 → slot = 64 * bitsOf h.toNat 37 27 →
      rlen = 64 * bitsOf h.toNat 48 38 → plen = bitsOf h.toNat 111 96 → op = bitsOf h.toNat 15 0 →
    ∀ e, e = (if len = 0 ∨ 65536 < len then 1
        else if (s.ring n).bytes < (s.ring n).head.toNat % (s.ring n).bytes + len then 2
        else if ((s.ring n).tail - (s.ring n).head).toNat < len then 3
        else if slot < 32 + plen ∨ len < slot + rlen ∨ (rlen = 0 ∧ op ≠ 0) then 4 else 0) →
    (e = 0 → s.checkHead n = s) ∧
    (e ≠ 0 → s.checkHead n = s.setRing n { s.ring n with st := .stopped, err := e, errAt := (s.ring n).head, bpSince := none }))) ∧
  (∀ (s : State) (n : Nat) (p : Pkt) (b : Bad) (a1 a2 : Nat) (l : List Nat),
    (∀ r ∈ ([⟨.nop, fun p => !p.hasRow, fun p _ => mal 0 (p.op != 0)⟩, ⟨.fence, isOp 0x0004, fun _ _ => []⟩, ⟨.wait, isOp 0x0006, badWord⟩,
        ⟨(.berthAlloc · a1 a2), isOp 0x0101, berthAllocBad⟩, ⟨.berthHint, isOp 0x0103, berthHintBad⟩, ⟨(.berthPin · a1), isOp 0x0104, berthPinBad⟩,
        ⟨.berthCopy, isOp 0x0106, berthCopyBad⟩, ⟨.berthFill, isOp 0x0107, berthFillBad⟩, ⟨(.kernelLoad · a1), isOp 0x0201, kernelLoadBad⟩,
        ⟨(.kernelLaunch · l), fun p => p.op = 0x0202 && !launchHeld p s, launchBad⟩, ⟨.kernelAbort, isOp 0x0203, fun _ _ => []⟩,
        ⟨.routePlan, isOp 0x0301, routePlanBad⟩, ⟨.dispatch, isOp 0x0302, dispatchBad⟩, ⟨.combine, isOp 0x0303, gatherBad⟩,
        ⟨.combineGrad, isOp 0x0305, combineGradBad⟩, ⟨.dispatchGrad, isOp 0x0304, gatherBad⟩, ⟨.expertMap, isOp 0x0306, expertMapBad⟩,
        ⟨.scaleAgree, isOp 0x0405, scaleAgreeBad⟩, ⟨.reduce, isOp 0x0401, reduceBad⟩, ⟨.gather, isOp 0x0402, gatherAllBad⟩,
        ⟨.broadcast, isOp 0x0404, broadcastBad⟩, ⟨.permute, isOp 0x0403, permuteBad⟩, ⟨.barrier, isOp 0x0406, barrierBad⟩,
        ⟨.stashPut, isOp 0x0501, stashPutBad⟩, ⟨.stashGet, isOp 0x0502, stashGetBad⟩, ⟨(.prefetch · a1), isOp 0x0503, prefetchBad⟩,
        ⟨(.poolCreate · a1 a2), isOp 0x0601, poolCreateBad⟩, ⟨.poolQuota, fun p => p.op = 0x0602 && !p.bit 0 10, poolQuotaBad⟩,
        ⟨.poolStatus, isOp 0x0603, noPool⟩, ⟨.energyRead, isOp 0x0703, energyBad⟩, ⟨.healthRead, isOp 0x0801, fun p _ => mal 0 (7 ≤ p.f 0 3 0)⟩,
        ⟨.linkStatus, isOp 0x0902, fun p _ => mal 0 (p.bit 0 37 && !p.admin)⟩,
        ⟨.windowChange, isWindow 1, fun p s => windowBad true p s ++ windowEntryBad p s⟩, ⟨.windowRead, isWindow 3, fun p s => windowBad false p s ++ entryZero p⟩,
        ⟨.addFarEndpoint, isWindow 4, addFarBad⟩, ⟨.digest, isOp 0x0A01, scanBad⟩, ⟨.checkValue, isOp 0x0A02, checkBad⟩,
        ⟨.stepRecord, isOp 0x0A03, stepRecordBad⟩] : List PacketRow),
      s.refuses n p r.sel r.bads b → Takes (exec (r.cmd n) s) n fun u =>
        s.inProgress p u ∧ u.outcomeAt n p.at_ = some { Outc.of b.1 b.2 with results := if p.op = 0x0202 then [0, 0] else [] } ∧ s.only [.cmd] u) ∧
    (∀ r ∈ ([⟨fun _ => .jobOpen a1 a2, isOp 0x0001, jobOpenBad⟩, ⟨fun _ => .jobClose, isOp 0x0002, noJob⟩, ⟨fun _ => .jobPriority, isOp 0x0003, noJob⟩,
        ⟨fun _ => .clockMode, isOp 0x0702, fun p _ => mal 0 (5 < p.clockStep)⟩, ⟨fun _ => .clusterStateRead, isClusterState 0, clusterBad⟩,
        ⟨fun _ => .clusterStateGate, isClusterState 1, clusterBad⟩, ⟨fun _ => .clusterStateWake, isClusterState 2, clusterBad⟩,
        ⟨fun _ => .clusterStateAutomatic, isClusterState 3, clusterBad⟩, ⟨fun _ => .fuseRow, isRepair 1, fuseRefused 0⟩,
        ⟨fun _ => .fuseCol, isRepair 2, fuseRefused 2⟩, ⟨fun _ => .cablePlan, isOp 0x0901, fun _ _ => []⟩,
        ⟨fun _ => .calendarSet, isOp 0x0B02, fun p _ => mal 0 (p.w 0 = 0)⟩] : List PacketRow),
      s.refuses 256 p r.sel r.bads b → Takes (exec (r.cmd 256) s) 256 fun u =>
        s.inProgress p u ∧ u.outcomeAt 256 p.at_ = some (Outc.of b.1 b.2) ∧ s.only [.cmd] u))

/-- A command completes once its work has ended: its reply is written whole, with DONE, its status, notes, DETAIL, SEQ, results as far as they fit, and its times; DONE of the
ring passes it, and IRQ raises the ring's interrupt. A job that closes is gone with everything of its own; a freed berth is gone, and its entry's GEN has advanced. -/
def Obligations.CommandsComplete : Prop :=
  ∀ (s : State) (n at_ : Nat) (g : Prog) (o : Outc), s.prog n at_ = some g → s.progOutcome g = some o → s.mem.wf = true →
    (g.work = .none → ∀ rs key note fits rbytes len status detail, rs = s.resultsAt g o → key = sysKey ((s.ring n).addr (BitVec.ofNat 32 at_ + phSlot g.hdr)) → note = o.note ||| g.note →
      fits = rs.take ((phRlen g.hdr - 32) / 8) → rbytes = 8 * fits.length → len = 64 * bitsOf g.hdr.toNat 26 16 →
      status = (if 0x0100 ≤ o.status then o.status else if g.bp = true then 0x0103 else if note ≠ 0 then 0x0001 else o.status) →
      detail = (if 0x0200 ≤ o.status then o.detail else if note.getLsbD 8 = true then o.detail else if note.getLsbD 3 = true then g.noteDetail else 0) →
      Answers (exec (.commandComplete n at_) s) fun t =>
        t.prog n at_ = none ∧ s.ringsBut [n] t ∧
        (∀ m a, (m ≠ n ∨ a ≠ at_) → t.prog m a = s.prog m a) ∧
        (phRlen g.hdr = 0 → s.bytesSame t) ∧
        (phRlen g.hdr ≠ 0 →
          t.mem.read key (32 + rbytes) =
            leBytes 2 status ++ leBytes 2 note.toNat ++ leBytes 2 (1 + if fits.length < rs.length then 2 else 0) ++ leBytes 2 rbytes ++
              leBytes 4 (bitsOf g.hdr.toNat 95 64) ++ leBytes 4 detail.toNat ++ leBytes 4 (min g.bpWait (2 ^ 32 - 1)) ++
              leBytes 4 (min (ceilUs g.netWait) (2 ^ 32 - 1)) ++ leBytes 4 (min ((s.now - g.acceptedAt) / 25) (2 ^ 32 - 1)) ++
              leBytes 4 (min ((g.acceptedAt - g.bellAt) / 25) (2 ^ 32 - 1)) ++ (fits.flatMap fun w => leBytes 8 w.toNat) ∧
          s.bytesBut key (32 + rbytes) t) ∧
        ((s.ring n).done.toNat = at_ → (s.ring n).finished = [] → len ≠ 0 → (t.ring n).done = (s.ring n).done + BitVec.ofNat 32 len) ∧
        (g.hdr.getLsbD 50 = true → t.out.head? = some (.irq (s.ring n).irqCore (n + 1)))) ∧
    (∀ j since, g.work = .close j since → o.status < 0x0100 → Answers (exec (.commandComplete n at_) s) fun t =>
      t.prog n at_ = none ∧ t.cmd.jobs.get? j = none ∧ (∀ e ∈ t.cmd.kernels, e.2.job ≠ j) ∧ (∀ e ∈ t.place.berths, e.2.job ≠ j) ∧
      (∀ e ∈ t.exch.bindings, e.2.job ≠ j) ∧ (∀ e ∈ t.exch.plans, e.2.job ≠ j) ∧ (∀ e ∈ t.coll.agrees, e.2.job ≠ j) ∧
      (∀ e ∈ t.net.windows, e.2.job ≠ j) ∧ (∀ e ∈ t.quay.pools, e.2.job ≠ j) ∧
      (g.claims = [] → g.taken = [] → ∀ e ∈ t.quay.reqs, e.1 / 16 ≠ j) ∧
      ∀ i < 4, 4 * j + i ≠ n → j < 64 → (t.ring (4 * j + i)).st = .closed) ∧
    (∀ i b, g.work = .berthFree i → o.status < 0x0100 → s.place.berths.get? i = some b → Answers (exec (.commandComplete n at_) s) fun t =>
      t.prog n at_ = none ∧ t.place.berths.get? i = none ∧ t.place.gens.get? i = some (if b.gen = 65535 then 1 else b.gen + 1) ∧
      ∀ a, i * 2 ^ 48 ≤ a → a < (i + 1) * 2 ^ 48 → phRlen g.hdr = 0 → cellGet t.mem.cells a = 0) ∧
    ((bitsOf g.hdr.toNat 15 0 ≠ 0x0105 → s.resultsAt g o = o.results) ∧ ∀ job, s.cmd.jobs.get? (g.ring / 4) = some job →
      bitsOf g.hdr.toNat 15 0 = 0x0105 → g.pkt.f 0 34 32 = 2 → s.resultsAt g o = o.results.set 6 (if job.frozen = true then 1 else 0))

/-! ### Jobs -/

/-- JOB_OPEN makes a job with the class, limits, signal words, granule table and rings that its parameters say, in a free slot and a free run of signal words; JOB_PRIORITY
sets the priority and returns the former one. JOB_CLOSE stops acceptance on the job's rings and waits for their packets; with ABORT it discards the unaccepted ones, of
which it returns the number, and ends those in progress. When the job's wait limit passes first it ends with TIMEOUT, and the job stays open. -/
def Obligations.Jobs : Prop :=
  ((∀ (s : State) (slot base : Nat) (p : Pkt), s.takes 256 p (isOp 0x0001) jobOpenBad → s.mem.clean (sysKey (p.f 4 34 0)) (8 * p.f 4 60 48) = true →
    ∀ words gs, words = p.f 2 28 16 → gs = s.mem.read (sysKey (p.f 4 34 0)) (8 * p.f 4 60 48) →
    Takes (exec (.jobOpen slot base) s) 256 fun u => ∃ j b, j < 64 ∧ s.cmd.jobs.has j = false ∧ b + words ≤ 4096 ∧
      (∀ x ∈ s.cmd.jobs, b + words ≤ x.2.sigBase ∨ x.2.sigBase + x.2.sigWords ≤ b ) ∧
      u.jobIs j (fun x => x.seed = p.w 0 ∧ x.filler = p.bit 1 63 ∧ x.prio = p.f 1 56 49 ∧ x.thin = (if p.bit 1 48 = true then p.f 1 40 32 else 64) ∧
        x.rare = p.f 1 31 0 ∧ x.waitMs = (if p.f 2 15 0 = 0 then 1000 else p.f 2 15 0) ∧ x.sigBase = b ∧ x.sigWords = words ∧ x.step = p.w 3 ∧
        x.granules = (wordsOf (p.f 4 60 48) gs).map (fun w => (bitsOf w.toNat 31 0, bitsOf w.toNat 55 32)) ∧ x.gcrc = crc64 gs ∧ x.closing = none) ∧
      s.jobsBut j u ∧ u.doneAt 256 p.at_ [BitVec.ofNat 64 j, crc64 gs] ∧
      (∀ i < 4, (p.w (5 + i)).getLsbD 63 = true → (u.ring (4 * j + i)).st = .running ∧ (u.ring (4 * j + i)).size = bitsOf (p.w (5 + i)).toNat 62 59 ∧
        (u.ring (4 * j + i)).base = bitsOf (p.w (5 + i)).toNat 34 0 ∧ (u.ring (4 * j + i)).tail = 0 ∧ (u.ring (4 * j + i)).head = 0 ∧ (u.ring (4 * j + i)).done = 0) ∧
      (∀ i < 4, (p.w (5 + i)).getLsbD 63 = false → u.ring (4 * j + i) = s.ring (4 * j + i)) ∧ (∀ m, m ≠ 256 → m / 4 ≠ j → u.ring m = s.ring m) ∧
      (∀ i, b ≤ i → i < b + words → u.signalWord i = 0) ∧ (∀ i, (i < b ∨ b + words ≤ i) → u.signalWord i = s.signalWord i) ∧
      s.only [.cmd, .comp] u ∧ u.comp = { s.comp with signals := u.comp.signals }) ∧
  (∀ (s : State) (p : Pkt) (j : Job), s.takes 256 p (isOp 0x0003) noJob → s.cmd.jobs.get? (p.f 0 5 0) = some j →
    Takes (exec .jobPriority s) 256 fun u => u.cmd.jobs.get? (p.f 0 5 0) = some { j with prio := p.f 0 15 8 } ∧ s.jobsBut (p.f 0 5 0) u ∧
      u.doneAt 256 p.at_ [BitVec.ofNat 64 j.prio] ∧ s.only [.cmd] u ∧ s.ringsBut [256] u ∧ u.cmd.kernels = s.cmd.kernels)) ∧
  ((∀ (s : State) (p : Pkt) (j : Nat) (x : Job), s.takes 256 p (isOp 0x0002) noJob → j = p.f 0 5 0 → s.cmd.jobs.get? j = some x →
    (p.bit 0 8 = false → Takes (exec .jobClose s) 256 fun u => u.cmd.jobs.get? j = some { x with closing := some s.now } ∧ s.jobsBut j u ∧ s.ringsBut [256] u ∧
      (u.prog 256 p.at_).map (fun g => (g.work, g.outcome)) = some (.close j s.now, none) ∧ s.only [.cmd] u) ∧
    (p.bit 0 8 = true → Takes (exec .jobClose s) 256 fun u => u.jobIs j (fun y => y.closing = some s.now) ∧
      u.doneAt 256 p.at_ [BitVec.ofNat 64 (s.unaccepted j)] ∧ (∀ i < 4, (s.ring (4 * j + i)).st ≠ .closed → (u.ring (4 * j + i)).head = (s.ring (4 * j + i)).tail) ∧
      (∀ g ∈ u.cmd.progs, g.ring / 4 = j → g.ring ≠ 256 → (∀ l, g.work ≠ .launch l) → g.outcome = some { status := 0x0402, note := 0x0200, detail := 0, results := [] }) ∧
      s.bytesSame u ∧ u.quay = s.quay ∧ u.place = s.place ∧ u.exch = s.exch ∧ u.coll = s.coll)) ∧
  (∀ (s : State) (j t0 : Nat) (x : Job) (g : Prog), s.prog 256 g.at_ = some g → g.work = .close j t0 → g.outcome = none →
    (∀ h ∈ s.cmd.progs, (∃ t, h.work = .close j t) → h = g) → s.cmd.jobs.get? j = some x → t0 + 1000 * x.waitMs * 25 ≤ s.now → s.drained j = false →
    Answers (exec (.jobCloseTimeout j) s) fun t => t.cmd.jobs.get? j = some { x with closing := none } ∧ s.jobsBut j t ∧
      t.outcomeAt 256 g.at_ = some (Outc.of 0x0403 0) ∧ t.cmd.rings = s.cmd.rings ∧ s.only [.cmd] t))

/-- FENCE completes at once, or with JOB_WIDE when the packets of the job's other rings accepted before it have; SIGNAL adds to a word of this module, or sends the add to a
present peer; WAIT completes when the word is at least VALUE, unsigned, or with TIMEOUT at the job's wait limit. -/
def Obligations.FencesSignalsWaits : Prop :=
  (∀ (s : State) (n : Nat) (p : Pkt), s.takes n p (isOp 0x0004) (fun _ _ => []) →
    ∀ others, others = (s.cmd.progs.filter fun g => g.ring != n && g.ring / 4 = n / 4 && g.ring != 256).map (fun g => (g.ring, g.at_)) →
    ((p.bit 0 0 = false ∨ n = 256 ∨ others = []) → ∃ u : State, exec (.fence n) s = .next (u.checkHead n) ∧ s.completes p [] u ∧ s.only [.cmd] u) ∧
    (p.bit 0 0 = true → n ≠ 256 → others ≠ [] → ∃ u : State, exec (.fence n) s = .next (u.checkHead n) ∧ s.inProgress p u ∧ s.only [.cmd] u ∧
      (u.prog n p.at_).map (fun g => (g.work, g.outcome)) = some (.fence others, none))) ∧
  (∀ (s : State) (n m : Nat) (p : Pkt) (j : Job), s.takes n p (isOp 0x0005)
      (fun p s => badWord p s ++ mal 0 (!(p.f 0 31 16 = 0xFFFF || s.ownIndex = some (p.f 0 31 16)) && s.noModule (p.f 0 31 16))) →
    m = p.f 0 31 16 → n ≠ 256 → s.cmd.jobs.get? (n / 4) = some j →
    ((m = 0xFFFF ∨ s.ownIndex = some m) → ∃ u : State, exec (.signal n) s = .next (u.checkHead n) ∧ s.completes p [] u ∧ s.only [.cmd, .comp] u ∧
      u.comp = { s.comp with signals := u.comp.signals } ∧ u.signalWord (j.sigBase + p.f 0 11 0) = s.signalWord (j.sigBase + p.f 0 11 0) + p.w 1 ∧
      ∀ i, i ≠ j.sigBase + p.f 0 11 0 → u.signalWord i = s.signalWord i) ∧
    (m ≠ 0xFFFF → s.ownIndex ≠ some m → s.ownIndex ≠ none → s.peerPresent m = true → ∃ u : State, exec (.signal n) s = .next (u.checkHead n) ∧ s.inProgress p u ∧ u.outcomeAt n p.at_ = none ∧ s.sends m (.signal m (BitVec.ofNat 64 (p.f 0 11 0)) (p.w 1)) (some (n, p.at_)) u ∧
      s.only [.cmd, .net, .out, .free] u) ∧
    (m ≠ 0xFFFF → s.ownIndex ≠ some m → s.peerPresent m = false → ∃ u : State, exec (.signal n) s = .next (u.checkHead n) ∧ s.inProgress p u ∧ u.outcomeAt n p.at_ = some { status := 0x0404, note := 0x0100, detail := BitVec.ofNat 32 (0x20 * 2 ^ 24 + m), results := [] } ∧ s.only [.cmd] u)) ∧
  (∀ (s : State) (n : Nat) (p : Pkt) (j : Job), s.takes n p (isOp 0x0006) badWord → n ≠ 256 → s.cmd.jobs.get? (n / 4) = some j →
    ∃ u : State, exec (.wait n) s = .next (u.checkHead n) ∧ s.inProgress p u ∧ s.only [.cmd] u ∧
      (u.prog n p.at_).map (fun g => (g.work, g.outcome)) = some (.signalWait (j.sigBase + p.f 0 11 0) (p.w 1) s.now, none) ∧
      ((p.w 1).toNat ≤ (s.signalWord (j.sigBase + p.f 0 11 0)).toNat → ∃ g, u.prog n p.at_ = some g ∧ u.progOutcome g = some { Outc.of 0 0 with results := [s.signalWord (j.sigBase + p.f 0 11 0)] })) ∧
  (∀ (s : State) (g : Prog) (w since : Nat) (v : W64), g.outcome = none → g.work = .signalWait w v since →
    (v.toNat ≤ (s.signalWord w).toNat → s.progOutcome g = some { Outc.of 0 0 with results := [s.signalWord w] }) ∧
    ((s.signalWord w).toNat < v.toNat → ∀ j, g.ring ≠ 256 → s.cmd.jobs.get? (g.ring / 4) = some j →
      (since + 1000 * j.waitMs * 25 ≤ s.now → s.progOutcome g = some (Outc.of 0x0403 0)) ∧ (s.now < since + 1000 * j.waitMs * 25 → s.progOutcome g = none)))

/-! ### Pools -/

/-- POOL_CREATE makes a pool of free descriptors over its backing berth; POOL_QUOTA binds a requester to it with a minimum and a maximum, UNBIND undoes that, both returning
the former limits; POOL_STATUS returns the entries and on request clears the warnings. A take of buffers: granted whole in ascending order, while the requester's MAX and
the pool's unreserved free count allow it, and otherwise refused with the shortfall, the refusal counted and nothing else changed. -/
def Obligations.PoolsAndBuffers : Prop :=
  ((∀ (s : State) (n pick first : Nat) (p : Pkt), s.takes n p (isOp 0x0601) poolCreateBad → Takes (exec (.poolCreate n pick first) s) n fun u =>
    ∃ i f q, i < 64 ∧ s.quay.pools.has i = false ∧ u.quay.pools = s.quay.pools.put i q ∧ u.quay = { s.quay with pools := u.quay.pools } ∧
      q.backing = p.lo 0 ∧ q.first = f ∧ q.count = p.f 0 52 36 ∧ q.held = 0 ∧ q.size = p.f 0 35 32 ∧ q.job = n / 4 ∧ q.sigEn = p.bit 0 53 ∧ q.signal = p.f 1 11 0 ∧
      f + q.count ≤ 65536 ∧ (∀ e ∈ s.quay.pools, f + q.count ≤ e.2.first ∨ e.2.first + e.2.count ≤ f) ∧
      (∀ b, s.place.berths.get? (handleIndex (p.lo 0)) = some b → u.place.berths.get? (handleIndex (p.lo 0)) = some { b with pool := some i }) ∧
      s.completes p [BitVec.ofNat 64 (f * 2 ^ 16 + i)] u ∧ s.only [.cmd, .quay, .place] u) ∧
  (∀ (s : State) (n r : Nat) (p : Pkt), r = n / 4 * 16 + p.f 0 9 6 →
    (s.takes n p (fun p => p.op = 0x0602 && !p.bit 0 10) poolQuotaBad → Takes (exec (.poolQuota n) s) n fun u =>
      (u.req r).pool = some (p.f 0 5 0) ∧ (u.req r).min = p.f 1 16 0 ∧ (u.req r).max = p.f 1 48 32 ∧ (u.req r).held = (s.req r).held ∧
      (∀ i, i ≠ r → u.req i = s.req i) ∧ u.quay = { s.quay with reqs := u.quay.reqs } ∧
      s.completes p [BitVec.ofNat 64 ((s.req r).max * 2 ^ 32 + (s.req r).min)] u ∧ s.only [.cmd, .quay] u) ∧
    (s.takes n p (fun p => p.op = 0x0602 && p.bit 0 10)
        (fun p s => noPool p s ++ mal 0 (5 < p.f 0 9 6 || (s.req p.quotaReq).held != 0 || (s.req p.quotaReq).pool != some (p.f 0 5 0))) →
      Takes (exec (.unbind n) s) n fun u => (u.req r).pool = none ∧ (u.req r).held = 0 ∧ (∀ i, i ≠ r → u.req i = s.req i) ∧
        u.quay = { s.quay with reqs := u.quay.reqs } ∧ s.completes p [BitVec.ofNat 64 ((s.req r).max * 2 ^ 32 + (s.req r).min)] u ∧ s.only [.cmd, .quay] u)) ∧
  (∀ (s : State) (n : Nat) (p : Pkt) (q : Pool), s.takes n p (isOp 0x0603) noPool → s.quay.pools.get? (p.f 0 5 0) = some q →
    Takes (exec (.poolStatus n) s) n fun u => s.completes p (s.poolWords p (p.f 0 5 0) q) u ∧
      (p.bit 0 7 = false → s.only [.cmd] u) ∧
      (p.bit 0 7 = true → s.only [.cmd, .quay] u ∧ u.quay.descs = s.quay.descs ∧ u.quay.pools = s.quay.pools.put (p.f 0 5 0) { q with warn := false } ∧
        ∀ r x, s.quay.reqs.get? r = some x → u.quay.reqs.get? r = some (if x.pool = some (p.f 0 5 0) then { x with warn := false, peak := x.held } else x)))) ∧
  (∀ (s : State) (r n : Nat) (owners : List Nat) (step : W64) (x : Req), x = s.req r → 0 < n →
    ((if x.pool.isSome = true then x.max else 0) < x.held + n →
      (s.quayTake r n owners step).1 = { status := 0x0201, detail := detailWord 0x09 (x.held + n - if x.pool.isSome = true then x.max else 0), descs := [], warned := none } ∧
      (s.quayTake r n owners step).2 = s.setReq r { x with refusals := min 65535 (x.refusals + 1) }) ∧
    ∀ i q, x.pool = some i → s.quay.pools.get? i = some q → x.held + n ≤ x.max →
      (s.unreserved i q < n - x.unmet → (s.quayTake r n owners step).1 =
          { status := 0x0202, detail := detailWord 0x0A (n - x.unmet - s.unreserved i q), descs := [], warned := none } ∧
        (s.quayTake r n owners step).2 = s.setReq r { x with refusals := min 65535 (x.refusals + 1) }) ∧
      (n - x.unmet ≤ s.unreserved i q → (s.quayTake r n owners step).1.status = 0 ∧
        (s.quayTake r n owners step).1.descs = (((List.range q.count).map (q.first + ·)).filter fun d => !(s.desc d).held).take n ∧
        ((s.quayTake r n owners step).2.req r).held = x.held + n ∧
        (∀ d ∈ (s.quayTake r n owners step).1.descs, ((s.quayTake r n owners step).2.desc d).held = true ∧
          ((s.quayTake r n owners step).2.desc d).charge = r ∧ ((s.quayTake r n owners step).2.desc d).gen = (s.desc d).gen) ∧
        ∀ d, d ∉ (s.quayTake r n owners step).1.descs → (s.quayTake r n owners step).2.desc d = s.desc d))

/-! ### Berths and kernels -/

/-- BERTH_ALLOC makes a berth of the class, length and hints it asks for, in a free entry, under a handle with that entry's GEN; BERTH_FREE marks a berth FREEING; BERTH_HINT
changes hints and freezes or unfreezes placement; BERTH_PIN pins a hot berth in a cluster with room, and unpins it. BERTH_QUERY returns its words and changes nothing;
BERTH_COPY copies the bytes as they stood, or one tile transposed, and BERTH_FILL writes its pattern or its random data; no other byte changes. A copy of poisoned bytes
ends UNCORRECTABLE. -/
def Obligations.Berths : Prop :=
  ((∀ (s : State) (n pick cluster : Nat) (p : Pkt), s.takes n p (isOp 0x0101) berthAllocBad →
    ∀ cls len hints, cls = p.f 0 49 48 → len = p.f 0 47 0 → hints = (p.w 0).extractLsb' 50 12 →
    Takes (exec (.berthAlloc n pick cluster) s) n fun u => ∃ i b, 1 ≤ i ∧ i < 32768 ∧ s.place.berths.has i = false ∧
      (1 ≤ pick → pick < 32768 → s.place.berths.has pick = false → i = pick) ∧ u.place.berths.get? i = some b ∧
      b.gen = s.place.gens.getD i 1 ∧ b.job = n / 4 ∧ b.shared = (if p.bit 1 0 = true then some (p.f 1 6 1) else none) ∧ b.length = len ∧ b.cls = cls ∧
      b.hints = hints ∧ b.pages = [] ∧ b.freeing = false ∧ b.pool = none ∧ u.doneAt n p.at_ [(mkHandle b.gen i).setWidth 64] ∧
      (cls = 3 → ∃ c, b.pinAt = some c ∧ s.pinFits len c = true) ∧
      (cls ≠ 3 → b.pinAt = none ∧ s.completes p [(mkHandle b.gen i).setWidth 64] u ∧ s.only [.cmd, .place] u ∧ u.place = { s.place with berths := s.place.berths.put i b })) ∧
  (∀ (s : State) (n i : Nat) (p : Pkt) (b : Berth), i = handleIndex (p.lo 0) → s.place.berths.get? i = some b →
    (s.takes n p (isOp 0x0102) (fun p s => s.handleBad p.job 0 (p.lo 0) ++ mal 0 ((s.berthAt (p.lo 0)).any fun b => b.pool.isSome || b.freeing)) →
      Takes (exec (.berthFree n) s) n fun u => s.inProgress p u ∧ (u.prog n p.at_).map (fun g => (g.work, g.outcome)) = some (.berthFree i, none) ∧
        u.place = { s.place with berths := s.place.berths.put i { b with freeing := true } } ∧ s.only [.cmd, .place] u) ∧
    (s.takes n p (isOp 0x0103) berthHintBad → Takes (exec (.berthHint n) s) n fun u => u.doneAt n p.at_ [] ∧ s.only [.cmd, .place] u ∧ s.jobsBut (n / 4) u ∧
      (p.bit 0 44 = true → u.place = { s.place with berths := s.place.berths.put i { b with hints := (p.w 0).extractLsb' 32 12 } }) ∧
      (p.bit 0 44 = false → u.place = s.place) ∧
      (p.f 0 46 45 = 1 → ∀ j, s.cmd.jobs.get? (n / 4) = some j → n < 256 → u.jobIs (n / 4) fun x => x.frozen = true ∧ x.frozenStep = (j.frozen && j.frozenStep)) ∧
      (p.f 0 46 45 = 2 → ∀ j, s.cmd.jobs.get? (n / 4) = some j → n < 256 → u.jobIs (n / 4) fun x => x.frozen = false ∧ x.frozenStep = false)) ∧
    (∀ cluster, s.takes n p (isOp 0x0104) berthPinBad →
      (p.bit 0 32 = false → Takes (exec (.berthPin n cluster) s) n fun u => s.completes p [] u ∧ s.only [.cmd, .place] u ∧
        ∃ d, u.place = { s.place with berths := s.place.berths.put i { b with cls := 0, pinAt := none, desc := d } }) ∧
      (p.bit 0 32 = true → b.cls = 3 → Takes (exec (.berthPin n cluster) s) n fun u => s.completes p [] u ∧ s.only [.cmd] u) ∧
      (p.bit 0 32 = true → b.cls ≠ 3 → Takes (exec (.berthPin n cluster) s) n fun u => u.doneAt n p.at_ [] ∧ s.only [.cmd, .place, .chip, .free] u ∧
        ∃ c y, s.pinFits b.length c = true ∧ u.place.berths.get? i = some y ∧ y.cls = 3 ∧ y.pinAt = some c ∧ y.length = b.length ∧ y.gen = b.gen ∧ y.hints = b.hints)))) ∧
  ((∀ (s : State) (n : Nat) (p : Pkt),
    s.takes n p (isOp 0x0105) (fun p s => mal 0 (4 < p.f 0 34 32) ++ (if p.f 0 34 32 < 2 then s.handleBad p.job 0 (p.lo 0) else [])) →
    Takes (exec (.berthQuery n) s) n fun u => s.completes p ((s.accept p).queryWords p) u ∧ s.only [.cmd] u) ∧
  (∀ (s : State) (n : Nat) (p : Pkt), s.takes n p (isOp 0x0106) berthCopyBad → s.mem.wf = true →
    ∀ ss so ds dofs len k1 k2 src, ss = p.bit 1 48 → so = p.f 1 47 0 → ds = p.bit 2 48 → dofs = p.f 2 47 0 → len = (p.w 3).toNat →
      k1 = spaceKey ss (p.lo 0) so → k2 = spaceKey ds (p.hi 0) dofs → src = (if ss = true then s else s.laSync k1 len) →
      (ds = false → s.spanLost (p.hi 0) dofs len = false) →
    (p.bit 4 4 = false → (ss = false → s.spanLost (p.lo 0) so len = false) →
      (s.mem.clean k1 len = true → (ss = false → s.spanFailed (p.lo 0) so len = false) →
        Takes (exec (.berthCopy n) s) n fun u => u.doneAt n p.at_ [] ∧
          (∀ i v, (src.mem.read k1 len)[i]? = some v → cellGet u.mem.cells (k2 + i) = v) ∧
          ∀ a, (a < k2 ∨ k2 + len ≤ a) → (ss = false → s.offRecords k1 len a) → (ds = false → s.offRecords k2 len a) →
            cellGet u.mem.cells a = cellGet s.mem.cells a) ∧
      (s.mem.errors = [] → s.mem.poisoned k1 len = true → Takes (exec (.berthCopy n) s) n fun u => u.outcomeAt n p.at_ = some (Outc.of 0x0401 0))) ∧
    (p.bit 4 4 = true → s.comp.las = [] → s.mem.errors = [] → s.mem.poison = [] → s.mem.tiles.contains k1 = false →
      (ss = false → s.spanLost (p.lo 0) so (127 * p.f 4 63 32 + elemBytes (p.f 4 3 0) 128) = false ∧
        s.spanFailed (p.lo 0) so (127 * p.f 4 63 32 + elemBytes (p.f 4 3 0) 128) = false) →
      Takes (exec (.berthCopy n) s) n fun u => u.doneAt n p.at_ [] ∧
        (∀ i v, (transposeBytes (elemBytes (p.f 4 3 0) 128 / 128)
          ((List.range 128).map fun r => s.mem.read (k1 + r * p.f 4 63 32) (elemBytes (p.f 4 3 0) 128)))[i]? = some v → cellGet u.mem.cells (k2 + i) = v) ∧
        ∀ a, (a < k2 ∨ k2 + len ≤ a) → cellGet u.mem.cells a = cellGet s.mem.cells a)) ∧
  (∀ (s : State) (n : Nat) (p : Pkt) (j : Job), s.takes n p (isOp 0x0107) berthFillBad → s.mem.wf = true → s.cmd.jobs.get? (n / 4) = some j → n < 256 →
    s.spanLost (p.lo 0) (p.f 1 47 0) p.fillBytes = false → ∀ key data, key = spanKey 0 (p.lo 0) (p.f 1 47 0) → data = p.fillData j →
    Takes (exec (.berthFill n) s) n fun u => u.doneAt n p.at_ [] ∧ (∀ i v, data[i]? = some v → cellGet u.mem.cells (key + i) = v) ∧
      (∀ a, (a < key ∨ key + data.length ≤ a) → s.offRecords key data.length a → cellGet u.mem.cells a = cellGet s.mem.cells a) ∧
      s.only [.cmd, .mem, .place, .comp, .net, .free, .health, .ledger, .chip] u ∧
      (p.bit 0 32 = false → data = (List.replicate ((p.w 2).toNat / 8) (leBytes 8 (p.w 3).toNat)).flatten) ∧
      (p.bit 0 32 = true → p.f 0 34 33 = 0 → data = (List.range (p.f 2 31 0 * p.f 2 63 32)).flatMap fun i => leBytes 4
        (randomWord j.seed j.step (p.f 5 31 0) (((p.w 3).toNat + i / p.f 2 63 32 * (p.w 4).toNat + i % p.f 2 63 32) % 2 ^ 64)))))

/-- KERNEL_LOAD keeps the image that its bytes spell, under a free number. KERNEL_LAUNCH makes a launch with its instances, each with its index, its rank and its unit; an
expert with no accepted choice completes OK_EMPTY. KERNEL_ABORT tells the instances of a launch in progress to end. A filler that committed no restart point in 80 µs is
suspended. -/
def Obligations.Kernels : Prop :=
  (∀ (s : State) (n pick : Nat) (p : Pkt), s.takes n p (isOp 0x0201) kernelLoadBad →
    ∀ sys ofs count key src, sys = p.bit 1 48 → ofs = p.f 1 47 0 → count = p.f 2 12 0 → key = spaceKey sys (p.lo 0) ofs →
      src = (if sys = true then s else s.laSync key (64 * count)) → s.mem.clean key (64 * count) = true →
      (sys = false → s.spanLost (p.lo 0) ofs (64 * count) = false ∧ s.spanFailed (p.lo 0) ofs (64 * count) = false) →
    Takes (exec (.kernelLoad n pick) s) n fun u => ∃ i, i < 1024 ∧ s.cmd.kernels.has i = false ∧ (pick < 1024 → s.cmd.kernels.has pick = false → i = pick) ∧
      (∃ img, img = (List.range count).map (fun x => BitVec.ofNat 512 (leNat (((src.mem.read key (64 * count)).drop (64 * x)).take 64))) ∧
        u.cmd.kernels = s.cmd.kernels.put i { job := n / 4, restartable := p.bit 2 16, image := img }) ∧
      u.doneAt n p.at_ [BitVec.ofNat 64 i] ∧ u.cmd.jobs = (s.accept p).cmd.jobs ∧ u.comp = { s.comp with las := u.comp.las }) ∧
  (∀ (s : State) (n : Nat) (places : List Nat) (p : Pkt) (j : Job), s.takes n p (fun p => p.op = 0x0202 && !launchHeld p s) launchBad →
    n < 256 → s.cmd.jobs.get? (n / 4) = some j →
    ∀ rows units per id groups, rows = ((p.planOf s).map fun x => x.rowsOf (p.f 1 39 28)).getD [] →
      units = (if p.bit 0 52 = true then unitsOf (p.f 1 41 40) rows else [(0, 0, 0)]) → per = p.f 0 31 16 → id = s.comp.nextId →
      groups = units.length * ceilDiv per (p.f 0 35 32 + 1) →
    (p.bit 0 52 = true → rows = [] → Takes (exec (.kernelLaunch n places) s) n fun u =>
      u.outcomeAt n p.at_ = some { status := 0x0002, note := 0, detail := 0, results := [0, 0] } ∧ s.only [.cmd, .quay] u) ∧
    ((p.bit 0 52 = false ∨ rows ≠ []) → Takes (exec (.kernelLaunch n places) s) n fun u =>
      (u.prog n p.at_).map (fun g => (g.work, g.outcome)) = some (.launch id, none) ∧
      (∃ l, u.comp.launches.get? id = some l ∧ l.job = n / 4 ∧ l.ring = n ∧ l.at_ = p.at_ ∧ l.kernel = p.f 0 15 0 ∧ l.total = units.length * per ∧
        l.args = (List.range 8).map (fun i => p.w (3 + i)) ∧ l.filler = j.filler ∧ l.aborted = false) ∧
      ∀ v w i, units[v]? = some w → i < per → ∃ y, u.comp.insts.get? (id + 1 + groups + v * per + i) = some y ∧ y.launch = id ∧ y.index = v * per + i ∧
        y.rank = i % (p.f 0 35 32 + 1) ∧ y.groupSize = min (p.f 0 35 32 + 1) (per - i / (p.f 0 35 32 + 1) * (p.f 0 35 32 + 1)) ∧
        y.rowFirst = w.1 ∧ y.rowCount = w.2.1 ∧ y.runFirst = w.2.2)) ∧
  (∀ (s : State) (n : Nat) (p : Pkt), s.takes n p (isOp 0x0203) (fun _ _ => []) →
    (s.cmd.progs.find? (fun g => g.ring = 4 * (n / 4) + p.f 0 1 0 && bitsOf g.hdr.toNat 15 0 = 0x0202 && bitsOf g.hdr.toNat 95 64 = p.f 0 63 32) = none →
      Takes (exec (.kernelAbort n) s) n fun u => s.inProgress p u ∧ u.outcomeAt n p.at_ = some (Outc.of 0x0002 0) ∧ s.only [.cmd] u) ∧
    (∀ g l x, s.cmd.progs.find? (fun g => g.ring = 4 * (n / 4) + p.f 0 1 0 && bitsOf g.hdr.toNat 15 0 = 0x0202 && bitsOf g.hdr.toNat 95 64 = p.f 0 63 32) = some g →
      g.work = .launch l → s.comp.launches.get? l = some x → x.ring = g.ring → x.at_ = g.at_ →
      Takes (exec (.kernelAbort n) s) n fun u => u.doneAt n p.at_ [] ∧
        ∀ k i y, (s.coreOf k).inst = some i → s.comp.insts.get? i = some y → y.launch = l → y.st = .running k → (u.coreOf k).ending.isSome = true)) ∧
  (∀ (s : State) (k i t0 : Nat) (x : Inst), (s.coreOf k).leave = some t0 → t0 + 80 * 25 ≤ s.now → (s.coreOf k).inst = some i → s.comp.insts.get? i = some x →
    s.restartable k = true → Answers (exec (.fillerPreemptTimeout k) s) fun t => ∃ v : State, t = v.startWaiting ∧
      (v.coreOf k).inst = none ∧ (v.coreOf k).held = [] ∧ v.comp.insts.get? i = some { x with st := .suspended, residue := false } ∧ v.mem = s.mem)

/-! ### Plans and exchanges -/

/-- ROUTE_PLAN, with a marker still to come, makes a plan that waits, and sends its open marker to every other participant; an absent participant ends it with PEER_ABSENT.
EXPERT_MAP adds or removes a binding of its layer and expert. The ranking of one expert's candidates in a round: those of the round, firm ones first, by falling score,
then by rising token and source; the first take the room that is left, and no more. -/
def Obligations.PlansMade : Prop :=
  ((∀ (s : State) (n own : Nat) (p : Pkt), s.takes n p (isOp 0x0301) routePlanBad → n < 256 → s.ownIndex = some own →
    ∀ tag job parts, tag = p.f 0 15 0 → job = n / 4 → parts = p.parts 2 →
    ((∀ o < 128, parts.getLsbD o = true → o ≠ own → s.peerPresent o = true) →
      (∃ o, o < 128 ∧ parts.getLsbD o = true ∧ o ≠ own ∧ ∀ h ∈ s.exch.heldMarkers, ¬ (h.1 = job ∧ h.2.1 = tag ∧ h.2.2.1 = o)) →
      ∃ u : State, exec (.routePlan n) s = .next (u.checkHead n) ∧ ∃ x, u.plan job tag = some x ∧ x.st = .planning .open ∧ x.ring = n ∧ x.at_ = p.at_ ∧ x.busy = false ∧
        x.params = { layer := p.f 0 27 16, experts := p.f 0 40 28, topk := p.f 0 44 41, depth := p.f 0 47 45, cap := p.f 0 63 48, fmt := p.f 1 3 0, width := p.f 1 20 4, parts := parts } ∧
        x.own.params = x.params ∧ x.own.crc = x.crc ∧ x.own.ok = decide (x.own.status = 0) ∧ x.local_ = s.layerExperts job x.params.layer ∧ x.rindex = p.hi 5 ∧ x.rlog = p.lo 5 ∧
        (∀ o < 128, parts.getLsbD o = true → o ≠ own → Out.openMarker o job tag x.own ∈ u.out) ∧
        (∀ h ∈ s.exch.heldMarkers, h.1 = job → h.2.1 = tag → parts.getLsbD h.2.2.1 = true → h.2.2.1 ≠ own → x.markers.has h.2.2.1 = true) ∧
        (u.prog n p.at_).map (fun g => (g.work, g.outcome)) = some (.plan tag, none)) ∧
    (∀ o < 128, parts.getLsbD o = true → o ≠ own → s.peerPresent o = false → (∀ m < o, parts.getLsbD m = true → m ≠ own → s.peerPresent m = true) →
      ∃ u : State, exec (.routePlan n) s = .next (u.checkHead n) ∧ u.plan job tag = none ∧
        u.outcomeAt n p.at_ = some { status := 0x0404, note := 0x0100, detail := BitVec.ofNat 32 (0x20 * 2 ^ 24 + o), results := [] })) ∧
  (∀ (s : State) (n : Nat) (p : Pkt), s.takes n p (isOp 0x0306) expertMapBad → ∀ key, key = n / 4 * 2 ^ 24 + p.f 0 15 4 * 2 ^ 12 + p.f 0 27 16 →
    ∃ u : State, exec (.expertMap n) s = .next (u.checkHead n) ∧ s.completes p [] u ∧ s.only [.cmd, .place, .exch] u ∧ u.place = { s.place with predictor := s.place.predictor.drop key } ∧
      (p.bit 0 0 = true → u.exch = { s.exch with bindings := s.exch.bindings.drop key }) ∧
      (p.bit 0 0 = false → ∃ b : Binding, u.exch = { s.exch with bindings := s.exch.bindings.put key b } ∧ b.job = n / 4 ∧ b.layer = p.f 0 15 4 ∧
        b.expert = p.f 0 27 16 ∧ b.wHandle = p.lo 1 ∧ b.gradHandle = p.hi 1 ∧ b.stepTokens = 0 ∧ b.accepted = 0 ∧ b.replicas = 0 ∧ b.thin = false))) ∧
  (∀ (x : Plan) (e : Nat), (∀ c ∈ x.cands, (f32Val c.score).isNan = false) → ∀ acc rej room, acc = (x.rankExpert e).1 → rej = (x.rankExpert e).2 →
    room = x.params.cap - (x.accepted.filter fun c => c.expert = e).length →
    (acc ++ rej).Perm (x.cands.filter fun c => c.expert = e && c.depth = x.round) ∧ acc.length ≤ room ∧ (rej ≠ [] → acc.length = room) ∧
    ∀ a ∈ acc, ∀ r ∈ rej, (r.loose = false → a.loose = false) ∧
      (a.loose = r.loose → (f32Val a.score).lt (f32Val r.score) = false ∧ ((f32Val r.score).lt (f32Val a.score) = false → a.token ≤ r.token)))

/-- A plan's messages from a participant whose window grants them: open markers, candidates, end markers, verdicts and final verdicts are noted while the plan still waits for
another; a marker for a plan not yet accepted is held; a marker that is not OK fails the plan; the last final verdict completes it with its counts; and a stage that
passes the wait limit ends it with TIMEOUT. -/
def Obligations.PlanMessages : Prop :=
  (∀ (s : State) (job plan src : Nat) (m : OpenMarker), s.grants job src (·.exch) = true →
    (s.plan job plan = none → Answers (exec (.openMarker job plan src m) s) fun t => s.only [.exch] t ∧ (job, plan, src, m) ∈ t.exch.heldMarkers ∧
      t.exch = { s.exch with heldMarkers := t.exch.heldMarkers } ∧ ∀ h ∈ s.exch.heldMarkers, ¬ (h.1 = job ∧ h.2.1 = plan ∧ h.2.2.1 = src) → h ∈ t.exch.heldMarkers) ∧
    (∀ x own, s.plan job plan = some x → x.job = job → x.tag = plan → s.ownIndex = some own → x.params.parts.getLsbD src = true → x.st = .planning .open →
      ((∃ o < 128, x.params.parts.getLsbD o = true ∧ o ≠ src ∧ x.markers.has o = false) → Answers (exec (.openMarker job plan src m) s) fun t =>
        t = s.setPlan { x with markers := x.markers.put src m }) ∧
      (src < 128 → src ≠ own → m.ok = false → x.own.ok = true → m.crc = x.own.crc → m.params = x.own.params →
        (∀ o < 128, x.params.parts.getLsbD o = true → o ≠ src → ∃ y, x.markers.get? o = some y ∧ y.ok = true ∧ y.crc = x.own.crc ∧ y.params = x.own.params) →
        (s.prog x.ring x.at_).map (·.outcome) = some none → Answers (exec (.openMarker job plan src m) s) fun t =>
          t.plan job plan = none ∧ t.outcomeAt x.ring x.at_ = some { status := m.status, note := 0x0100, detail := detailWord 0x20 src, results := [] }))) ∧
  (∀ (s : State) (job pos : Nat) (w : BitVec 128) (x : Plan), pos < 2 ^ 17 → s.grants job (bitsOf w.toNat 16 10) (·.exch) = true → s.plan job (bitsOf w.toNat 127 112) = some x →
    x.job = job → x.tag = bitsOf w.toNat 127 112 → x.params.parts.getLsbD (bitsOf w.toNat 16 10) = true → x.local_.contains (bitsOf w.toNat 47 36) = true →
    x.st = .planning .round → (∃ o < 128, x.params.parts.getLsbD o = true ∧ x.ends.has (x.round * 128 + o) = false) →
    Answers (exec (.candidateRecord job w pos) s) fun t => ∃ c : Cand, c.pos = pos ∧ t = s.setPlan { x with cands := x.cands ++ [c] } ∧ c.token = bitsOf w.toNat 111 80 ∧
      c.score.toNat = bitsOf w.toNat 79 48 ∧ c.expert = bitsOf w.toNat 47 36 ∧ c.granule = bitsOf w.toNat 35 24 ∧ c.loose = w.getLsbD 23 ∧
      c.slot = bitsOf w.toNat 22 20 ∧ c.depth = bitsOf w.toNat 19 17 ∧ c.src = bitsOf w.toNat 16 10) ∧
  (∀ (s : State) (job plan src round count : Nat) (x : Plan), s.grants job src (·.exch) = true → s.plan job plan = some x → x.job = job → x.tag = plan →
    x.params.parts.getLsbD src = true →
    (x.st = .planning .round → (∃ o < 128, x.params.parts.getLsbD o = true ∧ x.round * 128 + o ≠ round * 128 + src ∧ x.ends.has (x.round * 128 + o) = false) →
      Answers (exec (.endMarker job plan src round count false) s) fun t => t = s.setPlan { x with ends := x.ends.put (round * 128 + src) count }) ∧
    (x.st = .planning .verdicts → (∃ o < 128, x.params.parts.getLsbD o = true ∧ x.round * 128 + o ≠ round * 128 + src ∧ x.round * 128 + o ∉ x.vends) →
      Answers (exec (.endMarker job plan src round count true) s) fun t => t = s.setPlan { x with vends := (round * 128 + src) :: x.vends })) ∧
  (∀ (s : State) (job plan src : Nat) (w : BitVec 64) (x : Plan), s.grants job src (·.exch) = true → s.plan job plan = some x → x.job = job → x.tag = plan →
    x.owner.getD (bitsOf w.toNat 11 0) 0 = src →
    (x.st = .planning .verdicts → (∃ o < 128, x.params.parts.getLsbD o = true ∧ x.round * 128 + o ∉ x.vends) → Answers (exec (.verdictRecord job plan src w) s) fun t =>
      ∃ y : Plan, t = s.setPlan y ∧ y = { x with choices := y.choices } ∧ y.choices.length = x.choices.length ∧
        ∀ (i : Nat) (c : Choice), x.choices[i]? = some c → ∃ d : Choice, y.choices[i]? = some d ∧ d.pos = c.pos ∧ d.slot = c.slot ∧
          (¬ (c.slot = bitsOf w.toNat 31 29 ∧ c.fate = .open ∧ c.answered = false ∧ x.expertOf c = bitsOf w.toNat 11 0) → d = c) ∧
          (c.slot = bitsOf w.toNat 31 29 → c.fate = .open → c.answered = false → x.expertOf c = bitsOf w.toNat 11 0 →
            (∃ r, x.tokens[c.pos]? = some r ∧ r.token = bitsOf w.toNat 63 32) →
            d.answered = true ∧ d.rejected = !w.getLsbD 28 ∧ d.fate = (if w.getLsbD 28 = true then (if c.depth = 0 then .served else .rerouted) else .open))) ∧
    (∀ served own, served = (x.choices.filter fun c => c.fate = .served || c.fate = .rerouted).length → x.st = .planning .final → s.ownIndex = some own →
      (x.finals + 1 < served → Answers (exec (.finalVerdict job plan src w) s) fun t =>
        t = s.setPlan (x.finalRow (bitsOf w.toNat 63 32) (bitsOf w.toNat 31 29) (bitsOf w.toNat 27 12) (bitsOf w.toNat 11 0))) ∧
      (served ≤ x.finals + 1 → (s.prog x.ring x.at_).map (·.outcome) = some none → Answers (exec (.finalVerdict job plan src w) s) fun t => ∃ o, t.outcomeAt x.ring x.at_ = some o ∧
        o.results = [(x.choices.filter fun c => c.fate = .served).length, (x.choices.filter fun c => c.fate = .rerouted).length,
          (x.choices.filter fun c => c.fate = .skipCapacity).length, (x.choices.filter fun c => c.fate = .skipDepth).length,
          (x.choices.filter fun c => c.fate = .skipFlag).length, x.bufs.length * 2 ^ 32 + x.carried].map (BitVec.ofNat 64 ·)))) ∧
  (∀ (s : State) (job plan : Nat) (x : Plan) (j : Job), s.plan job plan = some x → x.job = job → x.tag = plan → s.cmd.jobs.get? job = some j → x.st.rank = 0 →
    x.since + 1000 * j.waitMs * 25 ≤ s.now → (s.prog x.ring x.at_).map (·.outcome) = some none →
    Answers (exec (.planStageTimeout job plan) s) fun t => t.plan job plan = none ∧ t.outcomeAt x.ring x.at_ = some (Outc.of 0x0403 0))

/-- The exchange commands: with every participant present and their send buffers taken, the plan is busy with the command and every record leaves for its owner or its holder;
a refused take, or an absent participant, ends the command. The completion of each moves its plan on. Row and return records from a participant whose window grants them:
one for a command not yet accepted is held; one that the command in progress expects is staged, or enters its records, and the last one completes the command with its
counts; a wait for one that passes the limit ends the command with TIMEOUT. -/
def Obligations.Exchanges : Prop :=
  ((∀ (s : State) (n own op kind : Nat) (c : Instr) (bads : Pkt → State → List Bad) (p : Pkt) (x : Plan) (j : Job), (c, op, kind, bads) ∈
      ([(.dispatch n, 0x0302, 0, dispatchBad), (.combine n, 0x0303, 1, gatherBad), (.combineGrad n, 0x0305, 2, combineGradBad), (.dispatchGrad n, 0x0304, 3, gatherBad)] :
        List (Instr × Nat × Nat × (Pkt → State → List Bad))) →
    s.takes n p (isOp op) bads → n < 256 → s.ownIndex = some own → s.cmd.jobs.get? (n / 4) = some j → s.plan (n / 4) (p.f 0 15 0) = some x → x.job = n / 4 → x.tag = p.f 0 15 0 →
    ∀ got, got = ((s.accept p).quayTake (n / 4 * 16 + 1) (x.dests own kind).length [] j.step).1 →
    (got.status ≠ 0 → ∃ u : State, exec c s = .next (u.checkHead n) ∧ u.outcomeAt n p.at_ = some (Outc.of got.status got.detail) ∧ u.exch = s.exch ∧ u.mem = s.mem ∧ u.out = s.out) ∧
    (got.status = 0 → (∃ o < 128, x.params.parts.getLsbD o = true ∧ o ≠ own ∧ s.peerPresent o = false) →
      ∃ u : State, exec c s = .next (u.checkHead n) ∧ ∃ o d, u.outcomeAt n p.at_ = some { status := 0x0404, note := 0x0100, detail := d, results := [] } ∧ d = detailWord 0x20 o ∧
        s.peerPresent o = false ∧ u.out = s.out) ∧
    (got.status = 0 → (∀ o < 128, x.params.parts.getLsbD o = true → o ≠ own → s.peerPresent o = true) → ∃ u : State, exec c s = .next (u.checkHead n) ∧ (u.prog n p.at_).map (fun g => (g.work, g.taken)) = some (.exch x.tag, got.descs.zip (x.dests own kind)) ∧
      (∃ y, u.plan (n / 4) x.tag = some y ∧ y.busy = true ∧ y.ring = n ∧ y.at_ = p.at_ ∧ y.st = x.st ∧ y.choices = x.choices ∧ y.accepted = x.accepted) ∧
      (kind = 0 ∨ kind = 2 → ∀ f size, f = (if kind = 0 then x.params.fmt else p.f 0 19 16) → size = rowSize f x.params.width →
        ∀ d ∈ x.servedChoices, x.ownerOf (x.expertOf d) ≠ own → ∃ bs marks, Out.row (x.ownerOf (x.expertOf d)) (n / 4)
          (rowHeader x.tag (x.expertOf d) d.row f (decide (kind = 2)) (((x.tokens[d.pos]?).map (·.token)).getD 0) size) bs marks ∈ u.out ∧
        (kind = 0 → (∀ k, k = spanKey 0 (p.lo 1) (d.pos * stride64 size) → k + size ≤ spanKey 0 (p.hi 1) 0 ∨ spanKey 0 (p.hi 1) 0 + 48 * x.tokens.length * x.params.width ≤ k) →
          s.comp.las = [] → s.mem.errors = [] → bs = s.mem.read (spanKey 0 (p.lo 1) (d.pos * stride64 size)) size)) ∧
      (kind = 1 ∨ kind = 3 → ∀ size, size = rowSize (p.f 0 19 16) x.params.width → ∀ r ∈ x.localRows, r.1.src ≠ own → ∃ bs marks, Out.ret r.1.src (n / 4)
        (retHeader x.tag r.1.expert r.1.slot (decide (kind = 3)) (p.f 0 19 16) r.1.pos r.1.token size) bs marks ∈ u.out))) ∧
  (∀ (s : State) (n at_ : Nat) (g : Prog) (o : Outc) (tag : Nat) (x : Plan), s.prog n at_ = some g → s.progOutcome g = some o → s.plan (n / 4) tag = some x → x.job = n / 4 → x.tag = tag →
    (g.work = .plan tag → x.ring = n → x.at_ = at_ → o.status < 0x0200 → Answers (exec (.commandComplete n at_) s) fun t => ∃ y, t.plan (n / 4) tag = some y ∧ y.st = .planned) ∧
    (g.work = .exch tag → bitsOf g.hdr.toNat 15 0 ∈ [0x0302, 0x0303, 0x0304, 0x0305] → Answers (exec (.commandComplete n at_) s) fun t =>
      (bitsOf g.hdr.toNat 15 0 = 0x0302 → ∃ y, t.plan (n / 4) tag = some y ∧ y.st = .dispatched ∧ y.busy = false) ∧
      (bitsOf g.hdr.toNat 15 0 = 0x0303 → g.pkt.bit 0 27 = false → ∃ y, t.plan (n / 4) tag = some y ∧ y.st = .combined ∧ y.busy = false) ∧
      (bitsOf g.hdr.toNat 15 0 = 0x0305 → ∃ y, t.plan (n / 4) tag = some y ∧ y.st = .gradSent ∧ y.busy = false) ∧
      (bitsOf g.hdr.toNat 15 0 = 0x0304 ∨ (bitsOf g.hdr.toNat 15 0 = 0x0303 ∧ g.pkt.bit 0 27 = true) → t.plan (n / 4) tag = none)))) ∧
  ((∀ (s : State) (job src kind : Nat) (c : Instr) (h : BitVec 128) (bs : List Byte) (poison : List Nat) (x : Plan), (c, kind) ∈
      ([(.rowRecord job src h bs poison, if h.getLsbD 79 then 2 else 0), (.returnRecord job src h bs poison, if h.getLsbD 96 then 3 else 1)] : List (Instr × Nat)) →
    s.grants job src (·.exch) = true → s.plan job (bitsOf h.toNat 127 112) = some x → x.job = job → x.tag = bitsOf h.toNat 127 112 → x.params.parts.getLsbD src = true →
    ∀ r, r = ({ job := job, plan := x.tag, kind := kind, src := src, h := h, payload := bs, poison := poison } : HeldRow) →
    (x.st.rank ≤ kind → s.exchProg job x.tag = none → Answers (exec c s) fun t => t = s.setExch { s.exch with heldRows := s.exch.heldRows ++ [r] }) ∧
    (∀ g, x.st.rank = kind + 1 → x.busy = true → s.exchProg job x.tag = some g → exchKind (bitsOf g.hdr.toNat 15 0) = kind → (∀ y ∈ s.exch.heldRows, ¬ (y.job = job ∧ y.plan = x.tag)) → s.prog g.ring g.at_ = some g →
      (kind = 0 ∨ kind = 2 → ∀ id, id = bitsOf h.toNat 111 100 * 65536 + bitsOf h.toNat 99 84 → x.local_.contains (bitsOf h.toNat 111 100) = true →
        (∃ d, (x.rowsOf (bitsOf h.toNat 111 100))[bitsOf h.toNat 99 84]? = some d ∧ d.src = src ∧ d.token = bitsOf h.toNat 63 32) → id ∉ x.arrived →
        (x.arrived.length + 1 ≠ x.localRows.length → Answers (exec c s) fun t => ∃ y, t.plan job x.tag = some y ∧ y.arrived = id :: x.arrived ∧
          y.staged = x.staged ++ [(id, bs, poison)] ∧ s.only [.exch] t) ∧
        (x.arrived.length + 1 = x.localRows.length → s.unackedOf g.ring g.at_ = [] → Answers (exec c s) fun t => t.outcomeAt g.ring g.at_ =
          some (Outc.mk (if x.srcBad = true then 0x0401 else 0) 0 0 [BitVec.ofNat 64 x.servedChoices.length, BitVec.ofNat 64 x.localRows.length])) ∧
        (x.arrived.length + 1 = x.localRows.length → s.unackedOf g.ring g.at_ ≠ [] → Answers (exec c s) fun t => ∃ y, t.plan job x.tag = some y ∧
          y.arrived = id :: x.arrived ∧ t.cmd = s.cmd)) ∧
      (kind = 1 ∨ kind = 3 → ∀ d, x.servedChoices.find? (fun d => d.pos = bitsOf h.toNat 91 75 && d.slot = bitsOf h.toNat 99 97) = some d → x.expertOf d = bitsOf h.toNat 111 100 →
        x.ownerOf (x.expertOf d) = src → bitsOf h.toNat 91 75 * 8 + bitsOf h.toNat 99 97 ∉ x.arrived → x.arrived.length + 1 ≠ x.servedChoices.length →
        Answers (exec c s) fun t => ∃ y, t.plan job x.tag = some y ∧ y.arrived = (bitsOf h.toNat 91 75 * 8 + bitsOf h.toNat 99 97) :: x.arrived ∧
          (poison ≠ [] → bitsOf h.toNat 91 75 ∈ y.bad ∧ s.only [.exch] t) ∧
          (poison = [] → s.recordsPoisoned (if kind = 1 then x.combineRec else x.gradRec) x.params.width d.pos = false → y.bad = x.bad ∧
            t = (s.setPlan y).addReturn y kind d (bitsOf h.toNat 95 92) bs)))) ∧
  (∀ (s : State) (job plan : Nat) (x : Plan) (j : Job) (g : Prog), s.plan job plan = some x → s.cmd.jobs.get? job = some j → s.exchProg job plan = some g →
    x.exchSince + 1000 * j.waitMs * 25 ≤ s.now → s.prog g.ring g.at_ = some g →
    (x.arrived.length ≠ x.expects (exchKind (phOp g.hdr)) → Answers (exec (.exchangeTimeout job plan) s) fun t =>
      t.outcomeAt g.ring g.at_ = some (Outc.of 0x0403 0) ∧ s.only [.cmd, .net] t ∧ ∀ y ∈ t.net.unacked, y.cmd ≠ some (g.ring, g.at_)) ∧
    (x.arrived.length = x.expects (exchKind (phOp g.hdr)) → exec (.exchangeTimeout job plan) s = .next s)))

/-! ### Collectives -/

/-- SCALE_AGREE and REDUCE with another participant, whose reads are clean, whose buffers are granted and whose far flows open, stand in progress with this module's own
contribution held, and send a contribution for each other shard to its reducer; a refused take ends them. What an element adds to a REDUCE, and what a block adds to a
SCALE_AGREE: a word follows the greatest magnitude of its block; a digit is the value over the block's weight, rounded and clamped, and one above the agreed exponent, an
infinity or a NaN is counted. -/
def Obligations.CollectivesStart : Prop :=
  ((∀ (s : State) (n own : Nat) (p : Pkt) (j : Job), s.takes n p (isOp 0x0405) scaleAgreeBad → n < 256 → s.ownIndex = some own → s.cmd.jobs.get? (n / 4) = some j →
    (s.farOpens (n, p.at_) (p.farList 3 (p.f 4 3 0)) 2).isSome = true →
    (∀ h ∈ s.coll.heldCon, ¬ (h.job = n / 4 ∧ h.tag = p.f 0 15 0)) → (∀ h ∈ s.coll.heldMasks, ¬ (h.job = n / 4 ∧ h.tag = p.f 0 15 0)) →
    ∀ x y size tokens parts mine b count got, x = (s.accept p).readSpan none (p.hi 4) 0 (16 * p.f 4 16 4) → y = x.2.slicesFor tokens (slicesOf (p.f 4 16 4) x.1.data) (p.f 0 63 24) →
    x.1.status = none → y.2.1 = none → size = 576 → tokens = s.agreeTokens p → parts = p.rankList 1 (p.f 4 3 0) → b = (p.f 0 63 24 + 31) / 32 →
    mine = (parts.idxOf own + 1) * b / parts.length - parts.idxOf own * b / parts.length →
    count = s.buffersFor (n / 4 * 16 + 2) (size * parts.length + (if tokens = 0 then 0 else 2 * b)) +
      s.buffersFor (n / 4 * 16 + 2) (parts.length * (size + 2 * mine)) + s.buffersFor (n / 4 * 16 + 2) (2 * b) → got = (s.quayTake (n / 4 * 16 + 2) count [] j.step).1 →
    (got.status ≠ 0 → ∃ u : State, exec (.scaleAgree n) s = .next (u.checkHead n) ∧ u.outcomeAt n p.at_ = some (Outc.of got.status got.detail) ∧ u.coll = s.coll ∧ u.out = s.out) ∧
    (got.status = 0 → (∃ q ∈ parts, q ≠ own) → ∀ eps, eps = p.farList 3 (p.f 4 3 0) → (eps = [] ∨ ∀ v : State, v.quay = (s.quayTake (n / 4 * 16 + 2) count [] j.step).2.quay → (v.quayTake (n / 4 * 16 + 4) (eps.length * Config.farWindow) [] j.step).1.status = 0) → ∃ u : State, exec (.scaleAgree n) s = .next (u.checkHead n) ∧ (∃ ks : List Nat, (u.prog n p.at_).map (fun g => (g.work, g.taken, g.outcome)) = some (.coll 0x0405 (p.f 0 15 0), (got.descs ++ ks).map (fun d => (d, 255)), none) ∧
        (eps = [] → ks = [])) ∧
      u.coll.usedTags = (n / 4 * 2 ^ 16 + p.f 0 15 0) :: s.coll.usedTags ∧ u.coll.agrees = s.coll.agrees ∧
      ∃ c, u.collOf (n / 4) (p.f 0 15 0) false = some c ∧ c.parts = parts ∧ c.far = p.farList 3 (p.f 4 3 0) ∧ c.me = own ∧ c.n = p.f 0 63 24 ∧ c.deadline = p.f 6 47 24 ∧
        c.fmt = p.f 0 17 16 ∧ c.awaited = parts ∧ c.shards = [(parts.idxOf own, s.now)] ∧ c.closed = [] ∧ c.masks = [] ∧ c.results = [] ∧ c.present = none ∧
        c.self.tokens = tokens ∧ c.self.empty = decide (tokens = 0) ∧ c.self.granules = (slicesOf (p.f 4 16 4) x.1.data).map (·.granule) ∧
        c.got = [(parts.idxOf own * 256 + own, c.payload (parts.idxOf own))] ∧
        (tokens ≠ 0 → c.words = blockWords (p.f 0 63 24) y.1) ∧
        ∀ q ∈ parts, q < 128 → q ≠ own → s.peerPresent q = true → Out.contribution q (n / 4) (parts.idxOf q) (p.f 0 15 0) c.self (c.payload (parts.idxOf q)) ∈ u.out)) ∧
  (∀ (s : State) (n own : Nat) (p : Pkt) (j : Job) (a : Agree), s.takes n p (isOp 0x0401) reduceBad → n < 256 → s.ownIndex = some own → s.cmd.jobs.get? (n / 4) = some j →
    s.coll.agrees.get? (n / 4 * 2 ^ 16 + p.f 0 15 0) = some a → (s.farOpens (n, p.at_) a.far 2).isSome = true →
    (∀ h ∈ s.coll.heldCon, ¬ (h.job = n / 4 ∧ h.tag = p.f 0 15 0)) → (∀ h ∈ s.coll.heldMasks, ¬ (h.job = n / 4 ∧ h.tag = p.f 0 15 0)) →
    (∃ q ∈ a.present, q ≠ own) → own ∈ a.parts → a.parts.Nodup →
    ∀ x y np nb w paid mine count got, x = (s.accept p).readSpan none (p.hi 1) 0 (16 * p.f 1 12 0) → y = x.2.slicesFor a.tokens (slicesOf (p.f 1 12 0) x.1.data) a.n → x.1.status = none → y.2.1 = none →
    np = a.parts.length → nb = (a.n + 31) / 32 → w = (if a.ss32 = true then 32 else 8) + clog2 (p.f 1 12 0) →
    paid = (fun lo hi => (paidBlocks a.words lo hi).length) → mine = paid (a.parts.idxOf own * nb / np) ((a.parts.idxOf own + 1) * nb / np) →
    count = s.buffersFor (n / 4 * 16 + 2) (if own ∈ a.present then 576 * np + (if a.tokens = 0 then 0 else 4 * w * paid 0 nb) else 0) +
      s.buffersFor (n / 4 * 16 + 2) ((a.ann.valList.map fun v => 576 + if v.empty = true then 0 else 4 * ((if a.ss32 = true then 32 else 8) + clog2 v.nslice) * mine).sum) +
      (if p.bit 0 23 = true then 0 else s.buffersFor (n / 4 * 16 + 2) (a.n * resultBytes (p.f 0 19 16))) → got = (s.quayTake (n / 4 * 16 + 2) count [] j.step).1 →
    (got.status ≠ 0 → ∃ u : State, exec (.reduce n) s = .next (u.checkHead n) ∧ u.outcomeAt n p.at_ = some (Outc.of got.status got.detail) ∧ u.coll = s.coll ∧ u.out = s.out) ∧
    (got.status = 0 → (a.far = [] ∨ ∀ v : State, v.quay = (s.quayTake (n / 4 * 16 + 2) count [] j.step).2.quay → (v.quayTake (n / 4 * 16 + 4) (a.far.length * Config.farWindow) [] j.step).1.status = 0) → ∃ u : State, exec (.reduce n) s = .next (u.checkHead n) ∧ (∃ ks : List Nat, (u.prog n p.at_).map (fun g => (g.work, g.taken, g.outcome)) = some (.coll 0x0401 (p.f 0 15 0), (got.descs ++ ks).map (fun d => (d, 255)), none) ∧
        (a.far = [] → ks = [])) ∧ u.coll.agrees = s.coll.agrees ∧
      ∃ c, u.collOf (n / 4) (p.f 0 15 0) true = some c ∧ c.parts = a.parts ∧ c.n = a.n ∧ c.words = a.words ∧ c.awaited = a.present ∧ c.deadline = p.f 0 47 24 ∧
        c.shards = [(a.parts.idxOf own, s.now)] ∧ c.closed = [] ∧ c.present = none ∧ c.self.kind = (if a.ss32 = true then 2 else 1) ∧ c.self.tokens = a.tokens ∧ c.self.width = w ∧
        (own ∈ a.present → a.tokens ≠ 0 → (c.sums, c.exceeded) = sumsOf a.ss32 a.n a.words j.seed j.step (p.f 0 15 0) y.1) ∧
        (own ∈ a.present → ∀ q ∈ a.parts, q < 128 → q ≠ own → s.peerPresent q = true →
          Out.contribution q (n / 4) (a.parts.idxOf q) (p.f 0 15 0) c.self (c.payload (a.parts.idxOf q)) ∈ u.out) ∧ (own ∉ a.present → c.got = [] ∧ (∀ q i x bs, Out.contribution q (n / 4) i (p.f 0 15 0) x bs ∈ u.out → Out.contribution q (n / 4) i (p.f 0 15 0) x bs ∈ s.out)))) ∧
  -- a slice that cannot be read ends a REDUCE, and its agreement with it
  (∀ (s : State) (n : Nat) (p : Pkt) (j : Job) (a : Agree), s.takes n p (isOp 0x0401) reduceBad → n < 256 → s.cmd.jobs.get? (n / 4) = some j →
    s.coll.agrees.get? (n / 4 * 2 ^ 16 + p.f 0 15 0) = some a →
    ∀ x y st, x = (s.accept p).readSpan none (p.hi 1) 0 (16 * p.f 1 12 0) → y = x.2.slicesFor a.tokens (slicesOf (p.f 1 12 0) x.1.data) a.n →
    (x.1.status <|> y.2.1) = some st → ∃ u : State, exec (.reduce n) s = .next (u.checkHead n) ∧ u.outcomeAt n p.at_ = some (Outc.of st 0) ∧
      u.coll.agrees.get? (n / 4 * 2 ^ 16 + p.f 0 15 0) = none ∧ u.out = s.out)) ∧
  ((∀ vs : List Val, (∃ v ∈ vs, v = .nan ∨ ∃ s, v = .inf s) → blockWord vs = 0x7FFF#16) ∧
  (∀ vs : List Val, (∀ v ∈ vs, ∃ s e, v = .fin s 0 e) → blockWord vs = 0x8000#16) ∧
  (∀ (vs : List Val) (v : Val) (s : Bool) (m : Nat) (e : Int), v ∈ vs → v = .fin s m e → m ≠ 0 → (∀ w ∈ vs, ∃ s m e, w = Val.fin s m e ∧ (m ≠ 0 → -1000 < (m.log2 : Int) + e ∧ (m.log2 : Int) + e < 1000)) →
    (m.log2 : Int) + e ≤ (blockWord vs).toInt ∧ ∃ w ∈ vs, ∃ s' m' e', w = Val.fin s' m' e' ∧ m' ≠ 0 ∧ (blockWord vs).toInt = (m'.log2 : Int) + e') ∧
  (∀ (ss32 : Bool) (w : BitVec 16) (rnd : RndMode) (v : Val) (d : Int) (x : Bool), digitOf ss32 w rnd v = (d, x) → ∀ lim, lim = (if ss32 = true then 2 ^ 31 - 1 else 127 : Int) →
    -lim ≤ d ∧ d ≤ lim ∧ (v = .nan → d = 0 ∧ x = true) ∧ (∀ s, v = .inf s → d = (if s = true then -lim else lim) ∧ x = true) ∧
    (∀ s e, v = .fin s 0 e → d = 0 ∧ x = false) ∧ (∀ s m e, v = .fin s m e → m ≠ 0 → (x = true ↔ w.toInt < (m.log2 : Int) + e)) ∧
    (∀ s m e k, v = .fin s m e → m ≠ 0 → (m.log2 : Int) + e ≤ w.toInt → k = e - (w.toInt - if ss32 = true then 30 else 6) →
      d = (if s = true then -1 else 1) * min lim (roundQuot (m * 2 ^ k.toNat) (2 ^ (-k).toNat) rnd))))

/-- Contributions, deadlines, masks, succession and result shards: what is early is held; what arrives is recorded; a shard whose contributions have all arrived, or whose
deadline has passed, sends its mask to every participant; the last mask forms the present set; the last result ends the command. -/
def Obligations.CollectiveMessages : Prop :=
  (∀ (s : State) (job shard tag : Nat) (a : Announce) (bs : List Byte) (whole : Bool) (j : Job), s.cmd.jobs.get? job = some j → s.collAllowed job a.src = true →
    (a.step - j.step.setWidth 32).toNat < 2 ^ 31 →
    (s.collOf job tag (a.kind != 0) = none → Answers (exec (.contribution job shard a tag bs whole) s) fun t =>
      (∃ h ∈ t.coll.heldCon, h.job = job ∧ h.shard = shard ∧ h.tag = tag ∧ h.a = a ∧ h.payload = bs ∧ h.whole = whole) ∧ s.only [.coll] t) ∧
    (∀ c i, s.collOf job tag (a.kind != 0) = some c → c.job = job → c.tag = tag → c.reduce = (a.kind != 0) → a.step = c.self.step → shard < c.parts.length → i = shard * 256 + a.src →
      a.src ∈ c.parts → whole = true → i ∉ c.got.keyList → shard ∉ c.closed → c.present = none → (∀ m ∈ c.shards.keyList, m = shard ∨ m ∈ c.closed) → s.ownIndex ≠ none →
      s.prog c.ring c.at_ ≠ none →
      ((∃ q ∈ c.awaited, q ≠ a.src ∧ shard * 256 + q ∉ c.got.keyList) → c.masks.get? shard = none → Answers (exec (.contribution job shard a tag bs whole) s) fun t =>
        ∃ d, t.collOf job tag c.reduce = some d ∧ d.got.get? i = some bs ∧ d.ann.get? a.src = some a ∧ d.closed = c.closed ∧ s.only [.coll] t) ∧
      (shard ∈ c.shards.keyList → (∀ q ∈ c.awaited, q = a.src ∨ shard * 256 + q ∈ c.got.keyList) → Answers (exec (.contribution job shard a tag bs whole) s) fun t =>
        ∀ q ∈ c.parts, q < 128 → q ≠ c.me → s.peerPresent q = true → ∃ late, Out.arrivalMask q job tag c.reduce shard c.awaited late ∈ t.out))) ∧
  (∀ (s : State) (job tag : Nat) (c : Coll), s.collOf job tag c.reduce = some c → c.job = job → c.tag = tag → s.ownIndex ≠ none →
    (∀ i since, (i, since) ∈ c.shards → i ∉ c.closed → since + c.deadline * 25 ≤ s.now → Answers (exec (.deadline job tag c.reduce) s) fun t =>
      ∀ q ∈ c.parts, q < 128 → q ≠ c.me → s.peerPresent q = true → ∃ late, Out.arrivalMask q job tag c.reduce i (c.awaited.filter fun r => c.got.has (i * 256 + r)) late ∈ t.out) ∧
    (∀ shard mask late g, shard < c.parts.length → c.masks.get? shard = none → shard ∉ c.shards.keyList → s.prog c.ring c.at_ = some g → c.present = none → (∀ i ∈ c.shards.keyList, i ∈ c.closed) →
      ((∃ i < c.parts.length, i ≠ shard ∧ c.masks.get? i = none) → Answers (exec (.arrivalMask job tag c.reduce shard mask late) s) fun t =>
        t = s.setCollOf { c with masks := c.masks.put shard mask, lateAt := c.lateAt.put shard late }) ∧
      ((∀ i < c.parts.length, i = shard ∨ c.masks.get? i ≠ none) → ∀ d, d = { c with masks := c.masks.put shard mask, lateAt := c.lateAt.put shard late } → d.clash d.meet = false →
        (∃ i < c.parts.length, c.reducerOf i ≠ c.me ∧ i ∉ c.results.keyList ∧ (c.reduce && g.pkt.bit 0 23) = false) → Answers (exec (.arrivalMask job tag c.reduce shard mask late) s) fun t =>
          (∃ e, t.collOf job tag c.reduce = some e ∧ e.present = some (d.meet, s.now)) ∧
          ∀ i ∈ c.shards.keyList, i ∉ c.results.keyList → c.reducerOf i = c.me → (∀ q ∈ d.meet, i * 256 + q ∈ c.got.keyList) → ∀ r,
            r = (if c.reduce = true then d.reduceShard (g.pkt.f 0 19 16) ((ovMode (g.pkt.f 0 21 20)).getD .sat) (g.pkt.bit 0 22) d.meet i else (d.agreeShard d.meet i, 0, 0, 0)) →
            ∀ q ∈ c.parts, q < 128 → q ≠ c.me → s.peerPresent q = true → Out.resultShard q job tag c.reduce i r.1 r.2.1 r.2.2.1 r.2.2.2 ∈ t.out)) ∧
    (∀ shard bs low nan sat g pres, shard < c.parts.length → c.results.get? shard = none → c.reducerOf shard ≠ c.me → s.prog c.ring c.at_ = some g → c.present = some pres →
      c.clash pres.1 = false → (∀ i ∈ c.shards.keyList, i ∈ c.closed ∧ c.results.get? i ≠ none) → ∀ d, d = { c with results := c.results.put shard (bs, low, nan, sat) } →
      ((∃ i < c.parts.length, i ≠ shard ∧ c.results.get? i = none ∧ ((c.reduce && g.pkt.bit 0 23) = false ∨ c.reducerOf i = c.me)) →
        Answers (exec (.resultShard job tag c.reduce shard bs low nan sat) s) fun t => t = s.setCollOf d) ∧
      ((∀ i < c.parts.length, i = shard ∨ c.results.get? i ≠ none) → Answers (exec (.resultShard job tag c.reduce shard bs low nan sat) s) fun t => t = s.collFinish g.pkt d)) ∧
    (∀ shard q r, shard < c.parts.length → q = c.reducerOf shard → s.partPresent c.me c.far q = false → s.successor c (c.parts.idxOf q) = some r → ∀ g, s.prog c.ring c.at_ = some g →
      (c.present = none → r ≠ c.me → Answers (exec (.shardSuccession job tag c.reduce shard) s) fun t => ∃ e, t.collOf job tag c.reduce = some e ∧ e.reducerOf shard = r ∧
        (c.me ∈ c.awaited → r < 128 → Out.contribution r job shard tag c.self (c.payload shard) ∈ t.out)) ∧
      (∀ pres x, c.present = some pres → pres.1.find? (fun y => !s.partPresent c.me c.far y) = some x → g.outcome = none → Answers (exec (.shardSuccession job tag c.reduce shard) s) fun t =>
        t.outcomeAt c.ring c.at_ = some { status := 0x0404, note := 0x0100, detail := if x < 128 then detailModule x else 0, results := [] } ∧ t.collOf job tag c.reduce = none)) ∧
    (∀ (pres : List Nat × Nat) (j : Job) (g : Prog), c.present = some pres → s.cmd.jobs.get? job = some j → pres.2 + 1000 * j.waitMs * 25 ≤ s.now → s.prog c.ring c.at_ = some g → g.outcome = none →
      (c.reduce = false → s.collOf job tag true = none) → Answers (exec (.resultShardTimeout job tag) s) fun t => t.outcomeAt c.ring c.at_ = some (Outc.of 0x0403 0) ∧ t.collOf job tag c.reduce = none)) ∧
  (∀ (s : State) (job tag shard : Nat) (reduce : Bool) (mask late : List Nat), s.collOf job tag reduce = none → s.cmd.jobs.has job = true →
    Answers (exec (.arrivalMask job tag reduce shard mask late) s) fun t => ∃ h, t = s.setColl { s.coll with heldMasks := s.coll.heldMasks ++ [h] } ∧
      h = { job := job, tag := tag, reduce := reduce, shard := shard, mask := mask, late := late })

/-- A finished SCALE_AGREE leaves its agreement and returns the sets, the token count and the format; a finished REDUCE writes the result, returns the sets and the counts,
and ends the agreement. -/
def Obligations.CollectivesEnd : Prop :=
  ∀ (s : State) (g : Prog) (c : Coll) (j : Job) (pres : List Nat) (t0 : Nat), s.prog c.ring c.at_ = some g → g.outcome = none → s.cmd.jobs.get? c.job = some j → c.present = some (pres, t0) →
    ∀ miss late empty words total, miss = c.parts.filter (fun q => !pres.contains q) → late = c.lates → empty = pres.filter (fun q => (c.ann.get? q).any (·.empty)) → total = c.tokensOf pres →
    words = partWords pres ++ partWords miss ++ partWords late ++ partWords empty →
    (c.reduce = false → ∀ bytes ss32 u, bytes = (List.range c.parts.length).flatMap (fun i => (c.results.getD i ([], 0, 0, 0)).1) →
      ss32 = (c.fmt = 1 || (c.fmt = 2 && decide (total < j.rare))) → u = s.collFinish g.pkt c → (g.pkt.lo 7 = 0 ∨ s.spanLost (g.pkt.lo 7) 0 bytes.length = false) →
      (∃ o, u.outcomeAt c.ring c.at_ = some o ∧ o.status = 0 ∧ o.results = words ++ [BitVec.ofNat 64 total, if ss32 = true then 1 else 0] ∧
        (o.note = 0 ↔ miss = [] ∧ late = [] ∧ empty = [] ∧ c.me ∈ pres)) ∧
      (∃ a, u.coll.agrees.get? (c.job * 2 ^ 16 + c.tag) = some a ∧ a.n = c.n ∧ a.parts = c.parts ∧ a.present = pres ∧ a.total = total ∧ a.ss32 = ss32 ∧
        a.words = (List.range ((c.n + 31) / 32)).map fun b => BitVec.ofNat 16 (leNat ((bytes.drop (2 * b)).take 2))) ∧
      u.collOf c.job c.tag false = none ∧ (g.pkt.lo 7 = 0 → s.bytesSame u)) ∧
    (c.reduce = true → ∀ held bytes u, held = (List.range c.parts.length).filter (fun i => !g.pkt.bit 0 23 || decide (c.reducerOf i = c.me)) →
      bytes = held.flatMap (fun i => (c.results.getD i ([], 0, 0, 0)).1) → u = s.collFinish g.pkt c → s.spanLost (g.pkt.lo 2) 0 bytes.length = false →
      ∀ sum : (List Byte × Nat × Nat × Nat → Nat) → Nat, (∀ f, sum f = (held.map fun i => f (c.results.getD i ([], 0, 0, 0))).sum) →
      (∃ o, u.outcomeAt c.ring c.at_ = some o ∧ o.status = 0 ∧ ∃ more, o.results = words ++ [BitVec.ofNat 64 total, BitVec.ofNat 64 c.exceeded, BitVec.ofNat 64 (sum (·.2.1)),
        BitVec.ofNat 64 (sum (·.2.2.1)), BitVec.ofNat 64 (sum (·.2.2.2))] ++ more ∧ (g.pkt.bit 0 23 = false → more = []) ∧
        (∀ i, g.pkt.bit 0 23 = true → held = [i] → more = [BitVec.ofNat 64 (c.range i).1, BitVec.ofNat 64 ((c.range i).2 - (c.range i).1)])) ∧
      (s.berthAt (g.pkt.lo 2) ≠ none → u.mem.read (spanKey 0 (g.pkt.lo 2) 0) bytes.length = bytes) ∧
      u.coll.agrees.get? (c.job * 2 ^ 16 + c.tag) = none ∧ u.collOf c.job c.tag true = none)

/-- GATHER, BROADCAST, PERMUTE and BARRIER: with every participant present and another than this module, the command stands in progress and each participant has been sent
this module's message; an absent one ends it. A message of these collectives for a command not yet accepted is held; one whose parameters differ ends the command; one
that does not end it stands with its bytes written; with every participant's the command is done, a PERMUTE once all have written; a wait that passes the limit ends with
TIMEOUT. -/
def Obligations.SimpleCollectives : Prop :=
  ((∀ (s : State) (n own nfar ofs len : Nat) (src : BitVec 32) (c : Instr) (op : Nat) (bads : Pkt → State → List Bad) (p : Pkt) (j : Job), (c, op, bads) ∈
      ([(.gather n, 0x0402, gatherAllBad), (.broadcast n, 0x0404, broadcastBad), (.permute n, 0x0403, permuteBad), (.barrier n, 0x0406, barrierBad)] :
        List (Instr × Nat × (Pkt → State → List Bad))) →
    s.takes n p (isOp op) bads → n < 256 → s.ownIndex = some own → s.cmd.jobs.get? (n / 4) = some j → (∀ h ∈ s.coll.heldMsgs, ¬ (h.1 = n / 4 ∧ h.2.1 = op ∧ h.2.2.1 = p.f 0 15 0)) →
    nfar = (if op = 0x0403 then 0 else p.f 0 19 16) → ∀ eps parts, eps = (if nfar = 0 then [] else p.farList 3 nfar) → parts = p.rankList 1 nfar →
    (s.farOpens (n, p.at_) eps (if op = 0x0406 then 0 else 2)).isSome = true → (∃ q ∈ parts, q ≠ own) → s.comp.las = [] → s.mem.errors = [] →
    -- the bytes that this module reads: a GATHER's, a BROADCAST's root's, a PERMUTE's old shard
    (src, ofs, len) = (if op = 0x0402 then (p.lo 4, p.f 5 47 0, (p.w 7).toNat) else if op = 0x0404 then (p.lo 4, p.f 5 47 0, if parts.getD (p.f 0 27 20) 0 = own then (p.w 6).toNat else 0)
      else if op = 0x0403 then (p.hi 5, 0, shardElems (s.layouts p).1 own * 2 ^ p.f 0 17 16) else (0, 0, 0)) →
    (len ≠ 0 → s.mem.poisoned (spanKey 0 src ofs) len = false ∧ s.spanFailed src ofs len = false ∧ s.spanLost src ofs len = false) →
    -- the bytes that it will write
    (∀ h o l, (h, o, l) = (if op = 0x0402 then (p.hi 4, p.f 6 47 0, (p.w 7).toNat * parts.length) else if op = 0x0404 then (p.lo 4, p.f 5 47 0, (p.w 6).toNat)
      else if op = 0x0403 then (p.hi 5, 0, shardElems (s.layouts p).2 own * 2 ^ p.f 0 17 16) else (0, 0, 0)) → s.spanLost h o l = false) →
    ∀ count got, count = (if op = 0x0402 then s.buffersFor (n / 4 * 16 + 2) (p.w 7).toNat + s.buffersFor (n / 4 * 16 + 2) ((parts.length - 1) * (p.w 7).toNat)
      else if op = 0x0404 then s.buffersFor (n / 4 * 16 + 2) (p.w 6).toNat
      else if op = 0x0403 then s.buffersFor (n / 4 * 16 + 2) (((movesOf (s.layouts p).1 (s.layouts p).2).filter fun m => m.1 != own && m.2.2.1 = own).map fun m => m.2.2.2.2 * 2 ^ p.f 0 17 16).sum
      else 0) → got = (s.quayTake (n / 4 * 16 + 2) count [] j.step).1 →
    (op ≠ 0x0406 → got.status ≠ 0 → ∃ u : State, exec c s = .next (u.checkHead n) ∧ u.outcomeAt n p.at_ = some (Outc.of got.status got.detail) ∧ u.coll = s.coll ∧ u.out = s.out) ∧
    (got.status = 0 → (eps = [] ∨ ∀ v : State, v.quay = (s.quayTake (n / 4 * 16 + 2) count [] j.step).2.quay → (v.quayTake (n / 4 * 16 + 4) (eps.length * Config.farWindow) [] j.step).1.status = 0) → (∃ q ∈ parts, s.partPresent own eps q = false) → ∃ u : State, exec c s = .next (u.checkHead n) ∧ ∃ q ∈ parts, s.partPresent own eps q = false ∧
      u.outcomeAt n p.at_ = some { status := 0x0404, note := 0x0100, detail := if q < 128 then detailModule q else 0, results := [] } ∧ u.simpleOf (n / 4) op (p.f 0 15 0) = none) ∧
    (got.status = 0 → (eps = [] ∨ ∀ v : State, v.quay = (s.quayTake (n / 4 * 16 + 2) count [] j.step).2.quay → (v.quayTake (n / 4 * 16 + 4) (eps.length * Config.farWindow) [] j.step).1.status = 0) → (∀ q ∈ parts, s.partPresent own eps q = true) → ∃ u : State, exec c s = .next (u.checkHead n) ∧ (u.prog n p.at_).map (fun g => (g.work, g.outcome)) = some (.coll op (p.f 0 15 0), none) ∧
      (∃ x, u.simpleOf (n / 4) op (p.f 0 15 0) = some x ∧ x.parts = parts ∧ x.me = own ∧ x.got = [] ∧ x.written = [] ∧ x.since = s.now ∧
        (op = 0x0402 → x.due = if (p.w 7).toNat = 0 then [] else (parts.filter (· != own)).map fun q => (q, p.f 6 47 0 + parts.idxOf q * (p.w 7).toNat, (p.w 7).toNat)) ∧
        (op = 0x0404 → x.due = if (p.w 6).toNat = 0 ∨ parts.getD (p.f 0 27 20) 0 = own then [] else [(parts.getD (p.f 0 27 20) 0, p.f 5 47 0, (p.w 6).toNat)])) ∧
      ∀ q ∈ parts, q < 128 → q ≠ own → ∃ m, Out.collective q (n / 4) op (p.f 0 15 0) m ∈ u.out ∧ m.parts = p.parts 1 ∧ m.far = eps ∧
        (op = 0x0402 → m.length = (p.w 7).toNat ∧ m.bytes = [(0, s.mem.read (spanKey 0 src ofs) len)]) ∧
        (op = 0x0404 → m.length = (p.w 6).toNat ∧ m.root = p.f 0 27 20 ∧ m.bytes = if parts.getD (p.f 0 27 20) 0 = own then [(0, s.mem.read (spanKey 0 src ofs) len)] else []) ∧
        (op = 0x0403 → ∀ es, es = 2 ^ p.f 0 17 16 → m.bytes = ((movesOf (s.layouts p).1 (s.layouts p).2).filter fun r => r.1 = own && r.2.2.1 = q).map fun r =>
          (r.2.2.2.1 * es, ((s.mem.read (spanKey 0 src ofs) len).drop (r.2.1 * es)).take (r.2.2.2.2 * es)))))) ∧
  (∀ (s : State) (job op tag src : Nat) (m : CollMsg), op ∈ [0x0402, 0x0404, 0x0403, 0x0406] → s.collAllowed job src = true →
    (s.simpleOf job op tag = none → Answers (exec (.collectiveMessage job op tag src m) s) fun t => t = s.setColl { s.coll with heldMsgs := s.coll.heldMsgs ++ [(job, op, tag, src, m)] }) ∧
    (∀ (c : Simple) (g : Prog), s.simpleOf job op tag = some c → c.job = job → c.opcode = op → c.tag = tag → src ∈ c.parts → s.prog c.ring c.at_ = some g → g.outcome = none →
      ((op ≠ 0x0403 ∨ m.root = 0) → src ∉ c.got → c.differs m = true → Answers (exec (.collectiveMessage job op tag src m) s) fun t =>
        t.outcomeAt c.ring c.at_ = some (Outc.of 0x0301 0) ∧ t.simpleOf job op tag = none) ∧
      (op ≠ 0x0403 → src ∉ c.got → c.differs m = false → (∀ d ∈ c.due, d.1 ≠ src) → (∀ q ∈ c.parts, q = c.me ∨ q = src ∨ q ∈ c.got) → c.due = [] →
        Answers (exec (.collectiveMessage job op tag src m) s) fun t => t.outcomeAt c.ring c.at_ = some (Outc.of 0 0) ∧ t.simpleOf job op tag = none ∧ s.only [.cmd, .coll] t) ∧
      (op ≠ 0x0403 → src ∉ c.got → c.differs m = false → (∀ d ∈ c.due, d.1 ≠ src) → (∃ q ∈ c.parts, q ≠ c.me ∧ q ≠ src ∧ q ∉ c.got) → Answers (exec (.collectiveMessage job op tag src m) s) fun t =>
        t = s.setSimple { c with got := src :: c.got }) ∧
      (∀ ofs bs, op = 0x0402 ∨ op = 0x0404 → src ∉ c.got → c.differs m = false → m.bytes = [(0, bs)] → c.due.filter (fun d => d.1 = src) = [(src, ofs, bs.length)] → s.berthAt c.handle ≠ none →
        s.spanLost c.handle ofs bs.length = false → Answers (exec (.collectiveMessage job op tag src m) s) fun t => t.mem.read (spanKey 0 c.handle ofs) bs.length = bs ∧
          ((∀ d ∈ c.due, d.1 = src) → (∀ q ∈ c.parts, q = c.me ∨ q = src ∨ q ∈ c.got) → t.outcomeAt c.ring c.at_ = some (Outc.of 0 0))) ∧
      (op = 0x0403 → m.root = 0 → src ∉ c.got → c.differs m = false → c.due = [] → (∀ q ∈ c.parts, q = c.me ∨ q = src ∨ q ∈ c.got) → c.me ∉ c.written → s.ownIndex ≠ none →
        Answers (exec (.collectiveMessage job op tag src m) s) fun t => ∀ q ∈ c.parts, q < 128 → q ≠ c.me → s.peerPresent q = true → Out.collective q job op tag (c.msg 1 []) ∈ t.out) ∧
      (op = 0x0403 → m.root = 1 → (∀ q ∈ c.parts, q = c.me ∨ q ∈ c.got) → c.due = [] → c.me ∈ c.written → (∀ q ∈ c.parts, q = src ∨ q ∈ c.written) →
        Answers (exec (.collectiveMessage job op tag src m) s) fun t => t.outcomeAt c.ring c.at_ = some (Outc.of 0 0) ∧ t.simpleOf job op tag = none)) ∧
    (∀ (c : Simple) (g : Prog) (j : Job), s.simpleOf job op tag = some c → c.job = job → c.opcode = op → c.tag = tag → s.cmd.jobs.get? job = some j → s.prog c.ring c.at_ = some g → g.outcome = none →
      c.since + 1000 * j.waitMs * 25 ≤ s.now → Answers (exec (.collectiveTimeout job op tag) s) fun t => t.outcomeAt c.ring c.at_ = some (Outc.of 0x0403 0) ∧ t.simpleOf job op tag = none))

/-! ### Stash, Tug and placement -/

/-- STASH_PUT takes staging buffers and writes a plain copy, a packed region with its directory, or narrowed data into the stash berth, and waits for its acknowledgement; a
refused take or a LOST page ends it. STASH_GET takes landing buffers and waits for the Tug. The stash berth's acknowledgement ends a put with the bytes it used; the
transfer of a get writes the landing index and the buffers, and leaves the buffers with their requester; a LOST page or poisoned data ends either, the get with nothing
written. PREFETCH starts fetches of the lines that find shadow space, and is done in part when some do not; a fetch that completes fills its shadow line, unless the page
is LOST, and evicts one line of a full directory. -/
def Obligations.Stash : Prop :=
  ((∀ (s : State) (n : Nat) (p : Pkt) (j : Job), s.takes n p (isOp 0x0501) stashPutBad → n < 256 → s.cmd.jobs.get? (n / 4) = some j →
    ∀ form tiles dir used got src dst, form = p.f 0 1 0 → tiles = s.packedTiles p → dir = packDir tiles.length (tiles.map (·.2)) →
    used = (if form = 1 then packUsed dir tiles.length else p.putSpan.2) → got = (s.quayTake (n / 4 * 16 + 3) (s.buffersFor (n / 4 * 16 + 3) used) [] j.step).1 →
    src = spanKey 0 (p.lo 1) (p.f 2 47 0) → dst = spanKey 0 (p.hi 1) (p.f 3 47 0) →
    (got.status ≠ 0 → ∃ u : State, exec (.stashPut n) s = .next (u.checkHead n) ∧ u.outcomeAt n p.at_ = some (Outc.of got.status got.detail) ∧ u.mem = s.mem) ∧
    (got.status = 0 → (s.spanLost (p.lo 1) (p.f 2 47 0) p.putSpan.1 || s.spanLost (p.hi 1) (p.f 3 47 0) used) = true →
      ∃ u : State, exec (.stashPut n) s = .next (u.checkHead n) ∧ u.outcomeAt n p.at_ = some (Outc.of 0x0404 0) ∧ u.mem = s.mem) ∧
    (got.status = 0 → s.spanLost (p.lo 1) (p.f 2 47 0) p.putSpan.1 = false → s.spanLost (p.hi 1) (p.f 3 47 0) used = false → s.comp.las = [] → s.mem.errors = [] → s.health.armed = [] →
      s.spanFailed (p.lo 1) (p.f 2 47 0) p.putSpan.1 = false → ∃ u : State, exec (.stashPut n) s = .next (u.checkHead n) ∧ (∃ g, u.prog n p.at_ = some g ∧ g.taken = got.descs.map (fun d => (d, 255)) ∧ g.outcome = none ∧
          (form = 0 → g.work = .stashPut used (s.mem.poisoned src used)) ∧ (form = 2 → g.work = .stashPut used (s.mem.poisoned src p.putSpan.1)) ∧
          (form = 1 → ∃ bad, g.work = .stashPut used bad)) ∧
        (form = 0 → u.mem.read dst used = s.mem.read src used) ∧
        (form = 1 → u.mem.read dst (8 * tiles.length) = dir.flatMap (fun d => leBytes 8 (d.2 * 2 ^ 40 + d.1)) ∧
          ((src + p.putSpan.1 ≤ dst ∨ dst + used ≤ src) → ∀ e ∈ tiles.zip dir, e.1.2 ≤ p.f 4 63 32 → u.mem.read (dst + e.2.1) e.1.2 = s.mem.read (spanKey 0 (p.lo 1) e.1.1) e.1.2)) ∧
        (form = 2 → ∀ out, out = p.narrowed j (s.mem.read src p.putSpan.1) → u.mem.read dst out.length = out ∧ (∀ a, (a < dst ∨ dst + out.length ≤ a) → cellGet u.mem.cells a = cellGet s.mem.cells a)) ∧
        (form = 0 → ∀ a, (a < dst ∨ dst + used ≤ a) → cellGet u.mem.cells a = cellGet s.mem.cells a))) ∧
  (∀ (s : State) (n : Nat) (p : Pkt) (j : Job), s.takes n p (isOp 0x0502) stashGetBad → n < 256 → s.cmd.jobs.get? (n / 4) = some j →
    ∀ got, got = (s.quayTake (n / 4 * 16 + 3) (p.getBuffers (s.landingSize (n / 4))) [] j.step).1 →
    (got.status ≠ 0 → ∃ u : State, exec (.stashGet n) s = .next (u.checkHead n) ∧ u.outcomeAt n p.at_ = some (Outc.of got.status got.detail) ∧ s.bytesSame u) ∧
    (got.status = 0 → ∃ u : State, exec (.stashGet n) s = .next (u.checkHead n) ∧ s.bytesSame u ∧
      (u.prog n p.at_).map (fun g => (g.work, g.taken, g.outcome)) = some (.stashGet false, got.descs.map (fun d => (d, 255)), none)))) ∧
  ((∀ (s : State) (n at_ used : Nat) (bad : Bool) (g : Prog), s.prog n at_ = some g → g.ring = n → g.at_ = at_ → g.work = .stashPut used bad → g.outcome = none →
    Answers (exec (.stashAcknowledged n at_) s) fun t => s.only [.cmd] t ∧
      t.outcomeAt n at_ = some (if s.spanLost (g.pkt.hi 1) (g.pkt.f 3 47 0) used = true then Outc.of 0x0404 0
        else { status := if bad = true then 0x0401 else 0, note := 0, detail := 0, results := [BitVec.ofNat 64 used] })) ∧
  (∀ (s : State) (n at_ : Nat) (g : Prog), s.prog n at_ = some g → g.ring = n → g.at_ = at_ → g.work = .stashGet false → g.outcome = none → s.comp.las = [] → s.mem.errors = [] →
    ∀ key len bufs idx, len = s.getSpan g.pkt → key = spanKey 0 (g.pkt.lo 1) (g.pkt.f 2 47 0) → bufs = g.taken.map (·.1) → idx = spanKey 0 (g.pkt.hi 1) 0 →
    -- a STASH_PUT that came before and writes the region holds the transfer back
    (s.putUnder (s.cmd.progs.takeWhile (· ≠ g)) g.pkt = true → exec (.stashGetTransfer n at_) s = .next s) ∧
    (s.putUnder (s.cmd.progs.takeWhile (· ≠ g)) g.pkt = false →
    (s.spanLost (g.pkt.lo 1) (g.pkt.f 2 47 0) len = true → Answers (exec (.stashGetTransfer n at_) s) fun t => t.outcomeAt n at_ = some (Outc.of 0x0404 0) ∧ t.mem = s.mem) ∧
    (s.spanLost (g.pkt.lo 1) (g.pkt.f 2 47 0) len = false → (s.mem.poisoned key len || s.spanFailed (g.pkt.lo 1) (g.pkt.f 2 47 0) len) = true →
      Answers (exec (.stashGetTransfer n at_) s) fun t => t.outcomeAt n at_ = some (Outc.of 0x0401 0) ∧ t.mem = s.mem) ∧
    (s.spanLost (g.pkt.lo 1) (g.pkt.f 2 47 0) len = false → s.mem.poisoned key len = false → s.spanFailed (g.pkt.lo 1) (g.pkt.f 2 47 0) len = false → s.berthAt (g.pkt.hi 1) ≠ none →
      Answers (exec (.stashGetTransfer n at_) s) fun t =>
        (t.prog n at_).map (fun x => (x.work, x.taken, x.outcome)) = some (.stashGet true, [], some { status := 0, note := 0, detail := 0, results := [BitVec.ofNat 64 bufs.length] }) ∧
        t.mem.read idx (8 * bufs.length) = bufs.flatMap (fun d => leBytes 8 (s.tokenOf d)) ∧ t.quay = s.quay ∧
        (∀ d h ofs size, g.pkt.f 0 1 0 ≠ 1 → bufs = [d] → s.bufferAt d = some (h, ofs, size) → size = s.landingSize g.pkt.job → s.berthAt h ≠ none → len ≤ size →
          (spanKey 0 h ofs + len ≤ idx ∨ idx + 8 ≤ spanKey 0 h ofs) → t.mem.read (spanKey 0 h ofs) len = s.mem.read key len))))) ∧
  ((∀ (s : State) (n lines : Nat) (p : Pkt), s.takes n p (isOp 0x0503) prefetchBad → ∀ all, all = linesOf (p.f 1 47 0) (p.w 2).toNat →
    Takes (exec (.prefetch n lines) s) n fun u => s.inProgress p u ∧ s.only [.cmd, .place, .free] u ∧
      u.place = { s.place with fetches := u.place.fetches, shadows := u.place.shadows } ∧
      (∀ c, (u.place.shadows.getD c []).map (fun x => (x.handle, x.line)) = (s.place.shadows.getD c []).map fun x => (x.handle, x.line)) ∧
      ∃ m ls, ls = all.take m ∧
        u.outcomeAt n p.at_ = some { status := if ls.length < all.length then 1 else 0, note := 0, detail := 0, results := [BitVec.ofNat 64 (ls.map fun l =>
          min (p.f 1 47 0 + (p.w 2).toNat) (65536 * (l + 1)) - max (p.f 1 47 0) (65536 * l)).sum] } ∧
        -- without a launch to fetch for, the clusters of the die of higher heat hold the lines
        (p.f 0 41 32 = 0 → (s.hotClusters (p.lo 0) ≠ [] → (∀ c ∈ s.hotClusters (p.lo 0), all.length ≤ s.shadowRoom c) → ls = all) ∧
          ∀ c ∈ s.hotClusters (p.lo 0), ∀ l ∈ ls, ∃ x ∈ u.place.shadows.getD c [] ++ u.place.fetches.getD c [], x.handle = p.lo 0 ∧ x.line = l) ∧
        -- with one, the clusters at which it is placed
        (∀ q, p.f 0 41 32 ≠ 0 → (s.accept p).packetAhead n (p.f 0 41 32 - 1) = some q → q.op = 0x0202 → ∃ cs, u.cmd.aheadAt.get? (aheadKey q.ring q.at_) = some cs ∧
          ∀ c ∈ cs, ∀ l ∈ ls, ∃ x ∈ u.place.shadows.getD c [] ++ u.place.fetches.getD c [], x.handle = p.lo 0 ∧ x.line = l)) ∧
  (∀ (s : State) (c : Nat) (x : Shadow) (rest : List Shadow), s.place.fetches.getD c [] = x :: rest →
    (s.fetchArrived x = false → exec (.tugFetchComplete c x.handle x.line) s = .next s) ∧
    (s.fetchArrived x = true → Answers (exec (.tugFetchComplete c x.handle x.line) s) fun t => s.only [.place, .cmd] t ∧ t.place.fetches.getD c [] = rest ∧
      (∀ b, b ≠ c → t.place.shadows.get? b = s.place.shadows.get? b) ∧
      ∀ d, d = s.place.shadows.getD c [] →
        ((s.berthAt x.handle = none ∨ s.spanLost x.handle (65536 * x.line) 1 = true ∨ s.shadowRoom c = 0) → t.place.shadows.getD c [] = d) ∧
        (s.berthAt x.handle ≠ none → s.spanLost x.handle (65536 * x.line) 1 = false →
          (d.length < s.shadowRoom c → t.place.shadows.getD c [] = d ++ [x]) ∧
          (s.shadowRoom c ≠ 0 → s.shadowRoom c ≤ d.length → d.length ≤ 256 →
            (t.place.shadows.getD c []).length = s.shadowRoom c ∧ x ∈ t.place.shadows.getD c [] ∧ ∀ y ∈ t.place.shadows.getD c [], y = x ∨ y ∈ d)))) ∧
  (∀ (s : State) (job layer expert blocks pitch : Nat) (g : Prog), s.predicting job layer expert = some g → s.exch.bindings.has (bindingKey job layer expert) = true → 0 < blocks →
    ∀ key n was active target len late, key = bindingKey job layer expert → n = min 64 blocks → was = s.place.predictor.getD key (BitVec.allOnes 64) →
    active = ((g.pkt.argsOf 6).flatMap fun h => s.activeBlocks h blocks pitch) → target = ((g.pkt.argsOf 7).head?).getD 0 → len = ((s.berthAt target).map (·.length)).getD 0 →
    late = ((List.range n).filter fun b => active.contains b && !was.getLsbD b) →
    Answers (exec (.predictorUpdate job layer expert blocks pitch) s) fun t => s.only [.place] t ∧
      (∃ bits, t.place.predictor.get? key = some bits ∧ ∀ b < 64, bits.getLsbD b = (decide (n ≤ b) || active.contains b)) ∧
      t.place.preds.get? key = some { target := target, blocks := blocks, was := was, seen := [], wasted := [] } ∧
      (late = [] → t.place.fetches = s.place.fetches) ∧
      ∀ c ∈ s.launchIn g, (blockLines len blocks late).length ≤ s.shadowRoom c → ∀ l ∈ blockLines len blocks late, late ≠ [] →
        ∃ x ∈ t.place.shadows.getD c [] ++ t.place.fetches.getD c [], x.handle = target ∧ x.line = l) ∧
  -- a block that a kernel reads and that was predicted inactive counts as late; one whose line goes unread counts as waste
  (∀ (s : State) (key : Nat) (r : PredRun) (bnd : Binding) (j : Job), s.place.preds = [(key, r)] → s.exch.bindings.get? key = some bnd → s.cmd.jobs.get? bnd.job = some j →
    ∀ size, size = blockBytesOf (((s.berthAt r.target).map (·.length)).getD 0) r.blocks →
    (∀ ofs n, (s.predRead r.target ofs n).jobIs bnd.job fun x => x.predWaste = j.predWaste ∧ x.predLate = j.predLate + ((List.range r.blocks).filter fun b =>
      decide (0 < n) && decide (b * size < ofs + n) && decide (ofs < (b + 1) * size) && !r.seen.contains b && decide (b < 64) && !r.was.getLsbD b).length) ∧
    (∀ x b, x.handle = r.target → x.read = false → b = 65536 * x.line / size → b < r.blocks → b ∉ r.seen → b ∉ r.wasted →
      (s.lineGone x).jobIs bnd.job fun y => y.predWaste = j.predWaste + 1 ∧ y.predLate = j.predLate)))

/-- The placement epoch changes no byte, halves the heat of every page, and leaves in place the pages of a frozen job that stand on units in service; a hot page in local HBM
moves towards the die whose heat is higher. A move: its copy made, the page is held and shot down here and at each module that reaches it; the shootdown done, it stands
at its new home; its old frame is released when no access to it is under way. No byte changes, and a page off a failed stack is poisoned. -/
def Obligations.Placement : Prop :=
  ((∀ (s : State) (moves : List Move), s.running = true → s.place.epochAt + 1000 * 25 ≤ s.now → Answers (exec (.placementEpoch moves) s) fun t =>
    s.bytesSame t ∧ t.place.epochAt = s.now ∧ s.only [.chip, .place, .cmd, .ledger, .free, .net] t ∧
    ∀ i b p x, s.place.berths = [(i, b)] → b.pages = [(p, x)] →
      (∃ c y, t.place.berths.get? i = some c ∧ c.pages.get? p = some y ∧ y.heatE = x.heatE / 2 ∧ y.heatW = x.heatW / 2 ∧
        (s.frozenJob b.job = true → b.cls ≠ 3 → s.misplaced x.base b.frames = false → y = { x with heatE := x.heatE / 2, heatW := x.heatW / 2, copies := y.copies } ∧
          ((∀ f ∈ x.copies, (b.hints.getLsbD 5 || b.hints.getLsbD 7) = true ∧ s.misplaced f b.frames = false) → y.copies = x.copies)) ∧
        (moves = [] → x.st = .placed → x.goal = none → x.old = none → s.misplaced x.base b.frames = false → s.frozenJob b.job = false → b.cls = 0 → inLocalHbm x.base = true →
          x.heatW ≠ x.heatE → s.comp.las = [] → s.chip.migBytes = [] → ∀ die, die = (if x.heatW < x.heatE then 0 else 1) → (∃ k < 12, s.hotRoom s.framesHeld (12 * die + k) = true) →
          y.st = .migrating ∧ ∃ f, y.goal = some f ∧ inLocalHbm f = false ∧ ∃ k < 12, inSramOf (12 * die + k) f = true))) ∧
  (∀ (s : State) (m : Move) (b : Berth) (x : Page), s.running = true → s.place.epochAt + 1000 * 25 ≤ s.now → s.place.berths = [(m.berth, b)] → b.pages = [(m.page, x)] → x.st = .placed →
    s.frozenJob b.job = false → s.misplaced x.base b.frames = false → b.cls = 1 → (b.hints.getLsbD 5 || b.hints.getLsbD 7) = true → inLocalHbm x.base = true → x.heatE = 0 → x.heatW = 0 →
    (∀ f ∈ x.copies, s.misplaced f b.frames = false) →
    (m.kind = .addReplica → x.replicas < 24 → s.copyFits b x m.base = true → s.chip.migBytes = [] → Answers (exec (.placementEpoch [m]) s) fun t =>
      ∃ c y, t.place.berths.get? m.berth = some c ∧ c.pages.get? m.page = some y ∧ y.copies = x.copies ++ [m.base] ∧ y.replicas = x.replicas + 1) ∧
    (m.kind = .dropReplica → m.base ∈ x.copies → Answers (exec (.placementEpoch [m]) s) fun t =>
      ∃ c y, t.place.berths.get? m.berth = some c ∧ c.pages.get? m.page = some y ∧ y.copies = x.copies.filter (· ≠ m.base))) ∧
  (∀ (s : State) (k f : Nat), s.running = true → s.place.epochAt + 1000 * 25 ≤ s.now → s.place.berths = [] → s.net.stashIn = [(k, f)] →
    (s.misplaced (BitVec.ofNat 46 f) 8 = false → Answers (exec (.placementEpoch []) s) fun t => t.net = s.net) ∧
    (s.misplaced (BitVec.ofNat 46 f) 8 = true → s.chip.migRetire = [] → (s.hbmFrame stashBerth 0).isSome = true → Answers (exec (.placementEpoch []) s) fun t =>
      s.bytesSame t ∧ ∃ g, g ≠ f ∧ t.net.stashIn = [(k, g)] ∧ ∀ i < 8, t.net.frames.get? (g + i) = some (k / 2 ^ 24 % 4096)))) ∧
  (∀ (s : State) (i p : Nat) (b : Berth) (x : Page), s.place.berths.get? i = some b → b.pages.get? p = some x →
    (s.pageOnWire i p b.cls = true → exec (.pageCopyComplete i p) s = .next s) ∧
    (∀ f, s.running = true → x.st = .migrating → x.goal = some f → x.held = false → s.pageOnWire i p b.cls = false → Answers (exec (.pageCopyComplete i p) s) fun t => s.bytesSame t ∧
      (∃ c, t.place.berths.get? i = some c ∧ c.pages.get? p = some { x with held := true }) ∧ (i, p) ∈ t.place.shoot ∧ (∀ w ∈ t.place.tcs, ∀ e ∈ w.2, ¬ (handleIndex e.1 = i ∧ e.2 = p)) ∧
      ∀ m ∈ s.sharers i b.gen, ∃ w ∈ t.wire.wants, w.kind = .shootdown m (mkHandle b.gen i) p) ∧
    (∀ f, s.running = true → x.held = true → x.goal = some f → (i, p) ∈ s.place.shoot → s.shooting (mkHandle b.gen i) p = false → Answers (exec (.shootdownComplete i p) s) fun t => s.bytesSame t ∧
      (∃ c, t.place.berths.get? i = some c ∧ c.pages.get? p = some { x with base := f, st := .placed, goal := none, dirty := [], held := false, old := some x.base }) ∧ (i, p) ∉ t.place.shoot ∧
      ((inLocalHbm x.base && (s.stack (gaStack (pageAddr x.base))).st = .failed) = false → t.mem = s.mem) ∧
      ((inLocalHbm x.base && (s.stack (gaStack (pageAddr x.base))).st = .failed) = true → ∀ k, berthKey i (p * pageSize b.cls) ≤ k → k < berthKey i ((p + 1) * pageSize b.cls) → t.mem.poisoned k 1 = true)) ∧
    (x.old ≠ none → s.pageInFlight i b.cls p = false → Answers (exec (.oldFrameRelease i p) s) fun t => s.only [.place] t ∧ s.bytesSame t ∧
      ∃ c, t.place.berths.get? i = some c ∧ c.pages.get? p = some { x with old := none }))

/-! ### Power, clocks and energy -/

/-- POWER_CAP sets the cap, returns the former one, and the clamp follows at once upwards and 10 ms later downwards; CLOCK_MODE sets the mode and the step and returns the
former ones; ENERGY_READ returns a job's energy or the module's; each 1 ms the energy measured goes to the jobs in proportion to what they used, and what none receives to
the module's own account. -/
def Obligations.PowerAndEnergy : Prop :=
  (∀ (s : State) (p : Pkt) (w : Nat), s.takes 256 p (isOp 0x0701) powerCapBad → w = p.f 0 11 0 →
    Takes (exec .powerCap s) 256 fun u => s.completes p [BitVec.ofNat 64 s.chip.cap] u ∧ s.only [.cmd, .chip] u ∧ 1200 ≤ w ∧ w ≤ 3200 ∧
      (s.chip.clamp ≤ w → u.chip = { s.chip with cap := w, clamp := w, clampDue := [] }) ∧
      (w < s.chip.clamp → u.chip = { s.chip with cap := w, clampDue := s.chip.clampDue.filter (fun d => w ≤ d.1) ++ [(w, s.now + 250000)] })) ∧
  (∀ (s : State) (w t : Nat) (rest : List (Nat × Nat)), s.chip.clampDue = (w, t) :: rest → t ≤ s.now →
    exec .clampAdopt s = .next (s.setChip { s.chip with clamp := w, clampDue := rest })) ∧
  (∀ (s : State) (p : Pkt), s.takes 256 p (isOp 0x0702) clockModeBad →
    Takes (exec .clockMode s) 256 fun u => u.doneAt 256 p.at_ [BitVec.ofNat 64 (s.chip.modeStep * 2 + if s.chip.fixed = true then 1 else 0)] ∧
      (∀ i j, s.cmd.jobs.get? i = some j → u.cmd.jobs.get? i = some (if p.bit 0 0 = true then j else { j with fixedStep := false })) ∧
      u.chip.fixed = p.bit 0 0 ∧ u.chip.modeStep = p.f 0 3 1 ∧ u.chip.cap = s.chip.cap ∧ u.chip.clamp = s.chip.clamp ∧ p.f 0 3 1 ≤ 5 ∧ s.only [.cmd, .chip] u ∧
      (p.bit 0 0 = true → u.chip.step = p.f 0 3 1) ∧ (p.bit 0 0 = false → s.chip.slowed = false → u.chip.step = p.f 0 3 1) ∧
      (p.bit 0 0 = false → s.chip.slowed = true → u.chip.step = max s.chip.step (p.f 0 3 1))) ∧
  (∀ (s : State) (n : Nat) (p : Pkt), s.takes n p (isOp 0x0703) energyBad →
    (p.f 0 6 0 = 127 → Takes (exec (.energyRead n) s) n fun u => s.completes p [BitVec.ofNat 64 (s.chip.energy / 1000), 0] u ∧ s.only [.cmd] u) ∧
    (∀ j, p.f 0 6 0 ≠ 127 → s.cmd.jobs.get? (p.f 0 6 0) = some j → Takes (exec (.energyRead n) s) n fun u =>
      s.completes p [BitVec.ofNat 64 (j.energy / 1000), BitVec.ofNat 64 (j.stepEnergy / 1000)] u ∧ s.only [.cmd] u)) ∧
  (∀ (s : State) (total : Nat) (meters : List EnergyUse), s.clocked = true → s.after ((s.clk.timers.getD 8 0).toNat) 1000 = true →
    (meters.map (·.energy)).sum ≤ total → Answers (exec (.energyInterval total meters) s) fun t =>
      t.chip = { s.chip with energy := s.chip.energy + total,
                             ownEnergy := s.chip.ownEnergy + (total - (s.cmd.jobs.keyList.map (jobEnergy total meters)).sum) } ∧
      t.counter 5 = min (2 ^ 64 - 1) (s.counter 5 + (s.chip.energy % 1000 + total) / 1000) ∧ s.only [.cmd, .chip, .ledger, .clk] t ∧
      (∀ i j, s.cmd.jobs.get? i = some j → t.cmd.jobs.get? i =
        some { j with energy := j.energy + jobEnergy total meters i, stepEnergy := j.stepEnergy + jobEnergy total meters i }) ∧
      (∀ i, s.cmd.jobs.get? i = none → t.cmd.jobs.get? i = none) ∧
      (s.cmd.jobs.keyList.Pairwise (· < ·) → t.chip.ownEnergy + (s.cmd.jobs.keyList.map (jobEnergy total meters)).sum = s.chip.ownEnergy + total)) ∧
  (∀ (total job energy uses : Nat), 0 < energy → energy ≤ total → 0 < uses → jobEnergy total [⟨energy, [(job, uses)]⟩] job = total)

/-- CLUSTER_STATE reads every cluster's state byte, gates clusters and keeps them gated, wakes them, or returns them to automatic gating; a gate or a wake is done once every
cluster has reached its state. Gating and waking: an idle cluster that no packet in the look-ahead binds work to starts its gating sequence after 2 ms, writing its
records back and forgetting its lines, translations and cores; a binding, a retained access or a command enables it; an enable or a shut-down that ends leaves it idle or
gated, and a held enable runs. -/
def Obligations.ClusterPower : Prop :=
  ((∀ (s : State) (p : Pkt), s.takes 256 p (isClusterState 0) clusterBad → Takes (exec .clusterStateRead s) 256 fun u =>
    s.completes p (wordsOf 3 ((List.range 24).map s.clusterByte)) u ∧ s.only [.cmd] u) ∧
  (∀ (s : State) (c : Nat), c < 24 → s.enabled c = true → ∀ code, code = (s.clusterByte c).toNat / 16 →
    ((s.cluster c).svc = .inService → code = (match (s.cluster c).pow with | .running => 0 | .idle => 1 | .gating => 2 | .gated => 3 | .waking => 4 | .rechar => 5)) ∧
    ((s.cluster c).svc = .resetting → code = 6) ∧ ((s.cluster c).svc = .retired → code = 7) ∧
    (s.clusterByte c).getLsbD 3 = (s.cluster c).held ∧ (s.clusterByte c).getLsbD 2 = (s.cluster c).manual ∧ (s.clusterByte c).getLsbD 1 = s.onlyFiller c) ∧
  (∀ (s : State) (p : Pkt), s.takes 256 p (isClusterState 1) clusterBad → ∀ cs, cs = p.clusters s →
    Takes (exec .clusterStateGate s) 256 fun u =>
      (∀ c ∈ cs, (u.cluster c).keepGated = true ∧ (u.cluster c).manual = true ∧
        ((s.cluster c).pow = .idle → s.runningOn c = [] → s.sramPages c = false → (u.cluster c).pow = .gating) ∧
        (((s.cluster c).pow ≠ .idle ∨ s.runningOn c ≠ [] ∨ (s.sramPages c = true ∧ (s.cluster c).heldOff = false)) → (u.cluster c).pow = (s.cluster c).pow) ∧
        (∀ e ∈ s.runningOn c, (u.coreOf e.1).leave ≠ none)) ∧
      (∀ c, c ∉ cs → u.cluster c = s.cluster c) ∧
      (u.prog 256 p.at_).map (·.work) = some (.cluster 1 (cs.filter fun c => decide ((s.cluster c).pow ≠ .gated))) ∧
      ((∀ c ∈ cs, (s.cluster c).pow = .gated) → u.doneAt 256 p.at_ (wordsOf 3 ((List.range 24).map u.clusterByte))) ∧
      ((∃ c ∈ cs, (s.cluster c).pow ≠ .gated) → u.outcomeAt 256 p.at_ = none)) ∧
  (∀ (s : State) (p : Pkt), s.takes 256 p (isClusterState 2) clusterBad → ∀ cs, cs = p.clusters s →
    Takes (exec .clusterStateWake s) 256 fun u => (∀ c, c ∉ cs → u.cluster c = s.cluster c) ∧
      (∀ c ∈ cs, (u.cluster c).keepGated = false ∧ (u.cluster c).manual = true ∧ ((s.cluster c).pow = .gated → (u.cluster c).pow = .waking) ∧
        ((s.cluster c).pow ≠ .gated → (u.cluster c).pow = (s.cluster c).pow) ∧ ((s.cluster c).pow = .gating ∨ (s.cluster c).pow = .rechar → (u.cluster c).held = true)) ∧
      ((∀ c ∈ cs, s.awake c = true) → u.doneAt 256 p.at_ (wordsOf 3 ((List.range 24).map u.clusterByte))) ∧
      ((∃ c ∈ cs, s.awake c = false) → u.outcomeAt 256 p.at_ = none ∧ ∃ want, (u.prog 256 p.at_).map (·.work) = some (.cluster want (cs.filter fun c => !s.awake c)) ∧
        (want = 3 ↔ ∃ c ∈ cs, ((s.cluster c).pow = .gating ∨ (s.cluster c).pow = .rechar) ∧ (s.cluster c).held = false))) ∧
  (∀ (s : State) (p : Pkt), s.takes 256 p (isClusterState 3) clusterBad → Takes (exec .clusterStateAutomatic s) 256 fun u => s.only [.cmd, .chip] u ∧ s.inProgress p u ∧
    u.doneAt 256 p.at_ (wordsOf 3 ((List.range 24).map u.clusterByte)) ∧ (∀ c ∈ p.clusters s, u.cluster c = { s.cluster c with keepGated := false, manual := false }) ∧
    (∀ c, c ∉ p.clusters s → u.cluster c = s.cluster c))) ∧
  ((∀ (s : State) (c : Nat), s.running = true → s.inService c = true → (s.cluster c).pow = .idle → s.runningOn c = [] →
    ((s.cluster c).manual = false ∧ s.after (s.cluster c).idleSince 2000 = true ∧ s.workWaits c = false ∧ s.aheadBinds c = false) ∨ ((s.cluster c).keepGated = true ∧ s.sramPages c = false) ∨ (s.cluster c).heldOff = true →
    Answers (exec (.clusterAutoGate c) s) fun t => (t.cluster c).pow = .gating ∧ (t.cluster c).thinOn = false ∧ (∀ d, d ≠ c → t.cluster d = s.cluster d) ∧
      t.place.shadows.get? c = none ∧ t.place.fetches.get? c = none ∧ (∀ k ∈ t.place.tcs.keyList, k / 256 ≠ c) ∧ (∀ k, clusterOf k = c → t.comp.cores.get? k = none) ∧
      (∀ k, clusterOf k ≠ c → t.comp.cores.get? k = s.comp.cores.get? k) ∧ (∀ e ∈ t.comp.las, s.homeCluster e.1 ≠ c) ∧ s.only [.chip, .comp, .mem, .place, .cmd, .free] t) ∧
  (∀ (s : State) (c : Nat) (why : WakeBy), s.running = true → s.inService c = true →
    (match why with
      | .binding => s.workWaits c = true ∧ (s.cluster c).keepGated = false
      | .retainedAccess => s.sramPages c = true
      | .command => ∃ g ∈ s.cmd.progs, ∃ want left, g.work = .cluster want left ∧ 2 ≤ want ∧ c ∈ left) →
    Answers (exec (.clusterWake c why) s) fun t => s.only [.chip, .side] t ∧ (∀ d, d ≠ c → t.cluster d = s.cluster d) ∧
      ((s.cluster c).pow = .gated → t.cluster c = { s.cluster c with pow := .waking } ∧ t.side = { s.side with pstate := .active }) ∧
      ((s.cluster c).pow = .gating ∨ (s.cluster c).pow = .rechar → t = s.updCluster c fun x => { x with held := true }) ∧
      ((s.cluster c).pow = .idle ∨ (s.cluster c).pow = .running ∨ (s.cluster c).pow = .waking → t = s)) ∧
  (∀ (s : State) (c : Nat), (s.cluster c).thinOn = true → (s.cluster c).thinInst = none → s.after (s.cluster c).thinIdle 100 = true →
    exec (.thinPathGate c) s = .next (s.updCluster c fun x => { x with thinOn := false, thinOff := true })) ∧
  (∀ (s : State) (c : Nat) (f : PowerFn), f = .cluster c ∨ f = .rechar c → (s.cluster c).pow = .waking → s.noneWaiting → (s.cluster c).keepGated = false → (s.cluster c).heldOff = false →
    Answers (exec (.enableComplete f) s) fun t => t.cluster c = { s.cluster c with pow := .idle, idleSince := s.now } ∧ (∀ d, d ≠ c → t.cluster d = s.cluster d) ∧
      ∀ g p, s.cmd.progs = [g] → g.work = .cluster p [c] → 2 ≤ p → g.outcome = none → ∃ rs, t.outcomeAt g.ring g.at_ = some { status := if p = 3 then 0x0102 else 0, note := 0, detail := 0, results := rs }) ∧
  (∀ (s : State) (c : Nat), (s.cluster c).thinInst ≠ none → (s.cluster c).thinOn = false → (s.cluster c).thinOff = false → s.awake c = true →
    exec (.enableComplete (.thinPath c)) s = .next (s.updCluster c fun x => { x with thinOn := true })) ∧
  (∀ (s : State) (f : PowerFn) (c : Nat), s.running = true → (f = .cluster c ∧ (s.cluster c).pow = .gating) ∨ (f = .rechar c ∧ (s.cluster c).pow = .rechar ∧ s.noneWaiting) →
    Answers (exec (.shutdownComplete f) s) fun t => (∀ d, d ≠ c → t.cluster d = s.cluster d) ∧
      ((s.cluster c).held = true → (t.cluster c).pow = .waking ∧ (t.cluster c).held = false) ∧ ((s.cluster c).held = false → (t.cluster c).pow = .gated) ∧
      (f = .cluster c → ∀ g, s.cmd.progs = [g] → g.work = .cluster 1 [c] → g.outcome = none → (s.cluster c).held = false → ∃ rs, t.doneAt g.ring g.at_ rs)) ∧
  (∀ (s : State) (c : Nat), s.running = true → (s.cluster c).thinOff = true → exec (.shutdownComplete (.thinPath c)) s =
    .next (s.updCluster c fun x => { x with thinOff := false, thinOn := x.thinHeld, thinHeld := false, thinIdle := s.now })) ∧
  (∀ (s : State) (p : Nat), s.clocked = true → (s.port p).shutting = true → Answers (exec (.shutdownComplete (.port p)) s) fun t => s.only [.net] t ∧ (t.port p).shutting = false ∧
    ((s.port p).held = false → (t.port p).shut = true ∧ (t.port p).training = (s.port p).training) ∧ ((s.port p).held = true → (t.port p).shut = false ∧ (t.port p).training = some s.now)))

/-- The governor lowers filler duty first, then gates a filler cluster, then lowers the clock, and reverses its last action after 10 ms below the cap; the clamp sets filler
duty to 1/8, then lowers the clock each 1 ms, then halves the issue rate. Droop stretches a clock until its release; re-characterisation falls due and is made; the
Ledger's snapshot and waiting events are written. -/
def Obligations.GovernorAndAgeing : Prop :=
  ((∀ (s : State) (draw junction : Nat), s.running = true → s.after ((s.clk.timers.getD 3 0).toNat) 100 = true → ∀ hot, hot = (decide (100 ≤ junction) || (decide (97 ≤ junction) && s.chip.hot)) →
    Answers (exec (.governorTick draw junction) s) fun t => s.only [.side, .clk, .chip, .ledger, .cmd, .comp, .free] t ∧ t.chip.hot = hot ∧ t.side.tj = junction ∧ t.side.pin = s.side.pin ∧ t.chip.cap = s.chip.cap ∧
      t.clk = { s.clk with timers := s.clk.timers.put 3 s.clk.counter } ∧
      ((s.chip.cap < draw ∨ hot = true) →
        (s.fillerDuty ≠ [] → (∀ c ∈ s.fillerDuty, t.cluster c = { s.cluster c with duty := (s.cluster c).duty - 1 }) ∧ (∀ c, c ∉ s.fillerDuty → t.cluster c = s.cluster c) ∧ t.chip.step = s.chip.step) ∧
        (s.fillerDuty = [] → ∀ cs, cs = s.clustersIn.filter (fun c => s.onlyFiller c && !(s.cluster c).heldOff) →
          (cs ≠ [] → ∃ c ∈ cs, (∀ d ∈ cs, d ≤ c) ∧ t.cluster c = { s.cluster c with heldOff := true } ∧ (∀ d, d ≠ c → t.cluster d = s.cluster d) ∧ t.chip.step = s.chip.step) ∧
          (cs = [] → t.chip.clusters = s.chip.clusters ∧ t.chip.step = (if (s.chip.fixed = false ∨ hot = true) ∧ s.chip.step < 5 then s.chip.step + 1 else s.chip.step)))) ∧
      (draw ≤ s.chip.cap → hot = false → s.chip.govBefore = none →
        (s.chip.actions = [] → t.chip.step = s.chip.step ∧ t.chip.clusters = s.chip.clusters) ∧
        (∀ a w rest, s.chip.actions = (a, w) :: rest →
          (s.chip.cap ≤ draw + w + 50 → t.chip.govQuiet = none ∧ t.chip.actions = s.chip.actions ∧ t.chip.step = s.chip.step) ∧
          (draw + w + 50 < s.chip.cap → s.chip.govQuiet = none → t.chip.govQuiet = some s.now ∧ t.chip.actions = s.chip.actions ∧ t.chip.step = s.chip.step) ∧
          (∀ q, draw + w + 50 < s.chip.cap → s.chip.govQuiet = some q → s.after q 10000 = true → t.chip.actions = rest ∧
            (∀ b, a = .clock b → t.chip.step = max b s.chip.modeStep) ∧ (∀ c, a = .gate c → (t.cluster c).heldOff = false) ∧ (a = .halve → t.chip.halved = false) ∧
            (∀ c d, a = .duty [(c, d)] → (t.cluster c).duty = d))))) ∧
  (∀ (s v : State) (average : Nat), s.running = true → v = s.setSide { s.side with pin := average } →
    (average ≤ s.chip.clamp → exec (.clampCheck average) s = .next (v.setChip { s.chip with clampNext := none })) ∧
    (s.chip.clamp < average → s.chip.clampNext = none → Answers (exec (.clampCheck average) s) fun t => t.side.pin = average ∧ t.chip.clampNext = some (s.now + 25000) ∧ t.chip.step = s.chip.step ∧ t.chip.halved = s.chip.halved ∧
      (∀ c ∈ s.fillerDuty, (t.cluster c).duty = 1) ∧ (∀ c, c ∉ s.fillerDuty → t.cluster c = s.cluster c) ∧
      t.counter 10 = if s.fillerDuty = [] then s.counter 10 else min (2 ^ 64 - 1) (s.counter 10 + 1)) ∧
    (∀ due, s.chip.clamp < average → s.chip.clampNext = some due → (s.now < due → exec (.clampCheck average) s = .next v) ∧
      (due ≤ s.now → Answers (exec (.clampCheck average) s) fun t => t.side.pin = average ∧ t.chip.clampNext = some (s.now + 25000) ∧ t.chip.clusters = s.chip.clusters ∧
        (s.chip.step < 5 → t.chip.step = s.chip.step + 1 ∧ t.chip.halved = s.chip.halved) ∧ (¬ s.chip.step < 5 → t.chip.step = s.chip.step ∧ t.chip.halved = true))))) ∧
  ((∀ (s : State) (d : Nat), s.clocked = true → (d < 24 → s.inService d = true ∧ (s.cluster d).stretched = false) → (24 ≤ d → d ∉ s.chip.stretched) →
    Answers (exec (.droopStretch d) s) fun t => t.counter 11 = min (2 ^ 64 - 1) (s.counter 11 + 1) ∧ s.only [.chip, .ledger] t ∧
      (d < 24 → t.cluster d = { s.cluster d with stretched := true }) ∧ (24 ≤ d → t.chip.stretched = d :: s.chip.stretched ∧ t.chip.clusters = s.chip.clusters)) ∧
  (∀ (s : State) (d : Nat), Answers (exec (.stretchRelease d) s) fun t => s.only [.chip] t ∧ (d < 24 → t.cluster d = { s.cluster d with stretched := false }) ∧
    (24 ≤ d → d ∉ t.chip.stretched ∧ ∀ e ∈ s.chip.stretched, e ≠ d → e ∈ t.chip.stretched)) ∧
  (∀ (s : State), s.chip.recharDue = none →
    (s.counter 20 + 7200000 ≤ s.counter 0 ∨ (s.clk.calendar ≠ none ∧ s.counter 21 ≠ 0 ∧ s.counter 21 + 2592000 ≤ s.calendarNow)) →
    Answers (exec .recharDue s) fun t => s.only [.chip] t ∧ t.chip.recharDue = some (s.counter 0) ∧ ∀ c < 24, t.cluster c = { s.cluster c with recharDone := false }) ∧
  (∀ (s : State) (c trim freq : Nat), s.running = true → s.inService c = true → (s.cluster c).svc = .inService → s.chip.recharDue ≠ none → (s.cluster c).recharDone = false → (s.cluster c).pow = .gated →
    s.runningOn c = [] → s.workWaits c = false → s.aheadBinds c = false → trim % 5 = 0 → (s.cluster c).trim ≤ trim → Answers (exec (.recharacterisation c trim freq) s) fun t => (∀ d, d ≠ c → t.cluster d = s.cluster d) ∧
      (trim ≤ 60 → t.cluster c = { s.cluster c with trim := trim, pow := .rechar, recharDone := true } ∧ s.only [.chip, .ledger] t) ∧
      (60 < trim → (t.cluster c).svc = .draining ∧ (t.cluster c).retireAfter = true ∧ t.side.attnCause.getLsbD 0 = true) ∧
      (s.ledger.perm.length < 5461 → ∃ e, t.ledger.perm = s.ledger.perm ++ [e] ∧ e.typ = (if 60 < trim then 14 else 13) ∧ e.data.take 6 = leBytes 2 trim ++ leBytes 4 freq)) ∧
  (∀ (s : State), s.side.v54 = true → s.after s.ledger.snapAt 3600000000 = true →
    exec .ledgerSnapshot s = .next (s.setLedger { s.ledger with snap := s.ledger.ctr, unitSnap := s.ledger.units, snapAt := s.now })) ∧
  (∀ (s : State) (e : LEvent) (rest : List LEvent), s.side.v54 = true → s.ledger.waiting = e :: rest → Answers (exec .ledgerEventWrite s) fun t => s.only [.ledger] t ∧ t.ledger.waiting = rest ∧
    t.ledger.perm = s.ledger.perm ∧ t.ledger.ord = (if s.ledger.ord.length < 10922 then s.ledger.ord else s.ledger.ord.tail) ++ [{ e with seq := s.counter 23 }] ∧
    (t.counter 23 = min (2 ^ 64 - 1) (s.counter 23 + 1)) ∧ (10922 ≤ s.ledger.ord.length → t.counter 24 = min (2 ^ 64 - 1) (s.counter 24 + 1))))

/-! ### Pins, trips and resets -/

/-- A module reset of each cause leaves what R338 says: RESET_N, a supply trip, a thermal trip, the stage-7 watchdog and the end of an orderly shut-down. -/
def Obligations.ModuleResets : Prop :=
  (∀ (s : State), s.side.resetN = false → s.side.v54 = true → Answers (exec .resetNAssert s) fun t => s.resets 1 t ∧ t.side.resetN = true ∧
    (s.side.pstate ≠ .tripped → s.side.pstate ≠ .recovery → s.side.wdStarts < 3 → t.side.pstate = .standby) ∧ (s.side.pstate = .tripped → s.side.halted = false → t.side.pstate = .tripped)) ∧
  (∀ (s : State), s.side.v54 = true → Answers (exec .supplyTrip s) fun t => s.resets 3 t ∧ t.side.supplyHeld = true ∧ t.side.tripAt = s.now ∧ t.side.attnCause.getLsbD 4 = true ∧ t.counter 8 = min (2 ^ 64 - 1) (s.ledger.snap.getD 8 0 + 1) ∧
    (s.side.pstate ≠ .tripped → s.side.pstate ≠ .recovery → s.side.wdStarts < 3 → t.side.pstate = .standby)) ∧
  (∀ (s : State), s.clocked = true → s.side.halted = false → Answers (exec .thermalTrip s) fun t => s.resets 4 t ∧ t.side.pstate = .tripped ∧ t.side.thermTrip = true ∧
    t.side.tripLow = !s.side.pwrEn ∧ t.side.attnCause.getLsbD 3 = true ∧ t.counter 9 = min (2 ^ 64 - 1) (s.ledger.snap.getD 9 0 + 1)) ∧
  (∀ (s : State), s.side.pstate = .starting → s.side.halted = false → s.side.stageDone.getLsbD 4 = true → s.after s.side.startAt 120000000 = true → s.side.wdStarts < 2 →
    Answers (exec .stage7Timeout s) fun t => s.resets 2 t ∧ t.side.wdStarts = s.side.wdStarts + 1 ∧ (t.side.pstate = .starting ∨ t.side.pstate = .standby)) ∧
  (∀ (s : State), s.side.pstate = .starting → s.side.halted = false → s.side.stageDone.getLsbD 4 = true → s.after s.side.startAt 120000000 = true → 2 ≤ s.side.wdStarts →
    Answers (exec .stage7Timeout s) fun t => s.resets 2 t ∧ t.side.pstate = .recovery ∧ t.side.attnCause.getLsbD 2 = true) ∧
  (∀ (s : State) (c : Instr), c = .orderlyShutdownComplete ∨ c = .shutdownComplete .module → s.side.shutting = true → Answers (exec c s) fun t => s.resets 10 t ∧ t.ledger.snap = s.ledger.ctr ∧
    t.ledger.snapAt = s.now ∧ t.side.shutting = false ∧ (s.side.pstate = .idle ∨ s.side.pstate = .active → s.side.wdStarts < 3 → s.side.supplyHeld = false →
      (s.side.pwrEn = false → t.side.pstate = .standby) ∧ (s.side.pwrEn = true → s.side.resetN = false → s.side.v54 = true → s.side.stageDone.getLsbD 1 = true → t.side.pstate = .starting))) ∧
  (∀ (s : State), s.side.v54 = true → s.side.supplyHeld = true → s.after s.side.tripAt 100000 = true → Answers (exec .tripRecovery s) fun t => t.side.supplyHeld = false ∧
    s.only [.side, .ledger] t ∧ (s.side.pstate = .standby → s.side.pwrEn = true → s.side.resetN = false → s.side.shutting = false → s.side.stageDone.getLsbD 1 = true → t.side.pstate = .starting ∧ t.side.startAt = s.now))

/-! ### Health and repair -/

/-- HEALTH_READ returns the records of one scope from START on, as many as its reply slot holds, after their number and the next index; the records stand as the units do. -/
def Obligations.HealthRead : Prop :=
  (∀ (s : State) (n : Nat) (p : Pkt), s.takes n p (isOp 0x0801) (fun p _ => mal 0 (7 ≤ p.f 0 3 0)) → ∀ w total rec start count,
    (w, total, rec) = (if p.f 0 3 0 = 0 then (4, 1, fun _ => s.summary) else if p.f 0 3 0 = 1 then (1, 24, s.clusterRecord) else if p.f 0 3 0 = 2 then (1, 408, s.coreRecord)
      else if p.f 0 3 0 = 3 then (1, 408, fun k => (s.coreHw k).fuse.toNat) else if p.f 0 3 0 = 4 then (1, 16, s.stackRecord) else if p.f 0 3 0 = 5 then (1, 1024, s.pcRecord)
      else (2, s.health.events.length, fun i => (s.health.events[i]?).elim 0 FEvent.bits) : Nat × Nat × (Nat → Nat)) →
    start = (p.w 1).toNat → count = min ((phRlen p.hdr - 40) / (8 * w)) (total - start) →
    Takes (exec (.healthRead n) s) n fun u => s.only [.cmd] u ∧ s.completes p (BitVec.ofNat 64 (count + (start + count) % 2 ^ 32 * 2 ^ 32) ::
      ((List.range count).map (start + ·)).flatMap fun i => wordsOfNat w (rec i)) u) ∧
  (∀ (s : State) (k : Nat), s.enabled (clusterOf k) = true → ∀ x r, x = s.coreHw k → r = BitVec.ofNat 64 (s.coreRecord k) →
    r.extractLsb' 61 3 = (match x.st with | .working => 0 | .spare => 1 | .quarantined => 2 | .retired => 3 | .disabled => 4) ∧ r.getLsbD 57 = x.fusePend ∧ r.getLsbD 56 = x.stPass ∧
    r.extractLsb' 48 8 = BitVec.ofNat 8 x.badRow ∧ r.extractLsb' 40 8 = BitVec.ofNat 8 x.badCol ∧
    r.extractLsb' 37 3 = BitVec.ofNat 3 (min (4 - x.spent) ((List.range 4).filter fun e => !fuseValid x.fuse e).length)) ∧
  (∀ (s : State) (c : Nat), s.enabled c = true → ∀ x r, x = s.cluster c → r = BitVec.ofNat 64 (s.clusterRecord c) →
    r.extractLsb' 61 3 = (match x.svc with | .inService => 0 | .draining => 1 | .resetting => 2 | .retired => 3 | .disabled => 4) ∧ r.getLsbD 55 = x.spare.isSome ∧ r.getLsbD 54 = x.thinQ)

/-- FUSE_ROW and FUSE_COL program the first free entry of their kind with INDEX and FCHECK, count it, and leave the mapping as it is until the core's next reset; SPARE_CORE
drains a core and, once it runs nothing, retires it for its cluster's spare; RESTORE_SPARE makes a retired core the spare, its pending fuses in effect. -/
def Obligations.CoreRepairs : Prop :=
  (∀ (s : State) (p : Pkt) (c : Instr) (kind base : Nat), (c = .fuseRow ∧ kind = 1 ∧ base = 0) ∨ (c = .fuseCol ∧ kind = 2 ∧ base = 2) → s.takes 256 p (isRepair kind) (fuseRefused base) →
    ∃ e, (e = base ∨ e = base + 1) ∧ fuseValid (s.coreHw p.uCore).fuse e = false ∧ (e = base + 1 → fuseValid (s.coreHw p.uCore).fuse base = true) ∧ p.f 0 31 24 ≤ 129 ∧
      (s.coreHw p.uCore).spent < 4 ∧ Takes (exec c s) 256 fun u => s.only [.cmd, .chip, .ledger] u ∧ s.inProgress p u ∧
        u.coreHw p.uCore = { s.coreHw p.uCore with fuse := fuseProgram (s.coreHw p.uCore).fuse e (p.f 0 31 24), spent := (s.coreHw p.uCore).spent + 1, fusePend := true } ∧
        (∀ k, k ≠ p.uCore → u.coreHw k = s.coreHw k) ∧ u.counter 13 = min (2 ^ 64 - 1) (s.counter 13 + 1) ∧
        u.doneAt 256 p.at_ [BitVec.ofNat 64 p.uCore, repairWord kind 1 (u.coreHw p.uCore).fuseLeft 0] ∧
        (s.ledger.perm.length < 5461 → ∃ x, u.ledger.perm = s.ledger.perm ++ [x] ∧ x.typ = 2 ∧ x.data.take 8 = leBytes 8 (fuseProgram (s.coreHw p.uCore).fuse e (p.f 0 31 24)).toNat)) ∧
  (∀ (w : BitVec 64) (e i : Nat), e < 4 → i < 130 → fuseValid w e = false → fuseIndex w e = 0 → w.getLsbD (36 + e) = false → ∀ v, v = fuseProgram w e i →
    fuseValid v e = true ∧ fuseIndex v e = i ∧ v.getLsbD (36 + e) = true ∧ (∀ d < 4, d ≠ e → fuseValid v d = fuseValid w d ∧ fuseIndex v d = fuseIndex w d ∧ v.getLsbD (36 + d) = w.getLsbD (36 + d)) ∧
      bitsOf v.toNat 55 40 = crc16 (leBytes 5 v.toNat)) ∧
  (∀ (s : State) (p : Pkt), s.takes 256 p (isRepair 3) spareCoreBad → Takes (exec .spareCore s) 256 fun u => s.inProgress p u ∧ s.only [.cmd, .comp] u ∧
    (u.prog 256 p.at_).map (fun g => (g.work, g.outcome)) = some (.repair 3 p.uCore, none) ∧ ((s.coreOf p.uCore).inst ≠ none → (u.coreOf p.uCore).leave ≠ none) ∧
    (∀ k, k ≠ p.uCore → u.coreOf k = s.coreOf k)) ∧
  (∀ (s : State) (g : Prog) (k n : Nat), s.prog 256 g.at_ = some g → g.ring = 256 → g.work = .repair 3 k → g.outcome = none → (s.coreOf k).inst = none → (s.cluster (clusterOf k)).spare = some n →
    n ≠ k % 17 → n < 17 → Answers (exec (.commandComplete 256 g.at_) s) fun t => t.prog 256 g.at_ = none ∧ t.coreHw k = { s.coreHw k with st := .retired, reason := 5 } ∧
      t.coreHw (17 * clusterOf k + n) = { s.coreHw (17 * clusterOf k + n) with st := .working, reason := 0 } ∧ (t.cluster (clusterOf k)).spare = none) ∧
  (∀ (s : State) (p : Pkt) (row col : Nat), s.takes 256 p (isRepair 4) restoreSpareBad → ∀ k x, k = p.uCore → x = { s.coreHw k with mapped := (s.coreHw k).fuse, fusePend := false } →
    (Takes (exec (.restoreSpare ⟨true, row, col⟩) s) 256 fun u => s.completes p [BitVec.ofNat 64 k, repairWord 4 0 0 0] u ∧
      u.coreHw k = { x with st := .spare, reason := 0, stPass := true, badRow := 255, badCol := 255 } ∧
      u.cluster p.uCluster = { s.cluster p.uCluster with spare := some (k % 17) } ∧ u.side.attnCause.getLsbD 0 = true ∧ u.comp.cores.get? k = none ∧
      (∀ j, j ≠ k → u.coreHw j = s.coreHw j ∧ u.comp.cores.get? j = s.comp.cores.get? j)) ∧
    -- a core that fails its self-test stays retired, with the mapping of its fuses and the verdict
    (Takes (exec (.restoreSpare ⟨false, row, col⟩) s) 256 fun u => u.outcomeAt 256 p.at_ = some (Outc.of 0x0201 (detailWord 0x0F 0)) ∧
      u.coreHw k = { x with stPass := false, badRow := row % 256, badCol := col % 256 } ∧ u.cluster p.uCluster = s.cluster p.uCluster ∧ u.comp.cores.get? k = none ∧
      (∀ j, j ≠ k → u.coreHw j = s.coreHw j ∧ u.comp.cores.get? j = s.comp.cores.get? j)))

/-- PPR_COMMIT, RETIRE_PC, RETIRE_STACK, RETIRE_CLUSTER and RESET_CLUSTER take their units towards an empty state and wait; PPR_COMMIT with no soft repair has nothing to do.
An emptied pseudo-channel or stack is then retired, or returns to use with its repairs committed; its command is done. -/
def Obligations.Retirements : Prop :=
  (∀ (s : State) (p : Pkt), s.takes 256 p (isRepair 5) pprCommitBad →
    ((s.pc p.pcIndex).pprSoft = 0 → Takes (exec .pprCommit s) 256 fun u => s.completes p [BitVec.ofNat 64 p.pcIndex, repairWord 5 2 0 0] u ∧ s.only [.cmd] u) ∧
    ((s.pc p.pcIndex).pprSoft ≠ 0 → Takes (exec .pprCommit s) 256 fun u => s.inProgress p u ∧ s.only [.cmd, .chip] u ∧
      (u.prog 256 p.at_).map (fun g => (g.work, g.outcome)) = some (.repair 5 p.pcIndex, none) ∧ ((s.pc p.pcIndex).st = .inService → u.pc p.pcIndex = { s.pc p.pcIndex with st := .retiring }) ∧
      (∀ i, i ≠ p.pcIndex → u.pc i = s.pc i))) ∧
  (∀ (s : State) (p : Pkt), s.takes 256 p (isRepair 6) retirePcBad → Takes (exec .retirePc s) 256 fun u => s.inProgress p u ∧
    (u.prog 256 p.at_).map (fun g => (g.work, g.outcome)) = some (.repair 6 p.pcIndex, none) ∧ (u.pc p.pcIndex).st = .retiring ∧ u.chip.retiring.contains (.pc p.uStack p.uPc) = true ∧
    (∀ i, i ≠ p.pcIndex → u.pc i = s.pc i)) ∧
  (∀ (s : State) (p : Pkt), s.takes 256 p (isRepair 7) retireStackBad → (s.stack p.uStack).st = .inService → Takes (exec .retireStack s) 256 fun u => s.inProgress p u ∧
    (u.prog 256 p.at_).map (fun g => (g.work, g.outcome)) = some (.repair 7 p.uStack, none) ∧ (u.stack p.uStack).st = .retiring ∧ (u.stack p.uStack).sysUnits = 0 ∧
    u.chip.retiring.contains (.stack p.uStack) = true ∧ ((List.range 16).map fun i => (u.stack i).sysUnits).sum = 131072) ∧
  (∀ (s : State) (p : Pkt), s.takes 256 p (isRepair 8) retireClusterBad → (s.cluster p.uCluster).svc = .inService → Takes (exec .retireCluster s) 256 fun u => s.inProgress p u ∧
    (u.prog 256 p.at_).map (fun g => (g.work, g.outcome)) = some (.repair 8 p.uCluster, none) ∧
    u.cluster p.uCluster = { s.cluster p.uCluster with svc := .draining, drainAt := some s.now, forced := false, retireAfter := true } ∧ (∀ c, c ≠ p.uCluster → u.cluster c = s.cluster c) ∧
    (∀ e ∈ s.runningOn p.uCluster, (u.coreOf e.1).leave ≠ none)) ∧
  (∀ (s : State) (p : Pkt), s.takes 256 p (isRepair 9) resetClusterBad → s.noneWaiting → (s.cluster p.uCluster).svc = .inService →
    (p.f 0 31 24 = 0 → Takes (exec .resetCluster s) 256 fun u => (u.prog 256 p.at_).map (fun g => (g.work, g.outcome)) = some (.repair 9 p.uCluster, none) ∧
      u.cluster p.uCluster = { s.cluster p.uCluster with svc := .draining, drainAt := some s.now, forced := false, retireAfter := false }) ∧
    (p.f 0 31 24 = 1 → s.runningOn p.uCluster = [] → (∀ c ∈ s.comp.cores, c.2.dmas = [] ∧ c.2.loads = []) → s.comp.addends = [] → Takes (exec .resetCluster s) 256 fun u =>
      (u.prog 256 p.at_).map (fun g => (g.work, g.outcome)) = some (.repair 9 p.uCluster, none) ∧ u.cluster p.uCluster = { s.cluster p.uCluster with svc := .resetting } ∧
      u.comp.las = s.comp.las ∧ (∀ k, clusterOf k = p.uCluster → u.comp.cores.get? k = none) ∧ u.place.shadows.get? p.uCluster = none)) ∧
  (∀ (s : State) (stack pc i : Nat), stack < 16 → pc < 64 → i = 64 * stack + pc → s.pcEmpty stack pc = true →
    (s.chip.retiring.contains (.pc stack pc) = true → s.pcsRetired stack < 16 → Answers (exec (.unitEmptied (.pc stack pc)) s) fun t => (t.pc i).st = .retired ∧
      t.chip.retiring.contains (.pc stack pc) = false ∧ t.side.attnCause.getLsbD 0 = true ∧ t.counter 15 = min (2 ^ 64 - 1) (s.counter 15 + 1) ∧
      ∀ g, s.cmd.progs = [g] → g.work = .repair 6 i → g.outcome = none → t.doneAt g.ring g.at_ [BitVec.ofNat 64 i, repairWord 6 0 0 (2 ^ 30)]) ∧
    (s.chip.retiring.contains (.pc stack pc) = false → Answers (exec (.unitEmptied (.pc stack pc)) s) fun t => (t.pc i).st = .inService ∧
      ∀ g, s.cmd.progs = [g] → g.work = .repair 5 i → g.outcome = none → (t.pc i).pprSoft = 0 ∧ t.doneAt g.ring g.at_ [BitVec.ofNat 64 i, repairWord 5 0 0 0] ∧
        ((s.pc i).pprSoft ≠ 0 → t.counter 14 = min (2 ^ 64 - 1) (s.counter 14 + (s.pc i).pprSoft)))) ∧
  (∀ (s : State) (stack : Nat), stack < 16 → s.stackEmpty stack = true → Answers (exec (.unitEmptied (.stack stack)) s) fun t => (t.stack stack).st = .retired ∧
    t.chip.retiring.contains (.stack stack) = false ∧ t.side.attnCause.getLsbD 0 = true ∧
    ∀ g, s.cmd.progs = [g] → g.work = .repair 7 stack → g.outcome = none → t.doneAt g.ring g.at_ [BitVec.ofNat 64 stack, repairWord 7 0 0 (s.stackCap stack)])

/-- A patrol of memory: PATROL counts the blocks it reads and the errors it finds; Scarab's read goes on to its next block, and an error it meets is counted, and poisons its
block when it has two symbols; so do the patrols of harbour SRAM and of the cores' memories; a refresh counts; a failed stack is poisoned and emptied. A mismatch of a
duplicated block: masked, it changes nothing but what counts it; hard, at the third on one request or the 16th within 1 s, it resets the module, retires a pair, or resets
and retires a cluster. -/
def Obligations.PatrolsAndMismatches : Prop :=
  ((∀ (s : State) (n : Nat) (p : Pkt), s.takes n p (isOp 0x0803) patrolBad → ∀ hits, hits = s.mem.errors.filter (fun e => s.patrolHits p e.1) → Takes (exec (.patrol n) s) n fun u =>
    u.doneAt n p.at_ [BitVec.ofNat 64 (s.patrolBlocks p), BitVec.ofNat 64 (hits.filter fun e => e.2 % 4 ≠ 2).length, BitVec.ofNat 64 (hits.filter fun e => e.2 % 4 = 2).length] ∧
    s.bytesSame u ∧ (hits = [] → s.only [.cmd] u)) ∧
  (∀ (s : State) (i sym : Nat), s.clocked = true → i < 16 → sym ≤ 3 → (s.stack i).st = .inService → Answers (exec (.scarabRead i sym) s) fun t => s.bytesSame t ∧
    (t.stack i).scarabAt = ((s.stack i).scarabAt + 1) % 2 ^ 30 ∧ (t.stack i).passAt = (if (s.stack i).scarabAt + 1 = 2 ^ 30 then s.now else (s.stack i).passAt) ∧
    (sym = 0 → s.mem.errors = [] → s.only [.chip] t) ∧
    (∀ key, (s.stack i).scarabAt % 2 ^ 26 * 64 < s.groupSize i ((s.stack i).scarabAt / 2 ^ 26) → s.stackKey i ((s.stack i).scarabAt / 2 ^ 26) ((s.stack i).scarabAt % 2 ^ 26 * 64) = some key →
      s.mem.errors = [] → (sym = 2 → key / 64 ∈ t.mem.poison) ∧ (sym ≠ 2 → t.mem.poison = s.mem.poison) ∧ (sym ≠ 0 → t.health.total = s.health.total + 1))) ∧
  (∀ (s : State) (i pc bank : Nat), s.clocked = true → i < 16 → pc < 64 → (s.stack i).st ≠ .retired → (s.pc (64 * i + pc)).st ≠ .retired →
    exec (.hbmRefresh i pc bank) s = .next (s.updPc (64 * i + pc) fun x => { x with refreshes := x.refreshes.put bank (x.refreshes.getD bank 0 + 1) })) ∧
  (∀ (s : State) (u : SramUnit) (b sym : Nat), s.clocked = true → sym ≤ 2 →
    (match u with
      | .harbour c => c < 24 ∧ b < 2 ^ 18 ∧ s.inService c = true ∧ (s.cluster c).sramBad.length < 15
      | .operand k => k < 408 ∧ s.enabled (clusterOf k) = true ∧ b < 2 ^ 14
      | .accumulator k => k < 408 ∧ s.enabled (clusterOf k) = true ∧ b < 8192
      | .instruction k => k < 408 ∧ s.enabled (clusterOf k) = true ∧ b < 4096) → s.mem.errors = [] →
    Answers (exec (.sramPatrolRead u b sym) s) fun t => s.bytesSame t ∧ (sym = 0 → t.health = s.health) ∧ (sym ≠ 0 → t.health.total = s.health.total + 1) ∧
      (∀ k, u = .operand k → sym = 2 → sramKey k (64 * b) / 64 ∈ t.mem.poison) ∧ (∀ k, u = .accumulator k → sym = 2 → b % 1024 ∈ ((t.coreOf k).tiles.getD (b / 1024) Tile.init).bad) ∧
      (∀ k, u = .instruction k → imemKey k (64 * b) / 64 ∉ t.mem.poison)) ∧
  -- the 16th block that a bank of a cluster's harbour SRAM poisons within a day resets the cluster by force, to be retired
  (∀ (s : State) (c b : Nat), s.clocked = true → c < 24 → b < 2 ^ 18 → s.inService c = true → (s.cluster c).svc = .inService → s.mem.errors = [] → s.noneWaiting →
    15 ≤ ((s.cluster c).sramBad.filter fun e => e.1 = b / 4 % 32 && withinDay s.now e.2).length →
    Answers (exec (.sramPatrolRead (.harbour c) b 2) s) fun t => (t.cluster c).svc = .resetting ∧ (t.cluster c).retireAfter = true) ∧
  (∀ (s : State) (i : Nat), s.clocked = true → i < 16 → (s.stack i).st = .inService → Answers (exec (.stackLinkError i false) s) fun t => (t.stack i).st = .failed ∧ (t.stack i).sysUnits = 0 ∧
    t.chip.retiring.contains (.stack i) = true ∧ t.side.attnCause.getLsbD 0 = true ∧ s.bytesSame t ∧ ∀ b ∈ s.systemBlocks i, b ∈ t.mem.poison) ∧
  (∀ (s : State) (p : Pkt), s.takes 256 p (isOp 0x0804) faultInjectBad →
    (p.f 0 7 0 ≠ 19 → Takes (exec .faultInject s) 256 fun u => s.inProgress p u ∧ s.only [.cmd, .health] u ∧ u.outcomeAt 256 p.at_ = none ∧
      u.health = { s.health with armed := s.health.armed ++ [(p.f 0 7 0, p.lo 1, (p.w 2).toNat)] }) ∧
    (p.f 0 7 0 = 19 → Takes (exec .faultInject s) 256 fun u => s.resets 9 u ∧ u.ledger.snapAt = s.now)) ∧
  (∀ (s : State) (g : Prog) (left : Nat), phOp g.hdr = 0x0804 → g.work = .none → g.outcome = none → left = ((s.health.armed.filter fun a => a.1 = g.pkt.f 0 7 0 && a.2.1 = g.pkt.lo 1).map (·.2.2)).sum →
    (left = 0 ∨ g.acceptedAt + 25000000 ≤ s.now → s.progOutcome g = some { status := 0, note := 0, detail := 0, results := [BitVec.ofNat 64 ((g.pkt.w 2).toNat - left)] }) ∧
    (left ≠ 0 → s.now < g.acceptedAt + 25000000 → s.progOutcome g = none))) ∧
  ((∀ (s : State) (c : Instr) (cls key same cause : Nat), (c, cls, key, same, cause) ∈ ([(.controlMismatch .quay same, 9, 24, same, 5), (.controlMismatch .ferry same, 10, 25, same, 6),
      (.quayMismatch false, 9, 24, 0, 5)] : List (Instr × Nat × Nat × Nat × Nat)) → s.running = true → s.health.armed = [] →
    ∀ hard, hard = (3 ≤ same ∨ 16 ≤ 1 + ((s.chip.mismatches.getD key []).filter fun t => s.now ≤ t + 25000000).length) →
    (¬ hard → Answers (exec c s) fun t => s.only [.chip, .health, .ledger, .cmd] t ∧ t.health.total = s.health.total + 1 ∧ t.counter (25 + cls) = min (2 ^ 64 - 1) (s.counter (25 + cls) + 1) ∧
      t.chip = { s.chip with mismatches := t.chip.mismatches } ∧ t.cmd = { s.cmd with jobs := t.cmd.jobs } ∧ (t.health.events.head?.map fun e => (e.cls, e.outcome)) = some (cls, 0)) ∧
    (hard → Answers (exec c s) fun t => s.resets cause t)) ∧
  (∀ (s : State) (same : Nat), s.side.v54 = true → s.side.pstate ≠ .off → s.side.fail ≠ 0x11 → s.health.armed = [] →
    ∀ hard, hard = (3 ≤ same ∨ 16 ≤ 1 + ((s.chip.mismatches.getD 26 []).filter fun t => s.now ≤ t + 25000000).length) →
    (¬ hard → Answers (exec (.cricketMismatch same) s) fun t => t.side = { s.side with cricketRestarts := s.side.cricketRestarts + 1 } ∧ t.health.total = s.health.total + 1 ∧
      s.only [.side, .chip, .health, .ledger, .cmd] t) ∧ (hard → Answers (exec (.cricketMismatch same) s) fun t => s.resets 7 t)) ∧
  (∀ (s : State) (c same : Nat), s.running = true → s.inService c = true → s.health.armed = [] → (s.cluster c).svc = .inService → s.noneWaiting →
    ∀ hard, hard = (3 ≤ same ∨ 16 ≤ 1 + ((s.chip.mismatches.getD c []).filter fun t => s.now ≤ t + 25000000).length) →
    (¬ hard → Answers (exec (.controlMismatch (.cluster c) same) s) fun t => s.only [.chip, .health, .ledger, .cmd] t ∧ (t.cluster c).svc = .inService ∧ (t.cluster c).ctlMm.length ≤ (s.cluster c).ctlMm.length + 1) ∧
    (hard → Answers (exec (.controlMismatch (.cluster c) same) s) fun t => (t.cluster c).svc = .resetting ∧ (t.cluster c).retireAfter = true ∧ t.side.attnCause.getLsbD 0 = true)) ∧
  (∀ (s : State) (c same : Nat), s.running = true → s.inService c = true → s.health.armed = [] → (s.cluster c).svc = .resetting → 3 ≤ same →
    Answers (exec (.controlMismatch (.cluster c) same) s) fun t => (t.cluster c).svc = .resetting ∧ (t.cluster c).retireAfter = true) ∧
  (∀ (s : State) (p same : Nat), s.clocked = true → p < 8 → s.chip.pairs.getLsbD p = true → s.health.armed = [] →
    ∀ hard left, hard = (3 ≤ same ∨ 16 ≤ 1 + ((s.chip.mismatches.getD (32 + p) []).filter fun t => s.now ≤ t + 25000000).length) → left = s.chip.pairs &&& ~~~(BitVec.ofNat 8 (2 ^ p)) →
    (¬ hard → Answers (exec (.harbourmasterPairMismatch p same) s) fun t => s.only [.chip, .health, .ledger, .cmd] t ∧ t.chip.pairs = s.chip.pairs ∧ t.health.noAccept = s.health.noAccept) ∧
    (hard → left ≠ 0 → Answers (exec (.harbourmasterPairMismatch p same) s) fun t => t.chip.pairs = left ∧ t.side.attnCause.getLsbD 0 = true ∧
      t.health.noAccept = (s.health.noAccept || decide (((List.range 8).filter fun i => left.getLsbD i).length < 4))) ∧
    (hard → left = 0 → Answers (exec (.harbourmasterPairMismatch p same) s) fun t => s.resets 8 t ∧ t.chip.pairs = 0)) ∧
  (∀ (s : State) (k same : Nat), s.clocked = true → s.coreServes k = true → s.health.armed = [] → ((s.coreOf k).inst = none ∨ s.replayable k = false) → s.noneWaiting →
    ∀ hard, hard = (3 ≤ same ∨ 16 ≤ 1 + ((s.chip.mismatches.getD (64 + k) []).filter fun t => s.now ≤ t + 25000000).length) →
    (¬ hard → Answers (exec (.sequencerMismatch ⟨k, same⟩) s) fun t => (t.coreHw k).testing = true ∧ (t.coreHw k).st = (s.coreHw k).st ∧
      (t.coreHw k).faults = s.now :: recent s.now (s.coreHw k).faults) ∧
    (hard → Answers (exec (.sequencerMismatch ⟨k, same⟩) s) fun t => (t.coreHw k).testing = false ∧ (t.coreHw k).st = .quarantined ∧ (t.coreHw k).reason = 4 ∧
      t.side.attnCause.getLsbD 0 = true)))

/-- Self-tests, drains and resets of clusters, replays and the watchdog. -/
def Obligations.SelfTestsAndResets : Prop :=
  (∀ (s : State) (k row col : Nat) (pass : Bool), k < 408 → (s.coreHw k).testing = true → (s.coreOf k).inst = none → s.noneWaiting → ∀ bad, bad = (!pass || decide (3 ≤ s.dayFaults (s.coreHw k).faults)) →
    Answers (exec (.coreSelfTest k pass row col) s) fun t => (t.coreHw k).testing = false ∧ (t.coreHw k).stPass = pass ∧
      (t.coreHw k).badRow = (if pass = true then 255 else row % 256) ∧ (t.coreHw k).badCol = (if pass = true then 255 else col % 256) ∧ (∀ j, j ≠ k → t.coreHw j = s.coreHw j) ∧
      (bad = false → (t.coreHw k).st = (s.coreHw k).st ∧ s.only [.chip] t) ∧
      (bad = true → (t.coreHw k).st = .quarantined ∧ (t.coreHw k).reason = (if pass = true then 2 else 1) ∧ t.side.attnCause.getLsbD 0 = true)) ∧
  (∀ (s : State) (c : Nat) (pass : Bool), c < 24 → (s.cluster c).thinTest = true → Answers (exec (.thinPathSelfTest c pass) s) fun t => (t.cluster c).thinTest = false ∧
    ((t.cluster c).thinQ = true ↔ (s.cluster c).thinQ = true ∨ pass = false ∨ 3 ≤ s.dayFaults (s.cluster c).thinFaults) ∧ (∀ d, d ≠ c → t.cluster d = s.cluster d)) ∧
  (∀ (s : State) (c t0 : Nat), (s.cluster c).svc = .draining → (s.cluster c).drainAt = some t0 → t0 + 25000000 ≤ s.now → s.runningOn c ≠ [] →
    Answers (exec (.drainTimeout c) s) fun t => (t.cluster c).svc = .resetting ∧ (t.cluster c).forced = true ∧ (t.cluster c).retireAfter = (s.cluster c).retireAfter) ∧
  (∀ (s : State) (c : Nat) (moves : List Move), (s.cluster c).svc = .resetting → s.comp.las = [] → Answers (exec (.scanReadoutComplete c moves) s) fun t => s.bytesSame t ∧ (t.cluster c).svc = .resetting ∧
    (s.sramPages c = false → t.place.berths = s.place.berths) ∧
    (∀ m i p b x, moves = [m] → s.place.berths = [(i, b)] → b.pages = [(p, x)] → m.berth = i → m.page = p → inSramOf c x.base = true → x.goal = none → inLocalHbm m.base = true → b.cls = 0 →
      s.misplaced m.base b.frames = false → s.badLocal (pageAddr m.base) = false → framesFree s.framesHeld m.base.toNat b.frames = true → gaSpace (pageAddr m.base) = 0 →
      ∃ b' x', t.place.berths.get? i = some b' ∧ b'.pages.get? p = some x' ∧ x'.base = m.base ∧ x'.held = false ∧ (x.st ≠ .lost → x'.st = .placed))) ∧
  (∀ (s : State) (c : Nat) (pass : Bool), c < 24 → (s.cluster c).svc = .draining ∨ (s.cluster c).svc = .resetting → s.runningOn c = [] → s.sramPages c = false → s.noneWaiting →
    ∀ retire, retire = ((s.cluster c).retireAfter || !pass || (decide ((s.cluster c).svc = .resetting) && (s.cluster c).manyPoisoned s.now)) →
    Answers (exec (.clusterSelfTest c pass) s) fun t => (t.cluster c).svc = (if retire = true then .retired else .inService) ∧ (t.cluster c).pow = (if retire = true then .gated else .idle) ∧
      (t.cluster c).thinQ = false ∧ (t.cluster c).retireAfter = false ∧ (t.cluster c).drainAt = none ∧ (t.cluster c).duty = 8 ∧ (∀ d, d ≠ c → t.cluster d = s.cluster d) ∧ t.side.attnCause.getLsbD 0 = true ∧
      (∀ k, clusterOf k = c → (t.coreHw k).mapped = (s.coreHw k).fuse ∧ (t.coreHw k).fusePend = false ∧ t.comp.cores.get? k = none) ∧
      (∀ g kind, s.cmd.progs = [g] → g.work = .repair kind c → (kind = 8 ∨ kind = 9) → g.outcome = none →
        t.doneAt g.ring g.at_ [BitVec.ofNat 64 c, repairWord kind (if (s.cluster c).forced = true then 3 else 0) 0 0])) ∧
  (∀ (s : State) (i k : Nat) (x : Inst), s.comp.insts.get? i = some x → x.st = .suspended → (s.paused = false ∨ s.mainLaunch x.launch = true) → k ∈ s.replayCores x →
    exec (.replayResume i k) s = .next (s.startOn i k)) ∧
  (∀ (s : State) (p : Nat), s.clocked = true → s.side.stageDone.getLsbD 2 = true → p < 8 → s.chip.pairs.getLsbD p = true → Answers (exec (.watchdogReport (.pair p)) s) fun t => s.only [.side] t ∧
    t.side.reports.get? p = some s.now ∧ t.side.romPath = false ∧ (s.side.romPath = false → ∀ i, i ≠ p → t.side.reports.get? i = s.side.reports.get? i)) ∧
  (∀ (s : State), s.clocked = true → s.side.romPath = true → exec (.watchdogReport .romPath) s = .next (s.setSide { s.side with reports := s.side.reports.put 8 s.now })) ∧
  (∀ (s : State) (p : Nat), s.clocked = true → s.side.stageDone.getLsbD 2 = true → s.side.halted = false → s.side.romPath = false → p < 8 → s.chip.pairs.getLsbD p = true →
    (s.side.reports.getD p s.now) + 1000000 ≤ s.now → Answers (exec .firmwareHang s) fun t => s.resets 2 t ∧ t.counter 7 = min (2 ^ 64 - 1) (s.counter 7 + 1))

/-! ### Audit, Ledger, calendar and firmware -/

/-- DIGEST answers the SHAKE256 of a berth's bytes, and CHECK_VALUE the running value or the check value of a scan; a poisoned block ends either with UNCORRECTABLE.
STEP_RECORD writes the job's record and closes its step; ATTEST writes the report and the certificate chain. LEDGER_READ writes whole records of a kind from START on, as
many as fit, and answers their number and the next START; CALENDAR_SET sets the calendar from now on, and records the former one. FW_STAGE holds a valid image and answers
its measurement; an image that is not valid is MALFORMED and changes nothing. FW_ACTIVATE pauses the rings and asks filler work to leave; the quiescent point writes the
staged image and starts it; a limit that passes first leaves the firmware as it was; the new firmware completes the command with both measurements. -/
def Obligations.AuditAndFirmware : Prop :=
  ((∀ (s : State) (n : Nat) (p : Pkt) (key len : Nat), key = spaceKey false (p.lo 0) (p.f 1 47 0) → len = (p.w 2).toNat → s.spanFailed (p.lo 0) (p.f 1 47 0) len = false →
    s.spanLost (p.lo 0) (p.f 1 47 0) len = false → ∀ bs, bs = (s.laSync key len).mem.read key len →
    (s.mem.clean key len = true →
      (s.takes n p (isOp 0x0A01) scanBad → Takes (exec (.digest n) s) n fun u => u.doneAt n p.at_ (wordsOf 8 (shakeBytes bs)) ∧
        ∀ a, s.offRecords key len a → cellGet u.mem.cells a = cellGet s.mem.cells a) ∧
      (s.takes n p (isOp 0x0A02) checkBad → ∀ alg run, alg = p.f 0 33 32 → run = (if p.bit 0 34 = true then p.resumed else Running.start alg).scan alg bs →
        Takes (exec (.checkValue n) s) n fun u => u.doneAt n p.at_ (if p.bit 0 35 = true then wordsOf 8 (run.final alg) else wordsOf 26 (run.bytes alg)) ∧
          ∀ a, s.offRecords key len a → cellGet u.mem.cells a = cellGet s.mem.cells a)) ∧
    (s.mem.poisoned key len = true → s.mem.errors = [] →
      (s.takes n p (isOp 0x0A01) scanBad → Takes (exec (.digest n) s) n fun u => u.outcomeAt n p.at_ = some (Outc.of 0x0401 0)) ∧
      (s.takes n p (isOp 0x0A02) checkBad → Takes (exec (.checkValue n) s) n fun u => u.outcomeAt n p.at_ = some (Outc.of 0x0401 0)))) ∧
  (∀ (alg : Nat) (as bs : List Byte), alg < 2 → ((Running.start alg).scan alg as).scan alg bs = (Running.start alg).scan alg (as ++ bs)) ∧
  (∀ (s : State) (n : Nat) (p : Pkt) (j : Job), s.takes n p (isOp 0x0A03) stepRecordBad → n < 256 → (s.accept p).cmd.jobs.get? (n / 4) = some j → s.mem.wf = true →
    (p.bit 0 32 = false → s.spanLost (p.lo 0) (p.f 1 47 0) j.recordBytes = true → Takes (exec (.stepRecord n) s) n fun u => u.outcomeAt n p.at_ = some (Outc.of 0x0404 0) ∧ s.only [.cmd] u) ∧
    ((p.bit 0 32 = false → s.spanLost (p.lo 0) (p.f 1 47 0) j.recordBytes = false) → ∀ key rec, key = spaceKey (p.bit 0 32) (p.lo 0) (p.f 1 47 0) →
      rec = (s.accept p).stepRecord (n / 4) (n % 4) (phSlot p.hdr) j → Takes (exec (.stepRecord n) s) n fun u => u.doneAt n p.at_ [j.step, BitVec.ofNat 64 j.recordBytes] ∧
        (∀ i v, rec[i]? = some v → cellGet u.mem.cells (key + i) = v) ∧
        (∀ a, (a < key ∨ key + rec.length ≤ a) → (p.bit 0 32 = false → s.offRecords key rec.length a) → cellGet u.mem.cells a = cellGet s.mem.cells a) ∧
        u.jobIs (n / 4) (fun x => x.step = j.step + 1 ∧ x.cmdLog = [] ∧ x.planLog = [] ∧ x.digLog = [] ∧ x.collLog = [] ∧ x.placeChg = 0 ∧ x.evts = 0 ∧ x.stepEnergy = 0 ∧ x.seed = j.seed) ∧
        u.exch = s.exch ∧ (∀ t ∈ u.coll.usedTags, t / 2 ^ 16 ≠ n / 4))) ∧
  (∀ (s : State) (g : Prog) (o : Outc), s.prog g.ring g.at_ = some g → phOp g.hdr = 0x0A03 → g.work = .none → s.progOutcome g = some o → o.status < 0x0100 →
    Answers (exec (.commandComplete g.ring g.at_) s) fun t => (∀ b ∈ t.exch.bindings, b.2.job = g.ring / 4 → b.2.stepTokens = 0) ∧
      ∀ k b, s.exch.bindings.get? k = some b → b.job ≠ g.ring / 4 → t.exch.bindings.get? k = some b) ∧
  (∀ (s : State) (job ring own : Nat) (j : Job), (∀ e ∈ j.collLog, e.2.2.length = 80) → (s.stepRecord job ring own j).length = j.recordBytes) ∧
  (∀ (s : State) (n : Nat) (p : Pkt), s.takes n p (isOp 0x0A04) (fun p _ => sysBad 8 (p.f 8 34 0) (p.w 9).toNat ++ mal 9 ((p.w 9).toNat < 4570)) → s.mem.wf = true → ∀ key out,
    key = sysKey (p.f 8 34 0) → out = (s.attestReport ((List.range 8).flatMap fun i => bytesOf (p.w i))) ++ s.chain.take 4096 → Takes (exec (.attest n) s) n fun u =>
      u.doneAt n p.at_ [BitVec.ofNat 64 out.length] ∧ (∀ i v, out[i]? = some v → cellGet u.mem.cells (key + i) = v) ∧
      ∀ a, (a < key ∨ key + out.length ≤ a) → cellGet u.mem.cells a = cellGet s.mem.cells a) ∧
  (∀ (s : State) (nonce : List Byte), (s.attestReport nonce).length = 474 ∧ s.attestInfo.length = 256)) ∧
  ((∀ (s : State) (p : Pkt), s.takes 256 p (isOp 0x0B01) (fun p _ => mal 0 (3 < p.f 0 3 0) ++ sysBad 2 (p.f 2 34 0) (p.w 3).toNat) → s.mem.wf = true → ∀ got key,
    got = (s.ledgerRecords (p.f 0 3 0) (p.w 1).toNat).take ((p.w 3).toNat / ledgerSize (p.f 0 3 0)) → key = sysKey (p.f 2 34 0) → Takes (exec .ledgerRead s) 256 fun u =>
      u.doneAt 256 p.at_ [BitVec.ofNat 64 got.length, BitVec.ofNat 64 ((got.getLast?.map (·.1)).getD (p.w 1).toNat)] ∧ u.ledger = s.ledger ∧
      (∀ i v, (got.flatMap (·.2))[i]? = some v → cellGet u.mem.cells (key + i) = v) ∧
      ∀ a, (a < key ∨ key + (p.w 3).toNat ≤ a) → cellGet u.mem.cells a = cellGet s.mem.cells a) ∧
  (∀ (s : State) (kind start : Nat), kind ≤ 3 → (∀ e ∈ s.ledgerRecords kind start, e.2.length = ledgerSize kind) ∧
    (kind = 0 → (s.ledgerRecords 0 start).length = 1 - start) ∧ (kind = 2 → (s.ledgerRecords 2 start).length = (s.ledger.perm.filter fun e => start ≤ e.seq).length)) ∧
  (∀ (s : State) (p : Pkt), s.takes 256 p (isOp 0x0B02) (fun p _ => mal 0 (p.w 0 = 0)) → Takes (exec .calendarSet s) 256 fun u => s.completes p [] u ∧ s.only [.cmd, .clk, .ledger] u ∧
    u.clk = { s.clk with calendar := some ((p.w 0).toNat, s.now) } ∧ u.calendarNow = (p.w 0).toNat ∧
    ∃ x, u.ledger.waiting = s.ledger.waiting ++ [x] ∧ x.typ = 12 ∧ x.data.take 8 = leBytes 8 s.calendarNow)) ∧
  ((∀ (s : State) (p : Pkt), s.takes 256 p (isOp 0x0B03) (fun p _ => sysBad 0 (p.f 0 34 0) (p.w 1).toNat ++ mal 1 (2 ^ 26 < (p.w 1).toNat)) →
    s.mem.clean (sysKey (p.f 0 34 0)) (p.w 1).toNat = true → ∀ im, im = s.mem.read (sysKey (p.f 0 34 0)) (p.w 1).toNat → Takes (exec .fwStage s) 256 fun u => s.only [.cmd] u ∧
      (imageValid im = true → u.cmd.staged = some (im.take (256 + imageLength im)) ∧ u.doneAt 256 p.at_ (wordsOf 8 (bytesOf (imageMeas im)))) ∧
      (imageValid im = false → u.cmd.staged = s.cmd.staged ∧ u.outcomeAt 256 p.at_ = some (Outc.of 0x0301 (detailWord 0x24 0)))) ∧
  (∀ (s : State) (p : Pkt), s.takes 256 p (isOp 0x0B04) (fun p s => mal 0 (p.f 0 15 0 = 0 || 60000 < p.f 0 15 0) ++ refuseIf s.cmd.staged.isNone stMalformed 0) →
    Takes (exec .fwActivate s) 256 fun u => s.only [.cmd, .comp] u ∧
      (u.prog 256 p.at_).map (fun g => (g.work, g.outcome)) = some (.firmware (s.now + 25000 * p.f 0 15 0) s.side.fwMeas, none) ∧
      (∀ m, (u.ring m).st = if (s.ring m).st = .closed then .closed else .paused) ∧ u.cmd.staged = s.cmd.staged ∧
      ∀ c < 24, s.runsKind c true = true → ∀ e ∈ s.runningOn c, (u.coreOf e.1).leave ≠ none) ∧
  (∀ (s : State) (g : Prog) (lim : Nat) (old : BitVec 512) (im : List Byte), s.activation = some (g, lim, old) → s.cmd.staged = some im → s.running = true → s.cmd.starting = false →
    s.now < lim → s.cmd.progs.all s.letsActivate = true → Answers (exec .fwQuiescent s) fun t => s.only [.side, .cmd, .ledger] t ∧ t.cmd = { s.cmd with starting := true } ∧
      t.side = { s.side with fwImage := im, fwMeas := imageMeas im, romPath := true, reports := t.side.reports } ∧ t.side.reports.get? 8 = some s.now ∧ t.side.reports.get? 9 = some s.now ∧
      t.counter 16 = min (2 ^ 64 - 1) (s.counter 16 + 1) ∧
      (s.ledger.perm.length < 5461 → ∃ x, t.ledger.perm = s.ledger.perm ++ [x] ∧ x.typ = 6 ∧ x.measA = old ∧ x.measB = imageMeas im)) ∧
  (∀ (s : State) (g : Prog) (lim : Nat) (old : BitVec 512), s.activation = some (g, lim, old) → s.prog g.ring g.at_ = some g → s.cmd.starting = false → lim ≤ s.now → s.noneWaiting →
    Answers (exec .fwActivateTimeout s) fun t => t.outcomeAt g.ring g.at_ = some (Outc.of 0x0403 0) ∧ t.side = s.side ∧ t.cmd.staged = s.cmd.staged ∧ (∀ m, (t.ring m).st ≠ .paused) ∧ s.only [.cmd] t) ∧
  (∀ (s : State) (g : Prog) (lim : Nat) (old : BitVec 512), s.activation = some (g, lim, old) → s.prog g.ring g.at_ = some g → s.cmd.starting = true → s.now < s.side.reports.getD 9 s.now + 7500000 →
    s.noneWaiting → Answers (exec .firmwareResume s) fun t => t.doneAt g.ring g.at_ (wordsOf 8 (bytesOf old) ++ wordsOf 8 (bytesOf s.side.fwMeas)) ∧ t.cmd.starting = false ∧
      (∀ m, (t.ring m).st ≠ .paused) ∧ t.side = s.side ∧ s.only [.cmd] t))

/-! ### Pins and start-up -/

/-- 54 V: good, the counter starts at 0, the straps are sampled and the module stands in STANDBY before stage 1; lost, only flash and fuses keep their contents, and the
counts since the last snapshot go. PWR_EN and RESET_N: an enable starts the module, leaves a halt, or is held behind a shut-down; a tripped module is enabled only after a
deassertion and once it is cool; a disable begins an orderly shut-down, or abandons a start-up; while RESET_N is asserted a change of PWR_EN waits for its release. -/
def Obligations.SupplyAndPins : Prop :=
  ((∀ (s : State) (slot kr : BitVec 4), s.side.v54 = false → Answers (exec (.powerGood slot kr) s) fun t => s.only [.clk, .side] t ∧ t.now = 0 ∧ t.clk.calendar = none ∧ t.side.v54 = true ∧
    t.side.pstate = .standby ∧ t.side.slot = slot ∧ t.side.ethKr = kr ∧ t.side.stageDone = 0 ∧ t.side.attnCause = 0 ∧ t.side.attnMask = 0x7F#32 ∧ t.side.pwrPin = s.side.pwrPin ∧
    t.side.resetN = s.side.resetN ∧ t.side.pwrEn = (s.side.pwrPin && !s.side.resetN) ∧ t.side.fwImage = s.side.fwImage ∧ t.side.mac = s.side.mac ∧ t.side.resetCause = 0 ∧ t.side.rejected = false) ∧
  (∀ (s : State), s.side.v54 = true → Answers (exec .powerLost s) fun t => t.side.v54 = false ∧ t.side.pstate = .off ∧ t.attnN = false ∧ t.clk = Clk.init ∧ t.comp = Comp.init ∧
    t.place = Place.init ∧ t.cmd = Cmd.init ∧ t.quay = Quay.init ∧ t.exch = Exch.init ∧ t.coll = Colls.init ∧ t.health = Health.init ∧
    t.net = { Net.init with plan := s.net.plan, farPort := s.net.farPort, farShare := s.net.farShare } ∧ t.mem.poison = [] ∧ t.mem.errors = [] ∧
    (s.mem.wf = true → ∀ a, cellGet t.mem.cells a = if flashKey 0 ≤ a ∧ a < flashKey (2 ^ 48) then cellGet s.mem.cells a else 0) ∧
    (s.cmd.starting = false → t.side.fwImage = s.side.fwImage) ∧ t.ledger.waiting = [] ∧ t.ledger.perm = s.ledger.perm ∧ t.ledger.ord = s.ledger.ord ∧ t.ledger.inc = s.ledger.inc ∧
    t.counter 0 = s.ledger.snap.getD 0 0 ∧ t.counter 5 = s.ledger.snap.getD 5 0 ∧ t.chip.enMask = s.chip.enMask ∧ t.chip.fp = s.chip.fp ∧ t.wire = Wire.init ∧ t.pending = s.pending ∧ t.out = s.out) ∧
  (∀ (s : State), s.side.v54 = true → s.side.supplyHeld = true → s.side.tripAt + 2500000 ≤ s.now → Answers (exec .tripRecovery s) fun t => t.side.supplyHeld = false ∧
    s.only [.side, .ledger] t ∧ (s.side.pstate = .standby → s.side.pwrEn = true → s.side.resetN = false → s.side.shutting = false → s.side.stageDone.getLsbD 1 = true →
      t.side.pstate = .starting ∧ t.side.startAt = s.now))) ∧
  ((∀ (s : State), s.side.pwrPin = false →
    ((s.side.v54 = false ∨ s.side.resetN = true) → s.side.pstate ≠ .tripped → exec .pwrEnAssert s = .next (s.setSide { s.side with pwrPin := true })) ∧
    (s.side.v54 = true → s.side.resetN = false →
      (s.side.shutting = true → s.side.pstate ≠ .tripped → exec .pwrEnAssert s = .next (s.setSide { s.side with pwrPin := true, pwrEn := true, heldOn := true })) ∧
      (s.side.shutting = false → s.side.pstate = .standby → s.side.halted = false → s.side.supplyHeld = false → s.side.stageDone.getLsbD 1 = true →
        Answers (exec .pwrEnAssert s) fun t => t.side.pstate = .starting ∧ t.side.startAt = s.now ∧ t.side.stageDone = 2 ∧ t.side.pwrEn = true ∧
          t.counter 2 = min (2 ^ 64 - 1) (s.counter 2 + 1) ∧ s.only [.side, .ledger] t) ∧
      (s.side.shutting = false → s.side.pstate = .starting → s.side.halted = true → s.side.fail = 0x11 → Answers (exec .pwrEnAssert s) fun t => t.side.halted = false ∧ t.side.stageDone = 0 ∧
        t.side.stage1Latch = false ∧ t.side.pstate = .standby ∧ s.only [.side] t) ∧
      (s.side.shutting = false → s.side.pstate = .tripped → Answers (exec .pwrEnAssert s) fun t => t.side.pwrEn = true ∧ t.side.tripLow = false ∧
        (t.side.thermTrip = true → s.side.tripLow = true → t.side.cool = false) ∧ (s.side.tripLow = false ∨ t.side.cool = false → t.side.pstate = .tripped) ∧
        (s.side.tripLow = true → t.side.cool = true → t.side.thermTrip = false ∧ t.side.pstate ≠ .tripped)))) ∧
  (∀ (s : State), s.side.pwrPin = true →
    ((s.side.v54 = false ∨ s.side.resetN = true) → exec .pwrEnDeassert s = .next (s.setSide { s.side with pwrPin := false })) ∧
    (s.side.v54 = true → s.side.resetN = false →
      (s.side.shutting = true → exec .pwrEnDeassert s = .next (s.setSide { s.side with pwrPin := false, pwrEn := false, heldOn := false })) ∧
      (s.side.shutting = false → s.side.pstate = .idle ∨ s.side.pstate = .active → Answers (exec .pwrEnDeassert s) fun t => s.only [.side, .health] t ∧
        t.side = { s.side with pwrPin := false, pwrEn := false, pg := false, shutting := true } ∧ t.health = { s.health with noAccept := true }) ∧
      (s.side.shutting = false → s.side.pstate = .starting → s.side.halted = true → exec .pwrEnDeassert s = .next (s.setSide { s.side with pwrPin := false, pwrEn := false, pstate := .standby })) ∧
      (s.side.shutting = false → s.side.pstate = .starting → s.side.halted = false → Answers (exec .pwrEnDeassert s) fun t => s.resets 10 t ∧ t.side.pwrEn = false ∧ t.side.pstate = .standby ∧
        t.ledger.snapAt = s.now) ∧
      (s.side.shutting = false → s.side.pstate = .tripped → exec .pwrEnDeassert s = .next (s.setSide { s.side with pwrPin := false, pwrEn := false, tripLow := true })))) ∧
  (∀ (s : State), s.side.resetN = true → s.side.v54 = true → Answers (exec .resetNRelease s) fun t => t.side.resetN = false ∧ t.side.pwrEn = s.side.pwrPin ∧
    (s.side.pwrPin = true → s.side.pstate = .standby → s.side.halted = false → s.side.supplyHeld = false → s.side.shutting = false → s.side.stageDone.getLsbD 1 = true →
      t.side.pstate = .starting ∧ t.side.startAt = s.now) ∧ (s.side.pwrPin = false → s.side.pwrEn = false → t.side = { s.side with resetN := false })))

/-- Stages 1 to 4: each, when it is due, completes or halts the module with its fail code, and latches the cause that the code has; stage 2 measures the flash image, leads to
recovery mode when it is not valid, and advances the incarnation when it is; stage 3 retires failed stacks, commits soft repairs and lays the system region out. Stage 5
quarantines cores of bad fuse words or failed self-tests, and thin paths, and retires clusters; stage 6 trains every port but an unused spare one and completes when each
has its outcome; stage 7 loads, measures and starts the operating system; READY makes the module ready after stages 5 and 6. -/
def Obligations.StartUp : Prop :=
  ((∀ (s : State), s.side.v54 = true → s.side.stageDone.getLsbD 1 = false → s.side.halted = false →
    Answers (exec (.stageCricket true) s) (fun t => t.side.stageDone.getLsbD 1 = true ∧ (s.side.pstate = .standby → s.side.pwrEn = true → s.side.resetN = false → s.side.supplyHeld = false →
      s.side.shutting = false → t.side.pstate = .starting ∧ t.side.startAt = s.now) ∧ s.only [.side, .ledger] t) ∧
    Answers (exec (.stageCricket false) s) fun t => t.side.halted = true ∧ t.side.fail = 0x11 ∧ t.side.stage1Latch = true ∧ t.attnN = true ∧ t.side.stageDone = s.side.stageDone ∧ s.only [.side] t) ∧
  (∀ (s : State) (fuseOk : Bool) (pairs : List Bool) (trim : Nat), s.stageDue 1 2 = true → trim % 5 = 0 → trim ≤ 60 → Answers (exec (.stagePierFirmware fuseOk pairs trim) s) fun t =>
    (fuseOk = false → t.side.halted = true ∧ t.side.fail = 0x21 ∧ t.side.attnCause.getLsbD 2 = true ∧ t.chip = s.chip ∧ t.health.total = s.health.total + 1) ∧
    (fuseOk = true → t.chip.pierTrim = max s.chip.pierTrim trim ∧ t.side.fwMeas = imageMeas s.side.fwImage) ∧
    (fuseOk = true → imageValid s.side.fwImage = false → t.side.pstate = .recovery ∧ t.side.attnCause.getLsbD 2 = true ∧ t.side.lstate = 0 ∧ t.ledger = s.ledger) ∧
    (fuseOk = true → imageValid s.side.fwImage = true → t.ledger.inc = s.ledger.inc + 1 ∧ (∀ i < 8, t.chip.pairs.getLsbD i = (s.chip.pairs.getLsbD i && pairs.getD i true)) ∧
      (∀ ps, ps = ((List.range 8).filter fun i => t.chip.pairs.getLsbD i).length →
        (ps < 4 → t.side.halted = true ∧ t.side.fail = 0x23 ∧ t.side.attnCause.getLsbD 2 = true) ∧
        (4 ≤ ps → t.side.stageDone = s.side.stageDone ||| 4 ∧ t.side.halted = false ∧ (t.chip.pairs ≠ s.chip.pairs → t.side.retiredAny = true))))) ∧
  (∀ (s : State) (failed : List Nat), s.stageDue 2 3 = true → Answers (exec (.stageHbm failed) s) fun t => s.only [.side, .chip, .ledger] t ∧
    (∀ i < 16, (t.stack i).st = if i ∈ failed then .retired else (s.stack i).st) ∧ (s.side.attnCause.getLsbD 0 = true ∨ (∃ i < 16, i ∈ failed ∧ (s.stack i).st ≠ .retired) → t.side.attnCause.getLsbD 0 = true) ∧
    (∀ none_ : Prop, none_ = (∃ d < 2, ∀ i < 8, (t.stack (8 * d + i)).st ≠ .inService ∧ (t.stack (8 * d + i)).st ≠ .retiring) →
      (none_ → t.side.halted = true ∧ t.side.fail = 0x31 ∧ t.side.attnCause.getLsbD 0 = true) ∧
      (¬ none_ → t.side.stageDone = s.side.stageDone ||| 8 ∧ t.side.halted = false ∧ (∀ i, (t.pc i).pprSoft = 0) ∧
        ((∃ i < 16, (t.stack i).st = .inService) → ((List.range 16).map fun i => (t.stack i).sysUnits).sum = 131072)))) ∧
  (∀ (s : State), s.stageDue 3 4 = true → exec (.stageDieLinks true) s = .next (s.setSide { s.side with stageDone := s.side.stageDone ||| 16 }) ∧
    Answers (exec (.stageDieLinks false) s) fun t => t.side.halted = true ∧ t.side.fail = 0x41 ∧ t.side.attnCause.getLsbD 0 = true ∧ t.side.stageDone = s.side.stageDone ∧ s.only [.side] t)) ∧
  ((∀ (s : State) (badC badT badK : List Nat), s.stageDue 4 5 = true → Answers (exec (.stageClusters badC badT badK) s) fun t =>
    (∀ k < 408, s.testable k = true → (fuseBad (s.coreHw k).fuse = true → (t.coreHw k).st = .quarantined ∧ (t.coreHw k).reason = 3) ∧
      (fuseBad (s.coreHw k).fuse = false → k ∈ badC → (t.coreHw k).st = .quarantined ∧ (t.coreHw k).reason = 1) ∧
      (fuseBad (s.coreHw k).fuse = false → k ∉ badC → (t.coreHw k).st = (s.coreHw k).st ∧ (t.coreHw k).stPass = true ∧ (t.coreHw k).mapped = (s.coreHw k).fuse ∧ (t.coreHw k).fusePend = false)) ∧
    (∀ k < 408, s.testable k = false → t.coreHw k = if fuseBad (s.coreHw k).fuse = true then { s.coreHw k with reason := 3 } else s.coreHw k) ∧
    (∀ c < 24, s.inService c = true → ((t.cluster c).thinQ = true ↔ (s.cluster c).thinQ = true ∨ c ∈ badT) ∧ (t.cluster c).svc = (if c ∈ badK then .retired else (s.cluster c).svc)) ∧
    (∀ c < 24, s.inService c = false → (t.cluster c).svc = (s.cluster c).svc) ∧
    (∀ none_ : Prop, none_ = (∃ d < 2, ∀ c ∈ t.clustersIn, dieOf c ≠ d) → (none_ → t.side.halted = true ∧ t.side.fail = 0x51 ∧ t.side.attnCause.getLsbD 0 = true) ∧
      (¬ none_ → t.side.stageDone.getLsbD 5 = true ∧ t.side.halted = false))) ∧
  (∀ (s : State), s.stageDue 5 6 = true →
    (s.net.ports = [] → Answers (exec .stageFabric s) fun t => s.only [.net] t ∧ ∀ p < 36, s.untrained p = false → (t.port p).training = some s.now ∧ (t.port p).width = .down) ∧
    (s.net.ports ≠ [] → s.net.ports.all (fun p => p.2.training.isNone && (p.2.width = .down || p.2.checked)) = true → Answers (exec .stageFabric s) fun t => t.side.stageDone.getLsbD 6 = true)) ∧
  (∀ (s : State), s.stageDue 4 7 = true → s.side.harts.getLsbD 0 = false → s.mem.wf = true →
    (s.bootHeader = none → Answers (exec .stageOperatingSystem s) fun t => t.side.halted = true ∧ t.side.fail = 0x71 ∧ t.side.attnCause.getLsbD 2 = true ∧ s.only [.side] t) ∧
    (∀ len entry im desc, s.bootHeader = some (len, entry) → im = s.mem.read (flashKey 0x04510000) (64 + len) → desc = (s.setSide { s.side with osMeas := shake im }).description →
      Answers (exec .stageOperatingSystem s) fun t => s.only [.side, .mem] t ∧ t.side.harts = 1 ∧ t.side.osMeas = shake im ∧
        t.side.hartEntry = [(0, Config.systemPa + BitVec.ofNat 64 (0x200000 + 64 + entry))] ∧ (∀ i v, im[i]? = some v → cellGet t.mem.cells (sysKey (0x200000 + i)) = v) ∧
        (∀ i v, desc[i]? = some v → cellGet t.mem.cells (sysKey i) = v) ∧ desc.length = 448 ∧
        ∀ a, (a < sysKey 0 ∨ sysKey 448 ≤ a) → (a < sysKey 0x200000 ∨ sysKey (0x200000 + 64 + len) ≤ a) → cellGet t.mem.cells a = cellGet s.mem.cells a)) ∧
  (∀ (s : State) (w : BitVec 64), s.osRuns = true → w.getLsbD 0 = true → s.side.ready = false →
    ((s.side.stageDone.getLsbD 5 = false ∨ s.side.stageDone.getLsbD 6 = false) → exec (.ready w) s = .next (s.setSide { s.side with readyHeld := true })) ∧
    (s.side.stageDone.getLsbD 5 = true → s.side.stageDone.getLsbD 6 = true → s.side.pstate = .starting → s.side.halted = false → Answers (exec (.ready w) s) fun t => t.side.ready = true ∧
      t.side.pg = true ∧ t.side.stageDone.getLsbD 7 = true ∧ t.side.datagram = s.cricketAddr.isSome ∧ t.side.wdStarts = 0 ∧
      t.side.pstate = (if (s.clustersIn.any fun c => (s.cluster c).pow != .gated) = true then .active else .idle) ∧ s.only [.side, .out] t ∧
      (s.cricketAddr = none → t.out = s.out ∧ t.wire = s.wire) ∧
      -- the ready datagram leaves from an address that Cricket uses, through its own transmit queue
      (∀ a, s.cricketAddr = some a → s.cricketUses a = true ∧ t.out = .cricket a 48612 t.window :: s.out ∧
        t.wire = { s.wire with cricketTx := s.wire.cricketTx ++ [t.cricketFrame a allNodesMac allNodes 48612 48612 t.window] }))) ∧
  (∀ (s : State) (hart : Nat) (entry : BitVec 64), s.osRuns = true → hart < 32 → s.side.harts.getLsbD hart = false →
    Answers (exec (.hartStart hart entry) s) fun t => s.only [.side] t ∧ t.side.hartEntry.get? hart = some entry ∧ t.side.harts.getLsbD hart = true ∧
      (∀ i, i ≠ hart → t.side.harts.getLsbD i = s.side.harts.getLsbD i ∧ t.side.hartEntry.get? i = s.side.hartEntry.get? i) ∧ t.side = { s.side with harts := t.side.harts, hartEntry := t.side.hartEntry }) ∧
  (∀ (s : State) (ofs : Nat) (bytes : List Byte), s.osRuns = true → ofs + bytes.length ≤ 2 ^ 28 → s.mem.wf = true → Answers (exec (.bootAreaWrite ofs bytes) s) fun t => s.only [.mem] t ∧
    (∀ i v, bytes[i]? = some v → cellGet t.mem.cells (flashKey (0x04510000 + ofs) + i) = v) ∧
    ∀ a, (a < flashKey (0x04510000 + ofs) ∨ flashKey (0x04510000 + ofs) + bytes.length ≤ a) → cellGet t.mem.cells a = cellGet s.mem.cells a))

/-! ### Windows and far endpoints -/

/-- PEER_WINDOW's six forms: a window is created, changed with its pages kept, revoked or read, its entry goes to each present source, and the frame table shows its berth's
pages; a far endpoint is added, not yet present, or removed. CABLE_PLAN keeps its plan, and trains every port that it changes or that is down; LINK_STATUS answers the
status words of the ports it names, clears their retry counts or retrains them. -/
def Obligations.WindowsAndPlan : Prop :=
  ((∀ (s : State) (n own i : Nat) (p : Pkt) (c : Instr) (w : Window), i = p.window → s.ownIndex = some own →
    (c = .windowGrant n ∧ s.takes n p (isWindow 0) (fun p s => windowBad false p s ++ mal 0 ((s.net.windows.get? p.window).any fun w => w.job = p.job) ++ windowEntryBad p s) ∧
        w = Window.ofEntry p.entry p.job 0) ∨
      (c = .windowChange n ∧ s.takes n p (isWindow 1) (fun p s => windowBad true p s ++ windowEntryBad p s) ∧
        w = Window.ofEntry p.entry p.job (((s.net.windows.get? i).map (·.used)).getD 0)) →
    (w.farEp.any s.farPresent = false → Takes (exec c s) n fun u => u.net.windows = s.net.windows.put i w ∧ u.doneAt n p.at_ (entryWords w.bits) ∧
      s.only [.cmd, .net, .out, .free] u ∧ (∀ m ∈ w.modules, s.peerPresent m = true → ∃ x ∈ u.net.unacked, x.dst = m ∧ x.msg = some (.grant m i w.bits) ∧ x.cmd = some (n, p.at_)) ∧
      (∀ b pg x, s.berthAt w.berth = some b → (∀ v ∈ s.net.windows, v.1 ≠ i → handleIndex v.2.berth ≠ handleIndex w.berth) → b.pages.get? pg = some x → ∀ j < pageSize b.cls / 2 ^ 18,
        u.net.frames.get? (x.base.toNat + j) = some i)) ∧
    (w.farEp.any s.farPresent = true → (s.farFree = none → Takes (exec c s) n fun u => u.outcomeAt n p.at_ = some (Outc.of 0x0204 (detailWord 0x10 s.farInUse)) ∧ s.only [.cmd] u) ∧
      (s.farFree ≠ none → (∀ v : State, v.quay = s.quay → ∀ step, (v.quayTake (n / 4 * 16 + 4) Config.farWindow [] step).1.status = 0) →
        Takes (exec c s) n fun u => u.net.windows = s.net.windows.put i w ∧ u.doneAt n p.at_ (entryWords w.bits)))) ∧
  (∀ (s : State) (n own : Nat) (p : Pkt) (w : Window), s.ownIndex = some own →
    s.takes n p (isWindow 2) (fun p s => windowBad true p s ++ entryZero p ++ mal 0 ((s.net.windows.get? p.window).any fun w => w.used != 0)) → s.net.windows.get? p.window = some w →
    (w.farEp.any s.farPresent = false ∨ (s.farFree ≠ none ∧ ∀ v : State, v.quay = s.quay → ∀ step, (v.quayTake (n / 4 * 16 + 4) Config.farWindow [] step).1.status = 0)) →
    Takes (exec (.windowRevoke n) s) n fun u => u.net.windows = s.net.windows.drop p.window ∧
      u.doneAt n p.at_ (entryWords (noValid 40 w.bits)) ∧ (∀ f, u.net.frames.get? f ≠ some p.window) ∧
      (∀ m ∈ w.modules, s.peerPresent m = true → ∃ x ∈ u.net.unacked, x.dst = m ∧ x.msg = some (.grant m p.window (noValid 40 w.bits)))) ∧
  (∀ (s : State) (n : Nat) (p : Pkt), s.takes n p (isWindow 3) (fun p s => windowBad false p s ++ entryZero p) →
    Takes (exec (.windowRead n) s) n fun u => s.completes p (entryWords (((s.net.windows.get? p.window).map Window.bits).getD 0)) u ∧ s.only [.cmd] u) ∧
  (∀ (e : BitVec 256) (job used : Nat), job < 64 → used < 2 ^ 24 → e.toNat &&& maskOf [(55, 50), (40, 32), (24, 0)] = 0 → (e.getLsbD 41 = false → bitsOf e.toNat 49 42 = 0) →
    (Window.ofEntry e job used).bits = e ||| BitVec.ofNat 256 (job * 2 ^ 50 + 2 ^ 40 + used)) ∧
  (∀ (s : State) (n : Nat) (p : Pkt), s.takes n p (isWindow 4) addFarBad → Takes (exec (.addFarEndpoint n) s) n fun u => s.only [.cmd, .net] u ∧
    u.net = { s.net with farEps := s.net.farEps.put p.farEp (FarEp.ofEntry p.entry s.now) } ∧ u.farPresent p.farEp = false ∧
    u.doneAt n p.at_ (entryWords (p.entry ||| 512#256))) ∧
  (∀ (s : State) (n : Nat) (p : Pkt) (e : FarEp), s.takes n p (isWindow 5) (fun p s => mal 0 (!s.net.farEps.has p.farEp || s.farHolds p.farEp) ++ entryZero p) → s.net.farEps.get? p.farEp = some e →
    Takes (exec (.removeFarEndpoint n) s) n fun u => s.only [.cmd, .net] u ∧ u.net = { s.net with farEps := s.net.farEps.drop p.farEp } ∧ u.net.farEps.get? p.farEp = none ∧
      u.doneAt n p.at_ (entryWords (noValid 9 e.bits)))) ∧
  ((∀ (s : State) (p : Pkt), s.takes 256 p (isOp 0x0901) (fun _ _ => []) → Takes (exec .cablePlan s) 256 fun u => s.only [.cmd, .net, .ledger, .side] u ∧ u.doneAt 256 p.at_ [] ∧
    u.net = { s.net with plan := some p.plan, ports := u.net.ports } ∧
    ∀ i < 36, ∀ changed spare : Prop, changed = ((∀ o, s.net.plan = some o → o.own ≠ p.plan.own ∨ o.direct ≠ p.plan.direct) ∨ s.portPlan i ≠ p.plan.ports.get? i ∨ (s.port i).shut = true ∨
        (s.port i).shutting = true ∨ (s.port i).width = .down) → spare = (p.plan.direct = true ∧ i = 35 ∧ p.plan.ports.get? 35 = none) →
      (changed → ¬ spare → (s.port i).shutting = false → (u.port i).training = some s.now ∧ (u.port i).width = .down ∧ (u.port i).shut = false ∧ (u.port i).checked = false) ∧
      (changed → ¬ spare → (s.port i).shutting = true → (u.port i).held = true) ∧ (¬ changed → ¬ spare → u.port i = s.port i) ∧
      (spare → (u.port i).width = .down ∧ (u.port i).training = none)) ∧
  (∀ (s : State) (n : Nat) (p : Pkt), s.takes n p (isOp 0x0902) (fun p _ => mal 0 (p.bit 0 37 && !p.admin)) → Takes (exec (.linkStatus n) s) n fun u =>
    (∃ v : State, u.doneAt n p.at_ (p.ports.flatMap (fun i => [v.portStatus i, (s.port i).farFp]) ++
        (if p.bit 0 38 = true then (List.range 3).map fun e => BitVec.ofNat 64 (s.net.eth.getD e EthPort.init).drops else [])) ∧
      s.only [.net, .free] v ∧ v.net = { s.net with ports := v.net.ports } ∧
      (∀ i ∈ p.ports, (s.port i).fecCorr ≤ 65535 → (s.port i).fecCorr ≤ (v.port i).fecCorr ∧ v.port i = { s.port i with fecCorr := (v.port i).fecCorr }) ∧
      (p.bit 0 36 = false → p.bit 0 37 = false → ∀ i ∈ p.ports, u.port i = v.port i) ∧
      (p.bit 0 36 = true → p.bit 0 37 = false → ∀ i ∈ p.ports, u.port i = { v.port i with retries := 0 })) ∧
    s.only [.cmd, .net, .free, .ledger] u ∧ (p.bit 0 37 = false → u.ledger = s.ledger) ∧ u.net = { s.net with ports := u.net.ports } ∧
    (∀ i, i ∉ p.ports → u.port i = s.port i) ∧ (p.bit 0 36 = true → ∀ i ∈ p.ports, (u.port i).retries = 0) ∧
    -- the spare port that the plan names no peer for stays untrained
    (p.bit 0 37 = true → ∀ i ∈ p.ports, s.untrained i = true → (u.port i).training = (s.port i).training ∧ (u.port i).width = (s.port i).width) ∧
    (p.bit 0 37 = true → ∀ i ∈ p.ports, s.untrained i = false → (u.port i).failed = 0 ∧ ((s.port i).shutting = false → (u.port i).training = some s.now ∧ (u.port i).width = .down))) ∧
  (∀ (s : State) (i : Nat), ∀ w, w = s.portStatus i → w.extractLsb' 61 3 = BitVec.ofNat 3 (s.port i).cable.code ∧ w.extractLsb' 59 2 = BitVec.ofNat 2 (s.port i).width.code ∧
    w.extractLsb' 55 4 = (s.port i).lanes ∧ w.getLsbD 54 = s.inUse i ∧ w.extractLsb' 40 8 = BitVec.ofNat 8 (s.port i).peerPort ∧ w.extractLsb' 24 16 = BitVec.ofNat 16 (min (s.port i).retries 65535) ∧
    w.extractLsb' 8 16 = BitVec.ofNat 16 (min (s.port i).fecCorr 65535) ∧ w.extractLsb' 0 8 = BitVec.ofNat 8 (s.port i).peerIndex))

/-! ### Links -/

/-- Link retry: a flit of bad CRC is answered with NAK and takes no effect; a good one in sequence is taken once and acknowledged; a repeated one is acknowledged again; after
a gap everything waits for the resend. An acknowledgement removes what it covers, a NAK or 2 µs of silence resends the rest in its order, and the eighth failed send
retrains the port. A signal flit leaves ahead of every other class, but no more than one in 8 flits while another class waits. Lanes, training and the cabling check: a
port runs at x4 or x2, never at three lanes; training ends with the exchange of fingerprints, whose outcome the port takes and which, other than MATCH, raises the cabling
cause; a port without a peer goes down. -/
def Obligations.LinksAndLanes : Prop :=
  ((∀ (s : State) (p : Nat) (f : Flit) (x : Port), s.clocked = true → p < 36 → x = s.port p → x.up = true → f.payload.length = 244 → s.health.armed = [] →
    (f.crc ≠ flitSum f → Answers (exec (.flitReceive p f) s) fun t => (t.port p).rxSeq = x.rxSeq ∧ (t.port p).naking = true ∧ t.health.total = s.health.total + 1 ∧ (t.port p).replay = x.replay ∧
      s.only [.net, .health, .ledger, .cmd, .out, .free] t ∧ ∃ g, t.out = .flit p g :: s.out ∧ g.hdr.getLsbD 38 = true ∧ flitAck g = x.rxSeq ∧ g.crc = flitSum g) ∧
    (f.crc = flitSum f → flitKind f = 1 ∨ flitKind f = 2 → s.inUse p = false → exec (.flitReceive p f) s = .next s) ∧
    (f.crc = flitSum f → flitKind f = 1 ∨ flitKind f = 2 → s.inUse p = true →
      (flitSeq f = x.rxSeq + 1 → Answers (exec (.flitReceive p f) s) fun t => (t.port p).rxSeq = flitSeq f ∧ (t.port p).naking = false ∧ s.only [.net, .out, .free, .ledger] t ∧
        ∃ g r, t.out = .flit p g :: r ∧ g.hdr.getLsbD 38 = false ∧ flitAck g = flitSeq f ∧ g.crc = flitSum g) ∧
      (flitSeq f ≠ x.rxSeq + 1 → x.naking = true → exec (.flitReceive p f) s = .next s) ∧
      (flitSeq f ≠ x.rxSeq + 1 → x.naking = false → (x.rxSeq - flitSeq f).toNat < 2048 → Answers (exec (.flitReceive p f) s) fun t => (t.port p).rxSeq = x.rxSeq ∧ (t.port p).naking = false ∧
        (x.queue = [] → (t.port p).credits = x.credits) ∧ ∃ g r, t.out = .flit p g :: r ∧ g.hdr.getLsbD 38 = false ∧ flitAck g = x.rxSeq) ∧
      (flitSeq f ≠ x.rxSeq + 1 → x.naking = false → 2048 ≤ (x.rxSeq - flitSeq f).toNat → Answers (exec (.flitReceive p f) s) fun t => (t.port p).rxSeq = x.rxSeq ∧ (t.port p).naking = true ∧
        ∃ g, t.out = .flit p g :: s.out ∧ g.hdr.getLsbD 38 = true ∧ flitAck g = x.rxSeq)) ∧
    (f.crc = flitSum f → flitKind f = 3 → x.naking = false → x.queue = [] → ∀ rest, rest = (if f.hdr.getLsbD 39 = true then afterSeq (flitAck f) x.replay else x.replay) →
      (f.hdr.getLsbD 38 = false → Answers (exec (.flitReceive p f) s) fun t => (t.port p).replay = rest ∧ t.out = s.out ∧ s.only [.net] t ∧
        (flitCred f ≠ 0 → flitCrcls f < 5 → (t.port p).credits.getD (flitCrcls f) 0 = min 4095 (x.credits.getD (flitCrcls f) 0 + flitCred f))) ∧
      (f.hdr.getLsbD 38 = true → f.hdr.getLsbD 39 = true → s.inUse p = true → rest ≠ [] → (rest.length ≠ x.replay.length ∨ x.fails < 7) → Answers (exec (.flitReceive p f) s) fun t => (t.port p).replay = rest ∧
        t.out = (rest.map (Out.flit p)).reverse ++ s.out ∧ (t.port p).retries = min 65535 (x.retries + rest.length) ∧ (t.port p).fails = (if rest.length ≠ x.replay.length then 1 else x.fails + 1)) ∧
      (f.hdr.getLsbD 38 = true → f.hdr.getLsbD 39 = true → rest ≠ [] → rest.length = x.replay.length → 7 ≤ x.fails → x.shutting = false → Answers (exec (.flitReceive p f) s) fun t =>
        (t.port p).replay = rest ∧ (t.port p).fails = 0 ∧ (t.port p).training = some s.now ∧ (t.port p).width = .down ∧ t.out = s.out))) ∧
  (∀ (s : State) (p : Nat), s.clocked = true → p < 36 → (s.port p).up = true → (s.port p).replay ≠ [] → (s.port p).ackAt + 50 ≤ s.now →
    (s.inUse p = false → exec (.flitResend p) s = .next s) ∧ (s.inUse p = true → Answers (exec (.flitResend p) s) fun t =>
    t.out = ((s.port p).replay.map (Out.flit p)).reverse ++ s.out ∧ s.only [.net, .out] t ∧ (∀ q, q ≠ p → t.port q = s.port q) ∧
    t.port p = { s.port p with retries := min 65535 ((s.port p).retries + (s.port p).replay.length), ackAt := s.now })) ∧
  (∀ (l : List Flit) (i : Nat) (f : Flit), l[i]? = some f → (∀ j g, j < i → l[j]? = some g → flitSeq g ≠ flitSeq f) → afterSeq (flitSeq f) l = l.drop (i + 1)) ∧
  (∀ (a : BitVec 12) (l : List Flit), (∀ f ∈ l, flitSeq f ≠ a) → afterSeq a l = l) ∧
  (∀ (x : Port) (now : Nat),
    (x.able 0 = true → (∀ q ∈ x.queue, q.cls = 0) ∨ x.sigAt ≠ now ∨ 7 ≤ x.sigGap → (x.pick now).map (·.1) = some 0) ∧
    (x.sigAt = now → x.sigGap < 7 → (∃ c ∈ [1, 2, 3, 4], x.able c = true) → ∃ c y, x.pick now = some (c, y) ∧ c ∈ [1, 2, 3, 4] ∧ x.able c = true ∧ y.sigGap = x.sigGap + 1) ∧
    (∀ c y, x.pick now = some (c, y) → c ≤ 4 ∧ x.able c = true ∧ y.queue = x.queue ∧ y.credits = x.credits))) ∧
  ((∀ (s : State) (p lane : Nat) (x : Port) (ok : BitVec 4) (k : Nat), s.clocked = true → p < 36 → lane < 4 → x = s.port p → x.failed.getLsbD lane = false → s.health.armed = [] →
    ok = ~~~(x.failed ||| BitVec.ofNat 4 (2 ^ lane)) → k = ((List.range 4).filter fun i => ok.getLsbD i).length →
    (x.width = .down → x.training = none → exec (.laneFailure p lane) s = .next s) ∧
    -- a lane of a port that trains is declared failed too
    (x.width = .down → x.training ≠ none → Answers (exec (.laneFailure p lane) s) fun t => (t.port p).failed = ~~~ok ∧ (t.port p).width = .down ∧
      (t.port p).training = (if k < 2 then none else x.training) ∧ (∀ q, q ≠ p → t.port q = s.port q)) ∧
    (x.width ≠ .down → Answers (exec (.laneFailure p lane) s) fun t =>
      (t.port p).failed = ~~~ok ∧ (t.port p).lanes = ok ∧ t.health.total = s.health.total + 1 ∧ (∀ q, q ≠ p → t.port q = s.port q) ∧
      (∃ e, t.ledger.waiting = s.ledger.waiting ++ [e] ∧ e.typ = 9) ∧ (k < 2 → (t.port p).width = .down ∧ (t.port p).training = none) ∧
      (2 ≤ k → lane ∈ activeLanes x.lanes → (t.port p).width = .x2 ∧ (t.port p).training = some s.now) ∧
      (2 ≤ k → lane ∉ activeLanes x.lanes → (t.port p).width = x.width ∧ (t.port p).training = x.training))) ∧
  (∀ (l : BitVec 4), (l = 15 → widthOf l = .x4 ∧ activeLanes l = [0, 1, 2, 3]) ∧ (l ≠ 15 → widthOf l ≠ .x4 ∧ (activeLanes l).length ≤ 2 ∧ ∀ i ∈ activeLanes l, l.getLsbD i = true) ∧
    (widthOf l = .down ↔ ((List.range 4).filter fun i => l.getLsbD i).length < 2)) ∧
  (∀ (s : State) (p : Nat) (x : Port), s.clocked = true → p < 36 → x = s.port p → x.training ≠ none → Answers (exec (.portRetrained p) s) fun t => (t.port p).training = none ∧
    (t.port p).lanes = ~~~x.failed ∧ (t.port p).width = widthOf (~~~x.failed) ∧ (t.port p).checked = false ∧ (t.port p).replay = x.replay ∧ (∀ q, q ≠ p → t.port q = s.port q) ∧
    (widthOf (~~~x.failed) ≠ .down → ∃ g, t.out = .flit p g :: s.out ∧ g.payload.take 9 = bytesOf s.chip.fp ++ leBytes 1 p ∧ flitKind g = 3) ∧
    (widthOf (~~~x.failed) = .down → t.out = s.out)) ∧
  (∀ (s : State) (p farPort : Nat) (fp : BitVec 64) (x : Port), s.clocked = true → p < 36 → farPort < 256 → x = s.port p → x.up = true → x.queue = [] → Answers (exec (.cablingExchange p fp farPort) s) fun t =>
    (t.port p).farFp = fp ∧ (t.port p).peerPort = farPort ∧ (t.port p).checked = true ∧ s.only [.net, .side, .ledger, .out] t ∧ (∀ q, q ≠ p → t.port q = s.port q) ∧
    (t.port p).replay = x.replay ∧ t.out = (if x.checked = false ∧ t.inUse p = true then (x.replay.map (Out.flit p)).reverse else []) ++ s.out ∧
    (s.portPlan p = none → (t.port p).cable = .noPeer) ∧
    (∀ want q i, s.portPlan p = some (want, q, i) → (t.port p).cable = (if fp ≠ want then .wrongPeer else if farPort ≠ q then .swapped else if x.width = .x4 then .ok else .degraded) ∧
      ((t.port p).cable = .ok ∨ (t.port p).cable = .degraded → (t.port p).peerIndex = if s.net.plan.any (·.direct) = true then i else 255)) ∧
    ((t.port p).cable ≠ .ok → t.side.attnCause.getLsbD 1 = true) ∧ ((t.port p).cable = .ok → t.side = s.side) ∧
    ((t.port p).cable ≠ x.cable → ∃ e, t.ledger.waiting = s.ledger.waiting ++ [e] ∧ e.typ = 10)) ∧
  (∀ (s : State) (p t0 : Nat), s.clocked = true → p < 36 → (s.port p).training = some t0 → t0 + 50000000 ≤ s.now → Answers (exec (.noPeer p) s) fun t => (t.port p).cable = .noPeer ∧
    (t.port p).width = .down ∧ (t.port p).training = none ∧ (t.port p).noPeerAt = s.now ∧ t.side.attnCause.getLsbD 1 = true ∧ (∀ q, q ≠ p → t.port q = s.port q) ∧ s.only [.net, .side, .ledger] t) ∧
  (∀ (s : State) (p bad total : Nat), s.clocked = true → p < 36 → (s.port p).up = true → (s.port p).shutting = false → total < bad * 1000000000 → Answers (exec (.flitErrorRatio p bad total) s) fun t =>
    (t.port p).training = some s.now ∧ (t.port p).width = .down ∧ t.health.total = s.health.total + 1 ∧ (t.health.events.head?.map (·.cls)) = some 14 ∧ (∀ q, q ≠ p → t.port q = s.port q)) ∧
  (∀ (s : State) (p : Nat) (x : Port), s.clocked = true → p < 36 → x = s.port p → x.shutting = false → x.shut = false → x.training = none → x.cable = .noPeer → s.portPlan p = none →
    (s.untrained p = true ∨ x.noPeerAt + 50000000 ≤ s.now) → Answers (exec (.portShutdown p) s) fun t => s.only [.net, .ledger] t ∧
      (x.width = .down → t.ledger = s.ledger) ∧ (t.port p).shutting = true ∧ (t.port p).width = .down ∧ ∀ q, q ≠ p → t.port q = s.port q))

/-! ### Transport between modules -/

/-- Packets are taken in the order of their flow: one of bad CRC or beyond the reorder window is refused and takes no effect, one already applied is acknowledged again, and
one ahead of its turn waits and changes nothing else. What a packet whose turn it is does, when the rest of its flow has not come: a write writes its bytes and marks its
poisoned blocks, a read request is answered with the bytes, a read response reaches the load or command that asked for them, addends set out for their records, a signal
is added; one that its window or address refuses is answered with the reason and changes nothing here. Acknowledgements remove what they cover; a negative acknowledgement
resends the packet, waits, or ends the access or command it carries, as its reason says; 100 µs of silence resends a packet and counts a transport retry. An answer whose
payload CRC fails is discarded with a fault event, and a page whose home refuses an access as no window's is LOST. -/
def Obligations.Transport : Prop :=
  (∀ (s : State) (p : TPacket) (c : Instr) (typ k : Nat) (f : RxFlow), (c, typ) ∈ [(Instr.write p, 1), (.readRequest p, 2), (.readResponse p, 3), (.accumulate p, 4), (.message p, 5)] →
    s.heardFrom typ p → k = flowKey (hSrc p.hdr) (hFlow p.hdr) → f = s.rxFlow k →
    (crc32c p.payload ≠ hPcrc p.hdr → Answers (exec c s) fun t => s.answers p 7 (hPsn p.hdr) 1 t ∧ t.rxFlow k = f ∧ s.bytesSame t ∧ t.health.total = s.health.total + 1 ∧
      s.only [.net, .out, .free, .health, .ledger, .cmd] t) ∧
    (crc32c p.payload = hPcrc p.hdr →
      (psnGe (hPsn p.hdr) f.next = false → Answers (exec c s) fun t => s.answers p 6 (f.next - 1) 0 t ∧ t.net.rx = s.net.rx ∧ s.only [.net, .out, .free] t) ∧
      (psnGe (hPsn p.hdr) f.next = true → 256 ≤ (hPsn p.hdr - f.next).toNat → Answers (exec c s) fun t => s.answers p 7 (hPsn p.hdr) 5 t ∧ t.net.rx = s.net.rx ∧ s.only [.net, .out, .free] t) ∧
      (psnGe (hPsn p.hdr) f.next = true → hPsn p.hdr ≠ f.next → (hPsn p.hdr - f.next).toNat < 256 → (∀ q ∈ f.held, hPsn q.hdr ≠ f.next ∧ hPsn q.hdr ≠ hPsn p.hdr) →
        Answers (exec c s) fun t => s.answers p 6 (f.next - 1) 0 t ∧ t.rxFlow k = { f with held := f.held ++ [p] } ∧ s.only [.net, .out, .free] t))) ∧
  (∀ (s : State) (p : TPacket) (k src len : Nat) (a : Nat) (f : RxFlow), src = hSrc p.hdr → k = flowKey src (hFlow p.hdr) → f = s.rxFlow k → f.held = [] → hPsn p.hdr = f.next →
    crc32c p.payload = hPcrc p.hdr → a = (hAddr p.hdr).toNat → len = hLen p.hdr → s.mem.wf = true →
    (s.heardFrom 1 p → (∀ key, s.allowed a src (·.wr) = true → s.accessKey a len src (·.wr) = .inr key → (∀ h o, s.spanOfKey key = some (h, o) → h ≠ 0 ∧ (s.berthAt h).isSome = true ∧ berthKey (handleIndex h) o = key) →
        Answers (exec (.write p) s) fun t => t.rxFlow k = { next := f.next + 1, held := [] } ∧ (∀ i v, p.payload[i]? = some v → cellGet t.mem.cells (key + i) = v) ∧
          (∀ x, (x < key ∨ key + len ≤ x) → s.offRecords key len x → cellGet t.mem.cells x = cellGet s.mem.cells x) ∧
          (∀ i, i * 64 < len → (hPoison p.hdr).getLsbD i = true → ∀ b ∈ blocksOf (key + 64 * i) (min 64 (len - 64 * i)), b ∈ t.mem.poison)) ∧
      (∀ r, (s.allowed a src (·.wr) = true ∨ s.stashGrant src = none) → s.accessKey a len src (·.wr) = .inl r → r ≠ 3 → Answers (exec (.write p) s) fun t => t.rxFlow k = { next := f.next + 1, held := [] } ∧ s.only [.net, .out, .free] t ∧
        (∃ fl b, .packet b [] ∈ t.out ∧ t.out = fl ++ s.out ∧ hType b = 7 ∧ hPsn b = hPsn p.hdr ∧ hAddr b = BitVec.ofNat 64 r))) ∧
    (s.heardFrom 2 p → ∀ key, s.accessKey a len src (·.rd) = .inr key → s.mem.clean key len = true → (∀ i, i * 64 < len → s.keyPoisoned (key + 64 * i) (min 64 (len - 64 * i)) = false) → (∀ h o, s.spanOfKey key = some (h, o) → h ≠ 0 ∧ (s.berthAt h).isSome = true ∧ berthKey (handleIndex h) o = key) →
      Answers (exec (.readRequest p) s) fun t => t.rxFlow k = { next := f.next + 1, held := [] } ∧ (∀ x, s.offRecords key len x → cellGet t.mem.cells x = cellGet s.mem.cells x) ∧
        ∃ y ∈ t.net.unacked, y.dst = src ∧ hType y.hdr = 3 ∧ hAddr y.hdr = hAddr p.hdr ∧ y.payload = (s.laSync key len).mem.read key len ∧ hPoison y.hdr = 0) ∧
    (s.heardFrom 3 p → ∀ mine : Want → Bool, mine = (fun w => w.module = some src && w.addr = a && domainFlow w.job ((s.ownIndex).getD 0) w.cls = hFlow p.hdr && w.len = len) →
      (s.wire.reads.find? mine = none → Answers (exec (.readResponse p) s) fun t => t.wire = s.wire ∧ t.rxFlow k = { next := f.next + 1, held := [] } ∧ s.only [.net, .out, .free] t) ∧
      (∀ w, s.wire.reads.find? mine = some w → Answers (exec (.readResponse p) s) fun t => t.wire = { s.wire with reads := s.wire.reads.erase w } ∧
        t.rxFlow k = { next := f.next + 1, held := [] } ∧ s.bytesSame t ∧ s.only [.net, .out, .free, .mem, .comp, .cmd] t ∧
        (∀ i, i * 64 < len → (hPoison p.hdr).getLsbD i = true → ∀ b ∈ blocksOf (w.key + 64 * i) (min 64 (len - 64 * i)), b ∈ t.mem.poison) ∧
        (∀ (c b j : Nat) (l : LoadOp), w.core = some (c, b) → (s.coreOf c).loads[j]? = some l → spanKey c l.handle l.ofs ≤ w.key → w.key + len ≤ spanKey c l.handle l.ofs + l.len → l.bytes.length = l.len →
          spanKey c l.handle l.ofs ∉ s.mem.tiles → ∃ l', (t.coreOf c).loads[j]? = some l' ∧ (∀ i v, p.payload[i]? = some v → l'.bytes[w.key - spanKey c l.handle l.ofs + i]? = some v) ∧
            (hPoison p.hdr = 0 → l'.fault = l.fault)) ∧
        (∀ (c b d : Nat) (e : DmaOp), w.core = some (c, b) → (s.coreOf c).dmas.get? d = some e → e.plain = true → spanKey c e.src e.sofs ≤ w.key → w.key + len ≤ spanKey c e.src e.sofs + e.slen → e.bytes.length = e.slen →
          ∃ e', (t.coreOf c).dmas.get? d = some e' ∧ (∀ i v, p.payload[i]? = some v → e'.bytes[w.key - spanKey c e.src e.sofs + i]? = some v) ∧ (hPoison p.hdr = 0 → e'.poison = e.poison)) ∧
        ∀ r i g, w.core = none → w.cmd = some (r, i) → s.prog r i = some g → g.outcome = none →
          ((∃ m, m * 64 < len ∧ (hPoison p.hdr).getLsbD m = true) → (t.outcomeAt r i).map (·.status) = some 0x0401) ∧ (hPoison p.hdr = 0 → t.outcomeAt r i = none))) ∧
    (s.heardFrom 4 p → (∀ key, s.accessKey a (12 * p.payload.length) src (·.acc) = .inr key → Answers (exec (.accumulate p) s) fun t => t.rxFlow k = { next := f.next + 1, held := [] } ∧
        s.only [.net, .out, .free, .comp] t ∧ t.comp = { s.comp with addends := t.comp.addends } ∧ t.comp.addends.length = s.comp.addends.length + p.payload.length / 4 ∧
        ∀ i < p.payload.length / 4, t.comp.addends[s.comp.addends.length + i]? = some ⟨noCore, 0, key + 48 * i, .fp32 (BitVec.ofNat 32 (leNat ((p.payload.drop (4 * i)).take 4)))⟩) ∧
      (s.accessKey a (12 * p.payload.length) src (·.acc) = .inl 3 → Answers (exec (.accumulate p) s) fun t => t.rxFlow k = f ∧ s.only [.net, .out, .free] t)) ∧
    (s.heardFrom 5 p → messageCode p.hdr = 0 → ∀ slot w, slot = hFlow p.hdr / 640 → w = leNat (p.payload.take 8) →
      (∀ job j, (s.grants slot src (·.sig) = true ∧ job = slot ∨ s.grants slot src (·.sig) = false ∧ (s.net.windows.find? fun y => s.grants y.2.job src (·.sig)).map (·.2.job) = some job) →
        s.cmd.jobs.get? job = some j → w < j.sigWords → Answers (exec (.message p) s) fun t => t.rxFlow k = { next := f.next + 1, held := [] } ∧
        s.only [.net, .out, .free, .comp] t ∧ t.comp = { s.comp with signals := s.comp.signals.put (j.sigBase + w) (s.comp.signals.getD (j.sigBase + w) 0 + BitVec.ofNat 64 (leNat ((p.payload.drop 8).take 8))) }) ∧
      ((∀ y ∈ s.net.windows, s.grants y.2.job src (·.sig) = false) → Answers (exec (.message p) s) fun t => t.comp = s.comp ∧ t.rxFlow k = { next := f.next + 1, held := [] } ∧
        ∃ b, .packet b [] ∈ t.out ∧ hType b = 7 ∧ hAddr b = 2)) ∧
    (s.heardFrom 5 p → messageCode p.hdr ≠ 0 → Answers (exec (.message p) s) fun t => t.rxFlow k = { next := f.next + 1, held := [] } ∧ s.only [.net, .out, .free] t)) ∧
  ((∀ (s : State) (p : TPacket), hType p.hdr = 6 → s.fromPeer p = true → crc32c p.payload = hPcrc p.hdr → Answers (exec (.acknowledge p) s) fun t =>
    t.net = { s.net with unacked := s.net.unacked.filter fun x => !(x.dst = hSrc p.hdr && x.flow = hFlow p.hdr && psnGe (hPsn p.hdr) x.psn) } ∧ s.only [.net, .cmd, .quay] t ∧
    (s.cmd.progs = [] → s.only [.net] t) ∧
    (∀ g, s.cmd.progs = [g] → (∀ x ∈ s.net.unacked, x.cmd = some (g.ring, g.at_) ∧ x.dst = hSrc p.hdr ∧ x.flow = hFlow p.hdr ∧ psnGe (hPsn p.hdr) x.psn = true) → s.net.unacked ≠ [] →
      ∀ g' ∈ t.cmd.progs, ∀ d ∈ g'.taken, d.2 ≠ hSrc p.hdr)) ∧
  (∀ (s : State) (p : TPacket) (c : Instr), s.fromPeer p = true → crc32c p.payload ≠ hPcrc p.hdr → c = .acknowledge p ∧ hType p.hdr = 6 ∨
      c = .negativeAcknowledge p ∧ hType p.hdr = 7 ∧ (∃ u ∈ s.net.unacked, u.dst = hSrc p.hdr ∧ u.flow = hFlow p.hdr ∧ u.psn = hPsn p.hdr) →
    Answers (exec c s) fun t => t.health.total = s.health.total + 1 ∧ s.only [.health, .ledger, .cmd] t) ∧
  (∀ (s : State) (p : TPacket) (x : TxPkt) (r : Nat), hType p.hdr = 7 → s.fromPeer p = true → s.net.unacked.find? (fun t => t.dst = hSrc p.hdr && t.flow = hFlow p.hdr && t.psn = hPsn p.hdr) = some x →
    crc32c p.payload = hPcrc p.hdr → r = (hAddr p.hdr).toNat % 256 →
    (r = 1 → Answers (exec (.negativeAcknowledge p) s) fun t => s.only [.net, .out, .free] t ∧ t.net.unacked = s.net.unacked.map (fun u => if u = x then { u with sentAt := s.now } else u) ∧
      ∃ fl, t.out = fl ++ x.msg.getD (.packet x.hdr x.payload) :: s.out) ∧
    (r = 5 → (∃ u ∈ s.net.unacked, u.dst = hSrc p.hdr ∧ u.flow = x.flow ∧ u.psn ≠ x.psn ∧ psnGe x.psn u.psn = true) → exec (.negativeAcknowledge p) s = .next s) ∧
    (r = 5 → (∀ u ∈ s.net.unacked, u.dst = hSrc p.hdr → u.flow = x.flow → u.psn ≠ x.psn → psnGe x.psn u.psn = false) → Answers (exec (.negativeAcknowledge p) s) fun t =>
      ∃ fl, t.out = fl ++ x.msg.getD (.packet x.hdr x.payload) :: s.out) ∧
    (r = 3 → x.core = none → exec (.negativeAcknowledge p) s = .next s) ∧
    (∀ code st note d, (r = 3 ∧ x.core ≠ none ∧ code = 8 ∧ st = 0x0402 ∧ note = 0 ∧ d = 0) ∨ (r = 4 ∧ code = 2 ∧ st = 0x0301 ∧ note = notePeer ∧ d = detailModule (hSrc p.hdr)) ∨
        ((r = 2 ∨ r = 0 ∨ 5 < r) ∧ code = 2 ∧ st = 0x0203 ∧ note = notePeer ∧ d = detailModule (hSrc p.hdr)) →
      Answers (exec (.negativeAcknowledge p) s) fun t => x ∉ t.net.unacked ∧ s.only [.net, .comp, .cmd, .place] t ∧ (hType x.hdr = 5 ∨ st ≠ 0x0203 → t.place = s.place) ∧
        (hType x.hdr = 2 → ∀ w, s.wire.reads.find? (fun y => y.addr = (hAddr x.hdr).toNat && y.len = hLen x.hdr && y.core = x.core && y.cmd = x.cmd) = some w → t.wire = { s.wire with reads := s.wire.reads.erase w }) ∧
        (hType x.hdr ≠ 5 → st = 0x0203 → ∀ i b j y, s.place.berths.get? i = some b → b.pages.get? j = some y → gaSpace (pageAddr y.base) ≠ 0 → pageAddr y.base ≤ (hAddr x.hdr).toNat →
          (hAddr x.hdr).toNat < pageAddr y.base + pageSize b.cls → ∃ b' y', t.place.berths.get? i = some b' ∧ b'.pages.get? j = some y' ∧ y'.st = .lost) ∧
        (∀ k b, x.core = some (k, b) → (s.coreOf k).fault = none → (t.coreOf k).fault = some ⟨code, 5, false, b, 0⟩) ∧
        (∀ i o g, x.cmd = some (i, o) → s.prog i o = some g → g.outcome = none → t.outcomeAt i o = some { status := st, note := note, detail := d, results := [] }))) ∧
  (∀ (s : State) (x : TxPkt), s.clocked = true → s.net.unacked.find? (fun t => t.dst = x.dst && t.flow = x.flow && t.psn = x.psn) = some x → x.sentAt + 2500 ≤ s.now →
    Answers (exec (.transportResend x.dst x.flow x.psn.toNat) s) fun t =>
      (∀ i y, s.choosePort x.dst (hClass x.hdr) = some i → y = (s.port i).retries → y ≤ 65535 → (t.port i).retries = min 65535 (y + (flitPieces x.hdr x.payload).length)) ∧
      (∀ i, s.choosePort x.dst (hClass x.hdr) ≠ some i → (t.port i).retries = (s.port i).retries) ∧ (∃ fl, t.out = fl ++ x.msg.getD (.packet x.hdr x.payload) :: s.out) ∧
      s.only [.net, .out, .free, .cmd] t ∧ (∀ j, s.cmd.jobs.get? (x.flow / 640) = some j → t.jobIs (x.flow / 640) fun y => y.resends = j.resends + 1) ∧
      ∀ i, i ≠ x.flow / 640 → t.cmd.jobs.get? i = s.cmd.jobs.get? i))

/-- Heartbeats show a peer present, with its incarnation and its ports; one of an incarnation declared absent is discarded; one of a new incarnation ends the old. A peer that
falls silent is declared absent: nothing of it remains outstanding, and pages that it held are LOST. Grants are mirrored, pages that stood under a grant of stash room
that is removed are LOST, and shootdowns are obeyed. -/
def Obligations.Presence : Prop :=
  (∀ (s : State) (p : TPacket) (m : Nat) (q : Peer), m = hSrc p.hdr → q = s.net.peers.getD m Peer.init → hType p.hdr = 8 → s.clocked = true → p.port < 36 → s.inUse p.port = true →
    s.ownIndex = some (hDst p.hdr) → (s.net.plan.any (·.direct) = true → ∃ e, s.portPlan p.port = some e ∧ e.2.2 = m) →
    (crc32c p.payload ≠ hPcrc p.hdr → Answers (exec (.heartbeat p) s) fun t => t.net = s.net ∧ t.health.total = s.health.total + 1 ∧ s.only [.health, .ledger, .cmd] t) ∧
    (crc32c p.payload = hPcrc p.hdr → q.present = false ∨ q.inc = hInc p.hdr → (hInc p.hdr ∈ q.dead → exec (.heartbeat p) s = .next s) ∧
      (hInc p.hdr ∉ q.dead → exec (.heartbeat p) s = .next (s.setNet { s.net with peers := s.net.peers.put m { q with present := true, inc := hInc p.hdr, lastAt := s.now, mask := BitVec.ofNat 64 (leNat (p.payload.take 8)) } }))) ∧
    (crc32c p.payload = hPcrc p.hdr → q.present = true → q.inc ≠ hInc p.hdr → hInc p.hdr ∉ q.dead → Answers (exec (.heartbeat p) s) fun t => ∃ y, t.net.peers.get? m = some y ∧ y.present = true ∧
      y.inc = hInc p.hdr ∧ q.inc ∈ y.dead ∧ (∀ x ∈ t.net.unacked, x.dst ≠ m) ∧ t.health.total = s.health.total + 1)) ∧
  (∀ (s : State) (c : CablePlan), s.net.plan = some c → s.clocked = true → s.portMask ≠ 0 → s.net.hbAt + 6250 ≤ s.now → Answers (exec .heartbeatSend s) fun t => t.net.hbAt = s.now ∧
    s.only [.net, .out, .free] t ∧ t.net.peers = s.net.peers ∧ ∀ m ∈ c.fps.keyList, m ≠ c.own → (c.direct = true → ∃ p < 36, s.inUse p = true ∧ ∃ e, s.portPlan p = some e ∧ e.2.2 = m) →
      Out.heartbeat m s.ledger.inc (BitVec.ofNat 64 s.portMask) ∈ t.out) ∧
  (∀ (s : State) (m : Nat) (q : Peer), s.clocked = true → s.net.peers.get? m = some q → q.present = true →
    (q.lastAt + 37500 ≤ s.now ∨ s.net.plan.any (·.direct) = true ∧ ∀ p < 36, (∃ e, s.portPlan p = some e ∧ e.2.2 = m) → (s.port p).up = false) →
    Answers (exec (.peerAbsent m) s) fun t => t.peerPresent m = false ∧ (∃ y, t.net.peers.get? m = some y ∧ q.inc ∈ y.dead ∧ y.mask = 0) ∧ (∀ x ∈ t.net.unacked, x.dst ≠ m) ∧
      (∀ k f, t.net.rx.get? k = some f → k / 2 ^ 18 ≠ m) ∧ (∀ k e, t.net.mirror.get? k = some e → k / 4096 ≠ m) ∧ t.health.total = s.health.total + 1 ∧
      (∀ f ∈ t.net.stashIn, f.1 / 2 ^ 36 ≠ m) ∧ (∀ x k b, x ∈ s.net.unacked → x.dst = m → x.cmd = none → x.core = some (k, b) → (t.coreOf k).fault.isSome = true) ∧
      (∀ w, w ∈ t.wire.wants ∨ w ∈ t.wire.reads → w.module ≠ some m) ∧ (∀ w k b, w ∈ s.wire.reads → w.module = some m → w.core = some (k, b) → (t.coreOf k).fault.isSome = true) ∧
      ∀ b ∈ t.place.berths, ∀ x ∈ b.2.pages, (gaSpace (pageAddr x.2.base) = 1 → gaModule (pageAddr x.2.base) = m → x.2.st = .lost) ∧
        ∀ g, x.2.goal = some g → gaSpace (pageAddr g) ≠ 1 ∨ gaModule (pageAddr g) ≠ m) ∧
  (∀ (s : State) (src w : Nat) (e : BitVec 256), s.clocked = true → w < 4096 → (src < 128 ∧ s.peerPresent src = true ∨ 256 ≤ src ∧ s.farPresent (src - 256) = true) →
    (e.getLsbD 40 = true → exec (.grantMirror src w e) s = .next (s.setNet { s.net with mirror := s.net.mirror.put (4096 * src + w) e })) ∧
    (e.getLsbD 40 = false → (∀ o, s.net.mirror.get? (4096 * src + w) = some o → o.getLsbD 25 = false) →
      exec (.grantMirror src w e) s = .next (s.setNet { s.net with mirror := s.net.mirror.drop (4096 * src + w) })) ∧
    (∀ o, e.getLsbD 40 = false → s.net.mirror.get? (4096 * src + w) = some o → o.getLsbD 25 = true → Answers (exec (.grantMirror src w e) s) fun t => s.only [.net, .place] t ∧
      t.net = { s.net with mirror := s.net.mirror.drop (4096 * src + w) } ∧ t.place = { s.place with berths := t.place.berths } ∧
      ∀ b ∈ t.place.berths, ∀ y ∈ b.2.pages,
        (src < 128 → gaSpace (pageAddr y.2.base) = 1 → gaModule (pageAddr y.2.base) = src → (∀ z ∈ t.net.mirror, z.1 / 4096 = src → z.2.getLsbD 25 = false) → y.2.st = .lost) ∧
        (256 ≤ src → gaSpace (pageAddr y.2.base) = 2 → pageAddr y.2.base / 2 ^ 52 % 256 = src - 256 → pageAddr y.2.base / 2 ^ 40 % 4096 = w → y.2.st = .lost))) ∧
  (∀ (s : State) (h : BitVec 32) (page : Nat), s.clocked = true → Answers (exec (.shootdown h page) s) fun t => s.only [.place] t ∧ t.place = { s.place with tcs := t.place.tcs } ∧
    (∀ k l, t.place.tcs.get? k = some l → (h, page) ∉ l) ∧ ∀ k l e, s.place.tcs.get? k = some l → e ≠ (h, page) → e ∈ l → ∃ l', t.place.tcs.get? k = some l' ∧ e ∈ l')

/-! ### Far transport -/

/-- A far packet that fails a check is discarded, and answered only when its payload alone is corrupt; any other makes its endpoint present: a probe is answered, an open or a
close changes the flow and is acknowledged, acknowledgements and refusals act on what was sent. Data of a far flow is applied in its order: a packet already applied is
acknowledged again, one 1,024 or more ahead is refused, one ahead waits. In its turn a write or a read that its window grants is done, an addend sets out, a response
reaches what asked for it; what the window, or the window of a frame that it reaches, does not grant is refused and changes nothing here. A far flow's timeout sends its
packets again and doubles, up to 32 ms; its rate rises after 100 µs without congestion; an endpoint in use is probed every 10 ms, and one that falls silent, or fails 12
resends in a row, is declared absent. -/
def Obligations.FarTransport : Prop :=
  ((∀ (s : State) (p : FarPkt) (c : Instr), (c = .farPacket p ∧ farType p ≠ 9 ∧ farType p ≠ 10) ∨ (c = .farOpen p ∧ farType p = 9) ∨ (c = .farClose p ∧ farType p = 10) → s.farReady p = true →
    (BitVec.ofNat 32 (farField p 60 4) ≠ crc32c (p.hdr.take 60) ∨ p.udpOk = false → Answers (exec c s) fun t => s.only [.health, .ledger, .cmd] t ∧ t.health.total = s.health.total + 1 ∧
      (t.health.events.head?.map (·.cls)) = some 15) ∧
    (BitVec.ofNat 32 (farField p 60 4) = crc32c (p.hdr.take 60) → p.udpOk = true →
      (farField p 0 1 ≠ 1 ∨ p.udpPort ≠ s.net.farPort ∨ s.farSource p = none → exec c s = .next s) ∧
      (∀ ep e, s.farSource p = some (ep, e) → (e.fp.toNat ≠ farField p 16 8 ∨ farInc p ∈ e.dead) → exec c s = .next s) ∧
      (∀ ep e, farField p 0 1 = 1 → p.udpPort = s.net.farPort → s.farSource p = some (ep, e) → e.fp.toNat = farField p 16 8 → farInc p ∉ e.dead →
        BitVec.ofNat 32 (farField p 52 4) ≠ crc32c p.payload → ∃ u : State, exec c s = .next (u.farAnswer ep (farFlowOf p) 7 (farPsn p) 1 p.ce) ∧ s.only [.health, .ledger, .cmd] u ∧
          u.health.total = s.health.total + 1))) ∧
  (∀ (s : State) (p : FarPkt) (ep : Nat) (e : FarEp), s.farHeard p ep e → s.net.farEps.get? ep = some e →
    (farType p = 8 → (e.present = false ∨ e.inc = farInc p → exec (.farPacket p) s = .next ((s.farSeen p ep e).farAnswer ep (farFlowOf p) 6 (farPsn p) 0 p.ce)) ∧
      (e.present = true → e.inc ≠ farInc p → Answers (exec (.farPacket p) s) fun t => (∃ x, t.net.farEps.get? ep = some x ∧ x.present = true ∧ x.inc = farInc p ∧ e.inc ∈ x.dead) ∧
        (∀ f ∈ t.net.farFlows, f.2.ep ≠ ep) ∧ ∃ r, t.out = .far ep 6 (farPsn p) [] :: r)) ∧
    (e.present = false ∨ e.inc = farInc p →
      (s.net.farFlows.get? (farFlowOf p) = none → farType p ≠ 8 → farType p ≠ 9 → farType p ≠ 10 → s.farOpensAt ep (farFlowOf p) (farField p 2 1) (farType p) = false →
        exec (.farPacket p) s = .next (s.farSeen p ep e)) ∧
      (farType p = 9 → 73728 ≤ farFlowOf p → farFlowOf p < 262144 → s.net.farFlows.get? (farFlowOf p) = none → Answers (exec (.farOpen p) s) fun t =>
        (∃ f, t.net.farFlows.get? (farFlowOf p) = some f ∧ f.ep = ep ∧ f.cmd = none ∧ f.nextRx = (farPsn p + 1) % 2 ^ 32 ∧ f.heldRx = [] ∧ f.timeout = 500) ∧
        t.out = .far ep 6 (farPsn p) [] :: s.out ∧ t.farPresent ep = true ∧ s.only [.net, .out] t) ∧
      (∀ f, farType p = 10 → s.net.farFlows.get? (farFlowOf p) = some f → f.ep = ep → f.cmd = none → Answers (exec (.farClose p) s) fun t => t.net.farFlows.get? (farFlowOf p) = none ∧
        t.out = .far ep 6 (farPsn p) [] :: s.out ∧ s.only [.net, .out] t) ∧
      (∀ f g, s.net.farFlows.get? (farFlowOf p) = some f → f.ep = ep →
        g = (if (farField p 3 1).testBit 0 = true then (f.acked (if farType p = 6 then farPsn p else farField p 12 4) s.now).congested s.now
          else f.acked (if farType p = 6 then farPsn p else farField p 12 4) s.now) →
        (farType p = 6 → Answers (exec (.farPacket p) s) fun t => t.net.farFlows.get? (farFlowOf p) = some g ∧ t.out = s.out ∧ s.only [.net] t) ∧
        (farType p = 7 → (∀ u, u ∈ g.unacked → u.psn ≠ farPsn p) → Answers (exec (.farPacket p) s) fun t => t.net.farFlows.get? (farFlowOf p) = some g ∧ t.out = s.out ∧ s.only [.net] t) ∧
        (∀ u r, farType p = 7 → g.unacked.find? (fun u => u.psn = farPsn p) = some u → r = farField p 33 1 →
          (r = 1 ∨ r = 5 ∧ g.unacked.head? = some u → Answers (exec (.farPacket p) s) fun t => t.net.farFlows.get? (farFlowOf p) = some g ∧ s.only [.net, .out] t ∧
            ∃ l, t.out = l ++ .far ep u.typ u.psn u.payload :: s.out ∧ ∀ o ∈ l, o = .far ep u.typ u.psn u.payload) ∧
          (r = 3 ∧ u.core = none ∨ r = 5 ∧ g.unacked.head? ≠ some u → Answers (exec (.farPacket p) s) fun t => t.net.farFlows.get? (farFlowOf p) = some g ∧ t.out = s.out ∧ s.only [.net] t) ∧
          (∀ code st note, (r = 3 ∧ u.core ≠ none ∧ code = 8 ∧ st = 0x0402 ∧ note = 0) ∨ (r = 4 ∧ code = 2 ∧ st = 0x0301 ∧ note = 0) ∨
              ((r = 2 ∨ r = 0 ∨ 5 < r) ∧ code = 2 ∧ st = 0x0203 ∧ note = notePeer) → Answers (exec (.farPacket p) s) fun t => t.out = s.out ∧ s.only [.net, .comp, .cmd, .place] t ∧
            (u.typ = 5 ∨ st ≠ 0x0203 → t.place = s.place) ∧ t.net.farFlows.get? (farFlowOf p) = some { g with unacked := g.unacked.filter fun x => x != u } ∧
            (∀ k b, u.core = some (k, b) → (s.coreOf k).fault = none → (t.coreOf k).fault = some ⟨code, 5, false, b, 0⟩) ∧
            ∀ i o h, (u.cmd <|> f.cmd) = some (i, o) → s.prog i o = some h → h.outcome = none →
              t.outcomeAt i o = some { status := st, note := note, detail := 0, results := [] }))))) ∧
  (∀ (s : State) (ep ctx typ psn reason : Nat) (ece : Bool) (e : FarEp) (l : AddrLock), s.net.farEps.get? ep = some e → (s.ethPort (s.farPortOf e)).lock = some l →
    (∀ f, s.net.farFlows.get? ctx = some f → f.cls < 256) →
    ∃ h cls, h.length = 64 ∧ h[1]? = some (BitVec.ofNat 8 typ) ∧ h[3]? = some (if ece = true then 3 else 2) ∧ h[33]? = some (BitVec.ofNat 8 reason) ∧
      leNat ((h.drop 4).take 4) = ctx % 2 ^ 32 ∧ leNat ((h.drop 8).take 4) = psn % 2 ^ 32 ∧ BitVec.ofNat 32 (leNat (h.drop 60)) = crc32c (h.take 60) ∧
      ((s.ethPort (s.farPortOf e)).passes (s.farWire e l h) = true → s.farAnswer ep ctx typ psn reason ece =
        (s.emit (.far ep typ psn [])).updTx (s.farPortOf e) fun x => { x with far := x.far ++ [(cls, s.farWire e l h)] }) ∧
      ((s.ethPort (s.farPortOf e)).passes (s.farWire e l h) = false → s.farAnswer ep ctx typ psn reason ece =
        (s.emit (.far ep typ psn [])).updEth (s.farPortOf e) fun x => { x with drops := x.drops + 1 })) ∧
  (∀ (f : FarFlow) (now : Nat), (f.congested now).eceAt = now ∧ ((∀ t, f.halvedAt = some t → t + 2500 ≤ now) → (f.congested now).rate = f.rate / 2 ∧ (f.congested now).halvedAt = some now) ∧
    (∀ t, f.halvedAt = some t → now < t + 2500 → (f.congested now).rate = f.rate ∧ (f.congested now).halvedAt = f.halvedAt)) ∧
  (∀ (f : FarFlow) (psn now : Nat), (f.acked psn now).unacked = f.unacked.filter (fun u => !psnGe32 psn u.psn) ∧ (f.acked psn now).rate = f.rate ∧
    ((f.acked psn now).unacked.length < f.unacked.length → (f.acked psn now).resends = 0 ∧ (f.acked psn now).timeout = 500))) ∧
  (∀ (s : State) (p : FarPkt) (ep ctx ahead : Nat) (e : FarEp) (f : FarFlow), s.farHeard p ep e → s.net.farEps.get? ep = some e → (e.present = false ∨ e.inc = farInc p) → ctx = farFlowOf p →
    s.net.farFlows.get? ctx = some f → f.ep = ep → f.nextRx < 2 ^ 32 → ahead = (farPsn p + 2 ^ 32 - f.nextRx) % 2 ^ 32 → 1 ≤ farType p → farType p ≤ 5 → s.mem.wf = true →
    (2 ^ 31 ≤ ahead → Answers (exec (.farPacket p) s) fun t => t.out = .far ep 6 ((f.nextRx + 2 ^ 32 - 1) % 2 ^ 32) [] :: s.out ∧ s.only [.net, .out] t ∧
      ∃ g, t.net.farFlows.get? ctx = some g ∧ g.nextRx = f.nextRx ∧ g.heldRx = f.heldRx) ∧
    (1024 ≤ ahead → ahead < 2 ^ 31 → ∃ u : State, exec (.farPacket p) s = .next (u.farAnswer ep ctx 7 (farPsn p) 5 p.ce) ∧ u.out = s.out ∧ s.only [.net] u ∧
      ∃ g, u.net.farFlows.get? ctx = some g ∧ g.nextRx = f.nextRx ∧ g.heldRx = f.heldRx) ∧
    (0 < ahead → ahead < 1024 → (∀ h ∈ f.heldRx, h.1 ≠ f.nextRx ∧ h.1 ≠ farPsn p) → Answers (exec (.farPacket p) s) fun t => s.only [.net, .out] t ∧
      t.out = .far ep 6 ((f.nextRx + 2 ^ 32 - 1) % 2 ^ 32) [] :: s.out ∧ ∃ g, t.net.farFlows.get? ctx = some g ∧ g.nextRx = f.nextRx ∧ g.heldRx = f.heldRx ++ [(farPsn p, p.hdr ++ p.payload)]) ∧
    (ahead = 0 → f.heldRx = [] → ∀ i ofs n w, i = farField p 26 2 → ofs = farOffset p → n = farField p 34 2 →
      (farType p = 3 → ∀ mine : Want → Bool, mine = (fun w => w.endpoint = some ep && decide (ctx < 73728 → farShared w.job ep (if w.cls = 1 then 1 else 3) = ctx) && w.len = p.payload.length) →
        (s.wire.reads.find? mine = none → Answers (exec (.farPacket p) s) fun t => t.wire.reads = s.wire.reads ∧ s.only [.net, .out] t ∧
          ∃ g, t.net.farFlows.get? ctx = some g ∧ g.nextRx = (farPsn p + 1) % 2 ^ 32 ∧ g.heldRx = []) ∧
        (∀ y, s.wire.reads.find? mine = some y → Answers (exec (.farPacket p) s) fun t => t.wire.reads = s.wire.reads.erase y ∧ s.bytesSame t ∧ s.only [.net, .out, .mem, .comp, .cmd] t ∧
          (∃ g, t.net.farFlows.get? ctx = some g ∧ g.nextRx = (farPsn p + 1) % 2 ^ 32 ∧ g.heldRx = []) ∧
          ∀ (c b j : Nat) (l : LoadOp), y.core = some (c, b) → (s.coreOf c).loads[j]? = some l → spanKey c l.handle l.ofs ≤ y.key → y.key + y.len ≤ spanKey c l.handle l.ofs + l.len → l.bytes.length = l.len →
            spanKey c l.handle l.ofs ∉ s.mem.tiles → ∃ l', (t.coreOf c).loads[j]? = some l' ∧ ∀ i v, p.payload[i]? = some v → l'.bytes[y.key - spanKey c l.handle l.ofs + i]? = some v)) ∧
      (farType p = 5 → Answers (exec (.farPacket p) s) fun t => s.only [.net, .out] t ∧ (∃ g, t.net.farFlows.get? ctx = some g ∧ g.nextRx = (farPsn p + 1) % 2 ^ 32) ∧
        ((ofs = 0 ∧ (∀ y, s.net.windows.get? i = some y → y.farEp = some ep → y.sig = false)) ∨ (ofs = 1 ∧ (∀ y, s.net.windows.get? i = some y → y.farEp = some ep → y.exch = false)) ∨
          (ofs = 2 ∧ (∀ y, s.net.windows.get? i = some y → y.farEp = some ep → y.coll = false)) → .far ep 7 (farPsn p) [] ∈ t.out)) ∧
      (s.net.windows.get? i = some w → w.farEp = some ep → w.stash = false → ∀ b key, s.berthAt w.berth = some b → key = berthKey (handleIndex w.berth) ofs →
        (w.berth ≠ 0 → handleIndex w.berth ≠ 0 → ∀ h o, s.spanOfKey key = some (h, o) → h ≠ 0 → (s.berthAt h).isSome = true → berthKey (handleIndex h) o = key →
          (farType p = 1 → w.wr = true → ofs + n ≤ b.length → (∀ a ∈ b.homes ofs n, s.isLocal a = true ∧ s.resetTarget a = false ∧ s.exposes a (256 + ep) (·.wr) = true) → Answers (exec (.farPacket p) s) fun t => (∀ j v, p.payload[j]? = some v → cellGet t.mem.cells (key + j) = v) ∧
            (∀ a, (a < key ∨ key + n ≤ a) → s.offRecords key n a → cellGet t.mem.cells a = cellGet s.mem.cells a) ∧
            ∃ g, t.net.farFlows.get? ctx = some g ∧ g.nextRx = (farPsn p + 1) % 2 ^ 32) ∧
          (farType p = 2 → w.rd = true → ofs + n ≤ b.length → s.mem.clean key n = true → n ≤ s.farSegment ctx →
              (∀ a ∈ b.homes ofs n, s.isLocal a = true ∧ s.resetTarget a = false ∧ s.exposes a (256 + ep) (·.rd) = true) → Answers (exec (.farPacket p) s) fun t => .far ep 3 f.nextTx ((s.laSync key n).mem.read key n) ∈ t.out ∧
            (∀ a, s.offRecords key n a → cellGet t.mem.cells a = cellGet s.mem.cells a) ∧ ∃ g, t.net.farFlows.get? ctx = some g ∧ g.nextRx = (farPsn p + 1) % 2 ^ 32 ∧ g.nextTx = f.nextTx + 1)) ∧
        (farType p = 4 → w.acc = true → ofs + 12 * n ≤ b.length → (∀ a ∈ b.homes ofs (12 * n), s.isLocal a = true ∧ s.resetTarget a = false ∧ s.exposes a (256 + ep) (·.acc) = true) → Answers (exec (.farPacket p) s) fun t => t.comp = { s.comp with addends := s.comp.addends ++ addendsOf key p.payload } ∧
          s.only [.net, .out, .comp] t) ∧
        ((farType p = 1 ∧ w.wr = false) ∨ (farType p = 2 ∧ w.rd = false) ∨ (farType p = 4 ∧ w.acc = false) → Answers (exec (.farPacket p) s) fun t => s.only [.net, .out] t ∧
          .far ep 7 (farPsn p) [] ∈ t.out ∧ ∃ g, t.net.farFlows.get? ctx = some g ∧ g.nextRx = (farPsn p + 1) % 2 ^ 32) ∧
        (b.length < ofs + n → (farType p = 1 ∧ w.wr = true) ∨ (farType p = 2 ∧ w.rd = true) → Answers (exec (.farPacket p) s) fun t => s.only [.net, .out] t ∧ .far ep 7 (farPsn p) [] ∈ t.out) ∧
        (ofs + n ≤ b.length → (∃ a ∈ b.homes ofs n, s.exposes a (256 + ep) (if farType p = 1 then (·.wr) else (·.rd)) = false ∨ s.isLocal a = true ∧ s.resetTarget a = true) →
          (farType p = 1 ∧ w.wr = true) ∨ (farType p = 2 ∧ w.rd = true) → Answers (exec (.farPacket p) s) fun t => s.only [.net, .out] t ∧ .far ep 7 (farPsn p) [] ∈ t.out)))) ∧
  ((∀ (s : State) (ctx : Nat) (f : FarFlow), s.net.farFlows.get? ctx = some f → s.clocked = true →
    (f.unacked ≠ [] → f.sentAt + 25 * f.timeout ≤ s.now → Answers (exec (.farResend ctx) s) fun t => s.only [.net, .out, .cmd] t ∧
      (∀ i j, s.cmd.jobs.get? i = some j → t.cmd.jobs.get? i = some (if f.job ctx = some i then { j with resends := j.resends + f.unacked.length } else j)) ∧
      t.cmd = { s.cmd with jobs := t.cmd.jobs } ∧
      t.out = (f.unacked.map fun u => Out.far f.ep u.typ u.psn u.payload).reverse ++ s.out ∧
      t.net = { s.net with farFlows := s.net.farFlows.put ctx { f with sentAt := s.now, timeout := min 32000 (2 * f.timeout), resends := f.resends + 1 }, eth := t.net.eth }) ∧
    (max f.rateAt f.eceAt + 2500 ≤ s.now → Answers (exec (.farRateRaise ctx) s) fun t => s.only [.net] t ∧
      t.net = { s.net with farFlows := s.net.farFlows.put ctx { f with rate := min 800000 (f.rate + 1000), rateAt := s.now } })) ∧
  (∀ (s : State) (ep : Nat) (e : FarEp), s.net.farEps.get? ep = some e → s.clocked = true →
    (s.farHolds ep = true → e.probedAt + 250000 ≤ s.now → Answers (exec (.farProbe ep) s) fun t => t.out = .far ep 8 0 [] :: s.out ∧ s.only [.net, .out] t ∧
      t.net = { s.net with farEps := s.net.farEps.put ep { e with probedAt := s.now }, eth := t.net.eth }) ∧
    ((∃ f ∈ s.net.farFlows, f.2.ep = ep ∧ 12 ≤ f.2.resends) ∨ (e.present = true ∧ e.lastAt + 5000000 ≤ s.now) → Answers (exec (.farEndpointAbsent ep) s) fun t => t.farPresent ep = false ∧
      (∃ x, t.net.farEps.get? ep = some x ∧ e.inc ∈ x.dead) ∧ (∀ f ∈ t.net.farFlows, f.2.ep ≠ ep) ∧ (∀ k x, t.net.mirror.get? k = some x → k / 4096 ≠ 256 + ep) ∧
      t.health.total = s.health.total + 1 ∧ (∀ f i o g, s.net.farFlows = [f] → f.2.ep = ep → f.2.cmd = some (i, o) → s.prog i o = some g → g.outcome = none →
        (t.outcomeAt i o).map (·.status) = some 0x0404) ∧
      (∀ f u k b, f ∈ s.net.farFlows → f.2.ep = ep → u ∈ f.2.unacked → u.core = some (k, b) → (t.coreOf k).fault.isSome = true) ∧
      (∀ w, w ∈ t.wire.wants ∨ w ∈ t.wire.reads → w.endpoint ≠ some ep) ∧
      ∀ b ∈ t.place.berths, ∀ x ∈ b.2.pages, (gaSpace (pageAddr x.2.base) = 2 → pageAddr x.2.base / 2 ^ 52 % 256 = ep → x.2.st = .lost) ∧
        ∀ g, x.2.goal = some g → gaSpace (pageAddr g) ≠ 2 ∨ pageAddr g / 2 ^ 52 % 256 ≠ ep)))

/-! ### Ethernet, Cricket's network and the I3C window -/

/-- A received frame for the far-transport port is a far packet, one for Cricket joins its buffer as far as that has room, and any other goes to the operating system. A frame
that the operating system sends leaves when it keeps its port's lock and the rate limit has room, waits while it has none, and is dropped and counted when it breaks the
lock, which is written once. -/
def Obligations.Frames : Prop :=
  (∀ (s : State) (port : Nat) (f : Frame), port ≤ 2 → f.bytes.length ≤ 9216 → (port = 2 → s.i3cAnswers = true) → (port < 2 → s.clocked = true) →
    (s.farFrame port f = true ↔ port < 2 ∧ f.udpDst = some s.net.farPort ∧ ∃ a q l, f.dst6 = some a ∧ q < 2 ∧ (s.ethPort q).lock = some l ∧ a ∈ l.ips) ∧
    (port = 2 → f.dstMac = s.side.mac →
      (s.cricketHeld + f.bytes.length ≤ 65536 → exec (.ethernetFrame port f) s = .next (s.setWire { s.wire with cricketRx := s.wire.cricketRx ++ [f] })) ∧
      (65536 < s.cricketHeld + f.bytes.length → exec (.ethernetFrame port f) s = .next s)) ∧
    (port = 2 → f.dstMac ≠ s.side.mac → f.multicast = true → f.neighbourDiscovery = true → ∃ u : State, exec (.ethernetFrame port f) s = .next (if s.osRuns = true then u.emit (.osFrame port f) else u) ∧
      u.osRuns = s.osRuns ∧ (∀ q, State.same q s u) ∧ (s.cricketHeld + f.bytes.length ≤ 65536 → u.wire.cricketRx = s.wire.cricketRx ++ [f])) ∧
    (s.farFrame port f = true → s.farReady (farOfFrame f) = true → exec (.ethernetFrame port f) s =
      exec (if farType (farOfFrame f) = 9 then .farOpen (farOfFrame f) else if farType (farOfFrame f) = 10 then .farClose (farOfFrame f) else .farPacket (farOfFrame f)) s) ∧
    (s.farFrame port f = true → s.farReady (farOfFrame f) = false → exec (.ethernetFrame port f) s = .next s) ∧
    (port < 2 ∨ f.dstMac ≠ s.side.mac ∧ (f.multicast = false ∨ f.neighbourDiscovery = false) → s.farFrame port f = false →
      exec (.ethernetFrame port f) s = .next (if s.osRuns = true then s.emit (.osFrame port f) else s))) ∧
  (∀ (s : State) (port : Nat) (l : AddrLock), s.osRuns = true → port ≤ 2 → l.ips.length ≤ 8 → l.vlans.length ≤ 64 → 1000 ≤ l.rate → l.rate ≤ (if port = 2 then 25000 else 800000) →
    ((s.ethPort port).lock = none → Answers (exec (.addressLockWrite port l) s) fun t => s.only [.net] t ∧ t.ethPort port = { s.ethPort port with lock := some l } ∧
      ∀ q, q ≠ port → t.ethPort q = s.ethPort q) ∧
    ((s.ethPort port).lock ≠ none → exec (.addressLockWrite port l) s = .next s)) ∧
  (∀ (s : State) (port queue : Nat) (f : Frame) (e : EthPort), s.osRuns = true → port ≤ 2 → queue < 64 → f.bytes.length ≤ 9216 → e = s.ethPort port →
    (e.passes f = false → Answers (exec (.osFrameTransmit port ⟨queue, f⟩) s) fun t => t.ethPort port = { e with drops := e.drops + 1 } ∧ s.only [.net] t ∧ t.wire = s.wire ∧
      ∀ q, q ≠ port → t.ethPort q = s.ethPort q) ∧
    (e.passes f = true → (s.txPort port).waiting = 0 → (port = 2 → s.wire.cricketTx = []) →
      (f.bytes.length ≤ e.room s.now → Answers (exec (.osFrameTransmit port ⟨queue, f⟩) s) fun t => t.out = .frame port f :: s.out ∧ s.only [.net, .out] t ∧ (t.txPort port).waiting = 0 ∧
        (t.ethPort port).lock = e.lock ∧ (t.ethPort port).drops = e.drops ∧ ∀ l, e.lock = some l → f.bytes.length ≤ l.rate * 100 / 8 → (t.ethPort port).room s.now + f.bytes.length ≤ l.rate * 100 / 8) ∧
      (e.room s.now < f.bytes.length → Answers (exec (.osFrameTransmit port ⟨queue, f⟩) s) fun t => s.only [] t ∧ (t.txPort port).far = [] ∧ (t.txPort port).os = [(queue, f)]))) ∧
  (∀ (e : EthPort) (f : Frame), (e.lock = none → (e.passes f = true ↔ f.neighbourDiscovery = true ∧ ∃ a, f.src6 = some a ∧ a.extractLsb' 64 64 = 0xFE80000000000000#64)) ∧
    ∀ l, e.lock = some l → (e.passes f = true ↔ f.srcMac = l.mac ∧ (∀ a, f.src6 = some a → a ∈ l.ips) ∧ ∀ v, f.vlan = some v → v ∈ l.vlans))

/-- Cricket answers neighbour discovery, echoes and status requests for an address that it uses, and no other; a prefix gives it a tentative global address, at most four,
which is used once it has passed its duplicate address detection. The I3C target's common commands set or answer what they name. -/
def Obligations.CricketAndI3c : Prop :=
  ((∀ (s : State) (a : BitVec 128) (data : List Byte) (port : Nat), s.i3cAnswers = true →
    (s.cricketUses a = true → exec (.neighbourDiscovery a) s = .next (s.emit (.cricket a 136 (leBytes 6 s.side.mac.toNat).reverse)) ∧
      exec (.icmpv6Echo a data) s = .next (s.emit (.cricket a 129 data)) ∧ exec (.statusRequest a 48612) s = .next (s.emit (.cricket a 48612 s.window)) ∧
      (port ≠ 48612 → exec (.statusRequest a port) s = .next s)) ∧
    (s.cricketUses a = false → exec (.neighbourDiscovery a) s = .next s ∧ exec (.icmpv6Echo a data) s = .next s ∧ exec (.statusRequest a port) s = .next s)) ∧
  (∀ (s : State) (pfx : BitVec 64) (a : BitVec 128), s.i3cAnswers = true → a = pfx ++ eui64 s.side.mac → a ≠ s.linkLocal →
    ((s.side.addrs.filter fun x => x.1 != s.linkLocal).length < 4 → (∀ x ∈ s.side.addrs, x.1 ≠ a) → Answers (exec (.routerAdvertisement pfx true) s) fun t => s.only [.side] t ∧
      t.side = { s.side with addrs := s.side.addrs ++ [(a, false)] } ∧ t.cricketUses a = false) ∧
    (4 ≤ (s.side.addrs.filter fun x => x.1 != s.linkLocal).length → exec (.routerAdvertisement pfx true) s = .next s) ∧ exec (.routerAdvertisement pfx false) s = .next s) ∧
  (∀ (s : State) (a : BitVec 128), s.i3cAnswers = true →
    (a ≠ s.linkLocal → (a, false) ∈ s.side.addrs → Answers (exec (.duplicateAddressDetection a false) s) fun t => t.cricketUses a = true ∧ s.only [.side] t ∧
      ∀ b, b ≠ a → t.cricketUses b = s.cricketUses b) ∧
    (a ≠ s.linkLocal → Answers (exec (.duplicateAddressDetection a true) s) fun t => t.cricketUses a = false ∧ ∀ b, b ≠ a → t.cricketUses b = s.cricketUses b) ∧
    (a = s.linkLocal → Answers (exec (.duplicateAddressDetection a true) s) (fun t => t.cricketUses a = false) ∧ exec (.duplicateAddressDetection a false) s = .next s))) ∧
  ((∀ (s : State) (c : Instr) (bs : List Byte), s.i3cAnswers = true → (c, bs) ∈ [(Instr.getpid, (leBytes 6 (Config.manufacturerCode.toNat * 2 ^ 33 + 0x51AE * 2 ^ 16 + s.side.slot.toNat * 2 ^ 12)).reverse),
    (.getbcr, [0]), (.getdcr, [0]), (.getmwl, [s.side.mwl.extractLsb' 8 8, s.side.mwl.extractLsb' 0 8]), (.getmrl, [s.side.mrl.extractLsb' 8 8, s.side.mrl.extractLsb' 0 8])] →
    exec c s = .next (s.emit (.i3c bs))) ∧
  (∀ (s : State), s.i3cAnswers = true → Answers (exec .getstatus s) fun t => s.only [.out, .free] t ∧ ∃ a b, t.out = .i3c [a, b] :: s.out) ∧
  (∀ (s : State) (len : BitVec 16), s.i3cAnswers = true → exec (.setmwl len) s = .next (s.setSide { s.side with mwl := len }) ∧ exec (.setmrl len) s = .next (s.setSide { s.side with mrl := len }) ∧
    exec .rstdaa s = .next (s.setSide { s.side with dynAddr := none })) ∧
  (∀ (s : State) (static addr : BitVec 7), s.i3cAnswers = true →
    (s.side.dynAddr = none → exec (.entdaa addr) s = .next (s.setSide { s.side with dynAddr := some addr }) ∧
      (static.toNat = 48 + s.side.slot.toNat → exec (.setdasa static addr) s = .next (s.setSide { s.side with dynAddr := some addr }))) ∧
    (s.side.dynAddr ≠ none ∨ static.toNat ≠ 48 + s.side.slot.toNat → exec (.setdasa static addr) s = .next s) ∧ (s.side.dynAddr ≠ none → exec (.entdaa addr) s = .next s)) ∧
  (∀ (s : State) (c : Instr), s.i3cAnswers = false → c ∈ [Instr.getpid, .getbcr, .getdcr, .getmwl, .getmrl, .getstatus, .rstdaa] → exec c s = .next s))

/-- The I3C register window: private transfers set the pointer, read from it and write whole registers; causes are cleared by ones, the mask keeps its seven bits, and CONTROL
enters or leaves recovery mode with its key where that is allowed, or sets REJECTED. The loader takes an image of LEN bytes in recovery mode, checks it when it is whole,
and writes it to flash and starts from it when it is valid. An input outside 46.0 V to 60.0 V latches the supply cause, and PROMISE holds only inside the envelope. -/
def Obligations.RecoveryAndEnvelope : Prop :=
  ((∀ (s : State) (n : Nat), s.i3cAnswers = true → Answers (exec (.privateRead n) s) fun t => s.only [.side, .out] t ∧ t.side = { s.side with ptr := s.side.ptr + BitVec.ofNat 16 n, latch := t.side.latch } ∧
    (∃ bs, t.out = .i3c bs :: s.out ∧ bs.length = n ∧ ∀ i < n, ∀ o r, o = (s.side.ptr.toNat + i) % 65536 → r = o / 8 * 8 →
      (longReg o = false ∨ s.transfers n r = true → bs[i]? = some (s.window.getD o 0)) ∧
      (∀ v, longReg o = true → s.transfers n r = false → s.side.latch.get? r = some v → bs[i]? = some (v.extractLsb' (8 * (o % 8)) 8))) ∧
    ∀ i < 10, i ≠ 3 → (s.transfers n (8 * i) = true → t.side.latch.get? (8 * i) = some (BitVec.ofNat 64 (leNat ((s.window.drop (8 * i)).take 8)))) ∧
      (s.transfers n (8 * i) = false → t.side.latch.get? (8 * i) = s.side.latch.get? (8 * i))) ∧
  (∀ (s : State), s.window.length = 80 ∧ (s.window.drop 8).take 8 = bytesOf s.chip.fp ∧ (s.window.drop 24).take 4 = bytesOf s.side.attnCause ∧ (s.window.drop 28).take 4 = bytesOf s.side.attnMask ∧
    (s.window.drop 40).take 8 = leBytes 8 s.now ∧ (s.window.drop 56).take 8 = leBytes 8 (if s.side.rejected = true then 4 else 0)) ∧
  (∀ (s : State) (o : Nat) (data : List Byte) (v : Nat), s.i3cAnswers = true → o < 65536 → v = leNat data →
    Answers (exec (.windowPointerWrite (leBytes 2 o ++ data)) s) (fun t => t.side.ptr = BitVec.ofNat 16 (o + data.length)) ∧
    (data = [] → exec (.windowPointerWrite (leBytes 2 o ++ data)) s = .next (s.setSide { s.side with ptr := BitVec.ofNat 16 o })) ∧
    (o = 0x18 → data.length = 4 → exec (.windowPointerWrite (leBytes 2 o ++ data)) s = .next (s.setSide { s.side with ptr := 0x1C, attnCause := s.side.attnCause &&& ~~~(BitVec.ofNat 32 v) })) ∧
    (o = 0x1C → data.length = 4 → exec (.windowPointerWrite (leBytes 2 o ++ data)) s = .next (s.setSide { s.side with ptr := 0x20, attnMask := BitVec.ofNat 32 v &&& 0x7F#32 })) ∧
    (o = 0x38 → data.length = 8 → ∀ u w, u = s.setSide { s.side with ptr := 0x40 } → w = BitVec.ofNat 64 v →
      exec (.windowPointerWrite (leBytes 2 o ++ data)) s = exec (if w.getLsbD 0 = true then .recover w else .exit w) u) ∧
    (o = 0x40 → data.length = 8 → exec (.windowPointerWrite (leBytes 2 o ++ data)) s = exec (.loaderLen (BitVec.ofNat 64 v)) (s.setSide { s.side with ptr := 0x48 })) ∧
    (o = 0x100 → data ≠ [] → exec (.windowPointerWrite (leBytes 2 o ++ data)) s = exec (.loaderData data) (s.setSide { s.side with ptr := BitVec.ofNat 16 (0x100 + data.length) })) ∧
    (o < 0x18 → o + data.length < 0x1C → exec (.windowPointerWrite (leBytes 2 o ++ data)) s = .next (s.setSide { s.side with ptr := BitVec.ofNat 16 (o + data.length) }))) ∧
  (∀ (s : State) (w : BitVec 32), s.i3cAnswers = true → exec (.attnCause w) s = .next (s.setSide { s.side with attnCause := s.side.attnCause &&& ~~~w })) ∧
  (∀ (s : State) (w : BitVec 64) (c : Instr) (key : Prop), s.i3cAnswers = true → key = (w.extractLsb' 48 16 = 0x5A3C#16) → (c = .recover w ∧ w.getLsbD 0 = true) ∨ (c = .exit w ∧ w.getLsbD 0 = false) →
    (key → w.getLsbD 0 = true → w.getLsbD 1 = false → s.mayRecover = true → Answers (exec c s) fun t => t.side.pstate = .recovery ∧ t.side.rejected = false ∧ t.side.attnCause.getLsbD 2 = true ∧
      t.side.lstate = 0 ∧ t.side.rcvd = 0 ∧ s.only [.side] t) ∧
    (key → w.getLsbD 0 = false → w.getLsbD 1 = true → s.side.pstate = .recovery → s.side.lstate ≠ 1 → Answers (exec c s) fun t => t.side.rejected = false ∧ s.only [.side, .ledger] t ∧
      (t.side.pstate = .standby ∨ t.side.pstate = .starting) ∧ (s.side.pwrEn = false → t.side.pstate = .standby)) ∧
    (¬ key ∨ w.getLsbD 0 = w.getLsbD 1 ∨ (w.getLsbD 0 = true ∧ s.mayRecover = false) ∨ (w.getLsbD 1 = true ∧ (s.side.pstate ≠ .recovery ∨ s.side.lstate = 1) ∧ w.getLsbD 0 = false) →
      exec c s = .next (s.setSide { s.side with rejected := true }))) ∧
  (∀ (s : State), s.mayRecover = true ↔ s.side.pstate ≠ .tripped ∧ (s.side.pstate = .standby ∨ s.side.halted = true ∨ s.side.resetN = true))) ∧
  ((∀ (s : State) (w : BitVec 64) (n : Nat), s.i3cAnswers = true → n = bitsOf w.toNat 27 0 →
    (s.side.pstate = .recovery → s.side.lstate ≠ 2 → 257 ≤ n → n ≤ 67108864 → exec (.loaderLen w) s = .next (s.setSide { s.side with lstate := 1, rcvd := 0, llen := n, limage := [] })) ∧
    (s.side.pstate ≠ .recovery ∨ s.side.lstate = 2 ∨ n < 257 ∨ 67108864 < n → exec (.loaderLen w) s = .next s)) ∧
  (∀ (s : State) (bs im : List Byte), s.i3cAnswers = true → im = (s.side.limage ++ bs.take 256).take s.side.llen →
    (s.side.pstate = .recovery → s.side.lstate = 1 → exec (.loaderData bs) s = .next (s.setSide { s.side with limage := im, rcvd := im.length, lstate := if im.length = s.side.llen then 2 else 1 })) ∧
    (s.side.pstate ≠ .recovery ∨ s.side.lstate ≠ 1 → exec (.loaderData bs) s = .next s)) ∧
  (∀ (s : State), s.i3cAnswers = true → s.side.pstate = .recovery → s.side.lstate = 2 → Answers (exec .imageCheck s) fun t => s.only [.side, .ledger] t ∧ t.side.limage = [] ∧
    (imageValid s.side.limage = true → t.side.lstate = 3 ∧ t.side.fwImage = s.side.limage ∧ t.side.fwMeas = imageMeas s.side.limage ∧ t.side.pstate ≠ .recovery ∧
      t.counter 17 = min (2 ^ 64 - 1) (s.counter 17 + 1)) ∧
    (imageValid s.side.limage = false → t.side.lstate = 4 ∧ t.side.fwImage = s.side.fwImage ∧ t.side.pstate = .recovery) ∧
    (s.ledger.perm.length < 5461 → ∃ x, t.ledger.perm = s.ledger.perm ++ [x] ∧ x.typ = 7 ∧ x.measB = imageMeas s.side.limage ∧ x.data.take 1 = [if imageValid s.side.limage = true then 1 else 0])) ∧
  (∀ (s : State) (vin : Nat) (other : Bool), s.side.v54 = true → 4400 ≤ vin → vin ≤ 6200 → Answers (exec (.envelopeExcursion vin other) s) fun t => s.only [.side] t ∧ t.side.vin = vin ∧
    (t.side.envelopeOk = true ↔ 4600 ≤ vin ∧ vin ≤ 6000 ∧ other = false) ∧ (vin < 4600 ∨ 6000 < vin → t.side.attnCause.getLsbD 4 = true) ∧ (4600 ≤ vin → vin ≤ 6000 → t.side.attnCause = s.side.attnCause) ∧
    (t.side.envelopeOk = false → t.promise = false)))

/-! ### Reset and idling -/

/-- What the spec states of the machine right after reset, with 54 V just good: STANDBY before stage 1, no cause latched and every cause unmasked, no register of a ring, no
berth, plan, window or event, the counter at 0, the power cap 3,200 W, and memory with nothing written. What stands at a value of the model's choice (log 5) is not among
this. -/
def Obligations.AtReset : Prop :=
  State.reset.side.pstate = .standby ∧ State.reset.side.stageDone = 0 ∧ State.reset.side.attnCause = 0 ∧ State.reset.side.attnMask = 0x7F#32 ∧ State.reset.side.pg = false ∧
    State.reset.side.resetCause = 0 ∧ State.reset.side.rejected = false ∧ State.reset.side.lstate = 0 ∧ State.reset.now = 0 ∧ State.reset.clk.calendar = none ∧
    State.reset.chip.cap = 3200 ∧ (∀ n, (State.reset.ring n).st = .closed ∧ (State.reset.ring n).tail = 0 ∧ (State.reset.ring n).done = 0) ∧ State.reset.place.berths = [] ∧ State.reset.exch.plans = [] ∧
    State.reset.net.windows = [] ∧ State.reset.health.events = [] ∧ State.reset.pending = [] ∧ State.reset.mem.cells = [] ∧ State.reset.clocked = false ∧ State.reset.startWord = 0x1000

/-- With no command waiting, a step lets the always-on counter advance by one count: accesses that wait leave, Cricket takes the oldest frame that it has received, seconds of
service count, and a command waits for the network while a packet of it is ready that no port has sent; where nothing waits to leave, only the counts change (DESIGN
CHOICE, log 4: the commands carry no time, so the idle step is the tick of R355's counter). -/
def Obligations.IdleTick : Prop :=
  ∀ s : State, s.pending = [] → (s.side.v54 = true → Answers (step s) fun t => t.clk = { s.clk with counter := s.clk.counter + 1 } ∧ s.only [.clk, .ledger, .cmd, .net, .out, .free] t ∧
      (s.clocked = true → t.wire.wants = []) ∧ (s.i3cAnswers = true → t.wire.cricketRx = s.wire.cricketRx.drop 1) ∧
      (s.wire.wants = [] → s.wire.cricketRx = [] → s.wire.cricketTx = [] → (∀ p, (s.txPort p).waiting = 0) → s.only [.clk, .ledger, .cmd] t ∧ t.wire = s.wire ∧
        ((∀ g ∈ s.cmd.progs, s.waitClasses (g.ring, g.at_) = []) → t.cmd = s.cmd) ∧
        (∀ g c, s.cmd.progs = [g] → s.waitClasses (g.ring, g.at_) = [c] → t.cmd.progs = [{ g with netWait := g.netWait + 1 }] ∧
          (∀ i j, g.ring ≠ 256 → i = g.ring / 4 → s.cmd.jobs.get? i = some j → t.jobIs i fun y => y.netWait.getD c 0 = j.netWait.getD c 0 + 1))) ∧
      (t.now % 25000000 ≠ 0 → t.ledger = s.ledger) ∧ (t.now % 25000000 = 0 → t.counter 0 = min (2 ^ 64 - 1) (s.counter 0 + 1))) ∧
    (s.side.v54 = false → step s = .next s)
end

