-- ==== Sys2Proof/Laws/Maps.lean ====
section
/-! SUPPORT. Sparse maps: what is read after a write, a removal and a change of values. -/

namespace Sys2Proof

variable {α : Type}

@[simp] theorem AMap.get?_put_self (m : AMap α) (k : Nat) (v : α) : AMap.get? (AMap.put m k v) k = some v := by
  induction m with
  | nil => simp [AMap.put, AMap.get?]
  | cons c t ih =>
    obtain ⟨k', v'⟩ := c
    by_cases h : k < k'
    · simp [AMap.put, AMap.get?, h]
    · by_cases e : k = k'
      · simp [AMap.put, AMap.get?, e]
      · simp [AMap.put, AMap.get?, h, e, Ne.symm e, ih]

theorem AMap.get?_put_other (m : AMap α) (k j : Nat) (v : α) (h : j ≠ k) : AMap.get? (AMap.put m k v) j = AMap.get? m j := by
  induction m with
  | nil => simp [AMap.put, AMap.get?, Ne.symm h]
  | cons c t ih =>
    obtain ⟨k', v'⟩ := c
    by_cases l : k < k'
    · simp [AMap.put, AMap.get?, l, Ne.symm h]
    · by_cases e : k = k'
      · subst e; simp [AMap.put, AMap.get?, Ne.symm h]
      · simp [AMap.put, AMap.get?, l, e, ih]

@[simp] theorem AMap.getD_put_self (m : AMap α) (k : Nat) (v d : α) : AMap.getD (AMap.put m k v) k d = v := by
  simp [AMap.getD]

theorem AMap.getD_put_other (m : AMap α) (k j : Nat) (v d : α) (h : j ≠ k) : AMap.getD (AMap.put m k v) j d = AMap.getD m j d := by
  simp [AMap.getD, AMap.get?_put_other m k j v h]

@[simp] theorem AMap.get?_drop_self (m : AMap α) (k : Nat) : AMap.get? (AMap.drop m k) k = none := by
  induction m with
  | nil => rfl
  | cons c t ih =>
    obtain ⟨k', v'⟩ := c
    by_cases e : k' = k
    · simp [AMap.drop, e, ih]
    · simp [AMap.drop, AMap.get?, e, ih]

theorem AMap.get?_drop_other (m : AMap α) (k j : Nat) (h : j ≠ k) : AMap.get? (AMap.drop m k) j = AMap.get? m j := by
  induction m with
  | nil => rfl
  | cons c t ih =>
    obtain ⟨k', v'⟩ := c
    by_cases e : k' = k
    · subst e; simp [AMap.drop, AMap.get?, Ne.symm h, ih]
    · by_cases f : k' = j
      · subst f; simp [AMap.drop, AMap.get?, h]
      · simp [AMap.drop, AMap.get?, e, f, ih]

theorem AMap.get?_mapVals (m : AMap α) (f : Nat → α → α) (k : Nat) : AMap.get? (AMap.mapVals m f) k = (AMap.get? m k).map (f k) := by
  induction m with
  | nil => rfl
  | cons c t ih =>
    obtain ⟨k', v'⟩ := c
    by_cases e : k' = k
    · subst e; simp [AMap.mapVals, AMap.get?]
    · simpa [AMap.mapVals, AMap.get?, e] using ih

end Sys2Proof
end

