-- ==== Sys2Proof/Laws/State.lean ====
section
/-! SUPPORT. What each component of the state is after each component is replaced. -/

namespace Sys2Proof.Machine

/-! ### setPending -/

@[simp] theorem State.setPending_pending (s : State) (v : List Instr) : (s.setPending v).pending = v := rfl
@[simp] theorem State.setPending_clk (s : State) (v : List Instr) : (s.setPending v).clk = s.clk := rfl
@[simp] theorem State.setPending_side (s : State) (v : List Instr) : (s.setPending v).side = s.side := rfl
@[simp] theorem State.setPending_ledger (s : State) (v : List Instr) : (s.setPending v).ledger = s.ledger := rfl
@[simp] theorem State.setPending_chip (s : State) (v : List Instr) : (s.setPending v).chip = s.chip := rfl
@[simp] theorem State.setPending_comp (s : State) (v : List Instr) : (s.setPending v).comp = s.comp := rfl
@[simp] theorem State.setPending_mem (s : State) (v : List Instr) : (s.setPending v).mem = s.mem := rfl
@[simp] theorem State.setPending_place (s : State) (v : List Instr) : (s.setPending v).place = s.place := rfl
@[simp] theorem State.setPending_cmd (s : State) (v : List Instr) : (s.setPending v).cmd = s.cmd := rfl
@[simp] theorem State.setPending_quay (s : State) (v : List Instr) : (s.setPending v).quay = s.quay := rfl
@[simp] theorem State.setPending_exch (s : State) (v : List Instr) : (s.setPending v).exch = s.exch := rfl
@[simp] theorem State.setPending_coll (s : State) (v : List Instr) : (s.setPending v).coll = s.coll := rfl
@[simp] theorem State.setPending_net (s : State) (v : List Instr) : (s.setPending v).net = s.net := rfl
@[simp] theorem State.setPending_health (s : State) (v : List Instr) : (s.setPending v).health = s.health := rfl
@[simp] theorem State.setPending_wire (s : State) (v : List Instr) : (s.setPending v).wire = s.wire := rfl
@[simp] theorem State.setPending_out (s : State) (v : List Instr) : (s.setPending v).out = s.out := rfl
@[simp] theorem State.setPending_free (s : State) (v : List Instr) : (s.setPending v).free = s.free := rfl

/-! ### setClk -/

@[simp] theorem State.setClk_pending (s : State) (v : Clk) : (s.setClk v).pending = s.pending := rfl
@[simp] theorem State.setClk_clk (s : State) (v : Clk) : (s.setClk v).clk = v := rfl
@[simp] theorem State.setClk_side (s : State) (v : Clk) : (s.setClk v).side = s.side := rfl
@[simp] theorem State.setClk_ledger (s : State) (v : Clk) : (s.setClk v).ledger = s.ledger := rfl
@[simp] theorem State.setClk_chip (s : State) (v : Clk) : (s.setClk v).chip = s.chip := rfl
@[simp] theorem State.setClk_comp (s : State) (v : Clk) : (s.setClk v).comp = s.comp := rfl
@[simp] theorem State.setClk_mem (s : State) (v : Clk) : (s.setClk v).mem = s.mem := rfl
@[simp] theorem State.setClk_place (s : State) (v : Clk) : (s.setClk v).place = s.place := rfl
@[simp] theorem State.setClk_cmd (s : State) (v : Clk) : (s.setClk v).cmd = s.cmd := rfl
@[simp] theorem State.setClk_quay (s : State) (v : Clk) : (s.setClk v).quay = s.quay := rfl
@[simp] theorem State.setClk_exch (s : State) (v : Clk) : (s.setClk v).exch = s.exch := rfl
@[simp] theorem State.setClk_coll (s : State) (v : Clk) : (s.setClk v).coll = s.coll := rfl
@[simp] theorem State.setClk_net (s : State) (v : Clk) : (s.setClk v).net = s.net := rfl
@[simp] theorem State.setClk_health (s : State) (v : Clk) : (s.setClk v).health = s.health := rfl
@[simp] theorem State.setClk_wire (s : State) (v : Clk) : (s.setClk v).wire = s.wire := rfl
@[simp] theorem State.setClk_out (s : State) (v : Clk) : (s.setClk v).out = s.out := rfl
@[simp] theorem State.setClk_free (s : State) (v : Clk) : (s.setClk v).free = s.free := rfl

/-! ### setSide -/

@[simp] theorem State.setSide_pending (s : State) (v : Side) : (s.setSide v).pending = s.pending := rfl
@[simp] theorem State.setSide_clk (s : State) (v : Side) : (s.setSide v).clk = s.clk := rfl
@[simp] theorem State.setSide_side (s : State) (v : Side) : (s.setSide v).side = v := rfl
@[simp] theorem State.setSide_ledger (s : State) (v : Side) : (s.setSide v).ledger = s.ledger := rfl
@[simp] theorem State.setSide_chip (s : State) (v : Side) : (s.setSide v).chip = s.chip := rfl
@[simp] theorem State.setSide_comp (s : State) (v : Side) : (s.setSide v).comp = s.comp := rfl
@[simp] theorem State.setSide_mem (s : State) (v : Side) : (s.setSide v).mem = s.mem := rfl
@[simp] theorem State.setSide_place (s : State) (v : Side) : (s.setSide v).place = s.place := rfl
@[simp] theorem State.setSide_cmd (s : State) (v : Side) : (s.setSide v).cmd = s.cmd := rfl
@[simp] theorem State.setSide_quay (s : State) (v : Side) : (s.setSide v).quay = s.quay := rfl
@[simp] theorem State.setSide_exch (s : State) (v : Side) : (s.setSide v).exch = s.exch := rfl
@[simp] theorem State.setSide_coll (s : State) (v : Side) : (s.setSide v).coll = s.coll := rfl
@[simp] theorem State.setSide_net (s : State) (v : Side) : (s.setSide v).net = s.net := rfl
@[simp] theorem State.setSide_health (s : State) (v : Side) : (s.setSide v).health = s.health := rfl
@[simp] theorem State.setSide_wire (s : State) (v : Side) : (s.setSide v).wire = s.wire := rfl
@[simp] theorem State.setSide_out (s : State) (v : Side) : (s.setSide v).out = s.out := rfl
@[simp] theorem State.setSide_free (s : State) (v : Side) : (s.setSide v).free = s.free := rfl

/-! ### setLedger -/

@[simp] theorem State.setLedger_pending (s : State) (v : Ledger) : (s.setLedger v).pending = s.pending := rfl
@[simp] theorem State.setLedger_clk (s : State) (v : Ledger) : (s.setLedger v).clk = s.clk := rfl
@[simp] theorem State.setLedger_side (s : State) (v : Ledger) : (s.setLedger v).side = s.side := rfl
@[simp] theorem State.setLedger_ledger (s : State) (v : Ledger) : (s.setLedger v).ledger = v := rfl
@[simp] theorem State.setLedger_chip (s : State) (v : Ledger) : (s.setLedger v).chip = s.chip := rfl
@[simp] theorem State.setLedger_comp (s : State) (v : Ledger) : (s.setLedger v).comp = s.comp := rfl
@[simp] theorem State.setLedger_mem (s : State) (v : Ledger) : (s.setLedger v).mem = s.mem := rfl
@[simp] theorem State.setLedger_place (s : State) (v : Ledger) : (s.setLedger v).place = s.place := rfl
@[simp] theorem State.setLedger_cmd (s : State) (v : Ledger) : (s.setLedger v).cmd = s.cmd := rfl
@[simp] theorem State.setLedger_quay (s : State) (v : Ledger) : (s.setLedger v).quay = s.quay := rfl
@[simp] theorem State.setLedger_exch (s : State) (v : Ledger) : (s.setLedger v).exch = s.exch := rfl
@[simp] theorem State.setLedger_coll (s : State) (v : Ledger) : (s.setLedger v).coll = s.coll := rfl
@[simp] theorem State.setLedger_net (s : State) (v : Ledger) : (s.setLedger v).net = s.net := rfl
@[simp] theorem State.setLedger_health (s : State) (v : Ledger) : (s.setLedger v).health = s.health := rfl
@[simp] theorem State.setLedger_wire (s : State) (v : Ledger) : (s.setLedger v).wire = s.wire := rfl
@[simp] theorem State.setLedger_out (s : State) (v : Ledger) : (s.setLedger v).out = s.out := rfl
@[simp] theorem State.setLedger_free (s : State) (v : Ledger) : (s.setLedger v).free = s.free := rfl

/-! ### setChip -/

@[simp] theorem State.setChip_pending (s : State) (v : Chip) : (s.setChip v).pending = s.pending := rfl
@[simp] theorem State.setChip_clk (s : State) (v : Chip) : (s.setChip v).clk = s.clk := rfl
@[simp] theorem State.setChip_side (s : State) (v : Chip) : (s.setChip v).side = s.side := rfl
@[simp] theorem State.setChip_ledger (s : State) (v : Chip) : (s.setChip v).ledger = s.ledger := rfl
@[simp] theorem State.setChip_chip (s : State) (v : Chip) : (s.setChip v).chip = v := rfl
@[simp] theorem State.setChip_comp (s : State) (v : Chip) : (s.setChip v).comp = s.comp := rfl
@[simp] theorem State.setChip_mem (s : State) (v : Chip) : (s.setChip v).mem = s.mem := rfl
@[simp] theorem State.setChip_place (s : State) (v : Chip) : (s.setChip v).place = s.place := rfl
@[simp] theorem State.setChip_cmd (s : State) (v : Chip) : (s.setChip v).cmd = s.cmd := rfl
@[simp] theorem State.setChip_quay (s : State) (v : Chip) : (s.setChip v).quay = s.quay := rfl
@[simp] theorem State.setChip_exch (s : State) (v : Chip) : (s.setChip v).exch = s.exch := rfl
@[simp] theorem State.setChip_coll (s : State) (v : Chip) : (s.setChip v).coll = s.coll := rfl
@[simp] theorem State.setChip_net (s : State) (v : Chip) : (s.setChip v).net = s.net := rfl
@[simp] theorem State.setChip_health (s : State) (v : Chip) : (s.setChip v).health = s.health := rfl
@[simp] theorem State.setChip_wire (s : State) (v : Chip) : (s.setChip v).wire = s.wire := rfl
@[simp] theorem State.setChip_out (s : State) (v : Chip) : (s.setChip v).out = s.out := rfl
@[simp] theorem State.setChip_free (s : State) (v : Chip) : (s.setChip v).free = s.free := rfl

/-! ### setComp -/

@[simp] theorem State.setComp_pending (s : State) (v : Comp) : (s.setComp v).pending = s.pending := rfl
@[simp] theorem State.setComp_clk (s : State) (v : Comp) : (s.setComp v).clk = s.clk := rfl
@[simp] theorem State.setComp_side (s : State) (v : Comp) : (s.setComp v).side = s.side := rfl
@[simp] theorem State.setComp_ledger (s : State) (v : Comp) : (s.setComp v).ledger = s.ledger := rfl
@[simp] theorem State.setComp_chip (s : State) (v : Comp) : (s.setComp v).chip = s.chip := rfl
@[simp] theorem State.setComp_comp (s : State) (v : Comp) : (s.setComp v).comp = v := rfl
@[simp] theorem State.setComp_mem (s : State) (v : Comp) : (s.setComp v).mem = s.mem := rfl
@[simp] theorem State.setComp_place (s : State) (v : Comp) : (s.setComp v).place = s.place := rfl
@[simp] theorem State.setComp_cmd (s : State) (v : Comp) : (s.setComp v).cmd = s.cmd := rfl
@[simp] theorem State.setComp_quay (s : State) (v : Comp) : (s.setComp v).quay = s.quay := rfl
@[simp] theorem State.setComp_exch (s : State) (v : Comp) : (s.setComp v).exch = s.exch := rfl
@[simp] theorem State.setComp_coll (s : State) (v : Comp) : (s.setComp v).coll = s.coll := rfl
@[simp] theorem State.setComp_net (s : State) (v : Comp) : (s.setComp v).net = s.net := rfl
@[simp] theorem State.setComp_health (s : State) (v : Comp) : (s.setComp v).health = s.health := rfl
@[simp] theorem State.setComp_wire (s : State) (v : Comp) : (s.setComp v).wire = s.wire := rfl
@[simp] theorem State.setComp_out (s : State) (v : Comp) : (s.setComp v).out = s.out := rfl
@[simp] theorem State.setComp_free (s : State) (v : Comp) : (s.setComp v).free = s.free := rfl

/-! ### setMem -/

@[simp] theorem State.setMem_pending (s : State) (v : Mem) : (s.setMem v).pending = s.pending := rfl
@[simp] theorem State.setMem_clk (s : State) (v : Mem) : (s.setMem v).clk = s.clk := rfl
@[simp] theorem State.setMem_side (s : State) (v : Mem) : (s.setMem v).side = s.side := rfl
@[simp] theorem State.setMem_ledger (s : State) (v : Mem) : (s.setMem v).ledger = s.ledger := rfl
@[simp] theorem State.setMem_chip (s : State) (v : Mem) : (s.setMem v).chip = s.chip := rfl
@[simp] theorem State.setMem_comp (s : State) (v : Mem) : (s.setMem v).comp = s.comp := rfl
@[simp] theorem State.setMem_mem (s : State) (v : Mem) : (s.setMem v).mem = v := rfl
@[simp] theorem State.setMem_place (s : State) (v : Mem) : (s.setMem v).place = s.place := rfl
@[simp] theorem State.setMem_cmd (s : State) (v : Mem) : (s.setMem v).cmd = s.cmd := rfl
@[simp] theorem State.setMem_quay (s : State) (v : Mem) : (s.setMem v).quay = s.quay := rfl
@[simp] theorem State.setMem_exch (s : State) (v : Mem) : (s.setMem v).exch = s.exch := rfl
@[simp] theorem State.setMem_coll (s : State) (v : Mem) : (s.setMem v).coll = s.coll := rfl
@[simp] theorem State.setMem_net (s : State) (v : Mem) : (s.setMem v).net = s.net := rfl
@[simp] theorem State.setMem_health (s : State) (v : Mem) : (s.setMem v).health = s.health := rfl
@[simp] theorem State.setMem_wire (s : State) (v : Mem) : (s.setMem v).wire = s.wire := rfl
@[simp] theorem State.setMem_out (s : State) (v : Mem) : (s.setMem v).out = s.out := rfl
@[simp] theorem State.setMem_free (s : State) (v : Mem) : (s.setMem v).free = s.free := rfl

/-! ### setPlace -/

@[simp] theorem State.setPlace_pending (s : State) (v : Place) : (s.setPlace v).pending = s.pending := rfl
@[simp] theorem State.setPlace_clk (s : State) (v : Place) : (s.setPlace v).clk = s.clk := rfl
@[simp] theorem State.setPlace_side (s : State) (v : Place) : (s.setPlace v).side = s.side := rfl
@[simp] theorem State.setPlace_ledger (s : State) (v : Place) : (s.setPlace v).ledger = s.ledger := rfl
@[simp] theorem State.setPlace_chip (s : State) (v : Place) : (s.setPlace v).chip = s.chip := rfl
@[simp] theorem State.setPlace_comp (s : State) (v : Place) : (s.setPlace v).comp = s.comp := rfl
@[simp] theorem State.setPlace_mem (s : State) (v : Place) : (s.setPlace v).mem = s.mem := rfl
@[simp] theorem State.setPlace_place (s : State) (v : Place) : (s.setPlace v).place = v := rfl
@[simp] theorem State.setPlace_cmd (s : State) (v : Place) : (s.setPlace v).cmd = s.cmd := rfl
@[simp] theorem State.setPlace_quay (s : State) (v : Place) : (s.setPlace v).quay = s.quay := rfl
@[simp] theorem State.setPlace_exch (s : State) (v : Place) : (s.setPlace v).exch = s.exch := rfl
@[simp] theorem State.setPlace_coll (s : State) (v : Place) : (s.setPlace v).coll = s.coll := rfl
@[simp] theorem State.setPlace_net (s : State) (v : Place) : (s.setPlace v).net = s.net := rfl
@[simp] theorem State.setPlace_health (s : State) (v : Place) : (s.setPlace v).health = s.health := rfl
@[simp] theorem State.setPlace_wire (s : State) (v : Place) : (s.setPlace v).wire = s.wire := rfl
@[simp] theorem State.setPlace_out (s : State) (v : Place) : (s.setPlace v).out = s.out := rfl
@[simp] theorem State.setPlace_free (s : State) (v : Place) : (s.setPlace v).free = s.free := rfl

/-! ### setCmd -/

@[simp] theorem State.setCmd_pending (s : State) (v : Cmd) : (s.setCmd v).pending = s.pending := rfl
@[simp] theorem State.setCmd_clk (s : State) (v : Cmd) : (s.setCmd v).clk = s.clk := rfl
@[simp] theorem State.setCmd_side (s : State) (v : Cmd) : (s.setCmd v).side = s.side := rfl
@[simp] theorem State.setCmd_ledger (s : State) (v : Cmd) : (s.setCmd v).ledger = s.ledger := rfl
@[simp] theorem State.setCmd_chip (s : State) (v : Cmd) : (s.setCmd v).chip = s.chip := rfl
@[simp] theorem State.setCmd_comp (s : State) (v : Cmd) : (s.setCmd v).comp = s.comp := rfl
@[simp] theorem State.setCmd_mem (s : State) (v : Cmd) : (s.setCmd v).mem = s.mem := rfl
@[simp] theorem State.setCmd_place (s : State) (v : Cmd) : (s.setCmd v).place = s.place := rfl
@[simp] theorem State.setCmd_cmd (s : State) (v : Cmd) : (s.setCmd v).cmd = v := rfl
@[simp] theorem State.setCmd_quay (s : State) (v : Cmd) : (s.setCmd v).quay = s.quay := rfl
@[simp] theorem State.setCmd_exch (s : State) (v : Cmd) : (s.setCmd v).exch = s.exch := rfl
@[simp] theorem State.setCmd_coll (s : State) (v : Cmd) : (s.setCmd v).coll = s.coll := rfl
@[simp] theorem State.setCmd_net (s : State) (v : Cmd) : (s.setCmd v).net = s.net := rfl
@[simp] theorem State.setCmd_health (s : State) (v : Cmd) : (s.setCmd v).health = s.health := rfl
@[simp] theorem State.setCmd_wire (s : State) (v : Cmd) : (s.setCmd v).wire = s.wire := rfl
@[simp] theorem State.setCmd_out (s : State) (v : Cmd) : (s.setCmd v).out = s.out := rfl
@[simp] theorem State.setCmd_free (s : State) (v : Cmd) : (s.setCmd v).free = s.free := rfl

/-! ### setQuay -/

@[simp] theorem State.setQuay_pending (s : State) (v : Quay) : (s.setQuay v).pending = s.pending := rfl
@[simp] theorem State.setQuay_clk (s : State) (v : Quay) : (s.setQuay v).clk = s.clk := rfl
@[simp] theorem State.setQuay_side (s : State) (v : Quay) : (s.setQuay v).side = s.side := rfl
@[simp] theorem State.setQuay_ledger (s : State) (v : Quay) : (s.setQuay v).ledger = s.ledger := rfl
@[simp] theorem State.setQuay_chip (s : State) (v : Quay) : (s.setQuay v).chip = s.chip := rfl
@[simp] theorem State.setQuay_comp (s : State) (v : Quay) : (s.setQuay v).comp = s.comp := rfl
@[simp] theorem State.setQuay_mem (s : State) (v : Quay) : (s.setQuay v).mem = s.mem := rfl
@[simp] theorem State.setQuay_place (s : State) (v : Quay) : (s.setQuay v).place = s.place := rfl
@[simp] theorem State.setQuay_cmd (s : State) (v : Quay) : (s.setQuay v).cmd = s.cmd := rfl
@[simp] theorem State.setQuay_quay (s : State) (v : Quay) : (s.setQuay v).quay = v := rfl
@[simp] theorem State.setQuay_exch (s : State) (v : Quay) : (s.setQuay v).exch = s.exch := rfl
@[simp] theorem State.setQuay_coll (s : State) (v : Quay) : (s.setQuay v).coll = s.coll := rfl
@[simp] theorem State.setQuay_net (s : State) (v : Quay) : (s.setQuay v).net = s.net := rfl
@[simp] theorem State.setQuay_health (s : State) (v : Quay) : (s.setQuay v).health = s.health := rfl
@[simp] theorem State.setQuay_wire (s : State) (v : Quay) : (s.setQuay v).wire = s.wire := rfl
@[simp] theorem State.setQuay_out (s : State) (v : Quay) : (s.setQuay v).out = s.out := rfl
@[simp] theorem State.setQuay_free (s : State) (v : Quay) : (s.setQuay v).free = s.free := rfl

/-! ### setExch -/

@[simp] theorem State.setExch_pending (s : State) (v : Exch) : (s.setExch v).pending = s.pending := rfl
@[simp] theorem State.setExch_clk (s : State) (v : Exch) : (s.setExch v).clk = s.clk := rfl
@[simp] theorem State.setExch_side (s : State) (v : Exch) : (s.setExch v).side = s.side := rfl
@[simp] theorem State.setExch_ledger (s : State) (v : Exch) : (s.setExch v).ledger = s.ledger := rfl
@[simp] theorem State.setExch_chip (s : State) (v : Exch) : (s.setExch v).chip = s.chip := rfl
@[simp] theorem State.setExch_comp (s : State) (v : Exch) : (s.setExch v).comp = s.comp := rfl
@[simp] theorem State.setExch_mem (s : State) (v : Exch) : (s.setExch v).mem = s.mem := rfl
@[simp] theorem State.setExch_place (s : State) (v : Exch) : (s.setExch v).place = s.place := rfl
@[simp] theorem State.setExch_cmd (s : State) (v : Exch) : (s.setExch v).cmd = s.cmd := rfl
@[simp] theorem State.setExch_quay (s : State) (v : Exch) : (s.setExch v).quay = s.quay := rfl
@[simp] theorem State.setExch_exch (s : State) (v : Exch) : (s.setExch v).exch = v := rfl
@[simp] theorem State.setExch_coll (s : State) (v : Exch) : (s.setExch v).coll = s.coll := rfl
@[simp] theorem State.setExch_net (s : State) (v : Exch) : (s.setExch v).net = s.net := rfl
@[simp] theorem State.setExch_health (s : State) (v : Exch) : (s.setExch v).health = s.health := rfl
@[simp] theorem State.setExch_wire (s : State) (v : Exch) : (s.setExch v).wire = s.wire := rfl
@[simp] theorem State.setExch_out (s : State) (v : Exch) : (s.setExch v).out = s.out := rfl
@[simp] theorem State.setExch_free (s : State) (v : Exch) : (s.setExch v).free = s.free := rfl

/-! ### setColl -/

@[simp] theorem State.setColl_pending (s : State) (v : Colls) : (s.setColl v).pending = s.pending := rfl
@[simp] theorem State.setColl_clk (s : State) (v : Colls) : (s.setColl v).clk = s.clk := rfl
@[simp] theorem State.setColl_side (s : State) (v : Colls) : (s.setColl v).side = s.side := rfl
@[simp] theorem State.setColl_ledger (s : State) (v : Colls) : (s.setColl v).ledger = s.ledger := rfl
@[simp] theorem State.setColl_chip (s : State) (v : Colls) : (s.setColl v).chip = s.chip := rfl
@[simp] theorem State.setColl_comp (s : State) (v : Colls) : (s.setColl v).comp = s.comp := rfl
@[simp] theorem State.setColl_mem (s : State) (v : Colls) : (s.setColl v).mem = s.mem := rfl
@[simp] theorem State.setColl_place (s : State) (v : Colls) : (s.setColl v).place = s.place := rfl
@[simp] theorem State.setColl_cmd (s : State) (v : Colls) : (s.setColl v).cmd = s.cmd := rfl
@[simp] theorem State.setColl_quay (s : State) (v : Colls) : (s.setColl v).quay = s.quay := rfl
@[simp] theorem State.setColl_exch (s : State) (v : Colls) : (s.setColl v).exch = s.exch := rfl
@[simp] theorem State.setColl_coll (s : State) (v : Colls) : (s.setColl v).coll = v := rfl
@[simp] theorem State.setColl_net (s : State) (v : Colls) : (s.setColl v).net = s.net := rfl
@[simp] theorem State.setColl_health (s : State) (v : Colls) : (s.setColl v).health = s.health := rfl
@[simp] theorem State.setColl_wire (s : State) (v : Colls) : (s.setColl v).wire = s.wire := rfl
@[simp] theorem State.setColl_out (s : State) (v : Colls) : (s.setColl v).out = s.out := rfl
@[simp] theorem State.setColl_free (s : State) (v : Colls) : (s.setColl v).free = s.free := rfl

/-! ### setNet -/

@[simp] theorem State.setNet_pending (s : State) (v : Net) : (s.setNet v).pending = s.pending := rfl
@[simp] theorem State.setNet_clk (s : State) (v : Net) : (s.setNet v).clk = s.clk := rfl
@[simp] theorem State.setNet_side (s : State) (v : Net) : (s.setNet v).side = s.side := rfl
@[simp] theorem State.setNet_ledger (s : State) (v : Net) : (s.setNet v).ledger = s.ledger := rfl
@[simp] theorem State.setNet_chip (s : State) (v : Net) : (s.setNet v).chip = s.chip := rfl
@[simp] theorem State.setNet_comp (s : State) (v : Net) : (s.setNet v).comp = s.comp := rfl
@[simp] theorem State.setNet_mem (s : State) (v : Net) : (s.setNet v).mem = s.mem := rfl
@[simp] theorem State.setNet_place (s : State) (v : Net) : (s.setNet v).place = s.place := rfl
@[simp] theorem State.setNet_cmd (s : State) (v : Net) : (s.setNet v).cmd = s.cmd := rfl
@[simp] theorem State.setNet_quay (s : State) (v : Net) : (s.setNet v).quay = s.quay := rfl
@[simp] theorem State.setNet_exch (s : State) (v : Net) : (s.setNet v).exch = s.exch := rfl
@[simp] theorem State.setNet_coll (s : State) (v : Net) : (s.setNet v).coll = s.coll := rfl
@[simp] theorem State.setNet_net (s : State) (v : Net) : (s.setNet v).net = v := rfl
@[simp] theorem State.setNet_health (s : State) (v : Net) : (s.setNet v).health = s.health := rfl
@[simp] theorem State.setNet_wire (s : State) (v : Net) : (s.setNet v).wire = s.wire := rfl
@[simp] theorem State.setNet_out (s : State) (v : Net) : (s.setNet v).out = s.out := rfl
@[simp] theorem State.setNet_free (s : State) (v : Net) : (s.setNet v).free = s.free := rfl

/-! ### setHealth -/

@[simp] theorem State.setHealth_pending (s : State) (v : Health) : (s.setHealth v).pending = s.pending := rfl
@[simp] theorem State.setHealth_clk (s : State) (v : Health) : (s.setHealth v).clk = s.clk := rfl
@[simp] theorem State.setHealth_side (s : State) (v : Health) : (s.setHealth v).side = s.side := rfl
@[simp] theorem State.setHealth_ledger (s : State) (v : Health) : (s.setHealth v).ledger = s.ledger := rfl
@[simp] theorem State.setHealth_chip (s : State) (v : Health) : (s.setHealth v).chip = s.chip := rfl
@[simp] theorem State.setHealth_comp (s : State) (v : Health) : (s.setHealth v).comp = s.comp := rfl
@[simp] theorem State.setHealth_mem (s : State) (v : Health) : (s.setHealth v).mem = s.mem := rfl
@[simp] theorem State.setHealth_place (s : State) (v : Health) : (s.setHealth v).place = s.place := rfl
@[simp] theorem State.setHealth_cmd (s : State) (v : Health) : (s.setHealth v).cmd = s.cmd := rfl
@[simp] theorem State.setHealth_quay (s : State) (v : Health) : (s.setHealth v).quay = s.quay := rfl
@[simp] theorem State.setHealth_exch (s : State) (v : Health) : (s.setHealth v).exch = s.exch := rfl
@[simp] theorem State.setHealth_coll (s : State) (v : Health) : (s.setHealth v).coll = s.coll := rfl
@[simp] theorem State.setHealth_net (s : State) (v : Health) : (s.setHealth v).net = s.net := rfl
@[simp] theorem State.setHealth_health (s : State) (v : Health) : (s.setHealth v).health = v := rfl
@[simp] theorem State.setHealth_wire (s : State) (v : Health) : (s.setHealth v).wire = s.wire := rfl
@[simp] theorem State.setHealth_out (s : State) (v : Health) : (s.setHealth v).out = s.out := rfl
@[simp] theorem State.setHealth_free (s : State) (v : Health) : (s.setHealth v).free = s.free := rfl

/-! ### setWire -/

@[simp] theorem State.setWire_pending (s : State) (v : Wire) : (s.setWire v).pending = s.pending := rfl
@[simp] theorem State.setWire_clk (s : State) (v : Wire) : (s.setWire v).clk = s.clk := rfl
@[simp] theorem State.setWire_side (s : State) (v : Wire) : (s.setWire v).side = s.side := rfl
@[simp] theorem State.setWire_ledger (s : State) (v : Wire) : (s.setWire v).ledger = s.ledger := rfl
@[simp] theorem State.setWire_chip (s : State) (v : Wire) : (s.setWire v).chip = s.chip := rfl
@[simp] theorem State.setWire_comp (s : State) (v : Wire) : (s.setWire v).comp = s.comp := rfl
@[simp] theorem State.setWire_mem (s : State) (v : Wire) : (s.setWire v).mem = s.mem := rfl
@[simp] theorem State.setWire_place (s : State) (v : Wire) : (s.setWire v).place = s.place := rfl
@[simp] theorem State.setWire_cmd (s : State) (v : Wire) : (s.setWire v).cmd = s.cmd := rfl
@[simp] theorem State.setWire_quay (s : State) (v : Wire) : (s.setWire v).quay = s.quay := rfl
@[simp] theorem State.setWire_exch (s : State) (v : Wire) : (s.setWire v).exch = s.exch := rfl
@[simp] theorem State.setWire_coll (s : State) (v : Wire) : (s.setWire v).coll = s.coll := rfl
@[simp] theorem State.setWire_net (s : State) (v : Wire) : (s.setWire v).net = s.net := rfl
@[simp] theorem State.setWire_health (s : State) (v : Wire) : (s.setWire v).health = s.health := rfl
@[simp] theorem State.setWire_wire (s : State) (v : Wire) : (s.setWire v).wire = v := rfl
@[simp] theorem State.setWire_out (s : State) (v : Wire) : (s.setWire v).out = s.out := rfl
@[simp] theorem State.setWire_free (s : State) (v : Wire) : (s.setWire v).free = s.free := rfl

/-! ### setOut -/

@[simp] theorem State.setOut_pending (s : State) (v : List Out) : (s.setOut v).pending = s.pending := rfl
@[simp] theorem State.setOut_clk (s : State) (v : List Out) : (s.setOut v).clk = s.clk := rfl
@[simp] theorem State.setOut_side (s : State) (v : List Out) : (s.setOut v).side = s.side := rfl
@[simp] theorem State.setOut_ledger (s : State) (v : List Out) : (s.setOut v).ledger = s.ledger := rfl
@[simp] theorem State.setOut_chip (s : State) (v : List Out) : (s.setOut v).chip = s.chip := rfl
@[simp] theorem State.setOut_comp (s : State) (v : List Out) : (s.setOut v).comp = s.comp := rfl
@[simp] theorem State.setOut_mem (s : State) (v : List Out) : (s.setOut v).mem = s.mem := rfl
@[simp] theorem State.setOut_place (s : State) (v : List Out) : (s.setOut v).place = s.place := rfl
@[simp] theorem State.setOut_cmd (s : State) (v : List Out) : (s.setOut v).cmd = s.cmd := rfl
@[simp] theorem State.setOut_quay (s : State) (v : List Out) : (s.setOut v).quay = s.quay := rfl
@[simp] theorem State.setOut_exch (s : State) (v : List Out) : (s.setOut v).exch = s.exch := rfl
@[simp] theorem State.setOut_coll (s : State) (v : List Out) : (s.setOut v).coll = s.coll := rfl
@[simp] theorem State.setOut_net (s : State) (v : List Out) : (s.setOut v).net = s.net := rfl
@[simp] theorem State.setOut_health (s : State) (v : List Out) : (s.setOut v).health = s.health := rfl
@[simp] theorem State.setOut_wire (s : State) (v : List Out) : (s.setOut v).wire = s.wire := rfl
@[simp] theorem State.setOut_out (s : State) (v : List Out) : (s.setOut v).out = v := rfl
@[simp] theorem State.setOut_free (s : State) (v : List Out) : (s.setOut v).free = s.free := rfl

/-! ### setFree -/

@[simp] theorem State.setFree_pending (s : State) (v : Nat) : (s.setFree v).pending = s.pending := rfl
@[simp] theorem State.setFree_clk (s : State) (v : Nat) : (s.setFree v).clk = s.clk := rfl
@[simp] theorem State.setFree_side (s : State) (v : Nat) : (s.setFree v).side = s.side := rfl
@[simp] theorem State.setFree_ledger (s : State) (v : Nat) : (s.setFree v).ledger = s.ledger := rfl
@[simp] theorem State.setFree_chip (s : State) (v : Nat) : (s.setFree v).chip = s.chip := rfl
@[simp] theorem State.setFree_comp (s : State) (v : Nat) : (s.setFree v).comp = s.comp := rfl
@[simp] theorem State.setFree_mem (s : State) (v : Nat) : (s.setFree v).mem = s.mem := rfl
@[simp] theorem State.setFree_place (s : State) (v : Nat) : (s.setFree v).place = s.place := rfl
@[simp] theorem State.setFree_cmd (s : State) (v : Nat) : (s.setFree v).cmd = s.cmd := rfl
@[simp] theorem State.setFree_quay (s : State) (v : Nat) : (s.setFree v).quay = s.quay := rfl
@[simp] theorem State.setFree_exch (s : State) (v : Nat) : (s.setFree v).exch = s.exch := rfl
@[simp] theorem State.setFree_coll (s : State) (v : Nat) : (s.setFree v).coll = s.coll := rfl
@[simp] theorem State.setFree_net (s : State) (v : Nat) : (s.setFree v).net = s.net := rfl
@[simp] theorem State.setFree_health (s : State) (v : Nat) : (s.setFree v).health = s.health := rfl
@[simp] theorem State.setFree_wire (s : State) (v : Nat) : (s.setFree v).wire = s.wire := rfl
@[simp] theorem State.setFree_out (s : State) (v : Nat) : (s.setFree v).out = s.out := rfl
@[simp] theorem State.setFree_free (s : State) (v : Nat) : (s.setFree v).free = v := rfl

end Sys2Proof.Machine
end

