-- ==== Sys2Proof/Laws/Core.lean ====
section
/-! SUPPORT. The wide core's shared operations: what each leaves, and what a slot that takes effect makes of its core. -/

namespace Sys2Proof.Machine

@[simp] theorem State.coreOf_setCore_self (s : State) (k : Nat) (c : Core) : (s.setCore k c).coreOf k = c := by
  simp [State.coreOf, State.setCore]

theorem State.coreOf_setCore_other (s : State) (k j : Nat) (c : Core) (h : j ≠ k) : (s.setCore k c).coreOf j = s.coreOf j := by
  simp [State.coreOf, State.setCore, AMap.getD_put_other _ _ _ _ _ h]

@[simp] theorem State.coreOf_updCore_self (s : State) (k : Nat) (f : Core → Core) : (s.updCore k f).coreOf k = f (s.coreOf k) := by
  simp [State.updCore]

theorem State.coreOf_updCore_other (s : State) (k j : Nat) (f : Core → Core) (h : j ≠ k) : (s.updCore k f).coreOf j = s.coreOf j :=
  State.coreOf_setCore_other s k j _ h

/-- A slot that issues, and whose turn has come, takes its effect. -/
theorem State.slotStep_issues (s : State) (k sl op : Nat) (ready : Bool) (eff : State → State) (h1 : s.mayIssue k sl op = true)
    (h2 : s.newFault k = none) (h3 : ready = true) :
    s.slotStep k sl op ready eff = .next (((eff (s.begin k)).take k sl).finish k) := by
  simp [State.slotStep, State.when, h1, h2, h3]

/-- A slot of a bundle that raises a precise fault has no effect but the fault. -/
theorem State.slotStep_fault (s : State) (k sl op : Nat) (eff : State → State) (f : FaultRec) (h1 : s.mayIssue k sl op = true)
    (h2 : s.newFault k = some f) : s.slotStep k sl op true eff = .next (s.raise k f) := by
  simp [State.slotStep, State.when, h1, h2]

/-- Finding errors changes no byte of memory, and where there is none to find it changes nothing. -/
theorem State.discover_nil (s : State) (key n : Nat) (h : s.mem.errors = []) : s.discover key n = s := by
  simp [State.discover, h]

/-- What finding errors leaves alone: the bytes of memory, the kernels, and every component but the memory's marks, the health records, the
Ledger, the units and the jobs' counts. -/
structure ErrKept (s t : State) : Prop where
  comp : t.comp = s.comp
  cells : t.mem.cells = s.mem.cells
  side : t.side = s.side
  pending : t.pending = s.pending
  clk : t.clk = s.clk
  place : t.place = s.place
  quay : t.quay = s.quay
  exch : t.exch = s.exch
  coll : t.coll = s.coll
  net : t.net = s.net
  out : t.out = s.out
  free : t.free = s.free
  kernels : t.cmd.kernels = s.cmd.kernels

theorem ErrKept.refl (s : State) : ErrKept s s := by constructor <;> rfl

theorem ErrKept.trans {s t u : State} (h : ErrKept s t) (g : ErrKept t u) : ErrKept s u := by
  constructor
  · exact g.comp.trans h.comp
  · exact g.cells.trans h.cells
  · exact g.side.trans h.side
  · exact g.pending.trans h.pending
  · exact g.clk.trans h.clk
  · exact g.place.trans h.place
  · exact g.quay.trans h.quay
  · exact g.exch.trans h.exch
  · exact g.coll.trans h.coll
  · exact g.net.trans h.net
  · exact g.out.trans h.out
  · exact g.free.trans h.free
  · exact g.kernels.trans h.kernels

theorem ErrKept.ite {s t u : State} {c : Prop} [Decidable c] (h : ErrKept s t) (g : ErrKept s u) : ErrKept s (if c then t else u) := by
  split
  · exact h
  · exact g

theorem ErrKept.updPc (s : State) (i : Nat) (f : Pc → Pc) : ErrKept s (s.updPc i f) := by constructor <;> rfl
theorem ErrKept.updStack (s : State) (i : Nat) (f : Stack → Stack) : ErrKept s (s.updStack i f) := by constructor <;> rfl
theorem ErrKept.updCluster (s : State) (i : Nat) (f : Cluster → Cluster) : ErrKept s (s.updCluster i f) := by constructor <;> rfl
theorem ErrKept.setChip (s : State) (c : Chip) : ErrKept s (s.setChip c) := by constructor <;> rfl

theorem ErrKept.moveShare (s : State) (a b : Nat) : ErrKept s (s.moveShare a b) := by
  unfold State.moveShare
  split
  · exact ErrKept.refl s
  · split
    · exact ErrKept.updStack s _ _
    · exact ErrKept.refl s

theorem ErrKept.startRetirePc (s : State) (a b : Nat) : ErrKept s (s.startRetirePc a b) := by
  unfold State.startRetirePc
  split
  · exact ErrKept.refl s
  · dsimp only
    have h := ErrKept.updPc s (64 * a + b) fun p => { p with st := .retiring }
    generalize s.updPc (64 * a + b) (fun p => { p with st := .retiring }) = u at h ⊢
    exact h.trans ((ErrKept.ite (ErrKept.refl u) (ErrKept.setChip u _)).trans (ErrKept.moveShare _ _ _))

theorem ErrKept.setLedger (s : State) (l : Ledger) : ErrKept s (s.setLedger l) := by constructor <;> rfl

theorem ErrKept.rowFailed (s : State) (a b c : Nat) : ErrKept s (s.rowFailed a b c) := by
  unfold State.rowFailed
  exact ErrKept.ite (ErrKept.startRetirePc s a b) (ErrKept.updPc s _ _)

/-- A fault event of outcome 0, 1 or 2. -/
theorem ErrKept.fault (s : State) (cls : Nat) (ut : Option Nat) (u : BitVec 32) (port outcome : Nat) (inj : Bool) (h : outcome < 3) :
    ErrKept s (s.fault cls ut u port outcome inj) := by
  have : ¬ 3 ≤ outcome := by omega
  constructor <;> simp [State.fault, this]

theorem ErrKept.blockError (s : State) (u : MemUnit) (b code : Nat) : ErrKept s (s.blockError u b code) := by
  have h1 : ErrKept s (s.setMem { s.mem with errors := s.mem.errors.drop b }) := by constructor <;> rfl
  have h2 : ∀ s : State, ErrKept s (s.setMem (s.mem.addPoison b)) := fun s => by constructor <;> rfl
  unfold State.blockError
  refine h1.trans ?_
  dsimp only
  generalize s.setMem { s.mem with errors := s.mem.errors.drop b } = s
  by_cases htwo : code % 4 = 2
  rotate_left
  · simp only [htwo, if_false]
    cases u with
    | hbm stack pc =>
      dsimp only
      refine (ErrKept.fault s 1 utPc (pcUnit stack pc) 0 0 (decide (4 ≤ code)) (by omega)).trans ?_
      generalize s.fault 1 utPc (pcUnit stack pc) 0 0 (decide (4 ≤ code)) = s
      refine (ErrKept.setLedger s (s.ledger.unitFault (unitKey 0 (pcUnit stack 0) 1) (decide (4 ≤ code)) 0)).trans ?_
      generalize s.setLedger (s.ledger.unitFault (unitKey 0 (pcUnit stack 0) 1) (decide (4 ≤ code)) 0) = s
      by_cases h3 : code % 4 = 3
      · simp only [h3, if_true]
        exact ErrKept.ite ((ErrKept.updStack _ _ _).trans (ErrKept.updPc _ _ _))
          (ErrKept.ite ((((ErrKept.updStack _ _ _).trans (ErrKept.updPc _ _ _)).trans (ErrKept.rowFailed _ _ _ _)).trans (ErrKept.startRetirePc _ _ _))
            (((ErrKept.updStack _ _ _).trans (ErrKept.updPc _ _ _)).trans (ErrKept.rowFailed _ _ _ _)))
      · simp only [h3, if_false]
        exact ErrKept.ite ((ErrKept.updStack _ _ _).trans (ErrKept.updPc _ _ _))
          (ErrKept.ite (((ErrKept.updStack _ _ _).trans (ErrKept.updPc _ _ _)).trans (ErrKept.startRetirePc _ _ _))
            ((ErrKept.updStack _ _ _).trans (ErrKept.updPc _ _ _)))
    | harbour c => exact (ErrKept.fault s _ _ _ _ 0 _ (by omega)).trans (ErrKept.updCluster _ _ _)
    | core k => exact ErrKept.fault s _ _ _ _ 0 _ (by omega)
    | elsewhere => exact ErrKept.refl s
  · simp only [htwo, if_true]
    refine (h2 s).trans ?_
    generalize s.setMem (s.mem.addPoison b) = s
    cases u with
    | hbm stack pc =>
      dsimp only
      refine (ErrKept.fault s 2 utPc (pcUnit stack pc) 0 1 (decide (4 ≤ code)) (by omega)).trans ?_
      generalize s.fault 2 utPc (pcUnit stack pc) 0 1 (decide (4 ≤ code)) = s
      refine (ErrKept.setLedger s (s.ledger.unitFault (unitKey 0 (pcUnit stack 0) 2) (decide (4 ≤ code)) 1)).trans ?_
      generalize s.setLedger (s.ledger.unitFault (unitKey 0 (pcUnit stack 0) 2) (decide (4 ≤ code)) 1) = s
      exact ErrKept.ite ((ErrKept.updStack _ _ _).trans (ErrKept.updPc _ _ _))
        (((ErrKept.updStack _ _ _).trans (ErrKept.updPc _ _ _)).trans (ErrKept.rowFailed _ _ _ _))
    | harbour c => exact (ErrKept.fault s _ _ _ _ 1 _ (by omega)).trans (ErrKept.updCluster _ _ _)
    | core k => exact ErrKept.fault s _ _ _ _ 1 _ (by omega)
    | elsewhere => exact ErrKept.refl s

/-- Finding errors keeps the bytes of memory and everything `ErrKept` lists. -/
theorem ErrKept.discover (s : State) (key n : Nat) : ErrKept s (s.discover key n) := by
  unfold State.discover
  generalize (s.mem.errors.filter fun e => touches key n e.1) = l
  induction l generalizing s with
  | nil => exact ErrKept.refl s
  | cons e t ih => exact (ErrKept.blockError s _ _ _).trans (ih _)

/-! ### Going on at a bundle -/

theorem State.updCore_comp (s : State) (k : Nat) (f : Core → Core) :
    (s.updCore k f).comp = { s.comp with cores := s.comp.cores.put k (f (s.coreOf k)) } := rfl

/-- Raising a fault changes only the fault of the core. -/
theorem State.raise_bare (s : State) (k j : Nat) (f : FaultRec) : ((s.raise k f).coreOf j).bare = (s.coreOf j).bare := by
  by_cases h : j = k
  · subst h
    simp only [State.raise, State.coreOf_updCore_self]
    split <;> rfl
  · rw [State.raise, State.coreOf_updCore_other _ _ _ _ h]

/-- From `u` to `t` core `k` may have gone on at a bundle: only what the issue of bundles keeps has changed in it; other cores, the rest of the
compute side, the bytes of memory and the other components are as they were; and where memory holds no error not yet found, so is everything else. -/
structure IssueKept (k : Nat) (u t : State) : Prop where
  core : (t.coreOf k).bare = (u.coreOf k).bare
  other : ∀ j, j ≠ k → t.coreOf j = u.coreOf j
  comp : t.comp = { u.comp with cores := t.comp.cores }
  cells : t.mem.cells = u.mem.cells
  side : t.side = u.side
  pending : t.pending = u.pending
  clk : t.clk = u.clk
  place : t.place = u.place
  quay : t.quay = u.quay
  exch : t.exch = u.exch
  coll : t.coll = u.coll
  net : t.net = u.net
  out : t.out = u.out
  free : t.free = u.free
  noErrors : u.mem.errors = [] → t.mem = u.mem ∧ t.chip = u.chip ∧ t.health = u.health ∧ t.ledger = u.ledger ∧ t.cmd = u.cmd

theorem IssueKept.refl (k : Nat) (s : State) : IssueKept k s s := by
  constructor <;> first | rfl | (intros; rfl) | (intros; exact ⟨rfl, rfl, rfl, rfl, rfl⟩)

theorem IssueKept.trans {k : Nat} {s t u : State} (h : IssueKept k s t) (g : IssueKept k t u) : IssueKept k s u := by
  constructor
  · exact g.core.trans h.core
  · exact fun j hj => (g.other j hj).trans (h.other j hj)
  · rw [g.comp, h.comp]
  · exact g.cells.trans h.cells
  · exact g.side.trans h.side
  · exact g.pending.trans h.pending
  · exact g.clk.trans h.clk
  · exact g.place.trans h.place
  · exact g.quay.trans h.quay
  · exact g.exch.trans h.exch
  · exact g.coll.trans h.coll
  · exact g.net.trans h.net
  · exact g.out.trans h.out
  · exact g.free.trans h.free
  · intro e
    obtain ⟨a1, a2, a3, a4, a5⟩ := h.noErrors e
    obtain ⟨b1, b2, b3, b4, b5⟩ := g.noErrors (by rw [a1]; exact e)
    exact ⟨b1.trans a1, b2.trans a2, b3.trans a3, b4.trans a4, b5.trans a5⟩

/-- A change of core `k` that changes only what the issue of bundles keeps. -/
theorem IssueKept.updCore (s : State) (k : Nat) (f : Core → Core) (h : ∀ c, (f c).bare = c.bare) : IssueKept k s (s.updCore k f) := by
  constructor
  · rw [State.coreOf_updCore_self, h]
  · exact fun j hj => State.coreOf_updCore_other s k j f hj
  all_goals first | rfl | (intro; exact ⟨rfl, rfl, rfl, rfl, rfl⟩)

theorem IssueKept.raise (s : State) (k : Nat) (f : FaultRec) : IssueKept k s (s.raise k f) :=
  IssueKept.updCore s k _ fun c => by split <;> rfl

theorem IssueKept.discover (s : State) (k key n : Nat) : IssueKept k s (s.discover key n) := by
  have h := ErrKept.discover s key n
  constructor
  · simp [State.coreOf, h.comp]
  · intro j _; simp [State.coreOf, h.comp]
  · rw [h.comp]
  · exact h.cells
  · exact h.side
  · exact h.pending
  · exact h.clk
  · exact h.place
  · exact h.quay
  · exact h.exch
  · exact h.coll
  · exact h.net
  · exact h.out
  · exact h.free
  · intro e; rw [State.discover_nil s key n e]; exact ⟨rfl, rfl, rfl, rfl, rfl⟩

/-- A core goes on at a bundle. -/
theorem IssueKept.arrive (s : State) (k pc : Nat) : IssueKept k s (s.arrive k pc) := by
  unfold State.arrive
  dsimp only
  have h1 := IssueKept.updCore s k
    (fun c => { c with pc := (seek (((s.kernelOf k).map (·.image)).getD []) 4097 pc).1, snap := none, taken := 0, target := none, waiting := none })
    (fun _ => rfl)
  refine h1.trans ?_
  split
  · exact IssueKept.raise _ _ _
  · split
    · exact (IssueKept.discover _ k _ _).trans (IssueKept.raise _ _ _)
    · exact IssueKept.discover _ k _ _

theorem IssueKept.begin (s : State) (k : Nat) : IssueKept k s (s.begin k) := IssueKept.updCore s k _ fun _ => rfl

theorem IssueKept.take (s : State) (k sl : Nat) : IssueKept k s (s.take k sl) := IssueKept.updCore s k _ fun _ => rfl

theorem IssueKept.finish (s : State) (k : Nat) : IssueKept k s (s.finish k) := by
  unfold State.finish
  split
  · exact IssueKept.refl _ _
  · dsimp only
    split
    · exact IssueKept.arrive _ _ _
    · exact IssueKept.refl _ _

/-- After its effect, a slot that takes effect changes only what the issue of bundles keeps. -/
theorem IssueKept.takeFinish (u : State) (k sl : Nat) : IssueKept k u ((u.take k sl).finish k) :=
  (IssueKept.take u k sl).trans (IssueKept.finish _ k)

/-- A slot that makes its core `f` of its core, where `f` does not look at what the issue of bundles keeps. -/
theorem State.slotMakes_updCore (s : State) (k sl : Nat) (f : Core → Core) (hf : ∀ c d, c.bare = d.bare → (f c).bare = (f d).bare) :
    s.slotMakes k (f (s.coreOf k)) ((((s.begin k).updCore k f).take k sl).finish k) := by
  have h1 := IssueKept.begin s k
  have h2 := IssueKept.takeFinish ((s.begin k).updCore k f) k sl
  have hp : (s.begin k).updCore k f = (s.begin k).updCore k f := rfl
  refine ⟨?_, ?_, ?_, ?_, ?_, ?_⟩
  · show Core.bare _ = _
    rw [h2.core, State.coreOf_updCore_self]
    exact hf _ _ h1.core
  · show _ = _
    rw [h2.comp, State.updCore_comp, h1.comp]
  · intro j hj
    rw [h2.other j hj, State.coreOf_updCore_other _ _ _ _ hj, h1.other j hj]
  · intro a; rw [h2.cells]; rfl
  · refine ⟨h2.pending, fun p hp => ?_⟩
    cases p <;> simp [State.same] at hp ⊢
    · exact h2.clk
    · exact h2.side
    · exact h2.place
    · exact h2.quay
    · exact h2.exch
    · exact h2.coll
    · exact h2.net
    · exact h2.out
    · exact h2.free
  · intro e
    obtain ⟨a1, a2, a3, a4, a5⟩ := h2.noErrors e
    refine ⟨h2.pending, fun p hp => ?_⟩
    cases p <;> simp [State.same] at hp ⊢
    · exact h2.clk
    · exact h2.side
    · exact a4
    · exact a2
    · exact a1
    · exact h2.place
    · exact a5
    · exact h2.quay
    · exact h2.exch
    · exact h2.coll
    · exact h2.net
    · exact a3
    · exact h2.out
    · exact h2.free

end Sys2Proof.Machine
end

