-- ==== Sys2Proof/Laws/Cmd.lean ====
section
/-! SUPPORT. Command packets: what acceptance makes of the command side, and what a packet row answers when its packet is taken or refused. -/

namespace Sys2Proof.Machine

/-- Finding errors changes nothing where no block of the range holds one. -/
theorem State.discover_none (s : State) (key n : Nat) (h : ∀ e ∈ s.mem.errors, touches key n e.1 = false) : s.discover key n = s := by
  have h' : s.mem.errors.filter (fun e => touches key n e.1) = [] := by
    rw [List.filter_eq_nil_iff]; intro e he; simp [h e he]
  simp [State.discover, h']

/-- Reading clean memory finds nothing. -/
theorem State.discover_clean (s : State) (key n : Nat) (h : s.mem.clean key n = true) : s.discover key n = s := by
  apply State.discover_none
  simp only [Mem.clean, Bool.and_eq_true, List.all_eq_true, Bool.not_eq_true'] at h
  exact h.2

theorem Mem.clean_poisoned (m : Mem) (key n : Nat) (h : m.clean key n = true) : m.poisoned key n = false := by
  simp only [Mem.clean, Bool.and_eq_true, Bool.not_eq_true'] at h; exact h.1

/-- The packet of a ring carries the ring's number. -/
theorem State.packet_ring {s : State} {n : Nat} {p : Pkt} (h : s.packet n = some p) : p.ring = n := by
  simp only [State.packet] at h
  split at h
  · split at h
    · cases h
    · cases h; rfl
  · cases h

/-- A packet row that takes its packet answers its effect on the state that acceptance leaves, and checks the ring's next header. -/
theorem State.command_takes {s : State} {n : Nat} {p : Pkt} {sel : Pkt → Bool} {bads : Pkt → State → List Bad} (eff : Pkt → State → State)
    (h : s.takes n p sel bads) :
    s.command n sel bads eff = .next (((eff p (s.accept p)).tagWants s.wire.wants.length none (some (p.ring, p.at_))).checkHead n) := by
  obtain ⟨h1, h2, h3, h4, h5, h6, h7, -⟩ := h
  have hr := State.packet_ring h1
  subst hr
  simp [State.command, h1, h2, h3, h4, h5, h6, State.take1, State.discover_clean _ _ _ h7, Mem.clean_poisoned _ _ _ h7]

/-- A packet row that refuses its packet sets its outcome, and checks the ring's next header. -/
theorem State.command_refuses {s : State} {n : Nat} {p : Pkt} {sel : Pkt → Bool} {bads : Pkt → State → List Bad} (eff : Pkt → State → State)
    {b : Bad} (h : s.refuses n p sel bads b) : s.command n sel bads eff = .next (((s.accept p).refused p b).checkHead n) := by
  obtain ⟨h1, h2, h3, h4, h6, h7, -⟩ := h
  have hr := State.packet_ring h1
  subst hr
  simp [State.command, h1, h2, h3, h4, h6, State.take1, State.discover_clean _ _ _ h7, Mem.clean_poisoned _ _ _ h7]

/-- The command that acceptance puts in progress. -/
def State.newProg (s : State) (p : Pkt) : Prog :=
  { ring := p.ring, at_ := p.at_, hdr := p.hdr, words := p.words, acceptedAt := s.now,
    bellAt := bellFor (s.ring p.ring).bells ((s.ring p.ring).head + BitVec.ofNat 32 (phLen p.hdr)) s.now,
    bpWait := ((s.ring p.ring).bpSince.map fun t => max 1 (ceilUs (s.now - t))).getD 0, netWait := 0, bp := (s.ring p.ring).bpSince.isSome,
    claims := [], taken := [], work := .none, note := 0, noteDetail := 0, outcome := none }

/-- Acceptance changes the command side alone. -/
theorem State.accept_eq (s : State) (p : Pkt) : s.accept p = s.setCmd (s.accept p).cmd := by
  simp only [State.accept]; split <;> split <;> rfl

@[simp] theorem State.accept_wire (s : State) (p : Pkt) : (s.accept p).wire = s.wire := by rw [State.accept_eq]; rfl
@[simp] theorem State.accept_clk (s : State) (p : Pkt) : (s.accept p).clk = s.clk := by rw [State.accept_eq]; rfl
@[simp] theorem State.accept_side (s : State) (p : Pkt) : (s.accept p).side = s.side := by rw [State.accept_eq]; rfl
@[simp] theorem State.accept_ledger (s : State) (p : Pkt) : (s.accept p).ledger = s.ledger := by rw [State.accept_eq]; rfl
@[simp] theorem State.accept_chip (s : State) (p : Pkt) : (s.accept p).chip = s.chip := by rw [State.accept_eq]; rfl
@[simp] theorem State.accept_comp (s : State) (p : Pkt) : (s.accept p).comp = s.comp := by rw [State.accept_eq]; rfl
@[simp] theorem State.accept_mem (s : State) (p : Pkt) : (s.accept p).mem = s.mem := by rw [State.accept_eq]; rfl
@[simp] theorem State.accept_place (s : State) (p : Pkt) : (s.accept p).place = s.place := by rw [State.accept_eq]; rfl
@[simp] theorem State.accept_quay (s : State) (p : Pkt) : (s.accept p).quay = s.quay := by rw [State.accept_eq]; rfl
@[simp] theorem State.accept_exch (s : State) (p : Pkt) : (s.accept p).exch = s.exch := by rw [State.accept_eq]; rfl
@[simp] theorem State.accept_coll (s : State) (p : Pkt) : (s.accept p).coll = s.coll := by rw [State.accept_eq]; rfl
@[simp] theorem State.accept_net (s : State) (p : Pkt) : (s.accept p).net = s.net := by rw [State.accept_eq]; rfl
@[simp] theorem State.accept_health (s : State) (p : Pkt) : (s.accept p).health = s.health := by rw [State.accept_eq]; rfl
@[simp] theorem State.accept_out (s : State) (p : Pkt) : (s.accept p).out = s.out := by rw [State.accept_eq]; rfl
@[simp] theorem State.accept_free (s : State) (p : Pkt) : (s.accept p).free = s.free := by rw [State.accept_eq]; rfl
@[simp] theorem State.accept_pending (s : State) (p : Pkt) : (s.accept p).pending = s.pending := by rw [State.accept_eq]; rfl

/-- Acceptance appends the command to those in progress. -/
@[simp] theorem State.accept_progs (s : State) (p : Pkt) : (s.accept p).cmd.progs = s.cmd.progs ++ [s.newProg p] := by
  simp only [State.accept]; split <;> split <;> rfl

/-- With no command in progress at the packet's offset, a change of the packet's own command changes it alone. -/
theorem State.progs_own (s : State) (p : Pkt) (f : Prog → Prog) (h : s.prog p.ring p.at_ = none) :
    ((s.accept p).updProg p.ring p.at_ f).cmd.progs = s.cmd.progs ++ [f (s.newProg p)] := by
  have h' : ∀ g ∈ s.cmd.progs, ¬ (g.ring = p.ring ∧ g.at_ = p.at_) := by
    intro g hg; have := List.find?_eq_none.mp h g hg; simpa using this
  simp only [State.updProg, State.setCmd_cmd, State.accept_progs, List.map_append, List.map_cons, List.map_nil]
  congr 1
  · conv => rhs; rw [← List.map_id s.cmd.progs]
    apply List.map_congr_left
    intro g hg; simp [h' g hg]
  · simp [State.newProg]

/-- The outcome of a packet's own command, when nothing else of the command side changed since its acceptance. -/
theorem State.outcomeAt_of_progs {s u : State} {p : Pkt} {g : Prog} (h : s.prog p.ring p.at_ = none) (hg : u.cmd.progs = s.cmd.progs ++ [g])
    (hr : g.ring = p.ring) (ha : g.at_ = p.at_) : u.outcomeAt p.ring p.at_ = g.outcome := by
  have : u.prog p.ring p.at_ = some g := by
    simp only [State.prog, hg, List.find?_append]
    simp only [State.prog] at h
    simp [h, hr, ha]
  simp [State.outcomeAt, this]

/-- A packet that is done at its acceptance. -/
theorem State.accept_done (s : State) (p : Pkt) (rs : List W64) (h : s.prog p.ring p.at_ = none) : s.completes p rs ((s.accept p).done p rs) := by
  refine ⟨⟨rfl, _, State.progs_own s p _ h, rfl, rfl, rfl, rfl, rfl⟩, ?_⟩
  exact State.outcomeAt_of_progs h (State.progs_own s p _ h) rfl rfl

/-- A packet that ends with a status at its acceptance. -/
theorem State.accept_failed (s : State) (p : Pkt) (st : Nat) (d : BitVec 32) (h : s.prog p.ring p.at_ = none) :
    s.inProgress p ((s.accept p).failed p st d) ∧ ((s.accept p).failed p st d).outcomeAt p.ring p.at_ = some (Outc.of st d) := by
  refine ⟨⟨rfl, _, State.progs_own s p _ h, rfl, rfl, rfl, rfl, rfl⟩, ?_⟩
  exact State.outcomeAt_of_progs h (State.progs_own s p _ h) rfl rfl

end Sys2Proof.Machine
end

