-- ==== Sys2Proof/Laws/Memory.lean ====
section
/-! SUPPORT. Memory: a read after a write, and that every memory operation keeps the canonical form. -/

namespace Sys2Proof.Machine

/-! ### Reading after writing -/

theorem cellPut_hd (m : List Host.Cell) (k : Nat) (v : Byte) (lo : Nat) (h : cellsWf (some lo) m = true) (hk : lo < k) :
    cellsWf (some lo) (cellPut m k v) = true := by
  induction m generalizing lo with
  | nil => by_cases hv : v = 0#8 <;> simp [cellPut, cellsWf, hv, hk]
  | cons c t ih =>
    obtain ⟨k', v'⟩ := c
    simp only [cellsWf, Bool.and_eq_true, decide_eq_true_eq] at h
    obtain ⟨⟨h1, h2⟩, h3⟩ := h
    have n2 : ¬ v' = 0#8 := by simpa using h2
    by_cases hlt : k < k'
    · by_cases hv : v = 0#8 <;> simp [cellPut, cellsWf, hlt, hv, hk, h1, h3, n2]
    · by_cases heq : k = k'
      · subst heq
        by_cases hv : v = 0#8
        · simp only [cellPut, lt_irrefl, if_false, if_true, hv, BitVec.ofNat_eq_ofNat]
          cases t with
          | nil => rfl
          | cons d u =>
            obtain ⟨kd, vd⟩ := d
            simp only [cellsWf, Bool.and_eq_true, decide_eq_true_eq] at h3
            show cellsWf (some lo) ((kd, vd) :: u) = true
            simp only [cellsWf, Bool.and_eq_true, decide_eq_true_eq]
            exact ⟨⟨by omega, h3.1.2⟩, h3.2⟩
        · simp [cellPut, cellsWf, hv, hk, h3]
      · have := ih k' h3 (by omega)
        simp [cellPut, cellsWf, hlt, heq, h1, this, n2]

/-- Writing one byte keeps the canonical form. -/
theorem cellPut_wf (m : List Host.Cell) (k : Nat) (v : Byte) (h : cellsWf none m = true) : cellsWf none (cellPut m k v) = true := by
  cases m with
  | nil => by_cases hv : v = 0#8 <;> simp [cellPut, cellsWf, hv]
  | cons c t =>
    obtain ⟨k', v'⟩ := c
    simp only [cellsWf, Bool.and_eq_true, Bool.true_and] at h
    obtain ⟨h2, h3⟩ := h
    have n2 : ¬ v' = 0#8 := by simpa using h2
    by_cases hlt : k < k'
    · by_cases hv : v = 0#8 <;> simp [cellPut, cellsWf, hlt, hv, h3, n2]
    · by_cases heq : k = k'
      · subst heq
        by_cases hv : v = 0#8
        · simp only [cellPut, lt_irrefl, if_false, if_true, hv, BitVec.ofNat_eq_ofNat]
          cases t with
          | nil => rfl
          | cons d u =>
            obtain ⟨kd, vd⟩ := d
            simp only [cellsWf, Bool.and_eq_true] at h3
            show cellsWf none ((kd, vd) :: u) = true
            simp only [cellsWf, Bool.and_eq_true, Bool.true_and]
            exact ⟨h3.1.2, h3.2⟩
        · simp [cellPut, cellsWf, hv, h3]
      · have := cellPut_hd t k v k' h3 (by omega)
        simp [cellPut, cellsWf, hlt, heq, this, n2]

/-- A byte written is read back. -/
theorem cellGet_cellPut_self (m : List Host.Cell) (k : Nat) (v : Byte) (lo : Option Nat) (h : cellsWf lo m = true) :
    cellGet (cellPut m k v) k = v := by
  have miss : ∀ (t : List Host.Cell) (l : Nat), cellsWf (some l) t = true → k ≤ l → cellGet t k = 0 := by
    intro t
    induction t with
    | nil => intros; rfl
    | cons d u ih =>
      intro l hw hl
      obtain ⟨kd, vd⟩ := d
      simp only [cellsWf, Bool.and_eq_true, decide_eq_true_eq] at hw
      have : ¬ kd = k := by omega
      simp [cellGet, this, ih kd hw.2 (by omega)]
  induction m generalizing lo with
  | nil => by_cases hv : v = 0#8 <;> simp [cellPut, cellGet, hv]
  | cons c t ih =>
    obtain ⟨k', v'⟩ := c
    simp only [cellsWf, Bool.and_eq_true] at h
    by_cases hlt : k < k'
    · by_cases hv : v = 0#8
      · have : ¬ k' = k := by omega
        simp [cellPut, hlt, hv, cellGet, this, miss t k' h.2 (by omega)]
      · simp [cellPut, hlt, hv, cellGet]
    · by_cases heq : k = k'
      · subst heq
        by_cases hv : v = 0#8
        · simp [cellPut, hv, miss t k h.2 (le_refl _)]
        · simp [cellPut, hv, cellGet]
      · have : ¬ k' = k := fun e => heq e.symm
        simp [cellPut, hlt, heq, cellGet, this, ih (some k') h.2]

/-- A write leaves every other byte as it was. -/
theorem cellGet_cellPut_other (m : List Host.Cell) (k j : Nat) (v : Byte) (h : j ≠ k) : cellGet (cellPut m k v) j = cellGet m j := by
  induction m with
  | nil => by_cases hv : v = 0#8 <;> simp [cellPut, cellGet, hv, h.symm]
  | cons c t ih =>
    obtain ⟨k', v'⟩ := c
    by_cases hlt : k < k'
    · by_cases hv : v = 0#8 <;> simp [cellPut, hlt, hv, cellGet, h.symm]
    · by_cases heq : k = k'
      · subst heq
        by_cases hv : v = 0#8 <;> simp [cellPut, hv, cellGet, h.symm]
      · simp only [cellPut, hlt, heq, if_false, cellGet, ih]

/-! ### The canonical form -/

/-- Writing bytes one after another keeps the canonical form. -/
theorem cellsPut_wf (bs : List Byte) (m : List Host.Cell) (k : Nat) (h : cellsWf none m = true) : cellsWf none (cellsPut m k bs) = true := by
  induction bs generalizing m k with
  | nil => exact h
  | cons b t ih => exact ih _ _ (cellPut_wf m k b h)

theorem cellsWf_weaken (m : List Host.Cell) (lo hi : Nat) (hl : lo ≤ hi) (h : cellsWf (some hi) m = true) : cellsWf (some lo) m = true := by
  cases m with
  | nil => rfl
  | cons c t =>
    simp only [cellsWf, Bool.and_eq_true, decide_eq_true_eq] at h ⊢
    exact ⟨⟨by omega, h.1.2⟩, h.2⟩

theorem cellsWf_filter_some (p : Host.Cell → Bool) (m : List Host.Cell) (lo : Nat) (h : cellsWf (some lo) m = true) :
    cellsWf (some lo) (m.filter p) = true := by
  induction m generalizing lo with
  | nil => rfl
  | cons c t ih =>
    simp only [cellsWf, Bool.and_eq_true, decide_eq_true_eq] at h
    by_cases hp : p c = true
    · simp only [List.filter_cons_of_pos hp, cellsWf, Bool.and_eq_true, decide_eq_true_eq]
      exact ⟨h.1, ih _ h.2⟩
    · simp only [List.filter_cons_of_neg hp]
      exact ih _ (cellsWf_weaken t lo c.1 (by omega) h.2)

/-- Dropping cells keeps the canonical form. -/
theorem cellsWf_filter (p : Host.Cell → Bool) (m : List Host.Cell) (h : cellsWf none m = true) : cellsWf none (m.filter p) = true := by
  induction m with
  | nil => rfl
  | cons c t ih =>
    simp only [cellsWf, Bool.and_eq_true, Bool.true_and] at h
    have tail : cellsWf none t = true := by
      cases t with
      | nil => rfl
      | cons d u =>
        have h2 := h.2
        simp only [cellsWf, Bool.and_eq_true, Bool.true_and] at h2 ⊢
        exact ⟨h2.1.2, h2.2⟩
    by_cases hp : p c = true
    · simp only [List.filter_cons_of_pos hp, cellsWf, Bool.and_eq_true, Bool.true_and]
      exact ⟨h.1, cellsWf_filter_some p t c.1 h.2⟩
    · simp only [List.filter_cons_of_neg hp]
      exact ih tail

/-- A store keeps the canonical form. -/
theorem Mem.write_wf (m : Mem) (k : Nat) (bs : List Byte) (h : m.wf = true) : (m.write k bs).wf = true := cellsPut_wf bs m.cells k h
/-- Forgetting a range keeps the canonical form. -/
theorem Mem.forget_wf (m : Mem) (lo hi : Nat) (h : m.wf = true) : (m.forget lo hi).wf = true := cellsWf_filter _ m.cells h
/-- A POISON mark keeps the canonical form. -/
theorem Mem.addPoison_wf (m : Mem) (b : Nat) (h : m.wf = true) : (m.addPoison b).wf = true := h
/-- A store in the state's memory keeps the canonical form. -/
theorem State.writeMem_wf (s : State) (k : Nat) (bs : List Byte) (h : s.mem.wf = true) : (s.writeMem k bs).mem.wf = true :=
  Mem.write_wf s.mem k bs h
/-- Memory after reset is in canonical form. -/
theorem Mem.init_wf : Mem.init.wf = true := rfl

/-- A store leaves a byte outside it as it was. -/
theorem cellsPut_other (bs : List Byte) (m : List Host.Cell) (k j : Nat) (h : j < k ∨ k + bs.length ≤ j) :
    cellGet (cellsPut m k bs) j = cellGet m j := by
  induction bs generalizing m k with
  | nil => rfl
  | cons b t ih =>
    simp only [List.length_cons] at h
    rw [cellsPut, ih (cellPut m k b) (k + 1) (by omega), cellGet_cellPut_other m k j b (by omega)]

end Sys2Proof.Machine
end

