-- ==== Sys2Proof/Tests/Slice0.lean ====
section
/-! SUPPORT. Tests on small states: each theorem meets the hypotheses of a statement about a command, or of one of its clauses, and checks what the
command does there; and the checks of WellFormed refuse an ill-formed command. -/

set_option Elab.async false

namespace Sys2Proof.Tests

open Sys2Proof Sys2Proof.Machine

/-! ### Small states -/

/-- A fact about the next state of an outcome. -/
def after (o : Host.Outcome State Fault Refusal) (f : State → Bool) : Bool :=
  match o with
  | .next t => f t
  | _ => false

/-- A number from its fields: low bit and value. -/
def enc (fs : List (Nat × Nat)) : Nat := (fs.map fun f => f.2 * 2 ^ f.1).sum

/-- A bundle whose slot `sl` holds some fields. -/
def inSlot (sl : Nat) (fs : List (Nat × Nat)) : BitVec 512 := BitVec.ofNat 512 (2 ^ (511 - sl) + enc fs * 2 ^ slotLow sl)

/-- A launch of one kernel. -/
def aLaunch : Launch :=
  { job := 0, ring := 0, at_ := 0, kernel := 0, total := 2, args := [], filler := false, aborted := false, thin := false, clustersUsed := [] }

/-- An instance that runs on core 0. -/
def anInst : Inst := ⟨0, 9, 0, 0, 1, 0, 0, 0, 0, 0, .running 0, none, [], false, none, 0, false⟩

/-- A job. -/
def aJob : Job :=
  { seed := 1, filler := false, prio := 0, thin := 0, rare := 0, waitMs := 1, sigBase := 8, sigWords := 4, step := 3, granules := [], gcrc := 0,
    frozen := false, frozenStep := false, placeChg := 0, startAt := 0, energy := 0, stepEnergy := 0, predLate := 0, predWaste := 0, closing := none,
    cmdLog := [], planLog := [], digLog := [], collLog := [], evts := 0, resends := 0, clampN := 0, gov3 := 0,
    fixedStep := false, engaged := false, fillerRan := false, netWait := [] }

/-- A generator: handle and offset. -/
def gen (handle ofs stride0 : Nat) : BitVec 256 := BitVec.ofNat 256 (enc [(224, handle), (176, ofs), (144, stride0)])

/-- The registers of the tests: scalars, vectors of one lane, a predicate of lane 0, and generators of operand SRAM and of berth 1. -/
def someRegs : Regs :=
  { s := [(1, 5#64), (2, 7#64), (4, BitVec.ofInt 64 (-5)), (6, 1#64), (7, 2#64), (8, 0xFFFF#64), (9, 48#64)],
    v := [(1, 0x3F800000#4096), (2, 0x40000000#4096), (5, 0x7FC00001#4096)], p := [(1, 1#128), (2, 3#128)],
    g := [(1, gen 0 64 0), (2, gen 0x10001 128 0), (3, gen 0 256 0)] }

/-- A core that runs instance 0. -/
def aCore : Core := { Core.init with inst := some 0, regs := someRegs }

/-- A berth of one page, placed. -/
def aBerth : Berth :=
  { gen := 1, job := 0, shared := none, length := 262144, cls := 1, hints := 0, acting := 0, desc := 0, freeing := false, pages := [(0, Page.placedAt 8192)], migrations := 0,
    pinAt := none, resLocal := 0, pool := none, listed := 0 }

/-- A module that runs a kernel on core 0: its image, whether it is restartable, and its core. -/
def running (image : List (BitVec 512)) (restartable : Bool) (c : Core) : State :=
  let s := State.reset
  let s := s.setCmd { s.cmd with kernels := [(0, { job := 0, restartable := restartable, image := image })], jobs := [(0, aJob)] }
  let s := s.setPlace { s.place with berths := [(1, aBerth)] }
  let s := s.setComp { s.comp with launches := [(0, aLaunch)], insts := [(0, anInst)], cores := [(0, c)],
                                   groups := [(0, { cluster := 0, bound := false, nsem := 4, nev := 4, sems := [(1, 6)], events := [2], left := 1 })] }
  s.setMem { s.mem with cells := [(berthKey 1 128, 0x33#8), (sramKey 0 64, 0x11#8), (sramKey 0 65, 0x22#8)] }

/-- Core 0 before a bundle of one slot. -/
def one (sl : Nat) (fs : List (Nat × Nat)) : State := running [inSlot sl fs, inSlot 6 [(56, 1)]] false aCore

/-- The same in a restartable kernel. -/
def oneR (sl : Nat) (fs : List (Nat × Nat)) : State := running [inSlot sl fs, inSlot 6 [(56, 1)]] true aCore

/-- Core 0's state. -/
def core0 (s : State) : Core := s.coreOf 0

/-! ### The scalar and branch slot -/

/-- A scalar operation of s1 = 5 (or s4 = −5) and s2 = 7 into s3. -/
def scalar (op sa imm : Nat) : State := one 6 [(56, op), (51, 3), (46, sa), (41, 2), (0, imm)]

theorem test_add : ((scalar 1 1 0).issues 0 6 1 && after (exec (.add 0) (scalar 1 1 0)) fun t => (core0 t).regs.sr 3 = 12 && (core0 t).pc = 1) = true := by decide +kernel
theorem test_addi : ((scalar 2 1 0xFFFFFFFE).issues 0 6 2 && after (exec (.addi 0) (scalar 2 1 0xFFFFFFFE)) fun t => (core0 t).regs.sr 3 = 3) = true := by decide +kernel
theorem test_sub : ((scalar 3 1 0).issues 0 6 3 && after (exec (.sub 0) (scalar 3 1 0)) fun t => (core0 t).regs.sr 3 = BitVec.ofInt 64 (-2)) = true := by decide +kernel
theorem test_mul : ((scalar 4 4 0).issues 0 6 4 && after (exec (.mul 0) (scalar 4 4 0)) fun t => (core0 t).regs.sr 3 = BitVec.ofInt 64 (-35)) = true := by decide +kernel
theorem test_and : ((scalar 5 1 0).issues 0 6 5 && after (exec (.and 0) (scalar 5 1 0)) fun t => (core0 t).regs.sr 3 = 5) = true := by decide +kernel
theorem test_or : ((scalar 6 1 0).issues 0 6 6 && after (exec (.or 0) (scalar 6 1 0)) fun t => (core0 t).regs.sr 3 = 7) = true := by decide +kernel
theorem test_xor : ((scalar 7 1 0).issues 0 6 7 && after (exec (.xor 0) (scalar 7 1 0)) fun t => (core0 t).regs.sr 3 = 2) = true := by decide +kernel
theorem test_shl : ((scalar 8 1 0).issues 0 6 8 && after (exec (.shl 0) (scalar 8 1 0)) fun t => (core0 t).regs.sr 3 = 640) = true := by decide +kernel
theorem test_shr : ((scalar 9 4 0).issues 0 6 9 && after (exec (.shr 0) (scalar 9 4 0)) fun t => (core0 t).regs.sr 3 = 0x1FFFFFFFFFFFFFF) = true := by decide +kernel
theorem test_sra : ((scalar 10 4 0).issues 0 6 10 && after (exec (.sra 0) (scalar 10 4 0)) fun t => (core0 t).regs.sr 3 = BitVec.ofInt 64 (-1)) = true := by decide +kernel
theorem test_lih : ((scalar 11 4 9).issues 0 6 11 && after (exec (.lih 0) (scalar 11 4 9)) fun t => (core0 t).regs.sr 3 = 0x9FFFFFFFB) = true := by decide +kernel
theorem test_slt : ((scalar 12 4 0).issues 0 6 12 && after (exec (.slt 0) (scalar 12 4 0)) fun t => (core0 t).regs.sr 3 = 1) = true := by decide +kernel
theorem test_sltu : ((scalar 13 4 0).issues 0 6 13 && after (exec (.sltu 0) (scalar 13 4 0)) fun t => (core0 t).regs.sr 3 = 0) = true := by decide +kernel
theorem test_s0_discards : after (exec (.add 0) (one 6 [(56, 1), (51, 0), (46, 1), (41, 2)])) (fun t => (core0 t).regs = someRegs) = true := by decide +kernel

/-- A bundle with a branch, of s1 and s2 or of s1 and s1, forward by two bundles. -/
def branch (op sa sb : Nat) : State := running [inSlot 6 [(56, op), (46, sa), (41, sb), (0, 2)], inSlot 6 [(56, 1)], inSlot 6 [(56, 1)]] false aCore

theorem test_beq : ((branch 16 1 1).issues 0 6 16 && after (exec (.beq 0) (branch 16 1 1)) fun t => (core0 t).pc = 2) = true := by decide +kernel
theorem test_beq_not_taken : after (exec (.beq 0) (branch 16 1 2)) (fun t => (core0 t).pc = 1) = true := by decide +kernel
theorem test_bne : ((branch 17 1 2).issues 0 6 17 && after (exec (.bne 0) (branch 17 1 2)) fun t => (core0 t).pc = 2) = true := by decide +kernel
theorem test_blt : ((branch 18 4 1).issues 0 6 18 && after (exec (.blt 0) (branch 18 4 1)) fun t => (core0 t).pc = 2) = true := by decide +kernel
theorem test_bge : ((branch 19 1 4).issues 0 6 19 && after (exec (.bge 0) (branch 19 1 4)) fun t => (core0 t).pc = 2) = true := by decide +kernel
theorem test_jmp : ((branch 20 0 0).issues 0 6 20 && after (exec (.jmp 0) (branch 20 0 0)) fun t => (core0 t).pc = 2) = true := by decide +kernel
theorem test_branch_backward : branchTarget 5 0xFFFFFFFF = 4 ∧ branchTarget 0 0xFFFFFFFF = 4096 := by decide +kernel
theorem test_call : ((branch 0x15 0 0).issues 0 6 0x15 && after (exec (.call 0) (branch 0x15 0 0)) fun t => (core0 t).pc = 2 && (core0 t).stack = [1#12]) = true := by decide +kernel

/-- A bundle with a return, and a return stack. -/
def atReturn (st : List (BitVec 12)) : State := running [inSlot 6 [(56, 0x16)], inSlot 6 [(56, 1)], inSlot 6 [(56, 1)]] false { aCore with stack := st }

theorem test_ret : ((atReturn [2#12, 3#12]).issues 0 6 0x16 && after (exec (.ret 0) (atReturn [2#12, 3#12])) fun t => (core0 t).pc = 2 && (core0 t).stack = [3#12]) = true := by decide +kernel
theorem test_ret_empty : (atReturn []).mayIssue 0 6 0x16 = true ∧ after (exec (.ret 0) (atReturn [])) (fun t => t = (atReturn []).raise 0 ⟨1, 6, true, 0, 0⟩) = true := by decide +kernel

/-- A call on a full return stack. -/
def fullStack : State := running [inSlot 6 [(56, 0x15), (0, 1)], inSlot 6 [(56, 1)]] false { aCore with stack := List.replicate 16 0#12 }

theorem test_call_full : fullStack.mayIssue 0 6 0x15 = true ∧ after (exec (.call 0) fullStack) (fun t => t = fullStack.raise 0 ⟨3, 6, true, 0, 0⟩) = true := by decide +kernel
theorem test_getsr : ((one 6 [(56, 0x18), (51, 3), (0, 0)]).issues 0 6 0x18 && after (exec (.getsr 0) (one 6 [(56, 0x18), (51, 3), (0, 0)])) fun t => (core0 t).regs.sr 3 = 9) = true := by decide +kernel
theorem test_getsr_instances : after (exec (.getsr 0) (one 6 [(56, 0x18), (51, 3), (0, 1)])) (fun t => (core0 t).regs.sr 3 = 2) = true := by decide +kernel

/-- SETSR of TSTAT3, whose status is 7, with s1 = 5. -/
def atSetsr (n : Nat) : State := running [inSlot 6 [(56, 0x19), (46, 1), (0, n)], inSlot 6 [(56, 1)]] false { aCore with tiles := [(3, { Tile.init with status := 7#32 })] }

theorem test_setsr : ((atSetsr 0x13).issues 0 6 0x19 && after (exec (.setsr 0) (atSetsr 0x13)) fun t => ((core0 t).tiles.getD 3 Tile.init).status = 2#32) = true := by decide +kernel
theorem test_setsr_illegal : (atSetsr 4).mayIssue 0 6 0x19 = true ∧ after (exec (.setsr 0) (atSetsr 4)) (fun t => t = (atSetsr 4).raise 0 ⟨1, 6, true, 0, 0⟩) = true := by decide +kernel

/-! ### The load/store slot -/

/-- A load/store operation on generator G. -/
def ls (op r g : Nat) (fs : List (Nat × Nat)) : State := one 1 ([(72, op), (67, r), (64, g)] ++ fs)

theorem test_lds : ((ls 1 3 1 []).issues 0 1 1 && after (exec (.lds 0) (ls 1 3 1 [])) fun t =>
    (core0 t).loads.map (fun l => (l.kind, l.reg, l.data, l.fault)) = [(0, 3, 0x2211#4096, none)]) = true := by decide +kernel
theorem test_lds_aligned : ((ls 1 3 1 [(0, 4)]).mayIssue 0 1 1 && after (exec (.lds 0) (ls 1 3 1 [(0, 4)])) fun t =>
    (core0 t).fault = some ⟨2, 1, true, 0, 68⟩) = true := by decide +kernel
theorem test_ldv : ((ls 3 3 1 [(57, 1)]).issues 0 1 3 && after (exec (.ldv 0) (ls 3 3 1 [(57, 1)])) fun t =>
    (core0 t).loads.map (fun l => (l.kind, l.reg, l.data, l.lanes)) = [(1, 3, 0x2211#4096, 1#128)]) = true := by decide +kernel
theorem test_ldvc : ((ls 5 3 1 [(53, 5), (51, 1)]).issues 0 1 5 && after (exec (.ldvc 0) (ls 5 3 1 [(53, 5), (51, 1)])) fun t =>
    (core0 t).loads.length = 1 && bitsOf ((core0 t).regs.gr 1).toNat 79 64 = 0 + 1) = true := by decide +kernel
theorem test_pld : ((ls 6 3 2 []).issues 0 1 6 && after (exec (.pld 0) (ls 6 3 2 [])) fun t =>
    (core0 t).loads.map (fun l => (l.kind, l.reg, l.data)) = [(2, 3, 0x33#4096)]) = true := by decide +kernel
theorem test_sts : ((ls 2 1 3 []).issues 0 1 2 && after (exec (.sts 0) (ls 2 1 3 [])) fun t =>
    t.mem.cells = [(berthKey 1 128, 0x33#8), (sramKey 0 64, 0x11#8), (sramKey 0 65, 0x22#8), (sramKey 0 256, 5#8)]) = true := by decide +kernel
theorem test_stv : ((ls 4 1 2 [(57, 1)]).issues 0 1 4 && after (exec (.stv 0) (ls 4 1 2 [(57, 1)])) fun t =>
    t.mem.read (berthKey 1 128) 5 = [0#8, 0#8, 0x80#8, 0x3F#8, 0#8]) = true := by decide +kernel
theorem test_pst : ((ls 7 2 1 []).issues 0 1 7 && after (exec (.pst 0) (ls 7 2 1 [])) fun t =>
    t.mem.read (sramKey 0 64) 2 = [3#8, 0#8]) = true := by decide +kernel
theorem test_dma : ((ls 8 1 1 [(61, 2), (45, 9), (51, 1)]).issues 0 1 8 && after (exec (.dma 0) (ls 8 1 1 [(61, 2), (45, 9), (51, 1)])) fun t =>
    ((core0 t).dmas.get? 9).map (fun d => (d.handle, d.ofs, d.bytes)) = some (0x10001#32, 128, [0x11#8, 0x22#8, 0#8, 0#8, 0#8])) = true := by decide +kernel
theorem test_gcfg : ((ls 10 9 4 [(0, 16)]).issues 0 1 10 && after (exec (.gcfg 0) (ls 10 9 4 [(0, 16)])) fun t =>
    (core0 t).regs.gr 4 = 0#256) = true := by decide +kernel
theorem test_gset : ((ls 11 2 1 []).issues 0 1 11 && after (exec (.gset 0) (ls 11 2 1 [])) fun t =>
    bitsOf ((core0 t).regs.gr 1).toNat 79 48 = 7 * 65536) = true := by decide +kernel
theorem test_gadv : ((ls 12 0 1 []).issues 0 1 12 && after (exec (.gadv 0) (ls 12 0 1 [])) fun t =>
    bitsOf ((core0 t).regs.gr 1).toNat 79 48 = 65536) = true := by decide +kernel
theorem test_advance_wraps : bitsOf (genAdvance (BitVec.ofNat 256 (enc [(128, 2), (95 - 15, 3), (64, 1), (48, 2)]))).toNat 79 48 = 0 := by decide +kernel

/-- Core 0 with a load, or a DMA, outstanding. -/
def inFlight (ls : List LoadOp) (ds : AMap DmaOp) : State := running [inSlot 6 [(56, 1)]] false { aCore with loads := ls, dmas := ds }

theorem test_load_complete : after (exec (.loadComplete 0 ⟨0, 0, 0⟩) (inFlight [⟨0, 3, none, leBytes 8 0x99, 0, none, 0, 0, 8, 0⟩] [])) (fun t =>
    (core0 t).regs.sr 3 = 0x99 && (core0 t).loads = []) = true := by decide +kernel
theorem test_load_complete_faults : after (exec (.loadComplete 0 ⟨0, 0, 0⟩) (inFlight [⟨0, 3, none, leBytes 8 0x99, 0, some ⟨7, 1, false, 0, 0⟩, 0, 0, 8, 0⟩] [])) (fun t =>
    (core0 t).regs.sr 3 = 0 && (core0 t).fault = some ⟨7, 1, false, 0, 0⟩) = true := by decide +kernel
theorem test_dma_complete : after (exec (.dmaComplete 0 ⟨9, 0, 0⟩) (inFlight [] [(9, ⟨0x10001#32, 128, [7#8, 0#8], [], none, 0, 0, 0, 2, true⟩)])) (fun t =>
    t.mem.read (berthKey 1 128) 2 = [7#8, 0#8] && (core0 t).tagsDone = [9] && (core0 t).dmas = []) = true := by decide +kernel
theorem test_dma_complete_faults : after (exec (.dmaComplete 0 ⟨9, 0, 0⟩) (inFlight [] [(9, ⟨0x10001#32, 128, [7#8], [], some ⟨9, 1, false, 0, 0⟩, 0, 0, 0, 1, true⟩)])) (fun t =>
    t.mem.read (berthKey 1 128) 1 = [0x33#8] && (core0 t).fault = some ⟨9, 1, false, 0, 0⟩) = true := by decide +kernel
/-- A load of berth 1 in flight. -/
def berthLoad : State := inFlight [⟨0, 3, none, leBytes 8 0x99, 0, none, 0x10001, 64, 8, 12⟩] []
theorem test_link_error_corrected : after (exec (.loadComplete 0 ⟨0, 1, 0⟩) berthLoad) (fun t =>
    (core0 t).regs.sr 3 = 0x99 && t.health.events.map (fun e => (e.cls, e.outcome)) = [(0x15, 0)]) = true := by decide +kernel
theorem test_link_error_poisons : after (exec (.loadComplete 0 ⟨0, 2, 0⟩) berthLoad) (fun t =>
    (core0 t).regs.sr 3 = 0 && (core0 t).fault = some ⟨7, 1, false, 12, 64⟩ && t.health.events.map (fun e => (e.cls, e.outcome)) = [(0x15, 1)]) = true := by decide +kernel
theorem test_link_error_own_sram : after (exec (.loadComplete 0 ⟨0, 2, 0⟩) (inFlight [⟨0, 3, none, leBytes 8 0x99, 0, none, 0, 0, 8, 0⟩] [])) (fun t =>
    (core0 t).regs.sr 3 = 0x99 && t.health.events = []) = true := by decide +kernel
theorem test_link_error_dma : after (exec (.dmaComplete 0 ⟨9, 2, 0⟩) (inFlight [] [(9, ⟨0x10001#32, 128, [7#8, 0#8], [], none, 0, 0, 0, 2, true⟩)])) (fun t =>
    t.mem.poison = [(berthKey 1 128) / 64] && t.health.total = 1) = true := by decide +kernel
/-- A read of an engine, of a core or of a command that still awaits its response. -/
def aWant (key len : Nat) (core cmd : Option (Nat × Nat)) : Want := { kind := .read, addr := 0, key := key, len := len, job := 0, cls := 3, core := core, cmd := cmd }
/-- A load and a DMA of core 0 from offset 64 of berth 1, with or without a read of it under way. -/
def awaitingBytes (reads : List Want) : State :=
  (inFlight [⟨0, 3, none, leBytes 8 0x99, 0, none, 0x10001, 64, 8, 0⟩] [(9, ⟨0x10001#32, 128, [7#8, 0#8], [], none, 0, 0x10001, 64, 2, true⟩)]).setWire { Wire.init with reads := reads }
theorem test_awaits : (awaitingBytes [aWant (berthKey 1 64) 2 (some (0, 0)) none]).awaits 0 (spanKey 0 0x10001 64) 8 = true ∧ (awaitingBytes [aWant (berthKey 1 64) 2 (some (0, 0)) none]).awaits 0 (spanKey 0 0x10001 64) 2 = true ∧
    (awaitingBytes []).awaits 0 (spanKey 0 0x10001 64) 8 = false ∧ (awaitingBytes []).awaits 0 (spanKey 0 0x10001 64) 2 = false ∧
    after (exec (.loadComplete 0 ⟨0, 0, 0⟩) (awaitingBytes [aWant (berthKey 1 64) 2 (some (0, 0)) none])) (fun t => (core0 t).loads.length = 1) = true ∧
    after (exec (.dmaComplete 0 ⟨9, 0, 0⟩) (awaitingBytes [aWant (berthKey 1 64) 2 (some (0, 0)) none])) (fun t => (core0 t).dmas.keyList = [9]) = true := by decide +kernel

/-! ### The vector slots -/

/-- A vector operation of v1 (lane 0 is 1.0) and v2 (lane 0 is 2.0) into v3, all lanes. -/
def vec (sl op : Nat) (fs : List (Nat × Nat)) : State := one sl ([(64, op), (59, 3), (54, 1), (49, 2)] ++ fs)

/-- Does lane 0 of v3 hold `x` after a command? -/
def lane0 (c : Instr) (s : State) (x : W32) : Bool := after (exec c s) fun t => lane ((core0 t).regs.vr 3) 0 = x

theorem test_fadd : ((vec 2 1 []).issues 0 2 1 && lane0 (.fadd 0) (vec 2 1 []) 0x40400000) = true := by decide +kernel
theorem test_fsub : ((vec 2 2 []).issues 0 2 2 && lane0 (.fsub 0) (vec 2 2 []) 0xBF800000) = true := by decide +kernel
theorem test_fmul : ((vec 2 3 []).issues 0 2 3 && lane0 (.fmul 0) (vec 2 3 []) 0x40000000) = true := by decide +kernel
theorem test_fma : ((vec 2 4 [(44, 1)]).issues 0 2 4 && lane0 (.fma 0) (vec 2 4 [(44, 1)]) 0x40400000) = true := by decide +kernel
theorem test_fmax : ((vec 2 5 []).issues 0 2 5 && lane0 (.fmax 0) (vec 2 5 []) 0x40000000) = true := by decide +kernel
theorem test_fmin : ((vec 2 6 []).issues 0 2 6 && lane0 (.fmin 0) (vec 2 6 []) 0x3F800000) = true := by decide +kernel
theorem test_fabs : ((vec 2 7 []).issues 0 2 7 && lane0 (.fabs 0) (vec 2 7 []) 0x3F800000) = true := by decide +kernel
theorem test_fneg : ((vec 2 8 []).issues 0 2 8 && lane0 (.fneg 0) (vec 2 8 []) 0xBF800000) = true := by decide +kernel
theorem test_frcp : ((one 2 [(64, 9), (59, 3), (54, 2)]).issues 0 2 9 && lane0 (.frcp 0) (one 2 [(64, 9), (59, 3), (54, 2)]) 0x3F000000) = true := by decide +kernel
theorem test_fdiv : ((vec 2 10 []).issues 0 2 10 && lane0 (.fdiv 0) (vec 2 10 []) 0x3F000000) = true := by decide +kernel
theorem test_fsqrt : ((one 2 [(64, 11), (59, 3), (54, 2)]).issues 0 2 11 && lane0 (.fsqrt 0) (one 2 [(64, 11), (59, 3), (54, 2)]) 0x3FB504F3) = true := by decide +kernel
theorem test_nan : lane0 (.fadd 0) (one 2 [(64, 1), (59, 3), (54, 5), (49, 2)]) 0x7FC00000 = true := by decide +kernel
theorem test_sel : ((vec 2 0x0D [(36, 1)]).issues 0 2 0x0D && lane0 (.sel 0 false) (vec 2 0x0D [(36, 1)]) 0x3F800000) = true := by decide +kernel
theorem test_sel_b : ((vec 3 0x0D [(36, 4)]).issues 0 3 0x0D && lane0 (.sel 0 true) (vec 3 0x0D [(36, 4)]) 0x40000000) = true := by decide +kernel
theorem test_vimm : ((one 2 [(64, 0x0E), (59, 3), (0, 77)]).issues 0 2 0x0E && lane0 (.vimm 0 false) (one 2 [(64, 0x0E), (59, 3), (0, 77)]) 77) = true := by decide +kernel
theorem test_vimm_b : ((one 3 [(64, 0x0E), (59, 3), (0, 77)]).issues 0 3 0x0E && lane0 (.vimm 0 true) (one 3 [(64, 0x0E), (59, 3), (0, 77)]) 77) = true := by decide +kernel
theorem test_iadd : ((vec 2 0x10 []).issues 0 2 0x10 && lane0 (.iadd 0 false) (vec 2 0x10 []) 0x7F800000) = true := by decide +kernel
theorem test_iadd_b : ((vec 3 0x10 []).issues 0 3 0x10 && lane0 (.iadd 0 true) (vec 3 0x10 []) 0x7F800000) = true := by decide +kernel
theorem test_isub : ((vec 2 0x11 []).issues 0 2 0x11 && lane0 (.isub 0 false) (vec 2 0x11 []) 0xFF800000) = true := by decide +kernel
theorem test_isub_b : ((vec 3 0x11 []).issues 0 3 0x11 && lane0 (.isub 0 true) (vec 3 0x11 []) 0xFF800000) = true := by decide +kernel
theorem test_iand : ((vec 2 0x12 []).issues 0 2 0x12 && lane0 (.iand 0 false) (vec 2 0x12 []) 0) = true := by decide +kernel
theorem test_iand_b : ((vec 3 0x12 []).issues 0 3 0x12 && lane0 (.iand 0 true) (vec 3 0x12 []) 0) = true := by decide +kernel
theorem test_ior : ((vec 2 0x13 []).issues 0 2 0x13 && lane0 (.ior 0 false) (vec 2 0x13 []) 0x7F800000) = true := by decide +kernel
theorem test_ior_b : ((vec 3 0x13 []).issues 0 3 0x13 && lane0 (.ior 0 true) (vec 3 0x13 []) 0x7F800000) = true := by decide +kernel
theorem test_ixor : ((vec 2 0x14 []).issues 0 2 0x14 && lane0 (.ixor 0 false) (vec 2 0x14 []) 0x7F800000) = true := by decide +kernel
theorem test_ixor_b : ((vec 3 0x14 []).issues 0 3 0x14 && lane0 (.ixor 0 true) (vec 3 0x14 []) 0x7F800000) = true := by decide +kernel
theorem test_ishl : ((vec 2 0x15 []).issues 0 2 0x15 && lane0 (.ishl 0 false) (vec 2 0x15 []) 0x3F800000) = true := by decide +kernel
theorem test_ishl_b : ((vec 3 0x15 []).issues 0 3 0x15 && lane0 (.ishl 0 true) (vec 3 0x15 []) 0x3F800000) = true := by decide +kernel
theorem test_ishr : ((vec 2 0x16 []).issues 0 2 0x16 && lane0 (.ishr 0 false) (vec 2 0x16 []) 0x3F800000) = true := by decide +kernel
theorem test_ishr_b : ((vec 3 0x16 []).issues 0 3 0x16 && lane0 (.ishr 0 true) (vec 3 0x16 []) 0x3F800000) = true := by decide +kernel
theorem test_bcast : ((vec 2 0x18 []).issues 0 2 0x18 && after (exec (.bcast 0) (vec 2 0x18 [])) fun t => lane ((core0 t).regs.vr 3) 127 = 0x3F800000) = true := by decide +kernel
theorem test_perm : ((vec 2 0x19 []).issues 0 2 0x19 && after (exec (.perm 0) (vec 2 0x19 [])) fun t => lane ((core0 t).regs.vr 3) 127 = 0x3F800000) = true := by decide +kernel
theorem test_frsum : ((vec 2 0x1A []).issues 0 2 0x1A && lane0 (.frsum 0) (vec 2 0x1A []) 0x3F800000) = true := by decide +kernel
theorem test_frmax : ((vec 2 0x1B []).issues 0 2 0x1B && lane0 (.frmax 0) (vec 2 0x1B []) 0x3F800000) = true := by decide +kernel
theorem test_trd : ((vec 2 0x1C []).issues 0 2 0x1C && lane0 (.trd 0) (vec 2 0x1C []) 0) = true := by decide +kernel
theorem test_fcmp : ((vec 2 0x0C [(36, 5), (32, 1)]).issues 0 2 0x0C && after (exec (.fcmp 0) (vec 2 0x0C [(36, 5), (32, 1)])) fun t => (core0 t).regs.pr 5 = 1) = true := by decide +kernel
theorem test_plog : ((vec 2 0x1D [(36, 5), (32, 3)]).issues 0 2 0x1D && after (exec (.plog 0 false) (vec 2 0x1D [(36, 5), (32, 2)])) fun t => (core0 t).regs.pr 5 = 2) = true := by decide +kernel
theorem test_plog_b : ((vec 3 0x1D [(36, 5), (32, 1)]).issues 0 3 0x1D && after (exec (.plog 0 true) (vec 3 0x1D [(36, 5), (32, 1)])) fun t => (core0 t).regs.pr 5 = 3) = true := by decide +kernel
theorem test_pset : ((one 2 [(64, 0x1E), (36, 5), (0, 3)]).issues 0 2 0x1E && after (exec (.pset 0 false) (one 2 [(64, 0x1E), (36, 5), (0, 3)])) fun t => (core0 t).regs.pr 5 = 7) = true := by decide +kernel
theorem test_pset_b : ((one 3 [(64, 0x1E), (36, 5), (0, 3)]).issues 0 3 0x1E && after (exec (.pset 0 true) (one 3 [(64, 0x1E), (36, 5), (0, 3)])) fun t => (core0 t).regs.pr 5 = 7) = true := by decide +kernel

/-! ### The array slot and the out path -/

/-- An INT8 tile whose weights of row 0 are 17 and 34, and 0 elsewhere. -/
def intTile : WTile := { fmt := 4, sparse := false, transposed := false, part := 0, bytes := [17#8, 34#8], addr := 64, bundle := 0 }

/-- Core 0 with an active tile, a tile a3 that holds 1.0 and 2.0 in its first row, and an input row whose first element is 2. -/
def arrayCore (restartable : Bool) (fs : List (Nat × Nat)) : State :=
  let c := { aCore with active := some intTile, shadow := some intTile, tiles := [(3, { Tile.init with e := [(0, 0x3F800000#32), (1, 0x40000000#32), (128, 0x40000000#32)], opened := true })] }
  let s := running [inSlot 0 fs, inSlot 6 [(56, 1)]] restartable c
  s.setMem { s.mem with cells := [(berthKey 1 128, 0x33#8), (sramKey 0 64, 17#8), (sramKey 0 65, 34#8), (sramKey 0 256, 2#8)] }

/-- ALDW of an INT8 tile at operand SRAM offset 64. -/
def atAldw : State := arrayCore false [(88, 1), (71, 1), (63, 4)]
theorem test_aldw : (atAldw.issues 0 0 1 && atAldw.arrayReady 0 && after (exec (.aldw 0) atAldw) fun t =>
    ((core0 t).loading.map fun w => (w.fmt, w.addr, w.bytes.take 3, w.bytes.length)) = some (4, 64, [17#8, 34#8, 0#8], 16384)) = true := by decide +kernel

/-- A shadow tile that is loading. -/
def loadingTile (w : WTile) : State := running [inSlot 6 [(56, 1)]] false { aCore with loading := some w }
theorem test_shadow_tile_loaded : after (exec (.shadowTileLoaded 0) (loadingTile intTile)) (fun t =>
    (core0 t).shadow = some intTile && (core0 t).loading = none) = true := by decide +kernel
theorem test_shadow_tile_poisoned : after (exec (.shadowTileLoaded 0) ((loadingTile intTile).setMem { Mem.init with poison := [sramKey 0 64 / 64] })) (fun t =>
    (core0 t).shadow = none && (core0 t).fault = some ⟨7, 0, false, 0, 64⟩) = true := by decide +kernel
/-- A sparse tile of zero bytes: its first block names one row in every slot. -/
def badSparse : WTile := { intTile with sparse := true, bytes := List.replicate 48 0#8 }
theorem test_shadow_tile_sparse_bad : after (exec (.shadowTileLoaded 0) (loadingTile badSparse)) (fun t =>
    (core0 t).fault = some ⟨5, 0, false, 0, 64⟩ && (core0 t).shadow = none) = true := by decide +kernel
theorem test_array_gate : after (exec (.arrayGate 0) (running [] false { aCore with arrayGated := false }|>.setClk { Clk.init with counter := 2 })) (fun t =>
    (core0 t).arrayGated) = true := by decide +kernel

/-- AMUL of one INT8 row at offset 256 into row 0 of a3, columns 0 and 1. -/
def atAmul (fs : List (Nat × Nat)) : State := arrayCore false ([(88, 2), (85, 3), (77, 2), (74, 3), (67, 4), (63, 4)] ++ fs)
theorem test_amul : ((atAmul []).issues 0 0 2 && (atAmul []).arrayReady 0 && after (exec (.amul 0) (atAmul [])) fun t =>
    ((core0 t).tiles.getD 3 Tile.init).e = [(0, 0x42080000#32), (1, 0x42880000#32), (128, 0x40000000#32)] && (core0 t).verdicts.length = 1) = true := by decide +kernel
theorem test_amul_swap : ((atAmul [(57, 1)]).issues 0 0 2 && after (exec (.amul 0) (atAmul [(57, 1)])) fun t =>
    (core0 t).shadow = none && (core0 t).active = some intTile) = true := by decide +kernel
/-- A split-pair AMUL of the hi parts, with records in berth 1. -/
def atSplit : State :=
  let c := { aCore with active := some { intTile with fmt := 9, part := 1, bytes := List.replicate 16 0#8 } }
  running [inSlot 0 [(88, 2), (77, 2), (74, 3), (67, 9), (63, 9), (35, 2), (20, 1)], inSlot 6 [(56, 1)]] false c
theorem test_amul_split : (atSplit.issues 0 0 2 && after (exec (.amul 0) atSplit) fun t =>
    (core0 t).verdicts.map (fun v => (v.tile, v.adds)) = [(none, [(berthKey 1 128, 0#32), (berthKey 1 176, 0#32)])]) = true := by decide +kernel

/-- AFLUSH of row 0, columns 0 and 1, of a3 to records in berth 1. -/
def atAflush (r : Bool) (fs : List (Nat × Nat)) : State := arrayCore r ([(88, 3), (85, 3), (77, 2), (35, 2)] ++ fs)
theorem test_aflush : ((atAflush false []).issues 0 0 3 && after (exec (.aflush 0) (atAflush false [])) fun t =>
    t.comp.addends = [⟨0, 0, berthKey 1 128, .fp32 0x3F800000#32⟩, ⟨0, 0, berthKey 1 176, .fp32 0x40000000#32⟩]) = true := by decide +kernel
theorem test_aflush_held : ((atAflush true []).issues 0 0 3 && after (exec (.aflush 0) (atAflush true [])) fun t =>
    (core0 t).held = [.flush (berthKey 1 128) 0x3F800000#32 0, .flush (berthKey 1 176) 0x40000000#32 0]) = true := by decide +kernel
theorem test_aflush_rpt : ((atAflush true [(34, 1), (22, 5)]).issues 0 0 3 && after (exec (.aflush 0) (atAflush true [(34, 1), (22, 5)])) fun t =>
    (core0 t).held = [] && ((core0 t).commit.map fun x => (x.1.resume, x.2.length)) = some (5, 2)) = true := by decide +kernel
theorem test_aclr : ((arrayCore false [(88, 4), (85, 3), (53, 2)]).issues 0 0 4 && after (exec (.aclr 0) (arrayCore false [(88, 4), (85, 3), (53, 2)])) fun t =>
    ((core0 t).tiles.getD 3 Tile.init).e = [(128, 0x40000000#32)] && ((core0 t).tiles.getD 3 Tile.init).cursor = 2) = true := by decide +kernel
theorem test_linit : ((arrayCore false [(88, 5), (77, 2), (35, 2)]).issues 0 0 5 && (arrayCore false []).mem.wf && after (exec (.linit 0) (arrayCore false [(88, 5), (77, 2), (35, 2)])) fun t =>
    t.mem.cells = [(sramKey 0 64, 17#8), (sramKey 0 65, 34#8), (sramKey 0 256, 2#8)]) = true := by decide +kernel

/-- Core 0 with an out-path operation; the record at offset 128 of berth 1 holds 1.0 and the next 3.0. -/
def outCore (fs : List (Nat × Nat)) : State :=
  let s := running [inSlot 4 fs, inSlot 6 [(56, 1)]] false aCore
  s.setComp { s.comp with las := [(berthKey 1 128, { LaEntry.init with value := 2 ^ 149 }), (berthKey 1 176, { LaEntry.init with value := 3 * 2 ^ 149 })] }
/-- OREAD of one row to FP32 at operand SRAM offset 256, columns 0 and 1. -/
def atOread : State := outCore [(56, 1), (53, 2), (50, 3), (46, 9), (3, 2), (30, 3)]
theorem test_oread : (atOread.issues 0 4 1 && after (exec (.oread 0) atOread) fun t =>
    bitsOf ((core0 t).regs.gr 2).toNat 79 48 = 65536 && bitsOf ((core0 t).regs.gr 3).toNat 79 48 = 65536) = true := by decide +kernel
/-- OVEC of v1 to FP32 at operand SRAM offset 256, lane 0, with the scale 2.0 of v2. -/
def atOvec : State := outCore [(56, 2), (53, 2), (50, 3), (46, 9), (30, 2), (7, 1), (3, 1)]
theorem test_ovec : (atOvec.issues 0 4 2 && after (exec (.ovec 0) atOvec) fun t => t.mem.read (sramKey 0 256) 4 = [0#8, 0#8, 0#8, 0x40#8]) = true := by decide +kernel
/-- The same, as a compressed tile. -/
def atOvecC : State := outCore [(56, 2), (53, 2), (50, 3), (46, 9), (30, 2), (38, 1), (7, 1), (3, 1)]
theorem test_ovec_compressed : (atOvecC.issues 0 4 2 && after (exec (.ovec 0) atOvecC) fun t => t.mem.tiles = [sramKey 0 256]) = true := by decide +kernel

/-- Core 0 with an array operation whose verdict has not arrived. -/
def awaiting : State := running [inSlot 6 [(56, 1)]] false { aCore with verdicts := [⟨some 3, 7, []⟩, ⟨none, 8, [(berthKey 1 128, 1#32)]⟩], tiles := [(3, { Tile.init with verdicts := 1 })] }
theorem test_residue_good : (awaiting.health.armed.isEmpty && after (exec (.residueVerdict 0 254) awaiting) fun t =>
    ((core0 t).tiles.getD 3 Tile.init).verdicts = 0 && (core0 t).verdicts.length = 1 && (core0 t).fault = none) = true := by decide +kernel
theorem test_residue_bad : after (exec (.residueVerdict 0 (-3)) awaiting) (fun t =>
    ((core0 t).tiles.getD 3 Tile.init).poisoned && (core0 t).stopped && (core0 t).fault = some ⟨6, 0, false, 7, 0⟩ && t.health.total = 1) = true := by decide +kernel

/-- An addend of 1.0 on its way to the record at offset 128 of berth 1, whose entry holds 1.0. -/
def withAddend : State := (outCore []).setComp { (outCore []).comp with addends := [⟨0, 0, berthKey 1 128, .fp32 0x3F800000#32⟩] }
theorem test_la_addend : (withAddend.laRoom (berthKey 1 128) && after (exec (.laAddend 0) withAddend) fun t =>
    ((t.comp.las.get? (berthKey 1 128)).map (fun e => (e.value, e.adds))) = some (2 ^ 150, 1) && t.comp.addends = []) = true := by decide +kernel
theorem test_la_addend_reaches : withAddend.recordBad (berthKey 1 128) = false ∧ withAddend.spanHeld 0x10001 128 48 = false ∧ withAddend.spanLost 0x10001 128 48 = false ∧
    (withAddend.berthAt 0x10001).any (fun b => (pagesTouched b.cls 128 48).all fun p => b.pages.has p) = true := by decide +kernel
theorem test_la_write_back : after (exec (.laWriteBack (berthKey 1 128)) (outCore [])) (fun t =>
    t.mem.read (berthKey 1 146) 1 = [0x20#8] && t.comp.las.length = 1) = true := by decide +kernel
theorem test_translation_fill : after (exec (.translationFill 0 0x10001#32 0) (outCore [])) (fun t =>
    t.place.tcs.get? 1 = some [(0x10001#32, 0)]) = true := by decide +kernel

/-! ### The sync slot -/

/-- A sync operation. -/
def sync (r : Bool) (fs : List (Nat × Nat)) : State := running [inSlot 5 fs, inSlot 6 [(56, 1)]] r aCore
/-- Core 0's group. -/
def group0 (s : State) : Group := s.comp.groups.getD 0 { cluster := 0, bound := false, nsem := 0, nev := 0, sems := [], events := [], left := 0 }
theorem test_spost : ((sync false [(40, 2), (32, 1), (0, 3)]).issues 0 5 2 && after (exec (.spost 0) (sync false [(40, 2), (32, 1), (0, 3)])) fun t => (group0 t).sems = [(1, 9)]) = true := by decide +kernel
theorem test_spost_held : ((sync true [(40, 2), (32, 1), (0, 3)]).issues 0 5 2 && after (exec (.spost 0) (sync true [(40, 2), (32, 1), (0, 3)])) fun t => (group0 t).sems = [(1, 6)] && (core0 t).held = [.spost 1 3 0]) = true := by decide +kernel
theorem test_eset : ((sync false [(40, 3), (32, 1)]).issues 0 5 3 && after (exec (.eset 0) (sync false [(40, 3), (32, 1)])) fun t => (group0 t).events = [1, 2]) = true := by decide +kernel
theorem test_eclr : ((sync false [(40, 4), (32, 2)]).issues 0 5 4 && after (exec (.eclr 0) (sync false [(40, 4), (32, 2)])) fun t => (group0 t).events = []) = true := by decide +kernel
theorem test_sgadd : ((sync false [(40, 7), (27, 6)]).issues 0 5 7 && (sync false []).fenceDone 0 3 && after (exec (.sgadd 0) (sync false [(40, 7), (27, 6)])) fun t =>
    t.comp.signals = [(9, 2#64)]) = true := by decide +kernel
theorem test_sgadd_held : ((sync true [(40, 7), (27, 6)]).issues 0 5 7 && after (exec (.sgadd 0) (sync true [(40, 7), (27, 6)])) fun t => (core0 t).held = [.sgadd 1 2 0xFFFF 0]) = true := by decide +kernel
/-- SGADD to module 5: an absent one, or a present peer. -/
def toFive (present : Bool) : State :=
  let s := running [inSlot 5 [(40, 7), (27, 1)], inSlot 6 [(56, 1)]] false { aCore with regs := { someRegs with s := [(1, 1#64), (2, 4#64), (3, 5#64)] } }
  if present then s.setNet { s.net with plan := some { direct := true, own := 0, fps := [], ports := [] }, peers := [(5, { Peer.init with present := true })] } else s
theorem test_sgadd_absent : ((toFive false).issues 0 5 7 && after (exec (.sgadd 0) (toFive false)) fun t => (core0 t).fault = some ⟨9, 5, false, 0, 0⟩) = true := by decide +kernel
theorem test_sgadd_peer : ((toFive true).issues 0 5 7 && after (exec (.sgadd 0) (toFive true)) fun t =>
    t.out = [.signal 5 1 4] && (t.net.unacked.map fun p => (p.dst, p.core)) = [(5, some (0, 0))]) = true := by decide +kernel
theorem test_swait : ((sync false [(40, 1), (32, 1), (0, 4)]).issues 0 5 1 && after (exec (.swait 0) (sync false [(40, 1), (32, 1), (0, 4)])) fun t => (group0 t).sems = [(1, 2)]) = true := by decide +kernel
theorem test_swait_waits : ((sync false [(40, 1), (32, 1), (0, 7)]).mayIssue 0 5 1 && after (exec (.swait 0) (sync false [(40, 1), (32, 1), (0, 7)])) fun t => (core0 t).waiting = some 0 && (core0 t).pc = 0) = true := by decide +kernel
theorem test_ewait : ((sync false [(40, 5), (32, 2)]).issues 0 5 5 && after (exec (.ewait 0) (sync false [(40, 5), (32, 2)])) fun t => (core0 t).pc = 1) = true := by decide +kernel
theorem test_sgwait : ((sync false [(40, 6), (27, 0)]).issues 0 5 6 && after (exec (.sgwait 0) (sync false [(40, 6), (27, 6)])) fun t => (core0 t).waiting = some 0) = true := by decide +kernel
theorem test_sgwait_holds : ((sync false [(40, 6), (27, 10)]).issues 0 5 6 && after (exec (.sgwait 0) (sync false [(40, 6), (27, 10)])) fun t => (core0 t).pc = 1) = true := by decide +kernel
theorem test_dwait : ((sync false [(40, 8), (32, 3)]).issues 0 5 8 && after (exec (.dwait 0) (sync false [(40, 8), (32, 3)])) fun t => (core0 t).pc = 1) = true := by decide +kernel
/-- The same waits, begun before. -/
def waited (op : Nat) (fs : List (Nat × Nat)) : State := running [inSlot 5 ([(40, op)] ++ fs), inSlot 6 [(56, 1)]] false { aCore with waiting := some 0 }
theorem test_wait_satisfied : ((waited 5 [(32, 2)]).mayIssue 0 5 5 && (waited 5 [(32, 2)]).waitHolds 0 5 && after (exec (.waitSatisfied 0) (waited 5 [(32, 2)])) fun t => (core0 t).pc = 1) = true := by decide +kernel
theorem test_wait_satisfied_swait : ((waited 1 [(32, 1), (0, 6)]).mayIssue 0 5 1 && after (exec (.waitSatisfied 0) (waited 1 [(32, 1), (0, 6)])) fun t => (group0 t).sems = [(1, 0)]) = true := by decide +kernel
theorem test_wait_timeout : after (exec (.waitTimeout (.core 0)) ((waited 5 [(32, 1)]).setClk { Clk.init with counter := 25000 })) (fun t => (core0 t).fault = some ⟨10, 5, true, 0, 0⟩) = true := by decide +kernel
theorem test_wait_timeout_waits : (((waited 5 [(32, 1)]).setClk { Clk.init with counter := 25000 }).bundle 0).all (fun b => slotOp b 5 = 5) = true ∧ ((waited 5 [(32, 1)]).setClk { Clk.init with counter := 25000 }).waitHolds 0 5 = false ∧
    after (exec (.waitTimeout (.core 0)) ((waited 5 [(32, 2)]).setClk { Clk.init with counter := 25000 })) (fun t => (core0 t).fault.isNone) = true := by decide +kernel
theorem test_sync_fence : ((sync false [(40, 9), (0, 3)]).issues 0 5 9 && (sync false [(40, 9), (0, 3)]).fenceDone 0 3 && after (exec (.syncFence 0) (sync false [(40, 9), (0, 3)])) fun t => (core0 t).pc = 1) = true := by decide +kernel
theorem test_restart : ((sync true [(40, 10), (0, 1)]).issues 0 5 10 && (sync true [(40, 10), (0, 1)]).restartReady 0 && after (exec (.restart 0) (sync true [(40, 10), (0, 1)])) fun t => ((core0 t).commit.map fun x => x.1.resume) = some 1) = true := by decide +kernel
theorem test_restart_other : ((sync false [(40, 10), (0, 1)]).issues 0 5 10 && after (exec (.restart 0) (sync false [(40, 10), (0, 1)])) fun t => (core0 t).commit = none && (core0 t).pc = 1) = true := by decide +kernel
/-- A restart point under way. -/
def committing (hs : List Held) : State := running [inSlot 6 [(56, 1)]] true { aCore with commit := some (⟨[], [], [], 4, []⟩, hs) }
theorem test_restart_point_commit : ((committing [.eset 1]).heldReady [.eset 1] && ((committing [.eset 1]).heldFault 0 [.eset 1]).isNone && after (exec (.restartPointCommit 0) (committing [.eset 1])) fun t =>
    ((t.comp.insts.get? 0).bind (·.save)).map (·.resume) = some 4 && (group0 t).events = [1, 2] && (core0 t).commit = none) = true := by decide +kernel
theorem test_restart_point_fault : after (exec (.restartPointCommit 0) (committing [.spost 1 65535 0])) (fun t =>
    (core0 t).fault = some ⟨4, 5, true, 0, 0⟩ && (group0 t).sems = [(1, 6)]) = true := by decide +kernel

/-- A launch of two instances, the second on core 1 or ended. -/
def pair (r : Bool) (second : InstSt) (c : Core) : State :=
  let s := running [inSlot 5 [(40, 11)]] r c
  s.setComp { s.comp with insts := [(0, anInst), (1, { anInst with index := 10, st := second })], cores := [(0, c), (1, { Core.init with inst := some 1 })] }
theorem test_end : ((pair false (.running 1) aCore).issues 0 5 11 && (pair false (.running 1) aCore).fenceDone 0 3 && after (exec (.endKernel 0) (pair false (.running 1) aCore)) fun t =>
    (core0 t).inst = none && (t.comp.insts.get? 0).map (fun x => (x.st, x.status)) = some (.ended, 0)) = true := by decide +kernel
theorem test_end_last : after (exec (.endKernel 0) (pair false .ended aCore)) (fun t => t.comp.launches = [] && t.comp.insts = []) = true := by decide +kernel
theorem test_kernel_fault : after (exec (.kernelFault 0) (pair false (.running 1) { aCore with fault := some ⟨2, 1, true, 0, 0⟩ })) (fun t =>
    (t.comp.insts.get? 0).map (fun x => (x.st, x.status)) = some (.ended, 0x301) && (t.coreOf 1).ending = some 0) = true := by decide +kernel
theorem test_kernel_fault_replay : ((pair true (.running 1) { aCore with fault := some ⟨6, 0, false, 0, 0⟩ }).replayable 0 && after (exec (.kernelFault 0) (pair true (.running 1) { aCore with fault := some ⟨6, 0, false, 0, 0⟩ })) fun t =>
    (t.comp.insts.get? 0).map (fun x => (x.st, x.tried, x.residue)) = some (.suspended, [0], true) && (t.coreHw 0).testing) = true := by decide +kernel
theorem test_kernel_told_to_end : after (exec (.kernelFault 0) (pair false (.running 1) { aCore with ending := some 0 })) (fun t => (core0 t).inst = none) = true := by decide +kernel
theorem test_fault_ready : (pair false (.running 1) { aCore with fault := some ⟨2, 1, true, 0, 0⟩ }).faultReady 0 = true ∧ (pair true (.running 1) { aCore with fault := some ⟨6, 0, false, 0, 0⟩ }).faultReady 0 = true ∧
    (pair false (.running 1) { aCore with ending := some 0 }).faultReady 0 = true := by decide +kernel

/-! ### Rings and command packets -/

/-- A packet: its opcode, its parameter words and its reply slot's units. -/
def packet (op rlen : Nat) (ws : List Nat) : List Byte :=
  let rslot := (32 + 8 * ws.length + 63) / 64
  leBytes 32 (enc [(0, op), (16, rslot + rlen), (27, rslot), (38, rlen), (64, 7), (96, 8 * ws.length)]) ++ ws.flatMap (leBytes 8) ++
    List.replicate (64 * (rslot + rlen) - 32 - 8 * ws.length) 0

/-- Ring `n` holds a packet that stands announced. -/
def onRing (n op rlen : Nat) (ws : List Nat) (s : State) : State :=
  let bs := packet op rlen ws
  (s.setRing n { Ring.init with base := 0x10000, tail := BitVec.ofNat 32 bs.length, st := .running }).setMem
    { s.mem with cells := cellsPut s.mem.cells 0x10000 bs }

/-- The premises of a packet row hold. -/
def taken (s : State) (n : Nat) (sel : Pkt → Bool) (bads : Pkt → State → List Bad) : Bool :=
  match s.packet n with
  | none => false
  | some p => sel p && s.acceptable p && (s.refusal p bads).isNone && !s.backpressured p && (s.ring n).bpSince.isNone &&
      s.mem.clean (sysKey ((s.ring n).addr (s.ring n).head)) p.bytes.length && (s.prog n p.at_).isNone

/-- The outcome of the command at offset 0 of a ring: its status and its results. -/
def result (s : State) (n : Nat) : Option (Nat × List W64) := (s.outcomeAt n 0).map fun o => (o.status, o.results)

/-- The module with job 0 open, its operating system up, no cluster awake. -/
def open0 : State :=
  let s := State.reset
  (s.setSide { s.side with pstate := .idle, harts := 1, v54 := true, pwrEn := true, resetN := true }).setCmd { s.cmd with jobs := [(0, aJob)] }

/-- A running ring with nothing announced. -/
def quietRing : State := open0.setRing 0 { Ring.init with base := 0x10000, st := .running }

theorem test_doorbell : after (exec (.doorbell 0 64) (onRing 0 0 0 [] quietRing |>.setRing 0 { Ring.init with base := 0x10000, st := .running })) (fun t => (t.ring 0).tail = 64 && (t.ring 0).st = .running && (t.ring 0).bells.length = 1) = true := by decide +kernel
theorem test_doorbell_header : after (exec (.doorbell 0 64) quietRing) (fun t => (t.ring 0).st = .stopped && (t.ring 0).err = 1 && (t.ring 0).tail = 64) = true := by decide +kernel
theorem test_doorbell_tail : after (exec (.doorbell 0 65) quietRing) (fun t => (t.ring 0).st = .stopped && (t.ring 0).err = 5 && (t.ring 0).errAt = 65 && (t.ring 0).tail = 0) = true := by decide +kernel
theorem test_doorbell_closed : after (exec (.doorbell 1 64) quietRing) (fun t => t = quietRing) = true := by decide +kernel

/-- A stopped ring with two announced units. -/
def stoppedRing : State := open0.setRing 0 { Ring.init with base := 0x10000, tail := 128, st := .stopped, err := 1 }
theorem test_ring_restart : after (exec (.ringRestart ⟨0, 0x203E000000000000⟩) stoppedRing) (fun t => (t.ring 0).st = .running && (t.ring 0).irqCore = 31 && (t.ring 0).head = 128 && (t.ring 0).done = 128) = true := by decide +kernel
theorem test_register_write_irq : after (exec (.registerWrite .rings 24 0x003E000000000000) quietRing) (fun t => (t.ring 0).irqCore = 31) = true := by decide +kernel
theorem test_register_write_mask : after (exec (.registerWrite .window 0x1C 0xFFFF) quietRing) (fun t => t.side.attnMask = 0x7F) = true := by decide +kernel
theorem test_register_write_other : after (exec (.registerWrite .rings 16 5) quietRing) (fun t => t = quietRing) = true := by decide +kernel
theorem test_admin_ring_open : after (exec (.adminRingOpen 0x8800000000020000) quietRing) (fun t => (t.ring 256).st = .running && (t.ring 256).size = 1 && (t.ring 256).base = 0x20000 && t.cmd.adminDesc = 0x8800000000020000) = true := by decide +kernel
theorem test_admin_ring_overlap : after (exec (.adminRingOpen 0x8000000000010000) quietRing) (fun t => t = quietRing) = true := by decide +kernel
theorem test_admin_ring_close : after (exec (.adminRingClose 0) (quietRing.setRing 256 { Ring.init with st := .running, base := 0x20000 })) (fun t => (t.ring 256).st = .closed) = true := by decide +kernel

theorem test_nop : taken (onRing 0 0 1 [9] open0) 0 (fun p => p.op = 0) (fun _ _ => []) = true ∧ after (exec (.nop 0) (onRing 0 0 1 [9] open0)) (fun t => result t 0 = some (0, []) && (t.ring 0).head = 128 && (t.cmd.jobs.get? 0).map (fun j => (j.cmdLog.getD 0 []).length) = some 64) = true := by decide +kernel
theorem test_nop_unassigned : after (exec (.nop 0) (onRing 0 0x7FF 1 [] open0)) (fun t => result t 0 = some (0x0302, [])) = true := by decide +kernel
/-- An unassigned opcode with a reserved header bit: MALFORMED is the lower code of the class (R284, R285). -/
theorem test_nop_malformed : worst [(0x0302, 0), (stMalformed, 0)] = some (0x0301, 0) ∧ worst (mal 4 true ++ refuseIf true stMalformed 0 ++ mal 2 true) = some (0x0301, 0x23000002) := by decide +kernel
/-- A launch that marks its first argument, berth 1, as prefetchable. -/
def marked : State :=
  let s := open0.setPlace { open0.place with berths := [(1, aBerth)] }
  let s := s.setChip { s.chip with enMask := 1 }
  onRing 0 0x0202 1 [0, 0, 3, 0x10001, 0, 0, 0, 0, 0, 0, 0] s
theorem test_look_ahead : ((marked.packetAhead 0 0).any fun p => p.prefetchable = [(0x10001#32, false)]) = true ∧ marked.clustersIn = [0] ∧ after (exec (.lookAheadRead 0) marked) (fun t => (t.ring 0).ahead = 1) = true := by decide +kernel
theorem test_look_ahead_nop : after (exec (.lookAheadRead 0) (onRing 0 0 1 [] open0)) (fun t => (t.ring 0).ahead = 1 && t.place.fetches = []) = true := by decide +kernel
/-- Two jobs with the same packet announced, of which the second has the higher priority. -/
def ranked : State := marked.setCmd { marked.cmd with jobs := [(0, aJob), (1, { aJob with prio := 200 })], rings := marked.cmd.rings ++ [(4, marked.ring 0)] }
theorem test_look_ahead_order : ranked.ringBefore 4 0 = true ∧ ranked.unread 4 = true ∧ ranked.ringBefore 0 4 = false ∧ after (exec (.lookAheadRead 0) ranked) (fun t => (t.ring 0).ahead = 0) = true ∧
    after (exec (.lookAheadRead 4) ranked) (fun t => (t.ring 4).ahead = 1) = true ∧ marked.paused = false := by decide +kernel

/-- A command in progress at offset 0 of ring `n`, of an opcode, with its work and its outcome. -/
def prog (n op rlen : Nat) (w : Work) (o : Option Outc) (ws : List W64) : Prog :=
  { ring := n, at_ := 0, hdr := BitVec.ofNat 256 (enc [(0, op), (16, 1 + rlen), (27, 1), (38, rlen), (50, 1), (64, 7), (96, 8 * ws.length)]), words := ws, acceptedAt := 0,
    bellAt := 0, bpWait := 0, netWait := 0, bp := false, claims := [], taken := [], work := w, note := 0, noteDetail := 0, outcome := o }

/-- A command of ring `n` in progress in a state. -/
def inProg (n : Nat) (g : Prog) (s : State) : State :=
  let s := s.setRing n { Ring.init with base := 0x10000, tail := BitVec.ofNat 32 (phLen g.hdr), head := BitVec.ofNat 32 (phLen g.hdr), st := .running, irqCore := 3 }
  s.setCmd { s.cmd with progs := s.cmd.progs ++ [g] }

theorem test_refused : after (exec (.berthAlloc 0 0 0) (onRing 0 0x0101 1 [0, 0] open0)) (fun t => result t 0 = some (0x0301, []) && t.place = open0.place) = true := by decide +kernel
theorem test_refused_admin : after (exec .jobClose (onRing 256 0x0002 1 [5] open0)) (fun t => result t 256 = some (0x0301, []) && t.cmd.jobs = open0.cmd.jobs) = true := by decide +kernel

/-- A launch whose one instance waits, accepted at counter 0, with no cluster enabled. -/
def starved (filler : Bool) : State :=
  let s := inProg 0 (prog 0 0x0202 2 (.launch 0) none []) open0
  ((s.setComp { s.comp with launches := [(0, { aLaunch with filler := filler })], insts := [(0, { anInst with st := .waiting })] }).setClk { Clk.init with counter := 25000 }).setChip
    { s.chip with enMask := 0 }
theorem test_wait_timeout_launch : after (exec (.waitTimeout (.launch 0)) (starved false)) (fun t => t.comp.launches = [] && t.comp.insts = [] && (t.outcomeAt 0 0).any (·.status = 0x0403)) = true ∧
    after (exec (.waitTimeout (.launch 0)) (starved true)) (fun t => t.comp.insts.length = 1) = true := by decide +kernel

/-- A SIGNAL that is done, with two results that do not both fit. -/
def ended : State := inProg 0 (prog 0 5 1 .none (some { status := 0, note := 0, detail := 0, results := [1, 2, 3, 4, 5#64] }) [0]) open0
theorem test_command_complete : (ended.prog 0 0).any (fun g => (ended.progOutcome g).isSome) = true ∧ after (exec (.commandComplete 0 0) ended) (fun t =>
    (t.prog 0 0).isNone && (t.ring 0).done = 128 && t.out.head? = some (.irq 3 1) && t.mem.read 0x10040 16 = [0, 0, 0, 0, 3, 0, 32, 0, 7, 0, 0, 0, 0, 0, 0, 0] &&
    t.mem.read 0x10060 32 = leBytes 8 1 ++ leBytes 8 2 ++ leBytes 8 3 ++ leBytes 8 4) = true := by decide +kernel
/-- A job that closes, with a berth. -/
def closing : State :=
  let s := open0.setPlace { open0.place with berths := [(1, aBerth)] }
  inProg 256 (prog 256 2 0 (.close 0 0) none [0]) (s.setRing 0 { Ring.init with st := .running })
theorem test_close_completes : (closing.prog 256 0).any (fun g => (closing.progOutcome g).any fun o => decide (o.status < 256)) = true ∧ after (exec (.commandComplete 256 0) closing) (fun t =>
    t.cmd.jobs = [] && t.place.berths = [] && (t.ring 0).st = .closed) = true := by decide +kernel
/-- A berth that is being freed. -/
def freeing : State := inProg 0 (prog 0 0x0102 0 (.berthFree 1) none [0x10001]) (open0.setPlace { open0.place with berths := [(1, aBerth)] })
theorem test_free_completes : (freeing.prog 0 0).any (fun g => (freeing.progOutcome g).any fun o => decide (o.status < 256)) = true ∧ after (exec (.commandComplete 0 0) freeing) (fun t =>
    t.place.berths = [] && t.place.gens = [(1, 2)]) = true := by decide +kernel

/-- A STASH_PUT that waits under back-pressure since 0. -/
def bpWaiting (now : Nat) (bp : Bool) : State :=
  let s := onRing 0 0x0501 1 [0, 0, 0, 0, 0, 0, 0, 0] open0
  let s := s.setRing 0 { (s.ring 0) with bpSince := some 0 }
  let s := s.setQuay { s.quay with pools := [(0, { backing := 0x10001, first := 0, count := 4, held := 0, size := 0, job := 0, warn := false, armed := true, bp := bp, sigEn := false, signal := 0 })],
                                   reqs := [(3, { Req.init with pool := some 0, max := 4 })] }
  s.setClk { s.clk with counter := BitVec.ofNat 64 now }
theorem test_backpressure_end : ((bpWaiting 26 false).packet 0).any (fun p => !(bpWaiting 26 false).backpressured p && engineOf p.op = some 3) = true ∧
    after (exec (.backpressureEnd 0) (bpWaiting 26 false)) (fun t => result t 0 = some (0x0301, []) && (t.req 3).bpWait = 2 && (t.prog 0 0).any (·.bp)) = true := by decide +kernel
theorem test_backpressure_holds : after (exec (.backpressureEnd 0) (bpWaiting 26 true)) (fun t => t = bpWaiting 26 true) = true := by decide +kernel
theorem test_backpressure_limit : after (exec (.backpressureWaitLimit 0) (bpWaiting 25000 true)) (fun t => result t 0 = some (0x0301, []) && (t.req 3).bpWait = 1000) = true := by decide +kernel

/-- A JOB_OPEN of a filler with 2 signal words, a one-granule table at 0x8000 and one ring at 0x20000. -/
def opening : State :=
  onRing 256 1 1 [0x55, 2 ^ 63 + 3 * 2 ^ 49 + 2 ^ 48 + 2 ^ 32 * 16 + 5, 2 * 2 ^ 16, 9, 2 ^ 48 + 0x8000, 2 ^ 63 + 0x20000, 0, 0, 0]
    (open0.setMem { open0.mem with cells := [(0x8004, 4#8)] })
theorem test_job_open : taken opening 256 (isOp 1) jobOpenBad = true ∧ after (exec (.jobOpen 7 100) opening) (fun t =>
    (result t 256).any (fun r => r.1 = 0 && r.2.head? = some 7) && (t.cmd.jobs.get? 7).any (fun j => j.seed = 0x55 && j.filler && j.prio = 3 && j.thin = 16 && j.rare = 5 &&
      j.waitMs = 1000 && j.sigBase = 100 && j.sigWords = 2 && j.step = 9 && j.granules = [(0, 4)]) && (t.ring 28).st = .running && (t.ring 28).base = 0x20000) = true := by decide +kernel
theorem test_job_priority : taken (onRing 256 3 1 [5 * 256] open0) 256 (isOp 3) noJob = true ∧ after (exec .jobPriority (onRing 256 3 1 [5 * 256] open0)) (fun t =>
    result t 256 = some (0, [0]) && (t.cmd.jobs.get? 0).map (·.prio) = some 5) = true := by decide +kernel
/-- A JOB_CLOSE of job 0, whose ring 0 holds an announced NOP. -/
def toClose (abort : Nat) : State :=
  let s := onRing 0 0 0 [] open0
  let s := s.setRing 0 { (s.ring 0) with base := 0x30000 }
  onRing 256 2 1 [abort * 256] (s.setMem { s.mem with cells := cellsPut [] 0x30000 (packet 0 0 []) })
theorem test_job_close : taken (toClose 0) 256 (isOp 2) noJob = true ∧ after (exec .jobClose (toClose 0)) (fun t => (t.cmd.jobs.get? 0).map (·.closing) = some (some 0) && result t 256 = none) = true := by decide +kernel
theorem test_job_abort : taken (toClose 1) 256 (isOp 2) noJob = true ∧ after (exec .jobClose (toClose 1)) (fun t => result t 256 = some (0, [1]) && (t.ring 0).head = 64) = true := by decide +kernel
/-- A job whose close has waited 1 ms with a packet unaccepted. -/
def lateClose : State :=
  let s := open0.setClk { open0.clk with counter := 25000 }
  let s := s.setCmd { s.cmd with jobs := [(0, { aJob with closing := some 0 })] }
  inProg 256 (prog 256 2 0 (.close 0 0) none [0]) (s.setRing 0 { Ring.init with st := .running, tail := 64 })
theorem test_job_close_timeout : lateClose.drained 0 = false ∧ after (exec (.jobCloseTimeout 0) lateClose) (fun t => result t 256 = some (0x0403, []) && (t.cmd.jobs.get? 0).map (·.closing) = some none) = true := by decide +kernel

theorem test_fence : taken (onRing 0 4 1 [0] open0) 0 (isOp 4) (fun _ _ => []) = true ∧ after (exec (.fence 0) (onRing 0 4 1 [0] open0)) (fun t => result t 0 = some (0, [])) = true := by decide +kernel
/-- A FENCE of the whole job, while a packet of ring 1 is in progress. -/
def wideFence : State := onRing 0 4 1 [1] (inProg 1 (prog 1 5 0 .none none [0]) open0)
theorem test_fence_wide : taken wideFence 0 (isOp 4) (fun _ _ => []) = true ∧ after (exec (.fence 0) wideFence) (fun t => (t.prog 0 0).any (fun g => g.work = .fence [(1, 0)] && g.outcome.isNone)) = true := by decide +kernel
/-- What refuses a SIGNAL. -/
def signalBad : Pkt → State → List Bad :=
  fun p s => badWord p s ++ mal 0 (!(p.f 0 31 16 = 0xFFFF || s.ownIndex = some (p.f 0 31 16)) && s.noModule (p.f 0 31 16))
theorem test_signal : taken (onRing 0 5 1 [0xFFFF0002, 7] open0) 0 (isOp 5) signalBad = true ∧ after (exec (.signal 0) (onRing 0 5 1 [0xFFFF0002, 7] open0)) (fun t => result t 0 = some (0, []) && t.signalWord 10 = 7) = true := by decide +kernel
/-- A module of a domain with a peer, module 5. -/
def withPeer (present : Bool) (s : State) : State :=
  s.setNet { s.net with plan := some { direct := true, own := 0, fps := [(0, 1), (5, 2)], ports := [] }, peers := if present then [(5, { Peer.init with present := true })] else [] }
theorem test_signal_peer : taken (withPeer true (onRing 0 5 1 [0x00050002, 7] open0)) 0 (isOp 5) signalBad = true ∧ after (exec (.signal 0) (withPeer true (onRing 0 5 1 [0x00050002, 7] open0))) (fun t =>
    result t 0 = none && (t.net.unacked.map fun x => (x.dst, x.msg, x.cmd)) = [(5, some (.signal 5 2 7), some (0, 0))]) = true := by decide +kernel
theorem test_signal_absent : taken (withPeer false (onRing 0 5 1 [0x00050002, 7] open0)) 0 (isOp 5) signalBad = true ∧ after (exec (.signal 0) (withPeer false (onRing 0 5 1 [0x00050002, 7] open0))) (fun t =>
    t.outcomeAt 0 0 = some { status := 0x0404, note := 0x0100, detail := 0x20000005, results := [] }) = true := by decide +kernel
theorem test_wait : taken (onRing 0 6 1 [1, 9] open0) 0 (isOp 6) badWord = true ∧ after (exec (.wait 0) (onRing 0 6 1 [1, 9] open0)) (fun t => (t.prog 0 0).any (fun g => g.work = .signalWait 9 9 0)) = true := by decide +kernel
theorem test_wait_reached : taken (onRing 0 6 1 [1, 0] open0) 0 (isOp 6) badWord = true ∧ after (exec (.wait 0) (onRing 0 6 1 [1, 0] open0)) (fun t =>
    (t.prog 0 0).any fun g => t.progOutcome g = some { status := 0, note := 0, detail := 0, results := [0] }) = true := by decide +kernel
theorem test_wait_outcomes : (open0.progOutcome (prog 0 6 1 (.signalWait 9 0 0) none [1, 0])).map (·.status) = some 0 ∧ (open0.progOutcome (prog 0 6 1 (.signalWait 9 1 0) none [1, 0])) = none ∧
    ((open0.setClk { open0.clk with counter := 25000 }).progOutcome (prog 0 6 1 (.signalWait 9 1 0) none [1, 0])).map (·.status) = some 0x0403 := by decide +kernel

/-! ### Pools -/

/-- The module with berth 1 of job 0. -/
def berth1 : State := open0.setPlace { open0.place with berths := [(1, aBerth)] }
/-- A pool of 4 buffers over berth 1, its send requester bound. -/
def pooled : State :=
  berth1.setQuay { berth1.quay with pools := [(3, { backing := 0x10001, first := 8, count := 4, held := 1, size := 0, job := 0, warn := true, armed := false, bp := false, sigEn := false, signal := 0 })],
                                    reqs := [(1, { Req.init with pool := some 3, min := 1, max := 4, held := 1, peak := 3, warn := true }), (2, { Req.init with pool := some 3, min := 1, max := 2 })],
                                    descs := [(8, { Desc.init with held := true, owners := [some (1, false), none, none, none], charge := 1, pool := 3 })] }
theorem test_pool_create : taken (onRing 0 0x0601 1 [2 ^ 36 * 4 + 0x10001, 0] berth1) 0 (isOp 0x0601) poolCreateBad = true ∧ after (exec (.poolCreate 0 5 16) (onRing 0 0x0601 1 [2 ^ 36 * 4 + 0x10001, 0] berth1)) (fun t =>
    result t 0 = some (0, [0x100005]) && (t.quay.pools.get? 5).map (fun q => (q.first, q.count)) = some (16, 4) && (t.place.berths.get? 1).map (·.pool) = some (some 5)) = true := by decide +kernel
theorem test_pool_quota : taken (onRing 0 0x0602 1 [3, 2 ^ 32 * 2] pooled) 0 (fun p => p.op = 0x0602 && !p.bit 0 10) poolQuotaBad = true ∧ after (exec (.poolQuota 0) (onRing 0 0x0602 1 [3, 2 ^ 32 * 2] pooled)) (fun t =>
    result t 0 = some (0, [0]) && (t.req 0).pool = some 3 && (t.req 0).max = 2) = true := by decide +kernel
theorem test_unbind : taken (onRing 0 0x0602 1 [2 ^ 10 + 2 * 2 ^ 6 + 3, 0] pooled) 0 (fun p => p.op = 0x0602 && p.bit 0 10)
      (fun p s => noPool p s ++ mal 0 (5 < p.f 0 9 6 || (s.req p.quotaReq).held != 0 || (s.req p.quotaReq).pool != some (p.f 0 5 0))) = true ∧
    after (exec (.unbind 0) (onRing 0 0x0602 1 [2 ^ 10 + 2 * 2 ^ 6 + 3, 0] pooled)) (fun t => result t 0 = some (0, [0x200000001]) && (t.req 2).pool = none) = true := by decide +kernel
theorem test_pool_status : taken (onRing 0 0x0603 2 [2 ^ 7 + 3, 0] pooled) 0 (isOp 0x0603) noPool = true ∧ after (exec (.poolStatus 0) (onRing 0 0x0603 2 [2 ^ 7 + 3, 0] pooled)) (fun t =>
    (result t 0).any (fun r => r.2.length = 7) && (t.req 1).peak = 1 && !(t.req 1).warn && (t.quay.pools.get? 3).map (·.warn) = some false) = true := by decide +kernel
theorem test_pool_status_reads : after (exec (.poolStatus 0) (onRing 0 0x0603 2 [3, 0] pooled)) (fun t => t.quay = pooled.quay) = true := by decide +kernel
theorem test_take : (pooled.quayTake 1 2 [] 0).1.descs = [9, 10] ∧ ((pooled.quayTake 1 2 [] 0).2.req 1).held = 3 := by decide +kernel
theorem test_take_max : (pooled.quayTake 1 4 [] 0).1.status = 0x0201 ∧ (pooled.quayTake 9 1 [] 0).1.status = 0x0201 := by decide +kernel
theorem test_take_empty : (pooled.quayTake 1 3 [] 0).1 = { status := 0x0202, detail := 0x0A000001, descs := [], warned := none } := by decide +kernel

/-! ### Berths and kernels -/

/-- The premises of a packet row hold on ring 0 of job 0 with a packet, and its command makes a state of which a fact holds. -/
def runs (s : State) (op rlen : Nat) (ws : List Nat) (sel : Pkt → Bool) (bads : Pkt → State → List Bad) (c : Instr) (f : State → Bool) : Bool :=
  taken (onRing 0 op rlen ws s) 0 sel bads && after (exec c (onRing 0 op rlen ws s)) f
/-- The same on the admin ring. -/
def runsA (s : State) (op rlen : Nat) (ws : List Nat) (sel : Pkt → Bool) (bads : Pkt → State → List Bad) (c : Instr) (f : State → Bool) : Bool :=
  taken (onRing 256 op rlen ws s) 256 sel bads && after (exec c (onRing 256 op rlen ws s)) f

theorem test_berth_alloc : runs berth1 0x0101 1 [2 ^ 48 + 4096, 0] (isOp 0x0101) berthAllocBad (.berthAlloc 0 5 0) (fun t =>
    result t 0 = some (0, [0x10005]) && (t.place.berths.get? 5).any (fun b => b.length = 4096 && b.cls = 1 && b.job = 0)) = true := by decide +kernel
/-- Berth 1 as a hot berth, and a cluster in service. -/
def hot1 : State :=
  let s := open0.setPlace { open0.place with berths := [(1, { aBerth with cls := 0, pages := [] })] }
  s.setChip { s.chip with enMask := 1 }
theorem test_berth_alloc_pinned : runs hot1 0x0101 1 [3 * 2 ^ 48 + 4096, 0] (isOp 0x0101) berthAllocBad (.berthAlloc 0 5 9) (fun t => (t.place.berths.get? 5).any (fun b => b.pinAt = some 0)) = true := by decide +kernel
theorem test_berth_free : runs berth1 0x0102 1 [0x10001] (isOp 0x0102) (fun p s => s.handleBad p.job 0 (p.lo 0) ++ mal 0 ((s.berthAt (p.lo 0)).any fun b => b.pool.isSome || b.freeing)) (.berthFree 0) (fun t =>
    (t.place.berths.get? 1).any (·.freeing) && (t.prog 0 0).any (fun g => g.work = .berthFree 1)) = true := by decide +kernel
theorem test_berth_hint : runs berth1 0x0103 1 [2 ^ 45 + 2 ^ 44 + 32 * 2 ^ 32 + 0x10001] (isOp 0x0103) berthHintBad (.berthHint 0) (fun t =>
    (t.place.berths.get? 1).any (fun b => b.hints = 32) && (t.cmd.jobs.get? 0).any (·.frozen) && result t 0 = some (0, [])) = true := by decide +kernel
theorem test_berth_unfreeze : runs berth1 0x0103 1 [2 * 2 ^ 45] (isOp 0x0103) berthHintBad (.berthHint 0) (fun t => !(t.cmd.jobs.get? 0).any (·.frozen) && t.place = berth1.place) = true := by decide +kernel
theorem test_berth_pin : runs hot1 0x0104 1 [2 ^ 32 + 0x10001] (isOp 0x0104) berthPinBad (.berthPin 0 0) (fun t => (t.place.berths.get? 1).any (fun b => b.cls = 3 && b.pinAt = some 0)) = true := by decide +kernel
theorem test_berth_pinned : runs (hot1.setPlace { hot1.place with berths := [(1, { aBerth with cls := 3, pinAt := some 0 })] }) 0x0104 1 [2 ^ 32 + 0x10001] (isOp 0x0104) berthPinBad (.berthPin 0 0) (fun t => result t 0 = some (0, [])) = true := by decide +kernel
theorem test_berth_unpin : runs (hot1.setPlace { hot1.place with berths := [(1, { aBerth with cls := 3, pinAt := some 0 })] }) 0x0104 1 [0x10001] (isOp 0x0104) berthPinBad (.berthPin 0 0) (fun t => (t.place.berths.get? 1).any (fun b => b.cls = 0 && b.pinAt = none)) = true := by decide +kernel
theorem test_berth_query : runs berth1 0x0105 2 [2 * 2 ^ 32, 0] (isOp 0x0105) (fun p s => mal 0 (4 < p.f 0 34 32) ++ (if p.f 0 34 32 < 2 then s.handleBad p.job 0 (p.lo 0) else [])) (.berthQuery 0) (fun t =>
    result t 0 = some (0, [1, 0, 0, 1, 1, 0, 0])) = true := by decide +kernel
/-- The reply of BERTH_QUERY tells whether placement is frozen as it is written. -/
theorem test_berth_query_frozen : ((open0.setCmd { open0.cmd with jobs := [(0, { aJob with frozen := true })] }).resultsAt (prog 0 0x0105 1 .none none [2 * 2 ^ 32, 0]) { Outc.of 0 0 with results := [0, 0, 0, 0, 0, 0, 9, 0] }) = [0, 0, 0, 0, 0, 0, 1, 0] ∧
    open0.resultsAt (prog 0 0x0105 1 .none none [2 * 2 ^ 32, 0]) { Outc.of 0 0 with results := [0, 0, 0, 0, 0, 0, 9, 0] } = [0, 0, 0, 0, 0, 0, 0, 0] := by decide +kernel
/-- System bytes to copy. -/
def copying : State := berth1.setMem { berth1.mem with cells := [(0x8000, 1#8), (0x8001, 2#8), (0x8080, 3#8)] }
theorem test_berth_copy : runs copying 0x0106 1 [0x10001 * 2 ^ 32, 2 ^ 48 + 0x8000, 64, 3, 0] (isOp 0x0106) berthCopyBad (.berthCopy 0) (fun t =>
    t.mem.read (berthKey 1 64) 3 = [1, 2, 0] && result t 0 = some (0, [])) = true := by decide +kernel
theorem test_berth_copy_poison : runs (copying.setMem { copying.mem with poison := [0x200] }) 0x0106 1 [0x10001 * 2 ^ 32, 2 ^ 48 + 0x8000, 64, 3, 0] (isOp 0x0106) berthCopyBad (.berthCopy 0) (fun t =>
    result t 0 = some (0x0401, [])) = true := by decide +kernel
theorem test_berth_copy_transposed : taken (onRing 0 0x0106 1 [0x10001 * 2 ^ 32, 2 ^ 48 + 0x8000, 0, trBytes 0, 128 * 2 ^ 32 + 16] copying) 0 (isOp 0x0106) berthCopyBad = true := by decide +kernel
theorem test_berth_fill : runs berth1 0x0107 1 [0x10001, 8, 16, 0x0102, 0, 0] (isOp 0x0107) berthFillBad (.berthFill 0) (fun t => t.mem.read (berthKey 1 8) 10 = [2, 1, 0, 0, 0, 0, 0, 0, 2, 1]) = true := by decide +kernel
theorem test_berth_fill_random : runs berth1 0x0107 1 [2 ^ 32 + 0x10001, 8, 2 ^ 32 + 1, 0, 0, 0] (isOp 0x0107) berthFillBad (.berthFill 0) (fun t => result t 0 = some (0, [])) = true := by decide +kernel

theorem test_kernel_load : runs copying 0x0201 1 [0, 2 ^ 48 + 0x8000, 2 ^ 16 + 1] (isOp 0x0201) kernelLoadBad (.kernelLoad 0 6) (fun t =>
    result t 0 = some (0, [6]) && (t.cmd.kernels.get? 6).any (fun k => k.restartable && k.image = [0x0201#512] && k.job = 0)) = true := by decide +kernel
/-- A kernel of job 0, and a gated cluster in service. -/
def loaded : State :=
  let s := hot1.setCmd { hot1.cmd with kernels := [(0, { job := 0, restartable := false, image := [inSlot 5 [(40, 11)]] })] }
  s
theorem test_look_ahead_launch : ((onRing 0 0x0202 1 [3 * 2 ^ 16 + 2 ^ 32, 0, 3, 0x10001, 0, 0, 0, 0, 0, 0, 0] loaded).packetAhead 0 0).any (fun p => p.op = 0x0202 && p.masks.isSome) = true := by decide +kernel
theorem test_kernel_launch : runs loaded 0x0202 1 [3 * 2 ^ 16 + 2 ^ 32, 0, 0, 9, 0, 0, 0, 0, 0, 0, 0] (fun p => p.op = 0x0202 && !launchHeld p loaded) launchBad (.kernelLaunch 0 []) (fun t =>
    (t.comp.launches.get? 0).any (fun l => l.total = 3 && l.args.head? = some 9) && (t.comp.insts.get? 5).any (fun y => y.index = 2 && y.rank = 0 && y.groupSize = 1) &&
    (t.comp.insts.get? 4).any (fun y => y.index = 1 && y.rank = 1 && y.groupSize = 2) && (t.prog 0 0).any (fun g => g.work = .launch 0)) = true := by decide +kernel
/-- A launch in progress on core 0, and a KERNEL_ABORT of it. -/
def aborting (seq : Nat) : State :=
  let s := running [inSlot 5 [(40, 11)]] false aCore
  let s := s.setCmd { s.cmd with progs := [{ prog 1 0x0202 1 (.launch 0) none [] with at_ := 0 }] }
  let s := s.setComp { s.comp with launches := [(0, { aLaunch with ring := 1 })] }
  onRing 0 0x0203 1 [seq * 2 ^ 32 + 1] s
theorem test_kernel_abort : taken (aborting 7) 0 (isOp 0x0203) (fun _ _ => []) = true ∧ after (exec (.kernelAbort 0) (aborting 7)) (fun t => result t 0 = some (0, []) && (core0 t).ending = some 0x0402) = true := by decide +kernel
theorem test_kernel_abort_none : taken (aborting 8) 0 (isOp 0x0203) (fun _ _ => []) = true ∧ after (exec (.kernelAbort 0) (aborting 8)) (fun t => result t 0 = some (2, []) && (core0 t).ending = none) = true := by decide +kernel
/-- A filler on core 0 that was asked to leave at 0. -/
def leaving : State :=
  let s := running [inSlot 5 [(40, 11)]] true { aCore with leave := some 0, held := [.eset 1] }
  (s.setComp { s.comp with launches := [(0, { aLaunch with filler := true })] }).setClk { s.clk with counter := 2000 }
theorem test_filler_preempt : after (exec (.fillerPreemptTimeout 0) leaving) (fun t => (core0 t).inst = none && (t.comp.insts.get? 0).map (·.st) = some .suspended) = true := by decide +kernel

/-! ### Plans and exchanges -/

/-- A window of job 0 that grants module 5 every kind of message. -/
def aWindow : Window :=
  { sources := 32, berth := 0, stashBytes := 0, job := 0, farEp := none, rd := true, wr := true, acc := true, sig := true, exch := true, coll := true, stash := false, used := 0 }
/-- Module 0 of a domain with module 5, present, and berth 1. -/
def domain : State := withPeer true (berth1.setNet { berth1.net with windows := [(0, aWindow)] })
/-- The domain, with module 5 absent. -/
def alone : State := domain.setNet { domain.net with peers := [] }
/-- A ROUTE_PLAN of modules 0 and 5 whose other parameters are out of range. -/
theorem test_route_plan : runs domain 0x0301 1 [9, 0, 33, 0, 0, 0, 0] (isOp 0x0301) routePlanBad (.routePlan 0) (fun t =>
    (t.plan 0 9).any (fun x => x.st = .planning .open && !x.own.ok && x.own.status = 0x0301) && result t 0 = none &&
    t.out.any (fun o => match o with | .openMarker 5 0 9 m => !m.ok | _ => false)) = true := by decide +kernel
theorem test_route_plan_absent : runs alone 0x0301 1 [9, 0, 33, 0, 0, 0, 0] (isOp 0x0301) routePlanBad (.routePlan 0) (fun t =>
    t.plan 0 9 = none && t.outcomeAt 0 0 = some { status := 0x0404, note := 0x0100, detail := 0x20000005, results := [] }) = true := by decide +kernel
theorem test_expert_map : runs (domain.setPlace { domain.place with berths := [(1, { aBerth with hints := 0x80 })] }) 0x0306 1 [3 * 2 ^ 16 + 2 * 2 ^ 4, 0x10001] (isOp 0x0306) expertMapBad (.expertMap 0) (fun t =>
    result t 0 = some (0, []) && t.exch.bindings.keyList = [2 * 4096 + 3]) = true := by decide +kernel
/-- A binding of expert 3 of layer 2. -/
def aBinding : Binding := { job := 0, layer := 2, expert := 3, wHandle := 0x10001, gradHandle := 0, stepTokens := 0, accepted := 0, replicas := 0, thin := false }
theorem test_expert_unmap : runs (domain.setExch { domain.exch with bindings := [(2 * 4096 + 3, aBinding)] }) 0x0306 1 [3 * 2 ^ 16 + 2 * 2 ^ 4 + 1, 0] (isOp 0x0306) expertMapBad (.expertMap 0) (fun t =>
    result t 0 = some (0, []) && t.exch.bindings = []) = true := by decide +kernel

/-- Parameters of a plan of two experts of modules 0 and 5, one choice a token, room for one row of one element. -/
def someParams : PlanParams := { layer := 2, experts := 2, topk := 1, depth := 1, cap := 1, fmt := 0, width := 1, parts := 33 }
/-- A marker that is OK. -/
def okMarker : OpenMarker := { ok := true, status := 0, crc := 4, params := someParams }
/-- Token 70, whose candidates are experts 0 and 1, and its choice. -/
def aToken : TokRec := { token := 70, granule := 0, seq := 0, loose := false, skip := false, cands := [(0x3F800000, 0x3F000000, 0), (0, 0x3F800000, 1)] }
/-- A choice of position 0. -/
def aChoice (fate : Fate) (cand : Nat) : Choice := { pos := 0, slot := 0, cand := cand, depth := cand, fate := fate, row := 0, answered := false, rejected := false }
/-- A plan of tag 9: expert 0 here, expert 1 at module 5. -/
def aPlan (st : PlanSt) : Plan :=
  { job := 0, tag := 9, ring := 0, at_ := 0, params := someParams, tokens := [aToken], owner := [0, 5], local_ := [0], crc := 4, rindex := 0, rlog := 0, bufs := [], own := okMarker,
    detail := 0, st := st, since := 0, markers := [(0, okMarker)], round := 0, ends := [], vends := [], choices := [aChoice .open 0], cands := [], accepted := [], rejFirm := [],
    rejLoose := [], finals := 0, carried := 0, busy := false, combineRec := 0x10001, gradRec := 0x10001, arrived := [], staged := [], bad := [], srcBad := false, exchSince := 0 }
/-- The domain with a plan and its ROUTE_PLAN in progress. -/
def planning (x : Plan) : State := (inProg 0 (prog 0 0x0301 1 (.plan 9) none [0, 0, 0, 0, 0, 0, 0]) domain).setExch { domain.exch with plans := [(9, x)] }
/-- The plan of tag 9. -/
def plan9 (s : State) : Plan := (s.plan 0 9).getD (aPlan .planned)

theorem test_open_marker_held : domain.grants 0 5 (·.exch) = true ∧ after (exec (.openMarker 0 9 5 okMarker) domain) (fun t => t.exch.heldMarkers = [(0, 9, 5, okMarker)]) = true := by decide +kernel
theorem test_open_marker : (planning { aPlan (.planning .open) with markers := [] }).grants 0 5 (·.exch) = true ∧ after (exec (.openMarker 0 9 5 okMarker) (planning { aPlan (.planning .open) with markers := [] })) (fun t =>
    (plan9 t).markers.keyList = [5]) = true := by decide +kernel
theorem test_open_marker_fails : after (exec (.openMarker 0 9 5 { okMarker with ok := false, status := 0x0201 }) (planning (aPlan (.planning .open)))) (fun t =>
    t.plan 0 9 = none && t.outcomeAt 0 0 = some { status := 0x0201, note := 0x0100, detail := 0x20000005, results := [] }) = true := by decide +kernel
/-- The last marker starts the first round: the candidate for expert 0 stays here, and module 5 gets an end marker. -/
theorem test_open_marker_last : after (exec (.openMarker 0 9 5 okMarker) (planning (aPlan (.planning .open)))) (fun t =>
    (plan9 t).st = .planning .round && (plan9 t).cands.length = 1 && t.out.any (fun o => o = .endMarker 5 0 9 0 1 false)) = true := by decide +kernel
/-- A candidate of module 5 for expert 0. -/
def aRecord : BitVec 128 := BitVec.ofNat 128 (9 * 2 ^ 112 + 71 * 2 ^ 80 + 0x40000000 * 2 ^ 48 + 5 * 2 ^ 10)
theorem test_candidate : after (exec (.candidateRecord 0 aRecord 3) (planning (aPlan (.planning .round)))) (fun t =>
    (plan9 t).cands.map (fun c => (c.token, c.score, c.expert, c.src, c.pos)) = [(71, 0x40000000#32, 0, 5, 3)]) = true := by decide +kernel
theorem test_end_marker : after (exec (.endMarker 0 9 5 0 1 false) (planning (aPlan (.planning .round)))) (fun t => (plan9 t).ends = [(5, 1)]) = true := by decide +kernel
/-- The last end marker has the round ranked: expert 0 takes the higher score, of module 5. -/
theorem test_end_marker_ranks : after (exec (.endMarker 0 9 5 0 1 false) (planning { aPlan (.planning .round) with
      ends := [(0, 1)], cands := [⟨70, 0x3F800000, 0, 0, false, 0, 0, 0, 0⟩, ⟨71, 0x40000000, 0, 0, false, 0, 0, 5, 0⟩] })) (fun t =>
    (plan9 t).accepted.map (·.token) = [71] && (plan9 t).choices.map (fun c => (c.answered, c.rejected)) = [(true, true)] && (plan9 t).st = .planning .verdicts) = true := by decide +kernel
theorem test_end_marker_verdicts : after (exec (.endMarker 0 9 5 0 1 true) (planning (aPlan (.planning .verdicts)))) (fun t => (plan9 t).vends = [5]) = true := by decide +kernel
/-- A verdict on token 70's slot 0 for expert 1. -/
def aVerdict (accept row : Nat) : BitVec 64 := BitVec.ofNat 64 (70 * 2 ^ 32 + accept * 2 ^ 28 + row * 2 ^ 12 + 1)
theorem test_verdict : after (exec (.verdictRecord 0 9 5 (aVerdict 1 0)) (planning { aPlan (.planning .verdicts) with choices := [aChoice .open 1] })) (fun t =>
    (plan9 t).choices.map (fun c => (c.fate, c.answered, c.rejected)) = [(.rerouted, true, false)]) = true := by decide +kernel
theorem test_verdict_rejects : after (exec (.verdictRecord 0 9 5 (aVerdict 0 0)) (planning { aPlan (.planning .verdicts) with choices := [aChoice .open 1] })) (fun t =>
    (plan9 t).choices.map (fun c => (c.fate, c.rejected)) = [(.open, true)]) = true := by decide +kernel
theorem test_final_verdict : after (exec (.finalVerdict 0 9 5 (aVerdict 1 6)) (planning { aPlan (.planning .final) with choices := [aChoice .served 1, { aChoice .served 1 with slot := 1 }] })) (fun t =>
    (plan9 t).finals = 1 && (plan9 t).choices.map (·.row) = [6, 0]) = true := by decide +kernel
theorem test_final_verdict_last : after (exec (.finalVerdict 0 9 5 (aVerdict 1 6)) (planning { aPlan (.planning .final) with choices := [aChoice .served 1] })) (fun t =>
    (result t 0).map (·.2) = some [1, 0, 0, 0, 0, 0]) = true := by decide +kernel
theorem test_plan_stage_timeout : after (exec (.planStageTimeout 0 9) ((planning (aPlan (.planning .round))).setClk { Clk.init with counter := 25000 })) (fun t =>
    t.plan 0 9 = none && result t 0 = some (0x0403, [])) = true := by decide +kernel
theorem test_ranking : (({ aPlan (.planning .round) with cands := [⟨72, 0x40000000, 0, 0, true, 0, 0, 0, 0⟩, ⟨70, 0x3F800000, 0, 0, false, 0, 0, 0, 0⟩, ⟨71, 0x3F800000, 0, 0, false, 0, 0, 5, 0⟩] }).rankExpert 0).1.map (fun c : Cand => c.token) = [70] := by decide +kernel

/-- The domain with a plan in a state, whose send requester is bound to a pool of 4 buffers. -/
def exchanging (x : Plan) : State :=
  (domain.setExch { domain.exch with plans := [(9, x)] }).setQuay
    { domain.quay with pools := [(3, { backing := 0x10001, first := 8, count := 4, held := 0, size := 0, job := 0, warn := false, armed := true, bp := false, sigEn := false, signal := 0 })],
                       reqs := [(1, { Req.init with pool := some 3, max := 4 })] }
/-- A plan whose one choice is served by expert 1. -/
def servedPlan (st : PlanSt) : Plan := { aPlan st with choices := [aChoice .served 1] }
theorem test_dispatch : runs (exchanging (servedPlan .planned)) 0x0302 1 [9, 0x10001 * 2 ^ 32 + 0x10001] (isOp 0x0302) dispatchBad (.dispatch 0) (fun t =>
    (plan9 t).busy && (t.prog 0 0).any (fun g => g.work = .exch 9 && g.taken = [(8, 5)]) &&
    t.out.any (fun o => match o with | .row 5 0 h bs [] => h = rowHeader 9 1 0 0 false 70 2 && bs.length = 2 | _ => false)) = true := by decide +kernel
theorem test_dispatch_refused : runs (exchanging (servedPlan .planned) |>.setQuay domain.quay) 0x0302 1 [9, 0x10001 * 2 ^ 32 + 0x10001] (isOp 0x0302) dispatchBad (.dispatch 0) (fun t => (result t 0).map (·.1) = some 0x0201) = true := by decide +kernel
theorem test_dispatch_absent : runs ((exchanging (servedPlan .planned)).setNet { domain.net with peers := [] }) 0x0302 1 [9, 0x10001 * 2 ^ 32 + 0x10001] (isOp 0x0302) dispatchBad (.dispatch 0) (fun t => (result t 0).map (·.1) = some 0x0404) = true := by decide +kernel
/-- A plan whose expert 0 accepted token 71 of module 5. -/
def gatherPlan (st : PlanSt) : Plan := { aPlan st with choices := [aChoice .served 1], accepted := [⟨71, 0, 0, 0, false, 0, 0, 5, 3⟩] }
theorem test_combine : runs (exchanging (gatherPlan .dispatched)) 0x0303 1 [9, 64 * 2 ^ 32 + 0x10001, 0x10001, 0] (isOp 0x0303) gatherBad (.combine 0) (fun t =>
    t.out.any (fun o => match o with | .ret 5 0 h bs [] => h = retHeader 9 0 0 false 0 3 71 2 && bs.length = 2 | _ => false)) = true := by decide +kernel
theorem test_combine_grad : runs (exchanging (servedPlan .combined)) 0x0305 1 [9, 0x10001 * 2 ^ 32 + 0x10001] (isOp 0x0305) combineGradBad (.combineGrad 0) (fun t =>
    t.out.any (fun o => match o with | .row 5 0 h _ [] => h.getLsbD 79 | _ => false)) = true := by decide +kernel
theorem test_dispatch_grad : runs (exchanging (gatherPlan .gradSent)) 0x0304 1 [9, 64 * 2 ^ 32 + 0x10001, 0x10001, 0] (isOp 0x0304) gatherBad (.dispatchGrad 0) (fun t =>
    t.out.any (fun o => match o with | .ret 5 0 h _ [] => h.getLsbD 96 | _ => false)) = true := by decide +kernel

/-- An exchange command in progress on a plan. -/
def inExch (op : Nat) (x : Plan) : State := (inProg 0 (prog 0 op 1 (.exch 9) none [9, 64 * 2 ^ 32 + 0x10001, 0x10001, 0]) domain).setExch { domain.exch with plans := [(9, { x with busy := true })] }
/-- The same, done. -/
def exchDone (op : Nat) (x : Plan) : State := (inProg 0 (prog 0 op 1 (.exch 9) (some (Outc.of 0 0)) [9, 64 * 2 ^ 32 + 0x10001, 0x10001, 0]) domain).setExch { domain.exch with plans := [(9, { x with busy := true })] }
theorem test_plan_moves : after (exec (.commandComplete 0 0) (exchDone 0x0302 (aPlan .planned))) (fun t => (plan9 t).st = .dispatched && !(plan9 t).busy) = true ∧
    after (exec (.commandComplete 0 0) (exchDone 0x0303 (aPlan .dispatched))) (fun t => (plan9 t).st = .combined) = true ∧
    after (exec (.commandComplete 0 0) (exchDone 0x0305 (aPlan .combined))) (fun t => (plan9 t).st = .gradSent) = true ∧
    after (exec (.commandComplete 0 0) (exchDone 0x0304 (aPlan .gradSent))) (fun t => t.plan 0 9 = none) = true := by decide +kernel
theorem test_plan_completes : after (exec (.commandComplete 0 0) ((inProg 0 (prog 0 0x0301 1 (.plan 9) (some (Outc.of 0 0)) [0, 0, 0, 0, 0, 0, 0]) domain).setExch { domain.exch with plans := [(9, aPlan (.planning .final))] })) (fun t =>
    (plan9 t).st = .planned) = true := by decide +kernel
/-- The row of token 71 for expert 0. -/
def aRow : BitVec 128 := rowHeader 9 0 0 0 false 71 2
theorem test_row_held : ((exchanging (gatherPlan (.planning .final))).exchProg 0 9).isNone = true ∧ after (exec (.rowRecord 0 5 aRow [1#8] []) (exchanging (gatherPlan (.planning .final)))) (fun t => t.exch.heldRows.length = 1) = true := by decide +kernel
theorem test_row_staged : after (exec (.rowRecord 0 5 aRow [1#8] []) (inExch 0x0302 { gatherPlan .planned with params := { someParams with cap := 2 }, accepted := [⟨71, 0, 0, 0, false, 0, 0, 5, 3⟩, ⟨72, 0, 0, 0, false, 0, 0, 5, 3⟩] })) (fun t =>
    (plan9 t).staged = [(0, [1#8], [])] && result t 0 = none) = true := by decide +kernel
theorem test_row_last : after (exec (.rowRecord 0 5 aRow [1#8] []) (inExch 0x0302 (gatherPlan .planned))) (fun t => result t 0 = some (0, [1, 1])) = true := by decide +kernel
/-- The last row has come, but a record of this module is still unacknowledged. -/
theorem test_row_unacked : after (exec (.rowRecord 0 5 aRow [1#8] []) (let s := inExch 0x0302 (gatherPlan .planned); s.setNet { s.net with unacked := [{ dst := 5, flow := 3, psn := 4, hdr := mkHdr 1 1 5 0 0 3 4 0 0 0 0, payload := [], sentAt := 0, msg := none, cmd := some (0, 0), core := none }] }))
    (fun t => result t 0 = none && (plan9 t).arrived = [0]) = true := by decide +kernel
/-- The row of token 70 back from expert 1. -/
def aReturn : BitVec 128 := retHeader 9 1 0 false 0 0 70 2
theorem test_return_record : after (exec (.returnRecord 0 5 aReturn [0x80#8, 0x3F#8] []) (let s := inExch 0x0303 { servedPlan .dispatched with choices := [aChoice .served 1, { aChoice .served 1 with slot := 1 }] }; s.setChip { s.chip with enMask := 0 })) (fun t =>
    (plan9 t).arrived = [0] && (plan9 t).bad = [] && result t 0 = none) = true := by decide +kernel
theorem test_return_poisoned : after (exec (.returnRecord 0 5 aReturn [0x80#8, 0x3F#8] [0]) (inExch 0x0303 { servedPlan .dispatched with choices := [aChoice .served 1, { aChoice .served 1 with slot := 1 }] })) (fun t => (plan9 t).bad = [0]) = true := by decide +kernel
theorem test_exchange_timeout : ((inExch 0x0302 (gatherPlan .planned)).exchProg 0 9).isSome = true ∧ after (exec (.exchangeTimeout 0 9) ((inExch 0x0302 (gatherPlan .planned)).setClk { Clk.init with counter := 25000 })) (fun t => result t 0 = some (0x0403, [])) = true := by decide +kernel
theorem test_exchange_no_timeout : after (exec (.exchangeTimeout 0 9) ((inExch 0x0302 { gatherPlan .planned with arrived := [0] }).setClk { Clk.init with counter := 25000 })) (fun t =>
    result t 0 = none) = true := by decide +kernel
/-- A launch of expert 0, which accepted nothing, and one that accepted token 71. -/
def expertLaunch (x : Plan) : State :=
  (loaded.setExch { loaded.exch with plans := [(9, x)], bindings := [(2 * 4096, { aBinding with expert := 0 })] })
theorem test_expert_launch_empty : runs (expertLaunch (aPlan .dispatched)) 0x0202 1 [2 ^ 52 + 2 ^ 16, 2 * 2 ^ 16 + 9, 0, 0, 0, 0, 0, 0, 0, 0, 0]
    (fun p => p.op = 0x0202 && !launchHeld p (expertLaunch (aPlan .dispatched))) launchBad (.kernelLaunch 0 []) (fun t => result t 0 = some (2, [0, 0])) = true := by decide +kernel
theorem test_expert_launch : runs (expertLaunch (gatherPlan .dispatched)) 0x0202 1 [2 ^ 52 + 2 ^ 16, 2 * 2 ^ 16 + 9, 0, 0, 0, 0, 0, 0, 0, 0, 0]
    (fun p => p.op = 0x0202 && !launchHeld p (expertLaunch (gatherPlan .dispatched))) launchBad (.kernelLaunch 0 []) (fun t =>
    (t.comp.launches.get? 0).any (fun l => l.total = 1) && (t.comp.insts.get? 2).any (fun y => y.rowCount = 1)) = true := by decide +kernel

/-! ### Collectives -/

/-- The domain with a collectives' requester bound to a pool of 4 buffers, no error in memory, and the job's granules. -/
def collective : State :=
  (domain.setQuay { domain.quay with pools := [(3, { backing := 0x10001, first := 8, count := 4, held := 0, size := 0, job := 0, warn := false, armed := true, bp := false, sigEn := false, signal := 0 })],
                                     reqs := [(2, { Req.init with pool := some 3, max := 4 })] })
/-- Words of a SCALE_AGREE of 32 elements by modules 0 and 5, with no slice and no token. -/
def agreeWords : List Nat := [32 * 2 ^ 24 + 9, 33, 0, 0, 0, 0, 1000 * 2 ^ 24, 0]
theorem test_scale_agree : runs collective 0x0405 1 agreeWords (isOp 0x0405) scaleAgreeBad (.scaleAgree 0) (fun t =>
    (t.collOf 0 9 false).any (fun c => c.parts = [0, 5] && c.n = 32 && c.got = [(0, [])] && c.self.empty) && t.coll.usedTags = [9] &&
    t.out.any (fun o => match o with | .contribution 5 0 1 9 a [] => a.n = 32 && a.empty | _ => false)) = true := by decide +kernel
theorem test_scale_agree_refused : runs (collective.setQuay domain.quay) 0x0405 1 agreeWords (isOp 0x0405) scaleAgreeBad (.scaleAgree 0) (fun t => (result t 0).map (·.1) = some 0x0201) = true := by decide +kernel

/-- Module 5's announcement of no tokens. -/
def announce5 (kind : Nat) : Announce := { src := 5, kind := kind, width := 8, empty := true, nslice := 0, tokens := 0, n := 32, step := 3, gcrc := 0, granules := [] }
/-- This module's announcement. -/
def announce0 (kind : Nat) : Announce := { announce5 kind with src := 0 }
/-- A collective of modules 0 and 5 of tag 9 in progress, with this module's contribution to shard 0. -/
def aColl (reduce : Bool) : Coll :=
  { job := 0, tag := 9, ring := 0, at_ := 0, reduce := reduce, parts := [0, 5], far := [], me := 0, n := 32, deadline := 1000, ann := [(0, announce0 (if reduce then 1 else 0))],
    got := [(0, [])], late := [], shards := [(0, 0)], closed := [], masks := [], lateAt := [], results := [], moved := [], self := announce0 (if reduce then 1 else 0), words := [],
    slices := [], fmt := 0, binding := none, awaited := [0, 5], present := none, sums := [], exceeded := 0 }
/-- An agreement of tag 9 between modules 0 and 5. -/
def anAgree : Agree :=
  { job := 0, tag := 9, n := 32, parts := [0, 5], far := [], words := [0x8000], present := [0, 5], ann := [(0, announce0 0), (5, announce5 0)], total := 0, ss32 := false, slices := [],
    tokens := 0, bindingKey := none, used := false }
theorem test_reduce : runs (collective.setColl { collective.coll with agrees := [(9, anAgree)] }) 0x0401 1 [1000 * 2 ^ 24 + 9, 0, 0x10001] (isOp 0x0401) reduceBad (.reduce 0) (fun t =>
    (t.collOf 0 9 true).any (fun c => c.words = [0x8000] && c.awaited = [0, 5] && c.self.width = 8) && t.out.any (fun o => match o with | .contribution 5 0 1 9 a [] => a.kind = 1 | _ => false)) = true := by decide +kernel
theorem test_reduce_refused : runs ((collective.setColl { collective.coll with agrees := [(9, anAgree)] }).setQuay domain.quay) 0x0401 1 [1000 * 2 ^ 24 + 9, 0, 0x10001] (isOp 0x0401) reduceBad (.reduce 0) (fun t =>
    (result t 0).map (·.1) = some 0x0201) = true := by decide +kernel
/-- A REDUCE of one slice, of which a page is lost. -/
def sliced : State :=
  let s := collective.setColl { collective.coll with agrees := [(9, { anAgree with slices := [(0, 0)], tokens := 4 })] }
  let s := s.setPlace { s.place with berths := [(1, aBerth), (2, { aBerth with pages := [(0, { Page.placedAt 8 with st := .lost })] })] }
  let s := s.setCmd { s.cmd with jobs := [(0, { aJob with granules := [0] })] }
  onRing 0 0x0401 1 [1000 * 2 ^ 24 + 9, 0x10001 * 2 ^ 32 + 1, 0x10001] (s.setMem { s.mem with cells := cellsPut s.mem.cells (berthKey 1 0) (leBytes 16 (0x10002 * 2 ^ 96)) })
theorem test_reduce_lost : taken sliced 0 (isOp 0x0401) reduceBad = true ∧ after (exec (.reduce 0) sliced) (fun t => result t 0 = some (0x0404, []) && t.coll.agrees.keyList = [] && t.out = []) = true := by decide +kernel
theorem test_digit : digitOf false 3 .rne (.fin true 9 0) = (-72, false) ∧ digitOf false 3 .rne (.fin false 16 0) = (127, true) ∧ blockWord [.fin false 0 0, .fin true 9 0] = 3 := by decide +kernel

/-- The collective in progress. -/
def colling (c : Coll) : State := (inProg 0 (prog 0 (if c.reduce then 0x0401 else 0x0405) 1 (.coll 0x0405 9) none [0, 0, 0, 0, 0, 0, 0, 0]) domain).setColl { domain.coll with colls := [(c.key, c)] }
theorem test_contribution_held : domain.collAllowed 0 5 = true ∧ after (exec (.contribution 0 0 (announce5 0) 9 [1] true) domain) (fun t => t.coll.heldCon.length = 1) = true := by decide +kernel
theorem test_contribution_last : after (exec (.contribution 0 0 (announce5 0) 9 [] true) (colling (aColl false))) (fun t => t.out.any (fun o => o = .arrivalMask 5 0 9 false 0 [0, 5] [])) = true := by decide +kernel
/-- The same, with module 6 too. -/
def threeColl : Coll := { aColl false with parts := [0, 5, 6], awaited := [0, 5, 6] }
theorem test_contribution : after (exec (.contribution 0 0 (announce5 0) 9 [] true) (colling threeColl)) (fun t => (t.collOf 0 9 false).any (fun c => c.got.keyList = [0, 5] && c.closed = [])) = true := by decide +kernel
theorem test_deadline : after (exec (.deadline 0 9 false) ((colling (aColl false)).setClk { Clk.init with counter := 25000 })) (fun t => t.out.any (fun o => o = .arrivalMask 5 0 9 false 0 [0] [])) = true := by decide +kernel
/-- The collective with its own shard closed. -/
def closedColl (reduce : Bool) : Coll := { aColl reduce with closed := [0], masks := [(0, [0])], lateAt := [(0, [])] }
theorem test_arrival_mask_held : after (exec (.arrivalMask 0 9 false 1 [0] []) domain) (fun t => t.coll.heldMasks.length = 1) = true := by decide +kernel
theorem test_arrival_mask : after (exec (.arrivalMask 0 9 false 1 [0] []) (colling { closedColl false with parts := [0, 5, 6] })) (fun t => (t.collOf 0 9 false).any (fun c => c.masks.keyList = [0, 1] && c.present = none)) = true := by decide +kernel
theorem test_arrival_mask_last : after (exec (.arrivalMask 0 9 false 1 [0] []) (colling (closedColl false))) (fun t =>
    (t.collOf 0 9 false).any (fun c => c.present = some ([0], 0)) && t.out.any (fun o => o = .resultShard 5 0 9 false 0 [] 0 0 0)) = true := by decide +kernel
/-- The collective with its present set known. -/
def presentColl (reduce : Bool) : Coll := { closedColl reduce with masks := [(0, [0]), (1, [0])], present := some ([0], 0), results := [(0, [], 0, 0, 0)] }
theorem test_result_shard : after (exec (.resultShard 0 9 false 1 [0, 0x80] 0 0 0) (colling { presentColl false with parts := [0, 5, 6] })) (fun t => (t.collOf 0 9 false).any (fun c => c.results.keyList = [0, 1])) = true := by decide +kernel
theorem test_result_shard_last : after (exec (.resultShard 0 9 false 1 [0, 0x80] 0 0 0) (colling (presentColl false))) (fun t =>
    result t 0 = some (0, [1, 0, 0, 32, 0, 0, 0, 0, 0, 1, 0, 0, 0, 0]) && (t.coll.agrees.get? 9).any (fun a => a.words = [0x8000] && a.present = [0])) = true := by decide +kernel
theorem test_result_shard_reduce : after (exec (.resultShard 0 9 true 1 [] 0 0 0) ((colling (presentColl true)).setColl { domain.coll with colls := [((presentColl true).key, presentColl true)], agrees := [(9, anAgree)] })) (fun t =>
    (result t 0).map (·.1) = some 0 && t.coll.agrees = []) = true := by decide +kernel
theorem test_shard_succession : after (exec (.shardSuccession 0 9 false 2) ((colling { threeColl with me := 0 }))) (fun t => (t.collOf 0 9 false).any (fun c => c.reducerOf 2 = 0)) = true := by decide +kernel
theorem test_shard_succession_other : (colling { threeColl with parts := [0, 6, 5] }).successor { threeColl with parts := [0, 6, 5] } 1 = some 5 ∧ after (exec (.shardSuccession 0 9 false 1) ((colling { threeColl with parts := [0, 6, 5] }))) (fun t => (t.collOf 0 9 false).any (fun c => c.reducerOf 1 = 5) && t.out.any (fun o => match o with | .contribution 5 0 1 9 _ [] => true | _ => false)) = true := by decide +kernel
theorem test_shard_succession_present : after (exec (.shardSuccession 0 9 false 1) (colling { presentColl false with parts := [0, 6], present := some ([0, 6], 0) })) (fun t => (result t 0).map (·.1) = some 0x0404) = true := by decide +kernel
theorem test_result_shard_timeout : after (exec (.resultShardTimeout 0 9) ((colling (presentColl false)).setClk { Clk.init with counter := 25000 })) (fun t => result t 0 = some (0x0403, []) && t.coll.colls = []) = true := by decide +kernel

theorem test_barrier : runs domain 0x0406 1 [9, 33, 0, 0] (isOp 0x0406) barrierBad (.barrier 0) (fun t => t.out.any (fun o => match o with | .collective 5 0 0x0406 9 m => m.parts = 33 | _ => false) && result t 0 = none) = true := by decide +kernel
theorem test_barrier_absent : runs alone 0x0406 1 [9, 33, 0, 0] (isOp 0x0406) barrierBad (.barrier 0) (fun t => t.outcomeAt 0 0 = some { status := 0x0404, note := 0x0100, detail := 0x20000005, results := [] }) = true := by decide +kernel
theorem test_gather : runs collective 0x0402 1 [9, 33, 0, 0, 0x10001 * 2 ^ 32 + 0x10001, 0, 64, 8] (isOp 0x0402) gatherAllBad (.gather 0) (fun t =>
    (t.simpleOf 0 0x0402 9).any (fun c => c.due = [(5, 72, 8)]) && t.out.any (fun o => match o with | .collective 5 0 0x0402 9 m => m.bytes.map (·.2.length) = [8] | _ => false)) = true := by decide +kernel
theorem test_gather_refused : runs domain 0x0402 1 [9, 33, 0, 0, 0x10001 * 2 ^ 32 + 0x10001, 0, 64, 8] (isOp 0x0402) gatherAllBad (.gather 0) (fun t => (result t 0).map (·.1) = some 0x0201) = true := by decide +kernel
theorem test_broadcast : runs collective 0x0404 1 [2 ^ 20 + 9, 33, 0, 0, 0x10001, 0, 8] (isOp 0x0404) broadcastBad (.broadcast 0) (fun t => (t.simpleOf 0 0x0404 9).any (fun c => c.due = [(5, 0, 8)])) = true := by decide +kernel
theorem test_broadcast_root : runs collective 0x0404 1 [9, 33, 0, 0, 0x10001, 0, 8] (isOp 0x0404) broadcastBad (.broadcast 0) (fun t => t.out.any (fun o => match o with | .collective 5 0 0x0404 9 m => m.bytes.map (·.2.length) = [8] | _ => false)) = true := by decide +kernel
/-- A layout entry. -/
def rect (m r0 rs c0 cs : Nat) : List Byte := leBytes 16 (enc [(121, m), (97, r0), (73, rs), (49, c0), (25, cs)])
/-- The old layout gives module 0 the first row and module 5 the second; the new one exchanges them. -/
def permuting : State :=
  collective.setMem { collective.mem with cells := cellsPut collective.mem.cells (berthKey 1 0) (rect 0 0 1 0 4 ++ rect 5 1 1 0 4 ++ rect 5 0 1 0 4 ++ rect 0 1 1 0 4) }
theorem test_permute : partitions 2 4 33 [⟨0, 0, 1, 0, 4, 0⟩, ⟨5, 1, 1, 0, 4, 0⟩] = true ∧ movesOf [⟨0, 0, 1, 0, 4, 0⟩, ⟨5, 1, 1, 0, 4, 0⟩] [⟨5, 0, 1, 0, 4, 0⟩, ⟨0, 1, 1, 0, 4, 0⟩] = [(0, 0, 5, 0, 4), (5, 0, 0, 0, 4)] := by decide +kernel
/-- A BARRIER or a GATHER of modules 0 and 5 in progress. -/
def aSimple (op : Nat) : Simple :=
  { job := 0, opcode := op, tag := 9, ring := 0, at_ := 0, parts := [0, 5], far := [], me := 0, length := 0, root := 0, mask := 33, handle := 0, due := [], got := [], written := [], since := 0, rows := [] }
/-- It is in progress. -/
def simpling (c : Simple) : State := (inProg 0 (prog 0 c.opcode 1 (.coll c.opcode 9) none [0, 0, 0, 0]) domain).setColl { domain.coll with simple := [c] }
/-- Module 5's message. -/
def message5 (n : Nat) (bs : List (Nat × List Byte)) : CollMsg := { length := n, root := 0, parts := 33, far := [], bytes := bs }
theorem test_message_held : after (exec (.collectiveMessage 0 0x0406 9 5 (message5 0 [])) domain) (fun t => t.coll.heldMsgs.length = 1) = true := by decide +kernel
theorem test_message_differs : after (exec (.collectiveMessage 0 0x0406 9 5 (message5 1 [])) (simpling (aSimple 0x0406))) (fun t => result t 0 = some (0x0301, []) && t.coll.simple = []) = true := by decide +kernel
theorem test_message_last : after (exec (.collectiveMessage 0 0x0406 9 5 (message5 0 [])) (simpling (aSimple 0x0406))) (fun t => result t 0 = some (0, []) && t.coll.simple = []) = true := by decide +kernel
theorem test_message_waits : after (exec (.collectiveMessage 0 0x0406 9 5 (message5 0 [])) (simpling { aSimple 0x0406 with parts := [0, 5, 6] })) (fun t => result t 0 = none && (t.simpleOf 0 0x0406 9).any (fun c => c.got = [5])) = true := by decide +kernel
theorem test_message_bytes : after (exec (.collectiveMessage 0 0x0402 9 5 (message5 2 [(0, [7, 8])])) (simpling { aSimple 0x0402 with length := 2, handle := 0x10001, due := [(5, 64, 2)] })) (fun t =>
    result t 0 = some (0, []) && t.mem.read (berthKey 1 64) 2 = [7, 8]) = true := by decide +kernel
theorem test_message_permute : after (exec (.collectiveMessage 0 0x0403 9 5 (message5 0 [])) (simpling (aSimple 0x0403))) (fun t => t.out.any (fun o => match o with | .collective 5 0 0x0403 9 m => m.root = 1 | _ => false)) = true ∧
    after (exec (.collectiveMessage 0 0x0403 9 5 { message5 0 [] with root := 1 }) (simpling { aSimple 0x0403 with got := [5], written := [0] })) (fun t => result t 0 = some (0, [])) = true := by decide +kernel
theorem test_collective_timeout : after (exec (.collectiveTimeout 0 0x0406 9) ((simpling (aSimple 0x0406)).setClk { Clk.init with counter := 25000 })) (fun t => result t 0 = some (0x0403, [])) = true := by decide +kernel
/-- A SCATTER that holds shard 0 alone. -/
theorem test_reduce_scatter : (((colling (presentColl true)).collFinish (prog 0 0x0401 1 .none none [2 ^ 23, 0, 0x10001]).pkt { presentColl true with results := [(0, [], 3, 0, 0), (1, [], 4, 0, 0)] }).outcomeAt 0 0).map (fun o => (o.status, o.results)) =
    some (0, [1, 0, 0, 32, 0, 0, 0, 0, 0, 1, 0, 0, 0, 0, 3, 0, 0, 0, 0]) := by decide +kernel

/-! ### Stash, Tug and placement -/

/-- A plain berth 1 and a stash berth 2, bytes in berth 1, and a stash requester bound to a pool of 4 buffers over berth 3. -/
def stashed : State :=
  let s := domain.setPlace { domain.place with berths := [(1, aBerth), (2, { aBerth with cls := 2, pages := [(0, Page.placedAt 8)] }), (3, { aBerth with pages := [(0, Page.placedAt 16)] })] }
  let s := s.setQuay { s.quay with pools := [(3, { backing := 0x10003, first := 8, count := 4, held := 0, size := 0, job := 0, warn := false, armed := true, bp := false, sigEn := false, signal := 0 })],
                                   reqs := [(3, { Req.init with pool := some 3, max := 4 })] }
  s.setMem { s.mem with cells := cellsPut s.mem.cells (berthKey 1 0) [1, 2, 3, 4] }
theorem test_stash_put : runs stashed 0x0501 1 [0, 0x10002 * 2 ^ 32 + 0x10001, 0, 64, 4, 0, 0, 0] (isOp 0x0501) stashPutBad (.stashPut 0) (fun t =>
    t.mem.read (berthKey 2 64) 4 = [1, 2, 3, 4] && (t.prog 0 0).any (fun g => g.work = .stashPut 4 false && g.taken = [(8, 255)])) = true := by decide +kernel
theorem test_stash_put_refused : runs (stashed.setQuay domain.quay) 0x0501 1 [0, 0x10002 * 2 ^ 32 + 0x10001, 0, 64, 4, 0, 0, 0] (isOp 0x0501) stashPutBad (.stashPut 0) (fun t => (result t 0).map (·.1) = some 0x0201) = true := by decide +kernel
/-- The stash berth's page is LOST. -/
def stashLost : State := stashed.setPlace { stashed.place with berths := [(1, aBerth), (2, { aBerth with cls := 2, pages := [(0, { Page.placedAt 8 with st := .lost })] })] }
theorem test_stash_put_lost : runs stashLost 0x0501 1 [0, 0x10002 * 2 ^ 32 + 0x10001, 0, 64, 4, 0, 0, 0] (isOp 0x0501) stashPutBad (.stashPut 0) (fun t => result t 0 = some (0x0404, [])) = true := by decide +kernel
/-- Narrowing FP32 1.0 to BF16. -/
theorem test_stash_put_narrow : runs (stashed.setMem { stashed.mem with cells := cellsPut [] (berthKey 1 0) [0, 0, 0x80, 0x3F] }) 0x0501 1 [2 + 9 * 2 ^ 2, 0x10002 * 2 ^ 32 + 0x10001, 0, 64, 4, 0, 0, 0] (isOp 0x0501) stashPutBad (.stashPut 0) (fun t =>
    t.mem.read (berthKey 2 64) 2 = [0x80, 0x3F]) = true := by decide +kernel
theorem test_stash_put_packed : packDir 2 [20, 9] = [(16, 20), (40, 9)] ∧ packUsed [(16, 20), (40, 9)] 2 = 56 := by decide +kernel
/-- A tile of one row and no column. -/
theorem test_stash_put_packed_takes : taken (onRing 0 0x0501 1 [1, 0x10002 * 2 ^ 32 + 0x10001, 64, 64, 2 ^ 32 * 64 + 1, 0, 0, 0] stashed) 0 (isOp 0x0501) stashPutBad = true := by decide +kernel
theorem test_stash_get : runs stashed 0x0502 1 [0, 0x10001 * 2 ^ 32 + 0x10002, 0, 8] (isOp 0x0502) stashGetBad (.stashGet 0) (fun t =>
    (t.prog 0 0).any (fun g => g.work = .stashGet false && g.taken = [(8, 255)])) = true := by decide +kernel
theorem test_stash_get_refused : runs (stashed.setQuay domain.quay) 0x0502 1 [0, 0x10001 * 2 ^ 32 + 0x10002, 0, 8] (isOp 0x0502) stashGetBad (.stashGet 0) (fun t => (result t 0).map (·.1) = some 0x0201) = true := by decide +kernel
/-- A put and a get in progress. -/
def putting : State := inProg 0 (prog 0 0x0501 1 (.stashPut 4 false) none [0, 0x1000200010001, 0, 64, 4, 0, 0, 0]) stashed
/-- The get holds descriptor 8. -/
def getting (s : State) : State :=
  let t := s.setQuay { s.quay with descs := [(8, { Desc.init with held := true, owners := [some (3, false), none, none, none], charge := 3, pool := 3 })] }
  inProg 0 { prog 0 0x0502 1 (.stashGet false) none [0, 0x1000200010001, 0, 4] with taken := [(8, 255)] } t
theorem test_stash_acknowledged : after (exec (.stashAcknowledged 0 0) putting) (fun t => result t 0 = some (0, [4])) = true := by decide +kernel
theorem test_stash_acknowledged_lost : after (exec (.stashAcknowledged 0 0) (inProg 0 (prog 0 0x0501 1 (.stashPut 4 false) none [0, 0x1000200010001, 0, 64, 4, 0, 0, 0]) stashLost)) (fun t => result t 0 = some (0x0404, [])) = true := by decide +kernel
theorem test_stash_transfer : after (exec (.stashGetTransfer 0 0) (getting stashed)) (fun t => result t 0 = some (0, [1]) && t.mem.read (berthKey 3 0) 4 = [1, 2, 3, 4] && t.mem.read (berthKey 2 0) 8 = [1, 0, 8, 0, 0, 0, 0, 0]) = true := by decide +kernel
/-- A STASH_GET whose region an earlier STASH_PUT writes. -/
def getUnder : State := let s := getting stashed; s.setCmd { s.cmd with progs := prog 128 0x0501 1 (.stashPut 4 false) none [0, 0x1000100020001, 0, 0, 4, 0, 0, 0] :: s.cmd.progs }
theorem test_stash_under : (getUnder.prog 0 0).any (fun g => getUnder.putUnder (getUnder.cmd.progs.takeWhile (· ≠ g)) g.pkt) = true ∧ after (exec (.stashGetTransfer 0 0) getUnder) (fun t => result t 0 = none) = true ∧
    ((getting stashed).prog 0 0).any (fun g => !(getting stashed).putUnder ((getting stashed).cmd.progs.takeWhile (· ≠ g)) g.pkt) = true := by decide +kernel
theorem test_stash_transfer_poison : after (exec (.stashGetTransfer 0 0) (getting (stashed.setMem { stashed.mem with poison := [berthKey 1 0 / 64] }))) (fun t => result t 0 = some (0x0401, [])) = true := by decide +kernel
theorem test_stash_transfer_lost : after (exec (.stashGetTransfer 0 0) (getting (stashed.setPlace { stashed.place with berths := [(1, { aBerth with pages := [(0, { Page.placedAt 8 with st := .lost })] }), (2, aBerth), (3, aBerth)] }))) (fun t => result t 0 = some (0x0404, [])) = true := by decide +kernel

theorem test_prefetch : runs stashed 0x0503 1 [0x10001, 65530, 20] (isOp 0x0503) prefetchBad (.prefetch 0 1) (fun t => t.outcomeAt 0 0 = some { status := 0, note := 0, detail := 0, results := [20] }) = true := by decide +kernel
theorem test_prefetch_clusters : stashed.hotClusters 0x10001 = List.range 12 := by decide +kernel
/-- A line under way to cluster 0. -/
def aLine : Shadow := { handle := 0x10001, line := 2, ring := 0, at_ := 0, read := false }
theorem test_tug : after (exec (.tugFetchComplete 0 0x10001 2) (stashed.setPlace { stashed.place with fetches := [(0, [aLine])] })) (fun t => t.place.shadows.getD 0 [] = [aLine] && t.place.fetches.getD 0 [] = []) = true := by decide +kernel
/-- A line whose bytes a read outside still fetches. -/
def fetching (reads : List Want) : State := (stashed.setPlace { stashed.place with fetches := [(0, [aLine])] }).setWire { stashed.wire with reads := reads }
theorem test_tug_arrived : (fetching []).fetchArrived aLine = true ∧ (fetching [aWant (berthKey 1 131072) 8192 none none]).fetchArrived aLine = false ∧ (fetching []).shadowRoom 0 = 256 ∧
    after (exec (.tugFetchComplete 0 0x10001 2) (fetching [aWant (berthKey 1 131072) 8192 none none])) (fun t => t.place.fetches.getD 0 [] = [aLine]) = true := by decide +kernel
theorem test_tug_full : after (exec (.tugFetchComplete 0 0x10001 2) (stashed.setPlace { stashed.place with fetches := [(0, [aLine])], shadows := [(0, List.replicate 256 { aLine with line := 0 })] })) (fun t => (t.place.shadows.getD 0 []).length = 256) = true := by decide +kernel
theorem test_tug_lost : stashLost.spanLost 0x10002 0 1 = true ∧ after (exec (.tugFetchComplete 0 0x10002 0) (stashLost.setPlace { stashLost.place with fetches := [(0, [{ aLine with handle := 0x10002, line := 0 }])] })) (fun t => t.place.shadows.getD 0 [] = []) = true := by decide +kernel
/-- A launch of expert 3 of layer 2 with an activation source and no weight target to fetch. -/
def predicts : State :=
  (inProg 0 (prog 0 0x0202 1 .none none [0x10000000000000, 0x30020009, 0x76, 0, 0, 0, 0, 0, 0, 0, 0]) domain).setExch { domain.exch with bindings := [(2 * 4096 + 3, aBinding)] }
theorem test_predictor : (predicts.predicting 0 2 3).isSome = true ∧ after (exec (.predictorUpdate 0 2 3 3 5) predicts) (fun t => t.place.predictor = [(8195, 0xFFFFFFFFFFFFFFF8)] && t.place.preds = [(8195, ⟨0, 3, BitVec.allOnes 64, [], []⟩)]) = true := by decide +kernel
/-- The bits of a micro-batch: blocks 0 and 2 of berth 1 are predicted active. -/
def predicted : State := predicts.setPlace { predicts.place with preds := [(8195, ⟨0x10001, 3, 5, [], []⟩)] }
theorem test_predictor_counts : predicted.exch.bindings.get? 8195 = some aBinding ∧ ((predicted.predRead 0x10001 90000 1).cmd.jobs.get? 0).map (fun j => (j.predLate, j.predWaste)) = some (1, 0) ∧
    ((predicted.predRead 0x10001 30000 1).cmd.jobs.get? 0).map (fun j => (j.predLate, j.predWaste)) = some (0, 0) ∧
    ((predicted.lineGone ⟨0x10001, 0, 0, 0, false⟩).cmd.jobs.get? 0).map (fun j => (j.predLate, j.predWaste)) = some (0, 1) := by decide +kernel

/-- One berth, its page where and as it is said, in a module that runs, 1 ms on. -/
def placed (b : Berth) (x : Page) : State :=
  let s := (open0.setPlace { open0.place with berths := [(1, { b with pages := [(0, x)] })] }).setClk { Clk.init with counter := 25000 }
  s.setChip { s.chip with enMask := 4096 }
/-- A page of berth 1 in a state. -/
def page1 (s : State) : Option Page := (s.place.berths.get? 1).bind fun b => b.pages.get? 0
theorem test_epoch : after (exec (.placementEpoch []) (placed aBerth { Page.placedAt 4096 with heatE := 7, heatW := 2 })) (fun t => page1 t = some { Page.placedAt 4096 with heatE := 3, heatW := 1 } && t.place.epochAt = 25000) = true := by decide +kernel
/-- No berth, a page held for a source at frame 4096, in a module whose stack 0 is in a state. -/
def hosting (st : StackSt) : State := let s := placed aBerth (Page.placedAt 4096); ((s.setPlace { s.place with berths := [] }).setNet { s.net with stashIn := [(5 * 2 ^ 24, 4096)], frames := [(4096, 5)] }).setChip { s.chip with hbm := [(0, { s.stack 0 with st := st })] }
theorem test_epoch_stash : (hosting .retiring).misplaced 4096 8 = true ∧ ((hosting .retiring).hbmFrame stashBerth 0).isSome = true ∧
    after (exec (.placementEpoch []) (hosting .inService)) (fun t => t.net.stashIn = [(5 * 2 ^ 24, 4096)]) = true := by decide +kernel
theorem test_epoch_hot : after (exec (.placementEpoch []) (placed { aBerth with cls := 0 } { Page.placedAt 4096 with heatW := 2 })) (fun t =>
    (page1 t).any (fun x => x.st = .migrating && x.goal.any (inSramOf 12) && !x.goal.any inLocalHbm && x.heatW = 1)) = true := by decide +kernel
theorem test_epoch_replica : after (exec (.placementEpoch [⟨1, 0, .addReplica, 0⟩]) (placed { aBerth with hints := 0x20 } (Page.placedAt 4096))) (fun t => (page1 t).any (·.copies.length = 1)) = true ∧
    after (exec (.placementEpoch [⟨1, 0, .dropReplica, 8000⟩]) (placed { aBerth with hints := 0x20 } { Page.placedAt 4096 with copies := [4097, 8000, 8001] })) (fun t => (page1 t).any (·.copies = [4097, 8001])) = true := by decide +kernel
/-- A page that moves to base 9000, of a berth that module 5 reaches. -/
def moving (held : Bool) : State :=
  let s := domain.setPlace { domain.place with berths := [(1, { aBerth with pages := [(0, { Page.placedAt 8192 with st := .migrating, goal := some 9000, held := held })] })], shoot := if held then [(1, 0)] else [] }
  s.setNet { s.net with windows := [(0, { aWindow with berth := 0x10001 })] }
theorem test_page_copy : after (exec (.pageCopyComplete 1 0) (moving false)) (fun t => (page1 t).any (·.held) && t.place.shoot = [(1, 0)] && t.wire.wants.any (fun w => w.kind = .shootdown 5 0x10001 0)) = true := by decide +kernel
theorem test_page_on_wire : (moving false).pageOnWire 1 0 1 = false ∧ ((moving false).setWire { Wire.init with reads := [aWant (berthKey 1 64) 2 none none] }).pageOnWire 1 0 1 = true ∧
    after (exec (.pageCopyComplete 1 0) ((moving false).setWire { Wire.init with reads := [aWant (berthKey 1 64) 2 none none] })) (fun t => t.place.shoot = []) = true := by decide +kernel
theorem test_shootdown_complete : after (exec (.shootdownComplete 1 0) (moving true)) (fun t => page1 t = some { Page.placedAt 9000 with old := some 8192 } && t.mem.poison = []) = true := by decide +kernel
theorem test_shootdown_failed : (inLocalHbm 8192 && gaStack (pageAddr 8192) = 0) = true := by decide +kernel
theorem test_old_frame : after (exec (.oldFrameRelease 1 0) (placed aBerth { Page.placedAt 8192 with old := some 9000 })) (fun t => page1 t = some (Page.placedAt 8192)) = true := by decide +kernel

/-! ### Power -/

/-- A command of the admin ring on the running module with clusters 0 and 1. -/
def powered : State := open0.setChip { open0.chip with enMask := 3, clamp := 3000, cap := 3100, fixed := true, modeStep := 2, energy := 5999, clampDue := [(2000, 9)] }
theorem test_power_cap : runsA powered 0x0701 1 [1500] (isOp 0x0701) powerCapBad .powerCap (fun t => result t 256 = some (0, [3100]) && t.chip.cap = 1500 && t.chip.clamp = 3000 && t.chip.clampDue = [(2000, 9), (1500, 250000)]) = true := by decide +kernel
theorem test_power_cap_higher : runsA powered 0x0701 1 [3200] (isOp 0x0701) powerCapBad .powerCap (fun t => t.chip.cap = 3200 && t.chip.clamp = 3200 && t.chip.clampDue = []) = true := by decide +kernel
theorem test_clamp_adopt : after (exec .clampAdopt (powered.setClk { Clk.init with counter := 9 })) (fun t => t.chip.clamp = 2000 && t.chip.clampDue = []) = true := by decide +kernel
theorem test_clock_mode : runsA powered 0x0702 1 [6] (isOp 0x0702) clockModeBad .clockMode (fun t => result t 256 = some (0, [5]) && !t.chip.fixed && t.chip.step = 3 && t.chip.modeStep = 3) = true := by decide +kernel
theorem test_clock_mode_slowed : runsA (powered.setChip { powered.chip with step := 5, actions := [(.clock 4, 10)] }) 0x0702 1 [6] (isOp 0x0702) clockModeBad .clockMode (fun t => t.chip.step = 5) = true ∧
    runsA (powered.setChip { powered.chip with step := 5, actions := [(.clock 4, 10)] }) 0x0702 1 [3] (isOp 0x0702) clockModeBad .clockMode (fun t => t.chip.step = 1 && t.chip.fixed && t.chip.actions = []) = true := by decide +kernel
theorem test_gov_undo_fixed : ((powered.setChip { powered.chip with step := 5 }).govUndo (.clock 4)).cmd.jobs.all (fun e => e.2.engaged) = true ∧
    ((powered.setChip { powered.chip with step := 5, fixed := false }).govUndo (.clock 4)).cmd.jobs.all (fun e => !e.2.engaged) = true := by decide +kernel
theorem test_energy_read : runsA powered 0x0703 1 [127] (isOp 0x0703) energyBad (.energyRead 256) (fun t => result t 256 = some (0, [5, 0])) = true := by decide +kernel
theorem test_energy_read_job : runs powered 0x0703 1 [0] (isOp 0x0703) energyBad (.energyRead 0) (fun t => result t 0 = some (0, [0, 0])) = true := by decide +kernel
theorem test_energy_interval : after (exec (.energyInterval 1500 [⟨400, [(0, 3), (9, 1)]⟩, ⟨100, []⟩]) ((powered.setSide { powered.side with pstate := .active }).setClk { Clk.init with counter := 25000 })) (fun t =>
    t.chip.energy = 7499 && t.chip.ownEnergy = 450 && t.counter 5 = 2 && (t.cmd.jobs.get? 0).any (fun j => j.energy = 1050 && j.stepEnergy = 1050)) = true := by decide +kernel

/-- The module with cluster 0 in a power state, 2 ms on. -/
def clustered (x : Cluster) : State := (powered.setChip { powered.chip with clusters := [(0, x)] }).setClk { Clk.init with counter := 50000 }
/-- An idle cluster. -/
def idleCl : Cluster := { Cluster.init with pow := .idle }
theorem test_auto_gate_ahead : after (exec (.clusterAutoGate 0) (let s := clustered idleCl; s.setCmd { s.cmd with aheadAt := [(0, [0])] })) (fun t => (t.cluster 0).pow = .idle) = true := by decide +kernel
theorem test_cluster_read : runsA (clustered { idleCl with manual := true }) 0x0704 1 [0] (isClusterState 0) clusterBad .clusterStateRead (fun t => result t 256 = some (0, [0x8080808080803014, 0x8080808080808080, 0x8080808080808080])) = true := by decide +kernel
theorem test_cluster_gate : runsA (clustered idleCl) 0x0704 1 [1] (isClusterState 1) clusterBad .clusterStateGate (fun t => (t.cluster 0).pow = .gating && (t.cluster 0).keepGated && result t 256 = none && (t.prog 256 0).any (fun g => g.work = .cluster 1 [0])) = true := by decide +kernel
theorem test_cluster_gate_done : runsA (clustered Cluster.init) 0x0704 1 [1] (isClusterState 1) clusterBad .clusterStateGate (fun t => (result t 256).map (·.1) = some 0) = true := by decide +kernel
theorem test_cluster_wake : runsA (clustered Cluster.init) 0x0704 1 [2] (isClusterState 2) clusterBad .clusterStateWake (fun t => (t.cluster 0).pow = .waking && (t.prog 256 0).any (fun g => g.work = .cluster 2 [0])) = true ∧
    runsA (clustered { idleCl with pow := .gating }) 0x0704 1 [2] (isClusterState 2) clusterBad .clusterStateWake (fun t => (t.cluster 0).held && (t.prog 256 0).any (fun g => g.work = .cluster 3 [0])) = true ∧
    runsA (clustered idleCl) 0x0704 1 [2] (isClusterState 2) clusterBad .clusterStateWake (fun t => (result t 256).map (·.1) = some 0) = true := by decide +kernel
theorem test_cluster_automatic : runsA (clustered { idleCl with manual := true, keepGated := true }) 0x0704 1 [3] (isClusterState 3) clusterBad .clusterStateAutomatic (fun t => t.cluster 0 = idleCl && (result t 256).map (·.1) = some 0) = true := by decide +kernel
theorem test_auto_gate : after (exec (.clusterAutoGate 0) (clustered idleCl)) (fun t => (t.cluster 0).pow = .gating) = true ∧ after (exec (.clusterAutoGate 0) (clustered { idleCl with manual := true, keepGated := true })) (fun t => (t.cluster 0).pow = .gating) = true ∧
    after (exec (.clusterAutoGate 0) (clustered { idleCl with manual := true, heldOff := true })) (fun t => (t.cluster 0).pow = .gating) = true := by decide +kernel
/-- A page of berth 1 stands in cluster 0. -/
def retained (x : Cluster) : State := let s := clustered x
  s.setPlace { s.place with berths := [(1, { aBerth with cls := 0, pages := [(0, Page.placedAt (BitVec.ofNat 46 (sramAddr 0 0 / 2 ^ 18)))] })] }
theorem test_cluster_wakes : after (exec (.clusterWake 0 .retainedAccess) (retained Cluster.init)) (fun t => (t.cluster 0).pow = .waking && t.side.pstate = .active) = true ∧
    after (exec (.clusterWake 0 .retainedAccess) (retained { idleCl with pow := .gating })) (fun t => (t.cluster 0).held) = true := by decide +kernel
theorem test_cluster_wake_command : after (exec (.clusterWake 0 .command) ((clustered Cluster.init).setCmd { open0.cmd with progs := [prog 256 0x0704 1 (.cluster 2 [0]) none [2]] })) (fun t => (t.cluster 0).pow = .waking) = true := by decide +kernel
theorem test_thin_gate : after (exec (.thinPathGate 0) (clustered { idleCl with thinOn := true })) (fun t => !(t.cluster 0).thinOn && (t.cluster 0).thinOff) = true := by decide +kernel
/-- A CLUSTER_STATE that waits for cluster 0. -/
def waits (want : Nat) (x : Cluster) : State := (clustered x).setCmd { open0.cmd with progs := [prog 256 0x0704 1 (.cluster want [0]) none [2]] }
theorem test_enable_complete : after (exec (.enableComplete (.cluster 0)) (waits 3 { idleCl with pow := .waking })) (fun t => (t.cluster 0).pow = .idle && (result t 256).map (·.1) = some 0x0102) = true := by decide +kernel
theorem test_thin_enable : after (exec (.enableComplete (.thinPath 0)) (clustered { idleCl with thinInst := some 4 })) (fun t => (t.cluster 0).thinOn) = true := by decide +kernel
theorem test_shutdown_complete : after (exec (.shutdownComplete (.cluster 0)) (waits 1 { idleCl with pow := .gating })) (fun t => (t.cluster 0).pow = .gated && (result t 256).map (·.1) = some 0) = true ∧
    after (exec (.shutdownComplete (.rechar 0)) (clustered { idleCl with pow := .rechar, held := true })) (fun t => (t.cluster 0).pow = .waking) = true ∧
    after (exec (.shutdownComplete (.thinPath 0)) (clustered { idleCl with thinOff := true })) (fun t => !(t.cluster 0).thinOff) = true := by decide +kernel
theorem test_shutdown_port : after (exec (.shutdownComplete (.port 3)) (powered.setNet { powered.net with ports := [(3, { Port.init with shutting := true })] })) (fun t => (t.port 3).shut && !(t.port 3).shutting) = true ∧
    after (exec (.shutdownComplete (.port 3)) (powered.setNet { powered.net with ports := [(3, { Port.init with shutting := true, held := true })] })) (fun t => (t.port 3).training = some 0) = true := by decide +kernel

/-- The module 100 µs on, with no filler. -/
def governed (c : Chip) : State := (powered.setChip c).setClk { Clk.init with counter := 250000 }
/-- A filler's instance runs on core 0. -/
def fillered : State :=
  let s := running [] false aCore
  let s := s.setComp { s.comp with launches := [(0, { aLaunch with filler := true })] }
  ((s.setSide { s.side with pstate := .active }).setChip { s.chip with clusters := [(0, { idleCl with pow := .running })] }).setClk { Clk.init with counter := 250000 }
theorem test_governor_duty : after (exec (.governorTick 3300 50) fillered) (fun t => (t.cluster 0).duty = 7 && t.side.tj = 50) = true := by decide +kernel
theorem test_governor_gate : after (exec (.governorTick 3300 50) (fillered.setChip { fillered.chip with clusters := [(0, { idleCl with pow := .running, duty := 1 })] })) (fun t => (t.cluster 0).heldOff && (t.coreOf 0).leave = some 250000) = true := by decide +kernel
theorem test_governor_clock : after (exec (.governorTick 3300 50) (governed { powered.chip with fixed := false })) (fun t => t.chip.step = 1) = true ∧ after (exec (.governorTick 3300 50) (governed powered.chip)) (fun t => t.chip.step = 0) = true ∧
    after (exec (.governorTick 1000 100) (governed powered.chip)) (fun t => t.chip.step = 1 && t.chip.hot && t.side.attnCause = 8) = true := by decide +kernel
theorem test_governor_raise : after (exec (.governorTick 1000 50) (governed { powered.chip with step := 4, actions := [(.clock 3, 100)], govQuiet := some 0 })) (fun t => t.chip.step = 3 && t.chip.actions = []) = true ∧
    after (exec (.governorTick 1000 50) (governed { powered.chip with actions := [(.halve, 100)], govQuiet := none })) (fun t => t.chip.govQuiet = some 250000) = true ∧
    after (exec (.governorTick 3000 50) (governed { powered.chip with actions := [(.halve, 100)], govQuiet := some 0 })) (fun t => t.chip.govQuiet = none) = true := by decide +kernel
theorem test_clamp : after (exec (.clampCheck 3300) fillered) (fun t => (t.cluster 0).duty = 1 && t.side.pin = 3300 && t.chip.clampNext = some 275000 && t.counter 10 = 1) = true ∧
    after (exec (.clampCheck 3300) (governed { powered.chip with clampNext := some 250000 })) (fun t => t.chip.step = 1) = true ∧
    after (exec (.clampCheck 3300) (governed { powered.chip with clampNext := some 250000, step := 5 })) (fun t => t.chip.halved) = true ∧
    after (exec (.clampCheck 1000) (governed { powered.chip with clampNext := some 250000 })) (fun t => t.chip.clampNext = none) = true := by decide +kernel
theorem test_droop : after (exec (.droopStretch 0) ((clustered idleCl).setSide { powered.side with pstate := .active })) (fun t => (t.cluster 0).stretched && t.counter 11 = 1) = true ∧ after (exec (.droopStretch 24) powered) (fun t => t.chip.stretched = [24]) = true := by decide +kernel
theorem test_stretch_release : after (exec (.stretchRelease 24) (governed { powered.chip with stretched := [25, 24] })) (fun t => t.chip.stretched = [25]) = true := by decide +kernel
theorem test_rechar_due : after (exec .recharDue (powered.setLedger { powered.ledger with ctr := [(0, 7200000)] })) (fun t => t.chip.recharDue = some 7200000 && !(t.cluster 5).recharDone) = true := by decide +kernel
/-- Re-characterisation is due for cluster 0, which is gated. -/
def recharring : State := let s := clustered { Cluster.init with recharDone := false }; s.setChip { s.chip with recharDue := some 0 }
theorem test_rechar : after (exec (.recharacterisation 0 10 2000) recharring) (fun t => (t.cluster 0).trim = 10 && (t.cluster 0).pow = .rechar && t.ledger.perm.map (·.typ) = [13]) = true ∧
    after (exec (.recharacterisation 0 65 2000) recharring) (fun t => (t.cluster 0).svc = .draining && (t.cluster 0).retireAfter && t.ledger.perm.map (·.typ) = [14]) = true := by decide +kernel
theorem test_snapshot : after (exec .ledgerSnapshot ((powered.setLedger { powered.ledger with ctr := [(0, 3600)] }).setClk { Clk.init with counter := 90000000000 })) (fun t => t.ledger.snap = [(0, 3600)] && t.ledger.snapAt = 90000000000) = true := by decide +kernel
theorem test_event_write : after (exec .ledgerEventWrite (powered.ord 1 2 [3])) (fun t => t.ledger.waiting = [] && t.ledger.ord.map (·.typ) = [1] && t.counter 23 = 1) = true := by decide +kernel

theorem test_reset_n : after (exec .resetNAssert { powered with side := { powered.side with resetN := false } }) (fun t => t.side.pstate = .standby && t.side.resetCause = 1 && t.cmd = Cmd.init && t.chip.cap = 3200) = true := by decide +kernel
theorem test_supply_trip : after (exec .supplyTrip powered) (fun t => t.side.supplyHeld && t.side.pstate = .standby && t.counter 8 = 1 && t.side.attnCause = 0x31) = true := by decide +kernel
theorem test_thermal_trip : after (exec .thermalTrip powered) (fun t => t.side.pstate = .tripped && t.side.thermTrip && t.counter 9 = 1 && t.side.resetCause = 4) = true := by decide +kernel
/-- Start-up stands in stage 7, 120 s on. -/
def stage7 (n : Nat) : State := (powered.setSide { powered.side with pstate := .starting, stageDone := 0x7E, startAt := 0, wdStarts := n, resetN := false }).setClk { Clk.init with counter := 3000000000 }
theorem test_stage_7 : after (exec .stage7Timeout (stage7 0)) (fun t => t.side.pstate = .starting && t.side.wdStarts = 1 && t.side.resetCause = 2) = true ∧ after (exec .stage7Timeout (stage7 2)) (fun t => t.side.pstate = .recovery && t.side.attnCause = 0x24) = true := by decide +kernel
theorem test_orderly : after (exec .orderlyShutdownComplete (powered.setSide { powered.side with shutting := true, pwrEn := false })) (fun t => t.side.pstate = .standby && !t.side.shutting && t.side.resetCause = 10) = true ∧
    after (exec (.shutdownComplete .module) (powered.setSide { powered.side with shutting := true, pwrEn := true, resetN := false, stageDone := 0xFE })) (fun t => t.side.pstate = .starting) = true := by decide +kernel
theorem test_trip_recovery : after (exec .tripRecovery ((powered.setSide { powered.side with supplyHeld := true, pstate := .standby, pwrEn := true, resetN := false, stageDone := 2 }).setClk { Clk.init with counter := 2500000 })) (fun t => t.side.pstate = .starting && t.side.startAt = 2500000) = true := by decide +kernel

/-! ### Health and repair -/

theorem test_health_read : runsA powered 0x0801 1 [1, 0] (isOp 0x0801) (fun p _ => mal 0 (7 ≤ p.f 0 3 0)) (.healthRead 256) (fun t => (result t 256).map (fun r => (r.1, r.2.take 3)) = some (0, [0x300000003, 0x1080000000000000, 0x1080000000000000])) = true ∧
    runsA powered 0x0801 1 [2, 20] (isOp 0x0801) (fun p _ => mal 0 (7 ≤ p.f 0 3 0)) (.healthRead 256) (fun t => (result t 256).any (fun r => r.2.length = 4)) = true ∧
    runsA powered 0x0801 2 [0, 0] (isOp 0x0801) (fun p _ => mal 0 (7 ≤ p.f 0 3 0)) (.healthRead 256) (fun t => (result t 256).any (fun r => r.2.length = 5)) = true := by decide +kernel
/-- Core 3 of cluster 1 in a state of health. -/
def core20 (x : CoreHw) : State := powered.setChip { powered.chip with cores := [(20, x)], clusters := [(1, { Cluster.init with spare := some 16 })] }
/-- A quarantined core. -/
def badCore : CoreHw := { CoreHw.init 20 with st := .quarantined, reason := 1 }
theorem test_fuse_row : runsA (core20 badCore) 0x0802 1 [2 ^ 24 * 129 + 3 * 2 ^ 9 + 32 + 1] (isRepair 1) (fuseRefused 0) .fuseRow (fun t => (result t 256).any (fun r => r.1 = 0 && r.2.length = 2) && fuseIndex (t.coreHw 20).fuse 0 = 129 &&
    fuseValid (t.coreHw 20).fuse 0 && (t.coreHw 20).mapped = badCore.mapped && (t.coreHw 20).fusePend && t.counter 13 = 1 && t.ledger.perm.map (·.typ) = [2]) = true := by decide +kernel
theorem test_fuse_col : runsA (core20 { badCore with fuse := fuseProgram badCore.fuse 2 4 }) 0x0802 1 [2 ^ 24 * 5 + 3 * 2 ^ 9 + 32 + 2] (isRepair 2) (fuseRefused 2) .fuseCol (fun t => fuseIndex (t.coreHw 20).fuse 3 = 5 && !fuseBad (t.coreHw 20).fuse) = true := by decide +kernel
theorem test_spare_core : runsA (core20 { badCore with st := .working }) 0x0802 1 [3 * 2 ^ 9 + 32 + 3] (isRepair 3) spareCoreBad .spareCore (fun t => (t.prog 256 0).any (fun g => g.work = .repair 3 20)) = true ∧
    after (exec (.commandComplete 256 0) (inProg 256 (prog 256 0x0802 1 (.repair 3 20) none [3 * 2 ^ 9 + 32 + 3]) (core20 { badCore with st := .working }))) (fun t => (t.coreHw 20).st = .retired && (t.coreHw 33).st = .working && (t.cluster 1).spare = none && (t.prog 256 0).isNone) = true := by decide +kernel
theorem test_restore_spare : runsA (powered.setChip { powered.chip with cores := [(20, { badCore with st := .retired, fusePend := true })], clusters := [(1, { Cluster.init with spare := none })] }) 0x0802 1 [3 * 2 ^ 9 + 32 + 4] (isRepair 4) restoreSpareBad (.restoreSpare ⟨true, 0, 0⟩) (fun t =>
    (t.coreHw 20).st = .spare && !(t.coreHw 20).fusePend && (t.cluster 1).spare = some 3 && t.side.attnCause = 1 && (result t 256).map (·.1) = some 0) = true := by decide +kernel
theorem test_restore_spare_fails : runsA (powered.setChip { powered.chip with cores := [(20, { badCore with st := .retired, fusePend := true })], clusters := [(1, { Cluster.init with spare := none })] }) 0x0802 1 [3 * 2 ^ 9 + 32 + 4] (isRepair 4) restoreSpareBad (.restoreSpare ⟨false, 3, 4⟩) (fun t =>
    (t.coreHw 20).st = .retired && !(t.coreHw 20).fusePend && (t.coreHw 20).badRow = 3 && (t.cluster 1).spare = none && (result t 256).map (·.1) = some 0x0201) = true := by decide +kernel
/-- Pseudo-channel 5 of stack 2 in a state. -/
def pc5 (x : Pc) : State := powered.setChip { powered.chip with pcs := [(133, x)] }
theorem test_ppr_commit : runsA (pc5 Pc.init) 0x0802 1 [5 * 2 ^ 18 + 2 * 2 ^ 14 + 5] (isRepair 5) pprCommitBad .pprCommit (fun t => result t 256 = some (0, [133, repairWord 5 2 0 0])) = true ∧
    runsA (pc5 { Pc.init with pprSoft := 2 }) 0x0802 1 [5 * 2 ^ 18 + 2 * 2 ^ 14 + 5] (isRepair 5) pprCommitBad .pprCommit (fun t => result t 256 = none && (t.pc 133).st = .retiring) = true ∧
    after (exec (.unitEmptied (.pc 2 5)) ((pc5 { Pc.init with pprSoft := 2, st := .retiring }).setCmd { open0.cmd with progs := [prog 256 0x0802 1 (.repair 5 133) none []] })) (fun t =>
      result t 256 = some (0, [133, repairWord 5 0 0 0]) && (t.pc 133).st = .inService && (t.pc 133).pprSoft = 0 && t.counter 14 = 2) = true := by decide +kernel
theorem test_retire_pc : runsA (pc5 Pc.init) 0x0802 1 [5 * 2 ^ 18 + 2 * 2 ^ 14 + 6] (isRepair 6) retirePcBad .retirePc (fun t => (t.pc 133).st = .retiring && t.chip.retiring = [.pc 2 5]) = true ∧
    runsA powered 0x0802 1 [6] (isRepair 6) retirePcBad .retirePc (fun t => (t.pc 0).st = .retiring && (t.stack 0).sysGroup = 1) = true ∧
    after (exec (.unitEmptied (.pc 2 5)) (((pc5 { Pc.init with st := .retiring }).setCmd { open0.cmd with progs := [prog 256 0x0802 1 (.repair 6 133) none []] }).setChip { (pc5 { Pc.init with st := .retiring }).chip with retiring := [.pc 2 5] })) (fun t =>
      result t 256 = some (0, [133, repairWord 6 0 0 (2 ^ 30)]) && (t.pc 133).st = .retired && t.counter 15 = 1 && t.side.attnCause = 1) = true := by decide +kernel
theorem test_retire_stack : runsA powered 0x0802 1 [2 * 2 ^ 14 + 7] (isRepair 7) retireStackBad .retireStack (fun t => (t.stack 2).st = .retiring && (t.stack 2).sysUnits = 0 && (t.stack 0).sysUnits = 8739 && (t.stack 3).sysUnits = 8738 && t.chip.retiring = [.stack 2]) = true ∧
    after (exec (.unitEmptied (.stack 2)) (powered.emptyStack 2)) (fun t => (t.stack 2).st = .retired && t.chip.retiring = [] && t.side.attnCause = 1) = true := by decide +kernel
theorem test_retire_cluster : runsA powered 0x0802 1 [32 + 8] (isRepair 8) retireClusterBad .retireCluster (fun t => (t.cluster 1).svc = .draining && (t.cluster 1).retireAfter && (t.cluster 1).drainAt = some 0) = true := by decide +kernel
theorem test_reset_cluster : runsA powered 0x0802 1 [32 + 9] (isRepair 9) resetClusterBad .resetCluster (fun t => (t.cluster 1).svc = .draining && !(t.cluster 1).retireAfter) = true ∧
    runsA powered 0x0802 1 [2 ^ 24 + 32 + 9] (isRepair 9) resetClusterBad .resetCluster (fun t => (t.cluster 1).svc = .resetting && (t.prog 256 0).any (fun g => g.work = .repair 9 1)) = true := by decide +kernel
theorem test_patrol : runsA powered 0x0803 1 [1 + 2 * 2] (isOp 0x0803) patrolBad (.patrol 256) (fun t => result t 256 = some (0, [2 ^ 30, 0, 0])) = true := by decide +kernel
theorem test_scarab : after (exec (.scarabRead 2 2) (powered.setChip { powered.chip with hbm := [(2, { Stack.init with scarabAt := 2 ^ 26 - 1, sysUnits := 8192 })] })) (fun t => (t.stack 2).scarabAt = 2 ^ 26 && t.health.total = 1 && t.mem.poison = [(sysKey (2 * 2 ^ 31 + 2 ^ 31 - 64)) / 64]) = true ∧
    after (exec (.scarabRead 2 0) powered) (fun t => (t.stack 2).scarabAt = 1) = true := by decide +kernel
theorem test_hbm_refresh : after (exec (.hbmRefresh 2 5 7) powered) (fun t => (t.pc 133).refreshes = [(7, 1)]) = true := by decide +kernel
theorem test_sram_patrol : after (exec (.sramPatrolRead (.operand 3) 5 2) powered) (fun t => t.health.total = 1 && t.mem.poison = [sramKey 3 320 / 64]) = true ∧ after (exec (.sramPatrolRead (.accumulator 3) 1025 2) powered) (fun t => ((t.coreOf 3).tiles.getD 1 Tile.init).bad = [1]) = true ∧
    after (exec (.sramPatrolRead (.instruction 3) 5 2) powered) (fun t => t.mem.poison = [] && t.health.total = 1) = true ∧ after (exec (.sramPatrolRead (.harbour 1) 5 1) powered) (fun t => t.mem.poison = [] && t.health.total = 1) = true := by decide +kernel
theorem test_stack_fails : after (exec (.stackLinkError 2 false) (powered.setChip { powered.chip with hbm := [(2, { Stack.init with sysUnits := 0 })] })) (fun t => (t.stack 2).st = .failed && t.chip.retiring = [.stack 2] && t.side.attnCause = 1) = true := by decide +kernel
theorem test_fault_inject : runsA powered 0x0804 1 [7, 3 * 2 ^ 9 + 32, 2] (isOp 0x0804) faultInjectBad .faultInject (fun t => t.health.armed = [(7, 0x620, 2)] && result t 256 = none) = true ∧
    runsA powered 0x0804 1 [19, 0, 1] (isOp 0x0804) faultInjectBad .faultInject (fun t => t.side.resetCause = 9 && t.cmd = Cmd.init) = true ∧
    ((powered.progOutcome (prog 256 0x0804 1 .none none [7, 0x620, 2])).map (·.results) = some [2] ∧ ((powered.setHealth { powered.health with armed := [(7, 0x620, 1)] }).progOutcome (prog 256 0x0804 1 .none none [7, 0x620, 2])) = none) := by decide +kernel

/-! ### Mismatches, self-tests and resets of clusters -/

/-- Fifteen mismatches of a block in the last second. -/
def fifteen (key : Nat) : State := powered.setChip { powered.chip with mismatches := [(key, List.replicate 15 0)] }
theorem test_quay_mismatch : after (exec (.controlMismatch .quay 2) powered) (fun t => t.health.events.map (fun e => (e.cls, e.outcome)) = [(9, 0)] && t.counter 34 = 1 && t.cmd.rings = powered.cmd.rings) = true ∧
    after (exec (.controlMismatch .quay 3) powered) (fun t => t.side.resetCause = 5) = true ∧ after (exec (.quayMismatch false) (fifteen 24)) (fun t => t.side.resetCause = 5) = true ∧ after (exec (.quayMismatch false) powered) (fun t => t.health.total = 1) = true ∧
    after (exec (.controlMismatch .ferry 0) (fifteen 25)) (fun t => t.side.resetCause = 6) = true := by decide +kernel
theorem test_cricket_mismatch : after (exec (.cricketMismatch 0) powered) (fun t => t.side.cricketRestarts = 1 && t.health.total = 1) = true ∧ after (exec (.cricketMismatch 3) powered) (fun t => t.side.resetCause = 7) = true := by decide +kernel
theorem test_cluster_mismatch : after (exec (.controlMismatch (.cluster 1) 0) powered) (fun t => (t.cluster 1).svc = .inService && (t.cluster 1).ctlMm = [0]) = true ∧
    after (exec (.controlMismatch (.cluster 1) 3) powered) (fun t => (t.cluster 1).svc = .resetting && (t.cluster 1).retireAfter && t.side.attnCause = 1) = true := by decide +kernel
theorem test_cluster_mismatch_resetting : after (exec (.controlMismatch (.cluster 1) 3) (powered.updCluster 1 fun c => { c with svc := .resetting })) (fun t => (t.cluster 1).svc = .resetting && (t.cluster 1).retireAfter) = true ∧
    after (exec (.sramPatrolRead (.harbour 1) 5 2) (powered.updCluster 1 fun c => { c with sramBad := List.replicate 15 (1, 0) })) (fun t => (t.cluster 1).svc = .resetting && (t.cluster 1).retireAfter) = true := by decide +kernel
theorem test_pair_mismatch : after (exec (.harbourmasterPairMismatch 2 0) powered) (fun t => t.chip.pairs = 0xFF && t.health.total = 1) = true ∧ after (exec (.harbourmasterPairMismatch 2 3) (powered.setChip { powered.chip with pairs := 0x0F })) (fun t => t.chip.pairs = 0x0B && t.health.noAccept) = true ∧
    after (exec (.harbourmasterPairMismatch 2 3) powered) (fun t => t.chip.pairs = 0xFB && !t.health.noAccept) = true ∧ after (exec (.harbourmasterPairMismatch 2 3) (powered.setChip { powered.chip with pairs := 4 })) (fun t => t.side.resetCause = 8 && t.chip.pairs = 0) = true := by decide +kernel
theorem test_core_self_test : after (exec (.coreSelfTest 20 true 1 1) (core20 { badCore with testing := true, st := .working })) (fun t => (t.coreHw 20).st = .working && !(t.coreHw 20).testing && (t.coreHw 20).badRow = 255) = true ∧
    after (exec (.coreSelfTest 20 false 7 9) (core20 { badCore with testing := true, st := .working })) (fun t => (t.coreHw 20).st = .quarantined && (t.coreHw 20).badRow = 7 && (t.coreHw 20).badCol = 9 && t.side.attnCause = 1) = true ∧
    after (exec (.coreSelfTest 20 true 7 9) (core20 { badCore with testing := true, st := .working, faults := [0, 0, 0] })) (fun t => (t.coreHw 20).st = .quarantined && (t.coreHw 20).reason = 2) = true := by decide +kernel
theorem test_thin_self_test : after (exec (.thinPathSelfTest 0 false) (clustered { idleCl with thinTest := true })) (fun t => (t.cluster 0).thinQ && !(t.cluster 0).thinTest) = true ∧ after (exec (.thinPathSelfTest 0 true) (clustered { idleCl with thinTest := true })) (fun t => !(t.cluster 0).thinQ) = true := by decide +kernel
/-- Cluster 0 drains or resets, with an instance that runs or with none. -/
def drained (x : Cluster) (busy : Bool) : State :=
  let s := if busy then running [] false aCore else powered
  ((s.setSide { s.side with pstate := .active, v54 := true }).setChip { s.chip with clusters := [(0, x)] }).setClk { Clk.init with counter := 25000000 }
theorem test_drain_timeout : after (exec (.drainTimeout 0) (drained { idleCl with svc := .draining, drainAt := some 0 } true)) (fun t => (t.cluster 0).svc = .resetting && (t.cluster 0).forced && (t.coreOf 0).inst = none) = true := by decide +kernel
theorem test_scan : after (exec (.scanReadoutComplete 0 [⟨1, 0, .move, 4096⟩]) (let s := retained { idleCl with svc := .resetting }; s.setPlace { s.place with berths := s.place.berths.mapVals fun _ b => { b with pages := b.pages.mapVals fun _ p => { p with held := true } } })) (fun t =>
    (t.place.berths.get? 1).any (fun b => (b.pages.get? 0).any fun p => p.base = 4096 && !p.held && p.st = .placed)) = true ∧
    after (exec (.scanReadoutComplete 0 []) (drained { idleCl with svc := .resetting } false)) (fun t => (t.cluster 0).svc = .resetting) = true := by decide +kernel
theorem test_cluster_self_test : after (exec (.clusterSelfTest 0 true) ((drained { idleCl with svc := .draining, drainAt := some 0 } false).setCmd { open0.cmd with progs := [prog 256 0x0802 1 (.repair 9 0) none []] })) (fun t => (t.cluster 0).svc = .inService && result t 256 = some (0, [0, repairWord 9 0 0 0])) = true ∧
    after (exec (.clusterSelfTest 0 false) (drained { idleCl with svc := .resetting, forced := true } false)) (fun t => (t.cluster 0).svc = .retired && (t.cluster 0).pow = .gated) = true := by decide +kernel
theorem test_replay_resume : after (exec (.replayResume 0 5) (let s := drained idleCl false; (running [] true aCore).setComp { (running [] true aCore).comp with cores := [], insts := [(0, { anInst with st := .suspended, save := none })] } |>.setSide s.side |>.setChip { s.chip with enMask := 3 })) (fun t => (t.coreOf 5).inst = some 0) = true := by decide +kernel
/-- The operating firmware runs, and pair 2 reported last at count 0. -/
def watched (n : Nat) : State := (powered.setSide { powered.side with stageDone := 0xFE, reports := [(2, 0)] }).setClk { Clk.init with counter := BitVec.ofNat 64 n }
theorem test_watchdog : after (exec (.watchdogReport (.pair 2)) (watched 9)) (fun t => t.side.reports = [(2, 9)]) = true ∧ after (exec (.watchdogReport .romPath) ((watched 9).setSide { (watched 9).side with romPath := true })) (fun t => t.side.reports.get? 8 = some 9) = true ∧
    after (exec .firmwareHang (watched 1000000)) (fun t => t.side.resetCause = 2 && t.counter 7 = 1) = true ∧ after (exec .firmwareHang (watched 999999)) (fun t => t.side.resetCause = 0) = true := by decide +kernel
theorem test_sequencer : after (exec (.sequencerMismatch ⟨0, 1⟩) (drained idleCl true)) (fun t => (t.coreHw 0).testing && (t.coreHw 0).faults = [25000000] && (t.coreOf 0).inst = none) = true := by decide +kernel
theorem test_sequencer_idle : after (exec (.sequencerMismatch ⟨0, 1⟩) powered) (fun t => (t.coreHw 0).testing && (t.coreHw 0).st = .working) = true ∧
    after (exec (.sequencerMismatch ⟨0, 3⟩) powered) (fun t => !(t.coreHw 0).testing && (t.coreHw 0).st = .quarantined && (t.coreHw 0).reason = 4 && t.side.attnCause = 1) = true := by decide +kernel

/-! ### Audit, Ledger and firmware -/

theorem test_digest : runs berth1 0x0A01 2 [0x10001, 0, 64] (isOp 0x0A01) scanBad (.digest 0) (fun t => (result t 0).any (fun r => r.1 = 0 && r.2.length = 8)) = true ∧
    runs (berth1.setMem { berth1.mem with poison := [berthKey 1 64 / 64] }) 0x0A01 2 [0x10001, 64, 8] (isOp 0x0A01) scanBad (.digest 0) (fun t => (result t 0).map (·.1) = some 0x0401) = true := by decide +kernel
theorem test_check_value : runs berth1 0x0A02 4 ([2 ^ 35 + 0x10001, 0, 32] ++ List.replicate 26 0) (isOp 0x0A02) checkBad (.checkValue 0) (fun t => result t 0 = some (0, [0x8A9136AA, 0, 0, 0, 0, 0, 0, 0])) = true ∧
    runs berth1 0x0A02 4 ([2 ^ 32 + 0x10001, 0, 1] ++ List.replicate 26 0) (isOp 0x0A02) checkBad (.checkValue 0) (fun t => (result t 0).any (fun r => r.2.length = 26 && r.2[25]? = some (2 ^ 62 + 1))) = true ∧
    runs berth1 0x0A02 4 ([2 ^ 34 + 2 ^ 35 + 0x10001, 32, 0, 0x75C96F55 ^^^ 0] ++ List.replicate 24 0 ++ [32]) (isOp 0x0A02) checkBad (.checkValue 0) (fun t => result t 0 = some (0, [0x75C96F55 ^^^ 0xFFFFFFFF, 0, 0, 0, 0, 0, 0, 0])) = true := by decide +kernel
theorem test_step_record : runs (open0.setColl { open0.coll with usedTags := [5, 65541] }) 0x0A03 1 [2 ^ 32, 0x20000] (isOp 0x0A03) stepRecordBad (.stepRecord 0) (fun t => result t 0 = some (0, [3, 498]) && (t.cmd.jobs.get? 0).any (fun x => x.step = 4 && x.cmdLog = []) && t.coll.usedTags = [65541]) = true ∧
    runs (berth1.setPlace { berth1.place with berths := [(1, { aBerth with pages := [(0, { Page.placedAt 4096 with st := .lost })] })] }) 0x0A03 1 [0x10001, 0] (isOp 0x0A03) stepRecordBad (.stepRecord 0) (fun t => (result t 0).map (·.1) = some 0x0404 && (t.cmd.jobs.get? 0).any (fun j => j.step = 3)) = true := by decide +kernel
theorem test_attest : runs open0 0x0A04 1 [0, 0, 0, 0, 0, 0, 0, 0, 0x20000, 4570] (isOp 0x0A04) (fun p _ => sysBad 8 (p.f 8 34 0) (p.w 9).toNat ++ mal 9 ((p.w 9).toNat < 4570)) (.attest 0) (fun t => result t 0 = some (0, [486])) = true := by decide +kernel
/-- The report and the record have the lengths that the spec gives them, whatever the signature. -/
theorem test_lengths : (open0.attestReport []).length = 474 ∧ open0.attestInfo.length = 256 ∧ (open0.stepRecord 0 0 64 aJob).length = aJob.recordBytes ∧ (open0.description).length = 448 ∧ open0.window.length = 80 := by decide +kernel
theorem test_ledger_read : runsA (powered.perm 4 9 [1]) 0x0B01 1 [2, 0, 0x20000, 400] (isOp 0x0B01) (fun p _ => mal 0 (3 < p.f 0 3 0) ++ sysBad 2 (p.f 2 34 0) (p.w 3).toNat) .ledgerRead (fun t => result t 256 = some (0, [1, 1]) && t.mem.read 0x2001A 3 = [4, 0, 9]) = true ∧
    runsA powered 0x0B01 1 [0, 1, 0x20000, 512] (isOp 0x0B01) (fun p _ => mal 0 (3 < p.f 0 3 0) ++ sysBad 2 (p.f 2 34 0) (p.w 3).toNat) .ledgerRead (fun t => result t 256 = some (0, [0, 1])) = true := by decide +kernel
theorem test_calendar_set : runsA powered 0x0B02 1 [1000] (isOp 0x0B02) (fun p _ => mal 0 (p.w 0 = 0)) .calendarSet (fun t => t.calendarNow = 1000 && t.ledger.waiting.map (·.typ) = [12] && (result t 256).map (·.1) = some 0) = true := by decide +kernel
theorem test_fw_stage : runsA powered 0x0B03 1 [0x20000, 64] (isOp 0x0B03) (fun p _ => sysBad 0 (p.f 0 34 0) (p.w 1).toNat ++ mal 1 (2 ^ 26 < (p.w 1).toNat)) .fwStage (fun t => (t.outcomeAt 256 0).map (fun o => (o.status, o.detail)) = some (0x0301, detailWord 0x24 0) && t.cmd.staged = none) = true := by decide +kernel
/-- A module with an image staged and job 0's ring 0 open, and a filler's instance on core 0. -/
def staged : State := let s := fillered.setSide { fillered.side with harts := 1 }; (s.setCmd { s.cmd with staged := some [1] }).setRing 0 { Ring.init with base := 0x30000, st := .running }
theorem test_fw_activate : runsA staged 0x0B04 3 [5] (isOp 0x0B04) (fun p s => mal 0 (p.f 0 15 0 = 0 || 60000 < p.f 0 15 0) ++ refuseIf s.cmd.staged.isNone stMalformed 0) .fwActivate (fun t => (t.ring 0).st = .paused && (t.ring 256).st = .paused && (t.coreOf 0).leave.isSome &&
    (t.prog 256 0).any (fun g => g.work = .firmware 375000 0)) = true := by decide +kernel
/-- A firmware activation in progress, with its rings paused. -/
def activating (starting : Bool) (now lim : Nat) : State :=
  let s := inProg 256 (prog 256 0x0B04 3 (.firmware lim 7) none [5]) powered
  ((s.setCmd { s.cmd with staged := some [1], starting := starting, rings := [(0, { Ring.init with st := .paused }), (256, { (s.ring 256) with st := .paused })] }).setSide { s.side with reports := [(9, 0)], fwMeas := 9 }).setClk { Clk.init with counter := BitVec.ofNat 64 now }
theorem test_fw_quiescent : after (exec .fwQuiescent (activating false 5 10)) (fun t => t.cmd.starting && t.side.fwImage = [1] && t.side.romPath && t.side.reports = [(8, 5), (9, 5)] && t.counter 16 = 1 && t.ledger.perm.map (·.typ) = [6]) = true ∧ after (exec .fwQuiescent (activating false 10 10)) (fun t => !t.cmd.starting) = true := by decide +kernel
theorem test_fw_timeout : after (exec .fwActivateTimeout (activating false 10 10)) (fun t => result t 256 = some (0x0403, []) && (t.ring 0).st = .running && (t.ring 256).st = .running && t.side.fwMeas = 9) = true := by decide +kernel
theorem test_fw_resume : after (exec .firmwareResume (activating true 10 99)) (fun t => (result t 256).any (fun r => r.1 = 0 && r.2.length = 16 && r.2.head? = some 7 && r.2[8]? = some 9) && !t.cmd.starting && (t.ring 0).st = .running) = true := by decide +kernel

/-! ### Pins and start-up -/

theorem test_power_good : after (exec (.powerGood 3 1) (powered.setSide { powered.side with v54 := false, pstate := .off, pwrPin := true, resetN := false })) (fun t => t.side.v54 && t.side.pstate = .standby && t.side.slot = 3 && t.side.pwrEn && t.now = 0) = true := by decide +kernel
theorem test_power_lost : after (exec .powerLost (powered.setLedger { powered.ledger with ctr := [(0, 9)], snap := [(0, 7)] })) (fun t => t.side.pstate = .off && !t.side.v54 && t.cmd = Cmd.init && t.counter 0 = 7 && t.chip.enMask = 3) = true := by decide +kernel
/-- STANDBY or another state, after stage 1, with RESET_N released. -/
def standing (f : Side → Side) : State := (powered.setSide (f { powered.side with pstate := .standby, stageDone := 2, resetN := false, pwrEn := false, pwrPin := false })).setClk { Clk.init with counter := 100 }
theorem test_pwr_en : after (exec .pwrEnAssert (standing fun d => d)) (fun t => t.side.pstate = .starting && t.side.startAt = 100 && t.counter 2 = 1) = true ∧ after (exec .pwrEnAssert (standing fun d => { d with resetN := true })) (fun t => t.side.pwrPin && !t.side.pwrEn && t.side.pstate = .standby) = true ∧
    after (exec .pwrEnAssert (standing fun d => { d with shutting := true })) (fun t => t.side.heldOn) = true ∧ after (exec .pwrEnAssert (standing fun d => { d with pstate := .starting, halted := true, fail := 0x11, stage1Latch := true })) (fun t => !t.side.halted && t.side.stageDone = 0 && t.side.pstate = .standby) = true ∧
    after (exec .pwrEnAssert (standing fun d => { d with pstate := .tripped, thermTrip := true })) (fun t => t.side.pstate = .tripped && t.side.pwrEn) = true := by decide +kernel
theorem test_pwr_en_off : after (exec .pwrEnDeassert (standing fun d => { d with pstate := .idle, pwrPin := true, pwrEn := true, pg := true })) (fun t => t.side.shutting && !t.side.pg && t.health.noAccept) = true ∧
    after (exec .pwrEnDeassert (standing fun d => { d with pstate := .starting, pwrPin := true, pwrEn := true, halted := true })) (fun t => t.side.pstate = .standby && t.side.halted) = true ∧
    after (exec .pwrEnDeassert (standing fun d => { d with pstate := .starting, pwrPin := true, pwrEn := true })) (fun t => t.side.pstate = .standby && t.side.resetCause = 10) = true ∧
    after (exec .pwrEnDeassert (standing fun d => { d with pstate := .tripped, pwrPin := true, pwrEn := true })) (fun t => t.side.tripLow) = true ∧ after (exec .pwrEnDeassert (standing fun d => { d with pwrPin := true, pwrEn := true, shutting := true, heldOn := true })) (fun t => !t.side.heldOn) = true ∧
    after (exec .pwrEnDeassert (standing fun d => { d with pwrPin := true, resetN := true, pwrEn := true })) (fun t => t.side.pwrEn && !t.side.pwrPin) = true := by decide +kernel
theorem test_reset_n_release : after (exec .resetNRelease (standing fun d => { d with resetN := true, pwrPin := true })) (fun t => t.side.pstate = .starting && t.side.pwrEn && !t.side.resetN) = true ∧ after (exec .resetNRelease (standing fun d => { d with resetN := true })) (fun t => t.side.pstate = .standby && !t.side.resetN) = true := by decide +kernel

/-- Start-up before stage `n`, those below it complete. -/
def before (n : Nat) : State := standing fun d => { d with pstate := .starting, stageDone := BitVec.ofNat 8 (2 ^ n - 2), pwrEn := true, startAt := 7, harts := 0 }
theorem test_stage_1 : after (exec (.stageCricket true) (standing fun d => { d with stageDone := 0, pwrEn := true })) (fun t => t.side.pstate = .starting && t.side.stageDone = 2) = true ∧ after (exec (.stageCricket false) (standing fun d => { d with stageDone := 0 })) (fun t => t.side.halted && t.side.fail = 0x11 && t.attnN) = true := by decide +kernel
theorem test_stage_2 : (before 2).stageDue 1 2 = true ∧ after (exec (.stagePierFirmware false [] 0) (before 2)) (fun t => t.side.halted && t.side.fail = 0x21 && t.side.attnCause = 5 && t.startWord = 0x2821) = true ∧
    after (exec (.stagePierFirmware true [] 10) (before 2)) (fun t => t.chip.pierTrim = 10 && t.side.pstate = .recovery && t.side.attnCause = 4 && t.ledger.inc = 0) = true := by decide +kernel
theorem test_stage_3 : after (exec (.stageHbm [2]) (before 3)) (fun t => (t.stack 2).st = .retired && t.side.stageDone = 14 && t.side.retiredAny && (t.stack 0).sysUnits = 8739 && (t.stack 15).sysUnits = 8738) = true ∧
    after (exec (.stageHbm [0, 1, 2, 3, 4, 5, 6, 7]) (before 3)) (fun t => t.side.halted && t.side.fail = 0x31) = true := by decide +kernel
theorem test_stage_4 : after (exec (.stageDieLinks true) (before 4)) (fun t => t.side.stageDone = 30) = true ∧ after (exec (.stageDieLinks false) (before 4)) (fun t => t.side.fail = 0x41 && t.side.attnCause = 1) = true := by decide +kernel
/-- The same with clusters 0 and 12. -/
def before5 : State := (before 5).setChip { (before 5).chip with enMask := 0x1001, cores := [(1, { CoreHw.init 1 with fuse := 1 })] }
theorem test_stage_5 : before5.stageDue 4 5 = true ∧ ((before5.startFuse 1).coreHw 1).st = .quarantined ∧ ((before5.startFuse 1).coreHw 1).reason = 3 ∧ before5.testable 3 = true ∧
    ((before5.startCore 2 1).coreHw 2).reason = 1 ∧ ((before5.startFuse 3).coreHw 3).st ≠ .quarantined := by decide +kernel
theorem test_stage_5_other : let s := (before 5).setChip { (before 5).chip with enMask := 1, cores := [(40, { CoreHw.init 40 with fuse := 1 })] }
    s.testable 40 = false ∧ fuseBad (s.coreHw 40).fuse = true ∧ ((s.startFuse 40).coreHw 40).reason = 3 := by decide +kernel
theorem test_stage_6 : (before 6).stageDue 5 6 = true ∧ ((before 6).trainPort 35 |>.port 35).training = some 100 ∧ after (exec .stageFabric ((before 6).setNet { (before 6).net with ports := [(0, Port.init), (1, { Port.init with width := .x4, checked := true })] })) (fun t => t.side.stageDone = 126) = true := by decide +kernel
theorem test_stage_7_header : after (exec .stageOperatingSystem (before 7)) (fun t => t.side.halted && t.side.fail = 0x71 && t.side.attnCause = 4) = true ∧
    ((before 7).setMem { (before 7).mem with cells := [(flashKey 0x04510000, 1)] }).bootHeader = some (1, 0) := by decide +kernel
theorem test_stage_7_runs : after (exec .stageOperatingSystem ((before 7).setMem { (before 7).mem with cells := [(flashKey 0x04510000, 1), (flashKey 0x04510040, 0x6F)] })) (fun t => t.side.harts = 1 && t.side.hartEntry.map (·.1) = [0]) = true := by decide +kernel
theorem test_ready : after (exec (.ready 1) ((before 7).setSide { (before 7).side with harts := 1 })) (fun t => t.side.ready && t.side.pg && t.side.pstate = .idle && t.out.length = 1 && t.startWord / 4096 = 8) = true ∧ after (exec (.ready 1) ((before 6).setSide { (before 6).side with harts := 1 })) (fun t => t.side.readyHeld && !t.side.ready) = true := by decide +kernel
/-- Cricket with no address that it uses is ready without the datagram. -/
theorem test_ready_silent : (before 7).cricketAddr.isSome = true ∧ after (exec (.ready 1) ((before 7).setSide { (before 7).side with harts := 1, addrs := [((before 7).linkLocal, false)] })) (fun t => t.side.ready && t.out = [] && !t.side.datagram) = true := by decide +kernel
theorem test_hart : after (exec (.hartStart 5 0x1000) powered) (fun t => t.side.harts = 33 && t.side.hartEntry = [(5, 0x1000)]) = true := by decide +kernel
theorem test_boot_area : after (exec (.bootAreaWrite 4 [1, 2]) powered) (fun t => t.mem.read (flashKey 0x04510003) 4 = [0, 1, 2, 0]) = true := by decide +kernel

/-! ### Windows and links -/

/-- Bits 64k to 64k + 63 of an entry, for k from 0 to 3. -/
def words4 (n : Nat) : List Nat := (List.range 4).map fun k => n / 2 ^ (64 * k) % 2 ^ 64
/-- The entry of a window over berth 1 for module 5 with a low word, and of a far endpoint's. -/
def windowEntry (low : Nat) : List Nat := words4 (2 ^ (128 + 5) + 0x10001 * 2 ^ 96 + low)
theorem test_window_grant : runs domain 0x0903 5 (3 * 8 :: windowEntry (2 ^ 31)) (isWindow 0) (fun p s => windowBad false p s ++ mal 0 ((s.net.windows.get? p.window).any fun w => w.job = p.job) ++ windowEntryBad p s) (.windowGrant 0)
    (fun t => (t.net.windows.get? 3).any (fun w => w.rd && !w.wr && w.berth = 0x10001 && w.job = 0) && (result t 0).map (·.1) = some 0 && t.net.unacked.map (·.dst) = [5]) = true := by decide +kernel
theorem test_window_change : runs domain 0x0903 5 (1 :: windowEntry (2 ^ 30)) (isWindow 1) (fun p s => windowBad true p s ++ windowEntryBad p s) (.windowChange 0)
    (fun t => (t.net.windows.get? 0).any (fun w => !w.rd && w.wr)) = true := by decide +kernel
/-- The domain with a present far endpoint, with window 0 for it, and with no context free for a command. -/
def farDomain (full : Bool) : State :=
  let s := domain.setNet { domain.net with windows := [(0, { aWindow with farEp := some 7, sources := 0 })], farEps := [(7, { FarEp.ofEntry 0 0 with present := true })] }
  if full then s.setNet { s.net with farFlows := List.replicate 188416 (262143, FarFlow.opened 7 1 none 0) } else s
theorem test_far_full : (farDomain true).farFree = none := by
  have h : (farDomain true).farInUse = 188416 := by
    show (List.filter _ (List.replicate 188416 _)).length = _
    rw [List.filter_replicate_of_pos (by decide), List.length_replicate]
  rw [State.farFree, h]; rfl
/-- A Quay whose far transport holds as much as the windows of one flow take. -/
def farQuay : Quay := { domain.quay with
  pools := [(0, { backing := 0x10001, first := 0, count := Config.farWindow, held := 0, size := 0, job := 0, warn := false, armed := true, bp := false, sigEn := false, signal := 0 })],
  reqs := [(4, { Req.init with pool := some 0, max := Config.farWindow })] }
theorem test_far_take (v : State) (h : v.quay = farQuay) (step : W64) : (v.quayTake 4 Config.farWindow [] step).1.status = 0 := by
  have hr : v.req 4 = { Req.init with pool := some 0, max := Config.farWindow } := by rw [State.req, h]; rfl
  have hp : v.quay.pools.get? 0 = some { backing := 0x10001, first := 0, count := Config.farWindow, held := 0, size := 0, job := 0, warn := false, armed := true, bp := false, sigEn := false, signal := 0 } := by
    rw [h]; rfl
  have hb : v.boundTo 0 = [(4, { Req.init with pool := some 0, max := Config.farWindow })] := by rw [State.boundTo, h]; rfl
  unfold State.quayTake
  simp only [hr, Option.isSome_some, if_true, Option.bind_some, hp, Option.map_some, State.unreserved, hb]
  simp [Req.unmet, Req.init]
  split <;> rfl
/-- A grant of window 3 to the far endpoint, as the far transport's quota lets its flow open, and as the context table does not. -/
def farGranting (s : State) : State := onRing 0 0x0903 5 (3 * 8 :: words4 (2 ^ 41 + 7 * 2 ^ 42 + 2 ^ 31)) s
theorem test_window_grant_far : ∀ s ∈ [(farDomain false).setQuay farQuay, farDomain true],
    taken (farGranting s) 0 (isWindow 0) (fun p s => windowBad false p s ++ mal 0 ((s.net.windows.get? p.window).any fun w => w.job = p.job) ++ windowEntryBad p s) = true := by decide +kernel
theorem test_window_grant_far_take : (farGranting ((farDomain false).setQuay farQuay)).farFree ≠ none ∧ (farGranting ((farDomain false).setQuay farQuay)).farPresent 7 = true ∧
    ∀ v : State, v.quay = (farGranting ((farDomain false).setQuay farQuay)).quay → ∀ step, (v.quayTake 4 Config.farWindow [] step).1.status = 0 :=
  ⟨by decide +kernel, by decide +kernel, fun v h => test_far_take v h⟩
theorem test_window_revoke : runs domain 0x0903 5 [2, 0, 0, 0, 0] (isWindow 2) (fun p s => windowBad true p s ++ entryZero p ++ mal 0 ((s.net.windows.get? p.window).any fun w => w.used != 0)) (.windowRevoke 0)
    (fun t => t.net.windows = [] && t.net.unacked.map (·.dst) = [5]) = true := by decide +kernel
theorem test_window_read : runs domain 0x0903 5 [3 + 8 * 9, 0, 0, 0, 0] (isWindow 3) (fun p s => windowBad false p s ++ entryZero p) (.windowRead 0) (fun t => result t 0 = some (0, [0, 0, 0, 0])) = true ∧
    runs domain 0x0903 5 [3, 0, 0, 0, 0] (isWindow 3) (fun p s => windowBad false p s ++ entryZero p) (.windowRead 0) (fun t => result t 0 = some (0, [2 ^ 40 + 0xFC000000, 0, 32, 0])) = true := by decide +kernel
theorem test_far_endpoints : runsA domain 0x0903 5 [4 + 7 * 2 ^ 15, 1500 * 2 ^ 13 + 2 ^ 11, 0, 0, 0] (isWindow 4) addFarBad (.addFarEndpoint 256) (fun t => t.net.farEps.has 7 && !t.farPresent 7) = true ∧
    runsA (domain.setNet { domain.net with farEps := [(7, FarEp.ofEntry 0 0)] }) 0x0903 5 [5 + 7 * 2 ^ 15, 0, 0, 0, 0] (isWindow 5) (fun p s => mal 0 (!s.net.farEps.has p.farEp || s.farHolds p.farEp) ++ entryZero p) (.removeFarEndpoint 256)
      (fun t => t.net.farEps = []) = true := by decide +kernel

/-- A port that carries traffic. -/
def aPort : Port := { Port.init with width := .x4, lanes := 15, cable := .ok, checked := true, peerPort := 3, peerIndex := 5 }
/-- The direct domain with module 5 at port 2. -/
def linkedTo (x : Port) : State :=
  (domain.setNet { domain.net with plan := some { direct := true, own := 0, fps := [(0, 1), (5, 2)], ports := [(2, (2, 3, 5))] }, ports := [(2, x)] }).setClk { Clk.init with counter := 100000000 }
theorem test_cable_plan : taken (onRing 256 0x0901 1 (List.replicate 201 0) (linkedTo aPort)) 256 (isOp 0x0901) (fun _ _ => []) = true ∧
    (linkedTo aPort).inUse 2 = true ∧ ((linkedTo { aPort with shut := true }).trainPort 2 |>.port 2).training = some 100000000 ∧ ((linkedTo { aPort with shutting := true }).trainPort 2 |>.port 2).held = true := by decide +kernel
theorem test_link_status : runs (linkedTo { aPort with retries := 9 }) 0x0902 5 [4 + 2 ^ 36 + 2 ^ 38] (isOp 0x0902) (fun p _ => mal 0 (p.bit 0 37 && !p.admin)) (.linkStatus 0) (fun t => (t.port 2).retries = 0 &&
    (result t 0).map (fun r => (r.1, r.2.drop 1)) = some (0, [0, 0, 0, 0])) = true ∧ (linkedTo { aPort with retries := 9 }).portStatus 2 = 1711371157086666757 := by decide +kernel
theorem test_link_retrain : runsA (linkedTo aPort) 0x0902 5 [4 + 2 ^ 37] (isOp 0x0902) (fun p _ => mal 0 (p.bit 0 37 && !p.admin)) (.linkStatus 256) (fun t => (t.port 2).training = some 100000000) = true := by decide +kernel
theorem test_link_untrained : (linkedTo aPort).untrained 35 = true ∧ runsA (linkedTo aPort) 0x0902 5 [2 ^ 35 + 2 ^ 37] (isOp 0x0902) (fun p _ => mal 0 (p.bit 0 37 && !p.admin)) (.linkStatus 256) (fun t => (t.port 35).training = none && (t.port 35).width = .down) = true := by decide +kernel

/-- A flit of good CRC from its header's fields. -/
def aFlit (fs : List (Nat × Nat)) : Flit :=
  let f : Flit := { hdr := BitVec.ofNat 64 (enc fs), payload := List.replicate 244 0, crc := 0 }
  { f with crc := flitSum f }
/-- Data flits of a sequence number, and link-control flits that acknowledge one, with NAK or without. -/
def dataFlit (seq : Nat) : Flit := aFlit [(52, seq), (33, 1)]
def linkFlitOf (ack nak : Nat) : Flit := aFlit [(40, ack), (39, 1), (38, nak), (33, 3), (20, 2), (8, 4)]
/-- A port that has sent the flits 6 and 7. -/
def sender (fails : Nat) : State := linkedTo { aPort with replay := [dataFlit 6, dataFlit 7], fails := fails }
theorem test_flit_bad : after (exec (.flitReceive 2 { dataFlit 0 with crc := 5 }) (linkedTo aPort)) (fun t => (t.port 2).naking && (t.port 2).rxSeq = 4095 && t.out.length = 1) = true := by decide +kernel
theorem test_flit_good : after (exec (.flitReceive 2 (dataFlit 0)) (linkedTo aPort)) (fun t => !(t.port 2).naking && (t.port 2).rxSeq = 0 && t.out.length = 1) = true ∧
    after (exec (.flitReceive 2 (dataFlit 4095)) (linkedTo aPort)) (fun t => (t.port 2).rxSeq = 4095 && !(t.port 2).naking && t.out.length = 1) = true := by decide +kernel
theorem test_flit_gap : after (exec (.flitReceive 2 (dataFlit 1)) (linkedTo aPort)) (fun t => (t.port 2).naking && (t.port 2).rxSeq = 4095) = true ∧
    after (exec (.flitReceive 2 (dataFlit 1)) (linkedTo { aPort with naking := true })) (fun t => t.out = []) = true := by decide +kernel
theorem test_flit_ack : after (exec (.flitReceive 2 (linkFlitOf 6 0)) (sender 3)) (fun t => ((t.port 2).replay.map flitSeq) = [7] && (t.port 2).credits.getD 2 0 = 4 && t.out = []) = true := by decide +kernel
theorem test_flit_nak : after (exec (.flitReceive 2 (linkFlitOf 5 1)) (sender 6)) (fun t => t.out.length = 2 && (t.port 2).fails = 7 && (t.port 2).retries = 2) = true ∧
    after (exec (.flitReceive 2 (linkFlitOf 6 1)) (sender 7)) (fun t => t.out.length = 1 && (t.port 2).fails = 1) = true := by decide +kernel
theorem test_flit_eighth : after (exec (.flitReceive 2 (linkFlitOf 5 1)) (sender 7)) (fun t => t.out = [] && (t.port 2).training = some 100000000 && (t.port 2).fails = 0) = true := by decide +kernel
theorem test_flit_resend : after (exec (.flitResend 2) (sender 0)) (fun t => t.out.length = 2 && (t.port 2).retries = 2) = true := by decide +kernel
/-- A port that leads to a peer it should not carries link-control flits only. -/
theorem test_flit_unused : (linkedTo { aPort with cable := .wrongPeer }).inUse 2 = false ∧ after (exec (.flitReceive 2 (dataFlit 0)) (linkedTo { aPort with cable := .wrongPeer })) (fun t => (t.port 2).rxSeq = 4095 && t.out = []) = true ∧
    after (exec (.flitResend 2) (linkedTo { aPort with cable := .wrongPeer, replay := [dataFlit 6] })) (fun t => t.out = [] && (t.port 2).retries = 0) = true := by decide +kernel
theorem test_lane_failure : after (exec (.laneFailure 2 3) (linkedTo aPort)) (fun t => (t.port 2).lanes = 7 && (t.port 2).width = .x2 && (t.port 2).training.isSome) = true ∧
    after (exec (.laneFailure 2 2) (linkedTo { aPort with lanes := 7, failed := 8, width := .x2 })) (fun t => (t.port 2).lanes = 3 && (t.port 2).training.isNone) = true ∧
    after (exec (.laneFailure 2 0) (linkedTo { aPort with lanes := 3, failed := 12, width := .x2 })) (fun t => (t.port 2).width = .down) = true := by decide +kernel
theorem test_lane_failure_training : after (exec (.laneFailure 2 1) (linkedTo { aPort with width := .down, lanes := 0 })) (fun t => (t.port 2).failed = 0) = true ∧
    after (exec (.laneFailure 2 1) (linkedTo { aPort with width := .down, lanes := 0, training := some 9 })) (fun t => (t.port 2).failed = 2 && (t.port 2).training = some 9) = true ∧
    after (exec (.laneFailure 2 1) (linkedTo { aPort with width := .down, lanes := 0, training := some 9, failed := 12 })) (fun t => (t.port 2).failed = 14 && (t.port 2).training = none) = true := by decide +kernel
theorem test_retrained : after (exec (.portRetrained 2) (linkedTo { aPort with width := .down, training := some 5, failed := 8 })) (fun t => (t.port 2).lanes = 7 && (t.port 2).width = .x2 && t.out.length = 1) = true ∧
    after (exec (.portRetrained 2) (linkedTo { aPort with width := .down, training := some 5, failed := 14 })) (fun t => (t.port 2).width = .down && t.out = []) = true := by decide +kernel
theorem test_cabling : after (exec (.cablingExchange 2 2 3) (linkedTo aPort)) (fun t => (t.port 2).cable = .ok && (t.port 2).peerIndex = 5 && t.side.attnCause = 0) = true ∧
    after (exec (.cablingExchange 2 2 3) (linkedTo { aPort with width := .x2 })) (fun t => (t.port 2).cable = .degraded) = true ∧ after (exec (.cablingExchange 2 9 3) (linkedTo aPort)) (fun t => (t.port 2).cable = .wrongPeer && t.side.attnCause = 2) = true ∧
    after (exec (.cablingExchange 2 2 4) (linkedTo aPort)) (fun t => (t.port 2).cable = .swapped && t.ledger.waiting.length = 1) = true ∧
    after (exec (.cablingExchange 4 2 4) ((linkedTo aPort).updPort 4 fun _ => aPort)) (fun t => (t.port 4).cable = .noPeer) = true := by decide +kernel
theorem test_no_peer : after (exec (.noPeer 2) (linkedTo { aPort with training := some 5 })) (fun t => (t.port 2).cable = .noPeer && (t.port 2).width = .down) = true := by decide +kernel
theorem test_error_ratio : after (exec (.flitErrorRatio 2 1 5) (linkedTo aPort)) (fun t => (t.port 2).training.isSome && t.health.total = 1) = true := by decide +kernel
theorem test_port_shutdown : after (exec (.portShutdown 4) ((linkedTo aPort).updPort 4 fun _ => Port.init)) (fun t => (t.port 4).shutting) = true ∧ (linkedTo aPort).untrained 35 = true := by decide +kernel

/-! ### Transport -/

/-- The direct domain with module 5 at port 2, whose window covers berth 1, and a receiving flow that expects PSN 9. -/
def hub : State :=
  let s := linkedTo aPort
  s.setNet { s.net with windows := [(0, { aWindow with berth := 0x10001 })], frames := [(8192, 0)], rx := [(flowKey 5 3, { next := 9, held := [] })] }
/-- A packet of module 5's flow 3. -/
def fromFive (typ psn addr : Nat) (bs : List Byte) : TPacket :=
  { port := 2, hdr := mkHdr typ 1 0 5 0 3 (BitVec.ofNat 24 psn) bs.length (BitVec.ofNat 64 addr) 0 (crc32c bs), payload := bs }
/-- An address in berth 1's page. -/
def inPage : Nat := 8192 * 2 ^ 18 + 64
/-- The flow's next PSN and the type, PSN and reason of the last answer. -/
def answered (t : State) : Nat × Option (Nat × Nat × Nat) :=
  ((t.rxFlow (flowKey 5 3)).next.toNat, t.out.head?.bind fun o => match o with | .packet h _ => some (hType h, (hPsn h).toNat, (hAddr h).toNat) | _ => none)
theorem test_flow_crc : after (exec (.write { fromFive 1 9 inPage [1, 2] with payload := [1, 3] }) hub) (fun t => answered t = (9, some (7, 9, 1)) && t.health.total = 1) = true := by decide +kernel
theorem test_flow_again : after (exec (.write (fromFive 1 8 inPage [1, 2])) hub) (fun t => answered t = (9, some (6, 8, 0))) = true := by decide +kernel
theorem test_flow_beyond : after (exec (.write (fromFive 1 265 inPage [1, 2])) hub) (fun t => answered t = (9, some (7, 265, 5))) = true := by decide +kernel
theorem test_flow_ahead : after (exec (.write (fromFive 1 10 inPage [1, 2])) hub) (fun t => answered t = (9, some (6, 8, 0)) && (t.rxFlow (flowKey 5 3)).held.length = 1) = true := by decide +kernel
theorem test_write : after (exec (.write (fromFive 1 9 inPage [1, 2])) hub) (fun t => answered t = (10, some (6, 9, 0)) && t.mem.read (berthKey 1 64) 2 = [1, 2]) = true ∧ hub.spanOfKey (berthKey 1 64) = some (0x10001, 64) ∧
    hub.accessKey inPage 2 5 (·.wr) = .inr (berthKey 1 64) := by decide +kernel
theorem test_write_poison : after (exec (.write { fromFive 1 9 inPage [1, 2] with hdr := mkHdr 1 1 0 5 0 3 9 2 (BitVec.ofNat 64 inPage) 1 (crc32c [1, 2]) }) hub) (fun t => !t.mem.clean (berthKey 1 64) 2) = true := by decide +kernel
theorem test_write_refused : after (exec (.write (fromFive 1 9 64 [1, 2])) hub) (fun t => answered t = (10, some (6, 9, 0)) && t.out.length = 2 && t.mem.cells = []) = true ∧ hub.stashGrant 5 = none ∧ hub.accessKey 64 2 5 (·.wr) = .inl 2 := by decide +kernel
theorem test_read_request : after (exec (.readRequest { port := 2, hdr := mkHdr 2 1 0 5 0 3 9 4 (BitVec.ofNat 64 inPage) 0 (crc32c []), payload := [] }) hub) (fun t => t.net.unacked.map (fun x => (x.dst, hType x.hdr, x.payload)) = [(5, 3, [0, 0, 0, 0])]) = true := by decide +kernel
/-- A read of far endpoint 7, or of a module, that awaits its response: core 0 loads two bytes from offset 64 of berth 1. -/
def aRead (addr : Nat) : Want := { kind := .read, addr := addr, key := berthKey 1 64, len := 2, job := 0, cls := 3, core := some (0, 6), cmd := none }
/-- Core 0 with the load, beside the read. -/
def loading (s : State) (w : Want) : State := (s.setWire { s.wire with reads := [w] }).setCore 0 { aCore with loads := [⟨0, 3, none, [0, 0], 0, none, 0x10001, 64, 2, 6⟩] }
/-- What its load holds. -/
def loaded0 (t : State) : Option (List Byte × Bool) := (t.coreOf 0).loads.head?.map fun l => (l.bytes, l.fault.isSome)
theorem test_read_response : after (exec (.readResponse (fromFive 3 9 (2 ^ 62 + 5 * 2 ^ 52) [7, 8])) (loading hub (aRead (2 ^ 62 + 5 * 2 ^ 52)))) (fun t => loaded0 t = some ([7, 8], false) && t.wire.reads = [] && (answered t).1 = 10) = true ∧
    after (exec (.readResponse { fromFive 3 9 (2 ^ 62 + 5 * 2 ^ 52) [7, 8] with hdr := mkHdr 3 1 0 5 0 3 9 2 (BitVec.ofNat 64 (2 ^ 62 + 5 * 2 ^ 52)) 1 (crc32c [7, 8]) }) (loading hub (aRead (2 ^ 62 + 5 * 2 ^ 52)))) (fun t =>
      loaded0 t = some ([7, 8], true) && !t.mem.clean (berthKey 1 64) 2) = true ∧
    after (exec (.readResponse (fromFive 3 9 0 [7, 8])) (loading hub (aRead (2 ^ 62 + 5 * 2 ^ 52)))) (fun t => loaded0 t = some ([0, 0], false) && t.wire.reads.length = 1 && (answered t).1 = 10) = true := by decide +kernel
/-- A DMA of core 0, or a command, that awaits the bytes. -/
theorem test_read_response_dma : after (exec (.readResponse (fromFive 3 9 (2 ^ 62 + 5 * 2 ^ 52) [7, 8])) ((hub.setWire { hub.wire with reads := [aRead (2 ^ 62 + 5 * 2 ^ 52)] }).setCore 0 { aCore with dmas := [(4, ⟨0, 0, [0, 0], [], none, 6, 0x10001, 64, 2, true⟩)] })) (fun t =>
      ((t.coreOf 0).dmas.get? 4).map (·.bytes) = some [7, 8]) = true ∧
    after (exec (.readResponse { fromFive 3 9 (2 ^ 62 + 5 * 2 ^ 52) [7, 8] with hdr := mkHdr 3 1 0 5 0 3 9 2 (BitVec.ofNat 64 (2 ^ 62 + 5 * 2 ^ 52)) 1 (crc32c [7, 8]) })
      (let s := inProg 0 (prog 0 0x0501 1 (.stashPut 4 false) none [0]) hub; s.setWire { s.wire with reads := [{ aRead (2 ^ 62 + 5 * 2 ^ 52) with core := none, cmd := some (0, 0) }] })) (fun t => (t.outcomeAt 0 0).map (·.status) = some 0x0401) = true := by decide +kernel
theorem test_accumulate : after (exec (.accumulate (fromFive 4 9 inPage [0, 0, 0x80, 0x3F])) hub) (fun t => t.comp.addends = [⟨noCore, 0, berthKey 1 64, .fp32 0x3F800000⟩]) = true ∧
    after (exec (.accumulate (fromFive 4 9 (2 ^ 48 + 64) [0, 0, 0x80, 0x3F])) (hub.updCluster 0 fun c => { c with svc := .resetting })) (fun t => (answered t).1 = 9 && t.comp.addends = [] && t.out.length = 2) = true := by decide +kernel
theorem test_message : after (exec (.message (fromFive 5 9 0 (leBytes 8 2 ++ leBytes 8 6))) (hub.setCmd { hub.cmd with jobs := [(0, { aJob with sigBase := 100, sigWords := 8 })] })) (fun t => t.comp.signals = [(102, 6)]) = true ∧
    after (exec (.message (fromFive 5 9 0 (leBytes 8 2 ++ leBytes 8 6))) (hub.setNet { hub.net with windows := [] })) (fun t => t.comp.signals = [] && t.out.length = 2) = true ∧
    after (exec (.message (fromFive 5 9 1 [1])) hub) (fun t => answered t = (10, some (6, 9, 0))) = true := by decide +kernel
/-- A signal from a job in another slot goes to the job whose window grants signal access (R104). -/
theorem test_message_other_slot : (hub.setNet { hub.net with windows := hub.net.windows.mapVals fun _ w => { w with job := 3 } } |>.setCmd { hub.cmd with jobs := [(3, aJob)] }).signalJob 0 5 = some 3 := by decide +kernel

/-- A packet that waits for its acknowledgement, for a command or for a core. -/
def sentPkt (psn : Nat) (cmd core : Option (Nat × Nat)) : TxPkt := { dst := 5, flow := 3, psn := BitVec.ofNat 24 psn, hdr := mkHdr 1 1 5 0 0 3 (BitVec.ofNat 24 psn) 0 0 0 0, payload := [], sentAt := 0, msg := none, cmd := cmd, core := core }
/-- The hub with a collective-like command at work and packets sent. -/
def sending (l : List TxPkt) : State := let s := inProg 0 { prog 0 0x0501 1 (.stashPut 4 false) none [0] with taken := [(8, 5)] } hub; s.setNet { s.net with unacked := l }
theorem test_acknowledge : after (exec (.acknowledge (fromFive 6 4 0 [])) (sending [sentPkt 4 none none, sentPkt 5 none none])) (fun t => t.net.unacked.map (·.psn) = [5]) = true ∧
    after (exec (.acknowledge (fromFive 6 4 0 [])) (sending [sentPkt 4 (some (0, 0)) none])) (fun t => t.net.unacked = [] && t.cmd.progs.map (·.taken) = [[]]) = true := by decide +kernel
theorem test_nak_resends : after (exec (.negativeAcknowledge (fromFive 7 4 1 [])) (sending [sentPkt 4 none none])) (fun t => t.out.length = 1 && t.net.unacked.map (·.sentAt) = [100000000]) = true ∧
    after (exec (.negativeAcknowledge (fromFive 7 4 5 [])) (sending [sentPkt 3 none none, sentPkt 4 none none])) (fun t => t.out = []) = true ∧
    after (exec (.negativeAcknowledge (fromFive 7 4 5 [])) (sending [sentPkt 4 none none])) (fun t => t.out.length = 1) = true ∧
    after (exec (.negativeAcknowledge (fromFive 7 4 3 [])) (sending [sentPkt 4 (some (0, 0)) none])) (fun t => t.net.unacked.length = 1 && t.out = []) = true := by decide +kernel
theorem test_nak_ends : after (exec (.negativeAcknowledge (fromFive 7 4 3 [])) (sending [sentPkt 4 none (some (0, 6))])) (fun t => (t.coreOf 0).fault = some ⟨8, 5, false, 6, 0⟩) = true ∧
    after (exec (.negativeAcknowledge (fromFive 7 4 4 [])) (sending [sentPkt 4 (some (0, 0)) none])) (fun t => (t.outcomeAt 0 0).map (·.status) = some 0x0301) = true ∧
    after (exec (.negativeAcknowledge (fromFive 7 4 2 [])) (sending [sentPkt 4 (some (0, 0)) none])) (fun t => (t.outcomeAt 0 0).map (·.status) = some 0x0203) = true := by decide +kernel
theorem test_answer_corrupt : after (exec (.acknowledge { fromFive 6 4 0 [] with payload := [1] }) (sending [sentPkt 4 none none])) (fun t => t.net.unacked.length = 1 && t.health.total = 1) = true ∧
    after (exec (.negativeAcknowledge { fromFive 7 4 2 [] with payload := [1] }) (sending [sentPkt 4 none none])) (fun t => t.net.unacked.length = 1 && t.health.total = 1) = true := by decide +kernel
theorem test_transport_resend : after (exec (.transportResend 5 3 4) (sending [sentPkt 4 none none])) (fun t => (t.port 2).retries = 1 && t.out.length = 1 && (t.cmd.jobs.get? 0).any (fun j => j.resends = aJob.resends + 1)) = true := by decide +kernel

/-- A heartbeat of module 5 in an incarnation. -/
def beatOf (inc : BitVec 16) (good : Bool) : TPacket :=
  let m := leBytes 8 4
  { port := 2, hdr := mkHdr 8 0 0 5 inc 0 0 8 0 0 (if good then crc32c m else 0), payload := m }
/-- The hub with module 5 present, absent, or declared absent in incarnation 3. -/
def fives (x : Peer) (l : List TxPkt) : State := (hub.setNet { hub.net with peers := [(5, x)], unacked := l, mirror := [(5 * 4096 + 1, 7)], stashIn := [] }).setPlace
  { hub.place with berths := [(1, { aBerth with pages := [(0, Page.placedAt (BitVec.ofNat 46 ((2 ^ 62 + 5 * 2 ^ 52) / 2 ^ 18)))] })] }
/-- A read that is refused, and the page of berth 1, which stands at module 5. -/
theorem test_nak_page : after (exec (.negativeAcknowledge (fromFive 7 4 2 [])) (let s := fives { Peer.init with present := true } [{ sentPkt 4 none (some (0, 6)) with hdr := mkHdr 2 1 5 0 0 3 4 2 (BitVec.ofNat 64 (2 ^ 62 + 5 * 2 ^ 52)) 0 0 }]
      loading s (aRead (2 ^ 62 + 5 * 2 ^ 52)))) (fun t => (page1 t).map (·.st) = some .lost && t.wire.reads = [] && (t.coreOf 0).fault.isSome) = true := by decide +kernel
theorem test_heartbeat : after (exec (.heartbeat (beatOf 2 true)) (fives { Peer.init with dead := [3] } [])) (fun t => t.peerPresent 5 && (t.net.peers.get? 5).any (fun q => q.inc = 2 && q.mask = 4)) = true ∧
    after (exec (.heartbeat (beatOf 3 true)) (fives { Peer.init with dead := [3] } [])) (fun t => !t.peerPresent 5) = true ∧
    after (exec (.heartbeat (beatOf 2 false)) (fives { Peer.init with dead := [3] } [])) (fun t => !t.peerPresent 5 && t.health.total = 1) = true := by decide +kernel
theorem test_heartbeat_new : after (exec (.heartbeat (beatOf 2 true)) (fives { Peer.init with present := true, inc := 1 } [sentPkt 4 none none])) (fun t => t.peerPresent 5 && t.net.unacked = [] && (t.net.peers.get? 5).any (fun q => q.dead = [1]) && t.health.total = 1) = true := by decide +kernel
theorem test_heartbeat_send : after (exec .heartbeatSend hub) (fun t => t.net.hbAt = 100000000 && t.out.head?.any (fun o => match o with | .heartbeat m _ mask => m = 5 && mask = 4 | _ => false)) = true := by decide +kernel
theorem test_peer_absent : after (exec (.peerAbsent 5) (fives { Peer.init with present := true, inc := 1 } [sentPkt 4 none (some (0, 6))])) (fun t => !t.peerPresent 5 && t.net.unacked = [] && t.net.rx = [] && t.net.mirror = [] && (t.coreOf 0).fault.isSome && t.health.total = 1 && (page1 t).map (·.st) = some .lost) = true ∧
    after (exec (.peerAbsent 5) (loading (fives { Peer.init with present := true, inc := 1 } []) (aRead (2 ^ 62 + 5 * 2 ^ 52)))) (fun t => t.wire.reads = [] && (t.coreOf 0).fault.isSome) = true := by decide +kernel
/-- A grant of stash room is removed, near and far. -/
theorem test_grant_removed : after (exec (.grantMirror 5 1 0) (let s := fives { Peer.init with present := true } []; s.setNet { s.net with mirror := [(5 * 4096 + 1, 2 ^ 40 + 2 ^ 25)] })) (fun t => t.net.mirror = [] && (page1 t).map (·.st) = some .lost) = true ∧
    after (exec (.grantMirror 263 1 0) (let s := (farDomain false).setClk hub.clk; (s.setNet { s.net with mirror := [(263 * 4096 + 1, 2 ^ 40 + 2 ^ 25)] }).setPlace { s.place with berths := [(1, { aBerth with cls := 2, pages := [(0, Page.placedAt (BitVec.ofNat 46 ((2 ^ 63 + (7 * 4096 + 1) * 2 ^ 40) / 2 ^ 18)))] })] })) (fun t =>
      (page1 t).map (·.st) = some .lost) = true := by decide +kernel
theorem test_grant_mirror : after (exec (.grantMirror 5 1 (2 ^ 40)) hub) (fun t => t.net.mirror = [(20481, 2 ^ 40)]) = true ∧ after (exec (.grantMirror 5 1 0) (fives { Peer.init with present := true } [])) (fun t => t.net.mirror = []) = true ∧
    after (exec (.grantMirror 263 1 (2 ^ 40)) ((farDomain false).setClk hub.clk)) (fun t => t.net.mirror = [(263 * 4096 + 1, 2 ^ 40)]) = true := by decide +kernel
theorem test_shootdown : after (exec (.shootdown 0x10001 3) (hub.setPlace { hub.place with tcs := [(0, [(0x10001, 3), (0x10001, 4)])] })) (fun t => t.place.tcs = [(0, [(0x10001, 4)])]) = true := by decide +kernel

/-! ### Far transport -/

/-- The hub with far endpoint 7, its window 1 over berth 1, and a command's far flow at context 100000 that expects PSN 9 and has sent 3 and 4. -/
def aFar : FarEp := { FarEp.ofEntry 0 0 with fp := 77, present := true, inc := 2, lastAt := 99000000 }
/-- The far flow. -/
def aFlow : FarFlow := { FarFlow.opened 7 1 (some (0, 0)) 0 with nextRx := 9, unacked := [⟨3, 1, [], [5], none, none⟩, ⟨4, 1, [], [6], none, none⟩], nextTx := 5, rate := 8000 }
/-- The hub beside them. -/
def farHub (w : Window) (e : FarEp) (f : FarFlow) : State :=
  let s := inProg 0 (prog 0 0x0501 1 (.stashPut 4 false) none [0]) hub
  s.setNet { s.net with farEps := [(7, e)], farFlows := [(100000, f)], windows := (0, { aWindow with berth := 0x10001 }) :: [(1, w)], frames := [(8192, 1)] }
/-- A window for endpoint 7. -/
def farWin : Window := { aWindow with berth := 0x10001, farEp := some 7, sources := 0 }
/-- A packet of endpoint 7 from its fields and payload, on a flow. -/
def farOn (flow typ psn : Nat) (inc : Nat) (fs : List (Nat × Nat)) (bs : List Byte) : FarPkt :=
  let h := leBytes 60 (enc ([(0, 1), (8, typ), (16, 1), (32, flow), (64, psn), (128, 77), (192, inc), (208, 1), (52 * 8, (crc32c bs).toNat)] ++ fs))
  { src := 0, udpPort := (farHub farWin aFar aFlow).net.farPort, udpOk := true, ce := false, hdr := h ++ leBytes 4 (crc32c h).toNat, payload := bs }
/-- The same on the command's flow, in incarnation 2. -/
def farOf (typ psn : Nat) (fs : List (Nat × Nat)) (bs : List Byte) : FarPkt := farOn 100000 typ psn 2 ((34 * 8, bs.length) :: fs) bs
/-- The hub as it stands for most of these. -/
def farStd : State := farHub farWin aFar aFlow
/-- The command's flow after a step. -/
def flowAfter (t : State) : Option FarFlow := t.net.farFlows.get? 100000
theorem test_far_crc : after (exec (.farPacket { farOf 1 9 [] [1] with udpOk := false }) farStd) (fun t => t.health.total = 1 && t.out = []) = true ∧
    after (exec (.farOpen { farOn 100001 9 4 2 [] [] with udpOk := false }) farStd) (fun t => t.health.total = 1) = true ∧ after (exec (.farClose { farOf 10 9 [] [] with udpOk := false }) farStd) (fun t => t.health.total = 1) = true := by decide +kernel
theorem test_far_unknown : after (exec (.farPacket { farOf 1 9 [] [1] with src := 5 }) farStd) (fun t => t.health.total = 0 && t.out = []) = true ∧
    after (exec (.farPacket (farOf 1 9 [] [1])) (farHub farWin { aFar with fp := 78 } aFlow)) (fun t => t.out = []) = true ∧ after (exec (.farPacket (farOf 1 9 [] [1])) (farHub farWin { aFar with dead := [2] } aFlow)) (fun t => t.out = []) = true := by decide +kernel
theorem test_far_payload_crc : after (exec (.farPacket { farOf 1 9 [] [1] with payload := [2] }) farStd) (fun t => t.out = [.far 7 7 9 []] && t.health.total = 1) = true := by decide +kernel
theorem test_far_probe_in : after (exec (.farPacket (farOf 8 9 [] [])) (farHub farWin { aFar with present := false } aFlow)) (fun t => t.farPresent 7 && t.out = [.far 7 6 9 []]) = true ∧
    after (exec (.farPacket (farOf 8 9 [] [])) (farHub farWin { aFar with inc := 1 } aFlow)) (fun t => t.net.farFlows = [] && (t.net.farEps.get? 7).any (fun e => e.dead = [1] && e.inc = 2)) = true := by decide +kernel
theorem test_far_open : after (exec (.farOpen (farOn 100001 9 4 2 [] [])) farStd) (fun t => (t.net.farFlows.get? 100001).any (fun f => f.nextRx = 5 && f.ep = 7) && t.out = [.far 7 6 4 []]) = true := by decide +kernel
theorem test_far_unopened : farStd.farOpensAt 7 5 1 1 = false ∧ after (exec (.farPacket (farOn 5 1 9 2 [(34 * 8, 1)] [1])) farStd) (fun t => t.out = [] && t.net.farFlows.keyList = [100000]) = true := by decide +kernel
theorem test_far_close : after (exec (.farClose (farOf 10 9 [] [])) (farHub farWin aFar { aFlow with cmd := none })) (fun t => t.net.farFlows = []) = true := by decide +kernel
theorem test_far_ack : after (exec (.farPacket (farOf 6 3 [] [])) farStd) (fun t => (flowAfter t).map (·.unacked) = some [⟨4, 1, [], [6], none, none⟩] && t.out = []) = true ∧
    after (exec (.farPacket (farOf 6 3 [(24, 1)] [])) farStd) (fun t => (flowAfter t).map (·.rate) = some 4000) = true := by decide +kernel
theorem test_far_nak : after (exec (.farPacket (farOf 7 4 [(96, 2), (33 * 8, 1)] [])) farStd) (fun t => t.out = [.far 7 1 4 [6]]) = true ∧ after (exec (.farPacket (farOf 7 4 [(96, 2), (33 * 8, 3)] [])) farStd) (fun t => t.out = []) = true ∧
    after (exec (.farPacket (farOf 7 3 [(96, 2), (33 * 8, 5)] [])) farStd) (fun t => t.out = [.far 7 1 3 [5]]) = true ∧ after (exec (.farPacket (farOf 7 4 [(96, 2), (33 * 8, 5)] [])) farStd) (fun t => t.out = []) = true ∧
    after (exec (.farPacket (farOf 7 8 [(96, 2), (33 * 8, 2)] [])) farStd) (fun t => t.out = [] && (t.outcomeAt 0 0).isNone) = true ∧
    after (exec (.farPacket (farOf 7 4 [(96, 2), (33 * 8, 4)] [])) farStd) (fun t => (t.outcomeAt 0 0).map (·.status) = some 0x0301 && (flowAfter t).map (·.unacked.length) = some 1) = true ∧
    after (exec (.farPacket (farOf 7 4 [(96, 2), (33 * 8, 2)] [])) farStd) (fun t => (t.outcomeAt 0 0).map (·.status) = some 0x0203) = true := by decide +kernel
/-- An answer as it waits at a port whose lock lets it pass: TYPE 7 with its reason in byte 33. -/
theorem test_far_reason : (let s := (farHub farWin aFar aFlow).updEth 0 fun e => { e with lock := some ⟨5, [9], [0], 1000⟩ }
    s.farPortOf aFar = 0) ∧ (((farHub farWin aFar aFlow).farHeader 7 1 3 100000 9 8 { FarName.bare with reason := 2 } []).drop 33).head? = some 2 ∧
    ((farHub farWin aFar aFlow).farAnswer 7 100000 7 9 2 true).out = [.far 7 7 9 []] := by decide +kernel
theorem test_far_rates : (aFlow.congested 1).rate = 4000 ∧ ({ aFlow with halvedAt := some 0 }.congested 2500).rate = 4000 ∧ ({ aFlow with halvedAt := some 0 }.congested 2499).rate = 8000 := by decide +kernel
theorem test_far_again : after (exec (.farPacket (farOf 1 8 [(96, 2)] [1])) farStd) (fun t => t.out = [.far 7 6 8 []] && t.mem.cells.length = farStd.mem.cells.length) = true ∧
    after (exec (.farPacket (farOf 1 1033 [(96, 2)] [1])) farStd) (fun t => t.out = [.far 7 7 1033 []]) = true ∧ after (exec (.farPacket (farOf 1 10 [(96, 2)] [1])) farStd) (fun t => t.out = [.far 7 6 8 []] && (flowAfter t).map (·.heldRx.length) = some 1) = true := by decide +kernel
theorem test_far_write : after (exec (.farPacket (farOf 1 9 [(96, 2), (28 * 8, 128)] [1, 2])) farStd) (fun t => t.mem.read (berthKey 1 128) 2 = [1, 2] && (flowAfter t).map (·.nextRx) = some 10) = true := by decide +kernel
theorem test_far_read : after (exec (.farPacket (farOn 100000 2 9 2 [(34 * 8, 2), (96, 2), (28 * 8, 128)] [])) farStd) (fun t => t.out.contains (.far 7 3 5 [0, 0]) && (flowAfter t).map (·.nextTx) = some 6) = true := by decide +kernel
theorem test_far_response : after (exec (.farPacket (farOf 3 9 [(96, 2)] [4, 5])) (loading farStd (aRead (2 ^ 63 + 7 * 2 ^ 52)))) (fun t => loaded0 t = some ([4, 5], false) && t.wire.reads = []) = true ∧
    after (exec (.farPacket (farOf 3 9 [(96, 2)] [4])) (loading farStd (aRead (2 ^ 63 + 7 * 2 ^ 52)))) (fun t => loaded0 t = some ([0, 0], false) && t.wire.reads.length = 1) = true ∧
    after (exec (.farPacket (farOf 5 9 [(96, 2), (28 * 8, 3)] [4])) farStd) (fun t => (flowAfter t).map (·.nextRx) = some 10 && t.out = [.far 7 6 9 []]) = true ∧
    after (exec (.farPacket (farOf 5 9 [(96, 2)] [4])) (farHub { farWin with sig := false } aFar aFlow)) (fun t => t.out.contains (.far 7 7 9 [])) = true := by decide +kernel
theorem test_far_addend : after (exec (.farPacket (farOf 4 9 [(96, 2), (28 * 8, 64)] [0, 0, 0x80, 0x3F])) farStd) (fun t => t.comp.addends = [⟨noCore, 0, berthKey 1 64, .fp32 0x3F800000⟩]) = true := by decide +kernel
theorem test_far_refused : after (exec (.farPacket (farOf 1 9 [(96, 2)] [1])) (farHub { farWin with wr := false } aFar aFlow)) (fun t => t.out.contains (.far 7 7 9 []) && (flowAfter t).map (·.nextRx) = some 10) = true ∧
    after (exec (.farPacket (farOf 1 9 [(96, 2), (28 * 8, 262144)] [1])) farStd) (fun t => t.out.contains (.far 7 7 9 [])) = true ∧
    after (exec (.farPacket (farOf 1 9 [(96, 2)] [1])) (farStd.setNet { farStd.net with frames := [(8192, 0)] })) (fun t => t.out.contains (.far 7 7 9 [])) = true := by decide +kernel
theorem test_far_resend : after (exec (.farResend 100000) farStd) (fun t => t.out = [.far 7 1 4 [6], .far 7 1 3 [5]] && (flowAfter t).map (·.timeout) = some 1000) = true := by decide +kernel
theorem test_far_rate_raise : after (exec (.farRateRaise 100000) farStd) (fun t => (flowAfter t).map (·.rate) = some 9000) = true := by decide +kernel
theorem test_far_probe : after (exec (.farProbe 7) farStd) (fun t => t.out = [.far 7 8 0 []]) = true := by decide +kernel
theorem test_far_absent : after (exec (.farEndpointAbsent 7) (farHub farWin { aFar with lastAt := 0 } aFlow)) (fun t => !t.farPresent 7 && t.net.farFlows = [] && (t.outcomeAt 0 0).map (·.status) = some 0x0404) = true ∧
    after (exec (.farEndpointAbsent 7) (farHub farWin aFar { aFlow with resends := 12 })) (fun t => !t.farPresent 7) = true := by decide +kernel

/-! ### Cricket's side -/

/-- The hub with both Cricket and the operating system at work. -/
def sided (f : Side → Side) : State := (hub.setSide (f { hub.side with stageDone := 0xFE, mac := 0x020000000001 })).setNet { hub.net with eth := [(0, { EthPort.init with lock := some ⟨5, [9], [7], 1000⟩ }), (1, EthPort.init)] }
/-- The same unchanged. -/
def sideStd : State := sided id
/-- A frame of IPv6 with flow label 0. -/
def v6Frame (dst src : BitVec 48) (tag : List Byte) (hops : Nat) (from6 to6 : BitVec 128) (next : Nat) (upper : List Byte) : Frame :=
  ⟨beBytes 6 dst.toNat ++ beBytes 6 src.toNat ++ tag ++ [0x86, 0xDD, 0x60, 0, 0, 0] ++ beBytes 2 upper.length ++ beBytes 1 next ++ beBytes 1 hops ++ beBytes 16 from6.toNat ++ beBytes 16 to6.toNat ++ upper⟩
/-- A frame. -/
def aFrame (mac : BitVec 48) (port : Nat) (body : List Byte) : Frame := v6Frame mac 5 [0x81, 0, 0, 7] 64 9 9 17 (udpBytes 9 9 port port body)
/-- A neighbour solicitation for an address, from a link-local one, to a group. -/
def solicitation (target : BitVec 128) : Frame := v6Frame 0x333300000001 5 [] 255 (0xFE80000000000000#64 ++ 1#64) 9 58 (icmpBytes (0xFE80000000000000#64 ++ 1#64) 9 135 (beBytes 4 0 ++ beBytes 16 target.toNat))
theorem test_frame : after (exec (.ethernetFrame 2 (aFrame 0x020000000001 5 [1])) sideStd) (fun t => t.wire.cricketRx = [aFrame 0x020000000001 5 [1]] && t.out = []) = true ∧
    after (exec (.ethernetFrame 2 (aFrame 0x020000000001 5 [1])) (sideStd.setWire { sideStd.wire with cricketRx := List.replicate 8 ⟨zeros 8190⟩ })) (fun t => t.wire.cricketRx.length = 8) = true ∧
    after (exec (.ethernetFrame 2 (solicitation 9)) sideStd) (fun t => t.wire.cricketRx = [solicitation 9] && t.out = [.osFrame 2 (solicitation 9)]) = true ∧
    after (exec (.ethernetFrame 0 (aFrame 1 5 [1])) sideStd) (fun t => t.out = [.osFrame 0 (aFrame 1 5 [1])]) = true := by decide +kernel
/-- A frame that carries an open of a far flow, and one that carries a probe. -/
theorem test_frame_far : sideStd.farFrame 0 (aFrame 1 sideStd.net.farPort ((farOf 8 9 [] []).hdr)) = true ∧ sideStd.farReady (farOfFrame (aFrame 1 sideStd.net.farPort ((farOf 8 9 [] []).hdr))) = true ∧
    farType (farOfFrame (aFrame 1 sideStd.net.farPort ((farOf 8 9 [] []).hdr))) = 8 ∧ sideStd.farReady (farOfFrame (aFrame 1 sideStd.net.farPort [1])) = false := by decide +kernel
theorem test_lock : after (exec (.addressLockWrite 1 ⟨5, [9], [7], 1000⟩) sideStd) (fun t => (t.ethPort 1).lock = some ⟨5, [9], [7], 1000⟩) = true ∧
    after (exec (.addressLockWrite 0 ⟨6, [], [], 2000⟩) sideStd) (fun t => (t.ethPort 0).lock = some ⟨5, [9], [7], 1000⟩) = true := by decide +kernel
theorem test_transmit : after (exec (.osFrameTransmit 0 ⟨3, aFrame 1 5 [1]⟩) sideStd) (fun t => t.out = [.frame 0 (aFrame 1 5 [1])] && (t.ethPort 0).drops = 0) = true ∧ after (exec (.osFrameTransmit 1 ⟨3, aFrame 1 5 [1]⟩) sideStd) (fun t => t.out = [] && (t.ethPort 1).drops = 1) = true ∧
    after (exec (.osFrameTransmit 0 ⟨3, v6Frame 1 6 [0x81, 0, 0, 7] 64 9 9 17 []⟩) sideStd) (fun t => t.out = [] && (t.ethPort 0).drops = 1) = true ∧
    after (exec (.osFrameTransmit 0 ⟨3, aFrame 1 5 [1]⟩) (sideStd.setNet { sideStd.net with eth := [(0, { lock := some ⟨5, [9], [7], 1000⟩, drops := 0, sent := 12500, sentAt := 100000000 })] })) (fun t => t.out = [] && (t.txPort 0).os = [(3, aFrame 1 5 [1])]) = true ∧
    EthPort.init.passes (solicitation 9) = true := by decide +kernel
/-- Cricket with a global address that it uses, and one that is tentative. -/
def addressed : State := sided fun d => { d with addrs := [(4, true), (6, false)] }
theorem test_cricket : after (exec (.neighbourDiscovery addressed.linkLocal) addressed) (fun t => t.out = [.cricket addressed.linkLocal 136 [2, 0, 0, 0, 0, 1]]) = true ∧ after (exec (.icmpv6Echo 4 [8]) addressed) (fun t => t.out = [.cricket 4 129 [8]]) = true ∧
    after (exec (.statusRequest 4 48612) addressed) (fun t => t.out.length = 1) = true ∧ after (exec (.icmpv6Echo 6 [8]) addressed) (fun t => t.out = []) = true := by decide +kernel
theorem test_router : after (exec (.routerAdvertisement 3 true) addressed) (fun t => t.side.addrs.length = 3 && (t.side.addrs.getD 2 (0, true)).1 = 3#64 ++ eui64 0x020000000001 && !(t.side.addrs.getD 2 (0, true)).2) = true ∧
    after (exec (.routerAdvertisement 3 true) (sided fun d => { d with addrs := [(4, true), (6, true), (7, true), (8, true)] })) (fun t => t.side.addrs.length = 4) = true := by decide +kernel
theorem test_dad : after (exec (.duplicateAddressDetection 6 false) addressed) (fun t => t.cricketUses 6 && t.cricketUses 4) = true ∧ after (exec (.duplicateAddressDetection 6 true) addressed) (fun t => t.side.addrs = [(4, true)]) = true ∧
    after (exec (.duplicateAddressDetection addressed.linkLocal true) addressed) (fun t => !t.cricketUses addressed.linkLocal && addressed.cricketUses addressed.linkLocal) = true := by decide +kernel
theorem test_i3c : after (exec .getbcr sideStd) (fun t => t.out = [.i3c [0]]) = true ∧ after (exec .getstatus sideStd) (fun t => t.out.length = 1) = true ∧ after (exec (.setmwl 9) sideStd) (fun t => t.side.mwl = 9) = true ∧
    after (exec .getmrl (sided fun d => { d with mrl := 0x102 })) (fun t => t.out = [.i3c [1, 2]]) = true ∧ exec .getpid (sided fun d => { d with stageDone := 0 }) = .next (sided fun d => { d with stageDone := 0 }) := by
  refine ⟨?_, ?_, ?_, ?_, rfl⟩ <;> decide +kernel
theorem test_i3c_address : after (exec (.entdaa 8) sideStd) (fun t => t.side.dynAddr = some 8) = true ∧ after (exec (.setdasa 0x33 8) (sided fun d => { d with slot := 3 })) (fun t => t.side.dynAddr = some 8) = true ∧
    after (exec (.setdasa 0x34 8) (sided fun d => { d with slot := 3 })) (fun t => t.side.dynAddr = none) = true ∧ after (exec (.entdaa 8) (sided fun d => { d with dynAddr := some 5 })) (fun t => t.side.dynAddr = some 5) = true := by decide +kernel
theorem test_private : after (exec (.privateRead 2) (sided fun d => { d with ptr := 0x18, attnCause := 0x102 })) (fun t => t.side.ptr = 0x1A && t.out = [.i3c [2, 1]]) = true ∧
    after (exec (.windowPointerWrite [0x18, 0, 2, 0, 0, 0]) (sided fun d => { d with attnCause := 3 })) (fun t => t.side.ptr = 0x1C && t.side.attnCause = 1) = true ∧
    after (exec (.windowPointerWrite [0x1C, 0, 0xFF, 0, 0, 0]) sideStd) (fun t => t.side.attnMask = 0x7F) = true ∧ after (exec (.attnCause 2) (sided fun d => { d with attnCause := 3 })) (fun t => t.side.attnCause = 1) = true := by decide +kernel
/-- CONTROL's words: with the key, RECOVER or EXIT. -/
theorem test_control : after (exec (.recover 0x5A3C000000000001) (sided fun d => { d with resetN := true })) (fun t => t.side.pstate = .recovery && t.side.attnCause = 4 && t.side.attnCause.getLsbD 2) = true ∧
    after (exec (.exit 0x5A3C000000000002) (sided fun d => { d with pstate := .recovery, pwrEn := false })) (fun t => t.side.pstate = .standby && !t.side.rejected) = true ∧
    after (exec (.exit 0x5A3C000000000000) sideStd) (fun t => t.side.rejected) = true ∧ after (exec (.recover 1) sideStd) (fun t => t.side.rejected) = true ∧ (sided fun d => { d with pstate := .standby }).mayRecover = true := by decide +kernel
/-- A module in recovery mode. -/
def recovering (f : Side → Side) : State := sided fun d => f { d with pstate := .recovery, lstate := 0 }
theorem test_loader : after (exec (.loaderLen 257) (recovering id)) (fun t => t.side.lstate = 1 && t.side.llen = 257) = true ∧ after (exec (.loaderLen 256) (recovering id)) (fun t => t.side.lstate = 0) = true ∧
    after (exec (.loaderData [1, 2]) (recovering fun d => { d with lstate := 1, llen := 3, limage := [5] })) (fun t => t.side.limage = [5, 1, 2] && t.side.lstate = 2) = true ∧
    after (exec (.loaderData [1]) (recovering id)) (fun t => t.side.limage = []) = true := by decide +kernel
theorem test_image_check : after (exec .imageCheck (recovering fun d => { d with lstate := 2, limage := [5] })) (fun t => t.side.lstate = 4 && t.side.pstate = .recovery && t.ledger.perm.length = 1) = true := by decide +kernel
/-- Whether an image of the right form is valid is for its signature, a check that Config leaves open. -/
theorem test_image_valid : imageValid (leBytes 256 0) = Config.firmwareSigOk (((leBytes 256 0).take 138).drop 24) (imageMeas (leBytes 256 0)) := by
  have h : (decide (256 + imageLength (leBytes 256 0) ≤ (leBytes 256 0).length) && decide (imageLength (leBytes 256 0) ≤ 67108608) && (((leBytes 256 0).take 256).drop 138).all (· = 0)) = true := by decide +kernel
  unfold imageValid; rw [h]; rfl
theorem test_envelope : after (exec (.envelopeExcursion 4500 false) sideStd) (fun t => t.side.attnCause = 16 && !t.side.envelopeOk) = true ∧ after (exec (.envelopeExcursion 5400 true) sideStd) (fun t => t.side.attnCause = 0 && !t.side.envelopeOk) = true ∧
    after (exec (.envelopeExcursion 5400 false) sideStd) (fun t => t.side.envelopeOk) = true := by decide +kernel
theorem test_idle : after (step sideStd) (fun t => t.now = sideStd.now + 1) = true ∧ after (step (sideStd.setClk { sideStd.clk with counter := 24999999 })) (fun t => t.counter 0 = 1) = true ∧ after (step (sided fun d => { d with v54 := false })) (fun t => t.now = sideStd.now) = true := by decide +kernel

/-! ### Addends -/

/-- A record with one addend in it. -/
def oneAddend : LaEntry := { value := 5, adds := 1, full := false, lowLost := false, ninf := false, pinf := false, nan := false }
theorem test_addend_fp32 : (oneAddend.add (.fp32 0x7FC00000)).nan = true ∧ (oneAddend.add (.fp32 0x7F800000)).pinf = true ∧ (oneAddend.add (.fp32 0xFF800000)).ninf = true ∧
    oneAddend.add (.fp32 0x00000003) = { oneAddend with value := 8, adds := 2 } ∧ oneAddend.add (.fp32 0x81000001) = { oneAddend with value := 5 - 0x1000002, adds := 2 } := by decide +kernel
theorem test_addend_scaled : (oneAddend.add (.scaled 1 128)).nan = true ∧ oneAddend.add (.scaled (-3) 0) = { oneAddend with value := 5 - 3 * 2 ^ 149, adds := 2 } ∧
    (oneAddend.add (.scaled (2 ^ 130) (-2))).nan = true ∧ oneAddend.add (.scaled 3 (-149)) = { oneAddend with value := 8, adds := 2 } ∧
    oneAddend.add (.scaled (-3) (-150)) = { oneAddend with value := 4, adds := 2, lowLost := true } := by decide +kernel
theorem test_addend_full : ({ oneAddend with adds := 2 ^ 42 - 1 } : LaEntry).add (.fp32 3) = { oneAddend with adds := 2 ^ 42 - 1, full := true, nan := true } := by decide +kernel

theorem test_reset_inv : State.reset.Inv := by
  unfold State.Inv
  exact ⟨by decide +kernel, by decide +kernel, by decide +kernel, by decide +kernel, by decide +kernel, by decide +kernel⟩
/-- A flit of the command in a port's queue. -/
def waitingNet : State := (colling (aColl false)).setNet { domain.net with ports := [(2, { Port.init with queue := [⟨1, 1, true, [], some (0, 0)⟩] })] }
theorem test_net_wait : after (step (waitingNet.setSide { waitingNet.side with v54 := true })) (fun t => t.cmd.progs.map (·.netWait) = waitingNet.cmd.progs.map (·.netWait + 1) && (t.cmd.jobs.get? 0).any (fun j => j.netWait = [(1, 1)])) = true := by decide +kernel
theorem test_private_latch : after (exec (.privateRead 1) (sided fun d => { d with ptr := 9, latch := [(8, 0x1234)] })) (fun t => t.out = [.i3c [0x12]] && t.side.latch = [(8, 0x1234)]) = true ∧
    after (exec (.privateRead 1) (sided fun d => { d with ptr := 8 })) (fun t => (t.side.latch.get? 8).isSome) = true := by decide +kernel
theorem test_far_resend_job : FarFlow.job { aFlow with cmd := some (0, 0) } 100000 = some 0 ∧ FarFlow.job { aFlow with cmd := none } 40960 = some 0 := by decide +kernel
/-- A port with flits of some classes waiting, and credits. -/
def arbiter (cs : List Nat) : Port := { aPort with queue := cs.map fun c => ⟨c, 1, true, [], none⟩, credits := [(0, 9), (1, 9), (3, 9)] }
theorem test_pick : ((arbiter [1, 0]).pick 5).map (·.1) = some 0 ∧ (({ arbiter [1, 0] with sigAt := 5, sigGap := 6 } : Port).pick 5).map (·.1) = some 1 ∧ (({ arbiter [1, 0] with sigAt := 5, sigGap := 7 } : Port).pick 5).map (·.1) = some 0 ∧
    ((arbiter [2, 1]).pick 5).map (·.1) = some 1 ∧ (({ arbiter [1, 3] with turn := 3, deficit := [(3, 2)] } : Port).pick 5).map (·.1) = some 3 ∧ (({ arbiter [1, 3] with turn := 3 } : Port).pick 5).map (·.1) = some 1 := by decide +kernel
theorem test_step_front : step (State.reset.setPending [.powerLost]) = exec .powerLost State.reset := by rfl

/-! ### Well-formedness -/

/-- Each of these breaks one check of `Instr.wf`. -/
theorem test_ill_formed_1 : ([.add 408, .addi 408, .sub 408, .mul 408, .and 408, .or 408, .xor 408, .shl 408, .shr 408, .sra 408, .lih 408, .slt 408, .sltu 408, .beq 408, .bne 408, .blt 408, .bge 408, .jmp 408, .call 408, .ret 408, .getsr 408, .setsr 408, .lds 408, .sts 408, .ldv 408, .stv 408, .ldvc 408, .pld 408, .pst 408, .dma 408, .gcfg 408, .gset 408, .gadv 408, .fadd 408, .fsub 408, .fmul 408, .fma 408, .fmax 408, .fmin 408, .fabs 408, .fneg 408, .frcp 408, .fdiv 408, .fsqrt 408, .fcmp 408, .sel 408 false, .vimm 408 false, .iadd 408 false, .isub 408 false, .iand 408 false, .ior 408 false, .ixor 408 false, .ishl 408 false, .ishr 408 false, .bcast 408, .perm 408, .frsum 408, .frmax 408, .trd 408, .plog 408 false] : List Instr).all (fun c => !c.wf) = true := by decide +kernel
/-- Each of these breaks one check of `Instr.wf`. -/
theorem test_ill_formed_2 : ([.pset 408 false, .aldw 408, .amul 408, .aflush 408, .aclr 408, .linit 408, .oread 408, .ovec 408, .swait 408, .spost 408, .eset 408, .eclr 408, .ewait 408, .sgwait 408, .sgadd 408, .dwait 408, .syncFence 408, .restart 408, .endKernel 408, .waitSatisfied 408, .waitTimeout (.core 408), .loadComplete 408 ⟨0, 0, 0⟩, .dmaComplete 408 ⟨0, 0, 0⟩, .dmaComplete 0 ⟨64, 0, 0⟩, .shadowTileLoaded 408, .residueVerdict 408 0, .restartPointCommit 408, .arrayGate 408, .kernelFault 408, .translationFill 24 0 0, .translationFill 0 0 (2 ^ 31), .doorbell 257 0, .lookAheadRead 257, .commandComplete 257 0, .commandComplete 0 (2 ^ 32), .ringRestart ⟨257, 0⟩, .nop 257, .jobOpen 64 0, .jobOpen 0 4096, .jobCloseTimeout 64, .fence 257, .signal 257, .wait 257, .berthAlloc 257 0 0, .berthAlloc 0 0 24, .berthFree 257, .berthHint 257, .berthPin 257 0, .berthPin 0 24, .berthQuery 257, .berthCopy 257, .berthFill 257, .kernelLoad 257 0, .kernelLaunch 257 [], .kernelAbort 257, .routePlan 257, .dispatch 257, .combine 257, .combineGrad 257, .dispatchGrad 257] : List Instr).all (fun c => !c.wf) = true := by decide +kernel
/-- Each of these breaks one check of `Instr.wf`. -/
theorem test_ill_formed_3 : ([.expertMap 257, .scaleAgree 257, .reduce 257, .gather 257, .broadcast 257, .permute 257, .barrier 257, .stashPut 257, .stashGet 257, .prefetch 257 0, .poolCreate 257 0 0, .poolQuota 257, .unbind 257, .poolStatus 257, .energyRead 257, .healthRead 257, .restoreSpare ⟨true, 256, 0⟩, .restoreSpare ⟨true, 0, 256⟩, .patrol 257, .linkStatus 257, .windowGrant 257, .windowChange 257, .windowRevoke 257, .windowRead 257, .addFarEndpoint 257, .removeFarEndpoint 257, .digest 257, .checkValue 257, .stepRecord 257, .attest 257, .backpressureEnd 257, .backpressureWaitLimit 257, .openMarker 64 0 0 okMarker, .openMarker 0 65536 0 okMarker, .openMarker 0 0 128 okMarker, .candidateRecord 64 0 0, .candidateRecord 0 0 (2 ^ 17), .endMarker 64 0 0 0 0 false, .endMarker 0 65536 0 0 0 false, .endMarker 0 0 128 0 0 false, .verdictRecord 64 0 0 0, .verdictRecord 0 65536 0 0, .verdictRecord 0 0 128 0, .finalVerdict 64 0 0 0, .finalVerdict 0 65536 0 0, .finalVerdict 0 0 128 0, .planStageTimeout 64 0, .planStageTimeout 0 65536, .rowRecord 64 0 0 [] [], .rowRecord 0 128 0 [] [], .returnRecord 64 0 0 [] [], .returnRecord 0 128 0 [] [], .exchangeTimeout 64 0, .exchangeTimeout 0 65536, .contribution 64 0 (announce5 0) 0 [] false, .contribution 0 256 (announce5 0) 0 [] false, .contribution 0 0 (announce5 0) 65536 [] false, .deadline 64 0 false, .deadline 0 65536 false, .arrivalMask 64 0 false 0 [] []] : List Instr).all (fun c => !c.wf) = true := by decide +kernel
/-- Each of these breaks one check of `Instr.wf`. -/
theorem test_ill_formed_4 : ([.arrivalMask 0 65536 false 0 [] [], .arrivalMask 0 0 false 256 [] [], .shardSuccession 64 0 false 0, .shardSuccession 0 65536 false 0, .shardSuccession 0 0 false 256, .resultShard 64 0 false 0 [] 0 0 0, .resultShard 0 65536 false 0 [] 0 0 0, .resultShard 0 0 false 256 [] 0 0 0, .resultShardTimeout 64 0, .resultShardTimeout 0 65536, .collectiveMessage 64 0 0 0 ⟨0, 0, 0, [], []⟩, .collectiveMessage 0 65536 0 0 ⟨0, 0, 0, [], []⟩, .collectiveMessage 0 0 65536 0 ⟨0, 0, 0, [], []⟩, .collectiveMessage 0 0 0 256 ⟨0, 0, 0, [], []⟩, .collectiveTimeout 64 0 0, .collectiveTimeout 0 65536 0, .collectiveTimeout 0 0 65536, .flitReceive 36 ⟨0, zeros 244, 0⟩, .flitReceive 0 ⟨0, [], 0⟩, .flitResend 36, .laneFailure 36 0, .laneFailure 0 4, .portRetrained 36, .cablingExchange 36 0 0, .cablingExchange 0 0 256, .noPeer 36, .flitErrorRatio 36 0 0, .portShutdown 36, .write ⟨36, 0, []⟩, .write ⟨0, 0, zeros 4097⟩, .readRequest ⟨36, 0, []⟩, .readRequest ⟨0, 0, zeros 4097⟩, .readResponse ⟨36, 0, []⟩, .readResponse ⟨0, 0, zeros 4097⟩, .accumulate ⟨36, 0, []⟩, .accumulate ⟨0, 0, zeros 4097⟩, .message ⟨36, 0, []⟩, .message ⟨0, 0, zeros 4097⟩, .acknowledge ⟨36, 0, []⟩, .acknowledge ⟨0, 0, zeros 4097⟩, .negativeAcknowledge ⟨36, 0, []⟩, .negativeAcknowledge ⟨0, 0, zeros 4097⟩, .transportResend 128 0 0, .transportResend 0 (2 ^ 18) 0, .heartbeat ⟨36, 0, []⟩, .heartbeat ⟨0, 0, zeros 4097⟩, .peerAbsent 128, .grantMirror 512 0 0, .grantMirror 0 4096 0, .shootdown 0 (2 ^ 31), .farPacket ⟨0, 0, true, false, [], []⟩, .farPacket ⟨0, 0, true, false, zeros 64, zeros 8193⟩, .farOpen ⟨0, 0, true, false, [], []⟩, .farOpen ⟨0, 0, true, false, zeros 64, zeros 8193⟩, .farClose ⟨0, 0, true, false, [], []⟩, .farClose ⟨0, 0, true, false, zeros 64, zeros 8193⟩, .farResend (2 ^ 18), .farRateRaise (2 ^ 18), .farProbe 256, .farEndpointAbsent 256] : List Instr).all (fun c => !c.wf) = true := by decide +kernel
/-- Each of these breaks one check of `Instr.wf`. -/
theorem test_ill_formed_5 : ([.ethernetFrame 3 ⟨[]⟩, .ethernetFrame 0 ⟨zeros 9217⟩, .statusRequest 0 65536, .pageCopyComplete 0 0, .pageCopyComplete 32768 0, .pageCopyComplete 1 (2 ^ 31), .shootdownComplete 0 0, .shootdownComplete 32768 0, .shootdownComplete 1 (2 ^ 31), .oldFrameRelease 0 0, .oldFrameRelease 32768 0, .oldFrameRelease 1 (2 ^ 31), .tugFetchComplete 24 0 0, .stashGetTransfer 257 0, .stashGetTransfer 0 (2 ^ 32), .stashAcknowledged 257 0, .stashAcknowledged 0 (2 ^ 32), .predictorUpdate 64 0 0 1 0, .predictorUpdate 0 4096 0 1 0, .predictorUpdate 0 0 4096 1 0, .predictorUpdate 0 0 0 0 0, .hbmRefresh 16 0 0, .hbmRefresh 0 64 0, .hbmRefresh 0 0 64, .scarabRead 16 0, .sequencerMismatch ⟨408, 0⟩, .replayResume 0 408, .coreSelfTest 408 false 0 0, .thinPathSelfTest 24 false, .harbourmasterPairMismatch 8 0, .scanReadoutComplete 24 [], .drainTimeout 24, .clusterSelfTest 24 false, .fillerPreemptTimeout 408, .clusterAutoGate 24, .thinPathGate 24, .clusterWake 24 .binding, .recharacterisation 24 0 0, .recharacterisation 0 61 0, .stagePierFirmware false [] 61, .windowPointerWrite [0], .loaderData (zeros 257), .envelopeExcursion 65536 false, .addressLockWrite 3 ⟨0, [], [], 0⟩, .addressLockWrite 0 ⟨0, List.replicate 9 0, [], 0⟩, .addressLockWrite 0 ⟨0, [], List.replicate 65 0, 0⟩, .osFrameTransmit 3 ⟨0, ⟨[]⟩⟩, .osFrameTransmit 0 ⟨64, ⟨[]⟩⟩, .osFrameTransmit 0 ⟨0, ⟨zeros 9217⟩⟩, .hartStart 32 0, .stackLinkError 16 false] : List Instr).all (fun c => !c.wf) = true := by decide +kernel
/-- These break none. -/
theorem test_well_formed_1 : ([.add 0, .addi 0, .sub 0, .mul 0, .and 0, .or 0, .xor 0, .shl 0, .shr 0, .sra 0, .lih 0, .slt 0, .sltu 0, .beq 0, .bne 0, .blt 0, .bge 0, .jmp 0, .call 0, .ret 0, .getsr 0, .setsr 0, .lds 0, .sts 0, .ldv 0, .stv 0, .ldvc 0, .pld 0, .pst 0, .dma 0, .gcfg 0, .gset 0, .gadv 0, .fadd 0, .fsub 0, .fmul 0, .fma 0, .fmax 0, .fmin 0, .fabs 0, .fneg 0, .frcp 0, .fdiv 0, .fsqrt 0, .fcmp 0, .sel 0 false, .vimm 0 false, .iadd 0 false, .isub 0 false, .iand 0 false, .ior 0 false, .ixor 0 false, .ishl 0 false, .ishr 0 false, .bcast 0, .perm 0, .frsum 0, .frmax 0, .trd 0, .plog 0 false] : List Instr).all (Instr.wf) = true := by decide +kernel
/-- These break none. -/
theorem test_well_formed_2 : ([.pset 0 false, .aldw 0, .amul 0, .aflush 0, .aclr 0, .linit 0, .oread 0, .ovec 0, .swait 0, .spost 0, .eset 0, .eclr 0, .ewait 0, .sgwait 0, .sgadd 0, .dwait 0, .syncFence 0, .restart 0, .endKernel 0, .waitSatisfied 0, .waitTimeout (.core 0), .loadComplete 0 ⟨0, 0, 0⟩, .dmaComplete 0 ⟨0, 0, 0⟩, .shadowTileLoaded 0, .residueVerdict 0 0, .restartPointCommit 0, .arrayGate 0, .kernelFault 0, .translationFill 0 0 0, .doorbell 0 0, .lookAheadRead 0, .commandComplete 0 0, .ringRestart ⟨0, 0⟩, .nop 0, .jobOpen 0 0, .jobCloseTimeout 0, .fence 0, .signal 0, .wait 0, .berthAlloc 0 0 0, .berthFree 0, .berthHint 0, .berthPin 0 0, .berthQuery 0, .berthCopy 0, .berthFill 0, .kernelLoad 0 0, .kernelLaunch 0 [], .kernelAbort 0, .routePlan 0, .dispatch 0, .combine 0, .combineGrad 0, .dispatchGrad 0, .expertMap 0, .scaleAgree 0, .reduce 0, .gather 0, .broadcast 0, .permute 0] : List Instr).all (Instr.wf) = true := by decide +kernel
/-- These break none. -/
theorem test_well_formed_3 : ([.barrier 0, .stashPut 0, .stashGet 0, .prefetch 0 0, .poolCreate 0 0 0, .poolQuota 0, .unbind 0, .poolStatus 0, .energyRead 0, .healthRead 0, .restoreSpare ⟨true, 0, 0⟩, .patrol 0, .linkStatus 0, .windowGrant 0, .windowChange 0, .windowRevoke 0, .windowRead 0, .addFarEndpoint 0, .removeFarEndpoint 0, .digest 0, .checkValue 0, .stepRecord 0, .attest 0, .backpressureEnd 0, .backpressureWaitLimit 0, .openMarker 0 0 0 okMarker, .candidateRecord 0 0 0, .endMarker 0 0 0 0 0 false, .verdictRecord 0 0 0 0, .finalVerdict 0 0 0 0, .planStageTimeout 0 0, .rowRecord 0 0 0 [] [], .returnRecord 0 0 0 [] [], .exchangeTimeout 0 0, .contribution 0 0 (announce5 0) 0 [] false, .deadline 0 0 false, .arrivalMask 0 0 false 0 [] [], .shardSuccession 0 0 false 0, .resultShard 0 0 false 0 [] 0 0 0, .resultShardTimeout 0 0, .collectiveMessage 0 0 0 0 ⟨0, 0, 0, [], []⟩, .collectiveTimeout 0 0 0, .flitReceive 0 ⟨0, zeros 244, 0⟩, .flitResend 0, .laneFailure 0 0, .portRetrained 0, .cablingExchange 0 0 0, .noPeer 0, .flitErrorRatio 0 0 0, .portShutdown 0, .write ⟨0, 0, []⟩, .readRequest ⟨0, 0, []⟩, .readResponse ⟨0, 0, []⟩, .accumulate ⟨0, 0, []⟩, .message ⟨0, 0, []⟩, .acknowledge ⟨0, 0, []⟩, .negativeAcknowledge ⟨0, 0, []⟩, .transportResend 0 0 0, .heartbeat ⟨0, 0, []⟩, .peerAbsent 0] : List Instr).all (Instr.wf) = true := by decide +kernel
/-- These break none. -/
theorem test_well_formed_4 : ([.grantMirror 0 0 0, .shootdown 0 0, .farPacket ⟨0, 0, true, false, zeros 64, []⟩, .farOpen ⟨0, 0, true, false, zeros 64, []⟩, .farClose ⟨0, 0, true, false, zeros 64, []⟩, .farResend 0, .farRateRaise 0, .farProbe 0, .farEndpointAbsent 0, .ethernetFrame 0 ⟨[]⟩, .statusRequest 0 0, .pageCopyComplete 1 0, .shootdownComplete 1 0, .oldFrameRelease 1 0, .tugFetchComplete 0 0 0, .stashGetTransfer 0 0, .stashAcknowledged 0 0, .predictorUpdate 0 0 0 1 0, .hbmRefresh 0 0 0, .scarabRead 0 0, .sequencerMismatch ⟨0, 0⟩, .replayResume 0 0, .coreSelfTest 0 false 0 0, .thinPathSelfTest 0 false, .harbourmasterPairMismatch 0 0, .scanReadoutComplete 0 [], .drainTimeout 0, .clusterSelfTest 0 false, .fillerPreemptTimeout 0, .clusterAutoGate 0, .thinPathGate 0, .clusterWake 0 .binding, .recharacterisation 0 0 0, .stagePierFirmware false [] 0, .windowPointerWrite [0, 0], .loaderData [], .envelopeExcursion 0 false, .addressLockWrite 0 ⟨0, [], [], 0⟩, .osFrameTransmit 0 ⟨0, ⟨[]⟩⟩, .hartStart 0 0, .stackLinkError 0 false] : List Instr).all (Instr.wf) = true := by decide +kernel

end Sys2Proof.Tests
end

section
/-! PROOFS. Packets (R273 to R286): what acceptance makes of the rings and jobs, the header check of a ring (R283), and that every packet row
which refuses a packet sets the packet's outcome and changes nothing else. -/

namespace Sys2Proof.Machine

/-! ### The state that an outcome and a header check leave -/

/-- A change of a command in progress changes the command side alone. -/
theorem State.only_updProg {s t : State} (h : s.only [.cmd] t) (n at_ : Nat) (f : Prog → Prog) : s.only [.cmd] (t.updProg n at_ f) := by
  refine ⟨h.1, fun q hq => ?_⟩
  have hsame := h.2 q hq
  cases q with
  | cmd => simp at hq
  | _ => exact hsame

/-- Naming the command that waits for an access changes nothing but what waits to leave the module. -/
theorem State.tagWants_eq (s : State) (n : Nat) (core cmd : Option (Nat × Nat)) : s.tagWants n core cmd = s.setWire (s.tagWants n core cmd).wire := by
  unfold State.tagWants
  split <;> rfl

/-- What waits to leave the module is in no frame. -/
theorem State.only_setWire {s t : State} {ps : List Part} (h : s.only ps t) (w : Wire) : s.only ps (t.setWire w) := by
  refine ⟨h.1, fun q hq => ?_⟩
  have hsame := h.2 q hq
  cases q <;> exact hsame

/-! ### The packet that a ring holds -/

/-- The packet of a ring carries the ring's job slot. -/
theorem State.packet_job {s : State} {n : Nat} {p : Pkt} (h : s.packet n = some p) : p.job = n / 4 := by
  simp only [State.packet] at h
  split at h
  · split at h
    · cases h
    · cases h; rfl
  · cases h

/-! ### What acceptance makes of the command side -/

/-- Acceptance changes the command side alone. -/
theorem State.accept_only (s : State) (p : Pkt) : s.only [.cmd] (s.accept p) := by
  refine ⟨State.accept_pending s p, fun q hq => ?_⟩
  cases q <;> simp [State.same] at hq ⊢

@[simp] theorem State.accept_kernels (s : State) (p : Pkt) : (s.accept p).cmd.kernels = s.cmd.kernels := by
  simp only [State.accept]; split <;> split <;> rfl

/-- The packet's ring once HEAD has moved past the packet. -/
def State.ringPast (s : State) (p : Pkt) : Ring :=
  { s.ring p.ring with
    head := (s.ring p.ring).head + BitVec.ofNat 32 (phLen p.hdr), bpSince := none, ahead := (s.ring p.ring).ahead - 1,
    bells := (s.ring p.ring).bells.filter fun b =>
      (0 < (b.1 - ((s.ring p.ring).head + BitVec.ofNat 32 (phLen p.hdr))).toNat &&
        (b.1 - ((s.ring p.ring).head + BitVec.ofNat 32 (phLen p.hdr))).toNat < 2 ^ 31) }

@[simp] theorem State.ringPast_head (s : State) (p : Pkt) : (s.ringPast p).head = (s.ring p.ring).head + BitVec.ofNat 32 (phLen p.hdr) := rfl
@[simp] theorem State.ringPast_tail (s : State) (p : Pkt) : (s.ringPast p).tail = (s.ring p.ring).tail := rfl
@[simp] theorem State.ringPast_done (s : State) (p : Pkt) : (s.ringPast p).done = (s.ring p.ring).done := rfl
@[simp] theorem State.ringPast_st (s : State) (p : Pkt) : (s.ringPast p).st = (s.ring p.ring).st := rfl

theorem State.accept_rings (s : State) (p : Pkt) : (s.accept p).cmd.rings = s.cmd.rings.put p.ring (s.ringPast p) := by
  simp only [State.accept]; split <;> split <;> rfl

@[simp] theorem State.accept_ring_self (s : State) (p : Pkt) : (s.accept p).ring p.ring = s.ringPast p := by
  simp [State.ring, State.accept_rings]

/-- Acceptance leaves every other ring as it was. -/
theorem State.accept_ringsBut (s : State) (p : Pkt) : s.ringsBut [p.ring] (s.accept p) := by
  intro m hm
  simp only [List.mem_singleton] at hm
  simp [State.ring, State.accept_rings, AMap.getD_put_other _ _ _ _ _ hm]

/-- A job once its command log has gained the packet's bytes up to the reply slot (R392). -/
def Job.logged (j : Job) (p : Pkt) : Job := { j with cmdLog := j.cmdLog.upd (p.ring % 4) [] (· ++ p.bytes.take (phSlot p.hdr)) }

/-- A packet of the admin ring, or of a ring without a job, is logged nowhere. -/
theorem State.accept_jobs_unlogged {s : State} {p : Pkt} (h : (if p.admin then none else s.cmd.jobs.get? p.job) = none) :
    (s.accept p).cmd.jobs = s.cmd.jobs := by
  unfold State.accept
  by_cases hop : p.op = 0x0202 <;>
    simp only [hop, if_true, if_false, State.leaveAhead, State.setRing, State.setCmd_cmd, h]

/-- A packet of a job's ring is logged by its job. -/
theorem State.accept_jobs_logged {s : State} {p : Pkt} {j : Job} (h : (if p.admin then none else s.cmd.jobs.get? p.job) = some j) :
    (s.accept p).cmd.jobs = s.cmd.jobs.put p.job (j.logged p) := by
  unfold State.accept
  by_cases hop : p.op = 0x0202 <;>
    simp only [hop, if_true, if_false, State.leaveAhead, State.setRing, State.setCmd_cmd, h, Job.logged]

/-- Acceptance leaves every job but the ring's own as it was. -/
theorem State.accept_jobsBut (s : State) (p : Pkt) : s.jobsBut p.job (s.accept p) := by
  intro i hi
  cases h : (if p.admin then none else s.cmd.jobs.get? p.job) with
  | none => rw [State.accept_jobs_unlogged h]
  | some j => rw [State.accept_jobs_logged h, AMap.get?_put_other _ _ _ _ hi]

/-! ### The header check -/

/-- The number of R283's error in the packet at HEAD, and 0 for none. -/
def headCode (r : Ring) (h : BitVec 256) : Nat :=
  if phLen h = 0 ∨ 65536 < phLen h then 1
  else if r.bytes < r.head.toNat % r.bytes + phLen h then 2
  else if (r.tail - r.head).toNat < phLen h then 3
  else if phSlot h < 32 + phPlen h ∨ phLen h < phSlot h + phRlen h ∨ (phRlen h = 0 ∧ phOp h ≠ 0) then 4 else 0

theorem headError_eq_headCode (r : Ring) (h : BitVec 256) : headError r h = if headCode r h = 0 then none else some (headCode r h) := by
  simp only [headError, headCode, Bool.or_eq_true, Bool.and_eq_true, decide_eq_true_eq, bne_iff_ne, or_assoc]
  split_ifs <;> simp_all

/-- The header check of a running ring whose HEAD has not reached TAIL stops it on an error, and otherwise changes nothing. -/
theorem State.checkHead_of_pending {s : State} {n : Nat} (hrun : (s.ring n).st = .running) (hhead : (s.ring n).head ≠ (s.ring n).tail) :
    s.checkHead n =
      if headCode (s.ring n) (s.headerAt (s.ring n) (s.ring n).head) = 0 then s
      else s.stopRing n (headCode (s.ring n) (s.headerAt (s.ring n) (s.ring n).head)) (s.ring n).head := by
  have hready : ((s.ring n).st = .running && (s.ring n).head != (s.ring n).tail) = true := by simp [hrun, hhead]
  simp only [State.checkHead, hready, if_true, headError_eq_headCode]
  split_ifs <;> rfl

/-! ### Outcomes at acceptance -/

/-- A packet whose outcome is set as it is accepted: it is in progress with that outcome, and nothing but the command side changed. -/
theorem State.accept_conclude (s : State) (p : Pkt) (o : Outc) (h : s.prog p.ring p.at_ = none) :
    s.inProgress p ((s.accept p).conclude p.ring p.at_ o) ∧
      ((s.accept p).conclude p.ring p.at_ o).outcomeAt p.ring p.at_ = some o ∧ s.only [.cmd] ((s.accept p).conclude p.ring p.at_ o) := by
  have hprogs := State.progs_own s p (fun g => if g.outcome.isSome then g else { g with outcome := some o }) h
  exact ⟨⟨rfl, _, hprogs, rfl, rfl, rfl, rfl, rfl⟩, State.outcomeAt_of_progs h hprogs rfl rfl, State.only_updProg (State.accept_only s p) _ _ _⟩

/-- A row's command accepts the packets that the row picks and refuses them for the row's reasons, whatever its effect. -/
def PacketRow.Runs (r : PacketRow) (n : Nat) (s : State) : Prop := ∃ eff, exec (r.cmd n) s = s.command n r.sel r.bads eff

/-- A row that refuses a packet gives its command the status and DETAIL of the reason, and a launch's result words 0 (R285, R294). -/
theorem PacketRow.Runs.takes_refused {r : PacketRow} {n : Nat} {s : State} {p : Pkt} {b : Bad} (hruns : r.Runs n s)
    (h : s.refuses n p r.sel r.bads b) :
    Takes (exec (r.cmd n) s) n fun u =>
      s.inProgress p u ∧ u.outcomeAt n p.at_ = some { Outc.of b.1 b.2 with results := if p.op = 0x0202 then [0, 0] else [] } ∧ s.only [.cmd] u := by
  obtain ⟨eff, hexec⟩ := hruns
  have hring := State.packet_ring h.1
  subst hring
  have ⟨_, _, _, _, _, _, hprog⟩ := h
  exact ⟨_, hexec.trans (State.command_refuses eff h), State.accept_conclude s p _ hprog⟩

/-- A refused packet other than a launch has no results. -/
theorem PacketRow.Runs.takes_refused_of_not_launch {r : PacketRow} {n : Nat} {s : State} {p : Pkt} {b : Bad} (hruns : r.Runs n s)
    (h : s.refuses n p r.sel r.bads b) (hop : p.op ≠ 0x0202) :
    Takes (exec (r.cmd n) s) n fun u => s.inProgress p u ∧ u.outcomeAt n p.at_ = some (Outc.of b.1 b.2) ∧ s.only [.cmd] u := by
  simpa only [if_neg hop, Outc.of] using hruns.takes_refused h

/-! ### NOP -/

/-- NOP's row takes every packet of opcode 0, which nothing refuses but a rule of every opcode. -/
theorem State.takes_nopRow {s : State} {n : Nat} {p : Pkt} (h : s.takes n p (fun p => p.op = 0) (fun _ _ => [])) :
    s.takes n p (fun p => !p.hasRow) (fun p _ => mal 0 (p.op != 0)) := by
  obtain ⟨hpkt, hsel, hacc, href, hrest⟩ := h
  have hop : p.op = 0 := by simpa using hsel
  exact ⟨hpkt, by simp [Pkt.hasRow, hop], hacc, by simpa [State.refusal, mal, hop] using href, hrest⟩

/-- NOP completes as it is accepted, without results. -/
theorem nop_takes {s : State} {n : Nat} {p : Pkt} (h : s.takes n p (fun p => p.op = 0) (fun _ _ => [])) :
    Takes (exec (.nop n) s) n fun u => s.completes p [] u ∧ s.only [.cmd] u := by
  have hring := State.packet_ring h.1
  subst hring
  have ⟨_, _, _, _, _, _, _, hprog⟩ := h
  obtain ⟨hin, hout, honly⟩ := State.accept_conclude s p { status := 0, note := 0, detail := 0, results := [] } hprog
  refine ⟨_, State.command_takes (fun p s => s.done p []) (State.takes_nopRow h), ?_⟩
  rw [State.tagWants_eq]
  exact ⟨⟨hin, hout⟩, State.only_setWire honly _⟩

/-! ### Acceptance as the packet's ring and job see it -/

/-- Acceptance moves HEAD past the packet, leaves the rest of its ring and every other ring, and logs the packet with the ring's job (R278, R392). -/
theorem State.accept_of_packet {s : State} {n : Nat} {p : Pkt} (h : s.packet n = some p) :
    s.only [.cmd] (s.accept p) ∧ s.ringsBut [n] (s.accept p) ∧ (s.accept p).cmd.kernels = s.cmd.kernels ∧
    ((s.accept p).ring n).head = (s.ring n).head + BitVec.ofNat 32 (phLen p.hdr) ∧
    ((s.accept p).ring n).tail = (s.ring n).tail ∧ ((s.accept p).ring n).done = (s.ring n).done ∧ ((s.accept p).ring n).st = (s.ring n).st ∧
    s.jobsBut (n / 4) (s.accept p) ∧ (n = adminRing → (s.accept p).cmd.jobs = s.cmd.jobs) ∧
    ∀ j, n ≠ adminRing → s.cmd.jobs.get? (n / 4) = some j → (s.accept p).cmd.jobs.get? (n / 4) = some (j.logged p) := by
  have hring := State.packet_ring h
  have hjob := State.packet_job h
  subst hring
  have hadminRing : p.ring = adminRing → (s.accept p).cmd.jobs = s.cmd.jobs := fun hadmin =>
    State.accept_jobs_unlogged (by simp [Pkt.admin, hadmin])
  have hjobRing : ∀ j, p.ring ≠ adminRing → s.cmd.jobs.get? (p.ring / 4) = some j →
      (s.accept p).cmd.jobs.get? (p.ring / 4) = some (j.logged p) := by
    intro j hadmin hj
    rw [State.accept_jobs_logged (j := j) (by simp [Pkt.admin, hadmin, hjob, hj]), hjob, AMap.get?_put_self]
  exact ⟨State.accept_only s p, State.accept_ringsBut s p, State.accept_kernels s p, by simp, by simp, by simp, by simp,
    hjob ▸ State.accept_jobsBut s p, hadminRing, hjobRing⟩

/-! ### Packets -/

/-- Settles O23: acceptance by what it makes of the command side, the header check by R283's numbers, and the refusals by one lemma over the rows,
each of whose commands runs `State.command` with the row's own choice and reasons. -/
theorem packets : Obligations.Packets := by
  refine ⟨⟨fun s n p h => nop_takes h, fun s n p h => ?_, ?_⟩, fun s n p b a1 a2 l => ⟨fun r hr h => ?_, fun r hr h => ?_⟩⟩
  · have hring := State.packet_ring h
    subst hring
    exact State.accept_of_packet h
  · intro s n hrun hhead h len slot rlen plen op hh hlen hslot hrlen hplen hop e he
    have hcode : e = headCode (s.ring n) (s.headerAt (s.ring n) (s.ring n).head) := by
      rw [he, hop, hplen, hrlen, hslot, hlen, hh]; rfl
    rw [State.checkHead_of_pending hrun hhead, ← hcode]
    exact ⟨fun h0 => if_pos h0, fun h0 => if_neg h0⟩
  · -- the rows of any ring
    refine PacketRow.Runs.takes_refused ?_ h
    clear h
    revert r
    repeat refine List.forall_mem_cons.2 ⟨⟨_, rfl⟩, ?_⟩
    exact List.forall_mem_nil _
  · -- the rows of the admin ring, none of which picks a launch
    have hrow : r.Runs 256 s ∧ (r.sel p = true → p.op ≠ 0x0202) := by
      clear h
      revert r
      repeat refine List.forall_mem_cons.2 ⟨⟨⟨_, rfl⟩, by simp +contextual [isOp, isClusterState, isRepair]⟩, ?_⟩
      exact List.forall_mem_nil _
    obtain ⟨hruns, hnotLaunch⟩ := hrow
    have ⟨_, hsel, _⟩ := h
    exact hruns.takes_refused_of_not_launch h (hnotLaunch hsel)

end Sys2Proof.Machine
end

section
/-! PROOFS. Slots that issue (R91, R111): what a slot answers, and what it leaves alone when its effect changes its own core. -/

namespace Sys2Proof.Machine

/-! ### Issue -/

/-- A slot that issues has passed its turn, and its bundle raises no precise fault. -/
theorem State.issues_iff (s : State) (k sl op : Nat) : s.issues k sl op = true ↔ s.mayIssue k sl op = true ∧ s.newFault k = none := by
  simp [State.issues]

/-- A slot that issues when it is ready answers the state after its effect. -/
theorem State.slotStep_answers {s : State} {k sl op : Nat} {ready : Bool} {eff : State → State} {P : State → Prop}
    (h : s.issues k sl op = true) (hready : ready = true) (hP : P (((eff (s.begin k)).take k sl).finish k)) :
    Answers (s.slotStep k sl op ready eff) P := by
  obtain ⟨hmay, hfault⟩ := (State.issues_iff s k sl op).1 h
  exact ⟨_, State.slotStep_issues s k sl op ready eff hmay hfault hready, hP⟩

/-- The first slot of a bundle keeps the sources and ends the wait of its core. -/
theorem State.coreOf_begin (s : State) (k : Nat) :
    (s.begin k).coreOf k = { s.coreOf k with snap := some ((s.coreOf k).snap.getD (s.coreOf k).regs), waiting := none } :=
  State.coreOf_updCore_self s k _

theorem State.begin_bare (s : State) (k : Nat) : ((s.begin k).coreOf k).bare = (s.coreOf k).bare := (IssueKept.begin s k).core

/-! ### Frames -/

theorem State.same_trans {p : Part} {s t u : State} (h : s.same p t) (g : t.same p u) : s.same p u := by
  cases p <;> exact Eq.trans g h

theorem State.only_trans {ps : List Part} {s t u : State} (h : s.only ps t) (g : t.only ps u) : s.only ps u :=
  ⟨g.1.trans h.1, fun p hp => State.same_trans (h.2 p hp) (g.2 p hp)⟩

/-- What leaves more alone leaves less alone. -/
theorem State.only_mono {ps qs : List Part} {s t : State} (hsub : ps ⊆ qs) (h : s.only ps t) : s.only qs t :=
  ⟨h.1, fun p hp => h.2 p fun hmem => hp (hsub hmem)⟩

theorem State.only_setComp (s : State) (c : Comp) : s.only [.comp] (s.setComp c) := by
  refine ⟨rfl, fun p hp => ?_⟩
  cases p <;> simp [State.same] at hp ⊢

/-- Going on at a bundle leaves all alone but the core and what finding errors touches. -/
theorem IssueKept.only {k : Nat} {s t : State} (h : IssueKept k s t) : s.only [.comp, .mem, .health, .ledger, .chip, .cmd] t := by
  refine ⟨h.pending, fun p hp => ?_⟩
  cases p <;> simp [State.same] at hp ⊢
  · exact h.clk
  · exact h.side
  · exact h.place
  · exact h.quay
  · exact h.exch
  · exact h.coll
  · exact h.net
  · exact h.out
  · exact h.free

/-- Where memory holds no error, going on at a bundle leaves all alone but the core. -/
theorem IssueKept.only_of_noErrors {k : Nat} {s t : State} (h : IssueKept k s t) (hno : s.mem.errors = []) : s.only [.comp] t := by
  obtain ⟨hmem, hchip, hhealth, hledger, hcmd⟩ := h.noErrors hno
  refine ⟨h.pending, fun p hp => ?_⟩
  by_cases herr : p ∈ [Part.comp, .mem, .health, .ledger, .chip, .cmd]
  · simp only [List.mem_cons, List.not_mem_nil, or_false] at herr hp
    rcases herr with rfl | rfl | rfl | rfl | rfl | rfl
    · exact absurd rfl hp
    · exact hmem
    · exact hhealth
    · exact hledger
    · exact hchip
    · exact hcmd
  · exact h.only.2 p herr

/-! ### Work on one core -/

/-- From `s` to `t` only core `k` worked: other cores, the rest of the compute side, the bytes of memory and the components that neither finding
errors nor taking free values touches are as they were. -/
structure CoreWork (k : Nat) (s t : State) : Prop where
  other : ∀ j, j ≠ k → t.coreOf j = s.coreOf j
  comp : t.comp = { s.comp with cores := t.comp.cores }
  cells : t.mem.cells = s.mem.cells
  only : s.only [.comp, .mem, .health, .ledger, .chip, .cmd, .free] t

theorem CoreWork.trans {k : Nat} {s t u : State} (h : CoreWork k s t) (g : CoreWork k t u) : CoreWork k s u :=
  ⟨fun j hj => (g.other j hj).trans (h.other j hj), by rw [g.comp, h.comp], g.cells.trans h.cells, State.only_trans h.only g.only⟩

theorem CoreWork.ofIssue {k : Nat} {s t : State} (h : IssueKept k s t) : CoreWork k s t :=
  ⟨h.other, h.comp, h.cells, State.only_mono (by decide) h.only⟩

theorem CoreWork.ofErr {s t : State} (k : Nat) (h : ErrKept s t) : CoreWork k s t := by
  refine ⟨fun j _ => by rw [State.coreOf, h.comp, State.coreOf], by rw [h.comp], h.cells, h.pending, fun p hp => ?_⟩
  cases p <;> simp [State.same] at hp ⊢
  · exact h.clk
  · exact h.side
  · exact h.place
  · exact h.quay
  · exact h.exch
  · exact h.coll
  · exact h.net
  · exact h.out

theorem CoreWork.refl (s : State) (k : Nat) : CoreWork k s s := CoreWork.ofErr k (ErrKept.refl s)

theorem CoreWork.updCore (s : State) (k : Nat) (f : Core → Core) : CoreWork k s (s.updCore k f) :=
  ⟨fun j hj => State.coreOf_updCore_other s k j f hj, rfl, rfl, State.only_mono (by decide) (State.only_setComp s _)⟩

theorem CoreWork.setFree (s : State) (k n : Nat) : CoreWork k s (s.setFree n) := by
  refine ⟨fun _ _ => rfl, rfl, rfl, rfl, fun p hp => ?_⟩
  cases p <;> simp [State.same] at hp ⊢

theorem CoreWork.ite {k : Nat} {s t u : State} {c : Prop} [Decidable c] (h : CoreWork k s t) (g : CoreWork k s u) :
    CoreWork k s (if c then t else u) := by
  split
  · exact h
  · exact g

/-- From `s` to `t` only core `k` worked, and but for what the issue of bundles keeps it became `c`. -/
structure CoreMade (k : Nat) (s : State) (c : Core) (t : State) : Prop where
  work : CoreWork k s t
  core : (t.coreOf k).bare = c.bare

theorem CoreMade.issue {k : Nat} {s t u : State} {c : Core} (h : CoreMade k s c t) (g : IssueKept k t u) : CoreMade k s c u :=
  ⟨h.work.trans (CoreWork.ofIssue g), g.core.trans h.core⟩

theorem CoreMade.raise {k : Nat} {s t : State} {c : Core} (h : CoreMade k s c t) (f : FaultRec) : CoreMade k s c (t.raise k f) :=
  h.issue (IssueKept.raise t k f)

theorem CoreMade.setFree {k : Nat} {s t : State} {c : Core} (h : CoreMade k s c t) (n : Nat) : CoreMade k s c (t.setFree n) :=
  ⟨h.work.trans (CoreWork.setFree t k n), h.core⟩

/-- A slot whose effect was work on its own core makes its core what the effect made it. -/
theorem CoreMade.slotFreely {k : Nat} {s u : State} {c : Core} (h : CoreMade k s c u) (sl : Nat) :
    s.slotFreely k c ((u.take k sl).finish k) := by
  obtain ⟨hwork, hcore⟩ := h.issue (IssueKept.takeFinish u k sl)
  exact ⟨hcore, hwork.comp, hwork.other, fun a => by rw [hwork.cells], hwork.only⟩

/-! ### Changes of the compute side alone -/

/-- A slot whose effect changed the compute side alone, and there no other core, leaves everything else alone. -/
theorem State.slotFrame_takeFinish {s u : State} {k : Nat} (hother : ∀ j, j ≠ k → u.coreOf j = s.coreOf j) (hrest : u = s.setComp u.comp)
    (sl : Nat) : s.slotFrame k ((u.take k sl).finish k) := by
  have hend := IssueKept.takeFinish u k sl
  have hmem : u.mem = s.mem := by rw [hrest]; rfl
  have honly : s.only [.comp] u := by rw [hrest]; exact State.only_setComp s _
  refine ⟨fun j hj => (hend.other j hj).trans (hother j hj), fun a => by rw [hend.cells, hmem],
    State.only_trans (State.only_mono (by decide) honly) hend.only, fun hno => ?_⟩
  exact State.only_trans honly (hend.only_of_noErrors (by rw [hmem]; exact hno))

/-- A slot whose effect changed its own core alone makes its core what the effect made it. -/
theorem CoreMade.slotMakes {s u : State} {k : Nat} {c : Core} (h : CoreMade k s c u) (hrest : u = s.setComp u.comp) (sl : Nat) :
    s.slotMakes k c ((u.take k sl).finish k) := by
  obtain ⟨hwork, hcore⟩ := h.issue (IssueKept.takeFinish u k sl)
  exact ⟨hcore, hwork.comp, State.slotFrame_takeFinish h.work.other hrest sl⟩

/-- A change of a core's registers, taken by a slot. -/
theorem State.slotMakes_updRegs (s : State) (k sl : Nat) (f : Regs → Regs) :
    s.slotMakes k ((s.coreOf k).withRegs (f (s.coreOf k).regs)) ((((s.begin k).updRegs k f).take k sl).finish k) := by
  refine State.slotMakes_updCore s k sl (fun c => { c with regs := f c.regs }) fun c d h => ?_
  simp only [Core.bare, Core.mk.injEq] at h ⊢
  simp [h]

end Sys2Proof.Machine
end

section
/-! PROOFS. Addends (R42 to R44): what an FP32 encoding stands for, what each addend gives its record, and that addends commute. -/

namespace Sys2Proof.Machine

/-! ### FP32 encodings by their fields -/

/-- The sign of an FP32 encoding is its bit 31. -/
theorem f32_sign (v : W32) : decide ((v.toNat >>> (8 + 23)) % 2 = 1) = v.getLsbD 31 := by
  simp only [← BitVec.testBit_toNat, Nat.testBit_eq_decide_div_mod_eq, Nat.shiftRight_eq_div_pow]

/-- The value of an FP32 encoding by its sign, its exponent field and its fraction field (R29). -/
theorem f32Val_fields (v : W32) :
    f32Val v =
      if bitsOf v.toNat 30 23 = 255 then (if bitsOf v.toNat 22 0 = 0 then .inf (v.getLsbD 31) else .nan)
      else if bitsOf v.toNat 30 23 = 0 then .fin (v.getLsbD 31) (bitsOf v.toNat 22 0) (-149)
      else .fin (v.getLsbD 31) (2 ^ 23 + bitsOf v.toNat 22 0) ((bitsOf v.toNat 30 23 : Int) - 150) := by
  have hexp : (v.toNat >>> 23) % 2 ^ 8 = bitsOf v.toNat 30 23 := rfl
  have hfrac : v.toNat % 2 ^ 23 = bitsOf v.toNat 22 0 := rfl
  simp only [f32Val, FForm.value, f32_sign, hexp, hfrac, Bool.true_and, Bool.not_true, Bool.false_and, decide_eq_true_eq]
  generalize bitsOf v.toNat 30 23 = e
  by_cases h255 : e = 255
  · simp [h255]
  · by_cases h0 : e = 0
    · simp [h0]
    · have hexp : (e : Int) - 127 - 23 = e - 150 := by omega
      simp [h255, h0, hexp]

/-! ### What an addend gives -/

/-- What an addend gives its record: a change of the integer, and flags that it sets (R42 to R44). -/
structure Gain where
  value : BitVec 320
  lowLost : Bool
  ninf : Bool
  pinf : Bool
  nan : Bool

/-- A NaN sets NAN, an infinity PINF or NINF, and the integer stays (R44). -/
def Gain.special (nan neg : Bool) : Gain := ⟨0, false, !nan && neg, !nan && !neg, nan⟩

/-- The exact value ±m × 2^e in units of 2⁻¹⁴⁹, truncated toward zero; what a lossy addend has below that sets LOW_LOST (R42, R44). -/
def Gain.exact (neg : Bool) (m : Nat) (e : Int) (lossy : Bool) : Gain :=
  let k : Int := ((m * pow2 (e + 149)) / pow2 (-(e + 149)) : Nat)
  ⟨BitVec.ofInt 320 (if neg then -k else k), lossy && decide (m % pow2 (-(e + 149)) ≠ 0), false, false, false⟩

/-- What an addend gives its record. -/
def Addend.gain (a : Addend) : Gain :=
  match a with
  | .fp32 v =>
    match f32Val v with
    | .nan => Gain.special true false
    | .inf neg => Gain.special false neg
    | .fin neg m e => Gain.exact neg m e false
  | .scaled m w =>
    if m.natAbs * pow2 w ≥ 2 ^ 128 * pow2 (-w) then Gain.special true false else Gain.exact (m < 0) m.natAbs w true
  | .special nan neg => Gain.special nan neg

/-- A record with what an addend gave it, which counts in ADDS (R43). -/
def LaEntry.gains (x : LaEntry) (g : Gain) : LaEntry :=
  { value := x.value + g.value, adds := x.adds + 1, full := x.full, lowLost := x.lowLost || g.lowLost, ninf := x.ninf || g.ninf,
    pinf := x.pinf || g.pinf, nan := x.nan || g.nan }

@[simp] theorem LaEntry.gains_adds (x : LaEntry) (g : Gain) : (x.gains g).adds = x.adds + 1 := rfl

/-- What two addends give does not depend on their order. -/
theorem LaEntry.gains_comm (x : LaEntry) (g h : Gain) : (x.gains g).gains h = (x.gains h).gains g := by
  simp only [LaEntry.gains, LaEntry.mk.injEq, Bool.or_assoc, Bool.or_comm g.lowLost, Bool.or_comm g.ninf, Bool.or_comm g.pinf,
    Bool.or_comm g.nan, and_self, and_true]
  rw [BitVec.add_assoc, BitVec.add_comm g.value, BitVec.add_assoc]

theorem LaEntry.gains_nan (x : LaEntry) : x.gains (Gain.special true false) = { x with adds := x.adds + 1, nan := true } := by
  simp [LaEntry.gains, Gain.special]

theorem LaEntry.gains_inf (x : LaEntry) (neg : Bool) :
    x.gains (Gain.special false neg) =
      if neg then { x with adds := x.adds + 1, ninf := true } else { x with adds := x.adds + 1, pinf := true } := by
  cases neg <;> simp [LaEntry.gains, Gain.special]

/-- A record with room takes an addend as what the addend gives. -/
theorem LaEntry.add_of_room {x : LaEntry} (a : Addend) (h : x.adds < 2 ^ 42 - 1) : x.add a = x.gains a.gain := by
  have hroom : ¬ x.adds ≥ 2 ^ 42 - 1 := by omega
  have hexact : ∀ (neg : Bool) (m : Nat) (e : Int) (lossy : Bool), x.gains (Gain.exact neg m e lossy) =
      { x with
        adds := x.adds + 1
        value := x.value + BitVec.ofInt 320 (if neg then -(((m * pow2 (e + 149)) / pow2 (-(e + 149)) : Nat) : Int)
          else (((m * pow2 (e + 149)) / pow2 (-(e + 149)) : Nat) : Int))
        lowLost := x.lowLost || (lossy && decide (m % pow2 (-(e + 149)) ≠ 0)) } := by
    intros; simp [LaEntry.gains, Gain.exact]
  simp only [LaEntry.add, if_neg hroom]
  cases a with
  | fp32 v =>
    simp only [Addend.gain]
    cases f32Val v with
    | nan => simp [LaEntry.gains_nan]
    | inf neg => simp [LaEntry.gains_inf]
    | fin neg m e => simp [hexact]
  | scaled m w =>
    simp only [Addend.gain]
    split
    · simp [LaEntry.gains_nan]
    · simp [hexact]
  | special nan neg => cases nan <;> cases neg <;> simp [Addend.gain, LaEntry.gains, Gain.special]

/-- A full record takes no addend (R43). -/
theorem LaEntry.add_of_full {x : LaEntry} (a : Addend) (h : 2 ^ 42 - 1 ≤ x.adds) : x.add a = { x with full := true, nan := true } := by
  simp only [LaEntry.add, ge_iff_le, if_pos h]

/-! ### The exact value of an addend in units of 2⁻¹⁴⁹ -/

theorem pow2_of_nonpos {e : Int} (h : e ≤ 0) : pow2 e = 1 := by simp [pow2, Int.toNat_of_nonpos h]

/-- A value of whole units of 2⁻¹⁴⁹ enters exactly. -/
theorem LaEntry.gains_whole (x : LaEntry) (neg : Bool) (m n : Nat) (e : Int) (lossy : Bool) (h : e + 149 = n) :
    x.gains (Gain.exact neg m e lossy) =
      { x with adds := x.adds + 1, value := x.value + BitVec.ofInt 320 (if neg then -((m * 2 ^ n : Nat) : Int) else (m * 2 ^ n : Nat)) } := by
  have hlow : pow2 (-(n : Int)) = 1 := pow2_of_nonpos (by omega)
  have hhigh : pow2 (n : Int) = 2 ^ n := rfl
  simp only [LaEntry.gains, Gain.exact, h, hlow, hhigh, Nat.div_one, Nat.mod_one, Bool.or_false, ne_eq, not_true_eq_false, decide_false,
    Bool.and_false]

/-- Of a value with a part below 2⁻¹⁴⁹ that part is cut off, toward zero, and marked. -/
theorem LaEntry.gains_truncated (x : LaEntry) (neg : Bool) (m n : Nat) (e : Int) (h : e + 149 = -n) :
    x.gains (Gain.exact neg m e true) =
      { x with
        adds := x.adds + 1
        value := x.value + BitVec.ofInt 320 (if neg then -((m / 2 ^ n : Nat) : Int) else (m / 2 ^ n : Nat))
        lowLost := x.lowLost || decide (m % 2 ^ n ≠ 0) } := by
  have hhigh : pow2 (-(n : Int)) = 1 := pow2_of_nonpos (by omega)
  have hlow : pow2 (n : Int) = 2 ^ n := rfl
  simp only [LaEntry.gains, Gain.exact, h, neg_neg, hlow, hhigh, Nat.mul_one, Bool.or_false, Bool.true_and]

/-- A number by its sign and its magnitude. -/
theorem int_of_sign (m : Int) : (if decide (m < 0) = true then -(m.natAbs : Int) else m.natAbs) = m := by
  simp only [decide_eq_true_eq]
  split <;> omega

/-- A scaled magnitude with its sign is the scaled number. -/
theorem int_mul_of_sign (m : Int) (d : Nat) :
    (if decide (m < 0) = true then -((m.natAbs * d : Nat) : Int) else (m.natAbs * d : Nat)) = m * d := by
  conv_rhs => rw [← int_of_sign m]
  split <;> push_cast <;> ring

/-- A truncated magnitude with its sign is the quotient toward zero. -/
theorem int_tdiv_of_sign (m : Int) (d : Nat) :
    (if decide (m < 0) = true then -((m.natAbs / d : Nat) : Int) else (m.natAbs / d : Nat)) = m.tdiv d := by
  conv_rhs => rw [← int_of_sign m]
  split
  · rw [Int.neg_tdiv, Int.ofNat_tdiv]
  · rw [Int.ofNat_tdiv]

/-! ### The addends of R44 -/

/-- An FP32 addend: NaN and the infinities by their flags, a finite value exactly. -/
theorem LaEntry.add_fp32 (x : LaEntry) (v : W32) (hroom : x.adds < 2 ^ 42 - 1) :
    (bitsOf v.toNat 30 23 = 255 → bitsOf v.toNat 22 0 ≠ 0 → x.add (.fp32 v) = { x with adds := x.adds + 1, nan := true }) ∧
    (bitsOf v.toNat 30 23 = 255 → bitsOf v.toNat 22 0 = 0 → x.add (.fp32 v) =
      if v.getLsbD 31 = true then { x with adds := x.adds + 1, ninf := true } else { x with adds := x.adds + 1, pinf := true }) ∧
    (bitsOf v.toNat 30 23 < 255 → x.add (.fp32 v) =
      x.gains (Gain.exact (v.getLsbD 31) (if bitsOf v.toNat 30 23 = 0 then bitsOf v.toNat 22 0 else 2 ^ 23 + bitsOf v.toNat 22 0)
        ((bitsOf v.toNat 30 23 - 1 : Nat) - 149) false)) := by
  rw [LaEntry.add_of_room _ hroom]
  simp only [Addend.gain, f32Val_fields]
  generalize bitsOf v.toNat 30 23 = e
  generalize bitsOf v.toNat 22 0 = f
  refine ⟨fun he hf => ?_, fun he hf => ?_, fun he => ?_⟩
  · simp only [he, hf, if_true, if_false, LaEntry.gains_nan]
  · simp only [he, hf, if_true, LaEntry.gains_inf]
  · have hexp : e ≠ 255 := by omega
    by_cases h0 : e = 0
    · simp only [h0, if_true]; rfl
    · have hcast : ((e - 1 : Nat) : Int) - 149 = (e : Int) - 150 := by omega
      simp only [hexp, h0, if_false, hcast]

/-- A scaled integer m × 2^w: of 2¹²⁸ or more it sets NAN, and below that it enters as what it gives. -/
theorem LaEntry.add_scaled (x : LaEntry) (m w : Int) (hroom : x.adds < 2 ^ 42 - 1) :
    x.add (.scaled m w) =
      if 2 ^ 128 * pow2 (-w) ≤ m.natAbs * pow2 w then { x with adds := x.adds + 1, nan := true }
      else x.gains (Gain.exact (m < 0) m.natAbs w true) := by
  rw [LaEntry.add_of_room _ hroom, Addend.gain]
  simp only [ge_iff_le]
  split
  · rw [LaEntry.gains_nan]
  · rfl

/-- A scaled integer of weight 2ⁿ: whole units, so that nothing is cut off. -/
theorem LaEntry.add_scaled_up (x : LaEntry) (m : Int) (n : Nat) (hroom : x.adds < 2 ^ 42 - 1) :
    x.add (.scaled m n) =
      if 2 ^ 128 ≤ m.natAbs * 2 ^ n then { x with adds := x.adds + 1, nan := true }
      else { x with adds := x.adds + 1, value := x.value + BitVec.ofInt 320 (m * 2 ^ (n + 149)) } := by
  have hlow : pow2 (-(n : Int)) = 1 := pow2_of_nonpos (by omega)
  have hhigh : pow2 (n : Int) = 2 ^ n := rfl
  rw [LaEntry.add_scaled x m n hroom, hlow, hhigh, Nat.mul_one, LaEntry.gains_whole _ _ _ (n + 149) _ _ (by omega), int_mul_of_sign]
  push_cast; rfl

/-- A scaled integer of weight 2⁻ⁿ: whole units down to n = 149, and truncated below. -/
theorem LaEntry.add_scaled_down (x : LaEntry) (m : Int) (n : Nat) (hroom : x.adds < 2 ^ 42 - 1) :
    x.add (.scaled m (-n)) =
      if 2 ^ 128 * 2 ^ n ≤ m.natAbs then { x with adds := x.adds + 1, nan := true }
      else if n ≤ 149 then { x with adds := x.adds + 1, value := x.value + BitVec.ofInt 320 (m * 2 ^ (149 - n)) }
      else
        { x with
          adds := x.adds + 1
          value := x.value + BitVec.ofInt 320 (m.tdiv (2 ^ (n - 149)))
          lowLost := x.lowLost || decide (m.natAbs % 2 ^ (n - 149) ≠ 0) } := by
  have hhigh : pow2 (-(n : Int)) = 1 := pow2_of_nonpos (by omega)
  have hlow : pow2 (n : Int) = 2 ^ n := rfl
  rw [LaEntry.add_scaled x m (-n) hroom, neg_neg, hlow, hhigh, Nat.mul_one]
  congr 1
  split
  · rw [LaEntry.gains_whole _ _ _ (149 - n) _ _ (by omega), int_mul_of_sign]
    push_cast; rfl
  · rw [LaEntry.gains_truncated _ _ _ (n - 149) _ (by omega), int_tdiv_of_sign]
    push_cast; rfl

/-- Settles O17: each addend is what it gives its record (`Addend.gain`), read off for FP32 values and scaled integers, and what two addends give
commutes. -/
theorem addendEffects : Obligations.AddendEffects := by
  refine ⟨fun x v e f he hf hroom => ?_, fun x m w n hroom hn => ?_, fun x a hfull => LaEntry.add_of_full a hfull, fun x a b hroom => ?_⟩
  · subst he hf
    obtain ⟨hnan, hinf, hfin⟩ := x.add_fp32 v hroom
    refine ⟨hnan, fun h1 h2 h3 => ?_, fun h1 h2 h3 => ?_, fun m hlt hm => ?_⟩
    · rw [hinf h1 h2, h3]; rfl
    · rw [hinf h1 h2, h3]; rfl
    · rw [hfin hlt, LaEntry.gains_whole _ _ _ (bitsOf v.toNat 30 23 - 1) _ _ (by omega), hm]
      by_cases h0 : bitsOf v.toNat 30 23 = 0
      · simp [h0]
      · simp only [h0, if_false]
  · obtain ⟨i, rfl | rfl⟩ := w.eq_nat_or_neg
    · obtain rfl : n = i := by omega
      have hsign : ¬ (n : Int) < 0 := by omega
      rw [LaEntry.add_scaled_up x m n hroom]
      exact ⟨fun _ h => if_pos h, fun _ h => if_neg (by omega), fun h => absurd h hsign, fun h => absurd h hsign, fun h => absurd h hsign⟩
    · obtain rfl : n = i := by omega
      rw [LaEntry.add_scaled_down x m n hroom]
      refine ⟨fun h hbig => ?_, fun h hsmall => ?_, fun _ h => if_pos h, fun _ h149 h => ?_, fun _ h149 h => ?_⟩
      · obtain rfl : n = 0 := by omega
        exact if_pos (by omega)
      · obtain rfl : n = 0 := by omega
        exact if_neg (by omega)
      · rw [if_neg (by omega), if_pos h149]
      · rw [if_neg (by omega), if_neg (by omega)]
  · have hx : x.adds < 2 ^ 42 - 1 := by omega
    have hnext : ∀ g : Gain, (x.gains g).adds < 2 ^ 42 - 1 := fun g => by rw [LaEntry.gains_adds]; omega
    rw [LaEntry.add_of_room a hx, LaEntry.add_of_room b hx, LaEntry.add_of_room b (hnext _), LaEntry.add_of_room a (hnext _),
      LaEntry.gains_comm]

end Sys2Proof.Machine
end

section
/-! PROOFS. Lanes of the vector slots (R33, R95): a vector's lanes, the rows of lane operations, and NaN operands. -/

namespace Sys2Proof.Machine

/-! ### Lanes of a vector -/

theorem packLanes_lt (ls : List W32) : packLanes ls < 2 ^ (32 * ls.length) := by
  induction ls with
  | nil => simp [packLanes]
  | cons x t ih =>
    have hx : x.toNat < 2 ^ 32 := x.isLt
    rw [packLanes, List.length_cons, Nat.mul_succ, Nat.add_comm (32 * t.length), Nat.pow_add]
    omega

/-- Digit i of packed lanes is lane i. -/
theorem packLanes_digit (ls : List W32) (i : Nat) : packLanes ls / 2 ^ (32 * i) % 2 ^ 32 = (ls.getD i 0).toNat := by
  induction ls generalizing i with
  | nil => simp [packLanes]
  | cons x t ih =>
    have hx : x.toNat < 2 ^ 32 := x.isLt
    cases i with
    | zero => simp only [packLanes, Nat.mul_zero, Nat.pow_zero, Nat.div_one, List.getD_cons_zero]; omega
    | succ i =>
      have hdrop : (x.toNat + 2 ^ 32 * packLanes t) / 2 ^ 32 = packLanes t := by omega
      rw [packLanes, Nat.mul_succ, Nat.add_comm (32 * i), Nat.pow_add, ← Nat.div_div_eq_div_mul, hdrop, ih, List.getD_cons_succ]

theorem toNat_ofNat_of_lt {w n : Nat} (h : n < 2 ^ w) : (BitVec.ofNat w n).toNat = n := by rw [BitVec.toNat_ofNat, Nat.mod_eq_of_lt h]

@[simp] theorem lane_ofLanes (f : Nat → W32) {i : Nat} (h : i < 128) : lane (ofLanes f) i = f i := by
  have hbits : 32 * ((List.range 128).map f).length = 4096 := by rw [List.length_map, List.length_range]
  have hlen : packLanes ((List.range 128).map f) < 2 ^ 4096 := hbits ▸ packLanes_lt _
  have hget : ((List.range 128).map f).getD i 0 = f i := by simp [List.getD, h]
  have hnum : (ofLanes f).toNat = packLanes ((List.range 128).map f) := toNat_ofNat_of_lt hlen
  apply BitVec.eq_of_toNat_eq
  rw [lane, BitVec.extractLsb'_toNat, hnum, Nat.shiftRight_eq_div_pow, packLanes_digit, hget]

/-- Merged lanes: the new value where the predicate bit is set, the old one elsewhere. -/
theorem lane_mergeLanes (p : BitVec 128) (old : BitVec 4096) (f : Nat → W32) {i : Nat} (h : i < 128) :
    lane (mergeLanes p old f) i = if p.getLsbD i then f i else lane old i := lane_ofLanes _ h

/-! ### NaN operands (R33, R95) -/

theorem Val.isNan_iff (v : Val) : v.isNan = true ↔ v = .nan := by cases v <;> simp [Val.isNan]

@[simp] theorem Val.add_nan (v : Val) : v.add .nan = .nan := by cases v <;> rfl
@[simp] theorem Val.nan_add (v : Val) : Val.nan.add v = .nan := rfl
@[simp] theorem Val.mul_nan (v : Val) : v.mul .nan = .nan := by cases v <;> rfl
@[simp] theorem Val.nan_mul (v : Val) : Val.nan.mul v = .nan := rfl
@[simp] theorem Val.neg_nan : Val.nan.neg = .nan := rfl
@[simp] theorem Val.isNan_nan : Val.nan.isNan = true := rfl

/-- NaN rounds to the canonical NaN. -/
@[simp] theorem toF32_nan : toF32 .nan = nan32 := by decide

/-- A NaN divisor or dividend gives the canonical NaN. -/
theorem f32Div_nan {a b : W32} (h : f32Val a = .nan ∨ f32Val b = .nan) : f32Div a b = nan32 := by
  unfold f32Div
  rcases h with h | h
  · rw [h]
  · cases ha : f32Val a <;> rw [h]

/-- FMAX and FMIN of a NaN give the canonical NaN. -/
theorem f32Pick_nan {larger : Bool} {a b : W32} (h : f32Val a = .nan ∨ f32Val b = .nan) : f32Pick larger a b = nan32 := by
  rcases h with h | h <;> simp [f32Pick, h]

/-! ### Lane operations -/

/-- A row's command is a lane operation of the row's slot and opcode, with the row's result in each lane. -/
def LaneRow.Runs (r : LaneRow) : Prop := ∀ k s, exec (r.cmd k) s = s.vecOp k r.slot r.op r.f

/-- What a row writes to vd: its results where the predicate bit is set. -/
def LaneRow.result (r : LaneRow) (s : State) (k : Nat) (x : Regs) : BitVec 4096 :=
  mergeLanes ((s.src k).pr (fld (s.bits k r.slot) 43 40)) (x.vr (fld (s.bits k r.slot) 63 59)) (r.f (s.src k) (s.bits k r.slot))

/-- What a lane operation makes of its core when it issues: the lanes of vd whose predicate bit is set. -/
theorem LaneRow.Runs.answers {r : LaneRow} (hruns : r.Runs) {s : State} {k : Nat} (h : s.issues k r.slot r.op = true) :
    Answers (exec (r.cmd k) s) fun t => ∃ v : BitVec 4096,
      s.slotMakes k ((s.coreOf k).withRegs ((s.coreOf k).regs.setV (fld (s.bits k r.slot) 63 59) v)) t ∧
      ∀ i < 128, lane v i = if ((s.src k).pr (fld (s.bits k r.slot) 43 40)).getLsbD i then r.f (s.src k) (s.bits k r.slot) i
        else lane ((s.coreOf k).regs.vr (fld (s.bits k r.slot) 63 59)) i := by
  rw [hruns k s, State.vecOp]
  refine State.slotStep_answers h rfl ?_
  exact ⟨r.result s k (s.coreOf k).regs,
    State.slotMakes_updRegs s k r.slot fun x => x.setV (fld (s.bits k r.slot) 63 59) (r.result s k x), fun i hi => lane_mergeLanes _ _ _ hi⟩

/-- Settles O11: every row is a lane operation (`LaneRow.Runs`), and a NaN passes through the exact operations to the rounding. -/
theorem laneResults : Obligations.LaneResults := by
  refine ⟨fun s k r hr h => LaneRow.Runs.answers ?_ h, fun a b c h => ?_⟩
  · clear h
    revert r
    repeat refine List.forall_mem_cons.2 ⟨fun _ _ => rfl, ?_⟩
    exact List.forall_mem_nil _
  · rw [Val.isNan_iff] at h
    simp [f32Add, f32Sub, f32Mul, f32Fma, f32Sqrt, f32Rcp, f32Div_nan, f32Pick_nan, h]

end Sys2Proof.Machine
end

section
/-! PROOFS. Array passes (R35 to R39, R65, R96, R97, R100): one row through a dense tile, and what an AMUL makes of its core. -/

namespace Sys2Proof.Machine

/-! ### One row through a dense tile in its first slab -/

/-- One column of a dense pass in slab 0: a column of the mask becomes its slab sum. -/
def passColumn (mode : OvMode) (w : WTile) (x : Array Val) (prow pcol : BitVec 128) (row : Nat) (tile : Tile) (c : Nat) : Tile :=
  if pcol.getLsbD c then
    { tile with
      e := tile.e.put (128 * row + c) (slabSum mode (slabProducts w w.bytes.toArray x prow 0 c)).bits
      status := tile.status ||| BitVec.ofNat 32 (tileStatus mode 1 (slabSum mode (slabProducts w w.bytes.toArray x prow 0 c))) }
  else tile

theorem passRow_dense (mode : OvMode) {w : WTile} (x : Array Val) (prow pcol : BitVec 128) (row : Nat) (tile : Tile) (hw : w.sparse = false) :
    passRow mode w w.bytes.toArray x prow pcol 0 row tile = (List.range 128).foldl (passColumn mode w x prow pcol row) tile := by
  simp only [passRow, addSlab, hw, Bool.false_eq_true, if_false, decide_true, if_true]
  rfl

/-- After some columns of a dense pass, the masked ones of them are their slab sums, and every other entry stays. -/
theorem passColumns_entry (mode : OvMode) (w : WTile) (x : Array Val) (prow pcol : BitVec 128) (row : Nat) (cs : List Nat) (tile : Tile) (i : Nat)
    (hcs : ∀ c ∈ cs, c < 128) :
    (cs.foldl (passColumn mode w x prow pcol row) tile).e.getD i 0 =
      if i / 128 = row ∧ i % 128 ∈ cs ∧ pcol.getLsbD (i % 128) = true
        then (slabSum mode (slabProducts w w.bytes.toArray x prow 0 (i % 128))).bits else tile.e.getD i 0 := by
  induction cs generalizing tile with
  | nil => simp
  | cons c cs ih =>
    have hc : c < 128 := hcs c List.mem_cons_self
    rw [List.foldl_cons, ih _ fun d hd => hcs d (List.mem_cons_of_mem c hd)]
    by_cases hlater : i / 128 = row ∧ i % 128 ∈ cs ∧ pcol.getLsbD (i % 128) = true
    · obtain ⟨hrow, hmem, hbit⟩ := hlater
      simp [hrow, hmem, hbit]
    · rw [if_neg hlater]
      by_cases hkey : i = 128 * row + c
      · have hdiv : i / 128 = row := by omega
        have hmod : i % 128 = c := by omega
        by_cases hbit : pcol.getLsbD c = true
        · rw [hdiv, hmod, passColumn, if_pos hbit, hkey, AMap.getD_put_self, if_pos ⟨rfl, List.mem_cons_self, hbit⟩]
        · rw [hmod, passColumn, if_neg hbit, if_neg fun h => hbit h.2.2]
      · have hentry : (passColumn mode w x prow pcol row tile c).e.getD i 0 = tile.e.getD i 0 := by
          unfold passColumn
          split
          · exact AMap.getD_put_other _ _ _ _ _ hkey
          · rfl
        rw [hentry, if_neg]
        rintro ⟨hrow, hmem, hbit⟩
        rcases List.mem_cons.1 hmem with hmod | hmem
        · omega
        · exact hlater ⟨hrow, hmem, hbit⟩

/-! ### What an AMUL reads -/

theorem Mem.read_congr {m n : Mem} (h : m.cells = n.cells) (key len : Nat) : m.read key len = n.read key len := by
  simp only [Mem.read, h]

/-- The input rows are the bytes of memory. -/
theorem State.amulRows_congr {s t : State} (h : t.mem.cells = s.mem.cells) (k bits : Nat) (r : Regs) :
    (t.amulRows k bits r).1 = (s.amulRows k bits r).1 := by
  simp only [State.amulRows, Mem.read_congr h]

/-- A tile of free values depends on the free values alone. -/
theorem State.tileFor_congr {s t : State} (h : t.free = s.free) (active : Option WTile) (fmt : Nat) (sparse split : Bool) :
    t.tileFor active fmt sparse split = s.tileFor active fmt sparse split := by
  simp only [State.tileFor, State.tileFor.free, State.freeBytes, h]

/-- Reading several spans keeps what finding errors keeps. -/
theorem ErrKept.discoverAll {α : Type} (key len : α → Nat) (os : List α) (s : State) :
    ErrKept s (os.foldl (fun t o => t.discover (key o) (len o)) s) := by
  induction os generalizing s with
  | nil => exact ErrKept.refl s
  | cons o os ih => exact (ErrKept.discover s _ _).trans (ih _)

/-! ### The verdicts that an AMUL awaits -/

/-- A pass into a tile awaits one verdict for each row and slab. -/
theorem amulVerdicts_tile (k : Nat) (w : WTile) (rows : List (List Byte)) {bits : Nat} (r : Regs) (bundle : Nat) (h : fld bits 21 20 = 0) :
    amulVerdicts k w rows bits r bundle = List.replicate (rows.length * slabsOf bits) ⟨some (fld bits 87 85), bundle, []⟩ := by
  have hrep : ∀ (n m : Nat) (v : Verdict), (List.range n).flatMap (fun _ => List.replicate m v) = List.replicate (n * m) v := by
    intro n m v
    induction n with
    | zero => simp
    | succ n ih => rw [List.range_succ, List.flatMap_append, ih, List.flatMap_singleton, Nat.succ_mul, List.replicate_append_replicate]
  simp [amulVerdicts, h, hrep]

/-- A split-pair pass awaits one verdict for each row, which keeps the row's addends. -/
theorem amulVerdicts_split (k : Nat) (w : WTile) (rows : List (List Byte)) {bits : Nat} (r : Regs) (bundle : Nat) (h : fld bits 21 20 ≠ 0) :
    amulVerdicts k w rows bits r bundle = (List.range rows.length).map fun i => ⟨none, bundle, splitAdds k w rows bits r i⟩ := by
  rw [List.map_eq_flatMap]
  simp [amulVerdicts, h]

/-! ### AMUL -/

/-- What an AMUL makes of its core: the swap, its verdicts, its tile unless it is a split-pair pass, and its generators (R65, R73, R96, R100). -/
def Core.afterAmul (c : Core) (k bits : Nat) (r : Regs) (wt : WTile) (rows : List (List Byte)) (now : Nat) : Core :=
  let d := c.swap bits
  let ga := genAdvanceN (fld bits 45 38 + 1) (r.gr (fld bits 76 74))
  let verdicts := d.verdicts ++ amulVerdicts k wt rows bits r (c.pc % 4096)
  if fld bits 21 20 = 0 then
    { d with arrayAt := now, arrayGated := false, verdicts := verdicts,
             tiles := d.tiles.upd (fld bits 87 85) Tile.init (amulTileAfter wt rows bits r), regs := d.regs.setG (fld bits 76 74) ga }
  else
    { d with arrayAt := now, arrayGated := false, verdicts := verdicts,
             regs := (d.regs.setG (fld bits 76 74) ga).setG (fld bits 37 35) (genAdvance (r.gr (fld bits 37 35))) }

@[simp] theorem Core.swap_pc (c : Core) (bits : Nat) : (c.swap bits).pc = c.pc := by unfold Core.swap; split <;> rfl

@[simp] theorem State.updCore_now (s : State) (k : Nat) (f : Core → Core) : (s.updCore k f).now = s.now := rfl

/-- It looks at nothing that the issue of bundles keeps but the bundle's index. -/
theorem Core.afterAmul_bare {c d : Core} (h : c.bare = d.bare) (hpc : c.pc = d.pc) (k bits : Nat) (r : Regs) (wt : WTile) (rows : List (List Byte))
    (now : Nat) : (c.afterAmul k bits r wt rows now).bare = (d.afterAmul k bits r wt rows now).bare := by
  cases c; cases d
  simp only [Core.bare, Core.mk.injEq] at h
  simp only at hpc
  simp [Core.afterAmul, Core.swap, Core.bare, h, hpc]
  split_ifs <;> simp

/-- What an AMUL's effect leaves: its core made so, and free values taken only where no tile that fits is loaded. -/
def State.amulMade (s : State) (k : Nat) (c : Core) (known : Prop) (u : State) : Prop := CoreMade k s c u ∧ (known → u.free = s.free)

theorem State.amulMade.raise {s u : State} {k : Nat} {c : Core} {known : Prop} (h : s.amulMade k c known u) (f : FaultRec) :
    s.amulMade k c known (u.raise k f) := ⟨h.1.raise f, h.2⟩

theorem State.amulMade.finish {s u : State} {k : Nat} {c : Core} {known : Prop} (h : s.amulMade k c known u) (sl : Nat) :
    s.slotFreely k c ((u.take k sl).finish k) ∧ (known → ((u.take k sl).finish k).free = s.free) :=
  ⟨h.1.slotFreely sl, fun hknown => (IssueKept.takeFinish u k sl).free.trans (h.2 hknown)⟩

/-- An AMUL that issues computes with the tile it asks for, on the rows that memory holds. -/
theorem amul_answers {s : State} {k : Nat} (h : s.issues k 0 2 = true) (hready : s.arrayReady k = true)
    (hload : (flag (s.bits k 0) 57 && (s.coreOf k).loading.isSome) = false) {wt : WTile} {rows : List (List Byte)}
    (hwt : wt = s.tileFor ((s.coreOf k).swap (s.bits k 0)).active (fld (s.bits k 0) 66 63) (flag (s.bits k 0) 60) (fld (s.bits k 0) 21 20 != 0))
    (hrows : rows = (s.amulRows k (s.bits k 0) (s.src k)).1) :
    Answers (exec (.amul k) s) fun t =>
      s.slotFreely k ((s.coreOf k).afterAmul k (s.bits k 0) (s.src k) wt rows s.now) t ∧
      (((s.coreOf k).swap (s.bits k 0)).active = some wt → t.free = s.free) := by
  show Answers (execAmul k s) _
  unfold execAmul
  extract_lets bits r split ga n
  refine State.slotStep_answers h (by simp [hready, hload, bits]) (State.amulMade.finish ?_ 0)
  extract_lets t1 t2 wt2 known
  -- the core and the values that the AMUL meets once its rows are read
  have hread : ErrKept (s.begin k) t1 := ErrKept.discoverAll (fun o : Int => sramKey k o.toNat) (fun _ => rowBytes (fld bits 70 67) (flag bits 60)) _ _
  have hcore : t1.coreOf k = (s.begin k).coreOf k := by rw [State.coreOf, hread.comp, State.coreOf]
  have hcells : t2.mem.cells = s.mem.cells := hread.cells
  have hfree : t2.free = s.free := hread.free
  have hnow : t1.now = s.now := congrArg (·.counter.toNat) hread.clk
  have hstart : CoreWork k s t1 := (CoreWork.updCore s k _).trans (CoreWork.ofErr k hread)
  have hactive : (t2.coreOf k).active = ((s.coreOf k).swap bits).active := by
    simp only [t2, State.arrayUsed, State.coreOf_updCore_self, hcore, State.coreOf_begin, Core.swap]
    split <;> rfl
  obtain rfl : wt2 = wt := by rw [hwt]; simp only [wt2, hactive]; exact State.tileFor_congr hfree _ _ _ _
  have hrows2 : (t2.amulRows k bits r).1 = rows := by rw [hrows]; exact State.amulRows_congr hcells k bits r
  generalize t2.amulRows k bits r = found at hrows2 ⊢
  obtain ⟨rows2, bad⟩ := found
  obtain rfl : rows2 = rows := hrows2
  dsimp -zeta only
  extract_lets u1 u2 u3 u4
  have hmade3 : CoreMade k s ((s.coreOf k).afterAmul k bits r wt2 rows2 s.now) u3 := by
    have hbare : ((t1.coreOf k).afterAmul k bits r wt2 rows2 s.now).bare = ((s.coreOf k).afterAmul k bits r wt2 rows2 s.now).bare :=
      Core.afterAmul_bare (by rw [hcore, State.begin_bare]) (by rw [hcore, State.coreOf_begin]) _ _ _ _ _ _
    have hwork1 : CoreWork k s u1 := ((hstart.trans (CoreWork.updCore t1 k _)).trans (CoreWork.updCore _ k _)).trans (CoreWork.updCore t2 k _)
    have hwork3 : CoreWork k s u3 := by
      refine (hwork1.trans ?_).trans (CoreWork.updCore u2 k _)
      exact CoreWork.ite (CoreWork.refl u1 k) (CoreWork.updCore u1 k _)
    refine ⟨hwork3, Eq.trans (congrArg Core.bare ?_) hbare⟩
    by_cases hsplit : fld bits 21 20 = 0 <;>
      simp [u3, u2, u1, t2, split, hsplit, hnow, State.updRegs, State.updTile, State.arrayUsed, Core.afterAmul, n, ga]
  have hfree3 : u3.free = s.free := (apply_ite State.free _ _ _).trans ((ite_self _).trans hfree)
  have hmade : s.amulMade k ((s.coreOf k).afterAmul k bits r wt2 rows2 s.now) (((s.coreOf k).swap bits).active = some wt2) u4 := by
    simp only [u4, known, hactive]
    split
    · exact ⟨hmade3, fun _ => hfree3⟩
    · exact ⟨hmade3.setFree _, fun hknown => absurd hknown ‹_›⟩
  cases bad with
  | some o => exact hmade.raise _
  | none =>
    dsimp only
    split
    · exact hmade.raise _
    · exact hmade

/-- Settles O14: an AMUL by what it makes of its core (`Core.afterAmul`), and one row of a dense pass column by column. -/
theorem arrayPasses : Obligations.ArrayPasses := by
  refine ⟨fun s k bits r c wt rows at_ ga hbits hr hc hwt hrows hat hga h hready hload => ?_,
    fun mode w x prow pcol row tile i hw => ?_⟩
  · subst hbits hr hc hat hga
    obtain ⟨t, hexec, hmakes, hfree⟩ := amul_answers h hready hload hwt hrows
    refine ⟨t, hexec, ?_, hfree⟩
    by_cases hsplit : fld (s.bits k 0) 21 20 = 0
    · rw [if_pos hsplit]
      simpa only [Core.afterAmul, if_pos hsplit, amulVerdicts_tile _ _ _ _ _ hsplit, slabsOf] using hmakes
    · rw [if_neg hsplit]
      simpa only [Core.afterAmul, if_neg hsplit, amulVerdicts_split _ _ _ _ _ hsplit] using hmakes
  · rw [passRow_dense mode x prow pcol row tile hw, passColumns_entry mode w x prow pcol row _ tile i fun c => List.mem_range.1]
    have hcol : i % 128 ∈ List.range 128 := List.mem_range.2 (Nat.mod_lt i (by decide))
    simp only [hcol, true_and]

end Sys2Proof.Machine
end

section
/-! PROOFS. Pages made ready for a write (R120, R122, R127, R129 to R135, R150 to R156): what placing pages, dropping replicas, counting heat and
using translations leave alone. -/

namespace Sys2Proof.Machine

/-! ### What placement leaves alone -/

/-- From `s` to `t` only placement, migration, job counts, the window and frame tables, free values and what waits to leave the module may have
changed, and every berth map entry has kept its generation. -/
structure PlaceKept (s t : State) : Prop where
  comp : t.comp = s.comp
  mem : t.mem = s.mem
  side : t.side = s.side
  pending : t.pending = s.pending
  clk : t.clk = s.clk
  quay : t.quay = s.quay
  exch : t.exch = s.exch
  coll : t.coll = s.coll
  health : t.health = s.health
  ledger : t.ledger = s.ledger
  out : t.out = s.out
  gens : ∀ i, (t.place.berths.get? i).map Berth.gen = (s.place.berths.get? i).map Berth.gen

/-- The same, and no migration is counted. -/
structure TouchKept (s t : State) : Prop extends PlaceKept s t where
  chip : t.chip = s.chip

theorem PlaceKept.trans {s t u : State} (h : PlaceKept s t) (g : PlaceKept t u) : PlaceKept s u where
  comp := g.comp.trans h.comp
  mem := g.mem.trans h.mem
  side := g.side.trans h.side
  pending := g.pending.trans h.pending
  clk := g.clk.trans h.clk
  quay := g.quay.trans h.quay
  exch := g.exch.trans h.exch
  coll := g.coll.trans h.coll
  health := g.health.trans h.health
  ledger := g.ledger.trans h.ledger
  out := g.out.trans h.out
  gens i := (g.gens i).trans (h.gens i)

theorem TouchKept.trans {s t u : State} (h : TouchKept s t) (g : TouchKept t u) : TouchKept s u :=
  ⟨h.toPlaceKept.trans g.toPlaceKept, g.chip.trans h.chip⟩

/-- A change of the placement side that keeps the generations. -/
theorem TouchKept.setPlace {s : State} {p : Place} (h : ∀ i, (p.berths.get? i).map Berth.gen = (s.place.berths.get? i).map Berth.gen) :
    TouchKept s (s.setPlace p) := ⟨⟨rfl, rfl, rfl, rfl, rfl, rfl, rfl, rfl, rfl, rfl, rfl, h⟩, rfl⟩

/-- A change of the placement side but for the berth map. -/
theorem TouchKept.setPlace_same {s : State} {p : Place} (h : p.berths = s.place.berths) : TouchKept s (s.setPlace p) :=
  TouchKept.setPlace fun i => by rw [h]

theorem TouchKept.setCmd (s : State) (c : Cmd) : TouchKept s (s.setCmd c) :=
  ⟨⟨rfl, rfl, rfl, rfl, rfl, rfl, rfl, rfl, rfl, rfl, rfl, fun _ => rfl⟩, rfl⟩
theorem TouchKept.setNet (s : State) (n : Net) : TouchKept s (s.setNet n) :=
  ⟨⟨rfl, rfl, rfl, rfl, rfl, rfl, rfl, rfl, rfl, rfl, rfl, fun _ => rfl⟩, rfl⟩
theorem TouchKept.setWire (s : State) (w : Wire) : TouchKept s (s.setWire w) :=
  ⟨⟨rfl, rfl, rfl, rfl, rfl, rfl, rfl, rfl, rfl, rfl, rfl, fun _ => rfl⟩, rfl⟩
theorem TouchKept.setFree (s : State) (n : Nat) : TouchKept s (s.setFree n) :=
  ⟨⟨rfl, rfl, rfl, rfl, rfl, rfl, rfl, rfl, rfl, rfl, rfl, fun _ => rfl⟩, rfl⟩
theorem PlaceKept.setChip (s : State) (c : Chip) : PlaceKept s (s.setChip c) :=
  ⟨rfl, rfl, rfl, rfl, rfl, rfl, rfl, rfl, rfl, rfl, rfl, fun _ => rfl⟩

theorem TouchKept.refl (s : State) : TouchKept s s := TouchKept.setFree s s.free
theorem PlaceKept.refl (s : State) : PlaceKept s s := (TouchKept.refl s).toPlaceKept

theorem TouchKept.ite {s t u : State} {c : Prop} [Decidable c] (h : TouchKept s t) (g : TouchKept s u) : TouchKept s (if c then t else u) := by
  split
  · exact h
  · exact g

theorem PlaceKept.ite {s t u : State} {c : Prop} [Decidable c] (h : PlaceKept s t) (g : PlaceKept s u) : PlaceKept s (if c then t else u) := by
  split
  · exact h
  · exact g

/-- Steps that each touch no more. -/
theorem TouchKept.foldl {α : Type} {f : State → α → State} (h : ∀ s x, TouchKept s (f s x)) (l : List α) (s : State) : TouchKept s (l.foldl f s) := by
  induction l generalizing s with
  | nil => exact TouchKept.refl s
  | cons x l ih => exact (h s x).trans (ih _)

theorem PlaceKept.foldl {α : Type} {f : State → α → State} (h : ∀ s x, PlaceKept s (f s x)) (l : List α) (s : State) : PlaceKept s (l.foldl f s) := by
  induction l generalizing s with
  | nil => exact PlaceKept.refl s
  | cons x l ih => exact (h s x).trans (ih _)

/-! ### Berth map entries -/

/-- A change of a berth map entry that keeps its generation. -/
theorem TouchKept.updBerth (s : State) (i : Nat) {f : Berth → Berth} (hf : ∀ b, (f b).gen = b.gen) : TouchKept s (s.updBerth i f) := by
  unfold State.updBerth
  split
  · exact TouchKept.refl s
  · next b hb =>
    refine TouchKept.setPlace fun j => ?_
    by_cases hj : j = i
    · subst hj; rw [AMap.get?_put_self, hb, Option.map_some, Option.map_some, hf]
    · rw [AMap.get?_put_other _ _ _ _ hj]

/-- A handle names a berth as long as the map's entries keep their generations. -/
theorem State.berthAt_isSome_of_gens {s t : State} (h : ∀ i, (t.place.berths.get? i).map Berth.gen = (s.place.berths.get? i).map Berth.gen)
    (x : BitVec 32) : (t.berthAt x).isSome = (s.berthAt x).isSome := by
  have hgen := h (handleIndex x)
  unfold State.berthAt
  cases hs : s.place.berths.get? (handleIndex x) with
  | none =>
    cases ht : t.place.berths.get? (handleIndex x) with
    | none => rfl
    | some c => simp [hs, ht] at hgen
  | some b =>
    cases ht : t.place.berths.get? (handleIndex x) with
    | none => simp [hs, ht] at hgen
    | some c =>
      simp only [hs, ht, Option.map_some, Option.some.injEq] at hgen
      simp only [hgen]
      split_ifs <;> rfl

/-! ### Translations and replicas -/

theorem TouchKept.tcRemove (s : State) (i page : Nat) : TouchKept s (s.tcRemove i page) := TouchKept.setPlace_same rfl

theorem TouchKept.shootDown (s : State) (i page : Nat) : TouchKept s (s.shootDown i page) := by
  unfold State.shootDown
  split
  · exact TouchKept.refl s
  · exact TouchKept.ite (TouchKept.tcRemove s i page) ((TouchKept.tcRemove s i page).trans (TouchKept.setWire _ _))

theorem TouchKept.placeChange (s : State) (job : Nat) : TouchKept s (s.placeChange job) := by
  unfold State.placeChange
  split
  · exact TouchKept.refl s
  · exact TouchKept.setCmd s _

theorem TouchKept.dropCopies (s : State) (i p : Nat) (keeps : BitVec 46 → Bool) : TouchKept s (s.dropCopies i p keeps) := by
  unfold State.dropCopies
  split
  · exact TouchKept.refl s
  · split
    · exact TouchKept.refl s
    · refine TouchKept.ite (TouchKept.refl s) (TouchKept.trans ?_ (TouchKept.foldl (fun s _ => TouchKept.placeChange s _) _ _))
      exact (TouchKept.shootDown s i p).trans (TouchKept.updBerth _ i (by exact fun _ => rfl))

theorem TouchKept.dropWhere (s : State) (keeps : Berth → BitVec 46 → Bool) : TouchKept s (s.dropWhere keeps) :=
  TouchKept.foldl (fun s _ => TouchKept.foldl (fun s _ => TouchKept.ite (TouchKept.refl s) (TouchKept.dropCopies s _ _ _)) _ s) _ s

theorem TouchKept.tcFill (s : State) (cluster : Nat) (h : BitVec 32) (page : Nat) : TouchKept s (s.tcFill cluster h page) := TouchKept.setPlace_same rfl

theorem TouchKept.tcTouch (s : State) (who : Option Nat) (h : BitVec 32) (ofs n : Nat) : TouchKept s (s.tcTouch who h ofs n) := by
  unfold State.tcTouch
  split
  · exact TouchKept.foldl (fun s p => TouchKept.ite (TouchKept.tcFill s _ h p) (TouchKept.refl s)) _ s
  · exact TouchKept.refl s

theorem TouchKept.heatPages (s : State) (who : Option Nat) (h : BitVec 32) (ofs n : Nat) : TouchKept s (s.heatPages who h ofs n) :=
  TouchKept.updBerth s _ fun _ => rfl

/-! ### Shadow lines -/

theorem TouchKept.predCount (s : State) (key late waste : Nat) : TouchKept s (s.predCount key late waste) := TouchKept.setCmd s _

theorem TouchKept.lineGone (s : State) (x : Shadow) : TouchKept s (s.lineGone x) :=
  TouchKept.foldl (fun s _ => TouchKept.ite (TouchKept.refl s) ((TouchKept.setPlace_same (by rfl)).trans (TouchKept.predCount _ _ _ _))) _ s

theorem TouchKept.trimShadows (s : State) (c room fuel : Nat) : TouchKept s (s.trimShadows c room fuel) := by
  induction fuel generalizing s with
  | zero => exact TouchKept.refl s
  | succ fuel ih =>
    unfold State.trimShadows
    refine TouchKept.ite (TouchKept.refl s) ?_
    split
    · exact TouchKept.refl s
    · exact ((TouchKept.setPlace_same (by rfl)).trans (TouchKept.lineGone _ _)).trans (ih _)

theorem TouchKept.shadowDrop (s : State) (h : BitVec 32) (ofs n : Nat) : TouchKept s (s.shadowDrop h ofs n) :=
  (TouchKept.setPlace_same (by rfl)).trans (TouchKept.foldl TouchKept.lineGone _ _)

/-! ### A page's home -/

theorem TouchKept.yieldFrames (s : State) (f n : Nat) : TouchKept s (s.yieldFrames f n) := by
  have hdrop := TouchKept.dropWhere s fun b c => c.toNat + b.frames ≤ f || f + n ≤ c.toNat
  rw [State.yieldFrames]
  generalize (s.dropWhere fun b c => c.toNat + b.frames ≤ f || f + n ≤ c.toNat) = t at hdrop ⊢
  split
  · exact hdrop
  · exact hdrop.trans (TouchKept.trimShadows t _ _ _)

theorem TouchKept.exposeFrame (s : State) (i : Nat) (b : Berth) (base : BitVec 46) : TouchKept s (s.exposeFrame i b base) := by
  unfold State.exposeFrame
  split
  · exact TouchKept.refl s
  · exact TouchKept.setNet s _

theorem TouchKept.pickFor (s : State) (job item : Nat) : TouchKept s (s.pickFor job item).2 := by
  unfold State.pickFor
  split
  · split
    · exact TouchKept.refl s
    · exact TouchKept.setFree s _
  · exact TouchKept.setFree s _

theorem PlaceKept.yieldPin (s : State) (c : Nat) : PlaceKept s (s.yieldPin c) := by
  unfold State.yieldPin
  split
  · exact PlaceKept.refl s
  · split
    · exact PlaceKept.refl s
    · refine (PlaceKept.ite (PlaceKept.refl s) ?_).trans ((TouchKept.shootDown _ _ _).trans (TouchKept.updBerth _ _ (by exact fun _ => rfl))).toPlaceKept
      exact (PlaceKept.setChip s _).trans (TouchKept.placeChange _ _).toPlaceKept

theorem TouchKept.stashHome (s : State) (b : Berth) (pick : Nat) (outward : Bool) : TouchKept s (s.stashHome b pick outward).2 := by
  unfold State.stashHome
  dsimp only
  split
  · exact TouchKept.refl s
  · split
    · exact TouchKept.setNet s _
    · split
      · exact TouchKept.setNet s _
      · split <;> exact TouchKept.refl s

theorem PlaceKept.homeFor (s : State) (b : Berth) (item : Nat) : PlaceKept s (s.homeFor b item).2 := by
  unfold State.homeFor
  have hpick := (TouchKept.pickFor s b.job item).toPlaceKept
  generalize s.pickFor b.job item = found at hpick ⊢
  obtain ⟨pick, t⟩ := found
  dsimp only at hpick ⊢
  split
  · split <;> exact hpick
  · split
    · exact hpick
    · exact hpick.trans (PlaceKept.ite (PlaceKept.refl t) (PlaceKept.yieldPin t _))
  · exact hpick.trans (TouchKept.stashHome t b pick false).toPlaceKept
  · exact hpick

theorem PlaceKept.placePage (s : State) (i p : Nat) : PlaceKept s (s.placePage i p) := by
  unfold State.placePage
  split
  · exact PlaceKept.refl s
  · next b hb =>
    refine PlaceKept.ite (PlaceKept.refl s) ?_
    have hhome := PlaceKept.homeFor s b (i * 2 ^ 24 + p)
    split
    · next t ht => rw [ht] at hhome; exact hhome
    · next base t ht =>
      rw [ht] at hhome
      exact hhome.trans (((TouchKept.updBerth t i (by exact fun _ => rfl)).trans (TouchKept.exposeFrame _ _ _ _)).trans (TouchKept.yieldFrames _ _ _)).toPlaceKept

end Sys2Proof.Machine
end

section
/-! PROOFS. Writes of a handle's bytes (R109, R110, R122, R132, R135, R146, R153, R344): what makes the pages ready, what brings memory up to date
with the long accumulators, and what the bytes are afterwards. -/

namespace Sys2Proof.Machine

/-! ### Pages ready for a write -/

/-- What a write still does once the pages of its range are placed: it notes the dirty lines, counts heat, uses translations and drops shadow lines. -/
theorem State.touchForWrite_steps {R : State → State → Prop} (htrans : ∀ {a b c}, R a b → R b c → R a c) (hrefl : ∀ a, R a a)
    (htouch : ∀ {a b}, TouchKept a b → R a b) (s : State) (who : Option Nat) (h : BitVec 32) (ofs n : Nat)
    (hplace : ∀ b, s.berthAt h = some b →
      R s ((pagesTouched b.cls ofs n).foldl (fun s p => (s.placePage (handleIndex h) p).dropCopies (handleIndex h) p fun _ => false) s)) :
    R s (s.touchForWrite who h ofs n) := by
  unfold State.touchForWrite
  split
  · exact hrefl s
  · next b hb =>
    refine htrans (hplace b hb) (htouch ?_)
    refine TouchKept.trans ?_ (TouchKept.shadowDrop _ _ _ _)
    exact ((TouchKept.updBerth _ _ (by exact fun _ => rfl)).trans (TouchKept.heatPages _ _ _ _ _)).trans (TouchKept.tcTouch _ _ _ _ _)

theorem PlaceKept.touchForWrite (s : State) (who : Option Nat) (h : BitVec 32) (ofs n : Nat) : PlaceKept s (s.touchForWrite who h ofs n) :=
  State.touchForWrite_steps (R := PlaceKept) PlaceKept.trans PlaceKept.refl (fun h => h.toPlaceKept) s who h ofs n fun _ _ =>
    PlaceKept.foldl (fun s p => (PlaceKept.placePage s _ p).trans (TouchKept.dropCopies _ _ _ _).toPlaceKept) _ s

/-! ### Pages that are placed already -/

/-- Entry `i` of the berth map has the pages `ps` placed. -/
def State.placedAll (s : State) (i : Nat) (ps : List Nat) : Prop := ∃ b, s.place.berths.get? i = some b ∧ ∀ p ∈ ps, b.pages.has p = true

/-- A placed page has its home. -/
theorem State.placePage_placed {s : State} {i p : Nat} {ps : List Nat} (h : s.placedAll i ps) (hp : p ∈ ps) : s.placePage i p = s := by
  obtain ⟨b, hb, hall⟩ := h
  simp only [State.placePage, hb, hall p hp, if_true]

theorem AMap.has_put {α : Type} (m : AMap α) (k j : Nat) (v : α) (h : m.has j = true) : (m.put k v).has j = true := by
  unfold AMap.has at h ⊢
  by_cases hj : j = k
  · subst hj; rw [AMap.get?_put_self]; rfl
  · rw [AMap.get?_put_other _ _ _ _ hj]; exact h

theorem State.shootDown_berths (s : State) (i page : Nat) : (s.shootDown i page).place.berths = s.place.berths := by
  unfold State.shootDown
  split
  · rfl
  · dsimp only
    split <;> rfl

theorem State.placeChange_place (s : State) (job : Nat) : (s.placeChange job).place = s.place := by
  unfold State.placeChange
  split <;> rfl

/-- Dropping replicas keeps every page. -/
theorem State.dropCopies_placedAll {s : State} {i : Nat} {ps : List Nat} (h : s.placedAll i ps) (p : Nat) (keeps : BitVec 46 → Bool) :
    (s.dropCopies i p keeps).placedAll i ps := by
  have hcount : ∀ (l : List (BitVec 46)) (t : State) (job : Nat), (l.foldl (fun s _ => s.placeChange job) t).place = t.place := by
    intro l t job
    induction l generalizing t with
    | nil => rfl
    | cons c l ih => rw [List.foldl_cons, ih, State.placeChange_place]
  obtain ⟨b, hb, hall⟩ := h
  simp only [State.dropCopies, hb]
  split
  · exact ⟨b, hb, hall⟩
  · next x hx =>
    split
    · exact ⟨b, hb, hall⟩
    · refine ⟨{ b with pages := b.pages.put p { x with copies := x.copies.filter keeps } }, ?_, fun q hq => AMap.has_put _ p q _ (hall q hq)⟩
      rw [hcount, State.updBerth, State.shootDown_berths, hb]
      exact AMap.get?_put_self _ _ _

/-- Writing to placed pages places none. -/
theorem TouchKept.touchForWrite {s : State} (who : Option Nat) {h : BitVec 32} {ofs n : Nat}
    (hplaced : ∀ b, s.berthAt h = some b → s.placedAll (handleIndex h) (pagesTouched b.cls ofs n)) : TouchKept s (s.touchForWrite who h ofs n) := by
  refine State.touchForWrite_steps (R := TouchKept) TouchKept.trans TouchKept.refl id s who h ofs n fun b hb => ?_
  have hfold : ∀ (l ps : List Nat) (t : State), l ⊆ ps → t.placedAll (handleIndex h) ps →
      TouchKept t (l.foldl (fun s p => (s.placePage (handleIndex h) p).dropCopies (handleIndex h) p fun _ => false) t) := by
    intro l ps t hsub ht
    induction l generalizing t with
    | nil => exact TouchKept.refl t
    | cons p l ih =>
      rw [List.foldl_cons, State.placePage_placed ht (hsub List.mem_cons_self)]
      exact (TouchKept.dropCopies t _ p _).trans (ih _ (fun q hq => hsub (List.mem_cons_of_mem p hq)) (State.dropCopies_placedAll ht p _))
  exact hfold _ _ s (fun _ hp => hp) (hplaced b hb)

/-! ### Accesses that wait to leave the module -/

theorem State.wantSpan_eq (s : State) (who : Option Nat) (h : BitVec 32) (ofs n : Nat) (kind : Nat → Nat → WantKind) :
    s.wantSpan who h ofs n kind = s.setWire (s.wantSpan who h ofs n kind).wire := by
  unfold State.wantSpan
  split
  · rfl
  · split <;> rfl

theorem State.wantWrite_eq (s : State) (who : Option Nat) (h : BitVec 32) (ofs : Nat) (bs : List (Option Byte)) :
    s.wantWrite who h ofs bs = s.setWire (s.wantWrite who h ofs bs).wire := by
  unfold State.wantWrite
  generalize runsOf ofs bs = l
  induction l generalizing s with
  | nil => rfl
  | cons r l ih => rw [List.foldl_cons, ih, State.wantSpan_eq]; rfl

theorem State.wantAdd_eq (s : State) (who : Option (Nat × Nat)) (key : Nat) (a : Addend) :
    s.wantAdd who key a = s.setWire (s.wantAdd who key a).wire := by
  unfold State.wantAdd
  split
  · rfl
  · split
    · rfl
    · dsimp only
      split <;> rfl

/-! ### Bytes of memory -/

/-- Bytes written one after another are read back. -/
theorem cellsPut_self (bs : List Byte) (m : List Host.Cell) (k i : Nat) (v : Byte) (hwf : cellsWf none m = true) (h : bs[i]? = some v) :
    cellGet (cellsPut m k bs) (k + i) = v := by
  induction bs generalizing m k i with
  | nil => simp at h
  | cons b bs ih =>
    rw [cellsPut]
    cases i with
    | zero =>
      obtain rfl : b = v := by simpa using h
      rw [cellsPut_other _ _ _ _ (by omega), Nat.add_zero, cellGet_cellPut_self m k b none hwf]
    | succ i =>
      rw [show k + (i + 1) = k + 1 + i by omega]
      exact ih _ _ i (cellPut_wf m k b hwf) (by simpa using h)

theorem leBytes_length (n x : Nat) : (leBytes n x).length = n := by
  induction n generalizing x with
  | zero => rfl
  | succ n ih => rw [leBytes, List.length_cons, ih]

theorem LaEntry.bytes_length (e : LaEntry) : e.bytes.length = 48 := by
  rw [LaEntry.bytes, List.length_append, leBytes_length, leBytes_length]

/-! ### Records written back -/

/-- Bytes written at one key after another. -/
def State.writeRuns (s : State) (l : List (Nat × List Byte)) : State := l.foldl (fun s r => s.writeMem r.1 r.2) s

theorem State.writeRuns_cons (s : State) (r : Nat × List Byte) (l : List (Nat × List Byte)) :
    s.writeRuns (r :: l) = (s.setMem (s.mem.write r.1 r.2)).writeRuns l := rfl

theorem State.writeRuns_eq (s : State) (l : List (Nat × List Byte)) : s.writeRuns l = s.setMem (s.writeRuns l).mem := by
  induction l generalizing s with
  | nil => rfl
  | cons r l ih => rw [State.writeRuns_cons, ih]; rfl

/-- A byte outside what is written stays. -/
theorem State.writeRuns_other (l : List (Nat × List Byte)) (s : State) (a : Nat) (h : ∀ r ∈ l, a < r.1 ∨ r.1 + r.2.length ≤ a) :
    cellGet (s.writeRuns l).mem.cells a = cellGet s.mem.cells a := by
  induction l generalizing s with
  | nil => rfl
  | cons r l ih =>
    rw [State.writeRuns_cons, ih _ fun d hd => h d (List.mem_cons_of_mem r hd)]
    exact cellsPut_other _ _ _ _ (h r List.mem_cons_self)

theorem State.writeRuns_wf (l : List (Nat × List Byte)) (s : State) (h : s.mem.wf = true) : (s.writeRuns l).mem.wf = true := by
  induction l generalizing s with
  | nil => exact h
  | cons r l ih => rw [State.writeRuns_cons]; exact ih _ (Mem.write_wf _ _ _ h)

/-- Bringing memory up to date writes back the records in use that meet the range. -/
theorem State.laSync_eq (s : State) (key n : Nat) :
    s.laSync key n = s.writeRuns ((s.comp.las.filter fun e => recordMeets e.1 key n).map fun e => (e.1, e.2.bytes)) := by
  rw [State.writeRuns, List.foldl_map, State.laSync]

/-- Evicting the records of a range changes memory and the entries in use alone. -/
theorem State.laEvict_eq (s : State) (key n : Nat) :
    s.laEvict key n = (s.setMem (s.laSync key n).mem).setComp { s.comp with las := s.comp.las.keep fun e _ => !recordMeets e key n } := by
  rw [State.laEvict, State.laSync_eq, State.writeRuns_eq]
  rfl

theorem State.laSync_other {s : State} {key n a : Nat} (h : s.offRecords key n a) :
    cellGet (s.laSync key n).mem.cells a = cellGet s.mem.cells a := by
  rw [State.laSync_eq]
  refine State.writeRuns_other _ s a fun r hr => ?_
  obtain ⟨e, he, rfl⟩ := List.mem_map.1 hr
  obtain ⟨hmem, hmeets⟩ := List.mem_filter.1 he
  rw [LaEntry.bytes_length]
  exact h e hmem hmeets

theorem State.laSync_wf {s : State} (key n : Nat) (h : s.mem.wf = true) : (s.laSync key n).mem.wf = true := by
  rw [State.laSync_eq]
  exact State.writeRuns_wf _ s h

/-! ### Stores and armed injections -/

/-- From `s` to `t` an armed injection may have acted: the health records, the latent errors and the free values alone may have changed. -/
def State.injected (s t : State) : Prop := ∃ hl er f, t = ((s.setHealth hl).setMem { s.mem with errors := er }).setFree f

theorem State.injected_refl (s : State) : s.injected s := ⟨s.health, s.mem.errors, s.free, rfl⟩

/-- Taking an armed injection, with the errors that it leaves. -/
theorem State.injected_take (s : State) (cls : Nat) (u : BitVec 32) (er : AMap Nat) (f : Nat) :
    s.injected ((((s.takeInjection cls u).2).setMem { (s.takeInjection cls u).2.mem with errors := er }).setFree f) := by
  unfold State.takeInjection
  split
  · exact ⟨s.health, er, f, rfl⟩
  · exact ⟨_, er, f, rfl⟩

theorem State.injected_put (s : State) (cls : Nat) (u : BitVec 32) (er : AMap Nat) :
    s.injected (((s.takeInjection cls u).2).setMem { (s.takeInjection cls u).2.mem with errors := er }) :=
  s.injected_take cls u er (s.takeInjection cls u).2.free

theorem State.injected_injectOnWrite (s : State) (b : Nat) : s.injected (s.injectOnWrite b) := by
  unfold State.injectOnWrite
  split
  · exact s.injected_refl
  · dsimp only
    split
    · next stack pc _ =>
      split
      · exact s.injected_put 2 (pcUnit stack pc) _
      · split
        · exact s.injected_put 1 (pcUnit stack pc) _
        · exact s.injected_refl
    · next c _ _ =>
      split
      · exact s.injected_take 3 (clusterUnit c) _ _
      · exact s.injected_refl
    · next k _ =>
      split
      · exact s.injected_take 4 (coreUnit k) _ _
      · exact s.injected_refl
    · exact s.injected_refl

/-- What a store leaves: the bytes, and what an injection does. -/
theorem State.injected_store (s : State) (key : Nat) (bs : List Byte) : (s.setMem (s.mem.write key bs)).injected (s.store key bs) := by
  unfold State.store
  dsimp only
  split
  · exact State.injected_refl _
  · exact State.injected_injectOnWrite _ _

/-! ### What a write leaves -/

/-- From `s` to `t` bytes of a handle were written from a key: the cores stay, no long-accumulator entry comes into use, every berth keeps its
generation, memory keeps its canonical form, and bytes outside the range and outside the records written back stay. -/
structure WriteKept (s : State) (key n : Nat) (t : State) : Prop where
  comp : t.comp = { s.comp with las := t.comp.las }
  las : ∀ e ∈ t.comp.las, e ∈ s.comp.las
  only : s.only [.comp, .mem, .health, .chip, .cmd, .place, .net, .free] t
  gens : ∀ i, (t.place.berths.get? i).map Berth.gen = (s.place.berths.get? i).map Berth.gen
  wf : s.mem.wf = true → t.mem.wf = true
  other : ∀ a, (a < key ∨ key + n ≤ a) → s.offRecords key n a → cellGet t.mem.cells a = cellGet s.mem.cells a

theorem State.offRecords_mono {s t : State} (h : ∀ e ∈ t.comp.las, e ∈ s.comp.las) {key n a : Nat} (hoff : s.offRecords key n a) :
    t.offRecords key n a := fun e he => hoff e (h e he)

theorem WriteKept.trans {s t u : State} {key n : Nat} (h : WriteKept s key n t) (g : WriteKept t key n u) : WriteKept s key n u where
  comp := by rw [g.comp, h.comp]
  las e he := h.las e (g.las e he)
  only := State.only_trans h.only g.only
  gens i := (g.gens i).trans (h.gens i)
  wf hwf := g.wf (h.wf hwf)
  other a ha hoff := (g.other a ha (State.offRecords_mono h.las hoff)).trans (h.other a ha hoff)

theorem PlaceKept.only {s t : State} (h : PlaceKept s t) : s.only [.comp, .mem, .health, .chip, .cmd, .place, .net, .free] t := by
  refine ⟨h.pending, fun p hp => ?_⟩
  cases p <;> simp [State.same] at hp ⊢
  · exact h.clk
  · exact h.side
  · exact h.ledger
  · exact h.quay
  · exact h.exch
  · exact h.coll
  · exact h.out

theorem PlaceKept.writeKept {s t : State} (h : PlaceKept s t) (key n : Nat) : WriteKept s key n t where
  comp := by rw [h.comp]
  las e he := by rw [← h.comp]; exact he
  only := h.only
  gens := h.gens
  wf hwf := by rw [h.mem]; exact hwf
  other a _ _ := by rw [h.mem]

theorem WriteKept.laEvict (s : State) (key n : Nat) : WriteKept s key n (s.laEvict key n) := by
  rw [State.laEvict_eq]
  refine ⟨rfl, fun e he => (List.mem_filter.1 he).1, ⟨rfl, fun p hp => ?_⟩, fun _ => rfl, State.laSync_wf key n, fun a _ hoff => State.laSync_other hoff⟩
  cases p <;> simp [State.same] at hp ⊢

/-- An evicted range meets no record in use. -/
theorem State.laEvict_las {s : State} {key n : Nat} : ∀ e ∈ (s.laEvict key n).comp.las, recordMeets e.1 key n = false := by
  rw [State.laEvict_eq]
  intro e he
  simpa using (List.mem_filter.1 he).2

theorem WriteKept.setWire (s : State) (key n : Nat) (w : Wire) : WriteKept s key n (s.setWire w) :=
  (TouchKept.setWire s w).toPlaceKept.writeKept key n

theorem State.store_cells (s : State) (key : Nat) (bs : List Byte) : (s.store key bs).mem.cells = cellsPut s.mem.cells key bs := by
  obtain ⟨hl, er, f, h⟩ := State.injected_store s key bs
  rw [h]; rfl

theorem State.store_comp (s : State) (key : Nat) (bs : List Byte) : (s.store key bs).comp = s.comp := by
  obtain ⟨hl, er, f, h⟩ := State.injected_store s key bs
  rw [h]; rfl

theorem WriteKept.store (s : State) (key : Nat) (bs : List Byte) : WriteKept s key bs.length (s.store key bs) := by
  have hcells := State.store_cells s key bs
  have hcomp := State.store_comp s key bs
  refine ⟨by rw [hcomp], fun e he => by rw [← hcomp]; exact he, ?_, ?_, fun hwf => ?_, fun a ha _ => by rw [hcells]; exact cellsPut_other _ _ _ _ ha⟩
  · obtain ⟨hl, er, f, h⟩ := State.injected_store s key bs
    rw [h]
    refine ⟨rfl, fun p hp => ?_⟩
    cases p <;> simp [State.same] at hp ⊢
  · obtain ⟨hl, er, f, h⟩ := State.injected_store s key bs
    intro i
    rw [h]; rfl
  · rw [Mem.wf, hcells]; exact cellsPut_wf _ _ _ hwf

/-! ### Writing a span -/

/-- A handle that names nothing is not written. -/
theorem State.writeSpan_of_unnamed {s : State} (who : Option Nat) {h : BitVec 32} (ofs : Nat) (bs : List Byte) (hne : h ≠ 0)
    (hnone : (s.berthAt h).isSome = false) : s.writeSpan who h ofs bs = s := by
  have hberth : (s.berthAt h).isNone = true := by rw [← Option.not_isSome, hnone]; rfl
  rw [State.writeSpan, if_pos (by rw [hberth, bne_iff_ne.2 hne]; rfl)]

/-- Operand SRAM is written at once. -/
theorem State.writeSpan_sram (s : State) (k ofs : Nat) (bs : List Byte) : s.writeSpan (some k) 0 ofs bs = s.store (spanKey k 0 ofs) bs := by
  simp [State.writeSpan]

/-- A berth's span is written once its pages are ready and the records that meet it are evicted. -/
theorem State.writeSpan_berth {s : State} (k : Nat) {h : BitVec 32} (ofs : Nat) (bs : List Byte) (hne : h ≠ 0) (hberth : (s.berthAt h).isSome = true) :
    ∃ t, WriteKept s (spanKey k h ofs) bs.length t ∧ (∀ e ∈ t.comp.las, recordMeets e.1 (spanKey k h ofs) bs.length = false) ∧
      s.writeSpan (some k) h ofs bs = t.store (spanKey k h ofs) bs := by
  have hnone : (s.berthAt h).isNone = false := by rw [← Option.not_isSome, hberth]; rfl
  have htouch := (PlaceKept.touchForWrite s (some k) h ofs bs.length).writeKept (spanKey k h ofs) bs.length
  refine ⟨((s.touchForWrite (some k) h ofs bs.length).laEvict (spanKey k h ofs) bs.length).wantWrite (some k) h ofs (bs.map some), ?_, ?_, ?_⟩
  · rw [State.wantWrite_eq]
    exact (htouch.trans (WriteKept.laEvict _ _ _)).trans (WriteKept.setWire _ _ _ _)
  · rw [State.wantWrite_eq]
    exact State.laEvict_las
  · simp only [State.writeSpan, hnone, Bool.and_false, Bool.false_eq_true, if_false, if_neg hne, Option.getD_some]

/-- Whatever the handle names, writing a span keeps what a write keeps. -/
theorem WriteKept.writeSpan (s : State) (k : Nat) (h : BitVec 32) (ofs : Nat) (bs : List Byte) :
    WriteKept s (spanKey k h ofs) bs.length (s.writeSpan (some k) h ofs bs) := by
  by_cases hne : h = 0
  · subst hne
    rw [State.writeSpan_sram]
    exact WriteKept.store s _ bs
  · cases hberth : (s.berthAt h).isSome with
    | false =>
      rw [State.writeSpan_of_unnamed _ _ _ hne hberth]
      exact (PlaceKept.refl s).writeKept _ _
    | true =>
      obtain ⟨t, hkept, _, heq⟩ := State.writeSpan_berth k ofs bs hne hberth
      rw [heq]
      exact hkept.trans (WriteKept.store t _ bs)

/-- The bytes of a span are what was written. -/
theorem State.writeSpan_bytes {s : State} (k : Nat) {h : BitVec 32} (ofs : Nat) (bs : List Byte) (hok : h = 0 ∨ (s.berthAt h).isSome = true)
    (hwf : s.mem.wf = true) {i : Nat} {v : Byte} (hv : bs[i]? = some v) :
    cellGet (s.writeSpan (some k) h ofs bs).mem.cells (spanKey k h ofs + i) = v := by
  by_cases hne : h = 0
  · subst hne
    rw [State.writeSpan_sram, State.store_cells]
    exact cellsPut_self bs _ _ i v hwf hv
  · obtain ⟨t, hkept, _, heq⟩ := State.writeSpan_berth k ofs bs hne (hok.resolve_left hne)
    rw [heq, State.store_cells]
    exact cellsPut_self bs _ _ i v (hkept.wf hwf) hv

/-- No record in use meets a berth's span that was written. -/
theorem State.writeSpan_las {s : State} (k : Nat) {h : BitVec 32} (ofs : Nat) (bs : List Byte) (hne : h ≠ 0) (hberth : (s.berthAt h).isSome = true) :
    ∀ e ∈ (s.writeSpan (some k) h ofs bs).comp.las, recordMeets e.1 (spanKey k h ofs) bs.length = false := by
  obtain ⟨t, _, hlas, heq⟩ := State.writeSpan_berth k ofs bs hne hberth
  rw [heq, State.store_comp]
  exact hlas

/-! ### What an access leaves alone -/

theorem State.accessFrame_trans {k : Nat} {s t u : State} (h : s.accessFrame k t) (g : t.accessFrame k u) : s.accessFrame k u := by
  obtain ⟨hother, hcomp, honly⟩ := h
  obtain ⟨gother, gcomp, gonly⟩ := g
  exact ⟨fun j hj => (gother j hj).trans (hother j hj), by rw [gcomp, hcomp], State.only_trans honly gonly⟩

/-- Work on one core is within what an access may touch. -/
theorem CoreWork.accessFrame {k : Nat} {s t : State} (h : CoreWork k s t) : s.accessFrame k t := by
  refine ⟨h.other, ?_, State.only_mono (by decide) h.only⟩
  have hlas : t.comp.las = s.comp.las := by rw [h.comp]
  rw [hlas]
  exact h.comp

theorem WriteKept.coreOf {s t : State} {key n : Nat} (h : WriteKept s key n t) (j : Nat) : t.coreOf j = s.coreOf j := by
  rw [State.coreOf, h.comp, State.coreOf]

theorem WriteKept.accessFrame {s t : State} {key n : Nat} (h : WriteKept s key n t) (k : Nat) : s.accessFrame k t := by
  refine ⟨fun j _ => h.coreOf j, ?_, State.only_mono (by decide) h.only⟩
  have hcores : t.comp.cores = s.comp.cores := by rw [h.comp]
  rw [hcores]
  exact h.comp

end Sys2Proof.Machine
end

section
/-! PROOFS. Flushes and clears (R73, R96 to R98, R113): what AFLUSH and ACLR make of their core and of the addends on their way, and
what LINIT makes of its records. -/

namespace Sys2Proof.Machine

/-! ### AFLUSH -/

/-- The addends of a flush: each record of its rows and columns, with the tile's entry (R98). -/
def flushAdds (k bits : Nat) (r : Regs) (tile : Tile) : List (Nat × W32) :=
  (recordOfs (r.gr (fld bits 37 35)) (fld bits 45 38 + 1) (r.pr (fld bits 80 77))).map fun x =>
    (spanKey k (genHandle (r.gr (fld bits 37 35))) x.2.2.toNat, tile.e.getD (128 * (fld bits 52 46 + x.1) + x.2.1) 0)

/-- A core after a flush, which in a restartable kernel holds its addends and locks its rows (R97, R113). -/
def Core.afterFlush (c : Core) (bits : Nat) (r : Regs) (adds : List (Nat × W32)) (restartable : Bool) (now : Nat) : Core :=
  { c with
    arrayAt := now
    arrayGated := false
    held := if restartable then c.held ++ adds.map (fun a => Held.flush a.1 a.2 (c.pc % 4096)) else c.held
    regs := c.regs.setG (fld bits 37 35) (genAdvance (r.gr (fld bits 37 35)))
    tiles := c.tiles.upd (fld bits 87 85) Tile.init fun x =>
      { x with cursor := fld bits 56 53, opened := false, locked := if restartable then (x.locked ++ arrRows bits).dedup else x.locked } }

/-- A core as its restart point begins (R113). -/
def Core.restartPoint (c : Core) (resume : Nat) : Core :=
  { c with
    commit := some ({ s := c.regs.s, g := c.regs.g, stack := c.stack, resume := resume, cons := c.cons }, c.held)
    held := []
    cons := []
    tiles := c.tiles.mapVals fun _ t => { t with locked := [], locking := t.locked } }

/-- A core after an AFLUSH: with RPT in a restartable kernel a restart point begins. -/
def Core.afterAflush (c : Core) (bits : Nat) (r : Regs) (adds : List (Nat × W32)) (restartable : Bool) (now : Nat) : Core :=
  if flag bits 34 && restartable then (c.afterFlush bits r adds restartable now).restartPoint (fld bits 33 22)
  else c.afterFlush bits r adds restartable now

@[simp] theorem State.restartable_begin (s : State) (k : Nat) : (s.begin k).restartable k = s.restartable k := by
  simp [State.restartable, State.kernelOf, State.launchOf, State.instOf, State.coreOf_begin]
  rfl

@[simp] theorem State.sendAdds_now (s : State) (k bundle : Nat) (adds : List (Nat × W32)) : (s.sendAdds k bundle adds).now = s.now := by
  unfold State.sendAdds; split <;> rfl

/-- The addends on their way after a flush, which holds its own in a restartable kernel (R43, R113). -/
def State.flushed (s : State) (k : Nat) (adds : List (Nat × W32)) : List Flush :=
  if s.restartable k then s.comp.addends else s.comp.addends ++ adds.map fun a => ⟨k, (s.coreOf k).pc % 4096, a.1, .fp32 a.2⟩

/-- From `s` to `u` core `k` became `c`, but for what the issue of bundles keeps, the addends on their way became `adds`, and nothing else changed. -/
structure FlushMade (k : Nat) (s : State) (c : Core) (adds : List Flush) (u : State) : Prop where
  core : (u.coreOf k).bare = c.bare
  other : ∀ j, j ≠ k → u.coreOf j = s.coreOf j
  comp : u.comp = { s.comp with cores := u.comp.cores, addends := adds }
  rest : u = s.setComp u.comp

/-- A change of the core that does not look at what the issue of bundles keeps. -/
theorem FlushMade.updCore {k : Nat} {s u : State} {c : Core} {adds : List Flush} (h : FlushMade k s c adds u) (f : Core → Core)
    (hf : ∀ d, (f d).bare = (f d.bare).bare) : FlushMade k s (f c) adds (u.updCore k f) where
  core := by rw [State.coreOf_updCore_self, hf, h.core, ← hf]
  other j hj := (State.coreOf_updCore_other u k j f hj).trans (h.other j hj)
  comp := by rw [State.updCore_comp, h.comp]
  rest := by rw [State.updCore, State.setCore, h.rest]; rfl

theorem FlushMade.slotFrame {k : Nat} {s u : State} {c : Core} {adds : List Flush} (h : FlushMade k s c adds u) (sl : Nat) :
    c.issued (((u.take k sl).finish k).coreOf k) ∧
      ((u.take k sl).finish k).comp = { s.comp with cores := ((u.take k sl).finish k).comp.cores, addends := adds } ∧
      s.slotFrame k ((u.take k sl).finish k) := by
  have hend := IssueKept.takeFinish u k sl
  exact ⟨hend.core.trans h.core, by rw [hend.comp, h.comp], State.slotFrame_takeFinish h.other h.rest sl⟩

/-- Sending addends on, or holding them, from the state in which the bundle's sources are kept. -/
theorem FlushMade.sendAdds (s : State) (k : Nat) (adds : List (Nat × W32)) :
    FlushMade k s
      { s.coreOf k with held := if s.restartable k then (s.coreOf k).held ++ adds.map (fun a => Held.flush a.1 a.2 ((s.coreOf k).pc % 4096)) else (s.coreOf k).held }
      (s.flushed k adds) ((s.begin k).sendAdds k ((s.coreOf k).pc % 4096) adds) := by
  have hbegin : FlushMade k s (s.coreOf k) s.comp.addends (s.begin k) :=
    ⟨State.begin_bare s k, fun j hj => State.coreOf_updCore_other s k j _ hj, rfl, rfl⟩
  rw [State.sendAdds, State.flushed, State.restartable_begin]
  by_cases h : s.restartable k = true
  · simp only [h, if_true]
    exact hbegin.updCore (fun c => { c with held := c.held ++ adds.map fun a => Held.flush a.1 a.2 ((s.coreOf k).pc % 4096) }) fun _ => rfl
  · simp only [h, if_false, Bool.false_eq_true]
    exact ⟨hbegin.core, hbegin.other, rfl, rfl⟩

theorem aflush_answers {s : State} {k : Nat} {tile : Tile} (htile : tile = (s.coreOf k).tiles.getD (fld (s.bits k 0) 87 85) Tile.init)
    (h : s.issues k 0 3 = true) (hready : s.arrayReady k = true) (hverdicts : tile.verdicts = 0) (hbad : badRows tile (arrRows (s.bits k 0)) = false)
    (hrpt : flag (s.bits k 0) 34 = true → s.restartable k = true → s.restartReady k = true ∧
      ∀ b, s.bundle k = some b → ∀ x ∈ activeSlots b, x = 0 ∨ x = 5 ∨ (s.coreOf k).taken.getLsbD x = true) :
    Answers (exec (.aflush k) s) fun t =>
      ((s.coreOf k).afterAflush (s.bits k 0) (s.src k) (flushAdds k (s.bits k 0) (s.src k) tile) (s.restartable k) s.now).issued (t.coreOf k) ∧
      t.comp = { s.comp with cores := t.comp.cores, addends := s.flushed k (flushAdds k (s.bits k 0) (s.src k) tile) } ∧ s.slotFrame k t := by
  subst htile
  show Answers (execAflush k s) _
  unfold execAflush
  extract_lets bits r at_ gl tile rpt others adds
  have hadds' : flushAdds k bits r tile = adds := by simp only [adds, tile, at_, bits, hbad]; rfl
  refine State.slotStep_answers h ?_ (FlushMade.slotFrame ?_ 0)
  · have hothers : rpt = true → s.restartReady k = true ∧ ∀ x ∈ others, x = 0 ∨ x = 5 ∨ (s.coreOf k).taken.getLsbD x = true := by
      intro hboth
      obtain ⟨hflag, hrestart⟩ := Bool.and_eq_true_iff.1 hboth
      obtain ⟨hcan, hslots⟩ := hrpt hflag hrestart
      refine ⟨hcan, fun x hx => ?_⟩
      cases hb : s.bundle k with
      | none => simp [others, hb] at hx
      | some b => exact hslots b hb x (by simpa [others, hb] using hx)
    by_cases hboth : rpt = true
    · obtain ⟨hcan, hslots⟩ := hothers hboth
      simpa [hready, hboth, hcan, tile, at_, bits, hverdicts, or_assoc] using hslots
    · simp [hready, hboth, tile, at_, bits, hverdicts]
  · extract_lets u1 u2 u3
    have hmade : FlushMade k s ((s.coreOf k).afterFlush bits r adds (s.restartable k) s.now) (s.flushed k adds) u3 := by
      simp only [u3, u2, u1, State.restartable_begin, State.coreOf_begin, State.arrayUsed, State.sendAdds_now]
      exact (((FlushMade.sendAdds s k adds).updCore (fun c => { c with arrayAt := s.now, arrayGated := false }) fun _ => rfl).updCore
        (fun c => { c with tiles := c.tiles.upd at_ Tile.init fun x =>
          { x with cursor := fld bits 56 53, opened := false, locked := if s.restartable k then (x.locked ++ arrRows bits).dedup else x.locked } })
        fun _ => rfl).updCore (fun c => { c with regs := c.regs.setG (fld bits 37 35) (genAdvance gl) }) fun _ => rfl
    rw [if_neg (by simp [tile, at_, bits, hbad]), hadds', Core.afterAflush]
    by_cases hboth : rpt = true
    · rw [if_pos hboth, if_pos hboth]
      exact hmade.updCore (fun c => c.restartPoint (fld bits 33 22)) fun _ => rfl
    · rw [if_neg hboth, if_neg hboth]
      exact hmade

/-! ### ACLR -/

theorem AMap.get?_keep (m : AMap W32) (p : Nat → Bool) (i : Nat) : (m.keep fun j _ => p j).get? i = if p i then m.get? i else none := by
  induction m with
  | nil => simp [AMap.keep, AMap.get?]
  | cons e m ih =>
    obtain ⟨j, v⟩ := e
    simp only [AMap.keep] at ih ⊢
    by_cases hj : j = i
    · subst hj
      by_cases hp : p j = true <;> simp [hp, AMap.get?, ih]
    · by_cases hp : p j = true <;> simp [hp, AMap.get?, hj, ih]

/-- A tile after an ACLR (R96, R97, R316). -/
def Tile.cleared (x : Tile) (bits : Nat) : Tile :=
  { x with e := x.e.keep fun i _ => !(arrRows bits).contains (i / 128), cursor := fld bits 56 53, opened := false,
           bad := x.bad.filter fun b => !(arrRows bits).contains (b / 8) }

theorem Tile.cleared_entry (x : Tile) (bits i : Nat) :
    (x.cleared bits).e.getD i 0 = if (arrRows bits).contains (i / 128) = true then 0 else x.e.getD i 0 := by
  simp only [Tile.cleared, AMap.getD, AMap.get?_keep x.e fun i => !(arrRows bits).contains (i / 128)]
  cases (arrRows bits).contains (i / 128) <;> rfl

theorem aclr_answers {s : State} {k : Nat} (h : s.issues k 0 4 = true) (hready : s.arrayReady k = true) :
    Answers (exec (.aclr k) s) fun t =>
      s.slotMakes k
        { s.coreOf k with
          arrayAt := s.now, arrayGated := false
          tiles := (s.coreOf k).tiles.put (fld (s.bits k 0) 87 85)
            (((s.coreOf k).tiles.getD (fld (s.bits k 0) 87 85) Tile.init).cleared (s.bits k 0)) } t := by
  show Answers (execAclr k s) _
  unfold execAclr
  extract_lets bits
  refine State.slotStep_answers h hready (CoreMade.slotMakes ⟨?_, ?_⟩ rfl 0)
  · exact (((CoreWork.updCore s k _).trans (CoreWork.updCore _ k _)).trans (CoreWork.updCore _ k _))
  · simp only [State.arrayUsed, State.updTile, State.coreOf_updCore_self, State.coreOf_begin, AMap.upd]
    rfl

/-! ### LINIT -/

/-- Initialising records at some offsets of a handle: 48 zero bytes each (R45, R98). -/
def State.zeroRecords (s : State) (k : Nat) (h : BitVec 32) (os : List Nat) : State :=
  os.foldl (fun t o => t.writeSpan (some k) h o (zeros 48)) s

/-- What initialising records leaves: zeros in them, no entry in use for them, and the rest of memory but for records written back. -/
structure InitKept (s : State) (k : Nat) (h : BitVec 32) (os : List Nat) (t : State) : Prop where
  frame : s.accessFrame k t
  core : t.coreOf k = s.coreOf k
  las : ∀ e ∈ t.comp.las, e ∈ s.comp.las
  free : ∀ o ∈ os, ∀ e ∈ t.comp.las, recordMeets e.1 (spanKey k h o) 48 = false
  zero : ∀ o ∈ os, ∀ i < 48, cellGet t.mem.cells (spanKey k h o + i) = 0
  other : ∀ a, (∀ o ∈ os, (a < spanKey k h o ∨ spanKey k h o + 48 ≤ a) ∧ s.offRecords (spanKey k h o) 48 a) →
    cellGet t.mem.cells a = cellGet s.mem.cells a

theorem State.zeroRecords_kept {k : Nat} {h : BitVec 32} (hne : h ≠ 0) (os : List Nat) (s : State) (hberth : (s.berthAt h).isSome = true)
    (hwf : s.mem.wf = true) : InitKept s k h os (s.zeroRecords k h os) := by
  induction os generalizing s with
  | nil =>
    exact ⟨(CoreWork.refl s k).accessFrame, rfl, fun _ he => he, fun _ ho => absurd ho List.not_mem_nil, fun _ ho => absurd ho List.not_mem_nil,
      fun _ _ => rfl⟩
  | cons o os ih =>
    have hkept := WriteKept.writeSpan s k h o (zeros 48)
    have hzero : ∀ i < 48, cellGet (s.writeSpan (some k) h o (zeros 48)).mem.cells (spanKey k h o + i) = 0 := fun i hi =>
      State.writeSpan_bytes k o (zeros 48) (Or.inr hberth) hwf (List.getElem?_replicate_of_lt hi)
    have hmiss := State.writeSpan_las k o (zeros 48) hne hberth
    have hcons : s.zeroRecords k h (o :: os) = (s.writeSpan (some k) h o (zeros 48)).zeroRecords k h os := rfl
    rw [hcons]
    generalize s.writeSpan (some k) h o (zeros 48) = t at hkept hzero hmiss ⊢
    have hberth' : (t.berthAt h).isSome = true := by rw [State.berthAt_isSome_of_gens hkept.gens]; exact hberth
    have hrest := ih t hberth' (hkept.wf hwf)
    refine ⟨State.accessFrame_trans (hkept.accessFrame k) hrest.frame, hrest.core.trans (hkept.coreOf k), fun e he => hkept.las e (hrest.las e he),
      fun o' ho' => ?_, fun o' ho' i hi => ?_, fun a ha => ?_⟩
    · rcases List.mem_cons.1 ho' with rfl | ho'
      · exact fun e he => hmiss e (hrest.las e he)
      · exact hrest.free o' ho'
    · rcases List.mem_cons.1 ho' with rfl | ho'
      · -- a byte of the first record: inside a later one it is that one's zero, and outside them all it stays
        by_cases hlater : ∃ p ∈ os, spanKey k h p ≤ spanKey k h o' + i ∧ spanKey k h o' + i < spanKey k h p + 48
        · obtain ⟨p, hp, hlo, hhi⟩ := hlater
          obtain ⟨j, hj⟩ := Nat.exists_eq_add_of_le hlo
          rw [hj]
          exact hrest.zero p hp j (by omega)
        · rw [hrest.other]
          · exact hzero i hi
          · refine fun p hp => ⟨?_, fun e he _ => ?_⟩
            · by_contra hin
              exact hlater ⟨p, hp, by omega, by omega⟩
            · have hapart := hmiss e he
              simp only [recordMeets, zeros, List.length_replicate, Bool.and_eq_false_iff, decide_eq_false_iff_not] at hapart
              omega
      · exact hrest.zero o' ho' i hi
    · obtain ⟨hout, hoff⟩ := ha o List.mem_cons_self
      rw [hrest.other a fun p hp => ?_, hkept.other a hout hoff]
      obtain ⟨hout', hoff'⟩ := ha p (List.mem_cons_of_mem o hp)
      exact ⟨hout', State.offRecords_mono hkept.las hoff'⟩

/-- An entry in use stands in the map. -/
theorem AMap.mem_of_has {α : Type} {m : AMap α} {k : Nat} (h : m.has k = true) : ∃ v, (k, v) ∈ m := by
  induction m with
  | nil => simp [AMap.has, AMap.get?] at h
  | cons e m ih =>
    obtain ⟨j, v⟩ := e
    by_cases hj : j = k
    · exact ⟨v, by rw [hj]; exact List.mem_cons_self⟩
    · obtain ⟨w, hw⟩ := ih (by simpa [AMap.has, AMap.get?, hj] using h)
      exact ⟨w, List.mem_cons_of_mem _ hw⟩

theorem InitKept.las_has {s t : State} {k : Nat} {h : BitVec 32} {os : List Nat} (hinit : InitKept s k h os t) {o : Nat} (ho : o ∈ os) :
    t.comp.las.has (spanKey k h o) = false := by
  rw [← Bool.not_eq_true]
  intro hhas
  obtain ⟨v, hv⟩ := AMap.mem_of_has hhas
  have hmeets := hinit.free o ho _ hv
  simp [recordMeets] at hmeets

theorem linit_answers {s : State} {k : Nat} {gl : BitVec 256} {os : List Nat} (hgl : gl = (s.src k).gr (fld (s.bits k 0) 37 35))
    (hos : os = (recordOfs gl (fld (s.bits k 0) 45 38 + 1) ((s.src k).pr (fld (s.bits k 0) 80 77))).map (·.2.2.toNat))
    (h : s.issues k 0 5 = true) (hready : s.arrayReady k = true)
    (hfree : ∀ o ∈ os, s.spanHeld (genHandle gl) o 48 = false ∧ s.spanLost (genHandle gl) o 48 = false) :
    Answers (exec (.linit k) s) fun t => ∃ u, u = (s.begin k).zeroRecords k (genHandle gl) os ∧ IssueKept k (u.arrayUsed k) t := by
  subst hgl hos
  show Answers (execLinit k s) _
  unfold execLinit
  extract_lets bits r gl os
  refine State.slotStep_answers h ?_ ?_
  · have hheld : (os.any fun o => s.spanHeld (genHandle gl) o 48) = false :=
      List.any_eq_false.2 fun o ho => Bool.not_eq_true _ ▸ (hfree o ho).1
    rw [hready, hheld]; rfl
  · have hlost : (os.any fun o => (s.begin k).spanLost (genHandle gl) o 48) = false :=
      List.any_eq_false.2 fun o ho => Bool.not_eq_true _ ▸ (hfree o ho).2
    simp only [hlost, Bool.false_eq_true, if_false]
    exact ⟨_, rfl, IssueKept.takeFinish _ k 0⟩

/-- Settles O15: AFLUSH by what it makes of its core and of the addends on their way, ACLR by the tile it clears, and LINIT record by record. -/
theorem flushes : Obligations.Flushes := by
  refine ⟨?_, ?_, ?_⟩
  · intro s k bits r at_ tile gl adds c hbits hr hat htile hgl hadds hc h hready hverdicts hbad
    subst hbits hr hat hgl hc
    have hadds' : adds = flushAdds k (s.bits k 0) (s.src k) tile := hadds
    have hflush := aflush_answers htile h hready hverdicts hbad
    refine ⟨fun hplain => ?_, fun hheld hflag => ?_, fun hheld hflag hcan hslots => ?_⟩
    · obtain ⟨t, hexec, hcore, hcomp, hframe⟩ := hflush fun _ hheld => absurd hheld (by simp [hplain])
      refine ⟨t, hexec, ?_, ?_, hframe⟩
      · simpa [Core.afterAflush, Core.afterFlush, hplain] using hcore
      · simpa [State.flushed, hplain, hadds'] using hcomp
    · obtain ⟨t, hexec, hcore, hcomp, hframe⟩ := hflush fun hflag' => absurd hflag' (by simp [hflag])
      refine ⟨t, hexec, ?_, ?_, hframe⟩
      · simpa [Core.afterAflush, Core.afterFlush, hflag, hheld, hadds'] using hcore
      · simpa [State.flushed, hheld, State.compKept] using hcomp
    · obtain ⟨t, hexec, hcore, hcomp, hframe⟩ := hflush fun _ _ => ⟨hcan, hslots⟩
      simp only [State.flushed, hheld, if_true] at hcomp
      simp only [Core.afterAflush, Core.afterFlush, Core.restartPoint, hflag, hheld, Bool.and_self, if_true, ← hadds'] at hcore
      have hbare : (t.coreOf k).bare = _ := hcore
      have hregs := congrArg Core.regs hbare
      have hcommit := congrArg Core.commit hbare
      exact ⟨t, hexec, congrArg Core.held hbare, congrArg Core.cons hbare, hregs, hcommit, hcomp, hframe⟩
  · intro s k bits hbits h hready
    subst hbits
    obtain ⟨t, hexec, hmakes⟩ := aclr_answers h hready
    exact ⟨t, hexec, _, hmakes, rfl, rfl, fun i => Tile.cleared_entry _ _ i⟩
  · intro s k bits gl os hbits hgl hos h hready hfree hberth hne hwf
    subst hbits
    obtain ⟨t, hexec, u, hu, hissue⟩ := linit_answers hgl hos h hready hfree
    have hinit : InitKept (s.begin k) k (genHandle gl) os u := hu ▸ State.zeroRecords_kept hne os (s.begin k) hberth hwf
    obtain ⟨_, _, honly⟩ := hinit.frame
    have hframe : s.accessFrame k t :=
      State.accessFrame_trans (State.accessFrame_trans (CoreWork.updCore s k _).accessFrame hinit.frame)
        ((CoreWork.updCore u k _).trans (CoreWork.ofIssue hissue)).accessFrame
    have hlas : t.comp.las = u.comp.las := by rw [hissue.comp]; rfl
    refine ⟨t, hexec, ?_, hframe, fun o ho => ⟨?_, fun i hi => ?_⟩, fun a ha => ?_⟩
    · refine hissue.core.trans ?_
      have hnow : u.now = s.now := congrArg (·.counter.toNat) (honly.2 .clk (by decide))
      rw [State.arrayUsed, State.coreOf_updCore_self, hinit.core, State.coreOf_begin, hnow]
      rfl
    · rw [hlas]; exact hinit.las_has ho
    · rw [hissue.cells]; exact hinit.zero o ho i hi
    · rw [hissue.cells]; exact hinit.other a ha

end Sys2Proof.Machine
end

section
/-! PROOFS. What memory completes (R42, R93, R94, R106, R109, R110, R127, R145, R314): loads, DMAs, addends on their way and records written back, and
translations. -/

namespace Sys2Proof.Machine

/-! ### Symbol errors of the dies' networks -/

/-- A symbol error changes the health records, the ledger and the jobs' counts alone. -/
theorem State.linkError_eq (s : State) (k n : Nat) : ∃ hl l c, s.linkError k n = ((s.setHealth hl).setLedger l).setCmd c := by
  unfold State.linkError
  split
  · exact ⟨s.health, s.ledger, s.cmd, rfl⟩
  · have hout : ¬ 3 ≤ if 2 ≤ n then 1 else 0 := by split <;> omega
    simp only [State.fault, if_neg hout]
    exact ⟨_, _, _, rfl⟩

theorem State.only_linkError (s : State) (k n : Nat) : s.only [.health, .ledger, .cmd] (s.linkError k n) := by
  obtain ⟨hl, l, c, h⟩ := s.linkError_eq k n
  rw [h]
  refine ⟨rfl, fun p hp => ?_⟩
  cases p <;> simp [State.same] at hp ⊢

theorem State.coreOf_linkError (s : State) (k n j : Nat) : (s.linkError k n).coreOf j = s.coreOf j := by
  obtain ⟨hl, l, c, h⟩ := s.linkError_eq k n
  rw [h]; rfl

/-- A symbol error is one more event, of class 0x15, at the core that consumes the data. -/
theorem State.linkError_event (s : State) (k : Nat) {n : Nat} (hn : 0 < n) : (s.linkError k n).health.total = s.health.total + 1 ∧
    ((s.linkError k n).health.events.head?.map fun e => (e.cls, e.unit_, e.outcome)) = some (0x15, coreUnit k, if 2 ≤ n then 1 else 0) := by
  have hout : ¬ 3 ≤ if 2 ≤ n then 1 else 0 := by split <;> omega
  simp only [State.linkError, if_neg (Nat.pos_iff_ne_zero.1 hn), State.fault, if_neg hout]
  exact ⟨rfl, rfl⟩

/-! ### Changes of one core -/

/-- From `s` to `t` core `k` alone changed. -/
def State.coreFrame (k : Nat) (s t : State) : Prop := s.only [.comp] t ∧ s.compKept t ∧ ∀ j, j ≠ k → t.coreOf j = s.coreOf j

theorem State.coreFrame_updCore (s : State) (k : Nat) (f : Core → Core) : s.coreFrame k (s.updCore k f) :=
  ⟨State.only_setComp s _, rfl, fun j hj => State.coreOf_updCore_other s k j f hj⟩

theorem State.coreFrame_trans {k : Nat} {s t u : State} (h : s.coreFrame k t) (g : t.coreFrame k u) : s.coreFrame k u := by
  obtain ⟨honly, hcomp, hother⟩ := h
  obtain ⟨gonly, gcomp, gother⟩ := g
  exact ⟨State.only_trans honly gonly, by rw [State.compKept, gcomp, hcomp], fun j hj => (gother j hj).trans (hother j hj)⟩

/-- A core without a fault takes the one that is raised. -/
theorem State.coreOf_raise {s : State} {k : Nat} (f : FaultRec) (h : (s.coreOf k).fault = none) :
    (s.raise k f).coreOf k = { s.coreOf k with fault := some f } := by
  rw [State.raise, State.coreOf_updCore_self, h]; rfl

/-! ### Loads -/

theorem loadComplete_answers {s : State} {k : Nat} {x : Arrival} {l : LoadOp} (hl : (s.coreOf k).loads[x.n]? = some l)
    (hcome : s.awaits k (spanKey k l.handle l.ofs) l.len = false) : Answers (exec (.loadComplete k x) s) fun t =>
    (s.linkError k (l.symbols x)).coreFrame k t ∧
    (l.faultOf x = none → t.coreOf k = { s.coreOf k with loads := (s.coreOf k).loads.eraseIdx x.n, regs := l.write (s.coreOf k).regs }) ∧
    (∀ f, l.faultOf x = some f → (s.coreOf k).fault = none →
      t.coreOf k = { s.coreOf k with loads := (s.coreOf k).loads.eraseIdx x.n, fault := some f }) := by
  show Answers (execLoadComplete k x s) _
  simp only [execLoadComplete, hl, hcome, State.when, Bool.not_false, if_true]
  generalize hu : s.linkError k (l.symbols x) = u
  have hcore : u.coreOf k = s.coreOf k := by rw [← hu, State.coreOf_linkError]
  have hframe := u.coreFrame_updCore k fun c => { c with loads := c.loads.eraseIdx x.n }
  refine ⟨_, rfl, ?_⟩
  cases hf : l.faultOf x with
  | none =>
    refine ⟨State.coreFrame_trans hframe (State.coreFrame_updCore _ k _), fun _ => ?_, fun f hne => (nomatch hne)⟩
    simp only [State.updRegs, State.coreOf_updCore_self, hcore]
  | some f =>
    refine ⟨State.coreFrame_trans hframe (State.coreFrame_updCore _ k _), fun hne => (nomatch hne), fun g hg hnone => ?_⟩
    obtain rfl := Option.some.inj hg
    rw [State.coreOf_raise f (by rw [State.coreOf_updCore_self, hcore, hnone]), State.coreOf_updCore_self, hcore]

/-! ### DMAs -/

theorem Mem.mem_addPoison_self (m : Mem) (b : Nat) : b ∈ (m.addPoison b).poison := by
  unfold Mem.addPoison
  by_cases h : b ∈ m.poison <;> simp [h]

theorem Mem.mem_addPoison_of_mem {m : Mem} {a : Nat} (b : Nat) (h : a ∈ m.poison) : a ∈ (m.addPoison b).poison := by
  unfold Mem.addPoison
  by_cases hb : b ∈ m.poison <;> simp [h, hb]

theorem Mem.mem_addPoisons {a : Nat} (bs : List Nat) {m : Mem} (h : a ∈ bs ∨ a ∈ m.poison) : a ∈ (bs.foldl Mem.addPoison m).poison := by
  induction bs generalizing m with
  | nil => exact h.resolve_left List.not_mem_nil
  | cons b bs ih =>
    refine ih ?_
    rcases h with hmem | hmem
    · rcases List.mem_cons.1 hmem with rfl | htail
      · exact .inr (Mem.mem_addPoison_self m a)
      · exact .inl htail
    · exact .inr (Mem.mem_addPoison_of_mem b hmem)

/-- Marking blocks changes no byte. -/
theorem Mem.addPoisons_cells (bs : List Nat) (m : Mem) : (bs.foldl Mem.addPoison m).cells = m.cells := by
  induction bs generalizing m with
  | nil => rfl
  | cons b bs ih => rw [List.foldl_cons, ih]; rfl

theorem WriteKept.poisonBlocks (s : State) (key n : Nat) (bs : List Nat) : WriteKept s key n (s.poisonBlocks bs) := by
  have hcells : (s.poisonBlocks bs).mem.cells = s.mem.cells := Mem.addPoisons_cells bs s.mem
  refine ⟨rfl, fun _ he => he, ⟨rfl, fun p hp => ?_⟩, fun _ => rfl, fun hwf => by rw [Mem.wf, hcells]; exact hwf, fun a _ _ => by rw [hcells]⟩
  cases p <;> simp [State.same, State.poisonBlocks] at hp ⊢

/-- The end of a DMA that has no fault: its destination is written, and the blocks it leaves poisoned are marked. -/
def State.dmaWrite (s : State) (k : Nat) (d : DmaOp) (bs : List Nat) : State :=
  ((s.writeSpan (some k) d.handle d.ofs d.bytes).tagWants s.wire.wants.length (some (k, d.bundle)) none).poisonBlocks bs

theorem WriteKept.dmaWrite (s : State) (k : Nat) (d : DmaOp) (bs : List Nat) :
    WriteKept s (spanKey k d.handle d.ofs) d.bytes.length (s.dmaWrite k d bs) := by
  refine WriteKept.trans ?_ (WriteKept.poisonBlocks _ _ _ bs)
  rw [State.tagWants_eq]
  exact (WriteKept.writeSpan s k d.handle d.ofs d.bytes).trans (WriteKept.setWire _ _ _ _)

theorem State.dmaWrite_cells (s : State) (k : Nat) (d : DmaOp) (bs : List Nat) :
    (s.dmaWrite k d bs).mem.cells = (s.writeSpan (some k) d.handle d.ofs d.bytes).mem.cells := by
  rw [State.dmaWrite, State.tagWants_eq]
  exact Mem.addPoisons_cells bs _

/-- Core `k` with the DMA of tag `n` ended and its tag set. -/
def Core.dmaDone (c : Core) (n : Nat) : Core := { c with dmas := c.dmas.drop n, tagsDone := n :: c.tagsDone.filter (· != n) }

/-- The state in which the DMA of tag `x.n` has ended, before it writes or raises its fault. -/
def State.dmaEnded (s : State) (k : Nat) (x : Arrival) (d : DmaOp) : State := (s.linkError k (d.symbols x)).updCore k fun c => c.dmaDone x.n

/-- The end of a DMA changes the core, the health records, the ledger and the jobs' counts alone. -/
theorem State.dmaEnded_eq (s : State) (k : Nat) (x : Arrival) (d : DmaOp) :
    ∃ hl l c, s.dmaEnded k x d = (((s.setHealth hl).setLedger l).setCmd c).updCore k fun c => c.dmaDone x.n := by
  obtain ⟨hl, l, c, h⟩ := s.linkError_eq k (d.symbols x)
  exact ⟨hl, l, c, by rw [State.dmaEnded, h]⟩

theorem State.coreOf_dmaEnded (s : State) (k : Nat) (x : Arrival) (d : DmaOp) : (s.dmaEnded k x d).coreOf k = (s.coreOf k).dmaDone x.n := by
  rw [State.dmaEnded, State.coreOf_updCore_self, State.coreOf_linkError]

theorem State.accessFrame_dmaEnded (s : State) (k : Nat) (x : Arrival) (d : DmaOp) : s.accessFrame k (s.dmaEnded k x d) := by
  obtain ⟨hl, l, c, h⟩ := s.dmaEnded_eq k x d
  rw [h]
  refine ⟨fun j hj => State.coreOf_updCore_other _ k j _ hj, rfl, rfl, fun p hp => ?_⟩
  cases p <;> simp [State.same, State.updCore, State.setCore] at hp ⊢

/-- DMA_COMPLETE in full: the three ends of a DMA whose data has come. -/
theorem dmaComplete_eq {s : State} {k : Nat} {x : Arrival} {d : DmaOp} (hd : (s.coreOf k).dmas.get? x.n = some d)
    (hheld : s.spanHeld d.handle d.ofs d.bytes.length = false) (hcome : s.awaits k (spanKey k d.src d.sofs) d.slen = false) :
    exec (.dmaComplete k x) s = .next (match d.fault with
      | some f => (s.dmaEnded k x d).raise k f
      | none => if s.spanLost d.handle d.ofs d.bytes.length then (s.dmaEnded k x d).raise k ⟨9, 1, false, d.bundle, 0⟩
        else (s.dmaEnded k x d).dmaWrite k d (d.poisonOf k x)) := by
  have hlost : (s.dmaEnded k x d).spanLost d.handle d.ofs d.bytes.length = s.spanLost d.handle d.ofs d.bytes.length := by
    obtain ⟨hl, l, c, h⟩ := s.dmaEnded_eq k x d
    rw [h]; rfl
  show execDmaComplete k x s = _
  rw [← hlost]
  simp only [execDmaComplete, hd, hheld, hcome, State.when, Bool.not_false, Bool.and_self, if_true]
  rfl

/-- Raising a fault leaves the DMAs, the tags, the registers and the frame of an access alone. -/
theorem State.coreOf_raise_parts (s : State) (k : Nat) (f : FaultRec) : ((s.raise k f).coreOf k).dmas = (s.coreOf k).dmas ∧
    ((s.raise k f).coreOf k).tagsDone = (s.coreOf k).tagsDone ∧ ((s.raise k f).coreOf k).regs = (s.coreOf k).regs := by
  rw [State.raise, State.coreOf_updCore_self]
  split <;> exact ⟨rfl, rfl, rfl⟩

/-- What a DMA leaves however it ends. -/
def State.dmaKept (s : State) (k n : Nat) (t : State) : Prop :=
  s.accessFrame k t ∧ (t.coreOf k).dmas = (s.coreOf k).dmas.drop n ∧ n ∈ (t.coreOf k).tagsDone ∧ (t.coreOf k).regs = (s.coreOf k).regs

theorem State.dmaKept_raise (s : State) (k : Nat) (x : Arrival) (d : DmaOp) (f : FaultRec) : s.dmaKept k x.n ((s.dmaEnded k x d).raise k f) := by
  obtain ⟨hdmas, htags, hregs⟩ := (s.dmaEnded k x d).coreOf_raise_parts k f
  rw [State.coreOf_dmaEnded] at hdmas htags hregs
  refine ⟨State.accessFrame_trans (s.accessFrame_dmaEnded k x d) (CoreWork.updCore _ k _).accessFrame, hdmas, ?_, hregs⟩
  rw [htags]
  exact List.mem_cons_self

theorem State.dmaKept_write (s : State) (k : Nat) (x : Arrival) (d : DmaOp) (bs : List Nat) : s.dmaKept k x.n ((s.dmaEnded k x d).dmaWrite k d bs) := by
  have hkept := WriteKept.dmaWrite (s.dmaEnded k x d) k d bs
  refine ⟨State.accessFrame_trans (s.accessFrame_dmaEnded k x d) (hkept.accessFrame k), ?_⟩
  rw [hkept.coreOf, State.coreOf_dmaEnded]
  exact ⟨rfl, List.mem_cons_self, rfl⟩

/-- What a DMA without a fault leaves: its bytes written, its poisoned blocks marked, and the other bytes as they were. -/
theorem State.dmaEnded_dmaWrite (s : State) (k : Nat) (x : Arrival) (d : DmaOp) (hok : d.handle = 0 ∨ (s.berthAt d.handle).isSome = true)
    (hwf : s.mem.wf = true) (bs : List Nat) : ∀ t, t = (s.dmaEnded k x d).dmaWrite k d bs →
    (t.coreOf k).fault = (s.coreOf k).fault ∧ (∀ b ∈ bs, b ∈ t.mem.poison) ∧
    (∀ i v, d.bytes[i]? = some v → cellGet t.mem.cells (spanKey k d.handle d.ofs + i) = v) ∧
    ∀ a, (a < spanKey k d.handle d.ofs ∨ spanKey k d.handle d.ofs + d.bytes.length ≤ a) →
      s.offRecords (spanKey k d.handle d.ofs) d.bytes.length a → cellGet t.mem.cells a = cellGet s.mem.cells a := by
  rintro _ rfl
  have hkept := WriteKept.dmaWrite (s.dmaEnded k x d) k d bs
  obtain ⟨hmem, hberth, hlas⟩ : (s.dmaEnded k x d).mem = s.mem ∧ (s.dmaEnded k x d).berthAt d.handle = s.berthAt d.handle ∧
      (s.dmaEnded k x d).comp.las = s.comp.las := by
    obtain ⟨hl, l, c, h⟩ := s.dmaEnded_eq k x d
    rw [h]; exact ⟨rfl, rfl, rfl⟩
  refine ⟨by rw [hkept.coreOf, State.coreOf_dmaEnded]; rfl, fun b hb => Mem.mem_addPoisons bs (.inl hb), fun i v hv => ?_, fun a ha hoff => ?_⟩
  · rw [State.dmaWrite_cells]
    exact State.writeSpan_bytes k d.ofs d.bytes (by rw [hberth]; exact hok) (by rw [hmem]; exact hwf) hv
  · rw [hkept.other a ha (fun e he => hoff e (hlas ▸ he)), hmem]

theorem dmaComplete_answers {s : State} {k : Nat} {x : Arrival} {d : DmaOp} (hd : (s.coreOf k).dmas.get? x.n = some d)
    (hheld : s.spanHeld d.handle d.ofs d.bytes.length = false) (hcome : s.awaits k (spanKey k d.src d.sofs) d.slen = false) :
    Answers (exec (.dmaComplete k x) s) fun t => s.dmaKept k x.n t ∧
      (d.fault = none → s.spanLost d.handle d.ofs d.bytes.length = false → t = (s.dmaEnded k x d).dmaWrite k d (d.poisonOf k x)) ∧
      (∀ f, d.fault = some f → (s.coreOf k).fault = none → (t.coreOf k).fault = some f ∧ t.mem = s.mem) := by
  refine ⟨_, dmaComplete_eq hd hheld hcome, ?_⟩
  cases hf : d.fault with
  | some f =>
    refine ⟨s.dmaKept_raise k x d f, fun hne => (nomatch hne), fun g hg hnone => ?_⟩
    obtain rfl := Option.some.inj hg
    refine ⟨by rw [State.coreOf_raise f (by rw [State.coreOf_dmaEnded]; exact hnone)], ?_⟩
    obtain ⟨hl, l, c, h⟩ := s.dmaEnded_eq k x d
    rw [h]; rfl
  | none =>
    cases hlost : s.spanLost d.handle d.ofs d.bytes.length with
    | true => exact ⟨s.dmaKept_raise k x d _, fun _ hne => (nomatch hne), fun g hg => (nomatch hg)⟩
    | false => exact ⟨s.dmaKept_write k x d _, fun _ _ => rfl, fun g hg => (nomatch hg)⟩

/-! ### Data that has not come -/

theorem loadComplete_waits {s : State} {k : Nat} {x : Arrival} {l : LoadOp} (hl : (s.coreOf k).loads[x.n]? = some l)
    (hwait : s.awaits k (spanKey k l.handle l.ofs) l.len = true) : exec (.loadComplete k x) s = .next s := by
  show execLoadComplete k x s = _
  simp only [execLoadComplete, hl, hwait, State.when, Bool.not_true, Bool.false_eq_true, if_false]

theorem dmaComplete_waits {s : State} {k : Nat} {x : Arrival} {d : DmaOp} (hd : (s.coreOf k).dmas.get? x.n = some d)
    (hwait : s.awaits k (spanKey k d.src d.sofs) d.slen = true) : exec (.dmaComplete k x) s = .next s := by
  show execDmaComplete k x s = _
  simp only [execDmaComplete, hd, hwait, State.when, Bool.not_true, Bool.and_false, Bool.false_eq_true, if_false]

/-! ### Addends on their way -/

/-- The berth that a handle names stands in the map under the handle's index. -/
theorem State.get?_of_berthAt {s : State} {h : BitVec 32} {b : Berth} (hb : s.berthAt h = some b) : s.place.berths.get? (handleIndex h) = some b := by
  unfold State.berthAt at hb
  split at hb
  · exact nomatch hb
  · split at hb
    · exact nomatch hb
    · next c hc =>
      split at hb
      · rw [hc]; exact hb
      · exact nomatch hb

theorem State.placePages_placed {s : State} {i : Nat} {ps : List Nat} (h : s.placedAll i ps) (l : List Nat) (hsub : l ⊆ ps) :
    l.foldl (fun t p => t.placePage i p) s = s := by
  induction l with
  | nil => rfl
  | cons p l ih =>
    rw [List.foldl_cons, State.placePage_placed h (hsub List.mem_cons_self)]
    exact ih fun q hq => hsub (List.mem_cons_of_mem p hq)

theorem TouchKept.only {s t : State} (h : TouchKept s t) : s.only [.place, .cmd, .net, .free] t := by
  refine ⟨h.pending, fun p hp => ?_⟩
  cases p <;> simp [State.same] at hp ⊢
  · exact h.clk
  · exact h.side
  · exact h.ledger
  · exact h.chip
  · exact h.comp
  · exact h.mem
  · exact h.quay
  · exact h.exch
  · exact h.coll
  · exact h.health
  · exact h.out

/-- An addend added to the entry of its record. -/
def State.laPut (s : State) (key : Nat) (a : Addend) : State := s.setComp { s.comp with las := s.comp.las.put key ((s.laEntry key).add a) }

theorem State.laAdd_eq (s : State) (who : Option (Nat × Nat)) (key : Nat) (a : Addend) :
    s.laAdd who key a = ((s.touchForWrite none (s.handleOfKey key) (key % 2 ^ 48) 48).laPut key a).wantAdd who key a := rfl

/-- What adding an addend to a record on placed pages leaves: the entry has the addend, and neither the other entries nor memory change. -/
structure AddKept (s : State) (key : Nat) (a : Addend) (t : State) : Prop where
  comp : t.comp = { s.comp with las := s.comp.las.put key ((s.laEntry key).add a) }
  mem : t.mem = s.mem
  only : s.only [.comp, .place, .net, .free, .cmd] t

theorem AddKept.ofTouch {s t : State} (htouch : TouchKept s t) (who : Option (Nat × Nat)) (key : Nat) (a : Addend) :
    AddKept s key a ((t.laPut key a).wantAdd who key a) := by
  have hentry : t.laEntry key = s.laEntry key := by rw [State.laEntry, htouch.comp, htouch.mem, State.laEntry]
  have hput : t.only [.comp] (t.laPut key a) := State.only_setComp t _
  rw [State.wantAdd_eq]
  refine ⟨by rw [← hentry, ← htouch.comp]; rfl, htouch.mem, State.only_trans (State.only_mono (by decide) htouch.only) ?_⟩
  exact State.only_trans (State.only_mono (by decide) hput) (State.only_mono (by decide) (TouchKept.setWire _ _).only)

theorem AddKept.laAdd {s : State} (who : Option (Nat × Nat)) {key : Nat} (a : Addend)
    (hplaced : ∀ b, s.berthAt (s.handleOfKey key) = some b → s.placedAll (handleIndex (s.handleOfKey key)) (pagesTouched b.cls (key % 2 ^ 48) 48)) :
    AddKept s key a (s.laAdd who key a) := by
  rw [State.laAdd_eq]
  exact AddKept.ofTouch (TouchKept.touchForWrite none hplaced) who key a

theorem State.handleOfKey_setComp (s : State) (c : Comp) (key : Nat) : (s.setComp c).handleOfKey key = s.handleOfKey key := rfl

theorem State.spanFailed_setComp (s : State) (c : Comp) (h : BitVec 32) (ofs n : Nat) : (s.setComp c).spanFailed h ofs n = s.spanFailed h ofs n := rfl

/-- LA_ADDEND on placed pages that nothing holds, with room for the entry and memory clean: the addend leaves its way and is added. -/
theorem laAddend_eq {s : State} {i : Nat} {a : Flush} {b : Berth} (ha : s.comp.addends[i]? = some a) (hb : s.berthAt (s.handleOfKey a.key) = some b)
    (hplaced : s.placedAll (handleIndex (s.handleOfKey a.key)) (pagesTouched b.cls (a.key % 2 ^ 48) 48)) (hroom : s.laRoom a.key = true)
    (hheld : s.spanHeld (s.handleOfKey a.key) (a.key % 2 ^ 48) 48 = false) (hlost : s.spanLost (s.handleOfKey a.key) (a.key % 2 ^ 48) 48 = false)
    (hbad : s.recordBad a.key = false) (hclean : s.comp.las.has a.key = true ∨ s.mem.clean a.key 48 = true) :
    exec (.laAddend i) s = .next ((s.setComp { s.comp with addends := s.comp.addends.eraseIdx i }).laAdd
      (if a.core < noCore then some (a.core, a.bundle) else none) a.key a.val) := by
  have hfound : (s.setComp { s.comp with addends := s.comp.addends.eraseIdx i }).discover a.key (if s.comp.las.has a.key then 0 else 48) =
      s.setComp { s.comp with addends := s.comp.addends.eraseIdx i } := by
    rcases hclean with hhas | hclean
    · rw [if_pos hhas]
      exact State.discover_none _ _ _ fun e _ => by simp [touches]
    · split
      · exact State.discover_none _ _ _ fun e _ => by simp [touches]
      · exact State.discover_clean _ _ _ hclean
  have hbad' : (s.setComp { s.comp with addends := s.comp.addends.eraseIdx i }).recordBad a.key = false := by
    rw [State.recordBad, State.handleOfKey_setComp, State.spanFailed_setComp]
    exact hbad
  show execLaAddend i s = _
  simp only [execLaAddend, ha, hb, Option.isNone_some, Option.map_some, Option.getD_some, Bool.false_eq_true, if_false,
    State.placePages_placed hplaced _ (List.Subset.refl _), hfound, hroom, hheld, hlost, hbad', State.when, Bool.not_false, Bool.and_self, if_true]

/-! ### Records written back -/

theorem laWriteBack_answers {s : State} {key : Nat} {e : LaEntry} (he : s.comp.las.get? key = some e) (hwf : s.mem.wf = true) :
    Answers (exec (.laWriteBack key) s) fun t => t.comp = { s.comp with las := s.comp.las.drop key } ∧ s.bytesBut key 48 t ∧ s.only [.comp, .mem] t ∧
      ∀ i v, e.bytes[i]? = some v → cellGet t.mem.cells (key + i) = v := by
  show Answers (execLaWriteBack key s) _
  simp only [execLaWriteBack, he]
  have hlen := e.bytes_length
  generalize e.bytes = bs at hlen ⊢
  refine ⟨_, rfl, rfl, fun a ha => cellsPut_other _ _ _ _ (by rw [hlen]; exact ha), ⟨rfl, fun p hp => ?_⟩, fun i v hv => cellsPut_self bs _ _ i v hwf hv⟩
  cases p <;> simp [State.same, State.writeMem] at hp ⊢

/-! ### Translations -/

/-- A filled page is the most recently used of the eight ways of its set, and the others keep their order. -/
theorem State.tcFill_ways (s : State) (c : Nat) (h : BitVec 32) (page : Nat) : ∃ ways : List (BitVec 32 × Nat),
    (s.tcFill c h page).place.tcs.get? (tcKey c h page) = some ((h, page) :: ways) ∧ ways.length ≤ 7 ∧
    (∀ w ∈ ways, w ∈ s.place.tcs.getD (tcKey c h page) []) ∧ (h, page) ∉ ways := by
  refine ⟨((s.place.tcs.getD (tcKey c h page) []).filter (· != (h, page))).take 7, AMap.get?_put_self _ _ _, List.length_take_le _ _,
    fun w hw => (List.mem_filter.1 (List.mem_of_mem_take hw)).1, fun hmem => ?_⟩
  simpa using (List.mem_filter.1 (List.mem_of_mem_take hmem)).2

theorem State.only_tcFill (s : State) (c : Nat) (h : BitVec 32) (page : Nat) : s.only [.place] (s.tcFill c h page) := by
  refine ⟨rfl, fun p hp => ?_⟩
  cases p <;> simp [State.same, State.tcFill] at hp ⊢

theorem translationFill_eq {s : State} {c page : Nat} {h : BitVec 32} {b : Berth} {p : Page} (hc : s.inService c = true) (hb : s.berthAt h = some b)
    (hp : b.pages.get? page = some p) (hheld : p.held = false) : exec (.translationFill c h page) s = .next (s.tcFill c h page) := by
  show execTranslationFill c h page s = _
  simp [execTranslationFill, hb, hc, hp, hheld, State.when]

/-! ### The obligation -/

/-- Settles O10: each completion leaves by its own lemma what it leaves; the frame of a DMA's write is that of every write of a handle's bytes. -/
theorem memoryCompletes : Obligations.MemoryCompletes := by
  unfold Obligations.MemoryCompletes
  refine ⟨⟨?_, ?_, fun s k => ⟨fun x l => loadComplete_waits, fun x d => dmaComplete_waits⟩, fun s k n =>
    ⟨rfl, s.only_linkError k n, s.linkError_event k⟩⟩, ⟨?_, fun s key e he hwf => laWriteBack_answers he hwf⟩, ?_⟩
  · rintro s _ k x l rfl hl hcome
    obtain ⟨t, heq, ⟨honly, hcomp, hother⟩, hwrite, hfault⟩ := loadComplete_answers hl hcome
    exact ⟨t, heq, honly, hcomp, fun j hj => (hother j hj).trans (s.coreOf_linkError k _ j), hwrite, hfault⟩
  · intro s k x d hd hheld hcome
    obtain ⟨t, heq, ⟨hframe, hdmas, htags, hregs⟩, hwrite, hfault⟩ := dmaComplete_answers hd hheld hcome
    exact ⟨t, heq, hframe, hdmas, htags, hregs, fun hnone hlost hok hwf => s.dmaEnded_dmaWrite k x d hok hwf _ t (hwrite hnone hlost), hfault⟩
  · rintro s i a b _ _ _ rfl rfl rfl ha hb hpages hroom hheld hlost hbad hclean
    have hplaced : s.placedAll (handleIndex (s.handleOfKey a.key)) (pagesTouched b.cls (a.key % 2 ^ 48) 48) :=
      ⟨b, State.get?_of_berthAt hb, hpages⟩
    generalize hu : s.setComp { s.comp with addends := s.comp.addends.eraseIdx i } = u
    have hkept : AddKept u a.key a.val (u.laAdd (if a.core < noCore then some (a.core, a.bundle) else none) a.key a.val) := by
      refine AddKept.laAdd _ _ fun c hc => ?_
      subst hu
      obtain rfl : b = c := Option.some.inj (hb.symm.trans hc)
      exact hplaced
    refine ⟨_, by rw [laAddend_eq ha hb hplaced hroom hheld hlost hbad hclean, hu], ?_⟩
    obtain ⟨hcomp, hmem, honly⟩ := hkept
    subst hu
    refine ⟨by rw [hcomp]; rfl, by rw [hcomp]; exact AMap.get?_put_self _ _ _, fun j hj => by rw [hcomp]; exact AMap.get?_put_other _ _ _ _ hj,
      by rw [hcomp]; rfl, by rw [hmem]; rfl, State.only_trans (State.only_mono (by decide) (State.only_setComp s _)) honly⟩
  · intro s c page h b p hc hb hp hheld
    obtain ⟨ways, hset, hlen, hmem, hnot⟩ := s.tcFill_ways c h page
    exact ⟨_, translationFill_eq hc hb hp hheld, ways, hset, hlen, hmem, hnot, fun j hj => AMap.get?_put_other _ _ _ _ hj, s.only_tcFill c h page⟩

end Sys2Proof.Machine
end

section
/-! PROOFS. Weight tiles (R65, R68, R77, R78, R96): what ALDW makes of its core, and how the load completes. -/

namespace Sys2Proof.Machine

/-! ### Slots that read memory -/

/-- A slot that read memory, and after it changed its own core alone, makes its core what the effect made it. -/
theorem CoreMade.slotMakes_of_issue {s t u : State} {k : Nat} {c : Core} (h : CoreMade k s c u) (hissue : IssueKept k s t) (hrest : u = t.setComp u.comp)
    (sl : Nat) : s.slotMakes k c ((u.take k sl).finish k) := by
  obtain ⟨hwork, hcore⟩ := h.issue (IssueKept.takeFinish u k sl)
  have hend := IssueKept.takeFinish u k sl
  have honly : t.only [.comp] u := by rw [hrest]; exact State.only_setComp t _
  have hmem : u.mem = t.mem := by rw [hrest]; rfl
  refine ⟨hcore, hwork.comp, hwork.other, fun a => by rw [hwork.cells],
    State.only_trans hissue.only (State.only_trans (State.only_mono (by decide) honly) hend.only), fun hno => ?_⟩
  have herrors : u.mem.errors = [] := by rw [hmem, (hissue.noErrors hno).1, hno]
  exact State.only_trans (hissue.only_of_noErrors hno) (State.only_trans honly (hend.only_of_noErrors herrors))

/-! ### ALDW -/

/-- The tile that an ALDW names depends on the bytes of memory and on the bundle's index alone. -/
theorem aldwTile_congr {s t : State} {k : Nat} (hcells : t.mem.cells = s.mem.cells) (hpc : (t.coreOf k).pc = (s.coreOf k).pc) (bits : Nat) (r : Regs) :
    aldwTile t k bits r = aldwTile s k bits r := by
  simp only [aldwTile, Mem.read_congr hcells, hpc]

theorem aldw_answers {s : State} {k : Nat} (h : s.issues k 0 1 = true) (hready : s.arrayReady k = true) (hload : (s.coreOf k).loading = none) :
    Answers (exec (.aldw k) s) fun t =>
      s.slotMakes k { s.coreOf k with loading := some (aldwTile s k (s.bits k 0) (s.src k)), arrayAt := s.now, arrayGated := false } t := by
  show Answers (execAldw k s) _
  unfold execAldw
  extract_lets bits r
  refine State.slotStep_answers h (by rw [hready, hload]; rfl) ?_
  extract_lets t
  have hread : ErrKept (s.begin k) t := ErrKept.discover _ _ _
  have hissue : IssueKept k s t := (IssueKept.begin s k).trans (IssueKept.discover _ k _ _)
  have hcore : t.coreOf k = (s.begin k).coreOf k := by rw [State.coreOf, hread.comp, State.coreOf]
  have htile : aldwTile t k bits r = aldwTile s k bits r :=
    aldwTile_congr (s := s) hread.cells (by rw [hcore, State.coreOf_begin]) bits r
  have hnow : t.now = s.now := congrArg (·.counter.toNat) hread.clk
  refine CoreMade.slotMakes_of_issue ⟨((CoreWork.ofIssue hissue).trans (CoreWork.updCore t k _)).trans (CoreWork.updCore _ k _), ?_⟩ hissue rfl 0
  simp only [State.coreOf_updCore_self, State.updCore_now, hnow, htile, hcore, State.coreOf_begin]
  rfl

/-! ### The load completes -/

/-- A sparse tile that breaks the format has a first violating block (R77). -/
def WTile.badBlock (w : WTile) : Option Nat := if w.sparse then firstBadBlock w.fmt w.bytes else none

theorem WTile.badBlock_of_good {w : WTile} (h : w.sparse = false ∨ firstBadBlock w.fmt w.bytes = none) : w.badBlock = none := by
  rcases h with h | h <;> simp [WTile.badBlock, h]

/-- The load is over, and the tile is not yet the shadow tile. -/
def State.loadEnded (s : State) (k : Nat) : State := s.updCore k fun c => { c with loading := none }

theorem State.coreOf_loadEnded (s : State) (k : Nat) : (s.loadEnded k).coreOf k = { s.coreOf k with loading := none } :=
  State.coreOf_updCore_self s k _

/-- A load that completes makes its tile the shadow tile, or raises the fault of its bytes. -/
theorem shadowTileLoaded_eq {s : State} {k : Nat} {w : WTile} (h : (s.coreOf k).loading = some w) :
    exec (.shadowTileLoaded k) s = .next (if s.mem.poisoned (sramKey k w.addr) w.bytes.length then (s.loadEnded k).raise k ⟨7, 0, false, w.bundle, w.addr⟩
      else match w.badBlock with
        | some i => (s.loadEnded k).raise k ⟨5, 0, false, w.bundle, w.addr + i * 2 ^ 20⟩
        | none => (s.loadEnded k).updCore k fun c => { c with shadow := some w }) := by
  show execShadowTileLoaded k s = _
  unfold execShadowTileLoaded
  rw [h]
  rfl

theorem shadowTileLoaded_answers {s : State} {k : Nat} {w : WTile} (h : (s.coreOf k).loading = some w) :
    Answers (exec (.shadowTileLoaded k) s) fun t => s.coreFrame k t ∧
      (s.mem.poisoned (sramKey k w.addr) w.bytes.length = false → w.badBlock = none →
        t.coreOf k = { s.coreOf k with loading := none, shadow := some w }) ∧
      (s.mem.poisoned (sramKey k w.addr) w.bytes.length = true → (s.coreOf k).fault = none →
        t.coreOf k = { s.coreOf k with loading := none, fault := some ⟨7, 0, false, w.bundle, w.addr⟩ }) ∧
      ∀ b, s.mem.poisoned (sramKey k w.addr) w.bytes.length = false → w.badBlock = some b → (s.coreOf k).fault = none →
        t.coreOf k = { s.coreOf k with loading := none, fault := some ⟨5, 0, false, w.bundle, w.addr + b * 2 ^ 20⟩ } := by
  have hframe : ∀ f, s.coreFrame k ((s.loadEnded k).updCore k f) := fun f =>
    State.coreFrame_trans (State.coreFrame_updCore s k _) (State.coreFrame_updCore _ k f)
  have hraise : ∀ f, (s.coreOf k).fault = none → ((s.loadEnded k).raise k f).coreOf k = { s.coreOf k with loading := none, fault := some f } := by
    intro f hnone
    rw [State.coreOf_raise f (by rw [State.coreOf_loadEnded]; exact hnone), State.coreOf_loadEnded]
  refine ⟨_, shadowTileLoaded_eq h, ?_⟩
  cases hpoison : s.mem.poisoned (sramKey k w.addr) w.bytes.length with
  | true =>
    rw [if_pos rfl]
    exact ⟨hframe _, nofun, fun _ => hraise _, nofun⟩
  | false =>
    rw [if_neg Bool.false_ne_true]
    cases hbad : w.badBlock with
    | some i => exact ⟨hframe _, nofun, nofun, fun b _ hb hnone => Option.some.inj hb ▸ hraise _ hnone⟩
    | none => exact ⟨hframe _, fun _ _ => by simp [State.coreOf_loadEnded], nofun, nofun⟩

/-- An array that has been idle is gated. -/
theorem arrayGate_idle {s : State} {k : Nat} (hon : (s.coreOf k).arrayGated = false) (hidle : (s.coreOf k).arrayAt + 2 ≤ s.now) :
    exec (.arrayGate k) s = .next (s.setCore k { s.coreOf k with arrayGated := true }) := by
  show execArrayGate k s = _
  simp [execArrayGate, State.when, State.updCore, hon, hidle]

/-- What the issue of bundles keeps holds neither a weight tile nor the array's gate. -/
theorem Core.issued_tiles {c d : Core} (h : c.issued d) :
    d.arrayAt = c.arrayAt ∧ d.arrayGated = c.arrayGated ∧ d.active = c.active ∧ d.shadow = c.shadow := by
  have hbare : d.bare = c.bare := h
  have hat := congrArg Core.arrayAt hbare
  have hgated := congrArg Core.arrayGated hbare
  have hactive := congrArg Core.active hbare
  have hshadow := congrArg Core.shadow hbare
  exact ⟨hat, hgated, hactive, hshadow⟩

/-- What an AMUL makes of its core's weight tiles: the swap that it asks for, and nothing else (R65). -/
theorem Core.afterAmul_tiles (c : Core) (k bits : Nat) (r : Regs) (wt : WTile) (rows : List (List Byte)) (now : Nat) :
    (c.afterAmul k bits r wt rows now).arrayAt = now ∧ (c.afterAmul k bits r wt rows now).arrayGated = false ∧
      (c.afterAmul k bits r wt rows now).active = (c.swap bits).active ∧ (c.afterAmul k bits r wt rows now).shadow = (c.swap bits).shadow := by
  unfold Core.afterAmul
  extract_lets
  split <;> exact ⟨rfl, rfl, rfl, rfl⟩

theorem amul_swaps {s : State} {k : Nat} (h : s.issues k 0 2 = true) (hready : s.arrayReady k = true) (hload : (s.coreOf k).loading = none) :
    Answers (exec (.amul k) s) fun t => (t.coreOf k).arrayAt = s.now ∧ (t.coreOf k).arrayGated = false ∧
      (t.coreOf k).active = ((s.coreOf k).swap (s.bits k 0)).active ∧ (t.coreOf k).shadow = ((s.coreOf k).swap (s.bits k 0)).shadow := by
  obtain ⟨t, hexec, ⟨hcore, _⟩, _⟩ := amul_answers h hready (by rw [hload]; exact Bool.and_false _) rfl rfl
  obtain ⟨hat, hgated, hactive, hshadow⟩ := Core.issued_tiles hcore
  obtain ⟨at', gated', active', shadow'⟩ := Core.afterAmul_tiles (s.coreOf k) k (s.bits k 0) (s.src k) _ _ s.now
  exact ⟨t, hexec, hat.trans at', hgated.trans gated', hactive.trans active', hshadow.trans shadow'⟩

/-- Settles O13: ALDW by what it makes of its core, AMUL's swap by `Core.afterAmul`, and the load's end by the bytes that it brought. -/
theorem weightTiles : Obligations.WeightTiles := by
  refine ⟨fun s k h hready hload => aldw_answers h hready hload, fun s k h hready hload => ?_, fun s k w hload => ?_,
    fun s k hon hidle => arrayGate_idle hon hidle⟩
  · obtain ⟨t, hexec, hat, hgated, hactive, hshadow⟩ := amul_swaps h hready hload
    rw [Core.swap] at hactive hshadow
    refine ⟨t, hexec, hat, hgated, fun hswap => ?_, fun hswap => ?_⟩
    · rw [if_pos hswap] at hactive hshadow
      exact ⟨hactive, hshadow⟩
    · rw [if_neg (by rw [hswap]; exact Bool.false_ne_true)] at hactive hshadow
      exact ⟨hactive, hshadow⟩
  · obtain ⟨t, hexec, ⟨honly, hcomp, hother⟩, hgood, hpoison, hbad⟩ := shadowTileLoaded_answers hload
    exact ⟨t, hexec, honly, hcomp, hother, fun hclean hform => hgood hclean (WTile.badBlock_of_good hform), hpoison,
      fun b hclean hsparse hfirst => hbad b hclean (by rw [WTile.badBlock, if_pos hsparse, hfirst])⟩

end Sys2Proof.Machine
end

section
/-! PROOFS. The bytes that a core writes (R85, R101, R109, R145): what finding errors leaves of the memory's marks and of the jobs, that a write of a
handle's bytes depends on memory alone, and what the rows of an out-path operation leave alone. -/

namespace Sys2Proof.Machine

/-! ### What finding errors leaves -/

/-- What the random words of a job are drawn from: its seed and its step (R55, R102). -/
def Job.draw (j : Job) : W64 × W64 := (j.seed, j.step)

/-- What finding errors leaves, beside what `ErrKept` lists: the keys of compressed tiles, and what the jobs draw their random words from. -/
structure ErrMarked (s t : State) : Prop where
  tiles : t.mem.tiles = s.mem.tiles
  jobs : ∀ i, (t.cmd.jobs.get? i).map Job.draw = (s.cmd.jobs.get? i).map Job.draw

theorem ErrMarked.refl (s : State) : ErrMarked s s := ⟨rfl, fun _ => rfl⟩

theorem ErrMarked.trans {s t u : State} (h : ErrMarked s t) (g : ErrMarked t u) : ErrMarked s u :=
  ⟨g.tiles.trans h.tiles, fun i => (g.jobs i).trans (h.jobs i)⟩

theorem ErrMarked.ite {s t u : State} {c : Prop} [Decidable c] (h : ErrMarked s t) (g : ErrMarked s u) : ErrMarked s (if c then t else u) := by
  split
  · exact h
  · exact g

theorem ErrMarked.setChip {s t : State} (h : ErrMarked s t) (c : Chip) : ErrMarked s (t.setChip c) := ⟨h.tiles, h.jobs⟩

theorem ErrMarked.setLedger {s t : State} (h : ErrMarked s t) (l : Ledger) : ErrMarked s (t.setLedger l) := ⟨h.tiles, h.jobs⟩

theorem ErrMarked.updCore {s t : State} (h : ErrMarked s t) (k : Nat) (f : Core → Core) : ErrMarked s (t.updCore k f) := ⟨h.tiles, h.jobs⟩

theorem ErrMarked.moveShare {s t : State} (h : ErrMarked s t) (stack group : Nat) : ErrMarked s (t.moveShare stack group) := by
  unfold State.moveShare
  split
  · exact h
  · split
    · exact h.setChip _
    · exact h

theorem ErrMarked.startRetirePc {s t : State} (h : ErrMarked s t) (stack pc : Nat) : ErrMarked s (t.startRetirePc stack pc) := by
  unfold State.startRetirePc
  split
  · exact h
  · exact (ErrMarked.ite (h.setChip _) ((h.setChip _).setChip _)).moveShare _ _

theorem ErrMarked.rowFailed {s t : State} (h : ErrMarked s t) (stack pc block : Nat) : ErrMarked s (t.rowFailed stack pc block) :=
  ErrMarked.ite (h.startRetirePc stack pc) (h.setChip _)

/-- A fault event counts in every job, and changes neither its seed nor its step. -/
theorem ErrMarked.fault (s : State) (cls : Nat) (ut : Option Nat) (u : BitVec 32) (port outcome : Nat) (inj : Bool) :
    ErrMarked s (s.fault cls ut u port outcome inj) := by
  have hcount : (s.fault cls ut u port outcome inj).cmd.jobs = s.cmd.jobs.mapVals fun _ j => { j with evts := j.evts + 1 } := by
    unfold State.fault
    dsimp only
    split <;> rfl
  refine ⟨?_, fun i => ?_⟩
  · unfold State.fault
    dsimp only
    split <;> rfl
  · rw [hcount, AMap.get?_mapVals, Option.map_map]
    rfl

theorem ErrMarked.blockError (s : State) (u : MemUnit) (b code : Nat) : ErrMarked s (s.blockError u b code) := by
  have hdrop : ErrMarked s (s.setMem { s.mem with errors := s.mem.errors.drop b }) := ⟨rfl, fun _ => rfl⟩
  have hpoison : ∀ t : State, ErrMarked t (if code % 4 = 2 then t.setMem (t.mem.addPoison b) else t) := fun t =>
    ErrMarked.ite ⟨rfl, fun _ => rfl⟩ (ErrMarked.refl t)
  unfold State.blockError
  dsimp only
  refine (hdrop.trans (hpoison _)).trans ?_
  simp only
  generalize (if code % 4 = 2 then State.setMem _ _ else _ : State) = t
  cases u with
  | hbm stack pc =>
    have hcount := ErrMarked.fault t (if code % 4 = 2 then 2 else 1) utPc (pcUnit stack pc) 0 (if code % 4 = 2 then 1 else 0) (decide (4 ≤ code))
    -- every branch counts the error in the stack and its pseudo-channel, and some repair a row or retire the pseudo-channel
    refine ErrMarked.ite (ErrMarked.ite ?_ (ErrMarked.rowFailed ?_ _ _ _))
        (ErrMarked.ite ?_ (ErrMarked.ite (ErrMarked.startRetirePc (ErrMarked.ite (ErrMarked.rowFailed ?_ _ _ _) ?_) _ _)
          (ErrMarked.ite (ErrMarked.rowFailed ?_ _ _ _) ?_))) <;>
      exact ((hcount.setLedger _).setChip _).setChip _
  | harbour c bank =>
    have hcount := ErrMarked.fault t 3 utCluster (clusterUnit c) 0 (if code % 4 = 2 then 1 else 0) (decide (4 ≤ code))
    exact ErrMarked.ite (hcount.setChip _) (hcount.setChip _)
  | core k => exact ErrMarked.fault t _ _ _ _ _ _
  | elsewhere => exact ErrMarked.refl t

theorem ErrMarked.foldl {α : Type} {f : State → α → State} (h : ∀ s x, ErrMarked s (f s x)) (l : List α) (s : State) : ErrMarked s (l.foldl f s) := by
  induction l generalizing s with
  | nil => exact ErrMarked.refl s
  | cons x l ih => exact (h s x).trans (ih _)

theorem ErrMarked.discover (s : State) (key n : Nat) : ErrMarked s (s.discover key n) :=
  ErrMarked.foldl (fun s _ => ErrMarked.blockError s _ _ _) _ s

/-- Going on at the next bundle finds the errors of its block. -/
theorem ErrMarked.takeFinish (s : State) (k sl : Nat) : ErrMarked s ((s.take k sl).finish k) := by
  have htake : ErrMarked s (s.take k sl) := (ErrMarked.refl s).updCore k _
  refine htake.trans ?_
  generalize s.take k sl = t
  unfold State.finish
  split
  · exact ErrMarked.refl t
  · refine ErrMarked.ite ?_ (ErrMarked.refl t)
    unfold State.arrive
    dsimp only
    split
    · exact ((ErrMarked.refl t).updCore k _).updCore k _
    · refine ErrMarked.ite (ErrMarked.updCore ?_ k _) ?_ <;> exact ((ErrMarked.refl t).updCore k _).trans (ErrMarked.discover _ _ _)

/-! ### The rows that an out-path operation computes -/

theorem State.launchOf_congr {s t : State} (h : t.comp = s.comp) (k : Nat) : t.launchOf k = s.launchOf k := by
  simp only [State.launchOf, State.instOf, State.coreOf, h]

theorem State.launchOf_begin (s : State) (k : Nat) : (s.begin k).launchOf k = s.launchOf k := by
  simp only [State.launchOf, State.instOf, State.coreOf_begin]
  rfl

theorem State.outRandom_congr {s t : State} {k : Nat} (hlaunch : t.launchOf k = s.launchOf k)
    (hjobs : ∀ i, (t.cmd.jobs.get? i).map Job.draw = (s.cmd.jobs.get? i).map Job.draw) (r : Regs) (bits row c : Nat) :
    t.outRandom k r bits row c = s.outRandom k r bits row c := by
  have hjob : (t.jobOf k).map Job.draw = (s.jobOf k).map Job.draw := by
    rw [State.jobOf, State.jobOf, hlaunch]
    cases s.launchOf k with
    | none => rfl
    | some l => exact hjobs l.job
  unfold State.outRandom
  cases hs : s.jobOf k with
  | none =>
    rw [hs, Option.map_none, Option.map_eq_none_iff] at hjob
    rw [hjob]
  | some j =>
    rw [hs, Option.map_some, Option.map_eq_some_iff] at hjob
    obtain ⟨j', ht, hdraw⟩ := hjob
    simp only [Job.draw, Prod.mk.injEq] at hdraw
    simp only [ht, hdraw]

theorem State.laEntry_congr {s t : State} (hlas : t.comp.las = s.comp.las) (hcells : t.mem.cells = s.mem.cells) (key : Nat) :
    t.laEntry key = s.laEntry key := by
  simp only [State.laEntry, hlas, Mem.word, Mem.read_congr hcells]

/-- The rows depend on the records, on the registers and on what the job draws from. -/
theorem State.outRows_congr {s t : State} {k : Nat} (hlas : t.comp.las = s.comp.las) (hcells : t.mem.cells = s.mem.cells)
    (hlaunch : t.launchOf k = s.launchOf k) (hjobs : ∀ i, (t.cmd.jobs.get? i).map Job.draw = (s.cmd.jobs.get? i).map Job.draw)
    (op bits : Nat) (r : Regs) : t.outRows k op bits r = s.outRows k op bits r := by
  have hrandom : t.outRandom k r bits = s.outRandom k r bits := funext fun row => funext fun c => State.outRandom_congr hlaunch hjobs r bits row c
  simp only [State.outRows, State.laEntry_congr hlas hcells, hrandom]

/-! ### Heat changes no page's state -/

theorem State.berthAt_updBerth (s : State) (i : Nat) {f : Berth → Berth} (hgen : ∀ b, (f b).gen = b.gen) (h : BitVec 32) :
    (s.updBerth i f).berthAt h = if handleIndex h = i then (s.berthAt h).map f else s.berthAt h := by
  unfold State.updBerth
  cases hb : s.place.berths.get? i with
  | none =>
    by_cases hi : handleIndex h = i
    · simp [State.berthAt, hi, hb]
    · rw [if_neg hi]
  | some b =>
    by_cases hi : handleIndex h = i
    · subst hi
      simp only [State.berthAt, State.putBerth, State.setPlace_place, AMap.get?_put_self, hb, hgen, if_true]
      split_ifs <;> rfl
    · simp only [State.berthAt, State.putBerth, State.setPlace_place, AMap.get?_put_other _ _ _ _ hi, if_neg hi]

/-- Counting heat on some pages keeps what holds of a page whatever its heat. -/
theorem heatStep_any {f : Page → Bool} (step : Nat → Page → Page) (hf : ∀ p x, f (step p x) = f x) {add : AMap Page → Nat → AMap Page}
    (hadd : ∀ m p, add m p = ((m.get? p).map fun x => m.put p (step p x)).getD m) (ps : List Nat) (m : AMap Page) (q : Nat) :
    ((ps.foldl add m).get? q).any f = (m.get? q).any f := by
  induction ps generalizing m with
  | nil => rfl
  | cons p ps ih =>
    rw [List.foldl_cons, ih, hadd]
    cases hp : m.get? p with
    | none => rfl
    | some x =>
      by_cases hq : q = p
      · subst hq; simp [hp, hf]
      · simp [AMap.get?_put_other _ _ _ _ hq]

theorem State.anyPage_heatPages (s : State) (who : Option Nat) (h : BitVec 32) (ofs n : Nat) {f : Page → Bool} (hf : ∀ x die m, f (Page.heat x die m) = f x)
    (x : BitVec 32) (o m : Nat) : (s.heatPages who h ofs n).anyPage x o m f = s.anyPage x o m f := by
  unfold State.anyPage State.heatPages
  rw [State.berthAt_updBerth s _ (by exact fun _ => rfl)]
  by_cases hx : handleIndex x = handleIndex h
  · rw [if_pos hx]
    cases s.berthAt x with
    | none => rfl
    | some b =>
      refine congrArg (List.any _) (funext fun q => ?_)
      exact heatStep_any (fun p y => y.heat (accessDie who y) (bytesInPage b.cls ofs n p)) (fun _ _ => hf _ _ _)
        (fun m p => by cases m.get? p <;> rfl) _ b.pages q
  · rw [if_neg hx]

theorem State.heatAll_eq (who : Option Nat) (h : BitVec 32) (n : Nat) (os : List Nat) (s : State) :
    ∃ p, os.foldl (fun t o => t.heatPages who h o n) s = s.setPlace p := by
  induction os generalizing s with
  | nil => exact ⟨s.place, rfl⟩
  | cons o os ih =>
    obtain ⟨p, hp⟩ := ih (s.heatPages who h o n)
    refine ⟨p, hp.trans ?_⟩
    unfold State.heatPages State.updBerth
    split <;> rfl

theorem State.spanLost_heatAll (who : Option Nat) (h : BitVec 32) (n : Nat) (os : List Nat) (s : State) (x : BitVec 32) (o m : Nat) :
    (os.foldl (fun t o => t.heatPages who h o n) s).spanLost x o m = s.spanLost x o m := by
  induction os generalizing s with
  | nil => rfl
  | cons o' os ih =>
    rw [List.foldl_cons, ih]
    refine State.anyPage_heatPages s who h o' n (fun y die i => ?_) x o m
    unfold Page.heat
    split <;> rfl

theorem State.spanLost_congr {s t : State} (h : t.place = s.place) (x : BitVec 32) (o m : Nat) : t.spanLost x o m = s.spanLost x o m := by
  simp only [State.spanLost, State.anyPage, State.berthAt, h]

end Sys2Proof.Machine
end

section
/-! PROOFS. The rows of an out-path operation as bytes (R85, R101, R110): the writes of a handle's bytes, what they depend on and what they leave alone. -/

namespace Sys2Proof.Machine

/-! ### What a write of a handle's bytes depends on -/

/-- Two states hold the same bytes, records and berth generations. -/
structure SameBytes (s t : State) : Prop where
  cells : t.mem.cells = s.mem.cells
  las : t.comp.las = s.comp.las
  gens : ∀ i, (t.place.berths.get? i).map Berth.gen = (s.place.berths.get? i).map Berth.gen

theorem SameBytes.refl (s : State) : SameBytes s s := ⟨rfl, rfl, fun _ => rfl⟩

theorem SameBytes.trans {s t u : State} (h : SameBytes s t) (g : SameBytes t u) : SameBytes s u :=
  ⟨g.cells.trans h.cells, g.las.trans h.las, fun i => (g.gens i).trans (h.gens i)⟩

theorem SameBytes.symm {s t : State} (h : SameBytes s t) : SameBytes t s := ⟨h.cells.symm, h.las.symm, fun i => (h.gens i).symm⟩

theorem PlaceKept.sameBytes {s t : State} (h : PlaceKept s t) : SameBytes s t := ⟨by rw [h.mem], by rw [h.comp], h.gens⟩

theorem State.writeRuns_cells {s t : State} (h : t.mem.cells = s.mem.cells) (l : List (Nat × List Byte)) :
    (t.writeRuns l).mem.cells = (s.writeRuns l).mem.cells := by
  induction l generalizing s t with
  | nil => exact h
  | cons r l ih => exact ih (congrArg (fun c => cellsPut c r.1 r.2) h)

theorem SameBytes.laEvict {s t : State} (h : SameBytes s t) (key n : Nat) : SameBytes (s.laEvict key n) (t.laEvict key n) := by
  rw [State.laEvict_eq, State.laEvict_eq]
  refine ⟨?_, congrArg (fun m : AMap LaEntry => m.keep fun e _ => !recordMeets e key n) h.las, h.gens⟩
  simp only [State.setComp_mem, State.setMem_mem, State.laSync_eq, h.las]
  exact State.writeRuns_cells h.cells _

theorem SameBytes.store {s t : State} (h : SameBytes s t) (key : Nat) (bs : List Byte) : SameBytes (s.store key bs) (t.store key bs) :=
  ⟨by rw [State.store_cells, State.store_cells, h.cells], by rw [State.store_comp, State.store_comp, h.las],
    fun i => ((WriteKept.store t key bs).gens i).trans ((h.gens i).trans ((WriteKept.store s key bs).gens i).symm)⟩

/-! ### Runs of bytes -/

/-- The runs of some bytes lie where the bytes lie. -/
theorem runsOf_within (bs : List (Option Byte)) (at_ : Nat) : ∀ r ∈ runsOf at_ bs, at_ ≤ r.1 ∧ r.1 + r.2.length ≤ at_ + bs.length := by
  induction bs generalizing at_ with
  | nil => exact nofun
  | cons b bs ih =>
    have hrest := ih (at_ + 1)
    cases b with
    | none =>
      intro r hr
      have := hrest r hr
      rw [List.length_cons]
      omega
    | some v =>
      simp only [runsOf]
      generalize runsOf (at_ + 1) bs = l at hrest ⊢
      cases l with
      | nil => simp
      | cons c l =>
        obtain ⟨o, run⟩ := c
        have hhead := hrest (o, run) List.mem_cons_self
        have htail : ∀ r ∈ l, at_ ≤ r.1 ∧ r.1 + r.2.length ≤ at_ + (some v :: bs).length := by
          intro r hr
          have := hrest r (List.mem_cons_of_mem _ hr)
          rw [List.length_cons]
          omega
        by_cases ho : o = at_ + 1
        · simp only [if_pos ho, List.forall_mem_cons]
          simp only [List.length_cons] at hhead htail ⊢
          exact ⟨by omega, htail⟩
        · simp only [if_neg ho, List.forall_mem_cons]
          simp only [List.length_cons, List.length_nil] at hhead htail ⊢
          exact ⟨by omega, by omega, htail⟩

/-- Runs stored one after another. -/
def State.storeRuns (s : State) (l : List (Nat × List Byte)) : State := l.foldl (fun s r => s.store r.1 r.2) s

theorem SameBytes.storeRuns {s t : State} (h : SameBytes s t) (l : List (Nat × List Byte)) : SameBytes (s.storeRuns l) (t.storeRuns l) := by
  induction l generalizing s t with
  | nil => exact h
  | cons r l ih => exact ih (h.store r.1 r.2)

/-- What keeps all but a span keeps all but a wider one. -/
theorem WriteKept.widen {s t : State} {key n at_ m : Nat} (h : WriteKept s key n t) (hlo : at_ ≤ key) (hhi : key + n ≤ at_ + m) :
    WriteKept s at_ m t where
  comp := h.comp
  las := h.las
  only := h.only
  gens := h.gens
  wf := h.wf
  other a ha hoff := by
    refine h.other a (by omega) fun e he hmeets => hoff e he ?_
    simp only [recordMeets, Bool.and_eq_true, decide_eq_true_eq] at hmeets ⊢
    omega

theorem WriteKept.refl (s : State) (key n : Nat) : WriteKept s key n s := (PlaceKept.refl s).writeKept key n

theorem WriteKept.storeRuns {key n : Nat} (l : List (Nat × List Byte)) (s : State) (h : ∀ r ∈ l, key ≤ r.1 ∧ r.1 + r.2.length ≤ key + n) :
    WriteKept s key n (s.storeRuns l) := by
  induction l generalizing s with
  | nil => exact WriteKept.refl s key n
  | cons r l ih =>
    obtain ⟨⟨hlo, hhi⟩, htail⟩ := List.forall_mem_cons.1 h
    exact ((WriteKept.store s r.1 r.2).widen hlo hhi).trans (ih _ htail)

/-! ### Writing a span of which some bytes may be absent -/

/-- A handle's span made ready for some bytes: its pages, the records that meet it, and what leaves the module. -/
def State.readied (s : State) (k : Nat) (h : BitVec 32) (ofs : Nat) (bs : List (Option Byte)) : State :=
  if h = 0 then s else ((s.touchForWrite (some k) h ofs bs.length).laEvict (spanKey k h ofs) bs.length).wantWrite (some k) h ofs bs

theorem State.writeSpanOpt_eq (s : State) (k : Nat) (h : BitVec 32) (ofs : Nat) (bs : List (Option Byte)) :
    s.writeSpanOpt (some k) h ofs bs =
      if h != 0 && (s.berthAt h).isNone then s else (s.readied k h ofs bs).storeRuns (runsOf (spanKey k h ofs) bs) := rfl

theorem State.writeSpan_eq (s : State) (k : Nat) (h : BitVec 32) (ofs : Nat) (bs : List Byte) :
    s.writeSpan (some k) h ofs bs =
      if h != 0 && (s.berthAt h).isNone then s else (s.readied k h ofs (bs.map some)).store (spanKey k h ofs) bs := by
  rw [State.readied, List.length_map]
  rfl

theorem SameBytes.wantWrite {s t : State} (h : SameBytes s t) (who : Option Nat) (x : BitVec 32) (ofs : Nat) (bs : List (Option Byte)) :
    SameBytes (s.wantWrite who x ofs bs) (t.wantWrite who x ofs bs) := by
  rw [State.wantWrite_eq s, State.wantWrite_eq t]
  exact ⟨h.cells, h.las, h.gens⟩

theorem SameBytes.readied {s t : State} (h : SameBytes s t) (k : Nat) (x : BitVec 32) (ofs : Nat) (bs : List (Option Byte)) :
    SameBytes (s.readied k x ofs bs) (t.readied k x ofs bs) := by
  unfold State.readied
  split
  · exact h
  · have htouch := (PlaceKept.touchForWrite s (some k) x ofs bs.length).sameBytes.symm.trans
      (h.trans (PlaceKept.touchForWrite t (some k) x ofs bs.length).sameBytes)
    exact (htouch.laEvict _ _).wantWrite _ _ _ _

theorem WriteKept.readied (s : State) (k : Nat) (h : BitVec 32) (ofs : Nat) (bs : List (Option Byte)) :
    WriteKept s (spanKey k h ofs) bs.length (s.readied k h ofs bs) := by
  unfold State.readied
  split
  · exact WriteKept.refl s _ _
  · rw [State.wantWrite_eq]
    exact (((PlaceKept.touchForWrite s (some k) h ofs bs.length).writeKept _ _).trans (WriteKept.laEvict _ _ _)).trans (WriteKept.setWire _ _ _ _)

theorem SameBytes.isNone {s t : State} (h : SameBytes s t) (x : BitVec 32) : (t.berthAt x).isNone = (s.berthAt x).isNone := by
  rw [← Option.not_isSome, ← Option.not_isSome, State.berthAt_isSome_of_gens h.gens]

theorem SameBytes.writeSpanOpt {s t : State} (h : SameBytes s t) (k : Nat) (x : BitVec 32) (ofs : Nat) (bs : List (Option Byte)) :
    SameBytes (s.writeSpanOpt (some k) x ofs bs) (t.writeSpanOpt (some k) x ofs bs) := by
  rw [State.writeSpanOpt_eq, State.writeSpanOpt_eq, h.isNone]
  split
  · exact h
  · exact (h.readied k x ofs bs).storeRuns _

theorem SameBytes.writeSpan {s t : State} (h : SameBytes s t) (k : Nat) (x : BitVec 32) (ofs : Nat) (bs : List Byte) :
    SameBytes (s.writeSpan (some k) x ofs bs) (t.writeSpan (some k) x ofs bs) := by
  rw [State.writeSpan_eq, State.writeSpan_eq, h.isNone]
  split
  · exact h
  · exact (h.readied k x ofs _).store _ bs

theorem WriteKept.writeSpanOpt (s : State) (k : Nat) (h : BitVec 32) (ofs : Nat) (bs : List (Option Byte)) :
    WriteKept s (spanKey k h ofs) bs.length (s.writeSpanOpt (some k) h ofs bs) := by
  rw [State.writeSpanOpt_eq]
  split
  · exact WriteKept.refl s _ _
  · exact (WriteKept.readied s k h ofs bs).trans (WriteKept.storeRuns _ _ (runsOf_within bs _))

/-! ### The length of a plain row -/

theorem outBits_le (fmt : Nat) : outBits fmt ≤ 64 := by
  unfold outBits elemBits
  split
  · exact Nat.le_refl 64
  · split <;> decide

/-- A row of 128 columns and at most four block scales takes at most 1,032 bytes. -/
theorem OutRow.plain_length {x : OutRow} (henc : x.enc.length = 128) (hscales : x.scales.length ≤ 4) (fmt : Nat) (old : List Byte) :
    (x.plain fmt old).length ≤ 1032 := by
  unfold OutRow.plain
  extract_lets els
  have hels : els.length ≤ 1024 := by
    simp only [els]
    split
    · simp
    · have hbits := outBits_le fmt
      rw [List.length_flatMap, List.map_congr_left (g := fun _ => outBits fmt / 8) fun e _ => by cases e <;> simp [leBytes_length]]
      simp only [List.map_const', List.sum_replicate, smul_eq_mul, henc]
      omega
  rw [List.length_append, List.length_map]
  omega

theorem OutCfg.row_length (g : OutCfg) (la : Bool) (v : Nat → Val) (w : Nat → Nat) :
    (g.row la v w).enc.length = 128 ∧ (g.row la v w).scales.length ≤ 4 := by
  unfold OutCfg.row
  dsimp only
  split
  · simp
  · split <;> simp

theorem State.outRows_length {s : State} {k op bits : Nat} {r : Regs} {x : OutRow} (h : x ∈ s.outRows k op bits r) :
    x.enc.length = 128 ∧ x.scales.length ≤ 4 := by
  obtain ⟨row, _, rfl⟩ := List.mem_map.1 h
  exact OutCfg.row_length _ _ _ _

/-! ### What an out-path operation writes -/

/-- From `s` to `t` bytes of some spans were written: no long-accumulator entry comes into use, and bytes outside the spans and the records written back stay. -/
structure SpansKept (s : State) (spans : List (Nat × Nat)) (t : State) : Prop where
  comp : t.comp = { s.comp with las := t.comp.las }
  las : ∀ e ∈ t.comp.las, e ∈ s.comp.las
  only : s.only [.comp, .mem, .health, .chip, .cmd, .place, .net, .free] t
  other : ∀ a, (∀ x ∈ spans, (a < x.1 ∨ x.1 + x.2 ≤ a) ∧ s.offRecords x.1 x.2 a) → cellGet t.mem.cells a = cellGet s.mem.cells a

theorem WriteKept.spansKept {s t : State} {key n : Nat} (h : WriteKept s key n t) : SpansKept s [(key, n)] t where
  comp := h.comp
  las := h.las
  only := h.only
  other a ha := h.other a (ha _ List.mem_cons_self).1 (ha _ List.mem_cons_self).2

theorem SpansKept.nil (s : State) : SpansKept s [] s where
  comp := rfl
  las _ he := he
  only := (WriteKept.refl s 0 0).only
  other _ _ := rfl

theorem SpansKept.cons {s t u : State} {key n : Nat} {spans : List (Nat × Nat)} (h : WriteKept s key n t) (g : SpansKept t spans u) :
    SpansKept s ((key, n) :: spans) u where
  comp := by rw [g.comp, h.comp]
  las e he := h.las e (g.las e he)
  only := State.only_trans h.only g.only
  other a ha := by
    obtain ⟨⟨hout, hoff⟩, hrest⟩ := List.forall_mem_cons.1 ha
    rw [g.other a fun x hx => ⟨(hrest x hx).1, State.offRecords_mono h.las (hrest x hx).2⟩, h.other a hout hoff]

theorem SpansKept.coreOf {s t : State} {spans : List (Nat × Nat)} (h : SpansKept s spans t) (j : Nat) : t.coreOf j = s.coreOf j := by
  rw [State.coreOf, h.comp, State.coreOf]

theorem SpansKept.accessFrame {s t : State} {spans : List (Nat × Nat)} (h : SpansKept s spans t) (k : Nat) : s.accessFrame k t := by
  refine ⟨fun j _ => h.coreOf j, ?_, State.only_mono (by decide) h.only⟩
  have hcores : t.comp.cores = s.comp.cores := by rw [h.comp]
  rw [hcores]
  exact h.comp

/-- Plain rows written one after another, each with its number (R101). -/
def State.writeRows (s : State) (k bits : Nat) (r : Regs) (l : List (OutRow × Nat)) : State :=
  l.foldl (fun t x =>
    t.writeSpanOpt (some k) (genHandle (r.gr (fld bits 52 50))) (genAddr (r.gr (fld bits 52 50)) + (x.2 : Int) * genStride0 (r.gr (fld bits 52 50))).toNat
      (x.1.plain (outCfg r bits).fmt (t.mem.read (outRowKey k bits r x.2) 64))) s

/-- A compressed tile written at GD's address (R85, R101). -/
def State.writeTile (s : State) (k bits : Nat) (r : Regs) (rows : List OutRow) : State :=
  s.writeSpan (some k) (genHandle (r.gr (fld bits 52 50))) (genAddr (r.gr (fld bits 52 50))).toNat
    (compressRows (outCfg r bits).fmt (outCfg r bits).cols rows)

theorem outRowKey_zero (k bits : Nat) (r : Regs) :
    outRowKey k bits r 0 = spanKey k (genHandle (r.gr (fld bits 52 50))) (genAddr (r.gr (fld bits 52 50))).toNat := by
  simp [outRowKey]

theorem State.outWrite_plain {bits : Nat} (h : outCompressed bits = false) (s : State) (k : Nat) (r : Regs) (rows : List OutRow) :
    s.outWrite k bits r rows = s.writeRows k bits r rows.zipIdx := by
  unfold State.outWrite
  extract_lets
  rw [if_neg (by rw [h]; exact Bool.false_ne_true)]
  rfl

theorem State.outWrite_compressed {bits : Nat} (h : outCompressed bits = true) (s : State) (k : Nat) (r : Regs) (rows : List OutRow) :
    s.outWrite k bits r rows = (s.writeTile k bits r rows).setMem
      { (s.writeTile k bits r rows).mem with tiles := outRowKey k bits r 0 :: (s.writeTile k bits r rows).mem.tiles } := by
  unfold State.outWrite
  extract_lets
  rw [if_pos h, outRowKey_zero]
  rfl

theorem SameBytes.outWrite {s t : State} (h : SameBytes s t) (k bits : Nat) (r : Regs) (rows : List OutRow) :
    (t.outWrite k bits r rows).mem.cells = (s.outWrite k bits r rows).mem.cells := by
  cases hform : outCompressed bits with
  | true =>
    rw [State.outWrite_compressed hform, State.outWrite_compressed hform]
    exact (h.writeSpan k _ _ _).cells
  | false =>
    rw [State.outWrite_plain hform, State.outWrite_plain hform]
    generalize rows.zipIdx = l
    induction l generalizing s t with
    | nil => exact h.cells
    | cons x l ih =>
      refine ih ?_
      dsimp only
      rw [Mem.read_congr h.cells]
      exact h.writeSpanOpt k _ _ _

/-- The spans of an out-path operation: its tile, or its rows. -/
def outSpans (k bits : Nat) (r : Regs) (rows : List OutRow) : List (Nat × Nat) :=
  if outCompressed bits = true then [(outRowKey k bits r 0, (compressRows (outCfg r bits).fmt (outCfg r bits).cols rows).length)]
  else (List.range rows.length).map fun i => (outRowKey k bits r i, 1032)

theorem SpansKept.writeRows {k bits : Nat} {r : Regs} (l : List (OutRow × Nat)) (s : State)
    (h : ∀ x ∈ l, x.1.enc.length = 128 ∧ x.1.scales.length ≤ 4) :
    SpansKept s (l.map fun x => (outRowKey k bits r x.2, 1032)) (s.writeRows k bits r l) := by
  induction l generalizing s with
  | nil => exact SpansKept.nil s
  | cons x l ih =>
    obtain ⟨⟨henc, hscales⟩, htail⟩ := List.forall_mem_cons.1 h
    refine SpansKept.cons ?_ (ih _ htail)
    exact (WriteKept.writeSpanOpt s k _ _ _).widen (Nat.le_refl _) (Nat.add_le_add_left (OutRow.plain_length henc hscales _ _) _)

theorem SpansKept.outWrite (s : State) (k bits : Nat) (r : Regs) {rows : List OutRow} (h : ∀ x ∈ rows, x.enc.length = 128 ∧ x.scales.length ≤ 4) :
    SpansKept s (outSpans k bits r rows) (s.outWrite k bits r rows) := by
  unfold outSpans
  cases hform : outCompressed bits with
  | true =>
    rw [if_pos rfl, State.outWrite_compressed hform]
    obtain ⟨hcomp, hlas, ⟨hpending, hsame⟩, hother⟩ : SpansKept s _ (s.writeTile k bits r rows) := (WriteKept.writeSpan s k _ _ _).spansKept
    rw [outRowKey_zero]
    refine ⟨hcomp, hlas, ⟨hpending, fun p hp => State.same_trans (hsame p hp) ?_⟩, hother⟩
    cases p <;> simp [State.same] at hp ⊢
  | false =>
    rw [if_neg Bool.false_ne_true, State.outWrite_plain hform]
    have hnumbers : List.range rows.length = rows.zipIdx.map Prod.snd := by rw [List.zipIdx_map_snd, List.range_eq_range']
    rw [hnumbers, List.map_map]
    exact SpansKept.writeRows rows.zipIdx s fun x hx => h x.1 (List.fst_mem_of_mem_zipIdx hx)

/-- A byte off the output stays. -/
theorem State.outWrite_offOutput {s : State} {k op bits : Nat} {r : Regs} {a : Nat} (h : s.offOutput k op bits r a) :
    cellGet (s.outWrite k bits r (s.outRows k op bits r)).mem.cells a = cellGet s.mem.cells a := by
  refine (SpansKept.outWrite s k bits r fun x hx => State.outRows_length hx).other a ?_
  unfold State.offOutput at h
  unfold outSpans
  split
  · next hform =>
    rw [if_pos hform] at h
    simpa using h _ rfl
  · next hform =>
    rw [if_neg hform] at h
    intro x hx
    obtain ⟨i, hi, rfl⟩ := List.mem_map.1 hx
    refine h i ?_
    simpa [State.outRows] using hi

end Sys2Proof.Machine
end

section
/-! PROOFS. The out path and the residue verdicts (R45, R72, R73, R82, R101): what OREAD and OVEC make of their core and of memory, and what a verdict
makes of its tile, its addends and its kernel. -/

namespace Sys2Proof.Machine

/-! ### What an out-path operation reads -/

/-- Reading records finds their errors, and counts the heat of their pages (R101, R130, R145). -/
def State.readRecords (s : State) (k : Nat) (h : BitVec 32) (os : List Nat) : State :=
  os.foldl (fun t o => t.heatPages (some k) h o 48) ((os.map (spanKey k h)).foldl (fun t x => t.discover x 48) s)

/-- What reading records leaves. -/
structure ReadKept (k : Nat) (s t : State) : Prop where
  comp : t.comp = s.comp
  marked : ErrMarked s t
  same : SameBytes s t
  frame : s.accessFrame k t
  lost : ∀ x o n, t.spanLost x o n = s.spanLost x o n
  clean : s.mem.errors = [] → t.mem = s.mem

theorem State.discoverAll_nil {s : State} (h : s.mem.errors = []) (keys : List Nat) : keys.foldl (fun t x => t.discover x 48) s = s := by
  induction keys with
  | nil => rfl
  | cons x keys ih => rw [List.foldl_cons, State.discover_nil s x 48 h, ih]

theorem ReadKept.readRecords (s : State) (k : Nat) (h : BitVec 32) (os : List Nat) : ReadKept k s (s.readRecords k h os) := by
  unfold State.readRecords
  have hread := ErrKept.discoverAll (fun x : Nat => x) (fun _ => 48) (os.map (spanKey k h)) s
  have hmarked := ErrMarked.foldl (fun t x => ErrMarked.discover t x 48) (os.map (spanKey k h)) s
  have hnil := fun hno => State.discoverAll_nil (s := s) hno (os.map (spanKey k h))
  generalize (os.map (spanKey k h)).foldl (fun t x => t.discover x 48) s = t at hread hmarked hnil ⊢
  have hlost : ∀ x o n, (os.foldl (fun t o => t.heatPages (some k) h o 48) t).spanLost x o n = s.spanLost x o n := fun x o n =>
    (State.spanLost_heatAll _ _ _ _ _ _ _ _).trans (State.spanLost_congr hread.place x o n)
  have htouch : TouchKept t (os.foldl (fun t o => t.heatPages (some k) h o 48) t) := TouchKept.foldl (fun t o => TouchKept.heatPages t _ _ o 48) os t
  obtain ⟨p, hp⟩ := State.heatAll_eq (some k) h 48 os t
  refine ⟨htouch.comp.trans hread.comp, ?_, ⟨by rw [htouch.mem, hread.cells], by rw [htouch.comp, hread.comp], fun i => ?_⟩, ?_, hlost, fun hno => ?_⟩
  · rw [hp]; exact ⟨hmarked.tiles, hmarked.jobs⟩
  · rw [htouch.gens, hread.place]
  · exact State.accessFrame_trans (CoreWork.ofErr k hread).accessFrame ((htouch.toPlaceKept.writeKept 0 0).accessFrame k)
  · rw [htouch.mem, hnil hno]

/-! ### OREAD and OVEC -/

/-- A core after an out-path operation: the status bits raised in its tile, and its generators advanced once each (R47, R101; log 204). -/
def Core.afterOut (c : Core) (bits : Nat) (r : Regs) (rows : List OutRow) : Core :=
  { c with
    tiles := c.tiles.upd (fld bits 2 0) Tile.init fun x => { x with status := x.status ||| BitVec.ofNat 32 (rows.foldl (fun a x => a ||| x.status) 0) }
    regs := if fld bits 55 53 = fld bits 52 50 then c.regs.setG (fld bits 55 53) (genAdvance (r.gr (fld bits 55 53)))
            else (c.regs.setG (fld bits 55 53) (genAdvance (r.gr (fld bits 55 53)))).setG (fld bits 52 50) (genAdvance (r.gr (fld bits 52 50))) }

/-- No flush to the records is still to be applied, and none of them is held, lost, poisoned or in error. -/
def State.recordsReady (s : State) (k : Nat) (h : BitVec 32) (os : List Nat) : Prop :=
  ∀ x ∈ os, (s.pendingKeys k).contains (spanKey k h x) = false ∧ s.spanHeld h x 48 = false ∧ s.spanLost h x 48 = false ∧
    (s.comp.las.has (spanKey k h x) = true ∨ (s.mem.poisoned (spanKey k h x) 48 = false ∧ s.mem.errors = []))

/-- The records that an out-path operation reads let it take effect. -/
theorem State.recordsReady.may {s : State} {k : Nat} {h : BitVec 32} {os : List Nat} (hready : s.recordsReady k h os) :
    ((os.map (spanKey k h)).any fun x => (s.pendingKeys k).contains x) = false ∧ (os.any fun o => s.spanHeld h o 48) = false := by
  refine ⟨List.any_eq_false.2 fun x hx => ?_, List.any_eq_false.2 fun o ho => Bool.not_eq_true _ ▸ (hready o ho).2.1⟩
  obtain ⟨o, ho, rfl⟩ := List.mem_map.1 hx
  exact Bool.not_eq_true _ ▸ (hready o ho).1

theorem State.recordsReady.none_lost {s t : State} {k : Nat} {h : BitVec 32} {os : List Nat} (hready : s.recordsReady k h os) (hread : ReadKept k s t) :
    os.find? (fun o => t.spanLost h o 48) = none := by
  refine List.find?_eq_none.2 fun o ho => ?_
  obtain ⟨_, _, hlost, _⟩ := hready o ho
  rw [hread.lost, hlost]
  exact Bool.false_ne_true

theorem State.recordsReady.none_poisoned {s t : State} {k : Nat} {h : BitVec 32} {os : List Nat} (hready : s.recordsReady k h os) (hread : ReadKept k s t) :
    os.find? (fun o => !t.comp.las.has (spanKey k h o) && t.mem.poisoned (spanKey k h o) 48) = none := by
  refine List.find?_eq_none.2 fun o ho => ?_
  obtain ⟨_, _, _, hgood⟩ := hready o ho
  rw [hread.comp]
  rcases hgood with hhas | ⟨hclean, hno⟩
  · simp [hhas]
  · simp [hread.clean hno, hclean]

theorem State.recordsReady.begin {s : State} {k : Nat} {h : BitVec 32} {os : List Nat} (hready : s.recordsReady k h os) :
    (s.begin k).recordsReady k h os := by
  have hpending : (s.begin k).pendingKeys k = s.pendingKeys k := by
    simp only [State.pendingKeys, State.coreOf_begin]
    rfl
  intro x hx
  rw [hpending]
  exact hready x hx

/-- What an out-path operation leaves: its core, the bytes of its output, the key of its tile, and the rest. -/
structure OutMade (s : State) (k op : Nat) (t : State) : Prop where
  core : ((s.coreOf k).afterOut (s.bits k 4) (s.src k) (s.outRows k op (s.bits k 4) (s.src k))).issued (t.coreOf k)
  cells : t.mem.cells = (s.outWrite k (s.bits k 4) (s.src k) (s.outRows k op (s.bits k 4) (s.src k))).mem.cells
  tiles : outCompressed (s.bits k 4) = true → t.mem.tiles.contains (outRowKey k (s.bits k 4) (s.src k) 0) = true
  frame : s.accessFrame k t

theorem outStep_answers {s : State} {k op : Nat} {srcs : List Nat} (h : s.issues k 4 op = true)
    (hverdicts : ((s.coreOf k).tiles.getD (fld (s.bits k 4) 2 0) Tile.init).verdicts = 0)
    (hready : s.recordsReady k (genHandle ((s.src k).gr (fld (s.bits k 4) 55 53))) srcs)
    (hheld : s.spanHeld (genHandle ((s.src k).gr (fld (s.bits k 4) 52 50))) (outSpan op (s.bits k 4) (s.src k)).1 (outSpan op (s.bits k 4) (s.src k)).2 = false)
    (hlost : s.spanLost (genHandle ((s.src k).gr (fld (s.bits k 4) 52 50))) (outSpan op (s.bits k 4) (s.src k)).1 (outSpan op (s.bits k 4) (s.src k)).2 = false) :
    Answers (s.outStep k op srcs) (OutMade s k op) := by
  unfold State.outStep
  extract_lets bits r gsI gdI gs gd ast keys
  generalize hspan : outSpan op bits r = span
  simp only [bits, r] at hspan
  rw [hspan] at hheld hlost
  obtain ⟨dofs, dn⟩ := span
  dsimp -zeta only
  obtain ⟨hpending, hrecords⟩ := hready.may
  refine State.slotStep_answers h (by simp only [ast, bits, keys, gs, gsI, gd, gdI, r, hverdicts, hpending, hrecords, hheld]; rfl) ?_
  extract_lets t1 t2 u found st
  have hread : ReadKept k (s.begin k) t2 := ReadKept.readRecords (s.begin k) k (genHandle gs) srcs
  have hrows : found = s.outRows k op bits r :=
    State.outRows_congr (s := s) hread.same.las hread.same.cells ((State.launchOf_congr hread.comp k).trans (s.launchOf_begin k)) hread.marked.jobs
      op bits r
  have hst : st = (s.outRows k op bits r).foldl (fun a x => a ||| x.status) 0 := congrArg (List.foldl (fun a (x : OutRow) => a ||| x.status) 0) hrows
  have hgd : t2.spanLost (genHandle gd) dofs dn = false := (hread.lost _ _ _).trans hlost
  rw [hready.begin.none_lost hread]
  dsimp -zeta only
  rw [hready.begin.none_poisoned hread]
  dsimp -zeta only
  rw [hgd, if_neg Bool.false_ne_true, hrows, hst]
  generalize hmade : s.outRows k op bits r = rows
  have hspans : SpansKept u (outSpans k bits r rows) (u.outWrite k bits r rows) := SpansKept.outWrite u k bits r fun x hx => State.outRows_length (hmade ▸ hx)
  have hbytes : SameBytes s u := ⟨hread.same.cells, hread.same.las, hread.same.gens⟩
  have hframeU : s.accessFrame k u :=
    State.accessFrame_trans (State.accessFrame_trans (CoreWork.updCore s k _).accessFrame hread.frame) (CoreWork.updCore t2 k _).accessFrame
  have htiles : outCompressed bits = true → (u.outWrite k bits r rows).mem.tiles.contains (outRowKey k bits r 0) = true := fun hform => by
    rw [State.outWrite_compressed hform]
    simp
  have hcells := hbytes.outWrite k bits r rows
  generalize u.outWrite k bits r rows = v at hspans htiles hcells ⊢
  generalize hw : (v.updTile k ast fun x => { x with status := x.status ||| BitVec.ofNat 32 (rows.foldl (fun a x => a ||| x.status) 0) }) = w
  have hend := IssueKept.takeFinish w k 4
  have hmarked := ErrMarked.takeFinish w k 4
  have hwmem : w.mem = v.mem := by rw [← hw]; rfl
  have hwframe : v.accessFrame k w := hw ▸ (CoreWork.updCore v k _).accessFrame
  have hwcore : (w.coreOf k).bare = ((s.coreOf k).afterOut bits r rows).bare := by
    have hcore2 : t2.coreOf k = (s.begin k).coreOf k := by rw [State.coreOf, hread.comp, State.coreOf]
    rw [← hw]
    simp only [State.updTile, State.coreOf_updCore_self, hspans.coreOf, u, State.updRegs, hcore2, State.coreOf_begin, Core.afterOut]
    rfl
  subst hmade
  refine ⟨?_, ?_, fun hform => ?_, ?_⟩
  · exact hend.core.trans hwcore
  · rw [hend.cells, hwmem, hcells]
  · rw [hmarked.tiles, hwmem]
    exact htiles hform
  · exact State.accessFrame_trans (State.accessFrame_trans (State.accessFrame_trans hframeU (hspans.accessFrame k)) hwframe)
      (CoreWork.ofIssue hend).accessFrame

end Sys2Proof.Machine
end

section
/-! PROOFS. The residue verdicts (R45, R72, R73), and the out path with them. -/

namespace Sys2Proof.Machine

/-! ### What a verdict makes of its core -/

/-- A verdict takes its place in the queue, and is counted in its tile, which a bad one poisons (R73). -/
def State.verdictTaken (s : State) (k : Nat) (v : Verdict) (rest : List Verdict) (good : Bool) : State :=
  let s := s.updCore k fun c => { c with verdicts := rest }
  match v.tile with
  | none => s
  | some i => s.updTile k i fun x => { x with verdicts := x.verdicts - 1, poisoned := x.poisoned || !good || false }

/-- What the arrival of a verdict leaves. -/
structure VerdictTaken (k : Nat) (v : Verdict) (rest : List Verdict) (good : Bool) (s t : State) : Prop where
  frame : s.coreFrame k t
  verdicts : (t.coreOf k).verdicts = rest
  stopped : (t.coreOf k).stopped = (s.coreOf k).stopped
  fault : (t.coreOf k).fault = (s.coreOf k).fault
  regs : (t.coreOf k).regs = (s.coreOf k).regs
  held : (t.coreOf k).held = (s.coreOf k).held
  inst : (t.coreOf k).inst = (s.coreOf k).inst
  addends : t.comp.addends = s.comp.addends
  tile : ∀ i, v.tile = some i → (t.coreOf k).tiles.getD i Tile.init =
    { (s.coreOf k).tiles.getD i Tile.init with
      verdicts := ((s.coreOf k).tiles.getD i Tile.init).verdicts - 1
      poisoned := ((s.coreOf k).tiles.getD i Tile.init).poisoned || !good }

theorem VerdictTaken.verdictTaken (s : State) (k : Nat) (v : Verdict) (rest : List Verdict) (good : Bool) :
    VerdictTaken k v rest good s (s.verdictTaken k v rest good) := by
  unfold State.verdictTaken
  have hqueue := s.coreFrame_updCore k fun c => { c with verdicts := rest }
  cases htile : v.tile with
  | none =>
    constructor
    case frame => exact hqueue
    case tile => rw [htile]; intro i hi; cases hi
    case addends => rfl
    all_goals simp
  | some j =>
    constructor
    case frame => exact State.coreFrame_trans hqueue (State.coreFrame_updCore _ k _)
    case tile =>
      rw [htile]
      rintro i ⟨⟩
      simp [State.updTile, AMap.upd]
    case addends => rfl
    all_goals simp [State.updTile]

/-- What RESIDUE_VERDICT does when no injection is armed. -/
theorem residueVerdict_eq {s : State} {k : Nat} {v : Verdict} {rest : List Verdict} (h : (s.coreOf k).verdicts = v :: rest)
    (harmed : s.health.armed = []) (err : Int) :
    exec (.residueVerdict k err) s = .next (if residueHolds 0 err then (s.verdictTaken k v rest true).sendAdds k v.bundle v.adds
      else (((s.verdictTaken k v rest false).residueEvent k false).updCore k fun c => { c with stopped := true }).raise k ⟨6, 0, false, v.bundle, 0⟩) := by
  have hinj : ∀ cls u, s.takeInjection cls u = (false, s) := fun cls u => by rw [State.takeInjection, harmed]; rfl
  have hexec : exec (.residueVerdict k err) s = execResidueVerdict k err s := rfl
  rw [hexec]
  unfold execResidueVerdict
  generalize residueHolds 0 err = good
  simp only [h, hinj, ite_self, Bool.not_false, Bool.and_true, Bool.and_false]
  unfold State.verdictTaken
  cases v.tile <;> cases good <;> simp only [Bool.false_eq_true, if_false, if_true]

/-- An error passes the residue check when it is a multiple of 127 (R72). -/
theorem residueHolds_zero (err : Int) : residueHolds 0 err = decide (err % 127 = 0) := by
  simp [residueHolds, res127]

/-! ### Good verdicts -/

theorem State.restartable_congr {s t : State} {k : Nat} (hcomp : s.compKept t) (hinst : (t.coreOf k).inst = (s.coreOf k).inst) (hcmd : t.cmd = s.cmd) :
    t.restartable k = s.restartable k := by
  unfold State.compKept at hcomp
  have hinsts : t.comp.insts = s.comp.insts := by rw [hcomp]
  have hlaunches : t.comp.launches = s.comp.launches := by rw [hcomp]
  simp only [State.restartable, State.kernelOf, State.launchOf, State.instOf, hinst, hinsts, hlaunches, hcmd]

theorem VerdictTaken.restartable {k : Nat} {v : Verdict} {rest : List Verdict} {good : Bool} {s t : State} (h : VerdictTaken k v rest good s t) :
    t.restartable k = s.restartable k := by
  obtain ⟨honly, hcomp, _⟩ := h.frame
  exact State.restartable_congr hcomp h.inst (honly.2 .cmd (by decide))

/-- A core's flush leaves its other parts: in a restartable kernel it is held, in another its addends are on their way (R43, R113). -/
theorem State.sendAdds_parts (s : State) (k bundle : Nat) (adds : List (Nat × W32)) :
    (∀ j, j ≠ k → (s.sendAdds k bundle adds).coreOf j = s.coreOf j) ∧ s.only [.comp] (s.sendAdds k bundle adds) ∧
    (∃ held, (s.sendAdds k bundle adds).coreOf k = { s.coreOf k with held := held }) ∧
    (s.restartable k = false → (s.sendAdds k bundle adds).comp.addends = s.comp.addends ++ adds.map fun a => ⟨k, bundle, a.1, Addend.fp32 a.2⟩) ∧
    (s.restartable k = true → (s.sendAdds k bundle adds).comp.addends = s.comp.addends ∧
      ((s.sendAdds k bundle adds).coreOf k).held = (s.coreOf k).held ++ adds.map fun a => Held.flush a.1 a.2 bundle) := by
  unfold State.sendAdds
  by_cases hres : s.restartable k = true
  · rw [if_pos hres]
    refine ⟨fun j hj => State.coreOf_updCore_other s k j _ hj, State.only_setComp s _, ⟨_, State.coreOf_updCore_self s k _⟩, fun hno => ?_,
      fun _ => ⟨rfl, by rw [State.coreOf_updCore_self]⟩⟩
    rw [hres] at hno
    cases hno
  · rw [if_neg hres]
    exact ⟨fun _ _ => rfl, State.only_setComp s _, ⟨(s.coreOf k).held, rfl⟩, fun _ => rfl, fun hyes => absurd hyes hres⟩

theorem residueVerdict_good {s : State} {k : Nat} {v : Verdict} {rest : List Verdict} (h : (s.coreOf k).verdicts = v :: rest)
    (harmed : s.health.armed = []) {err : Int} (herr : err % 127 = 0) :
    Answers (exec (.residueVerdict k err) s) fun t =>
      (t.coreOf k).verdicts = rest ∧ (t.coreOf k).stopped = (s.coreOf k).stopped ∧ (t.coreOf k).fault = (s.coreOf k).fault ∧
      (t.coreOf k).regs = (s.coreOf k).regs ∧ (∀ j, j ≠ k → t.coreOf j = s.coreOf j) ∧ s.only [.comp] t ∧
      (∀ i, v.tile = some i → ((t.coreOf k).tiles.getD i Tile.init).verdicts = ((s.coreOf k).tiles.getD i Tile.init).verdicts - 1 ∧
        ((t.coreOf k).tiles.getD i Tile.init).e = ((s.coreOf k).tiles.getD i Tile.init).e) ∧
      (s.restartable k = false → t.comp.addends = s.comp.addends ++ v.adds.map fun a => ⟨k, v.bundle, a.1, Addend.fp32 a.2⟩) ∧
      (s.restartable k = true → t.comp.addends = s.comp.addends ∧ (t.coreOf k).held = (s.coreOf k).held ++ v.adds.map fun a => Held.flush a.1 a.2 v.bundle) := by
  have htaken := VerdictTaken.verdictTaken s k v rest true
  rw [residueVerdict_eq h harmed, residueHolds_zero, if_pos (decide_eq_true herr)]
  generalize s.verdictTaken k v rest true = u at htaken ⊢
  obtain ⟨honly, _, hother⟩ := htaken.frame
  obtain ⟨gother, gonly, ⟨held, hcore⟩, hfree, hheld⟩ := u.sendAdds_parts k v.bundle v.adds
  rw [htaken.restartable, htaken.addends] at hfree hheld
  rw [htaken.held] at hheld
  refine ⟨_, rfl, ?_, ?_, ?_, ?_, fun j hj => (gother j hj).trans (hother j hj), State.only_trans honly gonly, fun i hi => ?_, hfree, hheld⟩
  · rw [hcore]; exact htaken.verdicts
  · rw [hcore]; exact htaken.stopped
  · rw [hcore]; exact htaken.fault
  · rw [hcore]; exact htaken.regs
  · rw [hcore]
    dsimp only
    rw [htaken.tile i hi]
    exact ⟨rfl, rfl⟩

/-! ### Bad verdicts -/

theorem State.fault_parts (s : State) (cls : Nat) (ut : Option Nat) (u : BitVec 32) (port outcome : Nat) (inj : Bool) :
    (s.fault cls ut u port outcome inj).comp = s.comp ∧ (s.fault cls ut u port outcome inj).chip = s.chip ∧ (s.fault cls ut u port outcome inj).mem = s.mem ∧
      (s.fault cls ut u port outcome inj).health.total = s.health.total + 1 := by
  unfold State.fault
  dsimp only
  split <;> exact ⟨rfl, rfl, rfl, rfl⟩

/-- A failed residue check is one more event, and changes neither a core's state nor memory. -/
theorem State.residueEvent_parts (s : State) (k : Nat) (injected : Bool) : (s.residueEvent k injected).comp = s.comp ∧
    (s.residueEvent k injected).mem = s.mem ∧ (s.residueEvent k injected).health.total = s.health.total + 1 := by
  have hevent : ∀ (c : Prop) [Decidable c] (cls cls' : Nat) (ut ut' : Option Nat) (u u' : BitVec 32) (o : Nat),
      let t := if c then s.fault cls ut u 0 o injected else s.fault cls' ut' u' 0 o injected
      t.comp = s.comp ∧ t.mem = s.mem ∧ t.health.total = s.health.total + 1 := by
    intro c _ cls cls' ut ut' u u' o
    have hfault : ∀ cls ut u, (s.fault cls ut u 0 o injected).comp = s.comp ∧ (s.fault cls ut u 0 o injected).mem = s.mem ∧
        (s.fault cls ut u 0 o injected).health.total = s.health.total + 1 := fun cls ut u => by
      obtain ⟨hcomp, -, hmem, htotal⟩ := s.fault_parts cls ut u 0 o injected
      exact ⟨hcomp, hmem, htotal⟩
    dsimp only
    split <;> exact hfault _ _ _
  unfold State.residueEvent
  dsimp only
  have hparts := hevent ((s.instOf k).any (·.thin) = true) 6 5 utCluster utCore (clusterUnit (clusterOf k)) (coreUnit k) (if s.restartable k then 2 else 1)
  dsimp only at hparts
  generalize (if (s.instOf k).any (·.thin) = true then _ else _ : State) = t at hparts ⊢
  by_cases hinj : injected = true
  · rw [if_pos hinj]; exact hparts
  · rw [if_neg hinj]
    split <;> exact hparts

theorem residueVerdict_bad {s : State} {k : Nat} {v : Verdict} {rest : List Verdict} (h : (s.coreOf k).verdicts = v :: rest)
    (harmed : s.health.armed = []) {err : Int} (herr : err % 127 ≠ 0) :
    Answers (exec (.residueVerdict k err) s) fun t =>
      (t.coreOf k).verdicts = rest ∧ (t.coreOf k).stopped = true ∧ ((s.coreOf k).fault = none → (t.coreOf k).fault = some ⟨6, 0, false, v.bundle, 0⟩) ∧
      t.comp.addends = s.comp.addends ∧ t.mem = s.mem ∧ t.health.total = s.health.total + 1 ∧
      ∀ i, v.tile = some i → ((t.coreOf k).tiles.getD i Tile.init).poisoned = true := by
  have htaken := VerdictTaken.verdictTaken s k v rest false
  rw [residueVerdict_eq h harmed, residueHolds_zero, if_neg (by simpa using herr)]
  generalize s.verdictTaken k v rest false = u at htaken ⊢
  obtain ⟨⟨_, honly⟩, _⟩ := htaken.frame
  have hmem : u.mem = s.mem := honly .mem (by decide)
  have hhealth : u.health = s.health := honly .health (by decide)
  obtain ⟨hcomp, gmem, gtotal⟩ := u.residueEvent_parts k false
  generalize u.residueEvent k false = w at hcomp gmem gtotal ⊢
  have hcore : (w.updCore k fun c => { c with stopped := true }).coreOf k = { u.coreOf k with stopped := true } := by
    rw [State.coreOf_updCore_self, State.coreOf, hcomp, State.coreOf]
  have hraised : ∃ f, (((w.updCore k fun c => { c with stopped := true }).raise k ⟨6, 0, false, v.bundle, 0⟩).coreOf k) =
      { u.coreOf k with stopped := true, fault := f } ∧ ((u.coreOf k).fault = none → f = some ⟨6, 0, false, v.bundle, 0⟩) := by
    rw [State.raise, State.coreOf_updCore_self, hcore]
    cases hfault : (u.coreOf k).fault with
    | none => exact ⟨_, by simp, fun _ => rfl⟩
    | some f => exact ⟨some f, by simp [hfault], fun hno => by cases hno⟩
  obtain ⟨f, hend, hf⟩ := hraised
  refine ⟨_, rfl, ?_, ?_, fun hnone => ?_, ?_, gmem.trans hmem, ?_, fun i hi => ?_⟩
  · rw [hend]; exact htaken.verdicts
  · rw [hend]
  · rw [hend]; exact hf (htaken.fault.trans hnone)
  · rw [← htaken.addends, ← hcomp]; rfl
  · rw [← hhealth, ← gtotal]; rfl
  · rw [hend]
    dsimp only
    rw [htaken.tile i hi]
    simp

/-! ### The obligation -/

/-- Settles O16: OREAD and OVEC are one step of the out path, `outStep_answers`; RESIDUE_VERDICT by whether its error is a multiple of 127. -/
theorem outPathAndVerdicts : Obligations.OutPathAndVerdicts := by
  refine ⟨?_, fun s k v rest h harmed err => ⟨residueVerdict_good h harmed, residueVerdict_bad h harmed⟩⟩
  have hstep : ∀ (s : State) (k op : Nat) (srcs : List Nat), s.issues k 4 op = true →
      ((s.coreOf k).tiles.getD (fld (s.bits k 4) 2 0) Tile.init).verdicts = 0 →
      s.recordsReady k (genHandle ((s.src k).gr (fld (s.bits k 4) 55 53))) srcs →
      s.spanHeld (genHandle ((s.src k).gr (fld (s.bits k 4) 52 50))) (outSpan op (s.bits k 4) (s.src k)).1 (outSpan op (s.bits k 4) (s.src k)).2 = false →
      s.spanLost (genHandle ((s.src k).gr (fld (s.bits k 4) 52 50))) (outSpan op (s.bits k 4) (s.src k)).1 (outSpan op (s.bits k 4) (s.src k)).2 = false →
      Answers (s.outStep k op srcs) fun t => OutMade s k op t ∧
        ∀ a, s.offOutput k op (s.bits k 4) (s.src k) a → cellGet t.mem.cells a = cellGet s.mem.cells a := by
    intro s k op srcs h hverdicts hready hheld hlost
    obtain ⟨t, hexec, hmade⟩ := outStep_answers h hverdicts hready hheld hlost
    exact ⟨t, hexec, hmade, fun a ha => by rw [hmade.cells]; exact State.outWrite_offOutput ha⟩
  rintro s k o ho bits r gs gd rows dofs dn rfl rfl rfl rfl rfl rfl rfl h hverdicts hready hheld hlost -
  have hexec : exec (o.1 k) s = s.outStep k o.2.1 o.2.2 := by
    rcases List.mem_cons.1 ho with rfl | ho
    · rfl
    · rw [List.mem_singleton.1 ho]; rfl
  rw [hexec]
  obtain ⟨t, hnext, hmade, hoff⟩ := hstep s k o.2.1 o.2.2 h hverdicts hready hheld hlost
  exact ⟨t, hnext, hmade.core, hmade.cells, hmade.tiles, hoff, hmade.frame⟩

end Sys2Proof.Machine
end

section
/-! PROOFS. Start-up's common parts (R342, R371 to R373, R376, R404): parts of the state that a stage changes, halts, lost units, and stages 1 and 4. -/

namespace Sys2Proof.Machine

/-! ### Frames of a stage -/

theorem State.only_refl (s : State) (ps : List Part) : s.only ps s := ⟨rfl, fun p _ => by cases p <;> rfl⟩

theorem State.only.setSide {s t : State} {ps : List Part} (h : s.only ps t) (hp : Part.side ∈ ps) (d : Side) : s.only ps (t.setSide d) := by
  refine ⟨h.1, fun p hn => ?_⟩
  cases p
  case side => exact absurd hp hn
  all_goals exact h.2 _ hn

theorem State.only.setLedger {s t : State} {ps : List Part} (h : s.only ps t) (hp : Part.ledger ∈ ps) (l : Ledger) : s.only ps (t.setLedger l) := by
  refine ⟨h.1, fun p hn => ?_⟩
  cases p
  case ledger => exact absurd hp hn
  all_goals exact h.2 _ hn

theorem State.only.setChip {s t : State} {ps : List Part} (h : s.only ps t) (hp : Part.chip ∈ ps) (c : Chip) : s.only ps (t.setChip c) := by
  refine ⟨h.1, fun p hn => ?_⟩
  cases p
  case chip => exact absurd hp hn
  all_goals exact h.2 _ hn

theorem State.only.setMem {s t : State} {ps : List Part} (h : s.only ps t) (hp : Part.mem ∈ ps) (m : Mem) : s.only ps (t.setMem m) := by
  refine ⟨h.1, fun p hn => ?_⟩
  cases p
  case mem => exact absurd hp hn
  all_goals exact h.2 _ hn

theorem State.only.setNet {s t : State} {ps : List Part} (h : s.only ps t) (hp : Part.net ∈ ps) (n : Net) : s.only ps (t.setNet n) := by
  refine ⟨h.1, fun p hn => ?_⟩
  cases p
  case net => exact absurd hp hn
  all_goals exact h.2 _ hn

theorem State.only.setOut {s t : State} {ps : List Part} (h : s.only ps t) (hp : Part.out ∈ ps) (o : List Out) : s.only ps (t.setOut o) := by
  refine ⟨h.1, fun p hn => ?_⟩
  cases p
  case out => exact absurd hp hn
  all_goals exact h.2 _ hn

/-! ### Bits -/

/-- A bit that is set in a vector is set. -/
theorem getLsbD_or_bit {w : Nat} (x : BitVec w) {i : Nat} (hi : i < w) : (x ||| BitVec.ofNat w (2 ^ i)).getLsbD i = true := by
  rw [BitVec.getLsbD_or, BitVec.getLsbD_ofNat, Nat.testBit_two_pow_self, decide_eq_true hi, Bool.and_true, Bool.or_true]

theorem getLsbD_or_left {w i : Nat} {x : BitVec w} (y : BitVec w) (h : x.getLsbD i = true) : (x ||| y).getLsbD i = true := by
  rw [BitVec.getLsbD_or, h, Bool.true_or]

/-! ### Halts (R373) -/

/-- Cricket's state once the module halted with a fail code and latched the code's cause. -/
def Side.haltedFor (d : Side) (code cause : Nat) : Side :=
  { d with halted := true, fail := code, attnCause := d.attnCause ||| BitVec.ofNat 32 (2 ^ cause) }

theorem State.halt_eq_firmware (s : State) {code : Nat} (hcode : code / 16 = 2 ∨ code = 0x71) : s.halt code = s.setSide (s.side.haltedFor code causeFirmware) := by
  have hstage1 : code ≠ 0x11 := by omega
  rw [State.halt, if_neg hstage1, if_pos (by simpa using hcode)]
  rfl

theorem State.halt_eq_health (s : State) {code : Nat} (hstage1 : code ≠ 0x11) (hcode : ¬ (code / 16 = 2 ∨ code = 0x71)) :
    s.halt code = s.setSide (s.side.haltedFor code causeHealth) := by
  rw [State.halt, if_neg hstage1, if_neg (by simpa using hcode)]
  rfl

/-! ### Units lost at start-up (R313, R371, R376) -/

theorem Ledger.writePerm_inc (l : Ledger) (e : LEvent) : (l.writePerm e).inc = l.inc := by
  unfold Ledger.writePerm
  dsimp only
  split
  · rfl
  · unfold Ledger.writeOrd
    dsimp only
    split <;> rfl

/-- A unit lost at start-up latches the health cause, is recorded in the Ledger and sets RETIRED. -/
theorem State.startLost_eq (s : State) (outcome reason : Nat) (u : BitVec 32) : ∃ l : Ledger, l.inc = s.ledger.inc ∧ s.startLost outcome reason u =
    (s.setLedger l).setSide { s.side with attnCause := s.side.attnCause ||| BitVec.ofNat 32 (2 ^ causeHealth), retiredAny := true } := by
  refine ⟨(s.startLost outcome reason u).ledger, ?_, ?_⟩ <;> unfold State.startLost State.unitLost <;> dsimp only
  · split <;> exact Ledger.writePerm_inc _ _
  · split <;> rfl

/-! ### Stages 1 and 4 -/

theorem State.stageDue_running {s : State} {m n : Nat} (hdue : s.stageDue m n = true) : s.side.halted = false := by
  simp only [State.stageDue, Bool.and_eq_true, Bool.not_eq_true'] at hdue
  obtain ⟨⟨⟨_, hrun⟩, _⟩, _⟩ := hdue
  exact hrun

/-- An event that can occur takes its effect (log 1). -/
theorem State.when_eq {s t : State} {c : Bool} (h : c = true) : s.when c t = .next t := by rw [State.when, if_pos h]

theorem stageCricket_passes {s : State} (hon : s.side.v54 = true) (hdue : (s.side.v54 && !s.side.stageDone.getLsbD 1 && !s.side.halted) = true) :
    Answers (exec (.stageCricket true) s) fun t => t.side.stageDone.getLsbD 1 = true ∧
      (s.side.pstate = .standby → s.side.pwrEn = true → s.side.resetN = false → s.side.supplyHeld = false → s.side.shutting = false →
        t.side.pstate = .starting ∧ t.side.startAt = s.now) ∧ s.only [.side, .ledger] t := by
  have hexec : exec (.stageCricket true) s = .next (s.stageEnds 1).tryStart := State.when_eq hdue
  have hone : (s.stageEnds 1).side.stageDone.getLsbD 1 = true := getLsbD_or_bit _ (by decide)
  have hends : s.only [.side, .ledger] (s.stageEnds 1) := (State.only_refl s _).setSide (by decide) _
  refine ⟨_, hexec, ?_⟩
  unfold State.tryStart
  dsimp only
  split
  · exact ⟨show (2#8).getLsbD 1 = true by decide, fun _ _ _ _ _ => ⟨rfl, rfl⟩, ((hends.setSide (by decide) _).setLedger (by decide) _)⟩
  · next hno =>
    refine ⟨hone, fun hst hen hreset hheld hshut => absurd ?_ hno, hends⟩
    rw [hone]
    simp [State.stageEnds, hon, hst, hen, hreset, hheld, hshut]

theorem stageCricket_fails {s : State} (hon : s.side.v54 = true) (hdue : (s.side.v54 && !s.side.stageDone.getLsbD 1 && !s.side.halted) = true) :
    Answers (exec (.stageCricket false) s) fun t => t.side.halted = true ∧ t.side.fail = 0x11 ∧ t.side.stage1Latch = true ∧ t.attnN = true ∧
      t.side.stageDone = s.side.stageDone ∧ s.only [.side] t := by
  have hexec : exec (.stageCricket false) s = .next ((s.halt 0x11).setSide
      { (s.halt 0x11).side with pstate := if s.side.pwrEn && !s.side.resetN then .starting else s.side.pstate }) :=
    State.when_eq hdue
  have hhalt : s.halt 0x11 = s.setSide { s.side with halted := true, fail := 0x11, stage1Latch := true } := rfl
  rw [hhalt] at hexec
  refine ⟨_, hexec, rfl, rfl, rfl, ?_, rfl, ((State.only_refl s _).setSide (by decide) _)⟩
  simp [State.attnN, hon]

theorem stageDieLinks_passes {s : State} (hdue : s.stageDue 3 4 = true) :
    exec (.stageDieLinks true) s = .next (s.setSide { s.side with stageDone := s.side.stageDone ||| 16 }) :=
  State.when_eq hdue

theorem stageDieLinks_fails {s : State} (hdue : s.stageDue 3 4 = true) : Answers (exec (.stageDieLinks false) s) fun t => t.side.halted = true ∧
    t.side.fail = 0x41 ∧ t.side.attnCause.getLsbD 0 = true ∧ t.side.stageDone = s.side.stageDone ∧ s.only [.side] t := by
  have hexec : exec (.stageDieLinks false) s = .next (s.setSide (s.side.haltedFor 0x41 causeHealth)) := State.when_eq hdue
  exact ⟨_, hexec, rfl, rfl, getLsbD_or_bit s.side.attnCause (by decide), rfl, (State.only_refl s _).setSide (by decide) _⟩

end Sys2Proof.Machine
end

section
/-! PROOFS. Stage 2 of start-up (R340, R342, R366, R372, R381): the fuse block, the flash image and the Harbourmaster pairs. -/

namespace Sys2Proof.Machine

/-! ### What lost units leave -/

/-- From `s` to `t` units were lost at start-up: of Cricket's state that sets RETIRED and the causes of lost units alone, and the incarnation is kept. -/
structure LossKept (s t : State) : Prop where
  side : t.side = { s.side with attnCause := t.side.attnCause, retiredAny := t.side.retiredAny }
  cause : s.side.attnCause.getLsbD 0 = true → t.side.attnCause.getLsbD 0 = true
  retired : s.side.retiredAny = true → t.side.retiredAny = true
  inc : t.ledger.inc = s.ledger.inc

theorem LossKept.of_side {s t : State} (hside : t.side = s.side) (hinc : t.ledger.inc = s.ledger.inc) : LossKept s t :=
  ⟨by rw [hside], by rw [hside]; exact id, by rw [hside]; exact id, hinc⟩

theorem LossKept.refl (s : State) : LossKept s s := LossKept.of_side rfl rfl

theorem LossKept.trans {s t u : State} (h : LossKept s t) (g : LossKept t u) : LossKept s u :=
  ⟨by rw [g.side, h.side], fun hs => g.cause (h.cause hs), fun hs => g.retired (h.retired hs), g.inc.trans h.inc⟩

theorem LossKept.foldl {α : Type} {f : State → α → State} (h : ∀ t x, LossKept t (f t x)) (l : List α) (s : State) : LossKept s (l.foldl f s) := by
  induction l generalizing s with
  | nil => exact LossKept.refl s
  | cons x l ih => exact (h s x).trans (ih (f s x))

theorem LossKept.setChip (s : State) (c : Chip) : LossKept s (s.setChip c) := LossKept.of_side rfl rfl

theorem LossKept.startLost (s : State) (outcome reason : Nat) (u : BitVec 32) : LossKept s (s.startLost outcome reason u) := by
  obtain ⟨l, hinc, h⟩ := s.startLost_eq outcome reason u
  rw [h]
  exact ⟨rfl, fun hs => getLsbD_or_left _ hs, fun _ => rfl, hinc⟩

theorem State.startLost_chip (s : State) (outcome reason : Nat) (u : BitVec 32) : (s.startLost outcome reason u).chip = s.chip := by
  obtain ⟨l, _, h⟩ := s.startLost_eq outcome reason u
  rw [h]; rfl

/-- A unit lost at start-up latches the health cause and sets RETIRED. -/
theorem State.startLost_latches (s : State) (outcome reason : Nat) (u : BitVec 32) :
    (s.startLost outcome reason u).side.attnCause.getLsbD 0 = true ∧ (s.startLost outcome reason u).side.retiredAny = true := by
  obtain ⟨l, _, h⟩ := s.startLost_eq outcome reason u
  rw [h]
  exact ⟨getLsbD_or_bit s.side.attnCause (i := 0) (by decide), rfl⟩

/-! ### Harbourmaster pairs (R340) -/

/-- A Harbourmaster pair fails its self-test: it is retired. -/
def State.pairLost (s : State) (i : Nat) : State :=
  (s.setChip { s.chip with pairs := s.chip.pairs &&& ~~~(BitVec.ofNat 8 (2 ^ i)) }).startLost 4 1 (unitWord i 0 0 0 0 0)

theorem State.pairLost_pair (s : State) (i : Nat) {j : Nat} (hj : j < 8) :
    (s.pairLost i).chip.pairs.getLsbD j = (s.chip.pairs.getLsbD j && !decide (i = j)) := by
  rw [State.pairLost, State.startLost_chip, State.setChip_chip, BitVec.getLsbD_and, BitVec.getLsbD_not, BitVec.getLsbD_ofNat, Nat.testBit_two_pow]
  simp [hj]

/-- What the retirement of pairs leaves. -/
structure PairsLost (l : List Nat) (s t : State) : Prop where
  kept : LossKept s t
  trim : t.chip.pierTrim = s.chip.pierTrim
  pair : ∀ j < 8, t.chip.pairs.getLsbD j = (s.chip.pairs.getLsbD j && !l.contains j)
  retired : l ≠ [] → t.side.retiredAny = true
  none_ : l = [] → t.chip.pairs = s.chip.pairs

theorem PairsLost.foldl (l : List Nat) (s : State) : PairsLost l s (l.foldl State.pairLost s) := by
  induction l generalizing s with
  | nil => exact ⟨LossKept.refl s, rfl, fun j _ => (Bool.and_true _).symm, fun h => absurd rfl h, fun _ => rfl⟩
  | cons i l ih =>
    obtain ⟨kept, trim, pair, -, -⟩ := ih (s.pairLost i)
    have hlost : LossKept s (s.pairLost i) := (LossKept.setChip s _).trans (LossKept.startLost _ _ _ _)
    refine ⟨hlost.trans kept, ?_, fun j hj => ?_, fun _ => ?_, fun h => by cases h⟩
    · rw [List.foldl_cons, trim, State.pairLost, State.startLost_chip]; rfl
    · rw [List.foldl_cons, pair j hj, State.pairLost_pair s i hj, List.contains_cons, Bool.not_or, Bool.and_assoc]
      rw [show decide (i = j) = (j == i) from (decide_eq_decide.2 eq_comm).trans (Bool.beq_eq_decide_eq j i).symm]
    · exact kept.retired (State.startLost_latches _ _ _ _).2

/-! ### The stage -/

/-- The module after the checks that need no image: Pier's trim, and the measurement of the flash image (R366, R381). -/
def State.pierChecked (s : State) (trim : Nat) : State :=
  let t := s.setChip { s.chip with pierTrim := max s.chip.pierTrim trim }
  t.setSide { t.side with fwMeas := imageMeas t.side.fwImage }

/-- The module after a valid image: the incarnation has advanced, and the pairs that fail their self-test are retired. -/
def State.pierTested (t : State) (pairs : List Bool) : State :=
  let t := t.setLedger { t.ledger with inc := t.ledger.inc + 1, ctr := t.ledger.ctr.put ctrInc (t.ledger.inc + 1).toNat }
  ((List.range 8).filter fun i => t.chip.pairs.getLsbD i && !pairs.getD i true).foldl State.pairLost t

/-- Pairs in service. -/
def State.pairCount (s : State) : Nat := ((List.range 8).filter fun i => s.chip.pairs.getLsbD i).length

theorem stagePierFirmware_eq {s : State} (fuseOk : Bool) (pairs : List Bool) {trim : Nat} (hdue : s.stageDue 1 2 = true) (hstep : trim % 5 = 0) (htop : trim ≤ 60) :
    exec (.stagePierFirmware fuseOk pairs trim) s = .next (
      if !fuseOk then (s.fault 0x14 none 0 0 4 false).halt 0x21
      else if !imageValid (s.pierChecked trim).side.fwImage then (s.pierChecked trim).recovery
      else if ((s.pierChecked trim).pierTested pairs).pairCount < 4 then ((s.pierChecked trim).pierTested pairs).halt 0x23
      else (((s.pierChecked trim).pierTested pairs).stageEnds 2).setSide
        { (((s.pierChecked trim).pierTested pairs).stageEnds 2).side with reports := (List.range 8).map fun i => (i, s.now) }) := by
  have hgo : (s.stageDue 1 2 && trim % 5 = 0 && trim ≤ 60) = true := by simp [hdue, hstep, htop]
  exact State.when_eq hgo

/-- What the checks leave: Cricket's state but the measurement, and the pairs. -/
structure PierChecked (s : State) (trim : Nat) (t : State) : Prop where
  side : t.side = { s.side with fwMeas := imageMeas s.side.fwImage }
  trim : t.chip.pierTrim = max s.chip.pierTrim trim
  pairs : t.chip.pairs = s.chip.pairs
  ledger : t.ledger = s.ledger

theorem PierChecked.intro {s : State} {trim : Nat} {c : Chip} {m : BitVec 512} (htrim : c.pierTrim = max s.chip.pierTrim trim) (hpairs : c.pairs = s.chip.pairs)
    (hm : m = imageMeas s.side.fwImage) : PierChecked s trim ((s.setChip c).setSide { (s.setChip c).side with fwMeas := m }) :=
  ⟨by rw [hm]; rfl, htrim, hpairs, rfl⟩

theorem PierChecked.pierChecked (s : State) (trim : Nat) : PierChecked s trim (s.pierChecked trim) :=
  PierChecked.intro rfl rfl (congrArg (fun d : Side => imageMeas d.fwImage) (State.setChip_side s _))

/-- The module's own fuse block fails its check: fail code 0x21. -/
theorem stagePierFirmware_fuse {s : State} (pairs : List Bool) {trim : Nat} (hdue : s.stageDue 1 2 = true) (hstep : trim % 5 = 0) (htop : trim ≤ 60) :
    Answers (exec (.stagePierFirmware false pairs trim) s) fun t => t.side.halted = true ∧ t.side.fail = 0x21 ∧ t.side.attnCause.getLsbD 2 = true ∧
      t.chip = s.chip ∧ t.health.total = s.health.total + 1 := by
  refine ⟨_, stagePierFirmware_eq false pairs hdue hstep htop, ?_⟩
  obtain ⟨-, hchip, -, htotal⟩ := s.fault_parts 0x14 none 0 0 4 false
  generalize s.fault 0x14 none 0 0 4 false = u at hchip htotal ⊢
  rw [if_pos (by decide), State.halt_eq_firmware _ (by decide)]
  exact ⟨rfl, rfl, getLsbD_or_bit u.side.attnCause (i := 2) (by decide), hchip, htotal⟩

theorem State.recovery_eq (s : State) : s.recovery = s.setSide { s.side with
    pstate := .recovery, lstate := 0, rcvd := 0, llen := 0, limage := [], wdStarts := 0, halted := false
    attnCause := s.side.attnCause ||| BitVec.ofNat 32 (2 ^ causeFirmware) } := rfl

/-- The flash image is not valid: recovery mode. -/
theorem stagePierFirmware_invalid {s : State} (pairs : List Bool) {trim : Nat} (hdue : s.stageDue 1 2 = true) (hstep : trim % 5 = 0) (htop : trim ≤ 60)
    (hinvalid : imageValid s.side.fwImage = false) : Answers (exec (.stagePierFirmware true pairs trim) s) fun t =>
      (t.chip.pierTrim = max s.chip.pierTrim trim ∧ t.side.fwMeas = imageMeas s.side.fwImage) ∧
      t.side.pstate = .recovery ∧ t.side.attnCause.getLsbD 2 = true ∧ t.side.lstate = 0 ∧ t.ledger = s.ledger := by
  refine ⟨_, stagePierFirmware_eq true pairs hdue hstep htop, ?_⟩
  obtain ⟨side, trim', -, ledger⟩ := PierChecked.pierChecked s trim
  generalize s.pierChecked trim = u at side trim' ledger ⊢
  have himage : u.side.fwImage = s.side.fwImage := by rw [side]
  have hmeas : u.side.fwMeas = imageMeas s.side.fwImage := by rw [side]
  rw [if_neg (by decide), himage, hinvalid, if_pos (by decide), State.recovery_eq]
  rw [State.setSide_chip, State.setSide_ledger, State.setSide_side]
  exact ⟨⟨trim', hmeas⟩, rfl, getLsbD_or_bit u.side.attnCause (i := 2) (by decide), rfl, ledger⟩

/-- What the self-test of the pairs leaves of the checked module. -/
structure PierTested (s : State) (pairs : List Bool) (t : State) : Prop where
  side : t.side = { s.side with attnCause := t.side.attnCause, retiredAny := t.side.retiredAny }
  trim : t.chip.pierTrim = s.chip.pierTrim
  inc : t.ledger.inc = s.ledger.inc + 1
  pair : ∀ i < 8, t.chip.pairs.getLsbD i = (s.chip.pairs.getLsbD i && pairs.getD i true)
  retired : t.chip.pairs ≠ s.chip.pairs → t.side.retiredAny = true

theorem PierTested.pierTested (s : State) (pairs : List Bool) : PierTested s pairs (s.pierTested pairs) := by
  unfold State.pierTested
  generalize hu : s.setLedger { s.ledger with inc := s.ledger.inc + 1, ctr := s.ledger.ctr.put ctrInc (s.ledger.inc + 1).toNat } = u
  have hside : u.side = s.side := by rw [← hu]; rfl
  have hchip : u.chip = s.chip := by rw [← hu]; rfl
  have hinc : u.ledger.inc = s.ledger.inc + 1 := by rw [← hu]; rfl
  dsimp only
  obtain ⟨kept, trim, pair, retired, hnone⟩ := PairsLost.foldl ((List.range 8).filter fun i => u.chip.pairs.getLsbD i && !pairs.getD i true) u
  refine ⟨by rw [kept.side, hside], by rw [trim, hchip], by rw [kept.inc, hinc], fun i hi => (pair i hi).trans ?_,
    fun hne => retired fun hnil => hne (by rw [hnone hnil, hchip])⟩
  have hmem : ((List.range 8).filter fun i => u.chip.pairs.getLsbD i && !pairs.getD i true).contains i = (u.chip.pairs.getLsbD i && !pairs.getD i true) := by
    rw [List.contains_eq_mem, Bool.eq_iff_iff, decide_eq_true_iff, List.mem_filter, List.mem_range]
    exact and_iff_right hi
  rw [hmem, hchip]
  cases s.chip.pairs.getLsbD i <;> cases pairs.getD i true <;> rfl

/-- The flash image is valid: the incarnation advances, and the pairs decide whether the stage ends. -/
theorem stagePierFirmware_valid {s : State} (pairs : List Bool) {trim : Nat} (hdue : s.stageDue 1 2 = true) (hstep : trim % 5 = 0) (htop : trim ≤ 60)
    (hvalid : imageValid s.side.fwImage = true) : Answers (exec (.stagePierFirmware true pairs trim) s) fun t =>
      (t.chip.pierTrim = max s.chip.pierTrim trim ∧ t.side.fwMeas = imageMeas s.side.fwImage) ∧
      t.ledger.inc = s.ledger.inc + 1 ∧ (∀ i < 8, t.chip.pairs.getLsbD i = (s.chip.pairs.getLsbD i && pairs.getD i true)) ∧
      (t.pairCount < 4 → t.side.halted = true ∧ t.side.fail = 0x23 ∧ t.side.attnCause.getLsbD 2 = true) ∧
      (4 ≤ t.pairCount → t.side.stageDone = s.side.stageDone ||| 4 ∧ t.side.halted = false ∧ (t.chip.pairs ≠ s.chip.pairs → t.side.retiredAny = true)) := by
  have hrun : s.side.halted = false := State.stageDue_running hdue
  refine ⟨_, stagePierFirmware_eq true pairs hdue hstep htop, ?_⟩
  obtain ⟨cside, ctrim, cpairs, cledger⟩ := PierChecked.pierChecked s trim
  generalize s.pierChecked trim = c at cside ctrim cpairs cledger ⊢
  have himage : c.side.fwImage = s.side.fwImage := by rw [cside]
  rw [if_neg (by decide), himage, hvalid, if_neg (by decide)]
  obtain ⟨side, trim', inc, pair, retired⟩ := PierTested.pierTested c pairs
  rw [cpairs] at pair retired
  rw [cledger] at inc
  rw [ctrim] at trim'
  rw [cside] at side
  generalize c.pierTested pairs = u at side trim' inc pair retired ⊢
  have hmeas : u.side.fwMeas = imageMeas s.side.fwImage := by rw [side]
  by_cases hfew : u.pairCount < 4
  · rw [if_pos hfew, State.halt_eq_firmware _ (by decide)]
    exact ⟨⟨trim', hmeas⟩, inc, pair, fun _ => ⟨rfl, rfl, getLsbD_or_bit u.side.attnCause (i := 2) (by decide)⟩,
      fun hmany => absurd hfew (Nat.not_lt.2 hmany)⟩
  · rw [if_neg hfew]
    refine ⟨⟨trim', hmeas⟩, inc, pair, fun hless => absurd hless hfew, fun _ => ⟨?_, ?_, retired⟩⟩
    · show u.side.stageDone ||| 4 = _
      rw [side]
    · show u.side.halted = _
      rw [side]; exact hrun

end Sys2Proof.Machine
end

section
/-! PROOFS. Stage 3 of start-up (R20, R143, R331, R332, R372): the stacks, their soft repairs, and the system region. -/

namespace Sys2Proof.Machine

/-! ### Stacks -/

@[simp] theorem State.stack_updStack_self (s : State) (i : Nat) (f : Stack → Stack) : (s.updStack i f).stack i = f (s.stack i) := by
  simp [State.updStack, State.stack]

theorem State.stack_updStack_other (s : State) {i j : Nat} (f : Stack → Stack) (h : j ≠ i) : (s.updStack i f).stack j = s.stack j :=
  AMap.getD_put_other _ _ _ _ _ h

/-- A stack fails its training: it is retired, and no longer being retired. -/
def State.stackLost (t : State) (i : Nat) : State :=
  let t := (t.updStack i fun x => { x with st := .retired }).startLost 4 1 (unitWord 0 0 i 0 0 0)
  t.setChip { t.chip with retiring := t.chip.retiring.filter (· != .stack i) }

theorem State.stack_stackLost (s : State) (i j : Nat) : ((s.stackLost i).stack j).st = if j = i then .retired else (s.stack j).st := by
  have hhbm : (s.stackLost i).chip.hbm = (s.updStack i fun x => { x with st := .retired }).chip.hbm := by
    show ((s.updStack i fun x => { x with st := .retired }).startLost 4 1 (unitWord 0 0 i 0 0 0)).chip.hbm = _
    rw [State.startLost_chip]
  have hstack : (s.stackLost i).stack j = (s.updStack i fun x => { x with st := .retired }).stack j := by rw [State.stack, hhbm, State.stack]
  rw [hstack]
  by_cases hj : j = i
  · rw [if_pos hj, hj, State.stack_updStack_self]
  · rw [if_neg hj, State.stack_updStack_other s _ hj]

theorem State.only.startLost {s t : State} {ps : List Part} (h : s.only ps t) (hs : Part.side ∈ ps) (hl : Part.ledger ∈ ps) (outcome reason : Nat) (u : BitVec 32) :
    s.only ps (t.startLost outcome reason u) := by
  obtain ⟨l, _, heq⟩ := t.startLost_eq outcome reason u
  rw [heq]
  exact (h.setLedger hl l).setSide hs _

/-- What the training of the stacks leaves when those listed fail. -/
structure StacksLost (l : List Nat) (s t : State) : Prop where
  kept : LossKept s t
  only : s.only [.side, .chip, .ledger] t
  st : ∀ j, (t.stack j).st = if j ∈ l then .retired else (s.stack j).st
  cause : l ≠ [] → t.side.attnCause.getLsbD 0 = true

theorem StacksLost.foldl (l : List Nat) (s : State) : StacksLost l s (l.foldl State.stackLost s) := by
  induction l generalizing s with
  | nil => exact ⟨LossKept.refl s, State.only_refl s _, fun j => by simp, fun h => absurd rfl h⟩
  | cons i l ih =>
    obtain ⟨kept, only, st, -⟩ := ih (s.stackLost i)
    have hlost : LossKept s (s.stackLost i) := ((LossKept.setChip s _).trans (LossKept.startLost _ _ _ _)).trans (LossKept.setChip _ _)
    have honly : s.only [.side, .chip, .ledger] (s.stackLost i) :=
      (((State.only_refl s _).setChip (by decide) _).startLost (by decide) (by decide) _ _ _).setChip (by decide) _
    refine ⟨hlost.trans kept, State.only_trans honly only, fun j => ?_, fun _ => kept.cause (State.startLost_latches _ _ _ _).1⟩
    rw [List.foldl_cons, st j, State.stack_stackLost]
    by_cases hj : j ∈ l <;> by_cases hji : j = i <;> simp [hj, hji]

/-! ### Soft repairs (R331) -/

theorem State.pc_updPc_self (s : State) (i : Nat) (f : Pc → Pc) : (s.updPc i f).pc i = f (s.pc i) := by
  simp [State.updPc, State.pc]

theorem State.pc_updPc_other (s : State) {i j : Nat} (f : Pc → Pc) (h : j ≠ i) : (s.updPc i f).pc j = s.pc j :=
  AMap.getD_put_other _ _ _ _ _ h

/-- What the commit of the soft repairs of some pseudo-channels leaves. -/
structure PprCommitted (l : List Nat) (s t : State) : Prop where
  side : t.side = s.side
  hbm : t.chip.hbm = s.chip.hbm
  only : s.only [.chip, .ledger] t
  soft : ∀ j, (t.pc j).pprSoft = if j ∈ l then 0 else (s.pc j).pprSoft

theorem PprCommitted.pprCommit (s : State) (i : Nat) : PprCommitted [i] s (s.pprCommit i) := by
  unfold State.pprCommit
  dsimp only
  by_cases hsoft : (s.pc i).pprSoft = 0
  · rw [if_pos hsoft]
    refine ⟨rfl, rfl, State.only_refl s _, fun j => ?_⟩
    by_cases hj : j = i <;> simp [hj, hsoft]
  · rw [if_neg hsoft]
    refine ⟨rfl, rfl, (((State.only_refl s _).setLedger (by decide) _).setChip (by decide) _).setLedger (by decide) _, fun j => ?_⟩
    show ((((s.perm 5 (pcUnit (i / 64) (i % 64)).toNat (leBytes 4 (s.pc i).pprSoft)).updPc i fun x => { x with pprSoft := 0 }).pc j)).pprSoft = _
    by_cases hj : j = i
    · rw [hj, State.pc_updPc_self]; simp
    · rw [State.pc_updPc_other _ _ hj, if_neg (by simpa using hj)]; rfl

theorem PprCommitted.foldl (l : List Nat) (s : State) : PprCommitted l s (l.foldl (fun t i => t.pprCommit i) s) := by
  induction l generalizing s with
  | nil => exact ⟨rfl, rfl, State.only_refl s _, fun j => by simp⟩
  | cons i l ih =>
    obtain ⟨side, hbm, only, soft⟩ := ih (s.pprCommit i)
    obtain ⟨side1, hbm1, only1, soft1⟩ := PprCommitted.pprCommit s i
    refine ⟨side.trans side1, hbm.trans hbm1, State.only_trans only1 only, fun j => ?_⟩
    rw [List.foldl_cons, soft j, soft1 j]
    by_cases hj : j ∈ l <;> by_cases hji : j = i <;> simp [hj, hji]

theorem AMap.get?_of_not_mem {α : Type} {m : AMap α} {k : Nat} (h : k ∉ m.keyList) : m.get? k = none := by
  by_contra hne
  obtain ⟨v, hv⟩ := AMap.mem_of_has (m := m) (k := k) (Option.isSome_iff_ne_none.2 hne)
  exact h (List.mem_map.2 ⟨_, hv, rfl⟩)

/-- After the commit of every listed pseudo-channel none has a soft repair. -/
theorem PprCommitted.soft_zero {s t : State} (h : PprCommitted s.chip.pcs.keyList s t) (j : Nat) : (t.pc j).pprSoft = 0 := by
  rw [h.soft]
  split
  · rfl
  · next hj => rw [State.pc, AMap.getD, AMap.get?_of_not_mem hj]; rfl

/-! ### The system region's shares (R143) -/

/-- Adding a value where a predicate holds is adding it over what the predicate keeps. -/
theorem sum_map_ite_filter {α : Type} (l : List α) (p : α → Bool) (f : α → Nat) : (l.map fun i => if p i then f i else 0).sum = ((l.filter p).map f).sum := by
  induction l with
  | nil => rfl
  | cons x l ih => cases hx : p x <;> simp [hx, ih]

theorem sum_map_add_ite_lt (q r m : Nat) : ((List.range m).map fun i => q + if i < r then 1 else 0).sum = m * q + min m r := by
  induction m with
  | zero => simp
  | succ m ih =>
    rw [List.range_succ, List.map_append, List.sum_append, ih, Nat.succ_mul]
    by_cases hm : m < r
    · simp [hm]; omega
    · simp [hm]; omega

/-- Equal shares, one more for the first in the list, make up the whole. -/
theorem sum_map_share (n : Nat) {l : List Nat} (hnodup : l.Nodup) (hne : l ≠ []) :
    (l.map fun i => n / l.length + if l.idxOf i < n % l.length then 1 else 0).sum = n := by
  have hpos : 0 < l.length := List.length_pos_of_ne_nil hne
  have hmap : (l.map fun i => n / l.length + if l.idxOf i < n % l.length then 1 else 0) =
      (List.range l.length).map fun i => n / l.length + if i < n % l.length then 1 else 0 := by
    refine List.ext_getElem (by simp) fun i h1 h2 => ?_
    simp only [List.getElem_map, List.getElem_range]
    rw [List.Nodup.idxOf_getElem hnodup]
  have hmin : min l.length (n % l.length) = n % l.length := Nat.min_eq_right (Nat.le_of_lt (Nat.mod_lt n hpos))
  rw [hmap, sum_map_add_ite_lt, hmin, Nat.mul_comm, Nat.div_add_mod']

theorem sum_shareOf {l : List Nat} (hnodup : l.Nodup) (p : Nat → Bool) (hne : l.filter p ≠ []) : (l.map (shareOf (l.filter p))).sum = 131072 := by
  have hshare : l.map (shareOf (l.filter p)) = l.map fun i => if p i then 131072 / (l.filter p).length +
      (if (l.filter p).idxOf i < 131072 % (l.filter p).length then 1 else 0) else 0 := by
    refine List.map_congr_left fun i hi => ?_
    have hmem : (l.filter p).contains i = p i := by
      rw [List.contains_eq_mem, Bool.eq_iff_iff, decide_eq_true_iff, List.mem_filter]
      exact and_iff_right hi
    rw [shareOf, hmem]
  rw [hshare, sum_map_ite_filter l p, sum_map_share 131072 (hnodup.filter p) hne]

/-- What laying the system region out leaves. -/
structure SharesLaid (f : Nat → Nat) (l : List Nat) (s t : State) : Prop where
  side : t.side = s.side
  pcs : t.chip.pcs = s.chip.pcs
  only : s.only [.chip] t
  st : ∀ j, (t.stack j).st = (s.stack j).st
  units : ∀ j ∈ l, (t.stack j).sysUnits = f j

theorem SharesLaid.foldl (f : Nat → Nat) (l : List Nat) (s : State) :
    SharesLaid f l s (l.foldl (fun s i => s.updStack i fun x => { x with sysUnits := f i }) s) ∧
      ∀ j, j ∉ l → (l.foldl (fun s i => s.updStack i fun x => { x with sysUnits := f i }) s).stack j = s.stack j := by
  induction l generalizing s with
  | nil => exact ⟨⟨rfl, rfl, State.only_refl s _, fun _ => rfl, fun j hj => by simp at hj⟩, fun _ _ => rfl⟩
  | cons i l ih =>
    obtain ⟨⟨side, pcs, only, st, units⟩, other⟩ := ih (s.updStack i fun x => { x with sysUnits := f i })
    refine ⟨⟨side, pcs, State.only_trans ((State.only_refl s _).setChip (by decide) _) only, fun j => (st j).trans ?_, fun j hj => ?_⟩, fun j hj => ?_⟩
    · by_cases hj : j = i
      · rw [hj, State.stack_updStack_self]
      · rw [State.stack_updStack_other s _ hj]
    · by_cases hjl : j ∈ l
      · exact units j hjl
      · rw [List.foldl_cons, other j hjl, (List.mem_cons.1 hj).resolve_right hjl, State.stack_updStack_self]
    · rw [List.mem_cons, not_or] at hj
      rw [List.foldl_cons, other j hj.2, State.stack_updStack_other s _ hj.1]

theorem SharesLaid.layShares (s : State) : SharesLaid (shareOf ((List.range 16).filter fun i => (s.stack i).st = .inService)) (List.range 16) s s.layShares :=
  (SharesLaid.foldl _ _ s).1

/-- The shares laid out make up the system region, as long as a stack is in service. -/
theorem SharesLaid.sum {s t : State} (h : SharesLaid (shareOf ((List.range 16).filter fun i => (s.stack i).st = .inService)) (List.range 16) s t)
    (hin : ∃ i < 16, (s.stack i).st = .inService) : ((List.range 16).map fun i => (t.stack i).sysUnits).sum = 131072 := by
  obtain ⟨i, hi, hst⟩ := hin
  rw [List.map_congr_left h.units]
  refine sum_shareOf List.nodup_range _ fun hnil => ?_
  have hmem : i ∈ (List.range 16).filter fun i => (s.stack i).st = .inService := List.mem_filter.2 ⟨List.mem_range.2 hi, by simpa using hst⟩
  rw [hnil] at hmem
  cases hmem

/-! ### The stage -/

/-- The stacks have been trained. -/
def State.hbmTrained (s : State) (failed : List Nat) : State := ((List.range 16).filter fun i => failed.contains i && (s.stack i).st != .retired).foldl State.stackLost s

/-- A die has no stack left. -/
def State.dieBare (t : State) : Bool := (List.range 2).any fun d => (List.range 8).all fun i => !t.stacksIn.contains (8 * d + i)

theorem stageHbm_eq {s : State} (failed : List Nat) (hdue : s.stageDue 2 3 = true) : exec (.stageHbm failed) s = .next (
    if (s.hbmTrained failed).dieBare then (s.hbmTrained failed).halt 0x31
    else (((s.hbmTrained failed).chip.pcs.keyList.foldl (fun t i => t.pprCommit i) (s.hbmTrained failed)).layShares).stageEnds 3) :=
  State.when_eq hdue

theorem State.dieBare_iff {s t : State} (hst : ∀ j, (t.stack j).st = (s.stack j).st) :
    s.dieBare = true ↔ ∃ d < 2, ∀ i < 8, (t.stack (8 * d + i)).st ≠ .inService ∧ (t.stack (8 * d + i)).st ≠ .retiring := by
  have hin : ∀ d < 2, ∀ i < 8, (!s.stacksIn.contains (8 * d + i)) = true ↔
      (t.stack (8 * d + i)).st ≠ .inService ∧ (t.stack (8 * d + i)).st ≠ .retiring := by
    intro d hd i hi
    have hrange : 8 * d + i < 16 := by omega
    rw [hst, Bool.not_eq_true', List.contains_eq_mem, decide_eq_false_iff_not, State.stacksIn, List.mem_filter, List.mem_range]
    simp [hrange]
  simp only [State.dieBare, List.any_eq_true, List.all_eq_true, List.mem_range]
  exact exists_congr fun d => and_congr_right fun hd => forall_congr' fun i => imp_congr_right fun hi => hin d hd i hi

theorem stageHbm_answers {s : State} (failed : List Nat) (hdue : s.stageDue 2 3 = true) : Answers (exec (.stageHbm failed) s) fun t => s.only [.side, .chip, .ledger] t ∧
    (∀ i < 16, (t.stack i).st = if i ∈ failed then .retired else (s.stack i).st) ∧ (s.side.attnCause.getLsbD 0 = true ∨ (∃ i < 16, i ∈ failed ∧ (s.stack i).st ≠ .retired) → t.side.attnCause.getLsbD 0 = true) ∧
    (∀ none_ : Prop, none_ = (∃ d < 2, ∀ i < 8, (t.stack (8 * d + i)).st ≠ .inService ∧ (t.stack (8 * d + i)).st ≠ .retiring) →
      (none_ → t.side.halted = true ∧ t.side.fail = 0x31 ∧ t.side.attnCause.getLsbD 0 = true) ∧
      (¬ none_ → t.side.stageDone = s.side.stageDone ||| 8 ∧ t.side.halted = false ∧ (∀ i, (t.pc i).pprSoft = 0) ∧
        ((∃ i < 16, (t.stack i).st = .inService) → ((List.range 16).map fun i => (t.stack i).sysUnits).sum = 131072))) := by
  obtain ⟨kept, only, st, cause⟩ : StacksLost _ s (s.hbmTrained failed) := StacksLost.foldl _ s
  have hst : ∀ i < 16, ((s.hbmTrained failed).stack i).st = if i ∈ failed then .retired else (s.stack i).st := by
    intro i hi
    rw [st i]
    by_cases hfail : i ∈ failed <;> by_cases hret : (s.stack i).st = .retired <;> simp [hi, hfail, hret]
  have hcause : s.side.attnCause.getLsbD 0 = true ∨ (∃ i < 16, i ∈ failed ∧ (s.stack i).st ≠ .retired) →
      (s.hbmTrained failed).side.attnCause.getLsbD 0 = true := by
    rintro (h | ⟨i, hi, hfail, hret⟩)
    · exact kept.cause h
    · refine cause fun hnil => ?_
      have hmem : i ∈ (List.range 16).filter fun i => failed.contains i && (s.stack i).st != .retired :=
        List.mem_filter.2 ⟨List.mem_range.2 hi, by simp [hfail, hret]⟩
      rw [hnil] at hmem
      cases hmem
  refine ⟨_, stageHbm_eq failed hdue, ?_⟩
  have hside := kept.side
  generalize s.hbmTrained failed = u at only hst hcause hside ⊢
  by_cases hbare : u.dieBare = true
  · rw [if_pos hbare, u.halt_eq_health (by decide) (by decide)]
    refine ⟨only.setSide (by decide) _, hst, fun _ => getLsbD_or_bit u.side.attnCause (i := 0) (by decide), ?_⟩
    rintro none_ rfl
    exact ⟨fun _ => ⟨rfl, rfl, getLsbD_or_bit u.side.attnCause (i := 0) (by decide)⟩, fun hno => absurd ((State.dieBare_iff fun _ => rfl).1 hbare) hno⟩
  · rw [if_neg hbare]
    have hppr := PprCommitted.foldl u.chip.pcs.keyList u
    have hsoft := hppr.soft_zero
    generalize u.chip.pcs.keyList.foldl (fun t i => t.pprCommit i) u = v at hppr hsoft ⊢
    have hlaid := SharesLaid.layShares v
    have hsum := hlaid.sum
    generalize v.layShares = w at hlaid hsum ⊢
    have hstack : ∀ j, v.stack j = u.stack j := fun j => by rw [State.stack, hppr.hbm, State.stack]
    have hwst : ∀ j, (w.stack j).st = (u.stack j).st := fun j => by rw [hlaid.st, hstack]
    have hwside : w.side = u.side := hlaid.side.trans hppr.side
    have honly : s.only [.side, .chip, .ledger] w :=
      State.only_trans (State.only_trans only (State.only_mono (by decide) hppr.only)) (State.only_mono (by decide) hlaid.only)
    refine ⟨honly.setSide (by decide) _, fun i hi => (hwst i).trans (hst i hi), fun h => ?_, ?_⟩
    · show w.side.attnCause.getLsbD 0 = true
      rw [hwside]
      exact hcause h
    · rintro none_ rfl
      refine ⟨fun hyes => absurd ((State.dieBare_iff hwst).2 hyes) hbare, fun _ => ⟨?_, ?_, fun i => ?_, fun hin => hsum ?_⟩⟩
      · show w.side.stageDone ||| 8 = _
        rw [hwside, hside]
      · show w.side.halted = _
        rw [hwside, hside]
        exact State.stageDue_running hdue
      · show (w.pc i).pprSoft = 0
        rw [State.pc, hlaid.pcs]
        exact hsoft i
      · obtain ⟨i, hi, hin⟩ := hin
        exact ⟨i, hi, (hlaid.st i).symm.trans hin⟩

end Sys2Proof.Machine
end

section
/-! PROOFS. Stage 5 of start-up (R16, R70, R321, R322, R334, R372): cores, thin paths and clusters. -/

namespace Sys2Proof.Machine

/-! ### What the tests of cores leave -/

theorem LossKept.fault (s : State) (cls : Nat) (ut : Option Nat) (u : BitVec 32) (port outcome : Nat) (inj : Bool) :
    LossKept s (s.fault cls ut u port outcome inj) := by
  have hinc : (s.fault cls ut u port outcome inj).ledger.inc = s.ledger.inc := by
    unfold State.fault
    dsimp only
    cases ut <;> split <;> rfl
  unfold State.fault at hinc ⊢
  dsimp only at hinc ⊢
  split
  · next h =>
    rw [if_pos h] at hinc
    exact ⟨rfl, fun hs => getLsbD_or_left _ hs, id, hinc⟩
  · next h =>
    rw [if_neg h] at hinc
    exact LossKept.of_side rfl hinc

theorem LossKept.perm (s : State) (typ u : Nat) (data : List Byte) : LossKept s (s.perm typ u data) := LossKept.of_side rfl (Ledger.writePerm_inc _ _)

/-- From `s` to `t` cores were tested at start-up: what decides whether a cluster serves, and its thin path, are as they were. -/
structure CoresTested (s t : State) : Prop where
  kept : LossKept s t
  enMask : t.chip.enMask = s.chip.enMask
  svc : ∀ c, (t.cluster c).svc = (s.cluster c).svc
  thin : ∀ c, (t.cluster c).thinQ = (s.cluster c).thinQ

theorem CoresTested.refl (s : State) : CoresTested s s := ⟨LossKept.refl s, rfl, fun _ => rfl, fun _ => rfl⟩

theorem CoresTested.trans {s t u : State} (h : CoresTested s t) (g : CoresTested t u) : CoresTested s u :=
  ⟨h.kept.trans g.kept, g.enMask.trans h.enMask, fun c => (g.svc c).trans (h.svc c), fun c => (g.thin c).trans (h.thin c)⟩

theorem CoresTested.of_chip {s t : State} (hkept : LossKept s t) (hmask : t.chip.enMask = s.chip.enMask) (hclusters : t.chip.clusters = s.chip.clusters) :
    CoresTested s t := by
  refine ⟨hkept, hmask, fun c => ?_, fun c => ?_⟩ <;> rw [State.cluster, hclusters, State.cluster]

/-- A cluster's record lets it serve. -/
def Cluster.serves (x : Cluster) (enabled : Bool) : Bool := enabled && x.svc != .retired && x.svc != .disabled

theorem CoresTested.inService {s t : State} (h : CoresTested s t) (c : Nat) : t.inService c = s.inService c := by
  rw [State.inService, State.inService, State.enabled, State.enabled, h.enMask, h.svc]

/-- A step at core `k` alone, which makes its health record what `f` makes of it. -/
structure CoreTested (f : Bool → CoreHw → CoreHw) (k : Nat) (s t : State) : Prop where
  tested : CoresTested s t
  own : t.coreHw k = f (s.inService (clusterOf k)) (s.coreHw k)
  other : ∀ j, j ≠ k → t.coreHw j = s.coreHw j

theorem CoreTested.foldl {f : Nat → Bool → CoreHw → CoreHw} {g : State → Nat → State} (h : ∀ s k, CoreTested (f k) k s (g s k)) (l : List Nat) (s : State)
    (hnodup : l.Nodup) : CoresTested s (l.foldl g s) ∧ (∀ j ∈ l, (l.foldl g s).coreHw j = f j (s.inService (clusterOf j)) (s.coreHw j)) ∧
      ∀ j, j ∉ l → (l.foldl g s).coreHw j = s.coreHw j := by
  induction l generalizing s with
  | nil => exact ⟨CoresTested.refl s, fun j hj => by simp at hj, fun _ _ => rfl⟩
  | cons k l ih =>
    obtain ⟨hk, hl⟩ := List.nodup_cons.1 hnodup
    obtain ⟨tested, own, other⟩ := ih (g s k) hl
    obtain ⟨tested1, own1, other1⟩ := h s k
    refine ⟨tested1.trans tested, fun j hj => ?_, fun j hj => ?_⟩
    · rw [List.foldl_cons]
      by_cases hjk : j = k
      · rw [hjk, other k hk, own1]
      · rw [own j ((List.mem_cons.1 hj).resolve_left hjk), tested1.inService, other1 j hjk]
    · rw [List.mem_cons, not_or] at hj
      rw [List.foldl_cons, other j hj.2, other1 j hj.1]

/-! ### Units of the chip -/

@[simp] theorem State.cluster_updCluster_self (s : State) (c : Nat) (f : Cluster → Cluster) : (s.updCluster c f).cluster c = f (s.cluster c) := by
  simp [State.updCluster, State.cluster]

theorem State.cluster_updCluster_other (s : State) {c d : Nat} (f : Cluster → Cluster) (h : d ≠ c) : (s.updCluster c f).cluster d = s.cluster d :=
  AMap.getD_put_other _ _ _ _ _ h

@[simp] theorem State.coreHw_updCoreHw_self (s : State) (k : Nat) (f : CoreHw → CoreHw) : (s.updCoreHw k f).coreHw k = f (s.coreHw k) := by
  simp [State.updCoreHw, State.coreHw]

theorem State.coreHw_updCoreHw_other (s : State) {k j : Nat} (f : CoreHw → CoreHw) (h : j ≠ k) : (s.updCoreHw k f).coreHw j = s.coreHw j := by
  show AMap.getD (s.chip.cores.put k _) j _ = _
  rw [AMap.getD_put_other _ _ _ _ _ h]; rfl

theorem CoresTested.updCoreHw (s : State) (k : Nat) (f : CoreHw → CoreHw) : CoresTested s (s.updCoreHw k f) :=
  CoresTested.of_chip (LossKept.setChip s _) rfl rfl

theorem CoresTested.startLost (s : State) (outcome reason : Nat) (u : BitVec 32) : CoresTested s (s.startLost outcome reason u) :=
  CoresTested.of_chip (LossKept.startLost s _ _ _) (by rw [State.startLost_chip]) (by rw [State.startLost_chip])

theorem CoresTested.spareGone (s : State) (c : Nat) : CoresTested s (s.updCluster c fun x => { x with spare := none }) := by
  refine ⟨LossKept.setChip s _, rfl, fun d => ?_, fun d => ?_⟩ <;>
  · by_cases hd : d = c
    · rw [hd, State.cluster_updCluster_self]
    · rw [State.cluster_updCluster_other s _ hd]

/-! ### Cores -/

/-- A core that fails at start-up. -/
def CoreHw.quarantinedFor (x : CoreHw) (reason : Nat) : CoreHw := { x with st := .quarantined, reason := reason, stPass := false }

theorem CoreTested.startCore (s : State) (k reason : Nat) : CoreTested (fun _ x => x.quarantinedFor reason) k s (s.startCore k reason) := by
  unfold State.startCore
  extract_lets u c v
  have hv : CoresTested u v ∧ v.chip.cores = u.chip.cores := by
    by_cases hspare : (u.cluster c).spare = some (k % 17)
    · rw [show v = u.updCluster c fun x => { x with spare := none } from if_pos hspare]
      exact ⟨CoresTested.spareGone u c, rfl⟩
    · rw [show v = u from if_neg hspare]
      exact ⟨CoresTested.refl u, rfl⟩
  have hcores : (v.startLost 3 reason (coreUnit k)).chip.cores = u.chip.cores := by rw [State.startLost_chip, hv.2]
  have hcore : ∀ j, (v.startLost 3 reason (coreUnit k)).coreHw j = u.coreHw j := fun j => by rw [State.coreHw, hcores, State.coreHw]
  exact ⟨((CoresTested.updCoreHw s k _).trans hv.1).trans (CoresTested.startLost v _ _ _), (hcore k).trans (State.coreHw_updCoreHw_self s k _),
    fun j hj => (hcore j).trans (State.coreHw_updCoreHw_other s _ hj)⟩

/-- A core that may be tested. -/
def CoreHw.testable (x : CoreHw) (serves : Bool) : Bool := serves && (x.st = .working || x.st = .spare)

theorem State.testable_eq (s : State) (k : Nat) : s.testable k = (s.coreHw k).testable (s.inService (clusterOf k)) := rfl

/-- A core's record after the check of its fuse word (R70). -/
def CoreHw.fuseChecked (serves : Bool) (x : CoreHw) : CoreHw :=
  if fuseBad x.fuse then (if x.testable serves then x.quarantinedFor 3 else { x with reason := 3 }) else x

/-- A core's record after its self-test. -/
def CoreHw.selfTested (bad serves : Bool) (x : CoreHw) : CoreHw :=
  if x.testable serves then (if bad then x.quarantinedFor 1 else { x with stPass := true, mapped := x.fuse, fusePend := false }) else x

theorem CoreTested.startFuse (s : State) (k : Nat) : CoreTested CoreHw.fuseChecked k s (s.startFuse k) := by
  unfold State.startFuse
  by_cases hbad : fuseBad (s.coreHw k).fuse = true
  · rw [if_pos hbad]
    extract_lets t
    have hchip : t.chip = s.chip := (s.fault_parts 0x14 utCore (coreUnit k) 0 3 false).2.1
    have hkept : CoresTested s t := CoresTested.of_chip ((LossKept.fault s _ _ _ _ _ _).trans (LossKept.perm _ _ _ _)) (by rw [hchip]) (by rw [hchip])
    have hcore : ∀ j, t.coreHw j = s.coreHw j := fun j => by rw [State.coreHw, hchip, State.coreHw]
    by_cases htest : s.testable k = true
    · rw [if_pos htest]
      obtain ⟨tested, own, other⟩ := CoreTested.startCore t k 3
      refine ⟨hkept.trans tested, ?_, fun j hj => (other j hj).trans (hcore j)⟩
      rw [own, hcore, CoreHw.fuseChecked, if_pos hbad, ← State.testable_eq, if_pos htest]
    · rw [if_neg htest]
      refine ⟨hkept.trans (CoresTested.updCoreHw t k _), ?_, fun j hj => (State.coreHw_updCoreHw_other t _ hj).trans (hcore j)⟩
      rw [State.coreHw_updCoreHw_self, hcore, CoreHw.fuseChecked, if_pos hbad, ← State.testable_eq, if_neg htest]
  · rw [if_neg hbad]
    exact ⟨CoresTested.refl s, by rw [CoreHw.fuseChecked, if_neg hbad], fun _ _ => rfl⟩

/-- A core's self-test. -/
def State.startTest (badCores : List Nat) (t : State) (k : Nat) : State :=
  if !t.testable k then t
  else if badCores.contains k then t.startCore k 1
  else t.updCoreHw k fun x => { x with stPass := true, mapped := x.fuse, fusePend := false }

theorem CoreTested.startTest (badCores : List Nat) (s : State) (k : Nat) :
    CoreTested (CoreHw.selfTested (badCores.contains k)) k s (s.startTest badCores k) := by
  unfold State.startTest
  by_cases htest : s.testable k = true
  · rw [if_neg (by rw [htest]; exact Bool.false_ne_true)]
    by_cases hbad : badCores.contains k = true
    · rw [if_pos hbad]
      obtain ⟨tested, own, other⟩ := CoreTested.startCore s k 1
      exact ⟨tested, by rw [own, CoreHw.selfTested, ← State.testable_eq, if_pos htest, if_pos hbad], other⟩
    · rw [if_neg hbad]
      refine ⟨CoresTested.updCoreHw s k _, ?_, fun j hj => State.coreHw_updCoreHw_other s _ hj⟩
      rw [State.coreHw_updCoreHw_self, CoreHw.selfTested, ← State.testable_eq, if_pos htest, if_neg hbad]
  · rw [if_pos (by simpa using htest)]
    exact ⟨CoresTested.refl s, by rw [CoreHw.selfTested, ← State.testable_eq, if_neg htest], fun _ _ => rfl⟩

/-- Every core has been tested: each fuse word is checked, and each core that may be is self-tested. -/
def State.coresTested (s : State) (badCores : List Nat) : State :=
  (List.range 408).foldl (State.startTest badCores) ((List.range 408).foldl State.startFuse s)

theorem State.coresTested_parts (s : State) (badCores : List Nat) : CoresTested s (s.coresTested badCores) ∧ ∀ k < 408, (s.coresTested badCores).coreHw k =
    CoreHw.selfTested (badCores.contains k) (s.inService (clusterOf k)) (CoreHw.fuseChecked (s.inService (clusterOf k)) (s.coreHw k)) := by
  obtain ⟨tested, own, -⟩ := CoreTested.foldl (f := fun _ => CoreHw.fuseChecked) CoreTested.startFuse (List.range 408) s List.nodup_range
  obtain ⟨tested', own', -⟩ := CoreTested.foldl (CoreTested.startTest badCores) (List.range 408) ((List.range 408).foldl State.startFuse s) List.nodup_range
  refine ⟨tested.trans tested', fun k hk => ?_⟩
  rw [State.coresTested, own' k (List.mem_range.2 hk), own k (List.mem_range.2 hk), tested.inService]

/-- A core whose fuse word is bad is not self-tested. -/
theorem CoreHw.tested_of_fuseBad {x : CoreHw} (bad serves : Bool) (hfuse : fuseBad x.fuse = true) : CoreHw.selfTested bad serves (CoreHw.fuseChecked serves x) =
    if x.testable serves then x.quarantinedFor 3 else { x with reason := 3 } := by
  rw [CoreHw.fuseChecked, if_pos hfuse]
  by_cases htest : x.testable serves = true
  · rw [if_pos htest, CoreHw.selfTested, if_neg]
    simp [CoreHw.testable, CoreHw.quarantinedFor]
  · rw [if_neg htest, CoreHw.selfTested, if_neg]
    exact htest

theorem CoreHw.tested_of_fuseGood {x : CoreHw} (bad serves : Bool) (hfuse : fuseBad x.fuse = false) : CoreHw.selfTested bad serves (CoreHw.fuseChecked serves x) =
    CoreHw.selfTested bad serves x := by
  rw [CoreHw.fuseChecked, if_neg (by rw [hfuse]; exact Bool.false_ne_true)]

/-! ### Thin paths and clusters -/

/-- A step at cluster `c` alone, which makes its record what `f` makes of it. -/
structure ClusterTested (f : Bool → Cluster → Cluster) (c : Nat) (s t : State) : Prop where
  kept : LossKept s t
  enMask : t.chip.enMask = s.chip.enMask
  cores : t.chip.cores = s.chip.cores
  own : t.cluster c = f (s.enabled c) (s.cluster c)
  other : ∀ d, d ≠ c → t.cluster d = s.cluster d

/-- What tests of clusters leave that may lose units. -/
structure ClustersTested (s t : State) : Prop where
  kept : LossKept s t
  enMask : t.chip.enMask = s.chip.enMask
  cores : t.chip.cores = s.chip.cores

theorem ClustersTested.trans {s t u : State} (h : ClustersTested s t) (g : ClustersTested t u) : ClustersTested s u :=
  ⟨h.kept.trans g.kept, g.enMask.trans h.enMask, g.cores.trans h.cores⟩

theorem State.enabled_congr {s t : State} (h : t.chip.enMask = s.chip.enMask) (c : Nat) : t.enabled c = s.enabled c := by
  rw [State.enabled, State.enabled, h]

theorem ClusterTested.foldl {f : Nat → Bool → Cluster → Cluster} {g : State → Nat → State} (h : ∀ s c, ClusterTested (f c) c s (g s c)) (l : List Nat) (s : State)
    (hnodup : l.Nodup) : ClustersTested s (l.foldl g s) ∧ (∀ c ∈ l, (l.foldl g s).cluster c = f c (s.enabled c) (s.cluster c)) ∧
      ∀ c, c ∉ l → (l.foldl g s).cluster c = s.cluster c := by
  induction l generalizing s with
  | nil => exact ⟨⟨LossKept.refl s, rfl, rfl⟩, fun c hc => by simp at hc, fun _ _ => rfl⟩
  | cons k l ih =>
    obtain ⟨hk, hl⟩ := List.nodup_cons.1 hnodup
    obtain ⟨tested, own, other⟩ := ih (g s k) hl
    obtain ⟨kept1, mask1, cores1, own1, other1⟩ := h s k
    refine ⟨ClustersTested.trans ⟨kept1, mask1, cores1⟩ tested, fun c hc => ?_, fun c hc => ?_⟩
    · rw [List.foldl_cons]
      by_cases hck : c = k
      · rw [hck, other k hk, own1]
      · rw [own c ((List.mem_cons.1 hc).resolve_left hck), State.enabled_congr mask1, other1 c hck]
    · rw [List.mem_cons, not_or] at hc
      rw [List.foldl_cons, other c hc.2, other1 c hc.1]

/-- A cluster that fails a test at start-up is changed, and the loss recorded. -/
def State.clusterLost (f : Cluster → Cluster) (outcome : Nat) (bad : List Nat) (t : State) (c : Nat) : State :=
  if t.inService c && bad.contains c then (t.updCluster c f).startLost outcome 1 (clusterUnit c) else t

theorem ClusterTested.clusterLost (f : Cluster → Cluster) (outcome : Nat) (bad : List Nat) (s : State) (c : Nat) :
    ClusterTested (fun en x => if x.serves en && bad.contains c then f x else x) c s (s.clusterLost f outcome bad c) := by
  unfold State.clusterLost
  by_cases hbad : (s.inService c && bad.contains c) = true
  · rw [if_pos hbad]
    have hchip := State.startLost_chip (s.updCluster c f) outcome 1 (clusterUnit c)
    have hkept : LossKept s _ := (LossKept.setChip s _).trans (LossKept.startLost (s.updCluster c f) outcome 1 (clusterUnit c))
    generalize (s.updCluster c f).startLost outcome 1 (clusterUnit c) = t at hchip hkept ⊢
    have hcluster : ∀ d, t.cluster d = (s.updCluster c f).cluster d := fun d => by rw [State.cluster, hchip, State.cluster]
    refine ⟨hkept, by rw [hchip]; rfl, by rw [hchip]; rfl, ?_, fun d hd => (hcluster d).trans (State.cluster_updCluster_other s f hd)⟩
    rw [hcluster, State.cluster_updCluster_self]
    exact (if_pos hbad).symm
  · rw [if_neg hbad]
    exact ⟨LossKept.refl s, rfl, rfl, (if_neg hbad).symm, fun _ _ => rfl⟩

/-- Stage 5's tests have run. -/
def State.clustersTested (s : State) (badCores badThin badClusters : List Nat) : State :=
  (List.range 24).foldl (State.clusterLost (fun x => { x with svc := .retired }) 4 badClusters)
    ((List.range 24).foldl (State.clusterLost (fun x => { x with thinQ := true }) 3 badThin) (s.coresTested badCores))

theorem Cluster.thin_ite (x : Cluster) (b : Bool) : (if b then { x with thinQ := true } else x).svc = x.svc ∧
    ((if b then { x with thinQ := true } else x).thinQ = true ↔ x.thinQ = true ∨ b = true) := by
  cases b <;> simp

theorem Cluster.retired_ite (x : Cluster) (b : Bool) : (if b then { x with svc := .retired } else x).thinQ = x.thinQ ∧
    (if b then { x with svc := .retired } else x).svc = if b then .retired else x.svc := by
  cases b <;> exact ⟨rfl, rfl⟩

/-- What stage 5's tests leave of clusters and cores. -/
structure StageTested (s : State) (badCores badThin badClusters : List Nat) (t : State) : Prop where
  kept : LossKept s t
  core : ∀ k < 408, t.coreHw k =
    CoreHw.selfTested (badCores.contains k) (s.inService (clusterOf k)) (CoreHw.fuseChecked (s.inService (clusterOf k)) (s.coreHw k))
  thin : ∀ c < 24, s.inService c = true → ((t.cluster c).thinQ = true ↔ (s.cluster c).thinQ = true ∨ c ∈ badThin)
  svc : ∀ c < 24, (t.cluster c).svc = if s.inService c && badClusters.contains c then .retired else (s.cluster c).svc

theorem StageTested.clustersTested (s : State) (badCores badThin badClusters : List Nat) :
    StageTested s badCores badThin badClusters (s.clustersTested badCores badThin badClusters) := by
  unfold State.clustersTested
  obtain ⟨tested, core⟩ := s.coresTested_parts badCores
  generalize s.coresTested badCores = u at tested core ⊢
  obtain ⟨thinTested, thinOwn, -⟩ := ClusterTested.foldl (ClusterTested.clusterLost (fun x => { x with thinQ := true }) 3 badThin) (List.range 24) u List.nodup_range
  generalize (List.range 24).foldl (State.clusterLost (fun x => { x with thinQ := true }) 3 badThin) u = v at thinTested thinOwn ⊢
  obtain ⟨svcTested, svcOwn, -⟩ := ClusterTested.foldl (ClusterTested.clusterLost (fun x => { x with svc := .retired }) 4 badClusters) (List.range 24) v List.nodup_range
  generalize (List.range 24).foldl (State.clusterLost (fun x => { x with svc := .retired }) 4 badClusters) v = w at svcTested svcOwn ⊢
  have hthin : ∀ c < 24, (v.cluster c).svc = (s.cluster c).svc ∧
      ((v.cluster c).thinQ = true ↔ (s.cluster c).thinQ = true ∨ (s.inService c && badThin.contains c) = true) := by
    intro c hc
    have hserves : (u.cluster c).serves (u.enabled c) = s.inService c := tested.inService c
    rw [thinOwn c (List.mem_range.2 hc), hserves, ← tested.svc c, ← tested.thin c]
    exact Cluster.thin_ite _ _
  have hserves : ∀ c < 24, (v.cluster c).serves (v.enabled c) = s.inService c := by
    intro c hc
    rw [Cluster.serves, (hthin c hc).1, State.enabled_congr (thinTested.enMask.trans tested.enMask)]
    rfl
  refine ⟨(tested.kept.trans thinTested.kept).trans svcTested.kept, fun k hk => ?_, fun c hc hin => ?_, fun c hc => ?_⟩
  · rw [← core k hk, State.coreHw, svcTested.cores, thinTested.cores, State.coreHw]
  · rw [svcOwn c (List.mem_range.2 hc), (Cluster.retired_ite _ _).1, (hthin c hc).2, hin, Bool.true_and, List.contains_eq_mem, decide_eq_true_iff]
  · rw [svcOwn c (List.mem_range.2 hc), hserves c hc, (Cluster.retired_ite _ _).2, (hthin c hc).1]

end Sys2Proof.Machine
end

section
/-! PROOFS. READY (R267, R342, R348, R379), and the ends of stages 5 and 6 (R246, R372). -/

namespace Sys2Proof.Machine

/-! ### READY -/

/-- Whether a held READY is acted on. -/
def State.readyDue (s : State) : Bool :=
  s.side.readyHeld && !s.side.ready && s.side.stageDone.getLsbD 5 && s.side.stageDone.getLsbD 6 && s.side.pstate = .starting && !s.side.halted

/-- Cricket's state once the module is ready. -/
def State.readySide (s : State) : Side :=
  { s.side with ready := true, readyHeld := false, pg := true, stageDone := s.side.stageDone ||| 0x80, wdStarts := 0, datagram := s.cricketAddr.isSome
                pstate := if s.clustersIn.any fun c => (s.cluster c).pow != .gated then .active else .idle }

theorem State.becomeReady_held {s : State} (h : s.readyDue = false) : s.becomeReady = s := if_neg (by rw [← State.readyDue, h]; exact Bool.false_ne_true)

/-- The addresses that Cricket uses depend on its MAC address and its list of addresses alone. -/
theorem State.cricketUses_setSide {s : State} {d : Side} (hmac : d.mac = s.side.mac) (haddrs : d.addrs = s.side.addrs) :
    (s.setSide d).cricketUses = s.cricketUses := by
  have hlocal : (s.setSide d).linkLocal = s.linkLocal := by rw [State.linkLocal, State.setSide_side, hmac, State.linkLocal]
  funext a
  rw [State.cricketUses, State.cricketUses, hlocal, State.setSide_side, haddrs]

theorem State.cricketAddr_setSide {s : State} {d : Side} (hmac : d.mac = s.side.mac) (haddrs : d.addrs = s.side.addrs) :
    (s.setSide d).cricketAddr = s.cricketAddr := by
  rw [State.cricketAddr, State.cricketUses_setSide hmac haddrs, State.linkLocal, State.setSide_side, hmac, haddrs, State.cricketAddr, State.linkLocal]

theorem State.settlePower_idle {s : State} {d : Side} (h : d.pstate = .idle) : (s.setSide d).settlePower =
    s.setSide { d with pstate := if s.clustersIn.any fun c => (s.cluster c).pow != .gated then .active else .idle } :=
  if_pos (by rw [State.setSide_side, h]; rfl)

/-- Cricket's state when READY is acted on, before the clusters' power is looked at. -/
def State.readyIdle (s : State) : Side :=
  { s.side with ready := true, readyHeld := false, pg := true, stageDone := s.side.stageDone ||| 0x80, pstate := .idle, wdStarts := 0
                datagram := s.cricketAddr.isSome }

/-- The ready datagram leaves, if there is an address from which to send it. -/
def State.readySent (s : State) (from_ : Option (BitVec 128)) : State :=
  match from_ with
  | some a => s.cricketSend a (some (allNodesMac, allNodes, statusPort)) statusPort s.window
  | none => s

theorem State.becomeReady_due {s : State} (h : s.readyDue = true) : s.becomeReady = (s.setSide s.readySide).readySent s.cricketAddr := by
  have hready : s.becomeReady = ((s.setSide s.readyIdle).settlePower).readySent ((s.setSide s.readyIdle).settlePower).cricketAddr := by
    unfold State.readyDue at h
    unfold State.becomeReady
    dsimp only
    rw [if_pos h, State.readyIdle]
    generalize State.cricketAddr (State.settlePower _) = a
    cases a <;> rfl
  have hidle : s.readyIdle.pstate = .idle := rfl
  have hside : { s.readyIdle with pstate := if s.clustersIn.any fun c => (s.cluster c).pow != .gated then .active else .idle } = s.readySide := rfl
  have haddr : (s.setSide s.readySide).cricketAddr = s.cricketAddr := State.cricketAddr_setSide rfl rfl
  rw [hready, State.settlePower_idle hidle, hside, haddr]

/-- The ready datagram's leaving changes neither the chip nor Cricket's state. -/
theorem State.readySent_keeps (s : State) (from_ : Option (BitVec 128)) : (s.readySent from_).chip = s.chip ∧ (s.readySent from_).side = s.side := by
  cases from_ with
  | none => exact ⟨rfl, rfl⟩
  | some a =>
    unfold State.readySent State.cricketSend
    dsimp only
    split <;> exact ⟨rfl, rfl⟩

/-- What a module that becomes ready, or may not yet, keeps. -/
theorem State.becomeReady_keeps (s : State) : s.becomeReady.chip = s.chip ∧ s.becomeReady.side.halted = s.side.halted ∧
    ∀ i, s.side.stageDone.getLsbD i = true → s.becomeReady.side.stageDone.getLsbD i = true := by
  by_cases h : s.readyDue = true
  · obtain ⟨hchip, hside⟩ := (s.setSide s.readySide).readySent_keeps s.cricketAddr
    rw [State.becomeReady_due h, hchip, hside, State.setSide_chip, State.setSide_side]
    exact ⟨rfl, rfl, fun _ hi => getLsbD_or_left _ hi⟩
  · rw [State.becomeReady_held (by simpa using h)]
    exact ⟨rfl, rfl, fun _ hi => hi⟩

/-- What the end of a stage leaves, whether or not the module becomes ready with it. -/
theorem State.stageEnds_becomeReady (s : State) {n : Nat} (hn : n < 8) : (s.stageEnds n).becomeReady.chip = s.chip ∧
    (s.stageEnds n).becomeReady.side.halted = s.side.halted ∧ (s.stageEnds n).becomeReady.side.stageDone.getLsbD n = true := by
  generalize hends : s.stageEnds n = u
  have hchip : u.chip = s.chip := by rw [← hends, State.stageEnds, State.setSide_chip]
  have hhalted : u.side.halted = s.side.halted := by rw [← hends, State.stageEnds, State.setSide_side]
  have hdone : u.side.stageDone.getLsbD n = true := by
    rw [← hends, State.stageEnds, State.setSide_side]
    exact getLsbD_or_bit s.side.stageDone hn
  obtain ⟨gchip, ghalted, gdone⟩ := u.becomeReady_keeps
  exact ⟨gchip.trans hchip, ghalted.trans hhalted, gdone n hdone⟩

/-! ### The end of stage 5 -/

/-- A die has no cluster left. -/
def State.dieDark (t : State) : Bool := (List.range 2).any fun d => !(t.clustersIn.any fun c => dieOf c = d)

theorem State.dieDark_iff (t : State) : t.dieDark = true ↔ ∃ d < 2, ∀ c ∈ t.clustersIn, dieOf c ≠ d := by
  simp only [State.dieDark, List.any_eq_true, List.mem_range, Bool.not_eq_true', List.any_eq_false, decide_eq_true_eq, ne_eq]

theorem stageClusters_eq {s : State} (badC badT badK : List Nat) (hdue : s.stageDue 4 5 = true) : exec (.stageClusters badC badT badK) s = .next (
    if (s.clustersTested badC badT badK).dieDark then (s.clustersTested badC badT badK).halt 0x51
    else ((s.clustersTested badC badT badK).stageEnds 5).becomeReady) :=
  State.when_eq hdue

/-- What stage 5 makes of a core that may be tested. -/
theorem CoreHw.tested_testable {x : CoreHw} {serves : Bool} (bad : Bool) (htest : x.testable serves = true) :
    ∀ y, y = CoreHw.selfTested bad serves (CoreHw.fuseChecked serves x) →
      (fuseBad x.fuse = true → y.st = .quarantined ∧ y.reason = 3) ∧
      (fuseBad x.fuse = false → bad = true → y.st = .quarantined ∧ y.reason = 1) ∧
      (fuseBad x.fuse = false → bad = false → y.st = x.st ∧ y.stPass = true ∧ y.mapped = x.fuse ∧ y.fusePend = false) := by
  rintro y rfl
  refine ⟨fun hfuse => ?_, fun hfuse hbad => ?_, fun hfuse hbad => ?_⟩
  · rw [CoreHw.tested_of_fuseBad bad serves hfuse, if_pos htest]
    exact ⟨rfl, rfl⟩
  · rw [CoreHw.tested_of_fuseGood bad serves hfuse, CoreHw.selfTested, if_pos htest, if_pos hbad]
    exact ⟨rfl, rfl⟩
  · rw [CoreHw.tested_of_fuseGood bad serves hfuse, CoreHw.selfTested, if_pos htest, if_neg (by rw [hbad]; exact Bool.false_ne_true)]
    exact ⟨rfl, rfl, rfl, rfl⟩

/-- What stage 5 makes of a core that may not be tested. -/
theorem CoreHw.tested_untestable {x : CoreHw} {serves : Bool} (bad : Bool) (htest : x.testable serves = false) :
    CoreHw.selfTested bad serves (CoreHw.fuseChecked serves x) = if fuseBad x.fuse = true then { x with reason := 3 } else x := by
  have hno : ¬ x.testable serves = true := by rw [htest]; exact Bool.false_ne_true
  by_cases hfuse : fuseBad x.fuse = true
  · rw [CoreHw.tested_of_fuseBad bad serves hfuse, if_neg hno, if_pos hfuse]
  · rw [CoreHw.tested_of_fuseGood bad serves (by simpa using hfuse), CoreHw.selfTested, if_neg hno, if_neg hfuse]

theorem stageClusters_answers {s : State} (badC badT badK : List Nat) (hdue : s.stageDue 4 5 = true) : Answers (exec (.stageClusters badC badT badK) s) fun t =>
    (∀ k < 408, s.testable k = true → (fuseBad (s.coreHw k).fuse = true → (t.coreHw k).st = .quarantined ∧ (t.coreHw k).reason = 3) ∧
      (fuseBad (s.coreHw k).fuse = false → k ∈ badC → (t.coreHw k).st = .quarantined ∧ (t.coreHw k).reason = 1) ∧
      (fuseBad (s.coreHw k).fuse = false → k ∉ badC → (t.coreHw k).st = (s.coreHw k).st ∧ (t.coreHw k).stPass = true ∧ (t.coreHw k).mapped = (s.coreHw k).fuse ∧ (t.coreHw k).fusePend = false)) ∧
    (∀ k < 408, s.testable k = false → t.coreHw k = if fuseBad (s.coreHw k).fuse = true then { s.coreHw k with reason := 3 } else s.coreHw k) ∧
    (∀ c < 24, s.inService c = true → ((t.cluster c).thinQ = true ↔ (s.cluster c).thinQ = true ∨ c ∈ badT) ∧ (t.cluster c).svc = (if c ∈ badK then .retired else (s.cluster c).svc)) ∧
    (∀ c < 24, s.inService c = false → (t.cluster c).svc = (s.cluster c).svc) ∧
    (∀ none_ : Prop, none_ = (∃ d < 2, ∀ c ∈ t.clustersIn, dieOf c ≠ d) → (none_ → t.side.halted = true ∧ t.side.fail = 0x51 ∧ t.side.attnCause.getLsbD 0 = true) ∧
      (¬ none_ → t.side.stageDone.getLsbD 5 = true ∧ t.side.halted = false)) := by
  refine ⟨_, stageClusters_eq badC badT badK hdue, ?_⟩
  obtain ⟨kept, core, thin, svc⟩ := StageTested.clustersTested s badC badT badK
  generalize s.clustersTested badC badT badK = u at kept core thin svc ⊢
  generalize ht : (if u.dieDark = true then u.halt 0x51 else (u.stageEnds 5).becomeReady : State) = t
  obtain ⟨hchip, hhalt, hgo⟩ : t.chip = u.chip ∧ (u.dieDark = true → t.side.halted = true ∧ t.side.fail = 0x51 ∧ t.side.attnCause.getLsbD 0 = true) ∧
      (¬ u.dieDark = true → t.side.stageDone.getLsbD 5 = true ∧ t.side.halted = false) := by
    rw [← ht]
    by_cases hdark : u.dieDark = true
    · rw [if_pos hdark, u.halt_eq_health (by decide) (by decide)]
      exact ⟨State.setSide_chip u _, fun _ => ⟨rfl, rfl, getLsbD_or_bit u.side.attnCause (i := 0) (by decide)⟩, fun hno => absurd hdark hno⟩
    · rw [if_neg hdark]
      obtain ⟨hchip, hrun, hdone⟩ := u.stageEnds_becomeReady (n := 5) (by decide)
      refine ⟨hchip, fun hyes => absurd hyes hdark, fun _ => ⟨hdone, hrun.trans ?_⟩⟩
      rw [kept.side]
      exact State.stageDue_running hdue
  have hcore : ∀ k < 408, t.coreHw k = _ := fun k hk => (by rw [State.coreHw, hchip, State.coreHw] : t.coreHw k = u.coreHw k).trans (core k hk)
  have hcluster : ∀ c, t.cluster c = u.cluster c := fun c => by rw [State.cluster, hchip, State.cluster]
  have hin : t.clustersIn = u.clustersIn := by
    have hserves : t.inService = u.inService := by
      funext c
      rw [State.inService, State.inService, hcluster, State.enabled_congr (s := u) (t := t) (by rw [hchip])]
    rw [State.clustersIn, hserves, State.clustersIn]
  refine ⟨fun k hk htest => ?_, fun k hk htest => ?_, fun c hc hserves => ⟨?_, ?_⟩, fun c hc hserves => ?_, ?_⟩
  · obtain ⟨hfuse, hbad, hgood⟩ := CoreHw.tested_testable (badC.contains k) htest _ (hcore k hk)
    exact ⟨hfuse, fun hok hmem => hbad hok (by simpa using hmem), fun hok hmem => hgood hok (by simpa using hmem)⟩
  · rw [hcore k hk]
    exact CoreHw.tested_untestable _ htest
  · rw [hcluster]
    exact thin c hc hserves
  · rw [hcluster, svc c hc, hserves, Bool.true_and, List.contains_eq_mem]
    by_cases hmem : c ∈ badK <;> simp [hmem]
  · rw [hcluster, svc c hc, hserves, Bool.false_and, if_neg Bool.false_ne_true]
  · rintro none_ rfl
    rw [hin, ← State.dieDark_iff]
    exact ⟨hhalt, hgo⟩

/-! ### Stage 6 -/

theorem State.port_updPort_self (s : State) (p : Nat) (f : Port → Port) : (s.updPort p f).port p = f (s.port p) := by
  simp [State.updPort, State.port]

theorem State.port_updPort_other (s : State) {p q : Nat} (f : Port → Port) (h : q ≠ p) : (s.updPort p f).port q = s.port q :=
  AMap.getD_put_other _ _ _ _ _ h

/-- The training of a port as it is after reset begins, and nothing else changes. -/
theorem State.trainPort_init {s : State} {p : Nat} (h : s.port p = Port.init) : s.only [.net] (s.trainPort p) ∧
    ((s.trainPort p).port p).training = some s.now ∧ ((s.trainPort p).port p).width = .down ∧ ∀ q, q ≠ p → (s.trainPort p).port q = s.port q := by
  have hshut : ¬ (s.port p).shutting = true := by rw [h]; exact Bool.false_ne_true
  have hdown : s.portDown p = s.updPort p Port.down := if_pos (by rw [h]; rfl)
  rw [State.trainPort, if_neg hshut, hdown]
  refine ⟨((State.only_refl s _).setNet (by decide) _).setNet (by decide) _, ?_, ?_, fun q hq => ?_⟩
  · rw [State.port_updPort_self]
  · rw [State.port_updPort_self, State.port_updPort_self]; rfl
  · rw [State.port_updPort_other _ _ hq, State.port_updPort_other s _ hq]

theorem State.trainPorts_init (l : List Nat) (s : State) (hnodup : l.Nodup) (h : ∀ p ∈ l, s.port p = Port.init) :
    s.only [.net] (l.foldl State.trainPort s) ∧ (∀ p ∈ l, ((l.foldl State.trainPort s).port p).training = some s.now ∧ ((l.foldl State.trainPort s).port p).width = .down) ∧
      ∀ q, q ∉ l → (l.foldl State.trainPort s).port q = s.port q := by
  induction l generalizing s with
  | nil => exact ⟨State.only_refl s _, fun p hp => by simp at hp, fun _ _ => rfl⟩
  | cons p l ih =>
    obtain ⟨hp, hl⟩ := List.nodup_cons.1 hnodup
    obtain ⟨only1, training1, width1, other1⟩ := State.trainPort_init (h p List.mem_cons_self)
    have hnow : (s.trainPort p).now = s.now := congrArg (·.counter.toNat) (only1.2 .clk (by decide))
    obtain ⟨only, own, other⟩ := ih (s.trainPort p) hl fun q hq =>
      (other1 q fun hqp => hp (hqp ▸ hq)).trans (h q (List.mem_cons_of_mem _ hq))
    refine ⟨State.only_trans only1 only, fun q hq => ?_, fun q hq => ?_⟩
    · rw [List.foldl_cons]
      by_cases hqp : q = p
      · rw [hqp, other p hp]
        exact ⟨training1, width1⟩
      · rw [← hnow]
        exact own q ((List.mem_cons.1 hq).resolve_left hqp)
    · rw [List.mem_cons, not_or] at hq
      rw [List.foldl_cons, other q hq.2, other1 q hq.1]

theorem stageFabric_starts {s : State} (hdue : s.stageDue 5 6 = true) (hports : s.net.ports = []) : Answers (exec .stageFabric s) fun t => s.only [.net] t ∧
    ∀ p < 36, s.untrained p = false → (t.port p).training = some s.now ∧ (t.port p).width = .down := by
  have hexec : exec .stageFabric s = .next s.startFabric := by
    refine (State.when_eq hdue : execStageFabric s = _).trans ?_
    rw [hports]
    rfl
  have hinit : ∀ p, s.port p = Port.init := fun p => by rw [State.port, hports]; rfl
  obtain ⟨only, own, -⟩ := State.trainPorts_init ((List.range 36).filter fun p => !s.untrained p) s (List.nodup_range.filter _) fun p _ => hinit p
  refine ⟨_, hexec, only, fun p hp htrained => own p (List.mem_filter.2 ⟨List.mem_range.2 hp, ?_⟩)⟩
  rw [htrained]; rfl

theorem stageFabric_ends {s : State} (hdue : s.stageDue 5 6 = true) (hports : s.net.ports ≠ [])
    (hdone : s.net.ports.all (fun p => p.2.training.isNone && (p.2.width = .down || p.2.checked)) = true) :
    Answers (exec .stageFabric s) fun t => t.side.stageDone.getLsbD 6 = true := by
  have hexec : exec .stageFabric s = .next (s.stageEnds 6).becomeReady := by
    refine (State.when_eq hdue : execStageFabric s = _).trans ?_
    rw [if_neg (by simpa using hports), if_pos hdone]
  obtain ⟨_, _, hdone⟩ := s.stageEnds_becomeReady (n := 6) (by decide)
  exact ⟨_, hexec, hdone⟩

/-! ### READY's write -/

theorem ready_held {s : State} {w : BitVec 64} (hos : s.osRuns = true) (hw : w.getLsbD 0 = true) (hready : s.side.ready = false)
    (hstage : s.side.stageDone.getLsbD 5 = false ∨ s.side.stageDone.getLsbD 6 = false) :
    exec (.ready w) s = .next (s.setSide { s.side with readyHeld := true }) := by
  have hgo : (s.osRuns && w.getLsbD 0 && !s.side.ready) = true := by rw [hos, hw, hready]; rfl
  have hnot : (s.setSide { s.side with readyHeld := true }).readyDue = false := by
    rw [State.readyDue, State.setSide_side]
    rcases hstage with h | h <;> simp only [h, Bool.and_false, Bool.false_and]
  refine (State.when_eq hgo : execReady w s = _).trans ?_
  rw [State.becomeReady_held hnot]

theorem ready_acts {s : State} {w : BitVec 64} (hos : s.osRuns = true) (hw : w.getLsbD 0 = true) (hready : s.side.ready = false)
    (h5 : s.side.stageDone.getLsbD 5 = true) (h6 : s.side.stageDone.getLsbD 6 = true) (hstarting : s.side.pstate = .starting) (hrun : s.side.halted = false) :
    Answers (exec (.ready w) s) fun t => t.side.ready = true ∧
      t.side.pg = true ∧ t.side.stageDone.getLsbD 7 = true ∧ t.side.datagram = s.cricketAddr.isSome ∧ t.side.wdStarts = 0 ∧
      t.side.pstate = (if (s.clustersIn.any fun c => (s.cluster c).pow != .gated) = true then .active else .idle) ∧ s.only [.side, .out] t ∧
      (s.cricketAddr = none → t.out = s.out ∧ t.wire = s.wire) ∧
      (∀ a, s.cricketAddr = some a → s.cricketUses a = true ∧ t.out = .cricket a 48612 t.window :: s.out ∧
        t.wire = { s.wire with cricketTx := s.wire.cricketTx ++ [t.cricketFrame a allNodesMac allNodes 48612 48612 t.window] }) := by
  have hgo : (s.osRuns && w.getLsbD 0 && !s.side.ready) = true := by rw [hos, hw, hready]; rfl
  generalize hu : s.setSide { s.side with readyHeld := true } = u
  have hdue : u.readyDue = true := by rw [← hu]; simp [State.readyDue, hready, h5, h6, hstarting, hrun]
  have haddr : u.cricketAddr = s.cricketAddr := by rw [← hu]; exact State.cricketAddr_setSide rfl rfl
  have hexec : exec (.ready w) s = .next ((u.setSide u.readySide).readySent s.cricketAddr) := by
    refine (State.when_eq hgo : execReady w s = _).trans ?_
    rw [hu, State.becomeReady_due hdue, haddr]
  have hmac : u.readySide.mac = s.side.mac := by rw [← hu]; rfl
  have haddrs : u.readySide.addrs = s.side.addrs := by rw [← hu]; rfl
  have hsides : u.readySide.ready = true ∧ u.readySide.pg = true ∧ u.readySide.stageDone.getLsbD 7 = true ∧ u.readySide.datagram = s.cricketAddr.isSome ∧
      u.readySide.wdStarts = 0 ∧ u.readySide.pstate = (if (s.clustersIn.any fun c => (s.cluster c).pow != .gated) = true then .active else .idle) := by
    refine ⟨rfl, rfl, getLsbD_or_bit u.side.stageDone (i := 7) (by decide), congrArg Option.isSome haddr, rfl, ?_⟩
    rw [← hu]; rfl
  have hset : u.setSide u.readySide = s.setSide u.readySide := by
    generalize u.readySide = d
    rw [← hu]; rfl
  rw [hset] at hexec
  generalize u.readySide = d at hexec hmac haddrs hsides
  have huses : (s.setSide d).cricketUses = s.cricketUses := State.cricketUses_setSide hmac haddrs
  obtain ⟨hr, hpg, h7, hdatagram, hwd, hpstate⟩ := hsides
  refine ⟨_, hexec, ?_⟩
  cases hsome : s.cricketAddr with
  | none =>
    rw [hsome] at hdatagram
    exact ⟨hr, hpg, h7, hdatagram, hwd, hpstate, (State.only_refl s _).setSide (by decide) _, fun _ => ⟨rfl, rfl⟩, fun a ha => by cases ha⟩
  | some a =>
    rw [hsome] at hdatagram
    have hused : s.cricketUses a = true := List.find?_some hsome
    have hsent : (s.setSide d).readySent (some a) = ((s.setSide d).emit (.cricket a 48612 (s.setSide d).window)).setWire
        { s.wire with cricketTx := s.wire.cricketTx ++ [(s.setSide d).cricketFrame a allNodesMac allNodes 48612 48612 (s.setSide d).window] } := by
      unfold State.readySent
      dsimp only
      rw [State.cricketSend, huses, if_pos hused]
      rfl
    rw [hsent]
    refine ⟨hr, hpg, h7, hdatagram, hwd, hpstate, State.only_setWire (((State.only_refl s _).setSide (by decide) _).setOut (by decide) _) _,
      fun hnone => (by cases hnone), ?_⟩
    rintro b ⟨⟩
    exact ⟨hused, rfl, rfl⟩

end Sys2Proof.Machine
end

section
/-! PROOFS. Stage 7 of start-up (R372, R377, R378), the harts, and the boot area. -/

namespace Sys2Proof.Machine

/-! ### Lengths of what Cricket measures (R376, R385) -/

theorem bytesOf_length {w : Nat} (x : BitVec w) : (bytesOf x).length = w / 8 := leBytes_length _ _

theorem fit_length (n : Nat) (bs : List Byte) : (fit n bs).length = n := by
  rw [fit, List.length_take, List.length_append, zeros, List.length_replicate]
  omega

theorem Mem.read_length (m : Mem) (k n : Nat) : (m.read k n).length = n := by
  rw [Mem.read, List.length_map, List.length_range]

theorem rhoPi_length (a : List Nat) (k x y : Nat) (out : List Nat) : (rhoPi a k x y out).length = out.length := by
  induction k generalizing x y out with
  | zero => rfl
  | succ k ih => rw [rhoPi, ih, List.length_set]

theorem rounds_length (n r : Nat) (a : List Nat) : (rounds n r a).length = a.length := by
  induction n generalizing r a with
  | zero => rfl
  | succ n ih =>
    rw [rounds]
    dsimp only
    rw [ih, List.length_set, chi, List.length_mapIdx, rhoPi_length, theta, List.length_mapIdx]

theorem flatMap_leBytes_length (n : Nat) (l : List Nat) : (l.flatMap (leBytes n)).length = l.length * n := by
  induction l with
  | nil => simp
  | cons x l ih => rw [List.flatMap_cons, List.length_append, leBytes_length, ih, List.length_cons, Nat.succ_mul, Nat.add_comm]

theorem shakeBytes_length (bs : List Byte) : (shakeBytes bs).length = 64 := by
  unfold shakeBytes keccakFinish
  dsimp only
  rw [List.length_take, flatMap_leBytes_length, keccakF, rounds_length, List.length_map, List.length_range]
  rfl

theorem State.attestInfo_length (s : State) : s.attestInfo.length = 256 := by
  simp only [State.attestInfo, List.length_append, leBytes_length, bytesOf_length, State.part, fit_length, State.fuseDigest, shakeBytes_length, zeros,
    List.length_replicate]

theorem State.description_length (s : State) : s.description.length = 448 := by
  simp only [State.description, List.length_append, leBytes_length, bytesOf_length, State.attestInfo_length]

/-! ### Stage 7 -/

/-- The start-up description does not depend on memory. -/
theorem State.description_setMem (s : State) (m : Mem) (meas : BitVec 512) :
    ((s.setMem m).setSide { (s.setMem m).side with osMeas := meas }).description = (s.setSide { s.side with osMeas := meas }).description := rfl

/-- An image stands in the system region, with its measurement and the description, and core 0 has started at an entry. -/
def State.osStarted (s : State) (im : List Byte) (meas : BitVec 512) (at_ : BitVec 64) : State :=
  let t := s.writeMem (sysKey bootLoad) im
  let t := t.setSide { t.side with osMeas := meas }
  let t := t.writeMem (sysKey 0) t.description
  t.setSide { t.side with harts := 1, hartEntry := [(0, at_)] }

/-- What the operating system's start leaves. -/
structure OsStarted (s : State) (im : List Byte) (meas : BitVec 512) (at_ : BitVec 64) (t : State) : Prop where
  only : s.only [.side, .mem] t
  harts : t.side.harts = 1
  measured : t.side.osMeas = meas
  entry : t.side.hartEntry = [(0, at_)]
  cells : t.mem.cells = cellsPut (cellsPut s.mem.cells (sysKey 0x200000) im) (sysKey 0) (s.setSide { s.side with osMeas := meas }).description

theorem OsStarted.osStarted (s : State) (im : List Byte) (meas : BitVec 512) (at_ : BitVec 64) : OsStarted s im meas at_ (s.osStarted im meas at_) := by
  constructor
  case only => exact ((((State.only_refl s _).setMem (by decide) _).setSide (by decide) _).setMem (by decide) _).setSide (by decide) _
  case cells =>
    unfold State.osStarted State.writeMem
    dsimp only
    rw [State.description_setMem]
    generalize State.description _ = desc
    rfl
  all_goals rfl

theorem stageOperatingSystem_none {s : State} (hdue : s.stageDue 4 7 = true) (hhart : s.side.harts.getLsbD 0 = false) (hheader : s.bootHeader = none) :
    Answers (exec .stageOperatingSystem s) fun t => t.side.halted = true ∧ t.side.fail = 0x71 ∧ t.side.attnCause.getLsbD 2 = true ∧ s.only [.side] t := by
  have hgo : (s.stageDue 4 7 && !s.side.harts.getLsbD 0) = true := by rw [hdue, hhart]; rfl
  have hexec : exec .stageOperatingSystem s = .next (s.setSide (s.side.haltedFor 0x71 causeFirmware)) := by
    show execStageOperatingSystem s = _
    rw [execStageOperatingSystem, hheader, ← s.halt_eq_firmware (by decide)]
    exact State.when_eq hgo
  exact ⟨_, hexec, rfl, rfl, getLsbD_or_bit s.side.attnCause (i := 2) (by decide), (State.only_refl s _).setSide (by decide) _⟩

theorem stageOperatingSystem_some {s : State} (hdue : s.stageDue 4 7 = true) (hhart : s.side.harts.getLsbD 0 = false) (hwf : s.mem.wf = true)
    {len entry : Nat} {im desc : List Byte} (hheader : s.bootHeader = some (len, entry)) (him : im = s.mem.read (flashKey 0x04510000) (64 + len))
    (hdesc : desc = (s.setSide { s.side with osMeas := shake im }).description) :
    Answers (exec .stageOperatingSystem s) fun t => s.only [.side, .mem] t ∧ t.side.harts = 1 ∧ t.side.osMeas = shake im ∧
      t.side.hartEntry = [(0, Config.systemPa + BitVec.ofNat 64 (0x200000 + 64 + entry))] ∧
      (∀ i v, im[i]? = some v → cellGet t.mem.cells (sysKey (0x200000 + i)) = v) ∧
      (∀ i v, desc[i]? = some v → cellGet t.mem.cells (sysKey i) = v) ∧ desc.length = 448 ∧
      ∀ a, (a < sysKey 0 ∨ sysKey 448 ≤ a) → (a < sysKey 0x200000 ∨ sysKey (0x200000 + 64 + len) ≤ a) → cellGet t.mem.cells a = cellGet s.mem.cells a := by
  have hgo : (s.stageDue 4 7 && !s.side.harts.getLsbD 0) = true := by rw [hdue, hhart]; rfl
  have hexec : exec .stageOperatingSystem s = .next (s.osStarted (s.mem.read (flashKey bootArea) (64 + len))
      (shake (s.mem.read (flashKey bootArea) (64 + len))) (Config.systemPa + BitVec.ofNat 64 (bootLoad + 64 + entry))) := by
    show execStageOperatingSystem s = _
    rw [execStageOperatingSystem, hheader]
    exact State.when_eq hgo
  rw [← show im = s.mem.read (flashKey bootArea) (64 + len) from him] at hexec
  obtain ⟨only, harts, meas, hentry, cells⟩ := OsStarted.osStarted s im (shake im) (Config.systemPa + BitVec.ofNat 64 (bootLoad + 64 + entry))
  rw [← hdesc] at cells
  have hlen : im.length = 64 + len := by rw [him, Mem.read_length]
  have hdlen : desc.length = 448 := by rw [hdesc, State.description_length]
  have hwf1 : cellsWf none (cellsPut s.mem.cells (sysKey 0x200000) im) = true := Mem.write_wf s.mem (sysKey 0x200000) im hwf
  refine ⟨_, hexec, only, harts, meas, hentry, fun i v hv => ?_, fun i v hv => ?_, hdlen, fun a hdescOff himOff => ?_⟩
  · rw [cells, cellsPut_other _ _ _ _ (by simp only [hdlen, sysKey]; omega)]
    exact cellsPut_self im s.mem.cells (sysKey 0x200000) i v hwf hv
  · rw [cells, show sysKey i = sysKey 0 + i from (Nat.zero_add i).symm]
    exact cellsPut_self desc _ (sysKey 0) i v hwf1 hv
  · simp only [sysKey] at hdescOff himOff
    rw [cells, cellsPut_other _ _ _ _ (by simp only [hdlen, sysKey]; omega), cellsPut_other _ _ _ _ (by simp only [hlen, sysKey]; omega)]

/-! ### Harts and the boot area -/

theorem hartStart_answers {s : State} {hart : Nat} {entry : BitVec 64} (hos : s.osRuns = true) (hhart : hart < 32) (hwait : s.side.harts.getLsbD hart = false) :
    Answers (exec (.hartStart hart entry) s) fun t => s.only [.side] t ∧ t.side.hartEntry.get? hart = some entry ∧ t.side.harts.getLsbD hart = true ∧
      (∀ i, i ≠ hart → t.side.harts.getLsbD i = s.side.harts.getLsbD i ∧ t.side.hartEntry.get? i = s.side.hartEntry.get? i) ∧
      t.side = { s.side with harts := t.side.harts, hartEntry := t.side.hartEntry } := by
  have hgo : (s.osRuns && hart < 32 && !s.side.harts.getLsbD hart) = true := by rw [hos, hwait, decide_eq_true hhart]; rfl
  have hexec : exec (.hartStart hart entry) s = .next (s.setSide
      { s.side with harts := s.side.harts ||| BitVec.ofNat 32 (2 ^ hart), hartEntry := s.side.hartEntry.put hart entry }) := State.when_eq hgo
  refine ⟨_, hexec, (State.only_refl s _).setSide (by decide) _, AMap.get?_put_self _ _ _, getLsbD_or_bit s.side.harts hhart,
    fun i hi => ⟨?_, AMap.get?_put_other _ _ _ _ hi⟩, rfl⟩
  show (s.side.harts ||| BitVec.ofNat 32 (2 ^ hart)).getLsbD i = _
  rw [BitVec.getLsbD_or, BitVec.getLsbD_ofNat, Nat.testBit_two_pow, decide_eq_false (Ne.symm hi), Bool.and_false, Bool.or_false]

theorem bootAreaWrite_answers {s : State} {ofs : Nat} {bytes : List Byte} (hos : s.osRuns = true) (hfits : ofs + bytes.length ≤ 2 ^ 28) (hwf : s.mem.wf = true) :
    Answers (exec (.bootAreaWrite ofs bytes) s) fun t => s.only [.mem] t ∧
      (∀ i v, bytes[i]? = some v → cellGet t.mem.cells (flashKey (0x04510000 + ofs) + i) = v) ∧
      ∀ a, (a < flashKey (0x04510000 + ofs) ∨ flashKey (0x04510000 + ofs) + bytes.length ≤ a) → cellGet t.mem.cells a = cellGet s.mem.cells a := by
  have hgo : (s.osRuns && ofs + bytes.length ≤ 2 ^ 28) = true := by rw [hos, decide_eq_true hfits]; rfl
  have hexec : exec (.bootAreaWrite ofs bytes) s = .next (s.writeMem (flashKey (0x04510000 + ofs)) bytes) := State.when_eq hgo
  exact ⟨_, hexec, (State.only_refl s _).setMem (by decide) _, fun i v hv => cellsPut_self bytes s.mem.cells _ i v hwf hv,
    fun a ha => cellsPut_other bytes s.mem.cells _ a ha⟩

/-! ### The obligation -/

/-- Settles O50: each stage by what its tests leave, and READY by whether it is due. -/
theorem startUp : Obligations.StartUp := by
  refine ⟨⟨fun s hon hdue hrun => ?_, fun s fuseOk pairs trim hdue hstep htop => ?_, fun s failed hdue => stageHbm_answers failed hdue,
      fun s hdue => ⟨stageDieLinks_passes hdue, stageDieLinks_fails hdue⟩⟩,
    fun s badC badT badK hdue => stageClusters_answers badC badT badK hdue,
    fun s hdue => ⟨stageFabric_starts hdue, stageFabric_ends hdue⟩,
    fun s hdue hhart hwf => ⟨stageOperatingSystem_none hdue hhart, fun len entry im desc hheader him hdesc =>
      stageOperatingSystem_some hdue hhart hwf hheader him hdesc⟩,
    fun s w hos hw hready => ⟨ready_held hos hw hready, ready_acts hos hw hready⟩,
    fun s hart entry hos hhart hwait => hartStart_answers hos hhart hwait,
    fun s ofs bytes hos hfits hwf => bootAreaWrite_answers hos hfits hwf⟩
  · have hgo : (s.side.v54 && !s.side.stageDone.getLsbD 1 && !s.side.halted) = true := by rw [hon, hdue, hrun]; rfl
    exact ⟨stageCricket_passes hon hgo, stageCricket_fails hon hgo⟩
  · cases fuseOk with
    | false =>
      obtain ⟨t, hexec, hfuse⟩ := stagePierFirmware_fuse pairs hdue hstep htop
      exact ⟨t, hexec, fun _ => hfuse, fun h => (by cases h), fun h => (by cases h), fun h => by cases h⟩
    | true =>
      cases hvalid : imageValid s.side.fwImage with
      | false =>
        obtain ⟨t, hexec, hchecked, hinvalid⟩ := stagePierFirmware_invalid pairs hdue hstep htop hvalid
        exact ⟨t, hexec, fun h => (by cases h), fun _ => hchecked, fun _ _ => hinvalid, fun _ h => by cases h⟩
      | true =>
        obtain ⟨t, hexec, hchecked, hinc, hpairs, hfew, hmany⟩ := stagePierFirmware_valid pairs hdue hstep htop hvalid
        refine ⟨t, hexec, fun h => (by cases h), fun _ => hchecked, fun _ h => (by cases h), fun _ _ => ⟨hinc, hpairs, ?_⟩⟩
        rintro ps rfl
        exact ⟨hfew, hmany⟩

end Sys2Proof.Machine
end

section
/-! PROOFS. The scalar and branch slot (R88, R89, R91, R92): what a slot makes of its core, where the core goes on, and the registers that read
as constants. -/

namespace Sys2Proof.Machine

/-! ### What a slot makes of its core -/

/-- A slot whose effect is a change of its own core. -/
theorem State.slotMakes_coreStep {s : State} {k : Nat} (sl : Nat) {f : Core → Core} {c : Core} (h : (f ((s.begin k).coreOf k)).bare = c.bare) :
    s.slotMakes k c ((((s.begin k).updCore k f).take k sl).finish k) :=
  CoreMade.slotMakes ⟨(CoreWork.updCore s k _).trans (CoreWork.updCore _ k f), by rw [State.coreOf_updCore_self]; exact h⟩ rfl sl

/-! ### Where the core goes on -/

/-- A core's kernel is found from what it runs, its launch and the kernels. -/
theorem State.kernelOf_congr {s t : State} {k : Nat} (hinst : (t.coreOf k).inst = (s.coreOf k).inst) (hcomp : s.compKept t) (hcmd : t.cmd = s.cmd) :
    t.kernelOf k = s.kernelOf k := by
  unfold State.compKept at hcomp
  have hinsts : t.comp.insts = s.comp.insts := by rw [hcomp]
  have hlaunches : t.comp.launches = s.comp.launches := by rw [hcomp]
  simp only [State.kernelOf, State.launchOf, State.instOf, hinst, hinsts, hlaunches, hcmd]

/-- In `u` core `k` stands at the bundle of `s` with the same slots taken. -/
structure StandsAt (k : Nat) (s u : State) : Prop where
  kernel : u.kernelOf k = s.kernelOf k
  pc : (u.coreOf k).pc = (s.coreOf k).pc
  taken : (u.coreOf k).taken = (s.coreOf k).taken

/-- A change of the core keeps its place when it keeps the bundle's index, the slots taken and what it runs. -/
theorem StandsAt.coreStep (s : State) (k : Nat) {f : Core → Core}
    (h : ∀ c, (f c).pc = c.pc ∧ (f c).taken = c.taken ∧ (f c).inst = c.inst) : StandsAt k s ((s.begin k).updCore k f) := by
  obtain ⟨hpc, htaken, hinst⟩ := h ((s.begin k).coreOf k)
  rw [State.coreOf_begin] at hpc htaken hinst
  refine ⟨State.kernelOf_congr ?_ rfl rfl, ?_, ?_⟩
  · rw [State.coreOf_updCore_self, State.coreOf_begin, hinst]
  · rw [State.coreOf_updCore_self, State.coreOf_begin, hpc]
  · rw [State.coreOf_updCore_self, State.coreOf_begin, htaken]

/-- Going on at a bundle finds the next one that holds an operation. -/
theorem State.arrive_pc (s : State) (k pc : Nat) : ((s.arrive k pc).coreOf k).pc = s.seekFrom k pc := by
  have hraise : ∀ (t : State) (f : FaultRec), ((t.raise k f).coreOf k).pc = (t.coreOf k).pc := fun t f => by
    rw [State.raise, State.coreOf_updCore_self]
    split <;> rfl
  have hfound : ∀ (t : State) (key n : Nat), (t.discover key n).coreOf k = t.coreOf k := fun t key n => by
    rw [State.coreOf, (ErrKept.discover t key n).comp, State.coreOf]
  unfold State.arrive
  dsimp only
  split
  · rw [hraise, State.coreOf_updCore_self]; rfl
  · split
    · rw [hraise, hfound, State.coreOf_updCore_self]; rfl
    · rw [hfound, State.coreOf_updCore_self]; rfl

/-- After a slot of a bundle, the slots taken are those taken before and that slot. -/
theorem getLsbD_taken (taken : BitVec 7) (sl : Nat) {x : Nat} (hx : x < 7) :
    (taken ||| BitVec.ofNat 7 (2 ^ sl)).getLsbD x = (decide (x = sl) || taken.getLsbD x) := by
  rw [BitVec.getLsbD_or, BitVec.getLsbD_ofNat, Nat.testBit_two_pow, Bool.or_comm]
  simp [hx, eq_comm]

theorem lt_of_mem_activeSlots {b : BitVec 512} {x : Nat} (h : x ∈ activeSlots b) : x < 7 := List.mem_range.1 (List.mem_filter.1 h).1

/-- The last slot of a bundle moves the core on, to the branch target or the next bundle; any other leaves it standing with its target (R91). -/
theorem StandsAt.goesOn {k : Nat} {s u : State} (h : StandsAt k s u) (hb : (s.bundle k).isSome = true) (sl : Nat) {tgt : Option Nat}
    (htgt : (u.coreOf k).target = tgt) : s.goesOn k sl tgt ((u.take k sl).finish k) := by
  obtain ⟨b, hb⟩ := Option.isSome_iff_exists.1 hb
  have hcore : (u.take k sl).coreOf k = { u.coreOf k with taken := (s.coreOf k).taken ||| BitVec.ofNat 7 (2 ^ sl) } := by
    rw [State.take, State.coreOf_updCore_self, h.taken]
  have hkernel : (u.take k sl).kernelOf k = s.kernelOf k :=
    (State.kernelOf_congr (s := u) (t := u.take k sl) (by rw [hcore]) rfl rfl).trans h.kernel
  have hbundle : (u.take k sl).bundle k = some b := by
    rw [← hb, State.bundle, State.bundle, State.bundleAt, State.bundleAt, hkernel, hcore, h.pc]
  have hlast : s.lastSlot k sl ↔ ((activeSlots b).all fun x => ((u.take k sl).coreOf k).taken.getLsbD x) = true := by
    simp only [State.lastSlot, hb, Option.some.injEq, exists_eq_left', List.all_eq_true, hcore]
    refine forall₂_congr fun x hx => ?_
    rw [getLsbD_taken _ _ (lt_of_mem_activeSlots hx), Bool.or_eq_true, decide_eq_true_eq]
  simp only [State.finish, hbundle]
  refine ⟨fun hl => ?_, fun hl => ?_⟩
  · rw [if_pos (hlast.1 hl), State.arrive_pc, State.seekFrom, hkernel, hcore, htgt, h.pc]
    rfl
  · rw [if_neg fun hall => hl (hlast.2 hall), hcore]
    exact ⟨h.pc, htgt⟩

/-- A slot that may issue is enabled in its bundle, which holds its opcode there. -/
theorem State.mayIssue_slot {s : State} {k sl op : Nat} (h : s.mayIssue k sl op = true) :
    ∃ b, s.bundle k = some b ∧ slotActive b sl = true ∧ slotOp b sl = op := by
  simp only [State.mayIssue, Bool.and_eq_true] at h
  obtain ⟨_, h⟩ := h
  cases hb : s.bundle k with
  | none => rw [hb] at h; exact nomatch h
  | some b =>
    simp only [hb, Bool.and_eq_true, decide_eq_true_eq] at h
    obtain ⟨⟨⟨⟨⟨hactive, hop⟩, _⟩, _⟩, _⟩, _⟩ := h
    exact ⟨b, rfl, hactive, hop⟩

theorem State.issues_bundle {s : State} {k sl op : Nat} (h : s.issues k sl op = true) : (s.bundle k).isSome = true := by
  obtain ⟨b, hb, _⟩ := State.mayIssue_slot ((State.issues_iff s k sl op).1 h).1
  rw [hb]; rfl

/-- A slot that issues with a change of its core makes the core so, and the core goes on with its target. -/
theorem State.slotStep_coreStep {s : State} {k sl op : Nat} (h : s.issues k sl op = true) {f : Core → Core} {c : Core} {tgt : Option Nat}
    (hplace : ∀ c, (f c).pc = c.pc ∧ (f c).taken = c.taken ∧ (f c).inst = c.inst) (hmakes : (f ((s.begin k).coreOf k)).bare = c.bare)
    (htgt : (f ((s.begin k).coreOf k)).target = tgt) :
    Answers (s.slotStep k sl op true fun t => t.updCore k f) fun t => s.slotMakes k c t ∧ s.goesOn k sl tgt t :=
  State.slotStep_answers h rfl
    ⟨State.slotMakes_coreStep sl hmakes, (StandsAt.coreStep s k hplace).goesOn (State.issues_bundle h) sl (by rw [State.coreOf_updCore_self, htgt])⟩

/-! ### Scalar operations -/

/-- A row's command is a scalar operation of the row's opcode, with the row's result. -/
def ScalarRow.Runs (r : ScalarRow) : Prop := ∀ k s, exec (r.cmd k) s = s.scalarOp k r.op r.f

theorem ScalarRow.Runs.answers {r : ScalarRow} (hruns : r.Runs) {s : State} {k : Nat} (h : s.issues k 6 r.op = true) :
    Answers (exec (r.cmd k) s) fun t =>
      s.slotMakes k ((s.coreOf k).withRegs ((s.coreOf k).regs.setS (fld (s.bits k 6) 55 51)
        (r.f ((s.src k).sr (fld (s.bits k 6) 50 46)) ((s.src k).sr (fld (s.bits k 6) 45 41)) (scalarImm (s.bits k 6))))) t ∧
      s.goesOn k 6 (s.coreOf k).target t := by
  rw [hruns k s, State.scalarOp]
  exact State.slotStep_coreStep h (fun _ => ⟨rfl, rfl, rfl⟩) (by rw [State.coreOf_begin]; rfl) (by rw [State.coreOf_begin])

/-! ### Registers that read as constants (R88) -/

theorem Regs.sr_setS_self (r : Regs) {i : Nat} (h : i ≠ 0) (v : W64) : (r.setS i v).sr i = v := by simp [Regs.setS, Regs.sr, h]

theorem Regs.sr_setS_other (r : Regs) {i j : Nat} (h : j ≠ i) (v : W64) : (r.setS i v).sr j = r.sr j := by
  unfold Regs.setS
  split
  · rfl
  · rw [Regs.sr, AMap.getD_put_other _ _ _ _ _ h, Regs.sr]

theorem Regs.pr_setP_self (r : Regs) {i : Nat} (h : i ≠ 0) (v : BitVec 128) : (r.setP i v).pr i = v := by simp [Regs.setP, Regs.pr, h]

theorem Regs.pr_setP_other (r : Regs) {i j : Nat} (h : j ≠ i) (v : BitVec 128) : (r.setP i v).pr j = r.pr j := by
  unfold Regs.setP
  split
  · rfl
  · rw [Regs.pr, AMap.getD_put_other _ _ _ _ _ h, Regs.pr]

/-! ### Words -/

/-- The low 32 bits of a word, kept by a mask. -/
theorem and_mask32 (a : W64) : a &&& 0xFFFFFFFF#64 = (a.setWidth 32).setWidth 64 := by
  apply BitVec.eq_of_toNat_eq
  have hmask : (0xFFFFFFFF#64).toNat = 2 ^ 32 - 1 := rfl
  rw [BitVec.toNat_and, hmask, Nat.and_two_pow_sub_one_eq_mod, BitVec.toNat_setWidth, BitVec.toNat_setWidth]
  omega

theorem mul_eq_ofNat (a b : W64) : a * b = BitVec.ofNat 64 (a.toNat * b.toNat) := by
  apply BitVec.eq_of_toNat_eq
  rw [BitVec.toNat_mul, BitVec.toNat_ofNat]

theorem boolWord_decide (p : Prop) [Decidable p] : boolWord (decide p) = if p then 1 else 0 := by
  by_cases h : p <;> simp [boolWord, h]

/-- A command that runs a scalar operation with the row's result. -/
theorem ScalarRow.Runs.of_eq {r : ScalarRow} (f : W64 → W64 → W64 → W64) (hexec : ∀ k s, exec (r.cmd k) s = s.scalarOp k r.op f)
    (hf : ∀ a b i, f a b i = r.f a b i) : r.Runs := by
  obtain rfl : f = r.f := funext fun a => funext fun b => funext fun i => hf a b i
  exact hexec

/-- Settles O5: every row is a scalar operation (`ScalarRow.Runs`), and the constant registers by the register file's own lemmas. -/
theorem scalarAndHardwired : Obligations.ScalarAndHardwired := by
  refine ⟨fun s k r hr h => ScalarRow.Runs.answers ?_ h, fun r v p => ⟨rfl, rfl, rfl, rfl, rfl, fun i hi =>
    ⟨r.sr_setS_self hi v, r.pr_setP_self hi p, fun j hj => ⟨r.sr_setS_other hj v, r.pr_setP_other hj p⟩⟩⟩⟩
  clear h
  revert r
  simp only [List.forall_mem_cons]
  refine ⟨fun _ _ => rfl, fun _ _ => rfl, fun _ _ => rfl, ?mul, fun _ _ => rfl, fun _ _ => rfl, fun _ _ => rfl, fun _ _ => rfl, fun _ _ => rfl,
    fun _ _ => rfl, ?lih, ?slt, ?sltu, List.forall_mem_nil _⟩
  case mul => exact .of_eq (fun a b _ => a * b) (fun _ _ => rfl) fun a b _ => mul_eq_ofNat a b
  case lih => exact .of_eq (fun a _ i => (i <<< 32) ||| (a &&& 0xFFFFFFFF#64)) (fun _ _ => rfl) fun a _ i => by rw [and_mask32]
  case slt => exact .of_eq (fun a b _ => boolWord (a.slt b)) (fun _ _ => rfl) fun a b _ => boolWord_decide (a.toInt < b.toInt)
  case sltu => exact .of_eq (fun a b _ => boolWord (a.ult b)) (fun _ _ => rfl) fun a b _ => boolWord_decide (a.toNat < b.toNat)

/-! ### Branches -/

/-- A number of `w` bits as a signed one is the bit vector's. -/
theorem sgn_eq_toInt (x : Nat) (h : x < 2 ^ 32) : sgn 32 x = (BitVec.ofNat 32 x).toInt := by
  rw [BitVec.toInt_eq_toNat_cond, toNat_ofNat_of_lt h, sgn]
  split <;> split <;> omega

theorem fld_lt (bits hi lo : Nat) : fld bits hi lo < 2 ^ (hi + 1 - lo) := Nat.mod_lt _ (Nat.two_pow_pos _)

/-- A branch target is the bundle plus the immediate, and beyond every image where the sum is below bundle 0 (R91, log 14). -/
theorem branchTarget_spec (pc bits : Nat) {d : Int} (hd : d = (BitVec.ofNat 32 (fld bits 31 0)).toInt) :
    (0 ≤ (pc : Int) + d → (branchTarget pc bits : Int) = pc + d) ∧ ((pc : Int) + d < 0 → branchTarget pc bits = 4096) := by
  rw [branchTarget, sgn_eq_toInt _ (fld_lt bits 31 0), ← hd]
  exact ⟨fun h => by rw [if_neg (by omega), Int.toNat_of_nonneg h], fun h => if_pos h⟩

/-- A row's command is a branch of the row's opcode, taken on the row's condition. -/
def BranchRow.Runs (r : BranchRow) : Prop := ∀ k s, exec (r.cmd k) s = s.branchOp k r.op r.f

theorem BranchRow.Runs.of_eq {r : BranchRow} (f : W64 → W64 → Bool) (hexec : ∀ k s, exec (r.cmd k) s = s.branchOp k r.op f)
    (hf : ∀ a b, f a b = r.f a b) : r.Runs := by
  obtain rfl : f = r.f := funext fun a => funext fun b => hf a b
  exact hexec

/-- A branch that issues changes no register, and when its condition holds its bundle goes on at its target. -/
theorem BranchRow.Runs.answers {r : BranchRow} (hruns : r.Runs) {s : State} {k : Nat} (h : s.issues k 6 r.op = true) :
    Answers (exec (r.cmd k) s) fun t =>
      s.slotMakes k (s.coreOf k) t ∧
      s.goesOn k 6 (if r.f ((s.src k).sr (fld (s.bits k 6) 50 46)) ((s.src k).sr (fld (s.bits k 6) 45 41)) = true
        then some (branchTarget (s.coreOf k).pc (s.bits k 6)) else (s.coreOf k).target) t := by
  rw [hruns k s, State.branchOp]
  by_cases htaken : r.f ((s.src k).sr (fld (s.bits k 6) 50 46)) ((s.src k).sr (fld (s.bits k 6) 45 41)) = true
  · simp only [htaken, if_true]
    exact State.slotStep_coreStep h (fun _ => ⟨rfl, rfl, rfl⟩) (by rw [State.coreOf_begin]; rfl) (by rw [State.coreOf_begin])
  · simp only [htaken, if_false, Bool.false_eq_true]
    exact State.slotStep_coreStep h (fun _ => ⟨rfl, rfl, rfl⟩) (by rw [State.coreOf_begin]; rfl) (by rw [State.coreOf_begin])

/-! ### Calls and returns (R92) -/

theorem call_answers {s : State} {k : Nat} (h : s.issues k 6 0x15 = true) : Answers (exec (.call k) s) fun t =>
    s.slotMakes k { s.coreOf k with stack := BitVec.ofNat 12 ((s.coreOf k).pc + 1) :: (s.coreOf k).stack } t ∧
    s.goesOn k 6 (some (branchTarget (s.coreOf k).pc (s.bits k 6))) t :=
  State.slotStep_coreStep h (fun _ => ⟨rfl, rfl, rfl⟩) (by rw [State.coreOf_begin]; rfl) (by rw [State.coreOf_begin])

theorem ret_answers {s : State} {k : Nat} {a : BitVec 12} {rest : List (BitVec 12)} (h : s.issues k 6 0x16 = true)
    (hstack : (s.coreOf k).stack = a :: rest) : Answers (exec (.ret k) s) fun t =>
    s.slotMakes k { s.coreOf k with stack := rest } t ∧ s.goesOn k 6 (some a.toNat) t :=
  State.slotStep_coreStep h (fun _ => ⟨rfl, rfl, rfl⟩) (by rw [State.coreOf_begin]; simp only [hstack]; rfl)
    (by rw [State.coreOf_begin]; simp only [hstack]; rfl)

/-- Settles O6: every branch is one operation (`BranchRow.Runs`), and calls and returns change the return stack and the target. -/
theorem controlFlow : Obligations.ControlFlow := by
  refine ⟨fun s k r hr h => BranchRow.Runs.answers ?_ h, fun pc bits d hd => branchTarget_spec pc bits hd,
    fun s k h => call_answers h, fun s k a rest h hstack => ret_answers h hstack⟩
  clear h
  revert r
  simp only [List.forall_mem_cons]
  refine ⟨?beq, fun _ _ => rfl, fun _ _ => rfl, ?bge, fun _ _ => rfl, List.forall_mem_nil _⟩
  case beq => exact .of_eq (fun a b => decide (a = b)) (fun _ _ => rfl) fun a b => (Bool.beq_eq_decide_eq a b).symm
  case bge => exact .of_eq (fun a b => !a.slt b) (fun _ _ => rfl) fun a b => by rw [BitVec.slt, ← decide_not]; simp only [not_lt]

/-! ### Special registers (R92) -/

/-- GETSR writes the special register's value, and where the table assigns none some value. -/
theorem getsr_answers {s : State} {k : Nat} (h : s.issues k 6 0x18 = true) : Answers (exec (.getsr k) s) fun t => ∃ v : W64,
    s.slotFreely k ((s.coreOf k).withRegs ((s.coreOf k).regs.setS (fld (s.bits k 6) 55 51) v)) t ∧
    ∀ x, s.specialReg k (fld (s.bits k 6) 11 0) = some x → v = x := by
  have hwrites : ∀ v : W64, CoreMade k s ((s.coreOf k).withRegs ((s.coreOf k).regs.setS (fld (s.bits k 6) 55 51) v))
      ((s.begin k).updRegs k fun x => x.setS (fld (s.bits k 6) 55 51) v) := fun v =>
    ⟨(CoreWork.updCore s k _).trans (CoreWork.updCore _ k _), by rw [State.updRegs, State.coreOf_updCore_self, State.coreOf_begin]; rfl⟩
  show Answers (execGetsr k s) _
  unfold execGetsr
  refine State.slotStep_answers h rfl ?_
  cases hreg : s.specialReg k (fld (s.bits k 6) 11 0) with
  | some v => exact ⟨v, (hwrites v).slotFreely 6, fun x hx => Option.some.inj hx⟩
  | none => exact ⟨_, ((hwrites _).setFree _).slotFreely 6, fun x hx => nomatch hx⟩

/-- The values of the special registers that the table assigns. -/
theorem State.specialReg_assigned {s : State} {k : Nat} {i : Inst} (hinst : s.instOf k = some i) :
    ∀ x ∈ [(0, BitVec.ofNat 64 i.index), (1, BitVec.ofNat 64 (((s.launchOf k).map (·.total)).getD 0)), (2, BitVec.ofNat 64 i.rank),
          (3, BitVec.ofNat 64 i.groupSize), (4, ((s.jobOf k).map (·.step)).getD 0), (6, BitVec.ofNat 64 i.unit_), (7, BitVec.ofNat 64 i.units),
          (8, BitVec.ofNat 64 i.rowFirst), (9, BitVec.ofNat 64 i.rowCount), (10, BitVec.ofNat 64 i.runFirst)] ++
        (List.range 8).map (fun j => (16 + j, (((s.coreOf k).tiles.getD j Tile.init).status).setWidth 64)),
      s.specialReg k x.1 = some x.2 := by
  intro x hx
  rcases List.mem_append.1 hx with hx | hx
  · simp only [List.mem_cons, List.not_mem_nil, or_false] at hx
    rcases hx with rfl | rfl | rfl | rfl | rfl | rfl | rfl | rfl | rfl | rfl <;> simp [State.specialReg, hinst]
  · obtain ⟨j, hj, rfl⟩ := List.mem_map.1 hx
    have hlt : j < 8 := List.mem_range.1 hj
    interval_cases j <;> simp [State.specialReg, hinst]

theorem setsr_answers {s : State} {k j : Nat} (h : s.issues k 6 0x19 = true) (hreg : fld (s.bits k 6) 11 0 = 16 + j) :
    Answers (exec (.setsr k) s) fun t =>
      s.slotMakes k ((s.coreOf k).updTile j fun x => { x with status := x.status &&& ~~~((s.src k).sr (fld (s.bits k 6) 50 46)).setWidth 32 }) t := by
  have hnum : fld (s.bits k 6) 11 0 - 0x10 = j := by omega
  show Answers (execSetsr k s) _
  unfold execSetsr
  refine State.slotStep_answers h rfl (State.slotMakes_coreStep 6 ?_)
  rw [hnum, State.coreOf_begin]
  rfl

/-! ### Faults of the scalar slot (R90, R92) -/

/-- A bundle whose slots below the scalar slot raise no fault raises the scalar slot's. -/
theorem State.newFault_scalar {s : State} {k op : Nat} {b : BitVec 512} {f : FaultRec} (hsnap : (s.coreOf k).snap = none) (hb : s.bundle k = some b)
    (hlow : ∀ sl < 6, slotActive b sl = true → s.slotFault k sl (slotOp b sl) (slotBits b sl) (s.coreOf k).regs = none)
    (hmay : s.mayIssue k 6 op = true) (hf : s.scalarFault k op (s.bits k 6) = some f) : s.newFault k = some f := by
  obtain ⟨c, hc, hactive, hop⟩ := State.mayIssue_slot hmay
  obtain rfl : b = c := Option.some.inj (hb.symm.trans hc)
  have hbits : s.bits k 6 = slotBits b 6 := by rw [State.bits, hb]; rfl
  have hslots : activeSlots b = (List.range 6).filter (slotActive b) ++ [6] := by
    rw [activeSlots, List.range_succ, List.filter_append, List.filter_singleton, hactive]; rfl
  have hbelow : ((List.range 6).filter (slotActive b)).findSome? (fun sl => s.slotFault k sl (slotOp b sl) (slotBits b sl) (s.coreOf k).regs) = none := by
    rw [List.findSome?_eq_none_iff]
    intro sl hsl
    obtain ⟨hlt, hon⟩ := List.mem_filter.1 hsl
    exact hlow sl (List.mem_range.1 hlt) hon
  have hown : s.slotFault k 6 (slotOp b 6) (slotBits b 6) (s.coreOf k).regs = some f := by rw [hop, ← hbits]; exact hf
  simp only [State.newFault, hsnap, hb, hslots, List.findSome?_append, hbelow, Option.none_or, List.findSome?_cons, hown]

/-- Settles O7: GETSR by `specialReg`, SETSR by the tile it changes, and the faults as the bundle's one fault. -/
theorem specialRegisters : Obligations.SpecialRegisters := by
  refine ⟨fun s k i h hinst => ?_, fun s k j h _ hreg => setsr_answers h hreg, fun s k b hsnap hb hlow => ?_⟩
  · obtain ⟨t, hexec, v, hfree, hval⟩ := getsr_answers h
    exact ⟨t, hexec, v, hfree, fun x hx heq => hval x.2 (heq ▸ State.specialReg_assigned hinst x hx)⟩
  · have hraise : ∀ {op : Nat} {f : FaultRec} (eff : State → State), s.mayIssue k 6 op = true → s.scalarFault k op (s.bits k 6) = some f →
        s.slotStep k 6 op true eff = .next (s.raise k f) := fun eff hmay hf =>
      State.slotStep_fault s k 6 _ eff _ hmay (State.newFault_scalar hsnap hb hlow hmay hf)
    refine ⟨fun hmay hfull => ?_, fun hmay hempty => ?_, fun hmay hreg => ?_⟩
    · show execCall k s = _
      unfold execCall
      exact hraise _ hmay (if_pos hfull)
    · show execRet k s = _
      unfold execRet
      refine hraise _ hmay ?_
      simp [State.scalarFault, hempty, State.illegal, State.faultHere]
    · show execSetsr k s = _
      unfold execSetsr
      refine hraise _ hmay ?_
      have hnone : (decide (fld (s.bits k 6) 11 0 < 16) || decide (23 < fld (s.bits k 6) 11 0)) = true := by simpa using hreg
      simp only [State.scalarFault, State.illegal, hnone, if_true]
      rfl

end Sys2Proof.Machine
end

section
/-! PROOFS. Predicates, reductions and tile reads of the vector slots (R73, R95, R116, R316). -/

namespace Sys2Proof.Machine

/-! ### Bits of a predicate -/

theorem testBit_foldr_bits (f : Nat → Bool) (l : List Nat) (i : Nat) :
    (l.foldr (fun j acc => (if f j then 1 else 0) + 2 * acc) 0).testBit i = (l[i]?).any f := by
  induction l generalizing i with
  | nil => simp
  | cons j l ih =>
    rw [List.foldr_cons]
    generalize l.foldr (fun j acc => (if f j then 1 else 0) + 2 * acc) 0 = acc at ih ⊢
    cases i with
    | zero => cases hf : f j <;> simp [Nat.testBit_zero, hf]
    | succ i =>
      have hhalf : ((if f j then 1 else 0) + 2 * acc) / 2 = acc := by split <;> omega
      rw [Nat.testBit_succ, hhalf, ih, List.getElem?_cons_succ]

@[simp] theorem getLsbD_ofPred (f : Nat → Bool) {i : Nat} (h : i < 128) : (ofPred f).getLsbD i = f i := by
  have hget : (List.range 128)[i]? = some i := List.getElem?_range h
  rw [ofPred, BitVec.getLsbD_ofNat, testBit_foldr_bits, hget]
  simp [h]

/-! ### Predicate operations -/

/-- What a predicate operation of slot `sl` makes of its core when it issues: the lanes of pd whose predicate bit is set. -/
theorem State.predOp_answers {s : State} {k sl op : Nat} (f : Regs → Nat → Nat → Bool) (h : s.issues k sl op = true) :
    Answers (s.predOp k sl op f) fun t => ∃ v : BitVec 128,
      s.slotMakes k ((s.coreOf k).withRegs ((s.coreOf k).regs.setP (fld (s.bits k sl) 39 36) v)) t ∧
      ∀ i < 128, v.getLsbD i = if ((s.src k).pr (fld (s.bits k sl) 43 40)).getLsbD i then f (s.src k) (s.bits k sl) i
        else ((s.coreOf k).regs.pr (fld (s.bits k sl) 39 36)).getLsbD i := by
  unfold State.predOp
  refine State.slotStep_answers h rfl ⟨ofPred fun i => if ((s.src k).pr (fld (s.bits k sl) 43 40)).getLsbD i then f (s.src k) (s.bits k sl) i
    else ((s.coreOf k).regs.pr (fld (s.bits k sl) 39 36)).getLsbD i, ?_, fun i hi => getLsbD_ofPred _ hi⟩
  exact State.slotMakes_updRegs s k sl fun x => x.setP (fld (s.bits k sl) 39 36)
    (ofPred fun i => if ((s.src k).pr (fld (s.bits k sl) 43 40)).getLsbD i then f (s.src k) (s.bits k sl) i
      else (x.pr (fld (s.bits k sl) 39 36)).getLsbD i)

/-- PLOG's result in a lane, by SUB. -/
def plogLane (g : Regs) (b i : Nat) : Bool :=
  [(g.pr (fld b 58 54 % 16)).getLsbD i && (g.pr (fld b 53 49 % 16)).getLsbD i, (g.pr (fld b 58 54 % 16)).getLsbD i || (g.pr (fld b 53 49 % 16)).getLsbD i,
    (g.pr (fld b 58 54 % 16)).getLsbD i != (g.pr (fld b 53 49 % 16)).getLsbD i,
    (g.pr (fld b 58 54 % 16)).getLsbD i && !(g.pr (fld b 53 49 % 16)).getLsbD i].getD (fld b 35 32) (!(g.pr (fld b 58 54 % 16)).getLsbD i)

theorem plog_eq (k : Nat) (b : Bool) (s : State) : exec (.plog k b) s = s.predOp k (vecSlot b) 0x1D plogLane := by
  show execPlog k b s = _
  unfold execPlog
  congr 1
  funext r bits i
  unfold plogLane
  rcases fld bits 35 32 with _ | _ | _ | _ | sub <;> rfl

/-! ### Reductions -/

/-- A reduction that issues writes its result to lane 0 and +0 to every other lane. -/
theorem State.reduceOp_answers {s : State} {k op : Nat} (f : List W32 → W32) (empty : W32) (h : s.issues k 2 op = true) :
    Answers (s.reduceOp k op f empty) fun t => ∃ v : BitVec 4096,
      s.slotMakes k ((s.coreOf k).withRegs ((s.coreOf k).regs.setV (fld (s.bits k 2) 63 59) v)) t ∧
      lane v 0 = f ((List.range 128).map fun i => if ((s.src k).pr (fld (s.bits k 2) 43 40)).getLsbD i
        then lane ((s.src k).vr (fld (s.bits k 2) 58 54)) i else empty) ∧
      ∀ i, 0 < i → i < 128 → lane v i = 0 := by
  unfold State.reduceOp
  refine State.slotStep_answers h rfl ⟨_, State.slotMakes_updRegs s k 2 fun x => x.setV (fld (s.bits k 2) 63 59) (ofLanes fun i => if i = 0 then _ else 0), ?_, ?_⟩
  · rw [lane_ofLanes _ (by decide), if_pos rfl]
  · intro i hpos hi
    rw [lane_ofLanes _ hi, if_neg (by omega)]

/-! ### Tile reads -/

/-- A fault that a core has stays while it goes on. -/
theorem State.fault_takeFinish {s : State} {k : Nat} (sl : Nat) (h : (s.coreOf k).fault.isSome = true) :
    (((s.take k sl).finish k).coreOf k).fault.isSome = true := by
  have hraise : ∀ (t : State) (f : FaultRec), (t.coreOf k).fault.isSome = true → ((t.raise k f).coreOf k).fault.isSome = true := fun t f ht => by
    rw [State.raise, State.coreOf_updCore_self, if_pos ht]; exact ht
  have htake : ((s.take k sl).coreOf k).fault.isSome = true := by rw [State.take, State.coreOf_updCore_self]; exact h
  generalize s.take k sl = t at htake
  have hfound : ∀ (u : State) (key n : Nat), (u.discover key n).coreOf k = u.coreOf k := fun u key n => by
    rw [State.coreOf, (ErrKept.discover u key n).comp, State.coreOf]
  unfold State.finish
  split
  · exact htake
  · dsimp only
    split
    · unfold State.arrive
      dsimp only
      split
      · exact hraise _ _ (by rw [State.coreOf_updCore_self]; exact htake)
      · split
        · exact hraise _ _ (by rw [hfound, State.coreOf_updCore_self]; exact htake)
        · rw [hfound, State.coreOf_updCore_self]; exact htake
    · exact htake

/-- TRD copies the set lanes of a tile's row, and raises a fault for a row that is poisoned. -/
theorem trd_answers {s : State} {k : Nat} {tile : Tile} (htile : tile = (s.coreOf k).tiles.getD (fld (s.bits k 2) 58 54 % 8) Tile.init)
    (h : s.issues k 2 0x1C = true) (hverdicts : tile.verdicts = 0) : Answers (exec (.trd k) s) fun t => ∃ v : BitVec 4096,
      s.slotMakes k ((s.coreOf k).withRegs ((s.coreOf k).regs.setV (fld (s.bits k 2) 63 59) v)) t ∧
      (∀ i < 128, lane v i = if ((s.src k).pr (fld (s.bits k 2) 43 40)).getLsbD i then tile.e.getD (128 * fld (s.bits k 2) 6 0 + i) 0
        else lane ((s.coreOf k).regs.vr (fld (s.bits k 2) 63 59)) i) ∧
      (tile.bad.any (fun b => b / 8 = fld (s.bits k 2) 6 0) = true → (s.coreOf k).fault = none → (t.coreOf k).fault.isSome = true) := by
  subst htile
  show Answers (execTrd k s) _
  unfold execTrd
  extract_lets bits r tile
  refine State.slotStep_answers h (by simp only [tile, bits, hverdicts, decide_true]) ?_
  extract_lets u
  have hmade : CoreMade k s ((s.coreOf k).withRegs ((s.coreOf k).regs.setV (fld bits 63 59) (mergeLanes (r.pr (fld bits 43 40))
      ((s.coreOf k).regs.vr (fld bits 63 59)) fun i => tile.e.getD (128 * fld bits 6 0 + i) 0))) u :=
    ⟨(CoreWork.updCore s k _).trans (CoreWork.updCore _ k _), by simp only [u, State.updRegs]; rw [State.coreOf_updCore_self, State.coreOf_begin]; rfl⟩
  refine ⟨_, ?_, fun i hi => lane_mergeLanes _ _ _ hi, fun hbad hnone => ?_⟩
  · split
    · exact (hmade.raise _).slotMakes rfl 2
    · exact hmade.slotMakes rfl 2
  · have hu : (u.coreOf k).fault = none := by simp only [u, State.updRegs]; rw [State.coreOf_updCore_self, State.coreOf_begin]; exact hnone
    rw [if_pos hbad]
    exact State.fault_takeFinish 2 (by rw [State.coreOf_raise _ hu]; rfl)

/-- Settles O12: every predicate row is one operation (`State.predOp`), the reductions another, and a tile read by the lanes it merges. -/
theorem predicatesAndReductions : Obligations.PredicatesAndReductions := by
  refine ⟨fun s k r hr h => ?_, fun s k r hr h => ?_, fun s k tile htile h hverdicts => trd_answers htile h hverdicts⟩
  · have hrow : ∀ s k, exec (r.1 k) s = s.predOp k r.2.1 r.2.2.1 r.2.2.2 := by
      clear h
      revert r
      simp only [List.flatMap_cons, List.flatMap_nil, List.cons_append, List.nil_append, List.append_nil, List.forall_mem_cons]
      exact ⟨fun _ _ => rfl, fun s k => plog_eq k false s, fun _ _ => rfl, fun s k => plog_eq k true s, fun _ _ => rfl, List.forall_mem_nil _⟩
    rw [hrow]
    exact State.predOp_answers _ h
  · have hrow : ∀ s k, exec (r.1 k) s = s.reduceOp k r.2.1 r.2.2.1 r.2.2.2 := by
      clear h
      revert r
      simp only [List.forall_mem_cons]
      exact ⟨fun _ _ => rfl, fun _ _ => rfl, List.forall_mem_nil _⟩
    rw [hrow]
    exact State.reduceOp_answers _ _ h

end Sys2Proof.Machine
end

section
/-! PROOFS. Reads of a handle's bytes (R109, R110, R127, R130, R145, R153), and the address generators (R93). -/

namespace Sys2Proof.Machine

/-! ### What a read touches -/

/-- From `s` to `t` a read used translations, counted heat, marked shadow lines and asked for what stands outside the module. -/
def State.readTouched (s t : State) : Prop := ∃ p c w, t = ((s.setPlace p).setCmd c).setWire w

theorem State.readTouched_place (s : State) (p : Place) : s.readTouched (s.setPlace p) := ⟨p, s.cmd, s.wire, rfl⟩
theorem State.readTouched_cmd (s : State) (c : Cmd) : s.readTouched (s.setCmd c) := ⟨s.place, c, s.wire, rfl⟩
theorem State.readTouched_wire (s : State) (w : Wire) : s.readTouched (s.setWire w) := ⟨s.place, s.cmd, w, rfl⟩
theorem State.readTouched_refl (s : State) : s.readTouched s := s.readTouched_place s.place

theorem State.readTouched_trans {s t u : State} (h : s.readTouched t) (g : t.readTouched u) : s.readTouched u := by
  obtain ⟨p, c, w, rfl⟩ := h
  obtain ⟨q, d, x, rfl⟩ := g
  exact ⟨q, d, x, rfl⟩

theorem State.readTouched_ite {s t u : State} {c : Prop} [Decidable c] (h : s.readTouched t) (g : s.readTouched u) :
    s.readTouched (if c then t else u) := by
  split
  · exact h
  · exact g

theorem State.readTouched_foldl {α : Type} {f : State → α → State} (h : ∀ (s : State) x, s.readTouched (f s x)) (l : List α) (s : State) :
    s.readTouched (l.foldl f s) := by
  induction l generalizing s with
  | nil => exact s.readTouched_refl
  | cons x l ih => exact State.readTouched_trans (h s x) (ih _)

theorem State.readTouched_heatPages (s : State) (who : Option Nat) (h : BitVec 32) (ofs n : Nat) : s.readTouched (s.heatPages who h ofs n) := by
  unfold State.heatPages State.updBerth
  split
  · exact s.readTouched_refl
  · exact s.readTouched_place _

theorem State.readTouched_tcTouch (s : State) (who : Option Nat) (h : BitVec 32) (ofs n : Nat) : s.readTouched (s.tcTouch who h ofs n) := by
  unfold State.tcTouch
  split
  · refine State.readTouched_foldl (fun s p => ?_) _ s
    unfold State.tcUse
    split
    · exact s.readTouched_place _
    · exact s.readTouched_refl
  · exact s.readTouched_refl

theorem State.readTouched_predRead (s : State) (h : BitVec 32) (ofs n : Nat) : s.readTouched (s.predRead h ofs n) := by
  refine State.readTouched_foldl (fun s e => ?_) _ s
  exact State.readTouched_ite s.readTouched_refl (State.readTouched_trans (s.readTouched_place _) (State.readTouched_cmd _ _))

theorem State.readTouched_shadowRead (s : State) (who : Option Nat) (h : BitVec 32) (ofs n : Nat) : s.readTouched (s.shadowRead who h ofs n) := by
  unfold State.shadowRead
  split
  · exact s.readTouched_refl
  · have hpred := s.readTouched_predRead h ofs n
    dsimp only
    split
    · exact hpred
    · exact State.readTouched_trans hpred (State.readTouched_place _ _)

theorem State.readTouched_wantRead (s : State) (k : Nat) (h : BitVec 32) (ofs n : Nat) : s.readTouched (s.wantRead (some k) h ofs n) := by
  unfold State.wantRead
  dsimp only
  split
  · rw [State.wantSpan_eq]; exact s.readTouched_wire _
  · exact s.readTouched_wire _

/-! ### A read of a span -/

/-- From `s` to `t` the `n` bytes from a key were read: memory is up to date with the records that meet them, and errors may have been found. -/
structure SpanRead (s : State) (key n : Nat) (t : State) : Prop where
  comp : t.comp = s.comp
  cells : t.mem.cells = (s.laSync key n).mem.cells
  net : t.net = s.net
  only : s.only [.mem, .health, .ledger, .chip, .cmd, .place] t

theorem SpanRead.sync (s : State) (key n : Nat) : SpanRead s key n ((s.laSync key n).discover key n) := by
  have hfound := ErrKept.discover (s.laSync key n) key n
  have hsync : s.laSync key n = s.setMem (s.laSync key n).mem := by rw [State.laSync_eq]; exact State.writeRuns_eq s _
  generalize (s.laSync key n).discover key n = t at hfound
  refine ⟨?_, hfound.cells, ?_, ?_, fun p hp => ?_⟩
  · rw [hfound.comp, hsync]; rfl
  · rw [hfound.net, hsync]; rfl
  · rw [hfound.pending, hsync]; rfl
  · rw [hsync] at hfound
    cases p <;> simp [State.same] at hp ⊢
    · exact hfound.clk
    · exact hfound.side
    · exact hfound.comp
    · exact hfound.quay
    · exact hfound.exch
    · exact hfound.coll
    · exact hfound.net
    · exact hfound.out
    · exact hfound.free

theorem SpanRead.touch {s t u : State} {key n : Nat} (h : SpanRead s key n t) (g : t.readTouched u) : SpanRead s key n u := by
  obtain ⟨p, c, w, rfl⟩ := g
  refine ⟨h.comp, h.cells, h.net, h.only.1, fun q hq => ?_⟩
  have hsame := h.only.2 q hq
  cases q with
  | place => simp at hq
  | cmd => simp at hq
  | _ => exact hsame

/-- What a read of a span by a core leaves. -/
theorem SpanRead.readSpan (s : State) (k : Nat) (h : BitVec 32) (ofs n : Nat) :
    SpanRead s (spanKey k h ofs) n (s.readSpan (some k) h ofs n).2 := by
  have hsync := SpanRead.sync s (spanKey k h ofs) n
  simp only [State.readSpan, Option.getD_some]
  generalize (s.laSync (spanKey k h ofs) n).discover (spanKey k h ofs) n = t at hsync ⊢
  split
  · exact hsync
  · dsimp only
    refine hsync.touch ?_
    exact State.readTouched_trans (State.readTouched_trans (State.readTouched_trans (t.readTouched_wantRead k h ofs n)
      (State.readTouched_heatPages _ _ _ _ _)) (State.readTouched_tcTouch _ _ _ _ _)) (State.readTouched_shadowRead _ _ _ _ _)

/-- Operand SRAM is read without placement. -/
theorem State.readSpan_sram_place (s : State) (k ofs n : Nat) : (s.readSpan (some k) 0 ofs n).2.place = s.place := by
  have hplace : ((s.laSync (spanKey k 0 ofs) n).discover (spanKey k 0 ofs) n).place = s.place := by
    rw [(ErrKept.discover _ _ _).place, State.laSync_eq, State.writeRuns_eq]; rfl
  simpa [State.readSpan] using hplace

/-- A read delivers the bytes of memory brought up to date. -/
theorem State.readSpan_data (s : State) (k : Nat) (h : BitVec 32) (ofs n : Nat) :
    (s.readSpan (some k) h ofs n).1.data = (s.laSync (spanKey k h ofs) n).mem.read (spanKey k h ofs) n := by
  have hread : ((s.laSync (spanKey k h ofs) n).discover (spanKey k h ofs) n).mem.read (spanKey k h ofs) n =
      (s.laSync (spanKey k h ofs) n).mem.read (spanKey k h ofs) n := Mem.read_congr (ErrKept.discover _ _ _).cells _ _
  simp only [State.readSpan, Option.getD_some]
  split <;> exact hread

/-- A core's place does not matter to what a read brings up to date. -/
theorem State.laSync_read_congr {s t : State} (hcells : t.mem.cells = s.mem.cells) (hlas : t.comp.las = s.comp.las) (key n : Nat) :
    (t.laSync key n).mem.read key n = (s.laSync key n).mem.read key n := by
  refine Mem.read_congr ?_ key n
  rw [State.laSync_eq, State.laSync_eq, hlas]
  exact State.writeRuns_cells hcells _

/-! ### What an access of a core leaves alone -/

/-- From `s` to `t` core `k` worked and read: the fabric's state and the long accumulators' entries stay too. -/
structure AccessKept (k : Nat) (s t : State) : Prop where
  frame : s.accessFrame k t
  net : t.net = s.net
  las : t.comp.las = s.comp.las

theorem AccessKept.trans {k : Nat} {s t u : State} (h : AccessKept k s t) (g : AccessKept k t u) : AccessKept k s u :=
  ⟨State.accessFrame_trans h.frame g.frame, g.net.trans h.net, g.las.trans h.las⟩

theorem CoreWork.accessKept {k : Nat} {s t : State} (h : CoreWork k s t) : AccessKept k s t :=
  ⟨h.accessFrame, h.only.2 .net (by decide), by rw [h.comp]⟩

theorem SpanRead.coreOf {s t : State} {key n : Nat} (h : SpanRead s key n t) (j : Nat) : t.coreOf j = s.coreOf j := by
  rw [State.coreOf, h.comp, State.coreOf]

theorem SpanRead.accessKept {s t : State} {key n : Nat} (h : SpanRead s key n t) (k : Nat) : AccessKept k s t :=
  ⟨⟨fun j _ => h.coreOf j, by rw [h.comp], State.only_mono (by decide) h.only⟩, h.net, by rw [h.comp]⟩

theorem AccessKept.takeFinish {k : Nat} {s t : State} (h : AccessKept k s t) (sl : Nat) : AccessKept k s ((t.take k sl).finish k) :=
  h.trans (CoreWork.ofIssue (IssueKept.takeFinish t k sl)).accessKept

/-! ### Generators in a core -/

theorem gcfg_answers {s : State} {k a : Nat} (ha : a = (gcfgAddr (s.src k) (s.bits k 1)).toNat) (h : s.issues k 1 10 = true) :
    Answers (exec (.gcfg k) s) fun t =>
      Core.issued ((s.coreOf k).withRegs ((s.coreOf k).regs.setG (fld (s.bits k 1) 66 64)
        (BitVec.ofNat 256 (leNat ((s.laSync (sramKey k a) 32).mem.read (sramKey k a) 32) / 2 ^ 48 * 2 ^ 48)))) (t.coreOf k) ∧
      AccessKept k s t ∧ t.place = s.place := by
  subst ha
  show Answers (execGcfg k s) _
  unfold execGcfg
  extract_lets bits r a
  refine State.slotStep_answers h rfl ?_
  have hread := SpanRead.readSpan (s.begin k) k 0 a 32
  have hplace := (s.begin k).readSpan_sram_place k a 32
  have hdata := ((s.begin k).readSpan_data k 0 a 32).trans (State.laSync_read_congr (s := s) (t := s.begin k) rfl rfl (spanKey k 0 a) 32)
  generalize (s.begin k).readSpan (some k) 0 a 32 = found at hread hplace hdata ⊢
  obtain ⟨g, u⟩ := found
  dsimp only at hread hplace hdata ⊢
  -- whatever fault the read raises, the core and the rest are the same but for it
  have hends : ∀ v, IssueKept k (u.updRegs k fun x => x.setG (fld bits 66 64) (BitVec.ofNat 256 (leNat g.data / 2 ^ 48 * 2 ^ 48))) v →
      Core.issued ((s.coreOf k).withRegs ((s.coreOf k).regs.setG (fld bits 66 64)
        (BitVec.ofNat 256 (leNat ((s.laSync (sramKey k a) 32).mem.read (sramKey k a) 32) / 2 ^ 48 * 2 ^ 48)))) (v.coreOf k) ∧
      AccessKept k s v ∧ v.place = s.place := by
    intro v hissue
    refine ⟨?_, ?_, hissue.place.trans hplace⟩
    · show Core.bare _ = _
      rw [hissue.core, State.updRegs, State.coreOf_updCore_self, hread.coreOf, State.coreOf_begin, hdata]
      rfl
    · exact (((CoreWork.updCore s k _).accessKept.trans (hread.accessKept k)).trans (CoreWork.updCore u k _).accessKept).trans (CoreWork.ofIssue hissue).accessKept
  split
  · exact hends _ ((IssueKept.raise _ k _).trans (IssueKept.takeFinish _ k 1))
  · exact hends _ (IssueKept.takeFinish _ k 1)

theorem gset_answers {s : State} {k : Nat} (h : s.issues k 1 11 = true) : Answers (exec (.gset k) s) fun t =>
    s.slotMakes k ((s.coreOf k).withRegs ((s.coreOf k).regs.setG (fld (s.bits k 1) 66 64)
      (genIdx ((s.coreOf k).regs.gr (fld (s.bits k 1) 66 64)) (bitsOf ((s.src k).sr (fld (s.bits k 1) 71 67)).toNat 15 0)
        (bitsOf ((s.src k).sr (fld (s.bits k 1) 71 67)).toNat 31 16)))) t := by
  show Answers (execGset k s) _
  unfold execGset
  extract_lets bits v
  have hlow : bitsOf v 15 0 = v % 2 ^ 16 := rfl
  have hhigh : bitsOf v 31 16 = v / 2 ^ 16 % 2 ^ 16 := by rw [bitsOf, Nat.shiftRight_eq_div_pow]
  refine State.slotStep_answers h rfl ?_
  rw [← hlow, ← hhigh]
  exact State.slotMakes_updRegs s k 1 fun x => x.setG (fld bits 66 64) (genIdx (x.gr (fld bits 66 64)) (bitsOf v 15 0) (bitsOf v 31 16))

theorem gadv_answers {s : State} {k : Nat} (h : s.issues k 1 12 = true) : Answers (exec (.gadv k) s) fun t =>
    s.slotMakes k ((s.coreOf k).withRegs ((s.coreOf k).regs.setG (fld (s.bits k 1) 66 64)
      (genAdvance ((s.coreOf k).regs.gr (fld (s.bits k 1) 66 64))))) t := by
  show Answers (execGadv k s) _
  unfold execGadv
  exact State.slotStep_answers h rfl (State.slotMakes_updRegs s k 1 fun x => x.setG (fld (s.bits k 1) 66 64) (genAdvance (x.gr (fld (s.bits k 1) 66 64))))

/-! ### The fields of a generator -/

theorem toNat_append_add {m n : Nat} (x : BitVec m) (y : BitVec n) : (x ++ y).toNat = x.toNat * 2 ^ n + y.toNat := by
  rw [BitVec.toNat_append, ← Nat.shiftLeft_add_eq_or_of_lt y.isLt, Nat.shiftLeft_eq]

/-- A generator with other indices, as a number. -/
theorem genIdx_toNat (g : BitVec 256) (i0 i1 : Nat) :
    (genIdx g i0 i1).toNat = ((g.toNat / 2 ^ 80 * 2 ^ 16 + i0 % 2 ^ 16) * 2 ^ 16 + i1 % 2 ^ 16) * 2 ^ 48 + g.toNat % 2 ^ 48 := by
  have hg : g.toNat < 2 ^ 256 := g.isLt
  have hupper : g.toNat / 2 ^ 80 % 2 ^ 176 = g.toNat / 2 ^ 80 := Nat.mod_eq_of_lt (by omega)
  simp only [genIdx, toNat_append_add, BitVec.toNat_ofNat, BitVec.extractLsb'_toNat, Nat.shiftRight_eq_div_pow, hupper, Nat.pow_zero, Nat.div_one]

theorem genIdx_upper (g : BitVec 256) (i0 i1 : Nat) : bitsOf (genIdx g i0 i1).toNat 255 80 = bitsOf g.toNat 255 80 := by
  simp only [bitsOf, genIdx_toNat, Nat.shiftRight_eq_div_pow]
  omega

theorem genIdx_idx0 (g : BitVec 256) (i0 i1 : Nat) : bitsOf (genIdx g i0 i1).toNat 79 64 = i0 % 65536 := by
  simp only [bitsOf, genIdx_toNat, Nat.shiftRight_eq_div_pow]
  omega

theorem genIdx_idx1 (g : BitVec 256) (i0 i1 : Nat) : bitsOf (genIdx g i0 i1).toNat 63 48 = i1 % 65536 := by
  simp only [bitsOf, genIdx_toNat, Nat.shiftRight_eq_div_pow]
  omega

/-- A generator advances by the carry of its indices (R93). -/
theorem genAdvance_indices (g : BitVec 256) {i0 i1 c0 c1 : Nat} (hi0 : i0 = bitsOf g.toNat 79 64) (hi1 : i1 = bitsOf g.toNat 63 48)
    (hc0 : c0 = wrapCount (bitsOf g.toNat 143 128)) (hc1 : c1 = wrapCount (bitsOf g.toNat 95 80)) :
    genAdvance g = genIdx g (if i0 + 1 = c0 then 0 else i0 + 1) (if i0 + 1 = c0 then (if i1 + 1 = c1 then 0 else i1 + 1) else i1) := by
  subst hi0 hi1 hc0 hc1
  unfold genAdvance
  dsimp only
  split_ifs <;> rfl

theorem bitsOf_lt (x hi lo : Nat) : bitsOf x hi lo < 2 ^ (hi + 1 - lo) := Nat.mod_lt _ (Nat.two_pow_pos _)

/-- Settles O9: the slots by what each makes of its core, and an advance by the two indices that it replaces. -/
theorem generators : Obligations.Generators := by
  refine ⟨⟨fun s k a ha h => ?_, fun s k h => gset_answers h, fun s k h => gadv_answers h⟩, fun g i0 i1 c0 c1 hi0 hi1 hc0 hc1 => ?_⟩
  · obtain ⟨t, hexec, hcore, hkept, hplace⟩ := gcfg_answers ha h
    exact ⟨t, hexec, hcore, hkept.frame, hkept.net, hkept.las, hplace⟩
  · have hbound : i1 < 65536 := hi1 ▸ bitsOf_lt g.toNat 63 48
    have hstride0 : genStride0 g = (BitVec.ofNat 32 (bitsOf g.toNat 175 144)).toInt := sgn_eq_toInt _ (bitsOf_lt g.toNat 175 144)
    have haddr : genAddr g = (bitsOf g.toNat 223 176 : Int) + (i0 : Int) * (BitVec.ofNat 32 (bitsOf g.toNat 175 144)).toInt +
        (i1 : Int) * (BitVec.ofNat 32 (bitsOf g.toNat 127 96)).toInt := by
      rw [genAddr, hstride0, sgn_eq_toInt _ (bitsOf_lt g.toNat 127 96), hi0, hi1]
    rw [genAdvance_indices g hi0 hi1 hc0 hc1]
    simp only [genIdx_idx0, genIdx_idx1, genIdx_upper]
    refine ⟨fun hwrap => ?_, fun hwrap => ?_, trivial, haddr⟩
    · simp only [hwrap, if_true]
      exact ⟨trivial, fun hwrap1 => by rw [if_pos hwrap1], fun hwrap1 => by rw [if_neg hwrap1]⟩
    · simp only [hwrap, if_false]
      exact ⟨trivial, Nat.mod_eq_of_lt hbound⟩

end Sys2Proof.Machine
end

section
/-! PROOFS. A signal add to an absent module, on a core whose earlier load has failed (R103, R112). -/

namespace Sys2Proof.Machine

/-! ### A core in the middle of a bundle, with a fault that an earlier load raised -/

/-- Two slots: ADD in slot 6, and in slot 5 an SGADD whose operands begin at s6. -/
def addAndSgadd : BitVec 512 := BitVec.ofNat 512 (2 ^ (511 - 6) + 2 ^ (511 - 5) + 1 * 2 ^ (slotLow 6 + 56) + (7 * 2 ^ 40 + 6 * 2 ^ 27) * 2 ^ slotLow 5)

/-- The fault of a load of an earlier bundle, which the core meets while a later bundle issues. -/
def earlierFault : FaultRec := ⟨7, 1, false, 0, 64⟩

/-- The core has issued the ADD; the SGADD, of 2 to word 1 of module 5, is still to come. -/
def midBundleCore : Core :=
  { Core.init with
    inst := some 0, regs := { s := [(6, 1#64), (7, 2#64), (8, 5#64)], v := [], p := [], g := [] },
    snap := some { s := [(6, 1#64), (7, 2#64), (8, 5#64)], v := [], p := [], g := [] }, taken := 64#7, fault := some earlierFault }

/-- A module alone: it has no plan and no peers, and core 0 runs a kernel of job 0. -/
def midBundle : State :=
  let s := State.reset
  let s := s.setCmd { s.cmd with
    kernels := [(0, { job := 0, restartable := false, image := [addAndSgadd] })],
    jobs := [(0, {
      seed := 1, filler := false, prio := 0, thin := 0, rare := 0, waitMs := 1, sigBase := 8, sigWords := 4, step := 3, granules := [], gcrc := 0,
      frozen := false, frozenStep := false, placeChg := 0, startAt := 0, energy := 0, stepEnergy := 0, predLate := 0, predWaste := 0, closing := none,
      cmdLog := [], planLog := [], digLog := [], collLog := [], evts := 0, resends := 0, clampN := 0, gov3 := 0,
      fixedStep := false, engaged := false, fillerRan := false, netWait := [] })] }
  s.setComp { s.comp with
    launches := [(0, { job := 0, ring := 0, at_ := 0, kernel := 0, total := 1, args := [], filler := false, aborted := false, thin := false, clustersUsed := [] })],
    insts := [(0, ⟨0, 0, 0, 0, 1, 0, 0, 0, 0, 0, .running 0, none, [], false, none, 0, false⟩)], cores := [(0, midBundleCore)] }

/-- The state is a proper one, and the SGADD may issue in it: its bundle goes on although the core has met the fault. -/
theorem midBundle_proper : midBundle.Inv ∧ midBundle.issues 0 5 7 = true ∧ midBundle.fenceDone 0 3 = true := by
  have hinsts : (midBundle.comp.insts.map (·.1)).Pairwise (· < ·) := List.pairwise_singleton _ _
  refine ⟨⟨?_, ?_, ?_, ?_, ?_, hinsts⟩, ?_, ?_⟩ <;> decide +kernel

/-- The absent module's fault comes second, and the first fault stands. -/
theorem midBundle_sgadd : Answers (exec (.sgadd 0) midBundle) fun t => (t.coreOf 0).fault = some earlierFault := by
  have hexec : (match exec (.sgadd 0) midBundle with
      | .next t => decide ((t.coreOf 0).fault = some earlierFault)
      | _ => false) = true := by decide +kernel
  revert hexec
  cases exec (.sgadd 0) midBundle with
  | next t => exact fun h => ⟨t, rfl, of_decide_eq_true h⟩
  | fault _ => exact fun h => absurd h Bool.false_ne_true
  | refused _ => exact fun h => absurd h Bool.false_ne_true

/-- Refutes O18: its last clause gives the core the absent module's fault, also where an earlier load's fault already stands. -/
theorem not_postsAndSignals : ¬ Obligations.PostsAndSignals := by
  rintro ⟨_, hsgadd⟩
  obtain ⟨l, j, hl, hj⟩ : ∃ l j, midBundle.launchOf 0 = some l ∧ midBundle.cmd.jobs.get? l.job = some j := ⟨_, _, rfl, rfl⟩
  obtain ⟨_, hissues, hfence⟩ := midBundle_proper
  obtain ⟨_, _, _, habsent⟩ := hsgadd midBundle 0 l j _ _ _ _ _ rfl rfl rfl rfl rfl hl hj hissues hfence
  obtain ⟨t, ht, hfault, _⟩ := habsent (by decide +kernel) (by decide +kernel) (by decide +kernel) (by decide +kernel)
  obtain ⟨u, hu, hearlier⟩ := midBundle_sgadd
  obtain rfl : t = u := Host.Outcome.next.inj (ht.symm.trans hu)
  exact absurd (hfault.symm.trans hearlier) (by decide +kernel)

end Sys2Proof.Machine
end

section
/-! PROOFS. FENCE, SIGNAL and WAIT packets (R104, R105, R248, R287, R290). -/

namespace Sys2Proof.Machine

/-! ### A packet that leaves -/

/-- What the ports do with a packet on its way: flits leave, and no packet joins or leaves those that wait for their acknowledgement. -/
structure Pumped (s t : State) : Prop where
  only : s.only [.net, .out, .free] t
  unacked : t.net.unacked = s.net.unacked
  out : ∃ flits, t.out = flits ++ s.out

theorem Pumped.refl (s : State) : Pumped s s := ⟨State.only_refl _ _, rfl, [], rfl⟩

theorem Pumped.trans {s t u : State} (h : Pumped s t) (g : Pumped t u) : Pumped s u := by
  obtain ⟨first, hfirst⟩ := h.out
  obtain ⟨later, hlater⟩ := g.out
  exact ⟨State.only_trans h.only g.only, g.unacked.trans h.unacked, later ++ first, by rw [hlater, hfirst, List.append_assoc]⟩

theorem Pumped.updPort (s : State) (p : Nat) (f : Port → Port) : Pumped s (s.updPort p f) := by
  refine ⟨⟨rfl, fun q hq => ?_⟩, rfl, [], rfl⟩
  cases q <;> simp [State.same, State.updPort] at hq ⊢

theorem Pumped.flitLeaves (s : State) (o : Out) : Pumped s (s.emit o).freeNext := by
  refine ⟨⟨rfl, fun q hq => ?_⟩, rfl, [o], rfl⟩
  cases q <;> simp [State.same, State.emit, State.freeNext] at hq ⊢

theorem Pumped.pump (s : State) (p fuel : Nat) : Pumped s (s.pump p fuel) := by
  induction fuel generalizing s with
  | zero => exact Pumped.refl s
  | succ fuel ih =>
    unfold State.pump
    split
    · split
      · exact Pumped.refl s
      · split
        · exact Pumped.refl s
        · exact ((Pumped.updPort _ _ _).trans (Pumped.flitLeaves _ _)).trans (ih _)
    · exact Pumped.refl s

theorem Pumped.onWire (s : State) (h : BitVec 256) (payload : List Byte) (cmd : Option (Nat × Nat)) : Pumped s (s.onWire h payload cmd) := by
  unfold State.onWire
  split
  · exact Pumped.refl s
  · exact (Pumped.updPort _ _ _).trans (Pumped.pump _ _ _)

/-- A module with an index sends: the message's packet joins those unacknowledged, and the message the output (R248, R251). -/
theorem State.sendPacket_sends {s : State} {own : Nat} (hown : s.ownIndex = some own) (dst typ cls job : Nat) (addr : BitVec 64) (payload : List Byte)
    (poison : BitVec 64) (o : Out) (cmd core : Option (Nat × Nat)) :
    s.sends dst o cmd (s.sendPacket dst typ cls job addr payload poison (some o) cmd core) ∧
      s.only [.net, .out, .free] (s.sendPacket dst typ cls job addr payload poison (some o) cmd core) := by
  unfold State.sendPacket
  rw [hown]
  dsimp only [Option.getD_some]
  generalize mkHdr typ cls dst own s.ledger.inc (domainFlow job own cls) _ payload.length addr poison (crc32c payload) = hdr
  generalize hnet : ({ s.net with txPsn := _, unacked := _ } : Net) = net
  have hsent : s.only [.net, .out, .free] ((s.setNet net).emit o) := by
    refine ⟨rfl, fun q hq => ?_⟩
    cases q <;> simp [State.same, State.emit] at hq ⊢
  have hpumped := Pumped.onWire ((s.setNet net).emit o) hdr payload cmd
  obtain ⟨flits, hflits⟩ := hpumped.out
  refine ⟨⟨⟨_, hpumped.unacked.trans (congrArg Net.unacked hnet.symm), rfl, rfl, rfl, rfl⟩, flits, hflits⟩, State.only_trans hsent hpumped.only⟩

/-! ### The command that acceptance puts in progress -/

theorem State.prog_of_progs {s u : State} {p : Pkt} {g : Prog} (h : s.prog p.ring p.at_ = none) (hg : u.cmd.progs = s.cmd.progs ++ [g])
    (hr : g.ring = p.ring) (ha : g.at_ = p.at_) : u.prog p.ring p.at_ = some g := by
  simp only [State.prog] at h
  simp [State.prog, hg, List.find?_append, h, hr, ha]

/-- A packet whose work goes on past its acceptance. -/
theorem State.accept_works (s : State) (p : Pkt) (w : Work) (h : s.prog p.ring p.at_ = none) :
    s.inProgress p ((s.accept p).works p w) ∧ ((s.accept p).works p w).prog p.ring p.at_ = some { s.newProg p with work := w } ∧
      s.only [.cmd] ((s.accept p).works p w) := by
  have hprogs := State.progs_own s p (fun g => { g with work := w }) h
  exact ⟨⟨rfl, _, hprogs, rfl, rfl, rfl, rfl, rfl⟩, State.prog_of_progs h hprogs rfl rfl, State.only_updProg (State.accept_only s p) _ _ _⟩

/-- A packet that acceptance alone has touched on the command side is in progress, without an outcome. -/
theorem State.inProgress_of_cmd {s u : State} {p : Pkt} (h : s.prog p.ring p.at_ = none) (hcmd : u.cmd = (s.accept p).cmd) :
    s.inProgress p u ∧ u.outcomeAt p.ring p.at_ = none := by
  have hprogs : u.cmd.progs = s.cmd.progs ++ [s.newProg p] := by rw [hcmd, State.accept_progs]
  exact ⟨⟨by rw [hcmd], _, hprogs, rfl, rfl, rfl, rfl, rfl⟩, State.outcomeAt_of_progs h hprogs rfl rfl⟩

/-- The packets of a job's other rings in progress; acceptance adds none, for its own packet stands on the ring itself. -/
theorem State.accept_others (s : State) (p : Pkt) (f : Prog → Bool) :
    ((s.accept p).cmd.progs.filter fun g => g.ring != p.ring && f g) = s.cmd.progs.filter fun g => g.ring != p.ring && f g := by
  simp [State.newProg]

/-- The job of a packet on a job ring, with the packet in its command log. -/
theorem State.accept_job {s : State} {p : Pkt} {j : Job} (hring : p.ring ≠ 256) (hj : s.cmd.jobs.get? p.job = some j) :
    (s.accept p).cmd.jobs.get? p.job = some (j.logged p) := by
  have hadmin : p.admin = false := decide_eq_false hring
  rw [State.accept_jobs_logged (j := j) (by rw [hadmin]; exact hj), AMap.get?_put_self]

/-! ### FENCE -/

/-- A fence is done at once when it has nothing to wait for, and otherwise waits for the packets of the job's other rings. -/
theorem fence_takes {s : State} {p : Pkt} {others : List (Nat × Nat)} (h : s.takes p.ring p (isOp 0x0004) (fun _ _ => []))
    (hothers : others = (s.cmd.progs.filter fun g => g.ring != p.ring && g.ring / 4 = p.job && g.ring != 256).map (fun g => (g.ring, g.at_))) :
    ((p.bit 0 0 = false ∨ p.ring = 256 ∨ others = []) → Takes (exec (.fence p.ring) s) p.ring fun u => s.completes p [] u ∧ s.only [.cmd] u) ∧
    (p.bit 0 0 = true → p.ring ≠ 256 → others ≠ [] → Takes (exec (.fence p.ring) s) p.ring fun u => s.inProgress p u ∧ s.only [.cmd] u ∧
      (u.prog p.ring p.at_).map (fun g => (g.work, g.outcome)) = some (.fence others, none)) := by
  have ⟨_, _, _, _, _, _, _, hprog⟩ := h
  have heff : exec (.fence p.ring) s =
      .next (((if p.bit 0 0 && !p.admin && !others.isEmpty then (s.accept p).works p (.fence others) else (s.accept p).done p []).tagWants
        s.wire.wants.length none (some (p.ring, p.at_))).checkHead p.ring) := by
    show execFence p.ring s = _
    unfold execFence
    rw [State.command_takes _ h]
    have hfilter : ((s.accept p).cmd.progs.filter fun g => g.ring != p.ring && g.ring / 4 = p.job && g.ring != adminRing) =
        s.cmd.progs.filter fun g => g.ring != p.ring && g.ring / 4 = p.job && g.ring != adminRing := by
      simpa only [Bool.and_assoc] using State.accept_others s p fun g => g.ring / 4 = p.job && g.ring != adminRing
    dsimp only
    rw [hfilter, hothers]
    rfl
  rw [heff]
  have hwaits : (p.bit 0 0 && !p.admin && !others.isEmpty) = true ↔ p.bit 0 0 = true ∧ p.ring ≠ 256 ∧ others ≠ [] := by
    rw [Pkt.admin, adminRing]
    simp [and_assoc]
  refine ⟨fun hnow => ?_, fun hbit hring hne => ?_⟩
  · obtain ⟨hin, hout, honly⟩ := State.accept_conclude s p { status := 0, note := 0, detail := 0, results := [] } hprog
    rw [if_neg fun hw => by
      obtain ⟨hbit, hring, hne⟩ := hwaits.mp hw
      rcases hnow with hn | hn | hn
      · exact absurd (hbit.symm.trans hn) (by decide)
      · exact hring hn
      · exact hne hn, State.tagWants_eq]
    exact ⟨_, rfl, ⟨hin, hout⟩, State.only_setWire honly _⟩
  · obtain ⟨hin, hwork, honly⟩ := State.accept_works s p (.fence others) hprog
    rw [if_pos (hwaits.mpr ⟨hbit, hring, hne⟩), State.tagWants_eq]
    exact ⟨_, rfl, hin, State.only_setWire honly _, congrArg (Option.map fun g : Prog => (g.work, g.outcome)) hwork⟩

/-! ### SIGNAL -/

@[simp] theorem State.signalAdd_self (s : State) (i : Nat) (v : W64) : (s.signalAdd i v).signalWord i = s.signalWord i + v := by
  simp [State.signalAdd, State.signalWord]

theorem State.signalAdd_other (s : State) (v : W64) {i m : Nat} (h : m ≠ i) : (s.signalAdd i v).signalWord m = s.signalWord m := by
  simp [State.signalAdd, State.signalWord, AMap.getD_put_other _ _ _ _ _ h]

/-- What SIGNAL does once it is accepted: an add to a word of this module, a message to a present peer, or the end as PEER_ABSENT. -/
def signalEff (p : Pkt) (s : State) : State :=
  if p.f 0 31 16 = 0xFFFF || s.ownIndex = some (p.f 0 31 16) then
    match s.cmd.jobs.get? p.job with
    | none => s
    | some j => (s.signalAdd (j.word (p.f 0 11 0)) (p.w 1)).done p []
  else if s.peerPresent (p.f 0 31 16) then
    s.sendMsg (p.f 0 31 16) clsSignal p.job (some (p.ring, p.at_)) (.signal (p.f 0 31 16) (BitVec.ofNat 64 (p.f 0 11 0)) (p.w 1))
  else s.conclude p.ring p.at_ (Outc.peer stAbsent (p.f 0 31 16))

theorem signal_takes {s : State} {p : Pkt} (h : s.takes p.ring p (isOp 0x0005)
      (fun p s => badWord p s ++ mal 0 (!(p.f 0 31 16 = 0xFFFF || s.ownIndex = some (p.f 0 31 16)) && s.noModule (p.f 0 31 16)))) :
    exec (.signal p.ring) s = .next (((signalEff p (s.accept p)).setWire
      ((signalEff p (s.accept p)).tagWants s.wire.wants.length none (some (p.ring, p.at_))).wire).checkHead p.ring) := by
  rw [← State.tagWants_eq]
  refine Eq.trans ?_ (State.command_takes signalEff h)
  show execSignal p.ring s = _
  unfold execSignal
  rfl

theorem accept_ownIndex (s : State) (p : Pkt) : (s.accept p).ownIndex = s.ownIndex := by simp only [State.ownIndex, State.accept_net]
theorem accept_peerPresent (s : State) (p : Pkt) (m : Nat) : (s.accept p).peerPresent m = s.peerPresent m := by
  simp only [State.peerPresent, State.accept_net]

theorem signalEff_here {s : State} {p : Pkt} {j : Job} (hring : p.ring ≠ 256)
    (hj : s.cmd.jobs.get? p.job = some j) (hhere : p.f 0 31 16 = 0xFFFF ∨ s.ownIndex = some (p.f 0 31 16)) :
    signalEff p (s.accept p) = ((s.accept p).signalAdd (j.sigBase + p.f 0 11 0) (p.w 1)).done p [] := by
  unfold signalEff
  rw [if_pos (by simpa [accept_ownIndex] using hhere), State.accept_job hring hj]
  rfl

theorem signalEff_remote {s : State} {p : Pkt} (hdst : p.f 0 31 16 ≠ 0xFFFF) (hown : s.ownIndex ≠ some (p.f 0 31 16)) :
    signalEff p (s.accept p) =
      if s.peerPresent (p.f 0 31 16) then
        (s.accept p).sendMsg (p.f 0 31 16) clsSignal p.job (some (p.ring, p.at_)) (.signal (p.f 0 31 16) (BitVec.ofNat 64 (p.f 0 11 0)) (p.w 1))
      else (s.accept p).conclude p.ring p.at_ (Outc.peer stAbsent (p.f 0 31 16)) := by
  unfold signalEff
  rw [if_neg (by simpa [accept_ownIndex] using ⟨hdst, hown⟩), accept_peerPresent]

/-- A signal to this module: the word's add, and the packet done. -/
theorem signal_here {s : State} {p : Pkt} {j : Job} (h : s.takes p.ring p (isOp 0x0005)
      (fun p s => badWord p s ++ mal 0 (!(p.f 0 31 16 = 0xFFFF || s.ownIndex = some (p.f 0 31 16)) && s.noModule (p.f 0 31 16))))
    (hring : p.ring ≠ 256) (hj : s.cmd.jobs.get? p.job = some j) (hhere : p.f 0 31 16 = 0xFFFF ∨ s.ownIndex = some (p.f 0 31 16)) :
    Takes (exec (.signal p.ring) s) p.ring fun u => s.completes p [] u ∧ s.only [.cmd, .comp] u ∧
      u.comp = { s.comp with signals := u.comp.signals } ∧ u.signalWord (j.sigBase + p.f 0 11 0) = s.signalWord (j.sigBase + p.f 0 11 0) + p.w 1 ∧
      ∀ i, i ≠ j.sigBase + p.f 0 11 0 → u.signalWord i = s.signalWord i := by
  have ⟨_, _, _, _, _, _, _, hprog⟩ := h
  refine ⟨_, signal_takes h, ?_⟩
  rw [signalEff_here hring hj hhere]
  have hprogs := State.progs_own s p (fun g => if g.outcome.isSome then g else { g with outcome := some { status := 0, note := 0, detail := 0, results := [] } }) hprog
  have hcomp := State.accept_comp s p
  refine ⟨⟨⟨rfl, _, hprogs, rfl, rfl, rfl, rfl, rfl⟩, State.outcomeAt_of_progs hprog hprogs rfl rfl⟩, State.only_setWire ?_ _, ?_, ?_, fun i hi => ?_⟩
  · have honly := State.only_trans (State.only_mono (qs := [.cmd, .comp]) (by simp) (State.accept_only s p))
      (State.only_mono (by simp) (State.only_setComp (s.accept p)
        { (s.accept p).comp with signals := (s.accept p).comp.signals.put (j.sigBase + p.f 0 11 0) ((s.accept p).signalWord (j.sigBase + p.f 0 11 0) + p.w 1) }))
    exact State.only_trans honly (State.only_mono (by simp) (State.only_updProg (State.only_refl _ _) p.ring p.at_ _))
  · exact congrArg (fun c : Comp => { c with
      signals := (s.accept p).comp.signals.put (j.sigBase + p.f 0 11 0) ((s.accept p).signalWord (j.sigBase + p.f 0 11 0) + p.w 1) }) hcomp
  · refine (State.signalAdd_self _ _ _).trans ?_
    rw [State.signalWord, hcomp, State.signalWord]
  · refine (State.signalAdd_other (s.accept p) (p.w 1) hi).trans ?_
    rw [State.signalWord, hcomp, State.signalWord]

/-- A signal to a present peer: one message, and the packet in progress until its answer. -/
theorem signal_remote {s : State} {p : Pkt} (h : s.takes p.ring p (isOp 0x0005)
      (fun p s => badWord p s ++ mal 0 (!(p.f 0 31 16 = 0xFFFF || s.ownIndex = some (p.f 0 31 16)) && s.noModule (p.f 0 31 16))))
    (hdst : p.f 0 31 16 ≠ 0xFFFF) (hother : s.ownIndex ≠ some (p.f 0 31 16)) (hown : s.ownIndex ≠ none) (hpeer : s.peerPresent (p.f 0 31 16) = true) :
    Takes (exec (.signal p.ring) s) p.ring fun u => s.inProgress p u ∧ u.outcomeAt p.ring p.at_ = none ∧
      s.sends (p.f 0 31 16) (.signal (p.f 0 31 16) (BitVec.ofNat 64 (p.f 0 11 0)) (p.w 1)) (some (p.ring, p.at_)) u ∧
      s.only [.cmd, .net, .out, .free] u := by
  have ⟨_, _, _, _, _, _, _, hprog⟩ := h
  obtain ⟨own, howned⟩ := Option.ne_none_iff_exists'.mp hown
  refine ⟨_, signal_takes h, ?_⟩
  rw [signalEff_remote hdst hother, if_pos hpeer]
  obtain ⟨hsends, honly⟩ := State.sendPacket_sends ((accept_ownIndex s p).trans howned) (p.f 0 31 16) 5 clsSignal p.job
    (BitVec.ofNat 64 (Out.signal (p.f 0 31 16) (BitVec.ofNat 64 (p.f 0 11 0)) (p.w 1)).code)
    (Out.signal (p.f 0 31 16) (BitVec.ofNat 64 (p.f 0 11 0)) (p.w 1)).bytes 0 (.signal (p.f 0 31 16) (BitVec.ofNat 64 (p.f 0 11 0)) (p.w 1))
    (some (p.ring, p.at_)) none
  obtain ⟨hin, hout⟩ := State.inProgress_of_cmd hprog (honly.2 .cmd (by simp))
  refine ⟨hin, hout, (?_ : s.sends _ _ _ (State.sendPacket _ _ _ _ _ _ _ _ _ _ _)), State.only_setWire (State.only_trans (State.only_mono (by simp) (State.accept_only s p)) (State.only_mono (by simp) honly)) _⟩
  simpa only [State.sends, State.accept_net, State.accept_out, State.now, State.accept_clk] using hsends

/-- A signal to an absent module ends as PEER_ABSENT, with the module in DETAIL (R276, R286). -/
theorem signal_absent {s : State} {p : Pkt} (h : s.takes p.ring p (isOp 0x0005)
      (fun p s => badWord p s ++ mal 0 (!(p.f 0 31 16 = 0xFFFF || s.ownIndex = some (p.f 0 31 16)) && s.noModule (p.f 0 31 16))))
    (hdst : p.f 0 31 16 ≠ 0xFFFF) (hother : s.ownIndex ≠ some (p.f 0 31 16)) (hpeer : s.peerPresent (p.f 0 31 16) = false) :
    Takes (exec (.signal p.ring) s) p.ring fun u => s.inProgress p u ∧
      u.outcomeAt p.ring p.at_ = some { status := 0x0404, note := 0x0100, detail := BitVec.ofNat 32 (0x20 * 2 ^ 24 + p.f 0 31 16), results := [] } ∧
      s.only [.cmd] u := by
  have ⟨_, _, _, _, _, _, _, hprog⟩ := h
  refine ⟨_, signal_takes h, ?_⟩
  rw [signalEff_remote hdst hother, if_neg (by simp [hpeer])]
  obtain ⟨hin, hout, honly⟩ := State.accept_conclude s p (Outc.peer stAbsent (p.f 0 31 16)) hprog
  have hbound : p.f 0 31 16 < 2 ^ 16 := bitsOf_lt _ _ _
  have hdetail : Outc.peer stAbsent (p.f 0 31 16) =
      { status := 0x0404, note := 0x0100, detail := BitVec.ofNat 32 (0x20 * 2 ^ 24 + p.f 0 31 16), results := [] } := by
    rw [Outc.peer, detailModule, detailWord, Nat.mod_eq_of_lt (b := 2 ^ 24) (by omega)]
    rfl
  exact ⟨hin, hout.trans (congrArg some hdetail), State.only_setWire honly _⟩

/-! ### WAIT -/

theorem State.progOutcome_signalWait (s : State) {g : Prog} {w since : Nat} {v : W64} (hout : g.outcome = none) (hwork : g.work = .signalWait w v since) :
    s.progOutcome g =
      if v.toNat ≤ (s.signalWord w).toNat then some { Outc.of 0 0 with results := [s.signalWord w] }
      else if (s.progLimit g).any fun ms => s.after since (1000 * ms) then some (Outc.of 0x0403 0) else none := by
  rw [State.progOutcome, hout, hwork]
  rfl

theorem wait_takes {s : State} {p : Pkt} {j : Job} (h : s.takes p.ring p (isOp 0x0006) badWord) (hring : p.ring ≠ 256)
    (hj : s.cmd.jobs.get? p.job = some j) :
    Takes (exec (.wait p.ring) s) p.ring fun u => s.inProgress p u ∧ s.only [.cmd] u ∧
      (u.prog p.ring p.at_).map (fun g => (g.work, g.outcome)) = some (.signalWait (j.sigBase + p.f 0 11 0) (p.w 1) s.now, none) ∧
      ((p.w 1).toNat ≤ (s.signalWord (j.sigBase + p.f 0 11 0)).toNat → ∃ g, u.prog p.ring p.at_ = some g ∧
        u.progOutcome g = some { Outc.of 0 0 with results := [s.signalWord (j.sigBase + p.f 0 11 0)] }) := by
  have ⟨_, _, _, _, _, _, _, hprog⟩ := h
  obtain ⟨hin, hwork, honly⟩ := State.accept_works s p (.signalWait (j.sigBase + p.f 0 11 0) (p.w 1) s.now) hprog
  have heff : exec (.wait p.ring) s = .next ((((s.accept p).works p (.signalWait (j.sigBase + p.f 0 11 0) (p.w 1) s.now)).tagWants
      s.wire.wants.length none (some (p.ring, p.at_))).checkHead p.ring) := by
    show execWait p.ring s = _
    unfold execWait
    rw [State.command_takes _ h, State.accept_job hring hj]
    simp only [Job.word, Job.logged, State.now, State.accept_clk]
  rw [State.tagWants_eq] at heff
  have hcomp : ((s.accept p).works p (.signalWait (j.sigBase + p.f 0 11 0) (p.w 1) s.now)).comp = s.comp := honly.2 .comp (by simp)
  refine ⟨_, heff, hin, State.only_setWire honly _, congrArg (Option.map fun g : Prog => (g.work, g.outcome)) hwork, fun hle => ⟨_, hwork, ?_⟩⟩
  rw [State.progOutcome_signalWait _ rfl rfl, State.signalWord, State.setWire_comp, hcomp]
  exact if_pos hle

/-- Settles O26: each packet by the state that its acceptance leaves, and a waiting one by the outcome of its word. -/
theorem fencesSignalsWaits : Obligations.FencesSignalsWaits := by
  refine ⟨fun s n p h others hothers => ?_, fun s n m p j h hm hring hj => ?_, fun s n p j h hring hj => ?_, fun s g w since v hout hwork => ?_⟩
  · obtain rfl := State.packet_ring h.1
    rw [← State.packet_job h.1] at hothers
    exact fence_takes h hothers
  · obtain rfl := State.packet_ring h.1
    rw [← State.packet_job h.1] at hj
    subst hm
    exact ⟨signal_here h hring hj, signal_remote h, signal_absent h⟩
  · obtain rfl := State.packet_ring h.1
    rw [← State.packet_job h.1] at hj
    exact wait_takes h hring hj
  · rw [State.progOutcome_signalWait s hout hwork]
    refine ⟨fun hle => if_pos hle, fun hlt j hring hj => ?_⟩
    have hlimit : s.progLimit g = some j.waitMs := by rw [State.progLimit, adminRing, if_neg hring, hj]; rfl
    rw [if_neg (by omega), hlimit]
    simp only [Option.any_some, State.after, ticksPerUs]
    exact ⟨fun hdue => if_pos (decide_eq_true hdue), fun hearly => if_neg fun hdue => by have := of_decide_eq_true hdue; omega⟩

end Sys2Proof.Machine
end

section
/-! PROOFS. The instances of a launch (R88, R103, R111, R112, R295): what ending one leaves, and when the launch is over. -/

namespace Sys2Proof.Machine

/-! ### Maps whose keys rise -/

/-- The entries are listed by rising key. -/
def KeysRise {α : Type} (m : AMap α) : Prop := (m.map (·.1)).Pairwise (· < ·)

theorem keysRise_cons {α : Type} {e : Nat × α} {m : AMap α} : KeysRise (e :: m) ↔ (∀ d ∈ m, e.1 < d.1) ∧ KeysRise m := by
  simp only [KeysRise, List.map_cons, List.pairwise_cons, List.forall_mem_map]

theorem AMap.mem_of_get? {α : Type} {m : AMap α} {k : Nat} {v : α} (h : m.get? k = some v) : (k, v) ∈ m := by
  induction m with
  | nil => exact nomatch h
  | cons e m ih =>
    by_cases he : e.1 = k
    · rw [AMap.get?, if_pos he] at h
      obtain rfl := Option.some.inj h
      exact List.mem_cons.2 (.inl (by rw [← he]))
    · rw [AMap.get?, if_neg he] at h
      exact List.mem_cons_of_mem _ (ih h)

theorem AMap.get?_of_mem {α : Type} {m : AMap α} (hm : KeysRise m) {e : Nat × α} (he : e ∈ m) : m.get? e.1 = some e.2 := by
  induction m with
  | nil => exact absurd he List.not_mem_nil
  | cons d m ih =>
    obtain ⟨hfirst, hrest⟩ := keysRise_cons.1 hm
    rcases List.mem_cons.1 he with rfl | he
    · exact if_pos rfl
    · rw [AMap.get?, if_neg (Nat.ne_of_lt (hfirst e he)), ih hrest he]

/-- After a put, the entries are the new one and those of other keys. -/
theorem AMap.mem_put {α : Type} {m : AMap α} (hm : KeysRise m) {k : Nat} {v : α} {e : Nat × α} :
    e ∈ m.put k v ↔ e = (k, v) ∨ e ∈ m ∧ e.1 ≠ k := by
  induction m with
  | nil => simp [AMap.put]
  | cons d m ih =>
    obtain ⟨hfirst, hrest⟩ := keysRise_cons.1 hm
    unfold AMap.put
    split
    · next hlt =>
      have hkeys : ∀ e ∈ d :: m, e.1 ≠ k := List.forall_mem_cons.2 ⟨Nat.ne_of_gt hlt, fun e he => by have := hfirst e he; omega⟩
      exact List.mem_cons.trans (or_congr_right (iff_self_and.2 (hkeys e)))
    · split
      · next heq =>
        have hkeys : ∀ e ∈ m, e.1 ≠ k := fun e he => by have := hfirst e he; omega
        rw [List.mem_cons, List.mem_cons, or_and_right]
        have hd : ¬(e = d ∧ e.1 ≠ k) := fun h => h.2 (by rw [h.1, heq])
        have hm : e ∈ m ∧ e.1 ≠ k ↔ e ∈ m := and_iff_left_of_imp (hkeys e)
        tauto
      · next hne =>
        have hd : e = d → e.1 ≠ k := fun h => by rw [h]; exact Ne.symm hne
        rw [List.mem_cons, ih hrest, List.mem_cons]
        tauto

/-- A put at a key that the map holds leaves the keys. -/
theorem AMap.keys_put {α : Type} {m : AMap α} (hm : KeysRise m) {k : Nat} {x : α} (hk : m.get? k = some x) (v : α) :
    (m.put k v).map (·.1) = m.map (·.1) := by
  induction m with
  | nil => exact nomatch hk
  | cons d m ih =>
    obtain ⟨hfirst, hrest⟩ := keysRise_cons.1 hm
    by_cases hd : d.1 = k
    · simp [AMap.put, hd]
    · have hk' : AMap.get? m k = some x := by rwa [AMap.get?, if_neg hd] at hk
      have hlt : d.1 < k := hfirst _ (AMap.mem_of_get? hk')
      rw [AMap.put, if_neg (by omega), if_neg (Ne.symm hd), List.map_cons, List.map_cons, ih hrest hk']

theorem KeysRise.put {α : Type} {m : AMap α} (hm : KeysRise m) {k : Nat} {x : α} (hk : m.get? k = some x) (v : α) : KeysRise (m.put k v) := by
  rw [KeysRise, AMap.keys_put hm hk v]
  exact hm

/-! ### The end of a launch -/

/-- A launch goes on while one of its instances has not ended. -/
theorem State.launchCheck_of_open {s : State} {l : Nat} {e : Nat × Inst} (he : e ∈ s.comp.insts) (hl : e.2.launch = l) (hst : e.2.st ≠ .ended) :
    s.launchCheck l = s := by
  have hopen : ¬ ((s.comp.insts.filter fun e => e.2.launch = l).all fun e => e.2.st = .ended) = true := fun hall =>
    hst (by simpa using List.all_eq_true.1 hall e (List.mem_filter.2 ⟨he, by simpa using hl⟩))
  unfold State.launchCheck
  split
  · rfl
  · exact if_neg hopen

/-- A choice that keeps what it has or takes the next entry, over a list that is not empty, chooses one of the list. -/
theorem foldl_picks {α β : Type} {f : Option β → α → Option β} {g : α → β} (hf : ∀ acc e, ∃ y, f acc e = some y ∧ (y = g e ∨ acc = some y)) {P : β → Prop}
    {es : List α} (hes : ∀ e ∈ es, P (g e)) {acc : Option β} (hacc : ∀ y, acc = some y → P y) (hne : acc.isSome = true ∨ es ≠ []) :
    ∃ y, es.foldl f acc = some y ∧ P y := by
  induction es generalizing acc with
  | nil =>
    obtain ⟨y, rfl⟩ := Option.isSome_iff_exists.1 (hne.resolve_right fun h => h rfl)
    exact ⟨y, rfl, hacc y rfl⟩
  | cons e es ih =>
    obtain ⟨he, hes⟩ := List.forall_mem_cons.1 hes
    obtain ⟨y, hy, hfrom⟩ := hf acc e
    have hP : P y := hfrom.elim (fun h => h ▸ he) (hacc y)
    rw [List.foldl_cons, hy]
    exact ih hes (fun z hz => Option.some.inj hz ▸ hP) (.inl rfl)

/-- The compute side once a launch is over: the launch, its instances and their groups are gone. -/
def State.launchGone (s : State) (l : Nat) : State :=
  s.setComp { s.comp with
    launches := s.comp.launches.drop l
    insts := s.comp.insts.keep fun _ y => y.launch != l
    groups := s.comp.groups.keep fun g _ => !(((s.comp.insts.filter fun e => e.2.launch = l).map (·.2.group)).dedup).contains g }

/-- A launch whose instances have all ended is over; when they all ended with one status other than 0, so does the launch (R112, R294, R295). -/
theorem State.launchCheck_of_ended {s : State} {l : Nat} {x : Launch} (hx : s.comp.launches.get? l = some x)
    (hended : ∀ e ∈ s.comp.insts, e.2.launch = l → e.2.st = .ended) :
    ∃ o : Outc, s.launchCheck l = (s.launchGone l).conclude x.ring x.at_ o ∧
      ∀ st ≠ 0, x.aborted = false → (∃ e ∈ s.comp.insts, e.2.launch = l) → (∀ e ∈ s.comp.insts, e.2.launch = l → e.2.status = st) → o.status = st := by
  have hall : ((s.comp.insts.filter fun e => e.2.launch = l).all fun e => e.2.st = .ended) = true := by
    refine List.all_eq_true.2 fun e he => ?_
    obtain ⟨he, hl⟩ := List.mem_filter.1 he
    exact decide_eq_true (hended e he (by simpa using hl))
  unfold State.launchCheck
  simp only [hx, if_pos hall]
  refine ⟨_, rfl, fun st hst haborted ⟨e, he, hl⟩ hall => ?_⟩
  have hmem : e ∈ (s.comp.insts.filter fun e => e.2.launch = l).filter fun e => e.2.status != 0 :=
    List.mem_filter.2 ⟨List.mem_filter.2 ⟨he, by simpa using hl⟩, by simpa [hall e he hl] using hst⟩
  generalize hbad : List.foldl _ _ _ = bad
  have hpick : ∃ y, bad = some y ∧ y.status = st := by
    rw [← hbad]
    refine foldl_picks (g := fun e : Nat × Inst => e.2) (fun acc e => ?_) (fun e he => ?_) (fun y hy => nomatch hy) (.inr (List.ne_nil_of_mem hmem))
    · cases acc with
      | none => exact ⟨_, rfl, .inl rfl⟩
      | some y =>
        by_cases hlt : e.2.index < y.index
        · exact ⟨_, if_pos hlt, .inl rfl⟩
        · exact ⟨_, if_neg hlt, .inr rfl⟩
    · obtain ⟨he, _⟩ := List.mem_filter.1 he
      obtain ⟨he, hl⟩ := List.mem_filter.1 he
      exact hall e he (by simpa using hl)
  obtain ⟨y, rfl, hstatus⟩ := hpick
  rw [haborted]
  exact hstatus

/-! ### Cores that become free -/

/-- Of the instances, `i` becomes `x`. -/
def State.putInst (s : State) (i : Nat) (x : Inst) : State := s.setComp { s.comp with insts := s.comp.insts.put i x }

theorem State.updInst_eq {s : State} {i : Nat} {x : Inst} (hx : s.comp.insts.get? i = some x) (f : Inst → Inst) : s.updInst i f = s.putInst i (f x) := by
  simp only [State.updInst, hx, State.putInst]

@[simp] theorem State.putInst_insts (s : State) (i : Nat) (x : Inst) : (s.putInst i x).comp.insts = s.comp.insts.put i x := rfl
@[simp] theorem State.putInst_launches (s : State) (i : Nat) (x : Inst) : (s.putInst i x).comp.launches = s.comp.launches := rfl
@[simp] theorem State.putInst_coreOf (s : State) (i : Nat) (x : Inst) (j : Nat) : (s.putInst i x).coreOf j = s.coreOf j := rfl

theorem State.updGroup_eq (s : State) (k : Nat) (f : Group → Group) : ∃ gs, s.updGroup k f = s.setComp { s.comp with groups := gs } := by
  unfold State.updGroup
  split
  · exact ⟨s.comp.groups, rfl⟩
  · split
    · exact ⟨s.comp.groups, rfl⟩
    · exact ⟨_, rfl⟩

/-- From `s` to `t` core `k` came to run nothing, and no other core changed, nor the instances and launches. -/
structure CoreFreed (k : Nat) (s t : State) : Prop where
  inst : (t.coreOf k).inst = none
  other : ∀ j, j ≠ k → t.coreOf j = s.coreOf j
  insts : t.comp.insts = s.comp.insts
  launches : t.comp.launches = s.comp.launches

theorem State.nextThin_comp (s : State) (c : Nat) : (s.nextThin c).comp = s.comp := by
  unfold State.nextThin
  repeat' split
  all_goals rfl

theorem State.disown_comp (s : State) (k : Nat) : (s.disown k).comp = s.comp := by
  unfold State.disown
  dsimp only
  split <;> rfl

/-- On the compute side, freeing a core empties it and leaves its addends on their way to no core. -/
theorem State.freeCore_comp (s : State) (k : Nat) : ∃ as, (s.freeCore k).comp =
    { s.comp with cores := s.comp.cores.put k { Core.init with arrayAt := (s.coreOf k).arrayAt, arrayGated := (s.coreOf k).arrayGated }, addends := as } := by
  refine ⟨s.comp.addends.map fun a => if a.core = k then { a with core := noCore } else a, ?_⟩
  unfold State.freeCore
  dsimp only
  generalize hgone : State.disown _ k = t
  have hcomp : t.comp = { s.comp with
      cores := s.comp.cores.put k { Core.init with arrayAt := (s.coreOf k).arrayAt, arrayGated := (s.coreOf k).arrayGated }
      addends := s.comp.addends.map fun a => if a.core = k then { a with core := noCore } else a } := by rw [← hgone, State.disown_comp]; rfl
  have hthin : ∀ (c : Bool) (n : Nat) (f : Cluster → Cluster), (if c then (t.updCluster n f).nextThin n else t).comp = t.comp := fun c n f => by
    split
    · exact State.nextThin_comp _ _
    · rfl
  have hidle : ∀ (c : Bool) (n : Nat) (f : Cluster → Cluster) (u : State), (if c then u.updCluster n f else u).comp = u.comp := fun c n f u => by
    split <;> rfl
  exact (hidle _ _ _ _).trans ((hthin _ _ _).trans hcomp)

theorem CoreFreed.dropFree (s : State) (k : Nat) : CoreFreed k s ((s.dropHeld k).freeCore k) := by
  obtain ⟨as, hfree⟩ := State.freeCore_comp (s.dropHeld k) k
  obtain ⟨gs, hgroups⟩ := State.updGroup_eq s k fun g => (s.coreOf k).consumed.foldl (fun g c => g.post c.1 c.2) g
  have hother : ∀ j, j ≠ k → (s.dropHeld k).coreOf j = s.coreOf j := fun j hj => by
    rw [State.dropHeld, hgroups, State.coreOf_updCore_other _ _ _ _ hj]; rfl
  have hinsts : (s.dropHeld k).comp.insts = s.comp.insts := by rw [State.dropHeld, hgroups]; rfl
  have hlaunches : (s.dropHeld k).comp.launches = s.comp.launches := by rw [State.dropHeld, hgroups]; rfl
  refine ⟨?_, fun j hj => ?_, by rw [hfree, hinsts], by rw [hfree, hlaunches]⟩
  · rw [State.coreOf, hfree, AMap.getD_put_self]; rfl
  · rw [State.coreOf, hfree, AMap.getD_put_other _ _ _ _ _ hj, ← State.coreOf, hother j hj]

/-! ### Instances that end -/

/-- What one of the instances becomes when it ends, with a status and its fault. -/
def Inst.ends (x : Inst) (status : Nat) (f : Option FaultRec) : Inst := { x with st := .ended, status := status, fault := f }

/-- One of the instances that stands on no core ends where it is. -/
theorem State.endInst_idle {s : State} {i : Nat} {x : Inst} (hx : s.comp.insts.get? i = some x) (hst : ∀ k, x.st ≠ .running k) (status : Nat)
    (f : Option FaultRec) : s.endInst i status f = (s.putInst i (x.ends status f)).launchCheck x.launch := by
  unfold State.endInst
  simp only [hx, State.updInst_eq hx]
  rfl

/-- One of the instances that runs frees its core. -/
theorem State.endInst_running {s : State} {i k : Nat} {x : Inst} (hx : s.comp.insts.get? i = some x) (hst : x.st = .running k) (status : Nat)
    (f : Option FaultRec) : ∃ t, CoreFreed k s t ∧ s.endInst i status f = (t.putInst i (x.ends status f)).launchCheck x.launch := by
  have hfreed := CoreFreed.dropFree s k
  refine ⟨_, hfreed, ?_⟩
  unfold State.endInst
  simp only [hx, hst]
  rw [State.updInst_eq (by rw [hfreed.insts]; exact hx)]
  rfl

/-! ### A launch whose instances all wait ends with a status -/

/-- Some of a launch's instances still wait, those of `rest`, and the others have ended with status `st`; from `s` on only the compute side changed. -/
structure LaunchEnding (s : State) (l st : Nat) (x : Launch) (rest : List (Nat × Inst)) (t : State) : Prop where
  launch : t.comp.launches.get? l = some x
  rising : KeysRise t.comp.insts
  only : s.only [.comp] t
  waits : ∀ e ∈ rest, e ∈ t.comp.insts ∧ e.2.launch = l ∧ e.2.st = .waiting
  mine : ∀ e ∈ t.comp.insts, e.2.launch = l → e ∈ rest ∨ e.2.st = .ended ∧ e.2.status = st
  order : KeysRise rest

theorem State.only_putInst (s : State) (i : Nat) (x : Inst) : s.only [.comp] (s.putInst i x) := State.only_setComp s _

/-- One more of the instances ends. -/
theorem LaunchEnding.put {s t : State} {l st : Nat} {x : Launch} {e : Nat × Inst} {rest : List (Nat × Inst)} (h : LaunchEnding s l st x (e :: rest) t) :
    LaunchEnding s l st x rest (t.putInst e.1 (e.2.ends st none)) := by
  obtain ⟨⟨he, hl, _⟩, hrest⟩ := List.forall_mem_cons.1 h.waits
  obtain ⟨hfirst, horder⟩ := keysRise_cons.1 h.order
  have hget := AMap.get?_of_mem h.rising he
  refine ⟨h.launch, h.rising.put hget _, State.only_trans h.only (State.only_putInst _ _ _), fun d hd => ?_, fun d hd hdl => ?_, horder⟩
  · obtain ⟨hmem, hkind⟩ := hrest d hd
    exact ⟨(AMap.mem_put h.rising).2 (.inr ⟨hmem, Nat.ne_of_gt (hfirst d hd)⟩), hkind⟩
  · rcases (AMap.mem_put h.rising).1 hd with rfl | ⟨hmem, hne⟩
    · exact .inr ⟨rfl, rfl⟩
    · rcases h.mine d hmem hdl with hin | hend
      · exact .inl ((List.mem_cons.1 hin).resolve_left fun heq => hne (by rw [heq]))
      · exact .inr hend

/-- The instances end one after the other, and with the last one the launch is over, with their status. -/
theorem LaunchEnding.over {s : State} {l st : Nat} {x : Launch} (hst : st ≠ 0) (haborted : x.aborted = false) {f : State → Nat × Inst → State}
    (hf : ∀ t e, e.2.st = .waiting → f t e = t.endInst e.1 st none) {rest : List (Nat × Inst)} (hne : rest ≠ []) {t : State}
    (h : LaunchEnding s l st x rest t) :
    ∃ u o, rest.foldl f t = (u.launchGone l).conclude x.ring x.at_ o ∧ o.status = st ∧ s.only [.comp] u := by
  induction rest generalizing t with
  | nil => exact absurd rfl hne
  | cons e rest ih =>
    obtain ⟨⟨he, hl, hwaits⟩, _⟩ := List.forall_mem_cons.1 h.waits
    have hput := h.put
    have hend : f t e = (t.putInst e.1 (e.2.ends st none)).launchCheck l := by
      rw [hf t e hwaits, State.endInst_idle (AMap.get?_of_mem h.rising he) (fun k hk => by rw [hwaits] at hk; exact nomatch hk), hl]
    rw [List.foldl_cons, hend]
    cases rest with
    | cons d rest =>
      obtain ⟨hd, hdl, hdw⟩ := hput.waits d List.mem_cons_self
      rw [State.launchCheck_of_open hd hdl (by rw [hdw]; exact nofun)]
      exact ih (List.cons_ne_nil _ _) hput
    | nil =>
      have hmine := fun d hd hdl => (hput.mine d hd hdl).resolve_left List.not_mem_nil
      obtain ⟨o, ho, hstatus⟩ := State.launchCheck_of_ended hput.launch fun d hd hdl => (hmine d hd hdl).1
      refine ⟨_, o, ho, hstatus st hst haborted ⟨(e.1, e.2.ends st none), (AMap.mem_put h.rising).2 (.inl rfl), hl⟩ fun d hd hdl => (hmine d hd hdl).2, hput.only⟩

end Sys2Proof.Machine
end

section
/-! PROOFS. Waits, fences and restart points (R103 to R108, R113 to R115). -/

namespace Sys2Proof.Machine

/-! ### The state in which a bundle begins to issue -/

@[simp] theorem State.instOf_begin (s : State) (k : Nat) : (s.begin k).instOf k = s.instOf k := by
  simp only [State.instOf, State.coreOf_begin]
  rfl

@[simp] theorem State.bits_begin (s : State) (k sl : Nat) : (s.begin k).bits k sl = s.bits k sl := by
  have hkernel : (s.begin k).kernelOf k = s.kernelOf k := by rw [State.kernelOf, State.launchOf_begin, State.kernelOf]; rfl
  simp only [State.bits, State.bundle, State.bundleAt, hkernel, State.coreOf_begin]

/-- A slot without an effect of its own. -/
theorem State.slotMakes_idle (s : State) (k sl : Nat) : s.slotMakes k (s.coreOf k) (((s.begin k).take k sl).finish k) :=
  CoreMade.slotMakes ⟨CoreWork.updCore s k _, State.begin_bare s k⟩ rfl sl

/-! ### Waits -/

theorem State.waitEffect_of_ne {op : Nat} (h : op ≠ 1) (s : State) (k : Nat) : s.waitEffect k op = s := if_neg h

/-- A wait that holds nothing back and consumes nothing lets its slot take effect. -/
theorem State.slotStep_wait {s : State} {k op : Nat} (hmay : s.mayIssue k 5 op = true) (hnew : s.newFault k = none) (hop : op ≠ 1) :
    Answers (s.slotStep k 5 op true fun t => t.waitEffect k op) fun t => s.slotMakes k (s.coreOf k) t := by
  refine State.slotStep_answers ((State.issues_iff s k 5 op).2 ⟨hmay, hnew⟩) rfl ?_
  rw [State.waitEffect_of_ne hop]
  exact State.slotMakes_idle s k 5

/-- Group `i` becomes `g`. -/
def State.putGroup (s : State) (i : Nat) (g : Group) : State := s.setComp { s.comp with groups := s.comp.groups.put i g }

@[simp] theorem State.putGroup_coreOf (s : State) (i : Nat) (g : Group) (j : Nat) : (s.putGroup i g).coreOf j = s.coreOf j := rfl

theorem State.updGroup_of {s : State} {k : Nat} {i : Inst} {g : Group} (hi : s.instOf k = some i) (hg : s.comp.groups.get? i.group = some g)
    (f : Group → Group) : s.updGroup k f = s.putGroup i.group (f g) := by
  simp only [State.updGroup, hi, hg, State.putGroup]

/-- A slot that changed its core and the groups. -/
theorem State.slotGroups_takeFinish {s u : State} {k : Nat} {c : Core} {gs : AMap Group} (hrest : u = s.setComp u.comp)
    (hother : ∀ j, j ≠ k → u.coreOf j = s.coreOf j) (hcore : (u.coreOf k).bare = c.bare)
    (hcomp : u.comp = { s.comp with cores := u.comp.cores, groups := gs }) (sl : Nat) :
    Core.issued c (((u.take k sl).finish k).coreOf k) ∧
      ((u.take k sl).finish k).comp = { s.comp with cores := ((u.take k sl).finish k).comp.cores, groups := gs } ∧
      s.slotFrame k ((u.take k sl).finish k) := by
  have hend := IssueKept.takeFinish u k sl
  exact ⟨hend.core.trans hcore, by rw [hend.comp, hcomp], State.slotFrame_takeFinish hother hrest sl⟩

/-- A semaphore wait that its count satisfies takes the count, and a restartable kernel's core notes it (R103, R114). -/
theorem State.slotStep_swait {s : State} {k : Nat} {i : Inst} {g : Group} (hmay : s.mayIssue k 5 1 = true) (hnew : s.newFault k = none)
    (hi : s.instOf k = some i) (hg : s.comp.groups.get? i.group = some g) {idx n : Nat} (hidx : idx = fld (s.bits k 5) 39 32)
    (hn : n = fld (s.bits k 5) 15 0) :
    Answers (s.slotStep k 5 1 true fun t => t.waitEffect k 1) fun t =>
      Core.issued (if s.restartable k = true then { s.coreOf k with cons := (s.coreOf k).cons ++ [(idx, n)] } else s.coreOf k) (t.coreOf k) ∧
      t.comp = { s.comp with
        cores := t.comp.cores, groups := s.comp.groups.put i.group { g with sems := g.sems.put idx (g.sems.getD idx 0 - n) } } ∧
      s.slotFrame k t := by
  refine State.slotStep_answers ((State.issues_iff s k 5 1).2 ⟨hmay, hnew⟩) rfl ?_
  generalize hgroup : ({ g with sems := g.sems.put idx (g.sems.getD idx 0 - n) } : Group) = g'
  have hpost : ((s.begin k).updGroup k fun g => { g with sems := g.sems.put idx (g.sems.getD idx 0 - n) }) = (s.begin k).putGroup i.group g' := by
    rw [State.updGroup_of ((State.instOf_begin s k).trans hi) (show (s.begin k).comp.groups.get? i.group = some g from hg), hgroup]
  have hrestart : ((s.begin k).putGroup i.group g').restartable k = s.restartable k := State.restartable_begin s k
  have heff : (s.begin k).waitEffect k 1 =
      if s.restartable k = true then ((s.begin k).putGroup i.group g').updCore k fun c => { c with cons := c.cons ++ [(idx, n)] }
      else (s.begin k).putGroup i.group g' := by
    rw [State.waitEffect, if_pos rfl]
    simp only [State.bits_begin, ← hidx, ← hn, hpost, hrestart]
  have hother : ∀ j, j ≠ k → (s.begin k).coreOf j = s.coreOf j := (CoreWork.updCore s k _).other
  have hcore := State.coreOf_begin s k
  rw [heff]
  by_cases hr : s.restartable k = true
  · rw [if_pos hr, if_pos hr]
    refine State.slotGroups_takeFinish ?_ (fun j hj => ?_) ?_ ?_ 5
    · rfl
    · rw [State.coreOf_updCore_other _ _ _ _ hj]
      exact hother j hj
    · rw [State.coreOf_updCore_self, State.putGroup_coreOf, hcore]
      rfl
    · rfl
  · rw [if_neg hr, if_neg hr]
    refine State.slotGroups_takeFinish ?_ (fun j hj => ?_) ?_ ?_ 5
    · rfl
    · exact hother j hj
    · exact State.begin_bare s k
    · rfl

theorem State.waitStep_issues {s : State} {k op : Nat} (hmay : s.mayIssue k 5 op = true) (hsync : s.syncFault k op (s.bits k 5) (s.src k) = none)
    (hwaiting : (s.coreOf k).waiting = none) :
    s.waitStep k op =
      if s.waitHolds k op then s.slotStep k 5 op true fun t => t.waitEffect k op else .next (s.setCore k { s.coreOf k with waiting := some s.now }) := by
  unfold State.waitStep
  simp only [hmay, hwaiting, hsync]
  rfl

theorem waitSatisfied_issues {s : State} {k op : Nat} (hmay : s.mayIssue k 5 op = true) (hwaiting : (s.coreOf k).waiting.isSome = true)
    (hholds : s.waitHolds k op = true) : exec (.waitSatisfied k) s = s.slotStep k 5 op true fun t => t.waitEffect k op := by
  obtain ⟨b, hb, _, hop⟩ := State.mayIssue_slot hmay
  show execWaitSatisfied k s = _
  unfold execWaitSatisfied
  simp only [hb, Option.map_some, Option.getD_some, hop, hwaiting, hholds, Bool.and_self, if_true]

theorem State.waitHolds_swait {s : State} {k : Nat} {i : Inst} {g : Group} (hi : s.instOf k = some i) (hg : s.comp.groups.get? i.group = some g) :
    s.waitHolds k 1 = decide (fld (s.bits k 5) 15 0 ≤ g.sems.getD (fld (s.bits k 5) 39 32) 0) := by
  simp only [State.waitHolds, State.sem, State.groupOf, hi, Option.bind_some, hg, Option.map_some, Option.getD_some]

/-! ### Waits that last too long -/

/-- The wait-timeout fault of a core whose bundle still waits (R105). -/
theorem waitTimeout_core {s : State} {k t0 : Nat} {j : Job} (hwaiting : (s.coreOf k).waiting = some t0) (hj : s.jobOf k = some j)
    (hdue : t0 + 1000 * j.waitMs * 25 ≤ s.now) (hfault : (s.coreOf k).fault = none)
    (hholds : ∀ b, s.bundle k = some b → s.waitHolds k (slotOp b 5) = false) (hb : (s.bundle k).isSome = true) :
    exec (.waitTimeout (.core k)) s = .next (s.setCore k { s.coreOf k with fault := some ⟨10, 5, true, (s.coreOf k).pc % 4096, 0⟩ }) := by
  obtain ⟨b, hb⟩ := Option.isSome_iff_exists.1 hb
  have hafter : s.after t0 (1000 * j.waitMs) = true := decide_eq_true hdue
  have hraises : s.raise k (s.faultHere k 10 5 true 0) = s.setCore k { s.coreOf k with fault := some ⟨10, 5, true, (s.coreOf k).pc % 4096, 0⟩ } := by
    rw [State.raise, State.updCore, hfault]
    rfl
  rw [← hraises]
  show execWaitTimeout (.core k) s = _
  unfold execWaitTimeout
  simp only [hwaiting, hj, hb, Option.map_some, Option.getD_some, hholds b hb, hafter, hfault, State.when]
  rfl

theorem State.outcomeAt_conclude {s : State} {ring at_ : Nat} {g : Prog} (hg : s.prog ring at_ = some g) (hout : g.outcome = none) (o : Outc) :
    (s.conclude ring at_ o).outcomeAt ring at_ = some o := by
  have hkeeps : ((fun p : Prog => decide (p.ring = ring) && decide (p.at_ = at_)) ∘
      fun p : Prog => if p.ring = ring && p.at_ = at_ then (if p.outcome.isSome then p else { p with outcome := some o }) else p) =
      fun p : Prog => decide (p.ring = ring) && decide (p.at_ = at_) := by
    funext p
    simp only [Function.comp]
    split
    · split <;> rfl
    · rfl
  obtain ⟨hring, hat⟩ : g.ring = ring ∧ g.at_ = at_ := by simpa using List.find?_some hg
  have hfound : (s.conclude ring at_ o).prog ring at_ = some { g with outcome := some o } := by
    rw [State.conclude, State.updProg, State.prog, State.setCmd_cmd, List.find?_map, hkeeps]
    rw [State.prog] at hg
    simp [hg, hring, hat, hout]
  rw [State.outcomeAt, hfound]
  rfl

/-- A main job's launch that no cluster took within its job's wait limit is over, with TIMEOUT (R105, R354). -/
theorem waitTimeout_launch {s : State} {l : Nat} {x : Launch} {g : Prog} {j : Job} (hx : s.comp.launches.get? l = some x) (hmain : x.filler = false)
    (haborted : x.aborted = false) (hsome : ∃ e ∈ s.comp.insts, e.2.launch = l) (hwaiting : ∀ e ∈ s.comp.insts, e.2.launch = l → e.2.st = .waiting)
    (hrising : KeysRise s.comp.insts) (hclosed : ∀ c < 24, s.clusterOpen c false = false) (hg : s.prog x.ring x.at_ = some g)
    (hout : g.outcome = none) (hj : s.cmd.jobs.get? x.job = some j) (hdue : g.acceptedAt + 1000 * j.waitMs * 25 ≤ s.now) :
    Answers (exec (.waitTimeout (.launch l)) s) fun t =>
      t.comp.launches.get? l = none ∧ (∀ e ∈ t.comp.insts, e.2.launch ≠ l) ∧ (t.outcomeAt x.ring x.at_).map (·.status) = some 0x0403 ∧
      s.only [.comp, .cmd] t := by
  obtain ⟨e, he, hel⟩ := hsome
  have hexpired : s.launchExpired l = true := by
    have hwait : (s.comp.insts.any fun e => e.2.launch = l && e.2.st = .waiting) = true :=
      List.any_eq_true.2 ⟨e, he, by simp [hel, hwaiting e he hel]⟩
    have hnone : ((List.range 24).all fun c => !s.clusterOpen c false) = true := List.all_eq_true.2 fun c hc => by
      rw [hclosed c (List.mem_range.1 hc)]; rfl
    have hafter : s.after g.acceptedAt (1000 * j.waitMs) = true := decide_eq_true hdue
    rw [State.launchExpired, hx]
    simp only [Option.any_some, hmain, hwait, hnone, hg, hj, hafter]
    rfl
  have hfilter : ∀ d ∈ s.comp.insts.filter fun e => e.2.launch = l && e.2.st != .ended, d ∈ s.comp.insts ∧ d.2.launch = l := fun d hd => by
    obtain ⟨hd, hkind⟩ := List.mem_filter.1 hd
    exact ⟨hd, by simp only [Bool.and_eq_true, decide_eq_true_eq] at hkind; exact hkind.1⟩
  have hin : ∀ d ∈ s.comp.insts, d.2.launch = l → d ∈ s.comp.insts.filter fun e => e.2.launch = l && e.2.st != .ended := fun d hd hdl =>
    List.mem_filter.2 ⟨hd, by simp [hdl, hwaiting d hd hdl]⟩
  have hopen : LaunchEnding s l 0x0403 x (s.comp.insts.filter fun e => e.2.launch = l && e.2.st != .ended) s :=
    ⟨hx, hrising, State.only_refl _ _, fun d hd => ⟨(hfilter d hd).1, (hfilter d hd).2, hwaiting d (hfilter d hd).1 (hfilter d hd).2⟩,
      fun d hd hdl => .inl (hin d hd hdl), List.Pairwise.sublist (List.Sublist.map _ List.filter_sublist) hrising⟩
  obtain ⟨u, o, hends, hstatus, honly⟩ : ∃ u o, s.endOthers l 0x0403 = (u.launchGone l).conclude x.ring x.at_ o ∧ o.status = 0x0403 ∧ s.only [.comp] u := by
    refine hopen.over (by decide) haborted (fun t d hd => ?_) (List.ne_nil_of_mem (hin e he hel))
    simp only [hd]
  have hcmd : (u.launchGone l).prog x.ring x.at_ = some g := by
    have hsame : u.cmd = s.cmd := honly.2 .cmd (by simp)
    rw [State.prog, State.launchGone, State.setComp_cmd, hsame]
    exact hg
  refine ⟨_, congrArg Host.Outcome.next ((if_pos hexpired).trans hends), AMap.get?_drop_self _ _, fun d hd => ?_, ?_, ?_⟩
  · simpa using (List.mem_filter.1 hd).2
  · rw [State.outcomeAt_conclude hcmd hout, Option.map_some, hstatus]
  · exact State.only_trans (State.only_trans (State.only_mono (by simp) honly) (State.only_mono (by simp) (State.only_setComp u _)))
      (State.only_mono (by simp) (State.only_updProg (State.only_refl _ _) _ _ _))

/-! ### Held effects (R113) -/

/-- From `s` to `t` neither the instances nor another core nor a register of core `k` changed. -/
structure HeldKept (k : Nat) (s t : State) : Prop where
  insts : t.comp.insts = s.comp.insts
  regs : (t.coreOf k).regs = (s.coreOf k).regs
  other : ∀ j, j ≠ k → t.coreOf j = s.coreOf j

theorem HeldKept.ofComp {k : Nat} {s t : State} (hinsts : t.comp.insts = s.comp.insts) (hcores : t.comp.cores = s.comp.cores) : HeldKept k s t :=
  ⟨hinsts, by rw [State.coreOf, hcores, State.coreOf], fun j _ => by rw [State.coreOf, hcores, State.coreOf]⟩

theorem HeldKept.refl (k : Nat) (s : State) : HeldKept k s s := HeldKept.ofComp rfl rfl

theorem HeldKept.trans {k : Nat} {s t u : State} (h : HeldKept k s t) (g : HeldKept k t u) : HeldKept k s u :=
  ⟨g.insts.trans h.insts, g.regs.trans h.regs, fun j hj => (g.other j hj).trans (h.other j hj)⟩

theorem HeldKept.updCore (s : State) (k : Nat) {f : Core → Core} (hf : ∀ c, (f c).regs = c.regs) : HeldKept k s (s.updCore k f) :=
  ⟨rfl, by rw [State.coreOf_updCore_self, hf], fun j hj => State.coreOf_updCore_other s k j f hj⟩

theorem HeldKept.raise (s : State) (k : Nat) (f : FaultRec) : HeldKept k s (s.raise k f) := HeldKept.updCore s k fun c => by split <;> rfl

theorem HeldKept.updGroup (s : State) (k : Nat) (f : Group → Group) : HeldKept k s (s.updGroup k f) := by
  obtain ⟨gs, hgs⟩ := State.updGroup_eq s k f
  rw [hgs]
  exact HeldKept.ofComp rfl rfl

theorem HeldKept.sendPacket (s : State) (k dst typ cls job : Nat) (addr : BitVec 64) (payload : List Byte) (poison : BitVec 64) (o : Out)
    (cmd core : Option (Nat × Nat)) : HeldKept k s (s.sendPacket dst typ cls job addr payload poison (some o) cmd core) := by
  cases hown : s.ownIndex with
  | none =>
    rw [State.sendPacket, hown]
    exact HeldKept.refl k s
  | some own =>
    have hcomp : _ = s.comp := (State.sendPacket_sends hown dst typ cls job addr payload poison o cmd core).2.2 .comp (by simp)
    exact HeldKept.ofComp (by rw [hcomp]) (by rw [hcomp])

theorem HeldKept.sgaddNow (s : State) (k : Nat) (word add dst : W64) (bundle : Nat) : HeldKept k s (s.sgaddNow k word add dst bundle) := by
  unfold State.sgaddNow
  split
  · exact HeldKept.refl k s
  · split
    · split
      · exact HeldKept.refl k s
      · exact HeldKept.ofComp rfl rfl
    · split
      · exact HeldKept.sendPacket _ _ _ _ _ _ _ _ _ _ _ _
      · exact HeldKept.raise _ _ _

theorem HeldKept.laMakeRoom (s : State) (k key : Nat) : HeldKept k s (s.laMakeRoom key) := by
  unfold State.laMakeRoom
  split
  · exact HeldKept.refl k s
  · split
    · exact HeldKept.refl k s
    · exact HeldKept.ofComp rfl rfl

theorem HeldKept.laAdd (s : State) (k : Nat) (who : Option (Nat × Nat)) (key : Nat) (a : Addend) : HeldKept k s (s.laAdd who key a) := by
  have hplaced := (PlaceKept.touchForWrite s none (s.handleOfKey key) (key % 2 ^ 48) 48).comp
  rw [State.laAdd_eq, State.wantAdd_eq]
  exact (HeldKept.ofComp (congrArg Comp.insts hplaced) (congrArg Comp.cores hplaced)).trans (HeldKept.ofComp rfl rfl)

theorem HeldKept.applyHeld (s : State) (k : Nat) (h : Held) : HeldKept k s (s.applyHeld k h) := by
  cases h with
  | flush key v b =>
    rw [State.applyHeld]
    split
    · exact HeldKept.refl k s
    · exact (HeldKept.laMakeRoom s k key).trans (HeldKept.laAdd _ k _ _ _)
  | spost i n b => exact HeldKept.updGroup s k _
  | eset i => exact HeldKept.updGroup s k _
  | eclr i => exact HeldKept.updGroup s k _
  | sgadd w a d b => exact HeldKept.sgaddNow s k w a d b

theorem HeldKept.applyHelds (s : State) (k : Nat) (hs : List Held) : HeldKept k s (s.applyHelds k hs) := by
  unfold State.applyHelds
  induction hs generalizing s with
  | nil => exact HeldKept.refl k s
  | cons h hs ih => exact (HeldKept.applyHeld s k h).trans (ih _)

/-! ### Restart points -/

/-- The save area and the held effects take effect together (R113). -/
theorem restartPointCommit_answers {s : State} {k i : Nat} {x : Inst} {save : Save} {hs : List Held} (hcommit : (s.coreOf k).commit = some (save, hs))
    (hinst : (s.coreOf k).inst = some i) (hx : s.comp.insts.get? i = some x) (hfault : (s.coreOf k).fault = none)
    (hending : (s.coreOf k).ending = none) (hready : s.heldReady hs = true) (hheld : s.heldFault k hs = none) (hleave : (s.coreOf k).leave = none) :
    Answers (exec (.restartPointCommit k) s) fun t =>
      t.comp.insts.get? i = some { x with save := some save, tried := [] } ∧ (t.coreOf k).commit = none ∧ (t.coreOf k).regs = (s.coreOf k).regs ∧
      (∀ j, j ≠ k → t.coreOf j = s.coreOf j) := by
  have hkept := HeldKept.applyHelds s k hs
  show Answers (execRestartPointCommit k s) _
  unfold execRestartPointCommit
  simp only [hcommit, hinst, hfault, hending, hready, hheld, hleave, Option.isNone_none, Bool.and_self, State.when, if_true, Option.isSome_none,
    Bool.false_eq_true, if_false]
  rw [State.updInst_eq (x := x) (show ((s.applyHelds k hs).updCore k _).comp.insts.get? i = some x by rw [← hx, ← hkept.insts]; rfl)]
  refine ⟨_, rfl, AMap.get?_put_self _ _ _, ?_, ?_, fun j hj => ?_⟩
  · rw [State.putInst_coreOf, State.coreOf_updCore_self]
  · rw [State.putInst_coreOf, State.coreOf_updCore_self]
    exact hkept.regs
  · rw [State.putInst_coreOf, State.coreOf_updCore_other _ _ _ _ hj]
    exact hkept.other j hj

theorem restartPointCommit_faults {s : State} {k i : Nat} {save : Save} {hs : List Held} {f : FaultRec} (hcommit : (s.coreOf k).commit = some (save, hs))
    (hinst : (s.coreOf k).inst = some i) (hfault : (s.coreOf k).fault = none) (hending : (s.coreOf k).ending = none) (hready : s.heldReady hs = true)
    (hheld : s.heldFault k hs = some f) : exec (.restartPointCommit k) s = .next (s.setCore k { s.coreOf k with fault := some f }) := by
  have hraises : s.raise k f = s.setCore k { s.coreOf k with fault := some f } := by
    rw [State.raise, State.updCore, hfault]
    rfl
  rw [← hraises]
  show execRestartPointCommit k s = _
  unfold execRestartPointCommit
  simp only [hcommit, hinst, hfault, hending, hready, hheld]
  rfl

theorem restart_answers {s : State} {k : Nat} (h : s.issues k 5 10 = true) :
    (s.restartable k = false → Answers (exec (.restart k) s) fun t => s.slotMakes k (s.coreOf k) t) ∧
    (s.restartable k = true → s.restartReady k = true → Answers (exec (.restart k) s) fun t =>
      s.slotMakes k ((s.coreOf k).restartPoint (fld (s.bits k 5) 11 0)) t) := by
  refine ⟨fun hnot => ?_, fun hyes hready => ?_⟩
  · show Answers (execRestart k s) _
    unfold execRestart
    refine State.slotStep_answers h (by simp [hnot]) ?_
    rw [State.restartable_begin, hnot]
    exact State.slotMakes_idle s k 5
  · show Answers (execRestart k s) _
    unfold execRestart
    refine State.slotStep_answers h (by simp [hready]) ?_
    rw [State.restartable_begin, hyes, if_pos rfl]
    exact State.slotMakes_coreStep (s := s) (f := fun c => c.restartPoint (fld (s.bits k 5) 11 0)) 5 (by rw [State.coreOf_begin]; rfl)

/-- Settles O19: a wait by whether its condition holds, a launch's end by its instances one after the other, and a commit by what held effects keep. -/
theorem waitsAndRestartPoints : Obligations.WaitsAndRestartPoints := by
  refine ⟨⟨fun s k r hr hmay hnew hsync hwaiting => ?_, fun s k op hop hwaiting hmay hnew hholds => ?_, ?_, fun s k t0 j => waitTimeout_core,
    fun s l x g j => waitTimeout_launch⟩, fun s k h hdone => ?_, fun s k h => restart_answers h, ?_⟩
  · have hexec : exec (r.1 k) s = s.waitStep k r.2 := by
      clear hmay hsync
      revert r
      simp only [List.forall_mem_cons]
      exact ⟨rfl, rfl, rfl, rfl, List.forall_mem_nil _⟩
    rw [hexec, State.waitStep_issues hmay hsync hwaiting]
    refine ⟨fun hnot => by rw [hnot]; rfl, fun hholds hop => ?_⟩
    rw [if_pos hholds]
    exact State.slotStep_wait hmay hnew hop
  · rw [waitSatisfied_issues hmay hwaiting hholds]
    exact State.slotStep_wait hmay hnew (by omega)
  · intro s k i g idx n hidx hn hi hg hle hmay hnew c hc hreached hsatisfied
    have hholds : s.waitHolds k 1 = true := by
      rw [State.waitHolds_swait hi hg, ← hidx, ← hn]
      exact decide_eq_true hle
    have hstep : exec c s = s.slotStep k 5 1 true fun t => t.waitEffect k 1 := by
      simp only [List.mem_cons, List.not_mem_nil, or_false] at hc
      rcases hc with rfl | rfl
      · obtain ⟨hwaiting, hsync⟩ := hreached rfl
        exact (State.waitStep_issues hmay hsync hwaiting).trans (if_pos hholds)
      · exact waitSatisfied_issues hmay (hsatisfied rfl) hholds
    rw [hstep]
    exact State.slotStep_swait hmay hnew hi hg hidx hn
  · show Answers (execSyncFence k s) _
    unfold execSyncFence
    exact State.slotStep_answers h hdone (State.slotMakes_idle s k 5)
  · intro s k i x save hs hcommit hinst hx hfault hending hready
    exact ⟨restartPointCommit_answers hcommit hinst hx hfault hending hready,
      fun f => restartPointCommit_faults hcommit hinst hfault hending hready⟩

end Sys2Proof.Machine
end

section
/-! PROOFS. The ends of instances and precise faults (R90, R91, R111, R112, R295, R319, R323). -/

namespace Sys2Proof.Machine

/-! ### Starting what waits, where nothing waits -/

/-- From `s` to `t` some cores were asked to leave, and nothing else of the compute side changed. -/
structure LeaveAsked (s t : State) : Prop where
  comp : s.compKept t
  cores : ∀ j, ({ t.coreOf j with leave := none } : Core) = { s.coreOf j with leave := none }

theorem LeaveAsked.refl (s : State) : LeaveAsked s s := ⟨rfl, fun _ => rfl⟩

theorem LeaveAsked.trans {s t u : State} (h : LeaveAsked s t) (g : LeaveAsked t u) : LeaveAsked s u := by
  refine ⟨?_, fun j => (g.cores j).trans (h.cores j)⟩
  have hfirst := h.comp
  have hsecond := g.comp
  unfold State.compKept at hfirst hsecond ⊢
  rw [hsecond, hfirst]

theorem LeaveAsked.foldl {α : Type} {f : State → α → State} (hf : ∀ t a, LeaveAsked t (f t a)) (l : List α) (s : State) : LeaveAsked s (l.foldl f s) := by
  induction l generalizing s with
  | nil => exact LeaveAsked.refl s
  | cons a l ih => exact (hf s a).trans (ih _)

theorem LeaveAsked.askLeave (s : State) (c : Nat) : LeaveAsked s (s.askLeave c) := by
  unfold State.askLeave
  refine LeaveAsked.foldl (fun t e => ?_) _ s
  refine ⟨rfl, fun j => ?_⟩
  by_cases hj : j = e.1
  · subst hj
    rw [State.coreOf_updCore_self]
    split <;> rfl
  · rw [State.coreOf_updCore_other _ _ _ _ hj]

theorem LeaveAsked.askForReplay (s : State) (x : Inst) : LeaveAsked s (s.askForReplay x) := by
  unfold State.askForReplay
  split
  · split
    · exact LeaveAsked.askLeave _ _
    · exact LeaveAsked.refl s
  · exact LeaveAsked.refl s

theorem LeaveAsked.insts {s t : State} (h : LeaveAsked s t) : t.comp.insts = s.comp.insts := by
  have hcomp := h.comp
  unfold State.compKept at hcomp
  rw [hcomp]

theorem LeaveAsked.launches {s t : State} (h : LeaveAsked s t) : t.comp.launches = s.comp.launches := by
  have hcomp := h.comp
  unfold State.compKept at hcomp
  rw [hcomp]

theorem LeaveAsked.inst {s t : State} (h : LeaveAsked s t) (j : Nat) : (t.coreOf j).inst = (s.coreOf j).inst := (congrArg Core.inst (h.cores j) :)
theorem LeaveAsked.ending {s t : State} (h : LeaveAsked s t) (j : Nat) : (t.coreOf j).ending = (s.coreOf j).ending := (congrArg Core.ending (h.cores j) :)

/-- None of the instances waits to start. -/
def State.noStart (s : State) : Prop := ∀ e ∈ s.comp.insts, e.2.st ≠ .waiting

theorem State.waitingGroups_nil {s : State} (h : s.noStart) (filler : Bool) : s.waitingGroups filler = [] := by
  refine List.filter_eq_nil_iff.2 fun g _ hany => ?_
  obtain ⟨e, he, hwaits⟩ := List.any_eq_true.1 hany
  simp only [Bool.and_eq_true, decide_eq_true_eq] at hwaits
  exact h e he hwaits.1.2

/-- Where none of the instances waits to start, starting what waits only asks fillers to leave (R231). -/
theorem LeaveAsked.startWaiting {s : State} (h : s.noStart) : LeaveAsked s s.startWaiting := by
  unfold State.startWaiting
  dsimp only
  generalize hasked : List.foldl (fun s (e : Nat × Inst) => s.askForReplay e.2) s _ = t
  have hask : LeaveAsked s t := hasked ▸ LeaveAsked.foldl (fun u (e : Nat × Inst) => LeaveAsked.askForReplay u e.2) _ s
  have hnone : ∀ filler, t.waitingGroups filler = [] := State.waitingGroups_nil fun e he => h e (by rwa [hask.insts] at he)
  rw [hnone, List.foldl_nil, hnone, List.foldl_nil, ite_self]
  exact hask

/-! ### What a core runs ends -/

theorem AMap.of_mem_put {α : Type} {m : AMap α} {k : Nat} {v : α} {e : Nat × α} (h : e ∈ m.put k v) : e = (k, v) ∨ e ∈ m := by
  induction m with
  | nil => exact .inl (List.mem_singleton.1 h)
  | cons d m ih =>
    unfold AMap.put at h
    split at h
    · exact List.mem_cons.1 h
    · split at h
      · exact (List.mem_cons.1 h).imp_right (List.mem_cons_of_mem d)
      · rcases List.mem_cons.1 h with rfl | h
        · exact .inr List.mem_cons_self
        · exact (ih h).imp_right (List.mem_cons_of_mem d)

theorem State.launchCheck_coreOf (s : State) (l j : Nat) : (s.launchCheck l).coreOf j = s.coreOf j := by
  unfold State.launchCheck
  split
  · rfl
  · dsimp only
    split <;> rfl

theorem State.launchCheck_insts (s : State) (l : Nat) : ∀ e ∈ (s.launchCheck l).comp.insts, e ∈ s.comp.insts := by
  unfold State.launchCheck
  split
  · exact fun _ he => he
  · dsimp only
    split
    · exact fun _ he => (List.mem_filter.1 he).1
    · exact fun _ he => he

theorem Inst.ends_ne_waiting {x : Inst} {status : Nat} {f : Option FaultRec} : (x.ends status f).st ≠ .waiting := by simp [Inst.ends]

/-- Core `k` runs nothing, and none of the instances waits to start. -/
structure CoreIdle (k : Nat) (s : State) : Prop where
  inst : (s.coreOf k).inst = none
  noStart : s.noStart

theorem CoreIdle.put {k : Nat} {s : State} (h : CoreIdle k s) (i : Nat) {x : Inst} (hx : x.st ≠ .waiting) : CoreIdle k (s.putInst i x) := by
  refine ⟨h.inst, fun e he => ?_⟩
  rcases AMap.of_mem_put he with rfl | he
  · exact hx
  · exact h.noStart e he

theorem CoreIdle.launchCheck {k : Nat} {s : State} (h : CoreIdle k s) (l : Nat) : CoreIdle k (s.launchCheck l) :=
  ⟨by rw [State.launchCheck_coreOf]; exact h.inst, fun e he => h.noStart e (State.launchCheck_insts s l e he)⟩

theorem CoreFreed.idle {k : Nat} {s t : State} (h : CoreFreed k s t) (hnone : s.noStart) : CoreIdle k t :=
  ⟨h.inst, fun e he => hnone e (by rwa [h.insts] at he)⟩

theorem CoreIdle.endInst {k : Nat} {s : State} (h : CoreIdle k s) (i status : Nat) (f : Option FaultRec) : CoreIdle k (s.endInst i status f) := by
  cases hx : s.comp.insts.get? i with
  | none =>
    rw [State.endInst, hx]
    exact h
  | some x =>
    by_cases hrun : ∃ j, x.st = .running j
    · obtain ⟨j, hj⟩ := hrun
      obtain ⟨t, hfreed, hends⟩ := State.endInst_running hx hj status f
      have hidle : CoreIdle k t := by
        refine ⟨?_, (hfreed.idle h.noStart).noStart⟩
        by_cases hkj : k = j
        · rw [hkj, hfreed.inst]
        · rw [hfreed.other k hkj, h.inst]
      rw [hends]
      exact (hidle.put i Inst.ends_ne_waiting).launchCheck _
    · rw [State.endInst_idle hx (fun j hj => hrun ⟨j, hj⟩)]
      exact (h.put i Inst.ends_ne_waiting).launchCheck _

theorem CoreIdle.endOthers {k : Nat} {s : State} (h : CoreIdle k s) (l status : Nat) : CoreIdle k (s.endOthers l status) := by
  unfold State.endOthers
  generalize List.filter _ s.comp.insts = es
  induction es generalizing s with
  | nil => exact h
  | cons e es ih =>
    rw [List.foldl_cons]
    refine ih ?_
    split
    · next j _ =>
      refine ⟨?_, h.noStart⟩
      by_cases hkj : k = j
      · rw [hkj, State.coreOf_updCore_self, ← hkj]
        split <;> exact h.inst
      · rw [State.coreOf_updCore_other _ _ _ _ hkj]
        exact h.inst
    · exact h.endInst _ _ _

/-- What core `k` runs ends: the core is free; while the launch goes on the entry stays with it, and the last of its instances takes the launch along. -/
theorem endInst_leaves {s : State} {k i : Nat} {x : Inst} (hx : s.comp.insts.get? i = some x) (hst : x.st = .running k) (hnone : s.noStart)
    (hlaunch : s.comp.launches.has x.launch = true) (hrising : KeysRise s.comp.insts) (status : Nat) (f : Option FaultRec) :
    ((s.endInst i status f).startWaiting.coreOf k).inst = none ∧
    ((∃ e ∈ s.comp.insts, e.1 ≠ i ∧ e.2.launch = x.launch ∧ e.2.st ≠ .ended) →
      (s.endInst i status f).startWaiting.comp.insts.get? i = some (x.ends status f)) ∧
    ((∀ e ∈ s.comp.insts, e.1 ≠ i → e.2.launch = x.launch → e.2.st = .ended) →
      (s.endInst i status f).startWaiting.comp.launches.get? x.launch = none ∧ (s.endInst i status f).startWaiting.comp.insts.get? i = none) := by
  obtain ⟨t, hfreed, hends⟩ := State.endInst_running hx hst status f
  have hidle : CoreIdle k (s.endInst i status f) := by
    rw [hends]
    exact ((hfreed.idle hnone).put i Inst.ends_ne_waiting).launchCheck _
  have hasked := LeaveAsked.startWaiting hidle.noStart
  rw [hasked.inst, hasked.insts, hasked.launches, hends]
  have hmem : ∀ e, e ∈ (t.putInst i (x.ends status f)).comp.insts ↔ e = (i, x.ends status f) ∨ e ∈ s.comp.insts ∧ e.1 ≠ i := fun e => by
    rw [State.putInst_insts, hfreed.insts, AMap.mem_put hrising]
  refine ⟨by rw [State.launchCheck_coreOf]; exact hfreed.inst, fun ⟨e, he, hne, hl, hopen⟩ => ?_, fun hall => ?_⟩
  · rw [State.launchCheck_of_open ((hmem e).2 (.inr ⟨he, hne⟩)) hl hopen]
    exact AMap.get?_put_self _ _ _
  · obtain ⟨l, hl⟩ := Option.isSome_iff_exists.1 hlaunch
    obtain ⟨o, ho, _⟩ := State.launchCheck_of_ended (s := t.putInst i (x.ends status f)) (by rw [State.putInst_launches, hfreed.launches]; exact hl)
      fun e he hel => by
        rcases (hmem e).1 he with rfl | ⟨he, hne⟩
        · rfl
        · exact hall e he hne hel
    rw [ho]
    refine ⟨AMap.get?_drop_self _ _, Option.eq_none_iff_forall_not_mem.2 fun y hy => ?_⟩
    obtain ⟨hin, hother⟩ := List.mem_filter.1 (AMap.mem_of_get? hy)
    rcases (hmem (i, y)).1 hin with heq | ⟨_, hne⟩
    · obtain rfl : y = x.ends status f := congrArg Prod.snd heq
      simp [Inst.ends] at hother
    · exact hne rfl

/-! ### END -/

theorem endKernel_answers {s : State} {k i : Nat} {x : Inst} (hinst : (s.coreOf k).inst = some i) (hx : s.comp.insts.get? i = some x)
    (hst : x.st = .running k) (hnone : s.noStart) (hlaunch : s.comp.launches.has x.launch = true) (hrising : KeysRise s.comp.insts)
    (hmay : s.mayIssue k 5 11 = true) (hnew : s.newFault k = none) (hdone : s.fenceDone k 3 = true) (hverdicts : (s.coreOf k).verdicts = [])
    (hloading : (s.coreOf k).loading = none) (hcommit : (s.coreOf k).commit = none) (hheld : (s.coreOf k).held = []) :
    Answers (exec (.endKernel k) s) fun t =>
      (t.coreOf k).inst = none ∧
      ((∃ e ∈ s.comp.insts, e.1 ≠ i ∧ e.2.launch = x.launch ∧ e.2.st ≠ .ended) → t.comp.insts.get? i = some { x with st := .ended, status := 0, fault := none }) ∧
      ((∀ e ∈ s.comp.insts, e.1 ≠ i → e.2.launch = x.launch → e.2.st = .ended) → t.comp.launches.get? x.launch = none ∧ t.comp.insts.get? i = none) := by
  show Answers (execEndKernel k s) _
  unfold execEndKernel
  have hready : s.heldReady [] = true := rfl
  have hgood : s.heldFault k [] = none := rfl
  simp only [hinst, hmay, hdone, hverdicts, hloading, hcommit, hheld, hready, hnew, hgood, List.isEmpty_nil, Option.isNone_none, Bool.and_self, State.when,
    if_true]
  exact ⟨_, rfl, endInst_leaves (s := (s.applyHelds k []).updCore k fun c => { c with held := [], cons := [] }) hx hst hnone hlaunch hrising 0 none⟩

/-! ### KERNEL_FAULT -/

theorem State.startSelfTest_comp (s : State) (k : Nat) (thin : Bool) : (s.startSelfTest k thin).comp = s.comp := by
  unfold State.startSelfTest
  split <;> rfl

/-- The compute side after an interval is put aside for a replay: the core is free, and what it ran is suspended. -/
theorem State.replayLater_comp {s : State} {k i : Nat} {x : Inst} (hinst : (s.coreOf k).inst = some i) (hx : s.comp.insts.get? i = some x)
    (residue own : Bool) : ∃ t, CoreFreed k s t ∧ (s.replayLater k residue own).comp =
      ((t.putInst i { x with st := .suspended, residue := false }).putInst i
        { x with st := .suspended, tried := k :: x.tried, residue := residue, thin := false }).comp := by
  have hfreed := CoreFreed.dropFree s k
  have hx' : ((s.dropHeld k).freeCore k).comp.insts.get? i = some x := by rw [hfreed.insts]; exact hx
  refine ⟨_, hfreed, ?_⟩
  unfold State.replayLater State.suspend
  simp only [hinst]
  rw [State.updInst_eq hx', State.updInst_eq (x := { x with st := .suspended, residue := false }) (AMap.get?_put_self _ _ _)]
  split <;> rfl

theorem CoreIdle.of_comp {k : Nat} {s t : State} (h : CoreIdle k s) (hcomp : t.comp = s.comp) : CoreIdle k t :=
  ⟨by rw [State.coreOf, hcomp]; exact h.inst, fun e he => h.noStart e (by rwa [hcomp] at he)⟩

/-- A fault that is replayed suspends what the core runs (R319, R323). -/
theorem kernelFault_replays {s : State} {k i : Nat} {x : Inst} {f : FaultRec} (hinst : (s.coreOf k).inst = some i) (hx : s.comp.insts.get? i = some x)
    (hnone : s.noStart) (hfault : (s.coreOf k).fault = some f) (hcode : f.code = 6 ∨ f.code = 8) (hreplay : s.replayable k = true)
    (hending : (s.coreOf k).ending = none) (hready : s.faultReady k = true) :
    Answers (exec (.kernelFault k) s) fun t => (t.coreOf k).inst = none ∧
      t.comp.insts.get? i = some { x with st := .suspended, tried := k :: x.tried, residue := decide (f.code = 6), thin := false } := by
  obtain ⟨u, hfreed, hcomp⟩ := State.replayLater_comp hinst hx (decide (f.code = 6)) (decide (f.code = 6))
  have hcodes : (f.code = 6 || f.code = 8) = true := by simpa using hcode
  show Answers (execKernelFault k s) _
  unfold execKernelFault
  simp only [hinst, hfault, hcodes, hreplay, hending, hready, Option.isNone_none, Bool.and_self, State.when, if_true]
  refine ⟨_, rfl, ?_⟩
  generalize hthen : (if f.code = 6 then _ else _ : State) = t
  have hsame : t.comp = (s.replayLater k (decide (f.code = 6)) (decide (f.code = 6))).comp := by
    rw [← hthen]
    split
    · exact State.startSelfTest_comp _ _ _
    · rfl
  have hidle : CoreIdle k t := CoreIdle.of_comp (((hfreed.idle hnone).put i (by simp)).put i (by simp)) (hsame.trans hcomp)
  have hasked := LeaveAsked.startWaiting hidle.noStart
  rw [hasked.inst, hasked.insts, hsame, hcomp]
  exact ⟨hidle.inst, AMap.get?_put_self _ _ _⟩

/-! ### The launch's other instances are told to end -/

/-- Of the instances, `i` has ended as `x`, and `y` of its launch runs on core `j`, which is told to end unless it stands in `rest` and nobody has told it. -/
structure Telling (i : Nat) (x : Inst) (y j : Nat) (z : Inst) (rest : List (Nat × Inst)) (t : State) : Prop where
  rising : KeysRise t.comp.insts
  ended : t.comp.insts.get? i = some x
  runs : (y, z) ∈ t.comp.insts
  told : (t.coreOf j).ending = some 0 ∨ (t.coreOf j).ending = none ∧ (y, z) ∈ rest
  waits : ∀ e ∈ rest, e ∈ t.comp.insts ∧ e.1 ≠ i ∧ e.2.launch = x.launch
  order : KeysRise rest

/-- A core is told to end what it runs, unless it has been told before. -/
def Core.toldEnd (c : Core) (status : Nat) : Core := if c.ending.isSome then c else { c with ending := some status }

theorem Telling.over {i : Nat} {x : Inst} {y j : Nat} {z : Inst} (hz : z.st = .running j) (hl : z.launch = x.launch)
    {f : State → Nat × Inst → State} (hrun : ∀ t e j', e.2.st = .running j' → f t e = t.updCore j' fun c => c.toldEnd 0)
    (hidle : ∀ t e, (∀ j', e.2.st ≠ .running j') → f t e = t.endInst e.1 0 none) {rest : List (Nat × Inst)} {t : State}
    (h : Telling i x y j z rest t) : Telling i x y j z [] (rest.foldl f t) := by
  induction rest generalizing t with
  | nil => exact h
  | cons e rest ih =>
    obtain ⟨⟨he, hei, hel⟩, hrest⟩ := List.forall_mem_cons.1 h.waits
    obtain ⟨hfirst, horder⟩ := keysRise_cons.1 h.order
    refine ih ?_
    by_cases hruns : ∃ j', e.2.st = .running j'
    · obtain ⟨j', hj'⟩ := hruns
      rw [hrun t e j' hj']
      refine ⟨h.rising, h.ended, h.runs, ?_, hrest, horder⟩
      by_cases hjj : j = j'
      · subst hjj
        rw [State.coreOf_updCore_self, Core.toldEnd]
        rcases h.told with htold | ⟨hnone, _⟩
        · exact .inl (by rw [htold]; exact htold)
        · exact .inl (by rw [hnone]; rfl)
      · rw [State.coreOf_updCore_other _ _ _ _ hjj]
        refine h.told.imp_right fun ⟨hnone, hin⟩ => ⟨hnone, (List.mem_cons.1 hin).resolve_left fun heq => hjj ?_⟩
        rw [← heq] at hj'
        exact InstSt.running.inj (hz.symm.trans hj')
    · have hne : ∀ j', e.2.st ≠ .running j' := fun j' hj' => hruns ⟨j', hj'⟩
      have hother : (y, z) ≠ e := fun heq => hne j (by rw [← heq]; exact hz)
      have hkey : y ≠ e.1 := fun heq => hother (by
        have hget := AMap.get?_of_mem h.rising h.runs
        rw [heq, AMap.get?_of_mem h.rising he] at hget
        exact Prod.ext heq (Option.some.inj hget).symm)
      have hstays : (y, z) ∈ (t.putInst e.1 (e.2.ends 0 none)).comp.insts := (AMap.mem_put h.rising).2 (.inr ⟨h.runs, hkey⟩)
      rw [hidle t e hne, State.endInst_idle (AMap.get?_of_mem h.rising he) hne, hel, State.launchCheck_of_open hstays hl (by rw [hz]; simp)]
      refine ⟨h.rising.put (AMap.get?_of_mem h.rising he) _, ?_, hstays, ?_, fun d hd => ?_, horder⟩
      · rw [State.putInst_insts, AMap.get?_put_other _ _ _ _ (Ne.symm hei)]
        exact h.ended
      · exact h.told.imp_right fun ⟨hnone, hin⟩ => ⟨hnone, (List.mem_cons.1 hin).resolve_left hother⟩
      · obtain ⟨hin, hkind⟩ := hrest d hd
        exact ⟨(AMap.mem_put h.rising).2 (.inr ⟨hin, Nat.ne_of_gt (hfirst d hd)⟩), hkind⟩

/-- A fault that is not replayed ends what the core runs, and tells those of the launch that run to end (R111, R112). -/
theorem kernelFault_ends {s : State} {k i : Nat} {x : Inst} {f : FaultRec} (hinst : (s.coreOf k).inst = some i) (hx : s.comp.insts.get? i = some x)
    (hst : x.st = .running k) (hnone : s.noStart) (hrising : KeysRise s.comp.insts) (hfault : (s.coreOf k).fault = some f)
    (hsix : f.code ≠ 6) (height : f.code ≠ 8) (hready : s.faultReady k = true) :
    Answers (exec (.kernelFault k) s) fun t => (t.coreOf k).inst = none ∧
      ∀ j y, j ≠ k → (s.coreOf j).ending = none → (∃ z, s.comp.insts.get? y = some z ∧ z.launch = x.launch ∧ z.st = .running j) → y ≠ i →
        (t.coreOf j).ending = some 0 ∧ t.comp.insts.get? i = some { x with st := .ended, status := faultStatus f.code, fault := some f } := by
  obtain ⟨u, hfreed, hends⟩ := State.endInst_running hx hst (faultStatus f.code) (some f)
  have hexec : exec (.kernelFault k) s = .next ((s.endInst i (faultStatus f.code) (some f)).endOthers x.launch 0).startWaiting := by
    have hcodes : (f.code = 6 || f.code = 8) = false := by simp [hsix, height]
    show execKernelFault k s = _
    unfold execKernelFault
    simp only [hinst, hfault, hcodes, Bool.false_and, Bool.false_eq_true, if_false, if_neg hsix, hready, State.when, if_true]
    unfold State.faultEnd
    simp only [hinst, hx, Option.map_some, Option.getD_some]
  have hput : CoreIdle k (s.endInst i (faultStatus f.code) (some f)) := by
    rw [hends]
    exact ((hfreed.idle hnone).put i Inst.ends_ne_waiting).launchCheck _
  have hidle := hput.endOthers x.launch 0
  have hasked := LeaveAsked.startWaiting hidle.noStart
  refine ⟨_, hexec, by rw [hasked.inst]; exact hidle.inst, fun j y hjk hending ⟨z, hz, hzl, hzr⟩ hyi => ?_⟩
  rw [hasked.ending, hasked.insts, hends]
  have hcore : (u.putInst i (x.ends (faultStatus f.code) (some f))).coreOf j = s.coreOf j := hfreed.other j hjk
  have hinsts : (u.putInst i (x.ends (faultStatus f.code) (some f))).comp.insts = s.comp.insts.put i (x.ends (faultStatus f.code) (some f)) := by
    rw [State.putInst_insts, hfreed.insts]
  generalize u.putInst i (x.ends (faultStatus f.code) (some f)) = v at hcore hinsts
  have hrising' : KeysRise v.comp.insts := by
    rw [hinsts]
    exact hrising.put hx _
  have hin : (y, z) ∈ v.comp.insts := by
    rw [hinsts, AMap.mem_put hrising]
    exact .inr ⟨AMap.mem_of_get? hz, hyi⟩
  have hended : v.comp.insts.get? i = some (x.ends (faultStatus f.code) (some f)) := by rw [hinsts]; exact AMap.get?_put_self _ _ _
  rw [State.launchCheck_of_open hin hzl (by rw [hzr]; simp), State.endOthers]
  have hbegin : Telling i (x.ends (faultStatus f.code) (some f)) y j z (v.comp.insts.filter fun e => e.2.launch = x.launch && e.2.st != .ended) v := by
    refine ⟨hrising', hended, hin, .inr ⟨by rw [hcore]; exact hending, List.mem_filter.2 ⟨hin, by simp [hzl, hzr]⟩⟩, fun e he => ?_,
      List.Pairwise.sublist (List.Sublist.map _ List.filter_sublist) hrising'⟩
    obtain ⟨he, hkind⟩ := List.mem_filter.1 he
    simp only [Bool.and_eq_true, decide_eq_true_eq, bne_iff_ne] at hkind
    refine ⟨he, fun hei => hkind.2 ?_, hkind.1⟩
    have hget := AMap.get?_of_mem hrising' he
    rw [hei, hended] at hget
    rw [← Option.some.inj hget]
    rfl
  generalize hfold : List.foldl _ v _ = t
  have hover : Telling i (x.ends (faultStatus f.code) (some f)) y j z [] t := by
    rw [← hfold]
    refine hbegin.over hzr (show z.launch = (x.ends (faultStatus f.code) (some f)).launch from hzl) (fun t e j' hj' => ?_) fun t e hne => ?_
    · simp only [hj']
      rfl
    · split
      · next j' hj' => exact absurd hj' (hne j')
      · rfl
  exact ⟨hover.told.resolve_right fun h => absurd h.2 List.not_mem_nil, hover.ended⟩

/-- A core that was told to end what it runs ends it between two bundles (R112). -/
theorem kernelFault_told {s : State} {k i st : Nat} {x : Inst} (hinst : (s.coreOf k).inst = some i) (hx : s.comp.insts.get? i = some x)
    (hst : x.st = .running k) (hnone : s.noStart) (hlaunch : s.comp.launches.has x.launch = true) (hrising : KeysRise s.comp.insts)
    (hfault : (s.coreOf k).fault = none) (hending : (s.coreOf k).ending = some st) (hsnap : (s.coreOf k).snap = none) (hready : s.faultReady k = true) :
    Answers (exec (.kernelFault k) s) fun t => (t.coreOf k).inst = none ∧
      ((∃ e ∈ s.comp.insts, e.1 ≠ i ∧ e.2.launch = x.launch ∧ e.2.st ≠ .ended) → t.comp.insts.get? i = some { x with st := .ended, status := st, fault := none }) := by
  show Answers (execKernelFault k s) _
  unfold execKernelFault
  simp only [hinst, hfault, hending, hsnap, hready, Option.isNone_none, Bool.and_self, State.when, if_true]
  obtain ⟨hfree, hstays, _⟩ := endInst_leaves hx hst hnone hlaunch hrising st none
  exact ⟨_, rfl, hfree, hstays⟩

/-! ### Precise faults -/

/-- The outcome of a step that one slot of core `k`'s bundle takes. -/
inductive IsSlotStep (k : Nat) (s : State) : Host.Outcome State Fault Refusal → Prop
  | step (sl op : Nat) (ready : Bool) (eff : State → State) : IsSlotStep k s (s.slotStep k sl op ready eff)

/-- A slot of a bundle that raises a precise fault raises it, or awaits its turn. -/
theorem IsSlotStep.faults {k : Nat} {s : State} {o : Host.Outcome State Fault Refusal} (h : IsSlotStep k s o) {f : FaultRec} (hf : s.newFault k = some f) :
    o = .next s ∨ o = .next (s.raise k f) := by
  obtain ⟨sl, op, ready, eff⟩ := h
  cases hready : s.mayIssue k sl op && ready with
  | false => exact .inl (by rw [State.slotStep, hready]; rfl)
  | true => exact .inr (by rw [State.slotStep, hready, hf]; rfl)

section
variable (s : State) (k : Nat)

theorem isSlotStep_scalarOp (op : Nat) (f : W64 → W64 → W64 → W64) : IsSlotStep k s (s.scalarOp k op f) := by unfold State.scalarOp; constructor
theorem isSlotStep_branchOp (op : Nat) (f : W64 → W64 → Bool) : IsSlotStep k s (s.branchOp k op f) := by unfold State.branchOp; constructor
theorem isSlotStep_loadStep (op kind reg n : Nat) (lanes : BitVec 128) (fmt : Option Nat) : IsSlotStep k s (s.loadStep k op kind reg n lanes fmt) := by
  unfold State.loadStep; constructor
theorem isSlotStep_storeStep (op : Nat) (bs : Regs → Nat → List (Option Byte)) : IsSlotStep k s (s.storeStep k op bs) := by unfold State.storeStep; constructor
theorem isSlotStep_vecOp (sl op : Nat) (f : Regs → Nat → Nat → W32) : IsSlotStep k s (s.vecOp k sl op f) := by unfold State.vecOp; constructor
theorem isSlotStep_laneOp (sl op : Nat) (f : W32 → W32 → W32 → W32) : IsSlotStep k s (s.laneOp k sl op f) := isSlotStep_vecOp s k _ _ _
theorem isSlotStep_predOp (sl op : Nat) (f : Regs → Nat → Nat → Bool) : IsSlotStep k s (s.predOp k sl op f) := by unfold State.predOp; constructor
theorem isSlotStep_reduceOp (op : Nat) (f : List W32 → W32) (empty : W32) : IsSlotStep k s (s.reduceOp k op f empty) := by
  unfold State.reduceOp; constructor
theorem isSlotStep_outStep (op : Nat) (srcs : List Nat) : IsSlotStep k s (s.outStep k op srcs) := by unfold State.outStep; constructor
theorem isSlotStep_call : IsSlotStep k s (execCall k s) := by unfold execCall; constructor
theorem isSlotStep_ret : IsSlotStep k s (execRet k s) := by unfold execRet; constructor
theorem isSlotStep_getsr : IsSlotStep k s (execGetsr k s) := by unfold execGetsr; constructor
theorem isSlotStep_setsr : IsSlotStep k s (execSetsr k s) := by unfold execSetsr; constructor
theorem isSlotStep_dma : IsSlotStep k s (execDma k s) := by unfold execDma; constructor
theorem isSlotStep_gcfg : IsSlotStep k s (execGcfg k s) := by unfold execGcfg; constructor
theorem isSlotStep_gset : IsSlotStep k s (execGset k s) := by unfold execGset; constructor
theorem isSlotStep_gadv : IsSlotStep k s (execGadv k s) := by unfold execGadv; constructor
theorem isSlotStep_trd : IsSlotStep k s (execTrd k s) := by unfold execTrd; constructor
theorem isSlotStep_aldw : IsSlotStep k s (execAldw k s) := by unfold execAldw; constructor
theorem isSlotStep_amul : IsSlotStep k s (execAmul k s) := by unfold execAmul; constructor
theorem isSlotStep_aflush : IsSlotStep k s (execAflush k s) := by unfold execAflush; constructor
theorem isSlotStep_aclr : IsSlotStep k s (execAclr k s) := by unfold execAclr; constructor
theorem isSlotStep_linit : IsSlotStep k s (execLinit k s) := by unfold execLinit; constructor
theorem isSlotStep_spost : IsSlotStep k s (execSpost k s) := by unfold execSpost; constructor
theorem isSlotStep_eset : IsSlotStep k s (execEset k s) := by unfold execEset; constructor
theorem isSlotStep_eclr : IsSlotStep k s (execEclr k s) := by unfold execEclr; constructor
theorem isSlotStep_sgadd : IsSlotStep k s (execSgadd k s) := by unfold execSgadd; constructor
theorem isSlotStep_syncFence : IsSlotStep k s (execSyncFence k s) := by unfold execSyncFence; constructor
theorem isSlotStep_restart : IsSlotStep k s (execRestart k s) := by unfold execRestart; constructor

/-- The operations of the scalar slot. -/
def scalarSlotCmds (k : Nat) : List Instr := [
      .add k, .addi k, .sub k, .mul k, .and k, .or k, .xor k, .shl k, .shr k, .sra k, .lih k, .slt k, .sltu k, .beq k, .bne k, .blt k, .bge k,
      .jmp k, .call k, .ret k, .getsr k, .setsr k]

theorem isSlotStep_scalar : ∀ c ∈ scalarSlotCmds k, IsSlotStep k s (exec c s) := by
  have hop := isSlotStep_scalarOp s k
  have hbr := isSlotStep_branchOp s k
  simp only [scalarSlotCmds, List.forall_mem_cons]
  exact ⟨
    (hop _ _ : IsSlotStep k s (execAdd k s)), (hop _ _ : IsSlotStep k s (execAddi k s)), (hop _ _ : IsSlotStep k s (execSub k s)),
    (hop _ _ : IsSlotStep k s (execMul k s)), (hop _ _ : IsSlotStep k s (execAnd k s)), (hop _ _ : IsSlotStep k s (execOr k s)),
    (hop _ _ : IsSlotStep k s (execXor k s)), (hop _ _ : IsSlotStep k s (execShl k s)), (hop _ _ : IsSlotStep k s (execShr k s)),
    (hop _ _ : IsSlotStep k s (execSra k s)), (hop _ _ : IsSlotStep k s (execLih k s)), (hop _ _ : IsSlotStep k s (execSlt k s)),
    (hop _ _ : IsSlotStep k s (execSltu k s)), (hbr _ _ : IsSlotStep k s (execBeq k s)), (hbr _ _ : IsSlotStep k s (execBne k s)),
    (hbr _ _ : IsSlotStep k s (execBlt k s)), (hbr _ _ : IsSlotStep k s (execBge k s)), (hbr _ _ : IsSlotStep k s (execJmp k s)),
    (isSlotStep_call s k : IsSlotStep k s (execCall k s)), (isSlotStep_ret s k : IsSlotStep k s (execRet k s)),
    (isSlotStep_getsr s k : IsSlotStep k s (execGetsr k s)), (isSlotStep_setsr s k : IsSlotStep k s (execSetsr k s)), List.forall_mem_nil _⟩

/-- The operations of the load/store slot. -/
def loadStoreSlotCmds (k : Nat) : List Instr := [
      .lds k, .sts k, .ldv k, .stv k, .ldvc k, .pld k, .pst k, .dma k, .gcfg k, .gset k, .gadv k]

theorem isSlotStep_loadStore : ∀ c ∈ loadStoreSlotCmds k, IsSlotStep k s (exec c s) := by
  have hload := isSlotStep_loadStep s k
  have hstore := isSlotStep_storeStep s k
  simp only [loadStoreSlotCmds, List.forall_mem_cons]
  exact ⟨
    (hload _ _ _ _ _ _ : IsSlotStep k s (execLds k s)), (hstore _ _ : IsSlotStep k s (execSts k s)),
    (hload _ _ _ _ _ _ : IsSlotStep k s (execLdv k s)), (hstore _ _ : IsSlotStep k s (execStv k s)),
    (hload _ _ _ _ _ _ : IsSlotStep k s (execLdvc k s)), (hload _ _ _ _ _ _ : IsSlotStep k s (execPld k s)),
    (hstore _ _ : IsSlotStep k s (execPst k s)), (isSlotStep_dma s k : IsSlotStep k s (execDma k s)),
    (isSlotStep_gcfg s k : IsSlotStep k s (execGcfg k s)), (isSlotStep_gset s k : IsSlotStep k s (execGset k s)),
    (isSlotStep_gadv s k : IsSlotStep k s (execGadv k s)), List.forall_mem_nil _⟩

/-- The operations of vector slot 2. -/
def vectorSlotCmds (k : Nat) : List Instr := [
      .fadd k, .fsub k, .fmul k, .fma k, .fmax k, .fmin k, .fabs k, .fneg k, .frcp k, .fdiv k, .fsqrt k, .fcmp k, .bcast k, .perm k, .frsum k,
      .frmax k, .trd k]

theorem isSlotStep_vector : ∀ c ∈ vectorSlotCmds k, IsSlotStep k s (exec c s) := by
  simp only [vectorSlotCmds, List.forall_mem_cons]
  exact ⟨
    (isSlotStep_laneOp s k _ _ _ : IsSlotStep k s (execFadd k s)), (isSlotStep_laneOp s k _ _ _ : IsSlotStep k s (execFsub k s)),
    (isSlotStep_laneOp s k _ _ _ : IsSlotStep k s (execFmul k s)), (isSlotStep_laneOp s k _ _ _ : IsSlotStep k s (execFma k s)),
    (isSlotStep_laneOp s k _ _ _ : IsSlotStep k s (execFmax k s)), (isSlotStep_laneOp s k _ _ _ : IsSlotStep k s (execFmin k s)),
    (isSlotStep_laneOp s k _ _ _ : IsSlotStep k s (execFabs k s)), (isSlotStep_laneOp s k _ _ _ : IsSlotStep k s (execFneg k s)),
    (isSlotStep_laneOp s k _ _ _ : IsSlotStep k s (execFrcp k s)), (isSlotStep_laneOp s k _ _ _ : IsSlotStep k s (execFdiv k s)),
    (isSlotStep_laneOp s k _ _ _ : IsSlotStep k s (execFsqrt k s)), (isSlotStep_predOp s k _ _ _ : IsSlotStep k s (execFcmp k s)),
    (isSlotStep_vecOp s k _ _ _ : IsSlotStep k s (execBcast k s)), (isSlotStep_vecOp s k _ _ _ : IsSlotStep k s (execPerm k s)),
    (isSlotStep_reduceOp s k _ _ _ : IsSlotStep k s (execFrsum k s)), (isSlotStep_reduceOp s k _ _ _ : IsSlotStep k s (execFrmax k s)),
    (isSlotStep_trd s k : IsSlotStep k s (execTrd k s)), List.forall_mem_nil _⟩

/-- The operations of the array and out-path slots. -/
def arraySlotCmds (k : Nat) : List Instr := [
      .aldw k, .amul k, .aflush k, .aclr k, .linit k, .oread k, .ovec k]

theorem isSlotStep_array : ∀ c ∈ arraySlotCmds k, IsSlotStep k s (exec c s) := by
  simp only [arraySlotCmds, List.forall_mem_cons]
  exact ⟨
    (isSlotStep_aldw s k : IsSlotStep k s (execAldw k s)), (isSlotStep_amul s k : IsSlotStep k s (execAmul k s)),
    (isSlotStep_aflush s k : IsSlotStep k s (execAflush k s)), (isSlotStep_aclr s k : IsSlotStep k s (execAclr k s)),
    (isSlotStep_linit s k : IsSlotStep k s (execLinit k s)), (isSlotStep_outStep s k _ _ : IsSlotStep k s (execOread k s)),
    (isSlotStep_outStep s k _ _ : IsSlotStep k s (execOvec k s)), List.forall_mem_nil _⟩

/-- The operations of the sync slot. -/
def syncSlotCmds (k : Nat) : List Instr := [
      .spost k, .eset k, .eclr k, .sgadd k, .syncFence k, .restart k]

theorem isSlotStep_sync : ∀ c ∈ syncSlotCmds k, IsSlotStep k s (exec c s) := by
  simp only [syncSlotCmds, List.forall_mem_cons]
  exact ⟨
    (isSlotStep_spost s k : IsSlotStep k s (execSpost k s)), (isSlotStep_eset s k : IsSlotStep k s (execEset k s)),
    (isSlotStep_eclr s k : IsSlotStep k s (execEclr k s)), (isSlotStep_sgadd s k : IsSlotStep k s (execSgadd k s)),
    (isSlotStep_syncFence s k : IsSlotStep k s (execSyncFence k s)), (isSlotStep_restart s k : IsSlotStep k s (execRestart k s)),
    List.forall_mem_nil _⟩

/-- The operations that both vector slots have. -/
def bothVectorCmds (k : Nat) (b : Bool) : List Instr := [
      .sel k b, .vimm k b, .iadd k b, .isub k b, .iand k b, .ior k b, .ixor k b, .ishl k b, .ishr k b, .plog k b, .pset k b]

theorem isSlotStep_bothVectors (b : Bool) : ∀ c ∈ bothVectorCmds k b, IsSlotStep k s (exec c s) := by
  simp only [bothVectorCmds, List.forall_mem_cons]
  exact ⟨
    (isSlotStep_vecOp s k _ _ _ : IsSlotStep k s (execSel k b s)), (isSlotStep_vecOp s k _ _ _ : IsSlotStep k s (execVimm k b s)),
    (isSlotStep_laneOp s k _ _ _ : IsSlotStep k s (execIadd k b s)), (isSlotStep_laneOp s k _ _ _ : IsSlotStep k s (execIsub k b s)),
    (isSlotStep_laneOp s k _ _ _ : IsSlotStep k s (execIand k b s)), (isSlotStep_laneOp s k _ _ _ : IsSlotStep k s (execIor k b s)),
    (isSlotStep_laneOp s k _ _ _ : IsSlotStep k s (execIxor k b s)), (isSlotStep_laneOp s k _ _ _ : IsSlotStep k s (execIshl k b s)),
    (isSlotStep_laneOp s k _ _ _ : IsSlotStep k s (execIshr k b s)), (isSlotStep_predOp s k _ _ _ : IsSlotStep k s (execPlog k b s)),
    (isSlotStep_predOp s k _ _ _ : IsSlotStep k s (execPset k b s)), List.forall_mem_nil _⟩

end

/-- END raises its bundle's precise fault, or awaits its turn. -/
theorem endKernel_faults {s : State} {k : Nat} {f : FaultRec} (hf : s.newFault k = some f) :
    exec (.endKernel k) s = .next s ∨ exec (.endKernel k) s = .next (s.raise k f) := by
  show execEndKernel k s = _ ∨ execEndKernel k s = _
  unfold execEndKernel
  simp only [hf, State.when]
  split
  · exact .inl rfl
  · split
    · exact .inr rfl
    · exact .inl rfl

/-- Settles O20: an end by what it leaves of the core and the launch, and a precise fault by the one shape of every slot's step. -/
theorem instancesAndFaults : Obligations.InstancesAndFaults := by
  refine ⟨fun s k i x hinst hx hst hnone hlaunch hrising => ⟨?_, ?_, ?_, ?_⟩, by decide, fun s k f hf c hc => ?_⟩
  · exact endKernel_answers hinst hx hst (fun e he => (hnone e he).1) hlaunch hrising
  · exact fun f => kernelFault_replays hinst hx fun e he => (hnone e he).1
  · intro f hfault hsix height hready
    obtain ⟨t, ht, hfree, htold⟩ := kernelFault_ends hinst hx hst (fun e he => (hnone e he).1) hrising hfault hsix height hready
    refine ⟨t, ht, hfree, fun j y c hjk _ hc _ hending hz hyi => htold j y hjk ?_ hz hyi⟩
    rw [State.coreOf, AMap.getD, hc]
    exact hending
  · exact fun st => kernelFault_told hinst hx hst (fun e he => (hnone e he).1) hlaunch hrising
  · change c ∈ (scalarSlotCmds k ++ (loadStoreSlotCmds k ++ (vectorSlotCmds k ++ (arraySlotCmds k ++ (syncSlotCmds k ++ [.endKernel k]))))) ++
      (bothVectorCmds k false ++ (bothVectorCmds k true ++ [])) at hc
    simp only [List.mem_append, List.mem_singleton, List.not_mem_nil, or_false] at hc
    rcases hc with (hc | hc | hc | hc | hc | rfl) | hc | hc
    · exact (isSlotStep_scalar s k c hc).faults hf
    · exact (isSlotStep_loadStore s k c hc).faults hf
    · exact (isSlotStep_vector s k c hc).faults hf
    · exact (isSlotStep_array s k c hc).faults hf
    · exact (isSlotStep_sync s k c hc).faults hf
    · exact endKernel_faults hf
    · exact (isSlotStep_bothVectors s k false c hc).faults hf
    · exact (isSlotStep_bothVectors s k true c hc).faults hf

end Sys2Proof.Machine
end

section
/-! PROOFS. The loads, stores and DMAs of a core (R91, R93, R94, R106, R110, R146). -/

namespace Sys2Proof.Machine

/-! ### Reads -/

@[simp] theorem State.src_begin (s : State) (k : Nat) : (s.begin k).src k = s.src k := by
  simp only [State.src, State.coreOf_begin, Option.getD_some]

@[simp] theorem State.faultHere_begin (s : State) (k code sl : Nat) (precise : Bool) (detail : Nat) :
    (s.begin k).faultHere k code sl precise detail = s.faultHere k code sl precise detail := by
  simp only [State.faultHere, State.coreOf_begin]

theorem State.writeRuns_poison (l : List (Nat × List Byte)) (s : State) (h : s.mem.poison = []) : (s.writeRuns l).mem.poison = [] := by
  induction l generalizing s with
  | nil => exact h
  | cons r l ih =>
    rw [State.writeRuns_cons]
    exact ih _ (by rw [State.setMem_mem, Mem.write, h]; rfl)

theorem State.writeRuns_errors (l : List (Nat × List Byte)) (s : State) (h : s.mem.errors = []) : (s.writeRuns l).mem.errors = [] := by
  induction l generalizing s with
  | nil => exact h
  | cons r l ih =>
    rw [State.writeRuns_cons]
    exact ih _ (by rw [State.setMem_mem, Mem.write, h]; rfl)

/-- A read says whether a page of its span is LOST (R127). -/
theorem State.readSpan_lost (s : State) (k : Nat) (h : BitVec 32) (ofs n : Nat) : (s.readSpan (some k) h ofs n).1.lost = s.spanLost h ofs n := by
  have hplace : ((s.laSync (spanKey k h ofs) n).discover (spanKey k h ofs) n).place = s.place := by
    rw [(ErrKept.discover _ _ _).place, State.laSync_eq, State.writeRuns_eq]; rfl
  have hlost := State.spanLost_congr hplace h ofs n
  simp only [State.readSpan, Option.getD_some]
  split <;> exact hlost

/-- A read of memory without a mark, without an error to find and off every failed stack is not poisoned (R145, R332). -/
theorem State.readSpan_clean {s : State} {h : BitVec 32} {ofs n : Nat} (hpoison : s.mem.poison = []) (herrors : s.mem.errors = [])
    (hfailed : s.spanFailed h ofs n = false) (k : Nat) : (s.readSpan (some k) h ofs n).1.poisoned = false := by
  have hsync : s.laSync (spanKey k h ofs) n = s.setMem (s.laSync (spanKey k h ofs) n).mem := by rw [State.laSync_eq]; exact State.writeRuns_eq s _
  have hpoison' : (s.laSync (spanKey k h ofs) n).mem.poison = [] := by rw [State.laSync_eq]; exact State.writeRuns_poison _ s hpoison
  have herrors' : (s.laSync (spanKey k h ofs) n).mem.errors = [] := by rw [State.laSync_eq]; exact State.writeRuns_errors _ s herrors
  have hclean : ((s.laSync (spanKey k h ofs) n).mem.poisoned (spanKey k h ofs) n || (s.laSync (spanKey k h ofs) n).spanFailed h ofs n) = false := by
    rw [Mem.poisoned, hpoison', hsync]
    exact hfailed
  simp only [State.readSpan, Option.getD_some, State.discover_nil _ _ _ herrors']
  split <;> exact hclean

/-- From `s` to `t` core `k` read: its own state stays too. -/
structure CoreRead (k : Nat) (s t : State) : Prop where
  core : t.coreOf k = s.coreOf k
  kept : AccessKept k s t

theorem CoreRead.trans {k : Nat} {s t u : State} (h : CoreRead k s t) (g : CoreRead k t u) : CoreRead k s u :=
  ⟨g.core.trans h.core, h.kept.trans g.kept⟩

theorem CoreRead.refl (k : Nat) (s : State) : CoreRead k s s := ⟨rfl, (CoreWork.refl s k).accessKept⟩

theorem CoreRead.readSpan (s : State) (k : Nat) (h : BitVec 32) (ofs n : Nat) : CoreRead k s (s.readSpan (some k) h ofs n).2 :=
  ⟨(SpanRead.readSpan s k h ofs n).coreOf k, (SpanRead.readSpan s k h ofs n).accessKept k⟩

/-- Where no compressed tile begins, a load's span is read as it is. -/
theorem State.loadSpan_plain {s : State} {k : Nat} {h : BitVec 32} {ofs : Nat} (hplain : s.mem.tiles.contains (spanKey k h ofs) = false) (n : Nat) :
    s.loadSpan (some k) h ofs n = s.readSpan (some k) h ofs n := by
  simp only [State.loadSpan, Option.getD_some, hplain]
  rfl

theorem CoreRead.loadSpan (s : State) (k : Nat) (h : BitVec 32) (ofs n : Nat) : CoreRead k s (s.loadSpan (some k) h ofs n).2 := by
  unfold State.loadSpan
  dsimp only
  split
  · exact (CoreRead.readSpan _ _ _ _ _).trans ⟨rfl, (CoreWork.setFree _ k _).accessKept⟩
  · exact CoreRead.readSpan _ _ _ _ _

/-- What a load of a span without a compressed tile delivers and leaves: the bytes brought up to date, whether a page is LOST, and no poison where
memory has none. -/
structure PlainLoad (s : State) (key : Nat) (h : BitVec 32) (ofs n : Nat) (g : Got) (t : State) : Prop where
  data : g.data = (s.laSync key n).mem.read key n
  lost : g.lost = s.spanLost h ofs n
  clean : s.spanFailed h ofs n = false → s.mem.poison = [] → s.mem.errors = [] → g.poisoned = false
  cells : ∀ a, s.offRecords key n a → cellGet t.mem.cells a = cellGet s.mem.cells a

theorem PlainLoad.loadSpan {s : State} {k : Nat} {h : BitVec 32} {ofs : Nat} (hplain : s.mem.tiles.contains (spanKey k h ofs) = false) (n : Nat) :
    PlainLoad s (spanKey k h ofs) h ofs n (s.loadSpan (some k) h ofs n).1 (s.loadSpan (some k) h ofs n).2 := by
  rw [State.loadSpan_plain hplain]
  exact ⟨s.readSpan_data k h ofs n, s.readSpan_lost k h ofs n, fun hf hp he => State.readSpan_clean hp he hf k,
    fun a ha => by rw [(SpanRead.readSpan s k h ofs n).cells, State.laSync_other ha]⟩

/-- A bundle's first slot changes nothing that a load looks at. -/
theorem PlainLoad.of_begin {s : State} {k key : Nat} {h : BitVec 32} {ofs n : Nat} {g : Got} {t : State}
    (hload : PlainLoad (s.begin k) key h ofs n g t) : PlainLoad s key h ofs n g t :=
  ⟨hload.data.trans (State.laSync_read_congr (s := s) (t := s.begin k) rfl rfl key n), hload.lost, hload.clean, hload.cells⟩

/-! ### Generators that advance -/

theorem State.lsAdvance_core (s : State) (k bits : Nat) :
    (s.lsAdvance k bits).coreOf k = (s.coreOf k).withRegs (advanced bits (s.coreOf k).regs) := by
  unfold State.lsAdvance advanced
  split
  · rw [State.updRegs, State.coreOf_updCore_self]; rfl
  · rfl

theorem CoreWork.lsAdvance (s : State) (k bits : Nat) : CoreWork k s (s.lsAdvance k bits) := by
  unfold State.lsAdvance
  split
  · exact CoreWork.updCore _ _ _
  · exact CoreWork.refl s k

/-! ### Loads -/

/-- A load that issues: it joins the outstanding ones with the bytes that its core's memory holds. -/
theorem State.loadStep_answers {s : State} {k op kind reg n ofs key : Nat} {lanes : BitVec 128} {fmt : Option Nat} {h : BitVec 32}
    (hh : h = lsHandle (s.src k) (s.bits k 1)) (hofs : ofs = (lsAddr (s.src k) (s.bits k 1)).toNat) (hkey : key = spanKey k h ofs)
    (hissues : s.issues k 1 op = true) (hroom : (s.coreOf k).loads.length < 32) (hheld : s.spanHeld h ofs n = false) :
    Answers (s.loadStep k op kind reg n lanes fmt) fun t => ∃ l : LoadOp,
      Core.issued { s.coreOf k with loads := (s.coreOf k).loads ++ [l], regs := advanced (s.bits k 1) (s.coreOf k).regs } (t.coreOf k) ∧
      (l.kind = kind ∧ l.reg = reg ∧ l.lanes = lanes ∧ l.fmt = fmt) ∧
      (s.mem.tiles.contains key = false → l.bytes = (s.laSync key n).mem.read key n) ∧
      (s.mem.tiles.contains key = false → s.spanLost h ofs n = true → l.fault = some ⟨9, 1, false, (s.coreOf k).pc % 4096, 0⟩) ∧
      (s.mem.tiles.contains key = false → s.spanLost h ofs n = false → s.spanFailed h ofs n = false → s.mem.poison = [] → s.mem.errors = [] →
        l.fault = none) ∧
      AccessKept k s t ∧
      (s.mem.tiles.contains key = false → ∀ a, s.offRecords key n a → cellGet t.mem.cells a = cellGet s.mem.cells a) := by
  subst hkey
  unfold State.loadStep
  refine State.slotStep_answers hissues (by simp only [← hh, ← hofs, hheld]; simpa using hroom) ?_
  unfold State.issueLoad
  simp only [State.bits_begin, State.src_begin, ← hh, ← hofs]
  have hbegin : AccessKept k s (s.begin k) := (CoreWork.updCore s k _).accessKept
  have hread := CoreRead.loadSpan (s.begin k) k h ofs n
  have hplain : s.mem.tiles.contains (spanKey k h ofs) = false → PlainLoad s (spanKey k h ofs) h ofs n
      ((s.begin k).loadSpan (some k) h ofs n).1 ((s.begin k).loadSpan (some k) h ofs n).2 := fun hnone => (PlainLoad.loadSpan (s := s.begin k) hnone n).of_begin
  generalize (s.begin k).loadSpan (some k) h ofs n = found at hread hplain ⊢
  obtain ⟨g, t⟩ := found
  dsimp only at hread hplain ⊢
  -- the state after the load has joined the outstanding ones, and what its core's generators and the bundle make of it
  generalize hop : LoadOp.mk kind reg fmt g.data lanes _ h ofs n _ = l
  have hfault : l.fault = (s.begin k).readFault k 1 g ofs := by rw [← hop]
  have hcore : (t.updCore k fun c => { c with loads := c.loads ++ [l] }).coreOf k = { (s.begin k).coreOf k with loads := ((s.begin k).coreOf k).loads ++ [l] } := by
    rw [State.coreOf_updCore_self, hread.core]
  have hends := IssueKept.takeFinish ((t.updCore k fun c => { c with loads := c.loads ++ [l] }).lsAdvance k (s.bits k 1)) k 1
  have hwork := ((CoreWork.updCore t k fun c => { c with loads := c.loads ++ [l] }).trans (CoreWork.lsAdvance _ k (s.bits k 1))).trans (CoreWork.ofIssue hends)
  refine ⟨l, ?_, by rw [← hop]; exact ⟨rfl, rfl, rfl, rfl⟩, fun hnone => ?_, fun hnone hl => ?_, fun hnone hl hf hp he => ?_,
    (hbegin.trans hread.kept).trans hwork.accessKept, fun hnone a hoff => ?_⟩
  · show Core.bare _ = _
    rw [hends.core, State.lsAdvance_core, hcore, State.coreOf_begin]
    rfl
  · rw [← hop]
    exact (hplain hnone).data
  · rw [hfault, State.readFault, (hplain hnone).lost, if_pos hl, State.faultHere_begin]
    rfl
  · rw [hfault, State.readFault, (hplain hnone).lost, if_neg (by simp [hl]), (hplain hnone).clean hf hp he]
    rfl
  · rw [hwork.cells]
    exact (hplain hnone).cells a hoff

/-- A row's command is a load with the row's opcode, register, length and lanes, and its value is what the row makes of the bytes. -/
def LoadRow.Runs (r : LoadRow) (k : Nat) (s : State) : Prop :=
  ∃ fmt, exec (r.cmd k) s = s.loadStep k r.op r.kind (r.reg (s.bits k 1)) (r.n (s.bits k 1)) (r.lanes (s.src k) (s.bits k 1)) fmt ∧
    ∀ l : LoadOp, l.fmt = fmt → l.data = r.f (s.bits k 1) l.bytes

theorem LoadOp.data_of_plain {l : LoadOp} (h : l.fmt = none) : l.data = BitVec.ofNat 4096 (leNat l.bytes) := by rw [LoadOp.data, h]

theorem LoadOp.data_of_fmt {l : LoadOp} {fmt : Nat} (h : l.fmt = some fmt) :
    l.data = ofLanes fun i => toF32 (inputVal fmt 0 false l.bytes.toArray i) := by rw [LoadOp.data, h]

/-! ### Bytes of which some may be absent -/

/-- Memory after runs of bytes are written one after another. -/
def runsPut (m : List Host.Cell) (l : List (Nat × List Byte)) : List Host.Cell := l.foldl (fun m r => cellsPut m r.1 r.2) m

theorem State.storeRuns_cells (s : State) (l : List (Nat × List Byte)) : (s.storeRuns l).mem.cells = runsPut s.mem.cells l := by
  induction l generalizing s with
  | nil => rfl
  | cons r l ih =>
    rw [runsPut, List.foldl_cons, ← State.store_cells]
    exact ih _

/-- The runs of some bytes write the first one, and then the runs of the rest. -/
theorem runsPut_runsOf_some (m : List Host.Cell) (at_ : Nat) (b : Byte) (bs : List (Option Byte)) :
    runsPut m (runsOf at_ (some b :: bs)) = runsPut (cellPut m at_ b) (runsOf (at_ + 1) bs) := by
  simp only [runsOf]
  cases runsOf (at_ + 1) bs with
  | nil => rfl
  | cons r l =>
    obtain ⟨o, run⟩ := r
    by_cases ho : o = at_ + 1
    · subst ho
      simp only [if_true, runsPut, List.foldl_cons, cellsPut]
    · simp only [if_neg ho, runsPut, List.foldl_cons, cellsPut]

/-- A byte that is not among those present stays as it was. -/
theorem runsPut_unwritten (bs : List (Option Byte)) (m : List Host.Cell) (at_ a : Nat) (h : ∀ i v, bs[i]? = some (some v) → a ≠ at_ + i) :
    cellGet (runsPut m (runsOf at_ bs)) a = cellGet m a := by
  induction bs generalizing m at_ with
  | nil => rfl
  | cons b bs ih =>
    have hrest : ∀ i v, bs[i]? = some (some v) → a ≠ at_ + 1 + i := fun i v hi => by
      have := h (i + 1) v (by simpa using hi)
      omega
    cases b with
    | none => exact ih m (at_ + 1) hrest
    | some v =>
      rw [runsPut_runsOf_some, ih _ _ hrest]
      exact cellGet_cellPut_other m at_ a v (h 0 v rfl)

/-- A byte that is present is written. -/
theorem runsPut_written (bs : List (Option Byte)) (m : List Host.Cell) (at_ : Nat) (hm : cellsWf none m = true) {i : Nat} {v : Byte}
    (hi : bs[i]? = some (some v)) : cellGet (runsPut m (runsOf at_ bs)) (at_ + i) = v := by
  induction bs generalizing m at_ i with
  | nil => exact nomatch hi
  | cons b bs ih =>
    have hnext : ∀ m' : List Host.Cell, cellsWf none m' = true → ∀ j, i = j + 1 → cellGet (runsPut m' (runsOf (at_ + 1) bs)) (at_ + i) = v :=
      fun m' hm' j hj => by
        subst hj
        rw [show at_ + (j + 1) = at_ + 1 + j by omega]
        exact ih m' (at_ + 1) hm' (by simpa using hi)
    cases b with
    | none =>
      cases i with
      | zero => exact nomatch hi
      | succ j => exact hnext m hm j rfl
    | some b =>
      rw [runsPut_runsOf_some]
      cases i with
      | zero =>
        obtain rfl : b = v := by simpa using hi
        rw [runsPut_unwritten _ _ _ _ fun i v _ => by omega]
        exact cellGet_cellPut_self m at_ b none hm
      | succ j => exact hnext _ (cellPut_wf m at_ b hm) j rfl

/-! ### Stores -/

/-- Making a span ready for a store changes no byte but those of the records that meet it. -/
theorem State.readied_other {s : State} {k : Nat} {h : BitVec 32} {ofs : Nat} {bs : List (Option Byte)} {a : Nat}
    (hoff : s.offRecords (spanKey k h ofs) bs.length a) : cellGet (s.readied k h ofs bs).mem.cells a = cellGet s.mem.cells a := by
  unfold State.readied
  split
  · rfl
  · have htouch := PlaceKept.touchForWrite s (some k) h ofs bs.length
    generalize s.touchForWrite (some k) h ofs bs.length = t at htouch
    have hoff' : t.offRecords (spanKey k h ofs) bs.length a := by
      rw [State.offRecords, htouch.comp]
      exact hoff
    rw [State.wantWrite_eq, State.laEvict_eq, State.setWire_mem, State.setComp_mem, State.setMem_mem, State.laSync_other hoff', htouch.mem]

/-- A store that issues: its bytes are written, and every other byte stays. -/
theorem State.storeStep_answers {s : State} {k op ofs key : Nat} {f : Regs → Nat → List (Option Byte)} {data : List (Option Byte)} {h : BitVec 32}
    (hh : h = lsHandle (s.src k) (s.bits k 1)) (hofs : ofs = (lsAddr (s.src k) (s.bits k 1)).toNat) (hkey : key = spanKey k h ofs)
    (hdata : data = f (s.src k) (s.bits k 1)) (hissues : s.issues k 1 op = true) (hheld : s.spanHeld h ofs data.length = false)
    (hlost : s.spanLost h ofs data.length = false) (hberth : h = 0 ∨ (s.berthAt h).isSome = true) (hwf : s.mem.wf = true) :
    Answers (s.storeStep k op f) fun t =>
      Core.issued { s.coreOf k with regs := advanced (s.bits k 1) (s.coreOf k).regs } (t.coreOf k) ∧
      (∀ i v, data[i]? = some (some v) → cellGet t.mem.cells (key + i) = v) ∧
      (∀ i, data[i]? = some none → s.offRecords key data.length (key + i) → cellGet t.mem.cells (key + i) = cellGet s.mem.cells (key + i)) ∧
      (∀ a, (a < key ∨ key + data.length ≤ a) → s.offRecords key data.length a → cellGet t.mem.cells a = cellGet s.mem.cells a) ∧
      s.accessFrame k t := by
  subst hkey
  unfold State.storeStep
  simp only [← hh, ← hofs, ← hdata]
  refine State.slotStep_answers hissues (by rw [hheld]; rfl) ?_
  have hsame : (s.begin k).spanLost h ofs data.length = false := hlost
  have hthere : (h != 0 && ((s.begin k).berthAt h).isNone) = false := by
    rcases hberth with rfl | hsome
    · rfl
    · rw [show (s.begin k).berthAt h = s.berthAt h from rfl, Option.isNone_eq_false_iff.2 hsome, Bool.and_false]
  have hwritten := WriteKept.writeSpanOpt (s.begin k) k h ofs data
  have hcells : ((s.begin k).writeSpanOpt (some k) h ofs data).mem.cells =
      runsPut ((s.begin k).readied k h ofs data).mem.cells (runsOf (spanKey k h ofs) data) := by
    rw [State.writeSpanOpt_eq, hthere, if_neg Bool.false_ne_true, State.storeRuns_cells]
  have hready : ((s.begin k).readied k h ofs data).mem.wf = true := (WriteKept.readied (s.begin k) k h ofs data).wf hwf
  have hother : ∀ a, s.offRecords (spanKey k h ofs) data.length a →
      cellGet ((s.begin k).readied k h ofs data).mem.cells a = cellGet s.mem.cells a := fun a ha => State.readied_other (s := s.begin k) ha
  simp only [hsame]
  rw [if_neg Bool.false_ne_true]
  generalize (s.begin k).writeSpanOpt (some k) h ofs data = u at hwritten hcells
  generalize ((s.begin k).readied k h ofs data).mem = m at hcells hready hother
  have hends := IssueKept.takeFinish (u.lsAdvance k (s.bits k 1)) k 1
  have hwork := (CoreWork.lsAdvance u k (s.bits k 1)).trans (CoreWork.ofIssue hends)
  refine ⟨?_, fun i v hi => ?_, fun i hi hoff => ?_, fun a ha hoff => ?_, ?_⟩
  · show Core.bare _ = _
    rw [hends.core, State.lsAdvance_core, hwritten.coreOf, State.coreOf_begin]
    rfl
  · rw [hwork.cells, hcells]
    exact runsPut_written data m.cells _ hready hi
  · rw [hwork.cells, hcells, runsPut_unwritten, hother _ hoff]
    intro j v hj heq
    obtain rfl : i = j := by omega
    rw [hi] at hj
    exact nomatch hj
  · rw [hwork.cells, hcells, runsPut_unwritten, hother _ hoff]
    intro j v hj heq
    have hlt : j < data.length := (List.getElem?_eq_some_iff.1 hj).1
    omega
  · exact State.accessFrame_trans (State.accessFrame_trans (CoreWork.updCore s k _).accessFrame (hwritten.accessFrame k)) hwork.accessFrame

/-! ### DMAs -/

theorem State.dmaRead_target (s : State) (k bits : Nat) (r : Regs) :
    (s.dmaRead k bits r).1.handle = dmaHandle r bits ∧ (s.dmaRead k bits r).1.ofs = (dmaDst r bits).toNat := by
  unfold State.dmaRead
  dsimp only
  split <;> exact ⟨rfl, rfl⟩

/-- Without a transpose a DMA reads its source as a load does. -/
theorem State.dmaRead_bytes (s : State) (k : Nat) {bits : Nat} (r : Regs) (h : flag bits 52 = false) :
    (s.dmaRead k bits r).1.bytes = (s.loadSpan (some k) (lsHandle r bits) (lsAddr r bits).toNat (r.sr (fld bits 71 67)).toNat).1.data := by
  simp only [State.dmaRead, h]
  rfl

theorem CoreRead.foldl {α : Type} {k : Nat} {f : List Got × State → α → List Got × State} (hf : ∀ acc a, CoreRead k acc.2 (f acc a).2) (l : List α)
    (acc : List Got × State) : CoreRead k acc.2 (l.foldl f acc).2 := by
  induction l generalizing acc with
  | nil => exact CoreRead.refl k acc.2
  | cons a l ih => exact (hf acc a).trans (ih _)

theorem CoreRead.dmaRead (s : State) (k bits : Nat) (r : Regs) : CoreRead k s (s.dmaRead k bits r).2 := by
  unfold State.dmaRead
  dsimp only
  split
  · split
    · exact CoreRead.loadSpan _ _ _ _ _
    · refine CoreRead.foldl (fun acc o => ?_) _ ([], s)
      exact CoreRead.readSpan _ _ _ _ _
  · exact CoreRead.loadSpan _ _ _ _ _

theorem Regs.gr_setG_other (r : Regs) {i j : Nat} (h : j ≠ i) (v : BitVec 256) : (r.setG i v).gr j = r.gr j := by
  rw [Regs.setG, Regs.gr, AMap.getD_put_other _ _ _ _ _ h, Regs.gr]

/-- The generators after a DMA: with ADV, G and G2 advanced, once when they are one (R93; log 204). -/
def dmaAdvanced (bits : Nat) (r : Regs) : Regs :=
  if flag bits 51 && fld bits 66 64 != fld bits 63 61 then (advanced bits r).setG (fld bits 63 61) (genAdvance (r.gr (fld bits 63 61)))
  else advanced bits r

theorem dmaAdvanced_of_adv {bits : Nat} (h : flag bits 51 = true) (r : Regs) :
    dmaAdvanced bits r =
      if fld bits 66 64 = fld bits 63 61 then r.setG (fld bits 66 64) (genAdvance (r.gr (fld bits 66 64)))
      else (r.setG (fld bits 66 64) (genAdvance (r.gr (fld bits 66 64)))).setG (fld bits 63 61)
        (genAdvance ((r.setG (fld bits 66 64) (genAdvance (r.gr (fld bits 66 64)))).gr (fld bits 63 61))) := by
  rw [dmaAdvanced, advanced, h, if_pos rfl, Bool.true_and]
  by_cases heq : fld bits 66 64 = fld bits 63 61
  · rw [if_pos heq, if_neg (by simp [heq])]
  · rw [if_neg heq, if_pos (by simpa using heq), Regs.gr_setG_other _ (Ne.symm heq)]

theorem dmaAdvanced_of_not {bits : Nat} (h : flag bits 51 = false) (r : Regs) : dmaAdvanced bits r = r := by
  simp [dmaAdvanced, advanced, h]

/-- A DMA that issues: its copy is outstanding under its tag, with the bytes that its core's memory holds. -/
theorem dma_answers {s : State} {k ofs n tag : Nat} {h : BitVec 32} (hh : h = lsHandle (s.src k) (s.bits k 1))
    (hofs : ofs = (lsAddr (s.src k) (s.bits k 1)).toNat) (hn : n = ((s.src k).sr (fld (s.bits k 1) 71 67)).toNat) (htag : tag = fld (s.bits k 1) 50 45)
    (hissues : s.issues k 1 8 = true) (hroom : (s.coreOf k).dmas.length < 16) (hheld : s.spanHeld h ofs n = false) :
    Answers (exec (.dma k) s) fun t => ∃ d : DmaOp,
      Core.issued ({ s.coreOf k with dmas := (s.coreOf k).dmas.put tag d, tagsDone := (s.coreOf k).tagsDone.filter (· != tag) }.withRegs
        (dmaAdvanced (s.bits k 1) (s.coreOf k).regs)) (t.coreOf k) ∧
      d.handle = dmaHandle (s.src k) (s.bits k 1) ∧ d.ofs = (dmaDst (s.src k) (s.bits k 1)).toNat ∧
      (s.mem.tiles.contains (spanKey k h ofs) = false → flag (s.bits k 1) 52 = false →
        d.bytes = (s.laSync (spanKey k h ofs) n).mem.read (spanKey k h ofs) n) ∧
      AccessKept k s t := by
  show Answers (execDma k s) _
  unfold execDma
  refine State.slotStep_answers hissues (by simp only [← hh, ← hofs, ← hn, hheld]; simpa using hroom) ?_
  have hbegin : AccessKept k s (s.begin k) := (CoreWork.updCore s k _).accessKept
  have hread := CoreRead.dmaRead (s.begin k) k (s.bits k 1) (s.src k)
  obtain ⟨hhandle, hdst⟩ := (s.begin k).dmaRead_target k (s.bits k 1) (s.src k)
  have hbytes : s.mem.tiles.contains (spanKey k h ofs) = false → flag (s.bits k 1) 52 = false →
      ((s.begin k).dmaRead k (s.bits k 1) (s.src k)).1.bytes = (s.laSync (spanKey k h ofs) n).mem.read (spanKey k h ofs) n := fun hnone hplain => by
    rw [State.dmaRead_bytes _ _ _ hplain, ← hh, ← hofs, ← hn]
    exact (PlainLoad.loadSpan (s := s.begin k) hnone n).of_begin.data
  simp only [← htag]
  generalize (s.begin k).dmaRead k (s.bits k 1) (s.src k) = found at hread hhandle hdst hbytes ⊢
  obtain ⟨d, t⟩ := found
  dsimp only at hread hhandle hdst hbytes ⊢
  -- with or without ADV, the core holds the copy, and its generators are as R93 advances them
  have hcopy : (t.updCore k fun c => { c with dmas := c.dmas.put tag d, tagsDone := c.tagsDone.filter (· != tag) }).coreOf k =
      { (s.begin k).coreOf k with dmas := ((s.begin k).coreOf k).dmas.put tag d, tagsDone := ((s.begin k).coreOf k).tagsDone.filter (· != tag) } := by
    rw [State.coreOf_updCore_self, hread.core]
  have hwork := CoreWork.updCore t k fun c => { c with dmas := c.dmas.put tag d, tagsDone := c.tagsDone.filter (· != tag) }
  generalize (t.updCore k fun c => { c with dmas := c.dmas.put tag d, tagsDone := c.tagsDone.filter (· != tag) }) = u at hcopy hwork ⊢
  have hdone : ∀ v, CoreWork k u v → v.coreOf k = (u.coreOf k).withRegs (dmaAdvanced (s.bits k 1) (u.coreOf k).regs) → ∃ d : DmaOp,
      Core.issued ({ s.coreOf k with dmas := (s.coreOf k).dmas.put tag d, tagsDone := (s.coreOf k).tagsDone.filter (· != tag) }.withRegs
        (dmaAdvanced (s.bits k 1) (s.coreOf k).regs)) (((v.take k 1).finish k).coreOf k) ∧
      d.handle = dmaHandle (s.src k) (s.bits k 1) ∧ d.ofs = (dmaDst (s.src k) (s.bits k 1)).toNat ∧
      (s.mem.tiles.contains (spanKey k h ofs) = false → flag (s.bits k 1) 52 = false →
        d.bytes = (s.laSync (spanKey k h ofs) n).mem.read (spanKey k h ofs) n) ∧ AccessKept k s ((v.take k 1).finish k) := by
    intro v hv hcore
    have hends := IssueKept.takeFinish v k 1
    refine ⟨d, ?_, hhandle, hdst, hbytes, (hbegin.trans hread.kept).trans ((hwork.trans hv).trans (CoreWork.ofIssue hends)).accessKept⟩
    show Core.bare _ = _
    rw [hends.core, hcore, hcopy, State.coreOf_begin]
    rfl
  cases hadv : flag (s.bits k 1) 51 with
  | true =>
    rw [if_pos rfl]
    exact hdone _ (CoreWork.updCore u k _) (by rw [State.updRegs, State.coreOf_updCore_self, dmaAdvanced_of_adv hadv]; rfl)
  | false =>
    rw [if_neg Bool.false_ne_true]
    exact hdone u (CoreWork.refl u k) (by rw [dmaAdvanced_of_not hadv]; rfl)

/-- Settles O8: each load is one step of the slot, `State.loadStep`, each store another, and a DMA reads its source as a load does. -/
theorem memorySlots : Obligations.MemorySlots := by
  refine ⟨fun s k r hr bits h ofs key n hbits hh hofs hkey hn hissues hroom hheld => ?_,
    fun s k r hr bits h ofs key data hbits hh hofs hkey hdata hissues hheld hlost hberth hwf => ?_,
    fun s k bits h ofs n tag hbits hh hofs hn htag hissues hroom hheld => ?_⟩
  · have hruns : r.Runs k s := by
      clear hissues hn
      revert r
      simp only [List.forall_mem_cons]
      exact ⟨⟨none, rfl, fun l => LoadOp.data_of_plain⟩, ⟨none, rfl, fun l => LoadOp.data_of_plain⟩, ⟨_, rfl, fun l => LoadOp.data_of_fmt⟩,
        ⟨none, rfl, fun l => LoadOp.data_of_plain⟩, List.forall_mem_nil _⟩
    subst hbits hn
    obtain ⟨fmt, hexec, hvalue⟩ := hruns
    rw [hexec]
    obtain ⟨t, ht, l, hcore, ⟨hkind, hreg, hlanes, hfmt⟩, hbytes, hfault, hclean, hkept, hcells⟩ := State.loadStep_answers hh hofs hkey hissues hroom hheld
    exact ⟨t, ht, l, hcore, hkind, hreg, hlanes, fun hnone => by rw [hvalue l hfmt, hbytes hnone], hfault, hclean, hkept.frame, hkept.net, hkept.las, hcells⟩
  · have hruns : exec (r.cmd k) s = s.storeStep k r.op r.bytes := by
      clear hissues hdata
      revert r
      simp only [List.forall_mem_cons]
      exact ⟨rfl, rfl, rfl, List.forall_mem_nil _⟩
    subst hbits
    rw [hruns]
    exact State.storeStep_answers hh hofs hkey hdata hissues hheld hlost hberth hwf
  · subst hbits
    obtain ⟨t, ht, d, hcore, hhandle, hdst, hbytes, hkept⟩ := dma_answers hh hofs hn htag hissues hroom hheld
    exact ⟨t, ht, d, hcore, hhandle, hdst, hbytes, hkept.frame, hkept.net, hkept.las⟩

end Sys2Proof.Machine
end

section
/-! PROOFS. Small states, from which a statement that does not hold is refuted: a module with one job, and a packet on its ring. -/

namespace Sys2Proof.Machine

/-- A fact of the next state that an outcome holds. -/
def nextHas (o : Host.Outcome State Fault Refusal) (f : State → Bool) : Bool :=
  match o with
  | .next t => f t
  | _ => false

theorem answers_of_nextHas {o : Host.Outcome State Fault Refusal} {f : State → Bool} (h : nextHas o f = true) : Answers o fun t => f t = true := by
  cases o with
  | next t => exact ⟨t, rfl, h⟩
  | fault _ => exact absurd h Bool.false_ne_true
  | refused _ => exact absurd h Bool.false_ne_true

/-- The premises of a packet row hold of the packet that ring `n` announces, and the packet has a property. -/
def State.takesSome (s : State) (n : Nat) (sel : Pkt → Bool) (bads : Pkt → State → List Bad) (f : Pkt → Bool) : Bool :=
  (s.packet n).any fun p =>
    (sel p && s.acceptable p && (s.refusal p bads).isNone && !s.backpressured p && (s.ring n).bpSince.isNone &&
      s.mem.clean (sysKey ((s.ring n).addr (s.ring n).head)) p.bytes.length && (s.prog n p.at_).isNone) && f p

theorem State.takes_of_takesSome {s : State} {n : Nat} {sel : Pkt → Bool} {bads : Pkt → State → List Bad} {f : Pkt → Bool}
    (h : s.takesSome n sel bads f = true) : ∃ p, s.takes n p sel bads ∧ f p = true := by
  obtain ⟨p, hpacket, h⟩ := (Option.any_eq_true _ _).mp h
  simp only [Bool.and_eq_true, Bool.not_eq_true', Option.isNone_iff_eq_none] at h
  obtain ⟨⟨⟨⟨⟨⟨⟨hsel, hacc⟩, href⟩, hbp⟩, hsince⟩, hclean⟩, hprog⟩, hf⟩ := h
  exact ⟨p, ⟨hpacket, hsel, hacc, href, hbp, hsince, hclean, hprog⟩, hf⟩

/-- The header check leaves memory as it is. -/
@[simp] theorem State.checkHead_mem (s : State) (n : Nat) : (s.checkHead n).mem = s.mem := by
  simp only [State.checkHead]
  split
  · split <;> rfl
  · rfl

/-- The header check leaves what the look-ahead has begun. -/
@[simp] theorem State.checkHead_aheadAt (s : State) (n : Nat) : (s.checkHead n).cmd.aheadAt = s.cmd.aheadAt := by
  simp only [State.checkHead]
  split
  · split <;> rfl
  · rfl

/-- The one open job, which is frozen or not. -/
def tenant (frozen : Bool) : Job :=
  { seed := 1, filler := false, prio := 0, thin := 0, rare := 0, waitMs := 1, sigBase := 8, sigWords := 4, step := 3, granules := [], gcrc := 0,
    frozen := frozen, frozenStep := false, placeChg := 0, startAt := 0, energy := 0, stepEnergy := 0, predLate := 0, predWaste := 0, closing := none,
    cmdLog := [], planLog := [], digLog := [], collLog := [], evts := 0, resends := 0, clampN := 0, gov3 := 0,
    fixedStep := false, engaged := false, fillerRan := false, netWait := [] }

/-- A berth of job 0, bulk, of one page. -/
def oneBerth (gen : Nat) (x : Page) : Berth :=
  { gen := gen, job := 0, shared := none, length := 262144, cls := 1, hints := 0x20, acting := 0x20, desc := 0, freeing := false, pages := [(0, x)], migrations := 0,
    pinAt := none, resLocal := 0, pool := none, listed := 0 }

/-- A module that runs, with job 0 open and some berths. -/
def oneTenant (frozen : Bool) (berths : AMap Berth) : State :=
  let s := State.reset
  let s := s.setSide { s.side with pstate := .idle, harts := 1, v54 := true, pwrEn := true, resetN := true }
  (s.setCmd { s.cmd with jobs := [(0, tenant frozen)] }).setPlace { s.place with berths := berths }

/-- A packet of three units, the last of them its reply, with at most 12 parameter words. -/
def packetOf (op : Nat) (ws : List Nat) : List Byte :=
  leBytes 32 (op + 3 * 2 ^ 16 + 2 * 2 ^ 27 + 1 * 2 ^ 38 + 8 * ws.length * 2 ^ 96) ++ ws.flatMap (leBytes 8) ++ List.replicate (160 - 8 * ws.length) 0

/-- Ring 0 announces packets; `rest` are the other bytes of memory, below them. -/
def State.announces (s : State) (rest : AMap Byte) (packets : List Byte) : State :=
  (s.setRing 0 { Ring.init with base := 0x10000, tail := BitVec.ofNat 32 packets.length, st := .running }).setMem
    { s.mem with cells := cellsPut rest 0x10000 packets }

end Sys2Proof.Machine
end

section
/-! PROOFS. The look-ahead of a ring, and the end of a wait under back-pressure (R154, R165, R277). -/

namespace Sys2Proof.Machine

/-! ### Lists kept sorted -/

@[simp] theorem mem_sortBy {α : Type} (le : α → α → Bool) (l : List α) (x : α) : x ∈ sortBy le l ↔ x ∈ l :=
  (List.perm_insertionSort _ l).mem_iff

/-! ### The Tug's fetches -/

/-- Fetches have begun at some clusters, each of which is of a kind `P`: nothing else changes but the owner of shadow lines already there. -/
structure Fetching (P : Shadow → Prop) (cs : List Nat) (s t : State) : Prop where
  only : s.only [.place] t
  place : t.place = { s.place with fetches := t.place.fetches, shadows := t.place.shadows }
  others : ∀ c, c ∉ cs → t.place.fetches.getD c [] = s.place.fetches.getD c []
  kept : ∀ c, ∀ x ∈ s.place.fetches.getD c [], x ∈ t.place.fetches.getD c []
  new : ∀ c, ∀ x ∈ t.place.fetches.getD c [], x ∈ s.place.fetches.getD c [] ∨ P x

theorem Fetching.refl (P : Shadow → Prop) (cs : List Nat) (s : State) : Fetching P cs s s :=
  ⟨State.only_refl s _, rfl, fun _ _ => rfl, fun _ _ h => h, fun _ _ => Or.inl⟩

theorem Fetching.trans {P : Shadow → Prop} {cs : List Nat} {s t u : State} (h : Fetching P cs s t) (g : Fetching P cs t u) : Fetching P cs s u where
  only := State.only_trans h.only g.only
  place := by rw [g.place, h.place]
  others c hc := (g.others c hc).trans (h.others c hc)
  kept c x hx := g.kept c x (h.kept c x hx)
  new c x hx := (g.new c x hx).elim (h.new c x) Or.inr

theorem Fetching.foldl {α : Type} {P : Shadow → Prop} {cs : List Nat} {f : State → α → State} {l : List α}
    (h : ∀ s, ∀ x ∈ l, Fetching P cs s (f s x)) (s : State) : Fetching P cs s (l.foldl f s) := by
  induction l generalizing s with
  | nil => exact Fetching.refl P cs s
  | cons x l ih =>
    exact (h s x List.mem_cons_self).trans (ih (fun t y hy => h t y (List.mem_cons_of_mem x hy)) _)

/-- An engine's read of what stands outside the module joins what waits to leave, and changes nothing else. -/
theorem State.wantRead_engine (s : State) (h : BitVec 32) (ofs n : Nat) : ∃ w, s.wantRead none h ofs n = s.setWire w := by
  simp only [State.wantRead, State.wantSpan]
  split
  · exact ⟨s.wire, rfl⟩
  · split
    · exact ⟨s.wire, rfl⟩
    · exact ⟨_, rfl⟩

theorem State.foldl_wantRead_engine {α : Type} (h : BitVec 32) (ofs n : α → Nat) (l : List α) (s : State) :
    ∃ w, l.foldl (fun s x => s.wantRead none h (ofs x) (n x)) s = s.setWire w := by
  induction l generalizing s with
  | nil => exact ⟨s.wire, rfl⟩
  | cons x l ih =>
    obtain ⟨w, hw⟩ := s.wantRead_engine h (ofs x) (n x)
    rw [List.foldl_cons, hw]
    exact ih (s.setWire w)

theorem State.only_setPlace (s : State) (p : Place) : s.only [.place] (s.setPlace p) := by
  refine ⟨rfl, fun q hq => ?_⟩
  cases q <;> simp [State.same] at hq ⊢

/-- What the Tug starts: the lines that were neither there nor asked for join the cluster's fetches. -/
theorem State.tugStart_eq (s : State) (c : Nat) (h : BitVec 32) (ls : List Nat) (ring at_ : Nat) : ∃ before new shadows w,
    s.tugStart c h ls ring at_ = (s.setPlace { s.place with
      fetches := s.place.fetches.put c (sortBy before (s.place.fetches.getD c [] ++
        List.map (fun l : Nat => ({ handle := h, line := l, ring := ring, at_ := at_, read := false } : Shadow)) new)),
      shadows := shadows }).setWire w := by
  unfold State.tugStart
  extract_lets d fs len have_ new fresh fs' before was t
  obtain ⟨w, hw⟩ := State.foldl_wantRead_engine h (fun l => 65536 * l) (fun l => min 65536 (len - 65536 * l)) new t
  exact ⟨before, new, _, w, hw⟩

/-- The Tug starts to fetch lines of one handle at one cluster, for one packet. -/
theorem Fetching.tugStart {P : Shadow → Prop} {cs : List Nat} {c : Nat} (hc : c ∈ cs) (s : State) {h : BitVec 32} (ls : List Nat) {ring at_ : Nat}
    (hP : ∀ l, P { handle := h, line := l, ring := ring, at_ := at_, read := false }) : Fetching P cs s (s.tugStart c h ls ring at_) := by
  obtain ⟨before, new, shadows, w, heq⟩ := s.tugStart_eq c h ls ring at_
  have hself : (s.tugStart c h ls ring at_).place.fetches.getD c [] = sortBy before (s.place.fetches.getD c [] ++ new.map fun l => ⟨h, l, ring, at_, false⟩) := by
    rw [heq]
    exact AMap.getD_put_self _ _ _ _
  have hother : ∀ j, j ≠ c → (s.tugStart c h ls ring at_).place.fetches.getD j [] = s.place.fetches.getD j [] := fun j hj => by
    rw [heq]
    exact AMap.getD_put_other _ _ _ _ _ hj
  refine ⟨?_, by rw [heq]; rfl, fun j hj => hother j fun hjc => hj (hjc ▸ hc), fun j x hx => ?_, fun j x hx => ?_⟩
  · rw [heq]
    exact State.only_setWire (State.only_setPlace s _) w
  · by_cases hj : j = c
    · subst hj
      rw [hself, mem_sortBy]
      exact List.mem_append_left _ hx
    · rwa [hother j hj]
  · by_cases hj : j = c
    · subst hj
      rw [hself, mem_sortBy, List.mem_append, List.mem_map] at hx
      obtain hold | ⟨l, _, rfl⟩ := hx
      · exact Or.inl hold
      · exact Or.inr (hP l)
    · rw [hother j hj] at hx
      exact Or.inl hx

/-! ### What the look-ahead does with a packet -/

/-- The look-ahead has noted places of packets: nothing else changes but a free value taken. -/
def State.aheadNoted (s t : State) : Prop :=
  s.only [.cmd, .free] t ∧ t.cmd = { s.cmd with aheadAt := t.cmd.aheadAt } ∧ t.place = s.place

theorem State.aheadNoted_refl (s : State) : s.aheadNoted s := ⟨State.only_refl s _, rfl, rfl⟩

/-- A choice for a job takes a free value, or nothing. -/
theorem State.pickFor_snd (s : State) (job item : Nat) : ∃ n, (s.pickFor job item).2 = s.setFree n := by
  unfold State.pickFor
  split
  · split
    · exact ⟨s.free, rfl⟩
    · exact ⟨_, rfl⟩
  · exact ⟨_, rfl⟩

/-- Places of packets are noted, and accesses join what waits to leave. -/
theorem State.only_noteAhead (s : State) (m : AMap (List Nat)) (w : Wire) : s.only [.cmd] ((s.setWire w).setCmd { s.cmd with aheadAt := m }) := by
  refine ⟨rfl, fun q hq => ?_⟩
  cases q <;> simp [State.same] at hq ⊢

theorem State.aheadNoted_setFree (s : State) (n : Nat) (m : AMap (List Nat)) : s.aheadNoted ((s.setFree n).setCmd { s.cmd with aheadAt := m }) := by
  refine ⟨⟨rfl, fun q hq => ?_⟩, rfl, rfl⟩
  cases q <;> simp [State.same] at hq ⊢

/-- The clusters of a launch in the look-ahead: those already noted, or working ones, which are noted now. -/
theorem State.placeAhead_spec (s : State) (p : Pkt) :
    s.aheadNoted (s.placeAhead p).2 ∧ (s.placeAhead p).2.cmd.aheadAt.get? (aheadKey p.ring p.at_) = some (s.placeAhead p).1 ∧
      (∀ l, s.cmd.aheadAt.get? (aheadKey p.ring p.at_) = some l → (s.placeAhead p).1 = l) ∧
      (s.cmd.aheadAt.get? (aheadKey p.ring p.at_) = none → ∀ c ∈ (s.placeAhead p).1, c ∈ s.workingClusters) := by
  unfold State.placeAhead
  split
  case h_1 l hl => exact ⟨s.aheadNoted_refl, hl, fun k hk => Option.some.inj (hl.symm.trans hk), fun hnone => by rw [hl] at hnone; cases hnone⟩
  case h_2 hnone =>
    simp only [State.chooseClusters]
    obtain ⟨n, hn⟩ := s.pickFor_snd p.job p.at_
    rw [hn]
    refine ⟨s.aheadNoted_setFree n _, AMap.get?_put_self _ _ _, ?_, fun _ c hc => ?_⟩
    · intro l hl
      rw [hnone] at hl
      cases hl
    · exact (List.mem_append.mp (List.mem_of_mem_take hc)).elim List.mem_of_mem_drop List.mem_of_mem_take

theorem State.mem_workingClusters {s : State} {c : Nat} (h : c ∈ s.workingClusters) :
    c < 24 ∧ s.enabled c = true ∧ (s.cluster c).svc = .inService ∧ (s.cluster c).keepGated = false := by
  simpa [State.workingClusters, and_assoc] using h

/-- A launch that the look-ahead reads: the Tug fetches at its clusters what it marks. -/
theorem State.launchAhead_fetching (s : State) (p : Pkt) :
    Fetching (fun x => (∃ h ∈ p.prefetchable, x.handle = h.1) ∧ x.ring = p.ring ∧ x.at_ = p.at_ ∧ x.read = false) (s.placeAhead p).1 (s.placeAhead p).2
      (s.launchAhead p) := by
  unfold State.launchAhead
  obtain ⟨cs, t⟩ := s.placeAhead p
  exact Fetching.foldl (fun u h hh => Fetching.foldl (fun v c hc =>
    Fetching.tugStart hc v _ fun l => ⟨⟨h, List.mem_of_mem_filter hh, rfl⟩, rfl, rfl, rfl⟩) u) t

/-- A PREFETCH that the look-ahead carries out: fetches begin, after the launch that it serves is placed. -/
theorem State.prefetch_fetching (s : State) (p : Pkt) (i lines : Nat) :
    ∃ t, s.aheadNoted t ∧ ∃ cs, Fetching (fun _ => True) cs t (s.prefetch p i lines).2 := by
  unfold State.prefetch
  extract_lets all launch
  cases launch with
  | none => exact ⟨s, s.aheadNoted_refl, _, Fetching.foldl (fun u c hc => Fetching.tugStart hc u _ fun _ => trivial) s⟩
  | some q => exact ⟨_, (s.placeAhead_spec q).1, _, Fetching.foldl (fun u c hc => Fetching.tugStart hc u _ fun _ => trivial) _⟩

/-- A STASH_GET that the look-ahead reads: its transfer is noted, and asks for what stands outside the module. -/
theorem State.getAhead_noted (s : State) (p : Pkt) : s.aheadNoted (s.getAhead p) ∧ s.only [.cmd] (s.getAhead p) := by
  unfold State.getAhead
  split
  · obtain ⟨w, hw⟩ := s.wantRead_engine (p.lo 1) (p.f 2 47 0) (s.getSpan p)
    rw [hw]
    rw [State.tagWants_eq]
    have honly := s.only_noteAhead (s.cmd.aheadAt.put (aheadKey p.ring p.at_) [])
    exact ⟨⟨State.only_mono (by simp) (honly _), rfl, rfl⟩, honly _⟩
  · exact ⟨s.aheadNoted_refl, State.only_refl s _⟩

/-- What the look-ahead leaves alone, whatever it reads. -/
def State.lookedAt (s t : State) : Prop :=
  s.only [.cmd, .place, .free] t ∧ t.cmd = { s.cmd with aheadAt := t.cmd.aheadAt } ∧
    t.place = { s.place with fetches := t.place.fetches, shadows := t.place.shadows }

theorem State.aheadNoted.lookedAt {s t u : State} {P : Shadow → Prop} {cs : List Nat} (h : s.aheadNoted t) (g : Fetching P cs t u) : s.lookedAt u := by
  obtain ⟨honly, hcmd, hplace⟩ := h
  have hsame : u.cmd = t.cmd := g.only.2 .cmd (by simp)
  refine ⟨State.only_trans (State.only_mono (by simp) honly) (State.only_mono (by simp) g.only), by rw [hsame, hcmd], ?_⟩
  rw [← hplace]
  exact g.place

theorem State.lookedAt_lookAt (s : State) (p : Pkt) (i : Nat) : s.lookedAt (s.lookAt p i) := by
  have hself : s.lookedAt s := s.aheadNoted_refl.lookedAt (Fetching.refl (fun _ => True) [] s)
  unfold State.lookAt
  split
  · exact hself
  · split
    · exact (s.placeAhead_spec p).1.lookedAt (s.launchAhead_fetching p)
    · exact (s.getAhead_noted p).1.lookedAt (Fetching.refl (fun _ => True) [] _)
    · split
      · obtain ⟨t, ht, cs, hcs⟩ := s.prefetch_fetching p (i + p.f 0 41 32) 0
        exact ht.lookedAt hcs
      · exact hself
    · exact hself

/-! ### The packet that is read next -/

theorem State.packetFrom_ring {s : State} {r : Ring} {n i : Nat} {off : BitVec 32} {p : Pkt} (h : s.packetFrom r n i off = some p) : p.ring = n := by
  induction i generalizing r off with
  | zero =>
    simp only [State.packetFrom] at h
    split at h
    · cases h
    · cases h; rfl
  | succ i ih =>
    simp only [State.packetFrom] at h
    split at h
    · cases h
    · exact ih h

theorem State.packetAhead_ring {s : State} {n i : Nat} {p : Pkt} (h : s.packetAhead n i = some p) : p.ring = n := by
  simp only [State.packetAhead] at h
  split at h
  · exact State.packetFrom_ring h
  · cases h

/-- Does a ring that comes before `n` have a packet to be read? -/
theorem State.anyBefore_iff {s : State} {n : Nat} :
    (s.cmd.rings.keyList.any fun m => s.ringBefore m n && s.unread m) = true ↔ ∃ m ∈ s.cmd.rings.keyList, s.ringBefore m n = true ∧ s.unread m = true := by
  simp [List.any_eq_true]

/-- The look-ahead reads ring `n`'s next packet, unless a ring that comes before has one to be read. -/
theorem State.lookAheadRead_of {s : State} {n : Nat} {p : Pkt} (hp : s.packetAhead n (s.ring n).ahead = some p) (hlim : (s.ring n).ahead ≤ 512)
    (hpaused : s.paused = false) :
    exec (.lookAheadRead n) s = .next (if ∃ m ∈ s.cmd.rings.keyList, s.ringBefore m n = true ∧ s.unread m = true then s
      else (s.setRing n { s.ring n with ahead := (s.ring n).ahead + 1 }).lookAt p (s.ring n).ahead) := by
  show execLookAheadRead n s = _
  simp only [execLookAheadRead, hp, State.when, hlim, hpaused, ← State.anyBefore_iff]
  cases (s.cmd.rings.keyList.any fun m => s.ringBefore m n && s.unread m) <;> rfl

@[simp] theorem State.ring_setRing_self (s : State) (n : Nat) (r : Ring) : (s.setRing n r).ring n = r := AMap.getD_put_self _ _ _ _

theorem State.ring_setRing_other (s : State) {n m : Nat} (r : Ring) (h : m ≠ n) : (s.setRing n r).ring m = s.ring m := AMap.getD_put_other _ _ _ _ _ h

theorem State.only_setRing (s : State) (n : Nat) (r : Ring) : s.only [.cmd] (s.setRing n r) := by
  refine ⟨rfl, fun q hq => ?_⟩
  cases q <;> simp [State.same, State.setRing] at hq ⊢

/-! ### The end of a wait -/

/-- Either way that a wait ends, the requester counts it and the packet attempts its take. -/
theorem State.waitEnds {s : State} {n since : Nat} {p : Pkt} (hp : s.packet n = some p) (hsince : (s.ring n).bpSince = some since) {c : Instr × Bool}
    (hc : c ∈ ([(.backpressureEnd n, !s.backpressured p),
      (.backpressureWaitLimit n, (s.cmd.jobs.get? p.job).any fun j => decide (since + 1000 * j.waitMs * 25 ≤ s.now))] : List (Instr × Bool)))
    (hdue : c.2 = true) : exec c.1 s = .next (s.waitOver p since) := by
  have hwait : s.waitingPkt n = some (p, since) := by simp only [State.waitingPkt, hp, hsince]
  simp only [List.mem_cons, List.not_mem_nil, or_false] at hc
  obtain rfl | rfl := hc
  · show execBackpressureEnd n s = _
    simp only [execBackpressureEnd, hwait, State.when]
    exact congrArg Host.Outcome.next (if_pos hdue)
  · show execBackpressureWaitLimit n s = _
    simp only [execBackpressureWaitLimit, hwait, State.when]
    exact congrArg Host.Outcome.next (if_pos hdue)

theorem ceilUs_eq (ticks : Nat) : ceilUs ticks = (ticks + 24) / 25 := by
  simp only [ceilUs, ceilDiv, ticksPerUs]
  omega

/-- A packet of an engine's command, which is no launch, is refused as its take is attempted. -/
theorem State.take1_refused {s : State} {p : Pkt} {bads : Pkt → State → List Bad} {eff : Pkt → State → State} {b : Bad} (hop : p.op ≠ 0x0202)
    (href : s.refusal p bads = some b) (hclean : s.mem.clean (sysKey ((s.ring p.ring).addr (s.ring p.ring).head)) p.bytes.length = true)
    (hprog : s.prog p.ring p.at_ = none) :
    Takes (.next (s.take1 p bads eff)) p.ring fun v => s.inProgress p v ∧ v.outcomeAt p.ring p.at_ = some (Outc.of b.1 b.2) ∧ s.only [.cmd] v := by
  refine ⟨_, ?_, State.accept_conclude s p (Outc.of b.1 b.2) hprog⟩
  simp only [State.take1, State.discover_clean _ _ _ hclean, Mem.clean_poisoned _ _ _ hclean, href, State.refused, if_neg hop]
  rfl

theorem engineOf_launch : engineOf 0x0202 = none := by decide

/-! ### The statement -/

/-- The look-ahead's read of ring `n`, of a state in which the ring has moved on. -/
theorem State.lookedAt.ofRing {s t : State} {n : Nat} {r : Ring} (h : (s.setRing n r).lookedAt t) :
    t.ring n = r ∧ s.ringsBut [n] t ∧ t.cmd = { s.cmd with rings := t.cmd.rings, aheadAt := t.cmd.aheadAt } ∧ s.only [.cmd, .place, .free] t ∧
      t.place = { s.place with fetches := t.place.fetches, shadows := t.place.shadows } := by
  obtain ⟨honly, hcmd, hplace⟩ := h
  have hrings : t.cmd.rings = (s.setRing n r).cmd.rings := by rw [hcmd]
  have hring : ∀ m, t.ring m = (s.setRing n r).ring m := fun m => congrArg (fun l : AMap Ring => l.getD m Ring.init) hrings
  refine ⟨(hring n).trans (s.ring_setRing_self n r), fun m hm => ?_, by rw [hcmd]; rfl, ?_, hplace⟩
  · exact (hring m).trans (s.ring_setRing_other r fun heq => hm (heq ▸ List.mem_singleton_self _))
  · exact State.only_trans (State.only_mono (by simp) (s.only_setRing n r)) honly

/-- A launch on a job ring that the look-ahead reads is placed, and fetched for. -/
theorem State.lookAt_launch (s : State) {p : Pkt} (i : Nat) (hring : p.ring ≠ adminRing) (hmasks : p.masks.isSome = true) (hop : p.op = 0x0202) :
    s.lookAt p i = s.launchAhead p := by
  have hadmin : p.admin = false := decide_eq_false hring
  have hsome : p.masks.isNone = false := by rw [Option.isNone_eq_false_iff, hmasks]
  simp only [State.lookAt, hadmin, hsome, hop]
  rfl

theorem State.lookAt_other (s : State) {p : Pkt} (i : Nat) (hop : p.op ∉ [0x0202, 0x0502, 0x0503]) : s.lookAt p i = s := by
  simp only [List.mem_cons, List.not_mem_nil, or_false, not_or] at hop
  obtain ⟨hlaunch, hget, hpre⟩ := hop
  unfold State.lookAt
  split
  · rfl
  · split
    · contradiction
    · contradiction
    · contradiction
    · rfl

theorem State.lookAt_get (s : State) {p : Pkt} (i : Nat) (hop : p.op = 0x0502) : s.only [.cmd] (s.lookAt p i) := by
  simp only [State.lookAt, hop]
  split
  · exact State.only_refl s _
  · exact (s.getAhead_noted p).2

/-- Settles O22: what the look-ahead reads by the three kinds of packet it acts on, and the end of a wait by the state from which the take is attempted. -/
theorem lookAheadAndBackPressure : Obligations.LookAheadAndBackPressure := by
  refine ⟨fun s n p hp hlim hpaused at_ hat => ⟨fun hfirst => ⟨fun hop => ?_, ?_⟩, fun hbefore => ?_⟩,
    fun s n p since e hp hsince he w r c hw hr hc hdue u hu => ?_⟩
  · rw [State.lookAheadRead_of hp hlim hpaused, if_neg fun ⟨m, hm, hb, hu⟩ => by simp [hfirst m hm hb] at hu, State.lookAt_other _ _ hop]
  · rw [State.lookAheadRead_of hp hlim hpaused, if_neg fun ⟨m, hm, hb, hu⟩ => by simp [hfirst m hm hb] at hu]
    have hring := State.packetAhead_ring hp
    have hlooked := State.lookedAt.ofRing ((s.setRing n { s.ring n with ahead := (s.ring n).ahead + 1 }).lookedAt_lookAt p (s.ring n).ahead)
    generalize hv : s.setRing n { s.ring n with ahead := (s.ring n).ahead + 1 } = v at hlooked ⊢
    obtain ⟨hself, hbut, hcmd, honly, hplace⟩ := hlooked
    refine ⟨_, rfl, hself, hbut, hcmd, honly, hplace, fun hop => ?_, fun hn hmasks hop => ?_⟩
    · rw [← hv]
      exact State.only_trans (s.only_setRing n _) (State.lookAt_get _ _ hop)
    · rw [State.lookAt_launch v _ (hring ▸ hn) hmasks hop]
      have hkey : at_ = aheadKey p.ring p.at_ := by rw [hat, hring]; rfl
      obtain ⟨⟨-, -, hsame⟩, hnoted, hkept, hchosen⟩ := v.placeAhead_spec p
      have hfetch := v.launchAhead_fetching p
      have hahead : v.cmd.aheadAt = s.cmd.aheadAt := by rw [← hv]; rfl
      have hnow : (v.launchAhead p).cmd = (v.placeAhead p).2.cmd := hfetch.only.2 .cmd (by simp)
      have hbefore : ∀ c, (v.placeAhead p).2.place.fetches.getD c [] = s.place.fetches.getD c [] := fun c => by rw [hsame, ← hv]; rfl
      rw [hkey, hnow, ← hahead]
      refine ⟨(v.placeAhead p).1, hnoted, hkept, fun hnone c hc => ?_, fun c hc => (hfetch.others c hc).trans (hbefore c), fun c x hx => ?_, fun c x hx => ?_⟩
      · have hc := State.mem_workingClusters (hchosen hnone c hc)
        rw [← hv] at hc
        exact hc
      · exact hfetch.kept c x (hbefore c ▸ hx)
      · rw [← hbefore c, ← hring]
        exact hfetch.new c x hx
  · rw [State.lookAheadRead_of hp hlim hpaused, if_pos hbefore]
  · have hring := State.packet_ring hp
    have hw' : max 1 (ceilUs (s.now - since)) = w := by rw [ceilUs_eq, hw]
    have hexec : exec c.1 s = .next (u.take1 p (waitingBads p.op) (waitingEff p.op)) := by
      rw [State.waitEnds hp hsince hc hdue, State.waitOver, he, Option.getD_some, sat32, hw', hu, hr]
      rfl
    have huring : u.ring n = s.ring n := by rw [hu]; rfl
    have hunow : u.now = s.now := by rw [hu]; rfl
    refine ⟨hexec, ?_, fun b href hclean hprog => ?_⟩
    · rw [State.accept_progs, List.getLast?_concat, State.newProg, hring, huring, hsince, hunow, Option.map_some, Option.map_some, Option.getD_some, hw']
      rfl
    · subst hring
      rw [hexec]
      refine State.take1_refused (fun hop => ?_) href (huring ▸ hclean) ?_
      · rw [hop, engineOf_launch] at he
        cases he
      · rw [hu]
        exact hprog

end Sys2Proof.Machine
end

section
/-! PROOFS. A copy into the berth map's entry 0, whose handle the accesses read as operand SRAM (R93, R293). -/

namespace Sys2Proof.Machine

/-- The berth map holds entry 0 with generation 0, so that its handle is 0; ring 0 announces a BERTH_COPY of 64 bytes, of which the first is 1, from system address
0x8000 to byte 0 of that handle. -/
def copyingToZero : State :=
  (oneTenant false [(0, oneBerth 0 (Page.placedAt 8192))]).announces [(0x8000, 1#8)] (packetOf 0x0106 [0, 2 ^ 48 + 0x8000, 0, 64, 0])

/-- The state is a proper one, and its packet is a copy that may be taken. -/
theorem copyingToZero_takes : copyingToZero.Inv ∧ ∃ p, copyingToZero.takes 0 p (isOp 0x0106) berthCopyBad ∧
    p.bit 1 48 = true ∧ p.bit 2 48 = false ∧ p.bit 4 4 = false ∧ p.f 1 47 0 = 0x8000 ∧ p.f 2 47 0 = 0 ∧ p.lo 0 = 0 ∧ p.hi 0 = 0 ∧ (p.w 3).toNat = 64 := by
  have hinsts : (copyingToZero.comp.insts.map (·.1)).Pairwise (· < ·) := List.Pairwise.nil
  have hinv : copyingToZero.Inv := by refine ⟨?_, ?_, ?_, ?_, ?_, hinsts⟩ <;> decide +kernel
  obtain ⟨p, htakes, hwords⟩ := State.takes_of_takesSome (s := copyingToZero) (n := 0) (sel := isOp 0x0106) (bads := berthCopyBad)
    (f := fun p => p.bit 1 48 = true ∧ p.bit 2 48 = false ∧ p.bit 4 4 = false ∧ p.f 1 47 0 = 0x8000 ∧ p.f 2 47 0 = 0 ∧ p.lo 0 = 0 ∧ p.hi 0 = 0 ∧
      (p.w 3).toNat = 64) (by decide +kernel)
  exact ⟨hinv, p, htakes, of_decide_eq_true hwords⟩

/-- The copy writes operand SRAM, which handle 0 names for every access, and byte 0 of entry 0 stays 0. -/
theorem copyingToZero_copies : nextHas (exec (.berthCopy 0) copyingToZero) (fun t => cellGet t.mem.cells (berthKey 0 0) = 0) = true := by decide +kernel

/-- Refutes O28: where the berth map holds entry 0 with generation 0, its handle is 0, and BERTH_COPY, like every access by handle 0, goes to the operand SRAM of
core 0 instead of to the berth's bytes. -/
theorem not_berths : ¬ Obligations.Berths := by
  rintro ⟨_, _, hcopy, _⟩
  obtain ⟨⟨hwf, _⟩, p, htakes, hss, hds, hplain, hso, hdofs, hsrc, hdst, hlen⟩ := copyingToZero_takes
  obtain ⟨hbytes, _⟩ := hcopy copyingToZero 0 p htakes hwf _ _ _ _ _ _ _ _ rfl rfl rfl rfl rfl rfl rfl rfl (fun _ => by
    rw [hdst, hdofs, hlen]
    decide +kernel)
  obtain ⟨hplainCopy, _⟩ := hbytes hplain (fun h => absurd (hss.symm.trans h) (by decide))
  rw [hss, hds, hso, hdofs, hsrc, hdst, hlen, if_pos rfl] at hplainCopy
  obtain ⟨u, hu, _, hdata, _⟩ := hplainCopy (by decide +kernel) (fun h => absurd h (by decide))
  obtain ⟨t, ht, hzero⟩ := answers_of_nextHas copyingToZero_copies
  obtain rfl : u.checkHead 0 = t := Host.Outcome.next.inj (hu.symm.trans ht)
  rw [State.checkHead_mem] at hzero
  have hone : cellGet u.mem.cells (berthKey 0 0) = 1#8 := hdata 0 1#8 (by decide +kernel)
  exact absurd ((of_decide_eq_true hzero).symm.trans hone) (by decide)

end Sys2Proof.Machine
end

section
/-! PROOFS. A PREFETCH for a launch that the look-ahead has not read: it places the launch, and notes where (R27, R154, R301). -/

namespace Sys2Proof.Machine

/-- Ring 0 announces a PREFETCH of 64 bytes of berth 1 for the packet after it, and as that packet a KERNEL_LAUNCH whose COUNT is 1. -/
def prefetchingAhead : State :=
  (oneTenant false [(1, oneBerth 1 (Page.placedAt 8192))]).announces []
    (packetOf 0x0503 [2 ^ 32 + 0x10001, 0, 64] ++ packetOf 0x0202 [2 ^ 16, 0, 0, 0, 0, 0, 0, 0, 0, 0, 0])

/-- The state is a proper one, its packet is a PREFETCH that may be taken, its acceptance notes no launch's place, and the packet after it is a launch. -/
theorem prefetchingAhead_takes : prefetchingAhead.Inv ∧ ∃ p, prefetchingAhead.takes 0 p (isOp 0x0503) prefetchBad ∧ p.f 0 41 32 = 1 ∧ p.ring = 0 ∧
    (prefetchingAhead.accept p).cmd.aheadAt = [] ∧ ∃ q, (prefetchingAhead.accept p).packetAhead 0 0 = some q ∧ q.op = 0x0202 := by
  have hinsts : (prefetchingAhead.comp.insts.map (·.1)).Pairwise (· < ·) := List.Pairwise.nil
  have hinv : prefetchingAhead.Inv := by refine ⟨?_, ?_, ?_, ?_, ?_, hinsts⟩ <;> decide +kernel
  obtain ⟨p, htakes, h⟩ := State.takes_of_takesSome (s := prefetchingAhead) (n := 0) (sel := isOp 0x0503) (bads := prefetchBad)
    (f := fun p => (p.f 0 41 32 = 1 ∧ p.ring = 0 ∧ (prefetchingAhead.accept p).cmd.aheadAt = []) &&
      ((prefetchingAhead.accept p).packetAhead 0 0).any fun q => q.op = 0x0202) (by decide +kernel)
  rw [Bool.and_eq_true, decide_eq_true_eq, Option.any_eq_true] at h
  obtain ⟨⟨hahead, hring, hnone⟩, q, hq, hop⟩ := h
  exact ⟨hinv, p, htakes, hahead, hring, hnone, q, hq, of_decide_eq_true hop⟩

/-- A PREFETCH for a launch places the launch, and notes where. -/
theorem State.prefetch_places {s : State} {p q : Pkt} {i lines : Nat} (hahead : p.f 0 41 32 ≠ 0) (hq : s.packetAhead p.ring i = some q) (hop : q.op = 0x0202) :
    (s.prefetch p i lines).2.cmd.aheadAt.get? (aheadKey q.ring q.at_) = some (s.placeAhead q).1 := by
  have hlaunch : (s.packetAhead p.ring i).filter (fun q => q.op = 0x0202) = some q := by simp [hq, Option.filter, hop]
  simp only [State.prefetch, if_neg hahead, hlaunch]
  rw [(Fetching.foldl (P := fun _ => True) (fun u c hc => Fetching.tugStart hc u _ fun _ => trivial) _).only.2 .cmd (by simp)]
  exact (s.placeAhead_spec q).2.1

theorem State.prefetch_takes {s : State} {n lines : Nat} {p : Pkt} (h : s.takes n p (isOp 0x0503) prefetchBad) :
    exec (.prefetch n lines) s = .next (((prefetchEff lines p (s.accept p)).tagWants s.wire.wants.length none (some (p.ring, p.at_))).checkHead n) :=
  State.command_takes (prefetchEff lines) h

theorem State.prefetchEff_aheadAt (s : State) (p : Pkt) (lines n : Nat) (core cmd : Option (Nat × Nat)) :
    ((prefetchEff lines p s).tagWants n core cmd).cmd.aheadAt = (s.prefetch p (p.f 0 41 32 - 1) lines).2.cmd.aheadAt := by
  rw [State.tagWants_eq]
  rfl

/-- Refutes O37: a PREFETCH for a launch that has no place yet notes the launch's clusters on the command side, of which the statement says that nothing but the PREFETCH's
own place in it changes. -/
theorem not_stash : ¬ Obligations.Stash := by
  rintro ⟨_, _, hprefetch, _⟩
  obtain ⟨_, p, htakes, hahead, hring, hnone, q, hq, hop⟩ := prefetchingAhead_takes
  obtain ⟨u, hu, ⟨hcmd, _⟩, _⟩ := hprefetch prefetchingAhead 0 0 p htakes _ rfl
  have hsame := congrArg (fun s : State => s.cmd.aheadAt) (Host.Outcome.next.inj (hu.symm.trans (State.prefetch_takes htakes)))
  simp only [State.checkHead_aheadAt, State.prefetchEff_aheadAt] at hsame
  rw [hcmd] at hsame
  have hplaced := State.prefetch_places (s := prefetchingAhead.accept p) (p := p) (i := p.f 0 41 32 - 1) (lines := 0) (by omega)
    (by rw [hahead, hring]; exact hq) hop
  rw [← hsame, hnone] at hplaced
  cases hplaced

end Sys2Proof.Machine
end

section
/-! PROOFS. An epoch that moves a page held for another module to the frame of a replica (R131, R134, R135). -/

namespace Sys2Proof.Machine

/-- A pseudo-channel that is retired. -/
def retiredPc : Pc := { Pc.init with st := .retired }

/-- What remains of HBM: of stacks 0 and 8 one group, of which all but 2 MiB is the system's, and stack 1, which is being retired. -/
def littleHbm (c : Chip) : Chip :=
  { c with
    hbm := (List.range 16).map fun i => (i, { Stack.init with sysUnits := 16376, st := if i = 0 || i = 8 then .inService else if i = 1 then .retiring else .retired }),
    pcs := ((List.range 60).map fun j => (4 + j, retiredPc)) ++ (List.range 60).map fun j => (64 * 8 + 4 + j, retiredPc) }

/-- The frame of the replica: the one 2 MiB of stack 8. -/
def replicaAt : BitVec 46 := 8 * 2 ^ 18

/-- A frozen job's page at stack 0 with a replica at stack 8, and a page held for module 5 at stack 1, which it must leave. -/
def replicaInTheWay : State :=
  let s := (oneTenant true [(1, oneBerth 1 { Page.placedAt 0 with copies := [replicaAt] })]).setClk { Clk.init with counter := 25000 }
  (s.setChip (littleHbm s.chip)).setNet { s.net with stashIn := [(5 * 2 ^ 24, 2 ^ 18)], frames := [] }

/-- The pairs of stack and group of a die that have room for a page of `n` frames. -/
def State.roomyPairs (s : State) (held : List (Nat × Nat)) (die n : Nat) : List Nat :=
  ((List.range 128).map (128 * die + ·)).filter fun p => (s.frameIn held (p / 16) (p % 16) n 0).isSome

/-- In a group that holds one page alone, the choice of a frame does not depend on what is picked. -/
theorem State.frameIn_one {s : State} {stack group n : Nat} (hone : s.groupFrames stack group / n = 1) (held : List (Nat × Nat)) (pick : Nat) :
    s.frameIn held stack group n pick = s.frameIn held stack group n 0 := by
  simp only [State.frameIn, hone, Nat.max_self, Nat.mod_one]

/-- With no pair that has room, a die gives no frame. -/
theorem State.hbmOnDie_none {s : State} {held : List (Nat × Nat)} {die n : Nat} (h : s.roomyPairs held die n = []) (b : Berth) (pick : Nat) :
    s.hbmOnDie held b die n pick = none := by
  unfold State.hbmOnDie
  rw [← State.roomyPairs, h]
  rfl

/-- With one pair that has room, a die gives a frame there. -/
theorem State.hbmOnDie_one {s : State} {held : List (Nat × Nat)} {die n p : Nat} (h : s.roomyPairs held die n = [p]) (b : Berth) (pick : Nat) :
    s.hbmOnDie held b die n pick = s.frameIn held (p / 16) (p % 16) n (pick / 256) := by
  unfold State.hbmOnDie
  rw [← State.roomyPairs, h]
  simp [Nat.mod_one]

/-- The page held for another module takes the replica's frame, whatever is picked. -/
theorem replicaInTheWay_hbmFrame (pick : Nat) : replicaInTheWay.hbmFrame stashBerth pick = some replicaAt.toNat := by
  have hnear : replicaInTheWay.roomyPairs replicaInTheWay.framesHeld stashBerth.die (pageSize stashBerth.cls / 2 ^ 18) = [] := by decide +kernel
  have hfar : replicaInTheWay.roomyPairs replicaInTheWay.framesHeld (1 - stashBerth.die) (pageSize stashBerth.cls / 2 ^ 18) = [128] := by decide +kernel
  simp only [State.hbmFrame]
  rw [State.hbmOnDie_none hnear, State.hbmOnDie_one hfar, State.frameIn_one (by decide +kernel)]
  decide +kernel

/-- What the epoch does before it comes to the page held for another module: nothing. -/
theorem replicaInTheWay_before : replicaInTheWay.hintsAct.keepPinRoom = replicaInTheWay ∧ replicaInTheWay.outward = [] ∧
    replicaInTheWay.rankedPages.foldl (State.epochPage [] []) replicaInTheWay = replicaInTheWay := by
  refine ⟨?_, ?_, ?_⟩ <;> decide +kernel

/-- The state after that page has begun to move. -/
def replicaGone : State :=
  let s := (replicaInTheWay.freeNext).migrates true (2 * 2 ^ 21)
  let fs := (List.range 8).foldl (fun fs j => (AMap.drop fs (2 ^ 18 + j)).put (replicaAt.toNat + j) 5) s.net.frames
  (s.setNet { s.net with stashIn := s.net.stashIn.put (5 * 2 ^ 24) replicaAt.toNat, frames := fs }).yieldFrames replicaAt.toNat 8

theorem replicaInTheWay_moves : replicaInTheWay.moveStash (5 * 2 ^ 24, 2 ^ 18) = replicaGone := by
  have hoff : (replicaInTheWay.misplaced (BitVec.ofNat 46 (2 ^ 18)) 8 && replicaInTheWay.capAllows true (2 * 2 ^ 21)) = true := by decide +kernel
  simp only [State.moveStash, hoff, if_true, replicaInTheWay_hbmFrame]
  rfl

theorem replicaInTheWay_epoch : exec (.placementEpoch []) replicaInTheWay = .next (replicaGone.epochEnd replicaInTheWay.now) := by
  have hdue : (replicaInTheWay.running && replicaInTheWay.after replicaInTheWay.place.epochAt 1000) = true := by decide +kernel
  obtain ⟨hhints, hout, hpages⟩ := replicaInTheWay_before
  have hstash : replicaInTheWay.net.stashIn = [(5 * 2 ^ 24, 2 ^ 18)] := rfl
  show execPlacementEpoch [] replicaInTheWay = _
  simp only [execPlacementEpoch, hhints, hout, hpages, List.foldl_nil, hstash, List.foldl_cons, replicaInTheWay_moves, State.when, hdue, if_true]

/-- The epoch leaves the page without its replica. -/
theorem replicaGone_page : (((replicaGone.epochEnd replicaInTheWay.now).place.berths.get? 1).bind fun b => b.pages.get? 0).map Page.copies = some [] := by
  decide +kernel

/-- The state is a proper one, and the replica stands where its berth's hints and the unit in service keep it. -/
theorem replicaInTheWay_proper : replicaInTheWay.Inv ∧ replicaInTheWay.running = true ∧ replicaInTheWay.place.epochAt + 1000 * 25 ≤ replicaInTheWay.now ∧
    replicaInTheWay.frozenJob 0 = true ∧ replicaInTheWay.misplaced 0 8 = false ∧ replicaInTheWay.misplaced replicaAt 8 = false := by
  have hinsts : (replicaInTheWay.comp.insts.map (·.1)).Pairwise (· < ·) := List.Pairwise.nil
  refine ⟨⟨?_, ?_, ?_, ?_, ?_, hinsts⟩, ?_, ?_, ?_, ?_, ?_⟩ <;> decide +kernel

/-- Refutes O38: of a frozen job's page the statement keeps every replica that its berth's hints allow and that stands on a unit in service, and a page held for another
module that leaves its unit may take the replica's frame. -/
theorem not_placement : ¬ Obligations.Placement := by
  rintro ⟨⟨hepoch, _⟩, _⟩
  obtain ⟨_, hrun, hdue, hfrozen, hbase, hcopy⟩ := replicaInTheWay_proper
  obtain ⟨t, ht, _, _, _, hpage⟩ := hepoch replicaInTheWay [] hrun hdue
  obtain ⟨c, y, hc, hy, _, _, hkept, _⟩ := hpage 1 _ 0 _ rfl rfl
  obtain ⟨_, hcopies⟩ := hkept hfrozen (by decide) hbase
  have hstays : y.copies = [replicaAt] := hcopies fun f hf => by
    obtain rfl := List.mem_singleton.mp hf
    exact ⟨by decide, hcopy⟩
  obtain rfl := Host.Outcome.next.inj (ht.symm.trans replicaInTheWay_epoch)
  have hgone := replicaGone_page
  rw [hc, Option.bind_some, hy, Option.map_some, hstays] at hgone
  exact absurd hgone (by decide)

end Sys2Proof.Machine
end

section
/-! PROOFS. What ends with an absent peer's participation leaves alone (R181, R193, R227, R253): what is known of the peers, the packets that kernels
sent, the reads under way, and the cores. -/

namespace Sys2Proof.Machine

/-- From `s` to `t` the peers, the reads under way, the cores and the number of faults stay, and every packet that no command sent still waits for its
acknowledgement. -/
structure PeersKept (s t : State) : Prop where
  peers : t.net.peers = s.net.peers
  sent : ∀ x ∈ s.net.unacked, x.cmd = none → x ∈ t.net.unacked
  reads : t.wire.reads = s.wire.reads
  cores : t.comp.cores = s.comp.cores
  total : t.health.total = s.health.total

/-- Changes of other parts of the state. -/
theorem PeersKept.still {s t : State} (hnet : t.net = s.net) (hwire : t.wire = s.wire) (hcores : t.comp.cores = s.comp.cores)
    (htotal : t.health.total = s.health.total) : PeersKept s t :=
  ⟨by rw [hnet], fun x hx _ => by rwa [hnet], by rw [hwire], hcores, htotal⟩

theorem PeersKept.refl (s : State) : PeersKept s s := PeersKept.still rfl rfl rfl rfl

theorem PeersKept.trans {s t u : State} (h : PeersKept s t) (g : PeersKept t u) : PeersKept s u where
  peers := g.peers.trans h.peers
  sent x hx hc := g.sent x (h.sent x hx hc) hc
  reads := g.reads.trans h.reads
  cores := g.cores.trans h.cores
  total := g.total.trans h.total

theorem PeersKept.ite {s t u : State} {c : Prop} [Decidable c] (h : PeersKept s t) (g : PeersKept s u) : PeersKept s (if c then t else u) := by
  split
  · exact h
  · exact g

theorem PeersKept.foldl {α : Type} {f : State → α → State} (h : ∀ s x, PeersKept s (f s x)) (l : List α) (s : State) : PeersKept s (l.foldl f s) := by
  induction l generalizing s with
  | nil => exact PeersKept.refl s
  | cons x l ih => exact (h s x).trans (ih _)

theorem PeersKept.setPlace (s : State) (p : Place) : PeersKept s (s.setPlace p) := PeersKept.still rfl rfl rfl rfl
theorem PeersKept.setCmd (s : State) (c : Cmd) : PeersKept s (s.setCmd c) := PeersKept.still rfl rfl rfl rfl
theorem PeersKept.setMem (s : State) (m : Mem) : PeersKept s (s.setMem m) := PeersKept.still rfl rfl rfl rfl
theorem PeersKept.setFree (s : State) (n : Nat) : PeersKept s (s.setFree n) := PeersKept.still rfl rfl rfl rfl
theorem PeersKept.setQuay (s : State) (q : Quay) : PeersKept s (s.setQuay q) := PeersKept.still rfl rfl rfl rfl

/-- Accesses join those that wait to leave. -/
theorem PeersKept.setWire (s : State) {w : Wire} (h : w.reads = s.wire.reads) : PeersKept s (s.setWire w) := ⟨rfl, fun _ hx _ => hx, h, rfl, rfl⟩

/-- Tables of the network other than those of peers and packets change. -/
theorem PeersKept.setNet (s : State) {n : Net} (hpeers : n.peers = s.net.peers) (hsent : n.unacked = s.net.unacked) : PeersKept s (s.setNet n) :=
  ⟨hpeers, fun x hx _ => by rw [← hsent] at hx; exact hx, rfl, rfl, rfl⟩

/-! ### Pages made ready for a write -/

theorem PeersKept.updBerth (s : State) (i : Nat) (f : Berth → Berth) : PeersKept s (s.updBerth i f) := by
  unfold State.updBerth
  split
  · exact PeersKept.refl s
  · exact PeersKept.setPlace s _

theorem PeersKept.placeChange (s : State) (job : Nat) : PeersKept s (s.placeChange job) := by
  unfold State.placeChange
  split
  · exact PeersKept.refl s
  · exact PeersKept.setCmd s _

theorem PeersKept.shootDown (s : State) (i page : Nat) : PeersKept s (s.shootDown i page) := by
  unfold State.shootDown
  split
  · exact PeersKept.refl s
  · exact PeersKept.ite (PeersKept.setPlace s _) ((PeersKept.setPlace s _).trans (PeersKept.setWire _ rfl))

theorem PeersKept.dropCopies (s : State) (i p : Nat) (keeps : BitVec 46 → Bool) : PeersKept s (s.dropCopies i p keeps) := by
  unfold State.dropCopies
  split
  · exact PeersKept.refl s
  · split
    · exact PeersKept.refl s
    · exact PeersKept.ite (PeersKept.refl s)
        (((PeersKept.shootDown s i p).trans (PeersKept.updBerth _ i _)).trans (PeersKept.foldl (fun s _ => PeersKept.placeChange s _) _ _))

theorem PeersKept.dropWhere (s : State) (keeps : Berth → BitVec 46 → Bool) : PeersKept s (s.dropWhere keeps) :=
  PeersKept.foldl (fun s _ => PeersKept.foldl (fun s _ => PeersKept.ite (PeersKept.refl s) (PeersKept.dropCopies s _ _ _)) _ s) _ s

theorem PeersKept.lineGone (s : State) (x : Shadow) : PeersKept s (s.lineGone x) :=
  PeersKept.foldl (fun s _ => PeersKept.ite (PeersKept.refl s) ((PeersKept.setPlace s _).trans (PeersKept.setCmd _ _))) _ s

theorem PeersKept.trimShadows (s : State) (c room fuel : Nat) : PeersKept s (s.trimShadows c room fuel) := by
  induction fuel generalizing s with
  | zero => exact PeersKept.refl s
  | succ fuel ih =>
    unfold State.trimShadows
    refine PeersKept.ite (PeersKept.refl s) ?_
    split
    · exact PeersKept.refl s
    · exact ((PeersKept.setPlace s _).trans (PeersKept.lineGone _ _)).trans (ih _)

theorem PeersKept.yieldFrames (s : State) (f n : Nat) : PeersKept s (s.yieldFrames f n) := by
  have hdrop := PeersKept.dropWhere s fun b c => c.toNat + b.frames ≤ f || f + n ≤ c.toNat
  rw [State.yieldFrames]
  generalize (s.dropWhere fun b c => c.toNat + b.frames ≤ f || f + n ≤ c.toNat) = t at hdrop ⊢
  split
  · exact hdrop
  · exact hdrop.trans (PeersKept.trimShadows t _ _ _)

theorem PeersKept.exposeFrame (s : State) (i : Nat) (b : Berth) (base : BitVec 46) : PeersKept s (s.exposeFrame i b base) := by
  unfold State.exposeFrame
  split
  · exact PeersKept.refl s
  · exact PeersKept.setNet s rfl rfl

theorem PeersKept.pickFor (s : State) (job item : Nat) : PeersKept s (s.pickFor job item).2 := by
  obtain ⟨n, hn⟩ := s.pickFor_snd job item
  rw [hn]
  exact PeersKept.setFree s n

theorem PeersKept.yieldPin (s : State) (c : Nat) : PeersKept s (s.yieldPin c) := by
  unfold State.yieldPin
  split
  · exact PeersKept.refl s
  · split
    · exact PeersKept.refl s
    · refine (PeersKept.ite (PeersKept.refl s) (PeersKept.trans ?_ (PeersKept.placeChange _ _))).trans
        ((PeersKept.shootDown _ _ _).trans (PeersKept.updBerth _ _ _))
      exact PeersKept.still rfl rfl rfl rfl

theorem PeersKept.stashHome (s : State) (b : Berth) (pick : Nat) (outward : Bool) : PeersKept s (s.stashHome b pick outward).2 := by
  unfold State.stashHome
  dsimp only
  split
  · exact PeersKept.refl s
  · split
    · exact PeersKept.setNet s rfl rfl
    · split
      · exact PeersKept.setNet s rfl rfl
      · split <;> exact PeersKept.refl s

theorem PeersKept.homeFor (s : State) (b : Berth) (item : Nat) : PeersKept s (s.homeFor b item).2 := by
  unfold State.homeFor
  have hpick := PeersKept.pickFor s b.job item
  generalize s.pickFor b.job item = found at hpick ⊢
  obtain ⟨pick, t⟩ := found
  dsimp only at hpick ⊢
  split
  · split <;> exact hpick
  · split
    · exact hpick
    · exact hpick.trans (PeersKept.ite (PeersKept.refl t) (PeersKept.yieldPin t _))
  · exact hpick.trans (PeersKept.stashHome t b pick false)
  · exact hpick

theorem PeersKept.placePage (s : State) (i p : Nat) : PeersKept s (s.placePage i p) := by
  unfold State.placePage
  split
  · exact PeersKept.refl s
  · next b hb =>
    refine PeersKept.ite (PeersKept.refl s) ?_
    have hhome := PeersKept.homeFor s b (i * 2 ^ 24 + p)
    split
    · next t ht => rw [ht] at hhome; exact hhome
    · next base t ht =>
      rw [ht] at hhome
      exact hhome.trans (((PeersKept.updBerth t i _).trans (PeersKept.exposeFrame _ _ _ _)).trans (PeersKept.yieldFrames _ _ _))

/-! ### Bytes written -/

theorem PeersKept.shadowDrop (s : State) (h : BitVec 32) (ofs n : Nat) : PeersKept s (s.shadowDrop h ofs n) :=
  (PeersKept.setPlace s _).trans (PeersKept.foldl PeersKept.lineGone _ _)

/-- An engine's accesses use no translation cache. -/
theorem State.tcTouch_engine (s : State) (h : BitVec 32) (ofs n : Nat) : s.tcTouch none h ofs n = s := by
  unfold State.tcTouch
  split
  · contradiction
  · rfl

theorem PeersKept.touchForWrite (s : State) (h : BitVec 32) (ofs n : Nat) : PeersKept s (s.touchForWrite none h ofs n) := by
  unfold State.touchForWrite
  split
  · exact PeersKept.refl s
  · dsimp only
    rw [State.tcTouch_engine]
    refine PeersKept.trans ?_ (PeersKept.shadowDrop _ h ofs n)
    refine PeersKept.trans ?_ (PeersKept.updBerth _ _ _)
    refine PeersKept.trans ?_ (PeersKept.updBerth _ _ _)
    exact PeersKept.foldl (fun s p => (PeersKept.placePage s _ p).trans (PeersKept.dropCopies _ _ _ _)) _ s

theorem PeersKept.wantSpan (s : State) (who : Option Nat) (h : BitVec 32) (ofs n : Nat) (kind : Nat → Nat → WantKind) :
    PeersKept s (s.wantSpan who h ofs n kind) := by
  unfold State.wantSpan
  split
  · exact PeersKept.refl s
  · split
    · exact PeersKept.refl s
    · exact PeersKept.setWire s rfl

theorem PeersKept.wantWrite (s : State) (who : Option Nat) (h : BitVec 32) (ofs : Nat) (bs : List (Option Byte)) :
    PeersKept s (s.wantWrite who h ofs bs) := PeersKept.foldl (fun s _ => PeersKept.wantSpan s _ _ _ _ _) _ s

theorem PeersKept.laEvict (s : State) (key n : Nat) : PeersKept s (s.laEvict key n) := by
  rw [State.laEvict_eq]
  exact PeersKept.still rfl rfl rfl rfl

/-- Taking an armed injection counts no fault. -/
theorem PeersKept.takeInjection (s : State) (cls : Nat) (u : BitVec 32) : PeersKept s (s.takeInjection cls u).2 := by
  unfold State.takeInjection
  split
  · exact PeersKept.refl s
  · exact PeersKept.still rfl rfl rfl rfl

theorem PeersKept.injectOnWrite (s : State) (b : Nat) : PeersKept s (s.injectOnWrite b) := by
  unfold State.injectOnWrite
  refine PeersKept.ite (PeersKept.refl s) ?_
  dsimp only
  split
  · exact PeersKept.ite ((PeersKept.takeInjection s _ _).trans (PeersKept.setMem _ _))
      (PeersKept.ite ((PeersKept.takeInjection s _ _).trans (PeersKept.setMem _ _)) (PeersKept.refl s))
  · exact PeersKept.ite (((PeersKept.takeInjection s _ _).trans (PeersKept.setMem _ _)).trans (PeersKept.setFree _ _)) (PeersKept.refl s)
  · exact PeersKept.ite (((PeersKept.takeInjection s _ _).trans (PeersKept.setMem _ _)).trans (PeersKept.setFree _ _)) (PeersKept.refl s)
  · exact PeersKept.refl s

theorem PeersKept.store (s : State) (key : Nat) (bs : List Byte) : PeersKept s (s.store key bs) :=
  PeersKept.ite (PeersKept.setMem s _) ((PeersKept.setMem s _).trans (PeersKept.injectOnWrite _ _))

theorem PeersKept.writeSpan (s : State) (h : BitVec 32) (ofs : Nat) (bs : List Byte) : PeersKept s (s.writeSpan none h ofs bs) := by
  refine PeersKept.ite (PeersKept.refl s) (PeersKept.trans (PeersKept.ite (PeersKept.refl s) ?_) (PeersKept.store _ _ _))
  exact ((PeersKept.touchForWrite s h ofs _).trans (PeersKept.laEvict _ _ _)).trans (PeersKept.wantWrite _ _ _ _ _)

theorem PeersKept.writeFree (s : State) (h : BitVec 32) (ofs n : Nat) : PeersKept s (s.writeFree h ofs n) :=
  PeersKept.ite ((PeersKept.setFree s _).trans (PeersKept.writeSpan _ _ _ _)) (PeersKept.refl s)

/-! ### What an absent participant ends -/

theorem PeersKept.conclude (s : State) (ring at_ : Nat) (o : Outc) : PeersKept s (s.conclude ring at_ o) := PeersKept.setCmd s _

theorem PeersKept.checkPool (s : State) (p : Nat) : PeersKept s (s.checkPool p).2 := by
  unfold State.checkPool
  split
  · exact PeersKept.refl s
  · dsimp only
    split <;> exact PeersKept.still rfl rfl rfl rfl

theorem PeersKept.releaseSlot (s : State) (d slot : Nat) : PeersKept s (s.releaseSlot d slot) := by
  unfold State.releaseSlot
  refine PeersKept.ite (PeersKept.refl s) (PeersKept.ite (PeersKept.setQuay s _) (PeersKept.trans ?_ (PeersKept.checkPool _ _)))
  refine PeersKept.trans ?_ (PeersKept.setQuay _ _)
  dsimp only
  split <;> exact PeersKept.still rfl rfl rfl rfl

theorem PeersKept.dropPlan (s : State) (p : Plan) : PeersKept s (s.dropPlan p) :=
  (PeersKept.foldl (fun s d => PeersKept.releaseSlot s d 0) _ s).trans (PeersKept.still rfl rfl rfl rfl)

theorem PeersKept.planGone (s : State) (p : Plan) (o : Outc) : PeersKept s (s.planGone p o) := by
  refine PeersKept.trans ?_ ((PeersKept.dropPlan _ p).trans (PeersKept.conclude _ _ _ _))
  exact PeersKept.ite ((PeersKept.writeFree s _ _ _).trans (PeersKept.writeFree _ _ _ _)) (PeersKept.refl s)

theorem PeersKept.planAbsent (s : State) (m : Nat) : PeersKept s (s.planAbsent m) := by
  refine PeersKept.trans ?_ (PeersKept.foldl (fun s p => PeersKept.planGone s p _) _ _)
  exact PeersKept.still rfl rfl rfl rfl

/-- A command that ends early gives up its own packets. -/
theorem PeersKept.abandon (s : State) (cmd : Nat × Nat) : PeersKept s (s.abandon cmd) :=
  ⟨rfl, fun x hx hc => List.mem_filter.2 ⟨hx, by rw [hc]; rfl⟩, rfl, rfl, rfl⟩

theorem PeersKept.exchAbsent (s : State) (m : Nat) : PeersKept s (s.exchAbsent m) := by
  refine PeersKept.foldl (fun s x => PeersKept.ite ?_ (PeersKept.refl s)) _ s
  split
  · exact (PeersKept.abandon s _).trans (PeersKept.conclude _ _ _ _)
  · exact PeersKept.refl s

theorem PeersKept.simpleEnd (s : State) (c : Simple) (o : Outc) : PeersKept s (s.simpleEnd c o) := by
  have hdrop : ∀ t : State, PeersKept t (t.dropSimple c) := fun _ => PeersKept.still rfl rfl rfl rfl
  exact PeersKept.trans ((PeersKept.foldl (fun s _ => PeersKept.writeFree s _ _ _) _ s).trans (hdrop _)) (PeersKept.conclude _ _ _ _)

theorem PeersKept.simpleAbsent (s : State) (m : Nat) : PeersKept s (s.simpleAbsent m) := PeersKept.foldl (fun s c => PeersKept.simpleEnd s c _) _ s

end Sys2Proof.Machine
end

section
/-! PROOFS. Requests to an absent peer end (R249, R253). -/

namespace Sys2Proof.Machine

/-! ### Faults that stand -/

/-- A core that raises a fault has one. -/
theorem State.raise_faulty (s : State) (k : Nat) (f : FaultRec) : ((s.raise k f).coreOf k).fault.isSome = true := by
  rw [State.raise, State.coreOf_updCore_self]
  split
  · assumption
  · rfl

/-- From `s` to `t` requests have ended: packets, counts and accesses that wait to leave are as they were, no read begins, and a core with a fault keeps one. -/
structure RequestsEnd (s t : State) : Prop where
  net : t.net = s.net
  health : t.health = s.health
  wants : t.wire.wants = s.wire.wants
  reads : ∀ w ∈ t.wire.reads, w ∈ s.wire.reads
  faults : ∀ k, (s.coreOf k).fault.isSome = true → (t.coreOf k).fault.isSome = true

theorem RequestsEnd.refl (s : State) : RequestsEnd s s := ⟨rfl, rfl, rfl, fun _ h => h, fun _ h => h⟩

theorem RequestsEnd.trans {s t u : State} (h : RequestsEnd s t) (g : RequestsEnd t u) : RequestsEnd s u where
  net := g.net.trans h.net
  health := g.health.trans h.health
  wants := g.wants.trans h.wants
  reads w hw := h.reads w (g.reads w hw)
  faults k hk := g.faults k (h.faults k hk)

theorem RequestsEnd.raise (s : State) (k : Nat) (f : FaultRec) : RequestsEnd s (s.raise k f) := by
  refine ⟨rfl, rfl, rfl, fun _ h => h, fun j hj => ?_⟩
  by_cases hjk : j = k
  · subst hjk; exact s.raise_faulty j f
  · rw [State.raise, State.coreOf_updCore_other s k j _ hjk]; exact hj

theorem RequestsEnd.spoil (s : State) (ring at_ : Nat) (o : Outc) : RequestsEnd s (s.spoil ring at_ o) :=
  ⟨rfl, rfl, rfl, fun _ h => h, fun _ h => h⟩

theorem RequestsEnd.endsFor (s : State) (core cmd : Option (Nat × Nat)) (code : Nat) (o : Outc) : RequestsEnd s (s.endsFor core cmd code o) := by
  rcases core with _ | ⟨k, b⟩ <;> rcases cmd with _ | ⟨r, i⟩
  · exact RequestsEnd.refl s
  · exact RequestsEnd.spoil s r i o
  · exact RequestsEnd.raise s k _
  · exact (RequestsEnd.raise s k _).trans (RequestsEnd.spoil _ r i o)

/-- What ends for a core leaves it with a fault. -/
theorem State.endsFor_faulty (s : State) (k b : Nat) (cmd : Option (Nat × Nat)) (code : Nat) (o : Outc) :
    ((s.endsFor (some (k, b)) cmd code o).coreOf k).fault.isSome = true := by
  unfold State.endsFor
  dsimp only
  split
  · exact (RequestsEnd.spoil _ _ _ _).faults k (s.raise_faulty k _)
  · exact s.raise_faulty k _

theorem RequestsEnd.accessEnds (s : State) (x : TxPkt) (code : Nat) (o : Outc) : RequestsEnd s (s.accessEnds x code o) := by
  unfold State.accessEnds
  refine RequestsEnd.trans ?_ (RequestsEnd.endsFor _ _ _ _ _)
  split
  · unfold State.forgetRead
    split
    · exact RequestsEnd.refl s
    · exact ⟨rfl, rfl, rfl, fun _ h => List.mem_of_mem_erase h, fun _ h => h⟩
  · exact RequestsEnd.refl s

/-- Requests end one after another: each leaves a fault with the core that it names. -/
theorem RequestsEnd.foldl {α : Type} {f : State → α → State} (core : α → Option (Nat × Nat)) (hstep : ∀ s x, RequestsEnd s (f s x))
    (hfault : ∀ s x k b, core x = some (k, b) → ((f s x).coreOf k).fault.isSome = true) (l : List α) (s : State) :
    RequestsEnd s (l.foldl f s) ∧ ∀ x ∈ l, ∀ k b, core x = some (k, b) → ((l.foldl f s).coreOf k).fault.isSome = true := by
  induction l generalizing s with
  | nil => exact ⟨RequestsEnd.refl s, fun x hx => absurd hx List.not_mem_nil⟩
  | cons y l ih =>
    obtain ⟨hrest, hfaults⟩ := ih (f s y)
    refine ⟨(hstep s y).trans hrest, fun x hx k b hxk => ?_⟩
    rcases List.mem_cons.1 hx with rfl | hx
    · exact hrest.faults k (hfault s x k b hxk)
    · exact hfaults x hx k b hxk

/-! ### Every request to a module -/

/-- The accesses that a predicate holds of end, and leave their cores with faults. -/
theorem State.endWants_spec (s : State) (gone : Want → Bool) (o : Outc) :
    (s.endWants gone o).net = s.net ∧ (s.endWants gone o).health = s.health ∧
      (∀ k, (s.coreOf k).fault.isSome = true → ((s.endWants gone o).coreOf k).fault.isSome = true) ∧
      (∀ w, w ∈ (s.endWants gone o).wire.wants ∨ w ∈ (s.endWants gone o).wire.reads → gone w = false) ∧
      ∀ w ∈ s.wire.reads, gone w = true → ∀ k b, w.core = some (k, b) → ((s.endWants gone o).coreOf k).fault.isSome = true := by
  unfold State.endWants
  extract_lets mine
  have hmine : ∀ w, w ∈ mine ↔ (w ∈ s.wire.wants ∨ w ∈ s.wire.reads) ∧ gone w = true := fun w => by
    rw [List.mem_filter, List.mem_append]
  split
  · next hnone =>
    have hfew : ∀ w, w ∈ s.wire.wants ∨ w ∈ s.wire.reads → gone w = false := fun w hw => by
      rw [List.isEmpty_iff] at hnone
      by_contra hgone
      have hin := (hmine w).2 ⟨hw, by simpa using hgone⟩
      rw [hnone] at hin
      exact absurd hin List.not_mem_nil
    exact ⟨rfl, rfl, fun _ h => h, hfew, fun w hw hgone => absurd hgone (by rw [hfew w (.inr hw)]; decide)⟩
  · obtain ⟨hends, hfaults⟩ := RequestsEnd.foldl (fun w : Want => w.core) (fun s w => RequestsEnd.endsFor s w.core w.cmd 9 o)
      (fun s w k b hw => by rw [hw]; exact s.endsFor_faulty k b w.cmd 9 o) mine
      (s.setWire { s.wire with wants := s.wire.wants.filter fun w => !gone w, reads := s.wire.reads.filter fun w => !gone w })
    refine ⟨hends.net, hends.health, hends.faults, fun w hw => ?_, fun w hw hgone k b => hfaults w ((hmine w).2 ⟨.inr hw, hgone⟩) k b⟩
    rcases hw with hw | hw
    · rw [hends.wants] at hw
      simpa using (List.mem_filter.1 hw).2
    · simpa using (List.mem_filter.1 (hends.reads w hw)).2

/-- Every request to a module ends: nothing sent to it waits, and no access goes to it. -/
theorem State.endRequests_spec (s : State) (m : Nat) :
    (s.endRequests m).net = { s.net with unacked := s.net.unacked.filter fun t => t.dst != m } ∧ (s.endRequests m).health = s.health ∧
      (∀ w, w ∈ (s.endRequests m).wire.wants ∨ w ∈ (s.endRequests m).wire.reads → w.module ≠ some m) ∧
      (∀ w ∈ s.wire.reads, w.module = some m → ∀ k b, w.core = some (k, b) → ((s.endRequests m).coreOf k).fault.isSome = true) ∧
      ∀ x ∈ s.net.unacked, x.dst = m → x.cmd = none → ∀ k b, x.core = some (k, b) → ((s.endRequests m).coreOf k).fault.isSome = true := by
  unfold State.endRequests
  extract_lets lost net t
  obtain ⟨hnet, hhealth, _, hgone, hreads⟩ := t.endWants_spec (fun w => w.module = some m) (Outc.peer stAbsent m)
  obtain ⟨hends, hfaults⟩ := RequestsEnd.foldl (fun x : TxPkt => x.core) (fun s x => RequestsEnd.accessEnds s x 9 (Outc.peer stAbsent m))
    (fun s x k b hx => by unfold State.accessEnds; rw [hx]; exact State.endsFor_faulty _ k b x.cmd 9 _) lost
    (t.endWants (fun w => w.module = some m) (Outc.peer stAbsent m))
  refine ⟨hends.net.trans hnet, hends.health.trans hhealth, fun w hw hm => ?_, fun w hw hm k b hk => ?_, fun x hx hdst hcmd k b hk => ?_⟩
  · have hstays := hgone w (hw.imp (fun h => hends.wants ▸ h) (hends.reads w))
    exact absurd hm (by simpa using hstays)
  · exact hends.faults k (hreads w hw (decide_eq_true hm) k b hk)
  · refine hfaults x (List.mem_filter.2 ⟨hx, ?_⟩) k b hk
    rw [State.ofCollective, hcmd, hdst]
    simp

end Sys2Proof.Machine
end

section
/-! PROOFS. A module declared absent (R126, R136, R252, R253). -/

namespace Sys2Proof.Machine

/-! ### Maps -/

theorem AMap.mem_drop {α : Type} {m : AMap α} {k : Nat} {e : Nat × α} (h : e ∈ m.drop k) : e ∈ m ∧ e.1 ≠ k := by
  induction m with
  | nil => exact absurd h List.not_mem_nil
  | cons d m ih =>
    rw [AMap.drop] at h
    split at h
    · exact (ih h).imp_left (List.mem_cons_of_mem _)
    · next hd =>
      rcases List.mem_cons.1 h with rfl | h
      · exact ⟨List.mem_cons_self, hd⟩
      · exact (ih h).imp_left (List.mem_cons_of_mem _)

/-- A map's entries that a predicate of the keys keeps. -/
theorem AMap.key_of_get?_keep {α : Type} {m : AMap α} {p : Nat → Bool} {k : Nat} {v : α} (h : (m.keep fun j _ => p j).get? k = some v) : p k = true :=
  (List.mem_filter.1 (AMap.mem_of_get? h)).2

/-! ### Faults counted -/

/-- A fault that resets and retires nothing is counted. -/
theorem State.fault_eq (s : State) (cls : Nat) (ut : Option Nat) (u : BitVec 32) (port : Nat) {outcome : Nat} (inj : Bool) (h : outcome < 3) :
    ∃ hl l c, s.fault cls ut u port outcome inj = ((s.setHealth hl).setLedger l).setCmd c ∧ hl.total = s.health.total + 1 := by
  unfold State.fault
  dsimp only
  rw [if_neg (by omega)]
  exact ⟨_, _, _, rfl, rfl⟩

theorem State.only_counted (s : State) (hl : Health) (l : Ledger) (c : Cmd) : s.only [.health, .ledger, .cmd] (((s.setHealth hl).setLedger l).setCmd c) := by
  refine ⟨rfl, fun p hp => ?_⟩
  cases p <;> simp [State.same] at hp ⊢

/-! ### Pages placed here for a module -/

/-- From `s` to `t` pages placed here for other modules are given up, those under the keys `ks` among them. -/
structure SourceDropped (ks : List Nat) (s t : State) : Prop where
  peers : t.net.peers = s.net.peers
  unacked : t.net.unacked = s.net.unacked
  wire : t.wire = s.wire
  comp : t.comp = s.comp
  health : t.health = s.health
  place : t.place = s.place
  stashIn : ∀ e ∈ t.net.stashIn, e ∈ s.net.stashIn ∧ e.1 ∉ ks

theorem SourceDropped.foldl {f : State → Nat × Nat → State} (h : ∀ s e, SourceDropped [e.1] s (f s e)) (l : List (Nat × Nat)) (s : State) :
    SourceDropped (l.map (·.1)) s (l.foldl f s) := by
  induction l generalizing s with
  | nil => exact ⟨rfl, rfl, rfl, rfl, rfl, rfl, fun e he => ⟨he, List.not_mem_nil⟩⟩
  | cons d l ih =>
    have hd := h s d
    have hl := ih (f s d)
    refine ⟨hl.peers.trans hd.peers, hl.unacked.trans hd.unacked, hl.wire.trans hd.wire, hl.comp.trans hd.comp, hl.health.trans hd.health,
      hl.place.trans hd.place, fun e he => ?_⟩
    obtain ⟨hin, hrest⟩ := hl.stashIn e he
    obtain ⟨hs, hone⟩ := hd.stashIn e hin
    refine ⟨hs, ?_⟩
    rw [List.map_cons, List.mem_cons]
    exact not_or.2 ⟨fun heq => hone (heq ▸ List.mem_singleton_self _), hrest⟩

theorem SourceDropped.dropSource (s : State) (src : Nat) :
    SourceDropped ((s.net.stashIn.filter fun f => f.1 / 2 ^ 36 = src).map (·.1)) s (s.dropSource src) := by
  refine SourceDropped.foldl (fun t d => ?_) _ s
  exact ⟨rfl, rfl, rfl, rfl, rfl, rfl, fun e he => (AMap.mem_drop he).imp_right fun hne => by simpa using hne⟩

theorem State.dropSource_stashIn {s : State} {src : Nat} {e : Nat × Nat} (he : e ∈ (s.dropSource src).net.stashIn) : e.1 / 2 ^ 36 ≠ src := fun hsrc => by
  obtain ⟨hin, hkey⟩ := (SourceDropped.dropSource s src).stashIn e he
  exact hkey (List.mem_map_of_mem (List.mem_filter.2 ⟨hin, decide_eq_true hsrc⟩))

/-! ### Pages that it held -/

/-- A page that a module held is LOST, and none is on its way to it. -/
theorem Page.peerLost_spec (m : Nat) (x : Page) :
    (gaSpace (pageAddr (x.peerLost m).base) = 1 → gaModule (pageAddr (x.peerLost m).base) = m → (x.peerLost m).st = .lost) ∧
      ∀ g, (x.peerLost m).goal = some g → gaSpace (pageAddr g) ≠ 1 ∨ gaModule (pageAddr g) ≠ m := by
  unfold Page.peerLost
  dsimp only
  split
  · exact ⟨fun _ _ => rfl, fun g hg => by cases hg⟩
  · next hbase =>
    have hstays : ∀ p : Prop, gaSpace (pageAddr x.base) = 1 → gaModule (pageAddr x.base) = m → p := fun p hs hm =>
      absurd (show (decide (gaSpace (pageAddr x.base) = 1) && decide (gaModule (pageAddr x.base) = m)) = true by simp [hs, hm]) (by simpa using hbase)
    split
    · exact ⟨hstays _, fun g hg => by cases hg⟩
    · next hgoal =>
      refine ⟨hstays _, fun g hg => ?_⟩
      rw [hg] at hgoal
      by_contra hboth
      rw [not_or, not_not, not_not] at hboth
      exact hgoal (by simp [hboth.1, hboth.2])

/-! ### Absence -/

/-- The pages that a module held are LOST, and the shootdowns that still hold a page go on. -/
def State.lostPages (s : State) (m : Nat) : State :=
  let s := s.setPlace { s.place with berths := s.place.berths.mapVals fun _ b => { b with pages := b.pages.mapVals fun _ x => x.peerLost m } }
  s.setPlace { s.place with shoot := s.place.shoot.filter fun x => ((s.place.berths.get? x.1).bind fun b => b.pages.get? x.2).any (·.held) }

theorem State.lostPages_spec (s : State) (m : Nat) : (s.lostPages m).net = s.net ∧ (s.lostPages m).wire = s.wire ∧ (s.lostPages m).comp = s.comp ∧
    (s.lostPages m).health = s.health ∧ ∀ b ∈ (s.lostPages m).place.berths, ∀ x ∈ b.2.pages,
      (gaSpace (pageAddr x.2.base) = 1 → gaModule (pageAddr x.2.base) = m → x.2.st = .lost) ∧
        ∀ g, x.2.goal = some g → gaSpace (pageAddr g) ≠ 1 ∨ gaModule (pageAddr g) ≠ m := by
  refine ⟨rfl, rfl, rfl, rfl, fun b hb x hx => ?_⟩
  obtain ⟨d, _, rfl⟩ := List.mem_map.1 hb
  obtain ⟨e, _, rfl⟩ := List.mem_map.1 hx
  exact e.2.peerLost_spec m

/-- What follows the declaration of a module's absence. -/
def State.dropPeer (s : State) (m : Nat) : State :=
  let t := ((((((s.planAbsent m).exchAbsent m).simpleAbsent m).endRequests m).lostPages m).dropSource m)
  t.setNet { t.net with rx := t.net.rx.keep (fun k _ => k / 2 ^ 18 != m), txPsn := t.net.txPsn.keep (fun k _ => k / 2 ^ 18 != m),
                        mirror := t.net.mirror.keep (fun k _ => k / 4096 != m) }

/-- A peer as its absence leaves it: its incarnation is one of those declared absent. -/
def Peer.gone (q : Peer) : Peer := { q with present := false, dead := q.inc :: q.dead, mask := 0 }

/-- From `s` to `t` a module is declared absent: what is outstanding to it ends, and what it held or was to receive is given up. -/
structure PeerGone (m : Nat) (s t : State) : Prop where
  peers : t.net.peers = s.net.peers.put m (s.net.peers.getD m Peer.init).gone
  unacked : ∀ x ∈ t.net.unacked, x.dst ≠ m
  rx : ∀ k f, t.net.rx.get? k = some f → k / 2 ^ 18 ≠ m
  mirror : ∀ k e, t.net.mirror.get? k = some e → k / 4096 ≠ m
  total : t.health.total = s.health.total + 1
  stashIn : ∀ f ∈ t.net.stashIn, f.1 / 2 ^ 36 ≠ m
  sent : ∀ x k b, x ∈ s.net.unacked → x.dst = m → x.cmd = none → x.core = some (k, b) → (t.coreOf k).fault.isSome = true
  wants : ∀ w, w ∈ t.wire.wants ∨ w ∈ t.wire.reads → w.module ≠ some m
  reads : ∀ w k b, w ∈ s.wire.reads → w.module = some m → w.core = some (k, b) → (t.coreOf k).fault.isSome = true
  pages : ∀ b ∈ t.place.berths, ∀ x ∈ b.2.pages, (gaSpace (pageAddr x.2.base) = 1 → gaModule (pageAddr x.2.base) = m → x.2.st = .lost) ∧
    ∀ g, x.2.goal = some g → gaSpace (pageAddr g) ≠ 1 ∨ gaModule (pageAddr g) ≠ m

/-- A module's absence is declared: a fault is counted, and the peer's entry shows it. -/
def State.declareGone (s : State) (m : Nat) : State :=
  let t := s.fault 0x10 none 0 m 1 false
  t.setNet { t.net with peers := t.net.peers.put m (s.net.peers.getD m Peer.init).gone }

theorem State.peerGone_eq (s : State) (m : Nat) : s.peerGone m = (s.declareGone m).dropPeer m := by
  unfold State.peerGone State.dropPeer State.lostPages State.declareGone Peer.gone
  with_reducible rfl

theorem State.declareGone_spec (s : State) (m : Nat) :
    (s.declareGone m).net = { s.net with peers := s.net.peers.put m (s.net.peers.getD m Peer.init).gone } ∧
      (s.declareGone m).wire = s.wire ∧ (s.declareGone m).health.total = s.health.total + 1 := by
  obtain ⟨hl, l, c, hfault, htotal⟩ := s.fault_eq 0x10 none 0 m (outcome := 1) false (by decide)
  rw [State.declareGone, hfault]
  exact ⟨rfl, rfl, htotal⟩

theorem PeerGone.peerGone (s : State) (m : Nat) : PeerGone m s (s.peerGone m) := by
  obtain ⟨hnet, hwire, htotal⟩ := s.declareGone_spec m
  rw [State.peerGone_eq, State.dropPeer]
  generalize s.declareGone m = u at hnet hwire htotal ⊢
  have hkept : PeersKept u (((u.planAbsent m).exchAbsent m).simpleAbsent m) :=
    ((PeersKept.planAbsent _ m).trans (PeersKept.exchAbsent _ m)).trans (PeersKept.simpleAbsent _ m)
  generalize ((u.planAbsent m).exchAbsent m).simpleAbsent m = before at hkept ⊢
  obtain ⟨hended, hhealth, hwants, hreads, hsent⟩ := before.endRequests_spec m
  generalize before.endRequests m = ended at hended hhealth hwants hreads hsent ⊢
  obtain ⟨lostNet, lostWire, lostComp, lostHealth, lostPages⟩ := ended.lostPages_spec m
  generalize ended.lostPages m = lost at lostNet lostWire lostComp lostHealth lostPages ⊢
  have hdrop := SourceDropped.dropSource lost m
  have hstash : ∀ f ∈ (lost.dropSource m).net.stashIn, f.1 / 2 ^ 36 ≠ m := fun f hf => State.dropSource_stashIn hf
  generalize lost.dropSource m = t at hdrop hstash ⊢
  have hcore : ∀ k, t.coreOf k = ended.coreOf k := fun k => by unfold State.coreOf; rw [hdrop.comp, lostComp]
  constructor
  case peers =>
    calc t.net.peers = before.net.peers := by rw [hdrop.peers, lostNet, hended]
      _ = _ := by rw [hkept.peers, hnet]
  case unacked =>
    intro x hx
    replace hx : x ∈ t.net.unacked := hx
    rw [hdrop.unacked, lostNet, hended] at hx
    simpa using (List.mem_filter.1 hx).2
  case rx =>
    intro k f hf
    simpa using AMap.key_of_get?_keep (show (t.net.rx.keep fun k _ => k / 2 ^ 18 != m).get? k = some f from hf)
  case mirror =>
    intro k e he
    simpa using AMap.key_of_get?_keep (show (t.net.mirror.keep fun k _ => k / 4096 != m).get? k = some e from he)
  case total =>
    calc t.health.total = before.health.total := by rw [hdrop.health, lostHealth, hhealth]
      _ = s.health.total + 1 := by rw [hkept.total, htotal]
  case stashIn => exact hstash
  case sent =>
    intro x k b hx hdst hcmd hcx
    replace hx : x ∈ u.net.unacked := by rw [hnet]; exact hx
    exact (congrArg (fun c : Core => c.fault.isSome) (hcore k)).trans (hsent x (hkept.sent x hx hcmd) hdst hcmd k b hcx)
  case wants =>
    intro w hw
    replace hw : w ∈ t.wire.wants ∨ w ∈ t.wire.reads := hw
    rw [hdrop.wire, lostWire] at hw
    exact hwants w hw
  case reads =>
    intro w k b hw hm hcw
    rw [← hwire, ← hkept.reads] at hw
    exact (congrArg (fun c : Core => c.fault.isSome) (hcore k)).trans (hreads w hw hm k b hcw)
  case pages =>
    intro b hb
    replace hb : b ∈ t.place.berths := hb
    rw [hdrop.place] at hb
    exact lostPages b hb

end Sys2Proof.Machine
end

section
/-! PROOFS. Heartbeats, the grant mirror and shootdowns (R126, R129, R252, R253, R257). -/

namespace Sys2Proof.Machine

/-! ### Ports in use -/

/-- What a port must show to carry transport traffic. -/
def Port.carries (x : Port) : Bool := x.up && x.checked && (x.cable = .ok || x.cable = .degraded) && !x.shutting && !x.shut

theorem State.inUse_eq (s : State) (p : Nat) : s.inUse p = (s.net.plan.isSome && (s.port p).carries) := by
  simp only [State.inUse, Port.carries, Bool.and_assoc]

theorem Port.robin_carries {x y : Port} {c : Nat} (h : x.robin = some (c, y)) : y.carries = x.carries := by
  unfold Port.robin at h
  dsimp only at h
  split at h
  · cases h
  · cases h; rfl
  · split at h <;> (cases h; rfl)

theorem Port.pick_carries {x y : Port} {now c : Nat} (h : x.pick now = some (c, y)) : y.carries = x.carries := by
  have hsig : ∀ {c y}, (if x.able 0 then some (0, { x with sigAt := now, sigGap := 0 }) else none) = some (c, y) → y.carries = x.carries := by
    intro c y hs
    split at hs <;> cases hs
    rfl
  unfold Port.pick at h
  dsimp only at h
  split at h
  · rw [Option.orElse_eq_orElse, Option.orElse_eq_or, Option.or_eq_some_iff] at h
    rcases h with h | ⟨_, h⟩
    · obtain ⟨⟨d, z⟩, hz, heq⟩ := Option.map_eq_some_iff.1 h
      cases heq
      have hrobin := Port.robin_carries hz
      exact hrobin
    · exact hsig h
  · rw [Option.orElse_eq_orElse, Option.orElse_eq_or, Option.or_eq_some_iff] at h
    rcases h with h | ⟨_, h⟩
    · exact hsig h
    · exact Port.robin_carries h

/-- From `s` to `t` packets have left: what is known of the peers, the plan and the ports in use stays, and nothing that was put out is taken back. -/
structure BeatKept (s t : State) : Prop where
  only : s.only [.net, .out, .free] t
  peers : t.net.peers = s.net.peers
  plan : t.net.plan = s.net.plan
  carries : ∀ p, (t.port p).carries = (s.port p).carries
  out : ∀ o ∈ s.out, o ∈ t.out

theorem BeatKept.refl (s : State) : BeatKept s s := ⟨State.only_refl s _, rfl, rfl, fun _ => rfl, fun _ h => h⟩

theorem BeatKept.trans {s t u : State} (h : BeatKept s t) (g : BeatKept t u) : BeatKept s u where
  only := State.only_trans h.only g.only
  peers := g.peers.trans h.peers
  plan := g.plan.trans h.plan
  carries p := (g.carries p).trans (h.carries p)
  out o ho := g.out o (h.out o ho)

theorem BeatKept.inUse {s t : State} (h : BeatKept s t) (p : Nat) : t.inUse p = s.inUse p := by
  rw [State.inUse_eq, State.inUse_eq, h.plan, h.carries]

theorem BeatKept.portMask {s t : State} (h : BeatKept s t) : t.portMask = s.portMask := by
  unfold State.portMask
  rw [funext h.inUse]

theorem BeatKept.portPlan {s t : State} (h : BeatKept s t) (p : Nat) : t.portPlan p = s.portPlan p := by
  unfold State.portPlan
  rw [h.plan]

theorem BeatKept.updPort (s : State) (p : Nat) {f : Port → Port} (hf : (f (s.port p)).carries = (s.port p).carries) : BeatKept s (s.updPort p f) := by
  refine ⟨(Pumped.updPort s p f).only, rfl, rfl, fun q => ?_, fun _ h => h⟩
  unfold State.port State.updPort
  by_cases hq : q = p
  · subst hq
    exact (congrArg Port.carries (AMap.getD_put_self _ _ _ _)).trans hf
  · exact congrArg Port.carries (AMap.getD_put_other _ _ _ _ _ hq)

theorem BeatKept.emit (s : State) (o : Out) : BeatKept s (s.emit o) := by
  refine ⟨⟨rfl, fun q hq => ?_⟩, rfl, rfl, fun _ => rfl, fun _ h => List.mem_cons_of_mem _ h⟩
  cases q <;> simp [State.same, State.emit] at hq ⊢

theorem BeatKept.pump (s : State) (p fuel : Nat) : BeatKept s (s.pump p fuel) := by
  induction fuel generalizing s with
  | zero => exact BeatKept.refl s
  | succ fuel ih =>
    unfold State.pump
    split
    · split
      · exact BeatKept.refl s
      · next cls x hpick =>
        split
        · exact BeatKept.refl s
        · refine BeatKept.trans ?_ (ih _)
          refine (BeatKept.updPort s p ?_).trans ⟨(Pumped.flitLeaves _ _).only, rfl, rfl, fun _ => rfl, fun _ h => List.mem_cons_of_mem _ h⟩
          have hcarries := Port.pick_carries hpick
          exact hcarries
    · exact BeatKept.refl s

theorem BeatKept.assign (s : State) (p : Nat) (h : BitVec 256) (payload : List Byte) (cmd : Option (Nat × Nat)) : BeatKept s (s.assign p h payload cmd) :=
  (BeatKept.updPort s p rfl).trans (BeatKept.pump _ _ _)

/-! ### Heartbeats that leave -/

theorem BeatKept.beat (s : State) (own m : Nat) : BeatKept s (s.beat own m) := by
  unfold State.beat
  dsimp only
  split
  · exact BeatKept.refl s
  · exact (BeatKept.emit s _).trans (BeatKept.assign _ _ _ _ _)

/-- A heartbeat leaves when a port in use leads to the module. -/
theorem State.beat_sends {s : State} {own m p : Nat} (hp : p < 36) (huse : s.inUse p = true)
    (hleads : s.net.plan.any (·.direct) = true → ∃ e, s.portPlan p = some e ∧ e.2.2 = m) :
    Out.heartbeat m s.ledger.inc (BitVec.ofNat 64 s.portMask) ∈ (s.beat own m).out := by
  unfold State.beat
  extract_lets ps
  have hmem : p ∈ ps := by
    refine List.mem_filter.2 ⟨List.mem_range.2 hp, ?_⟩
    rw [huse, Bool.true_and, Bool.or_eq_true, Bool.not_eq_true']
    cases hdirect : s.net.plan.any (·.direct) with
    | false => exact .inl rfl
    | true =>
      obtain ⟨e, he, hm⟩ := hleads hdirect
      exact .inr (by rw [he]; exact decide_eq_true hm)
  have hpos : 0 < ps.length := List.length_pos_of_mem hmem
  have hin : (s.now / 6250 + m) % max 1 ps.length < ps.length := by
    rw [Nat.max_eq_right hpos]
    exact Nat.mod_lt _ hpos
  rw [List.getElem?_eq_getElem hin]
  exact (BeatKept.assign _ _ _ _ _).out _ List.mem_cons_self

theorem BeatKept.foldl (own : Nat) (l : List Nat) (s : State) : BeatKept s (l.foldl (fun t m => t.beat own m) s) := by
  induction l generalizing s with
  | nil => exact BeatKept.refl s
  | cons m l ih => exact (BeatKept.beat s own m).trans (ih _)

/-- Every module of a list that a port in use leads to gets a heartbeat. -/
theorem State.beats_send {s : State} {own m p : Nat} {l : List Nat} (hm : m ∈ l) (hp : p < 36) (huse : s.inUse p = true)
    (hleads : s.net.plan.any (·.direct) = true → ∃ e, s.portPlan p = some e ∧ e.2.2 = m) :
    Out.heartbeat m s.ledger.inc (BitVec.ofNat 64 s.portMask) ∈ (l.foldl (fun t m => t.beat own m) s).out := by
  induction l generalizing s with
  | nil => exact absurd hm List.not_mem_nil
  | cons j l ih =>
    rw [List.foldl_cons]
    have hbeat := BeatKept.beat s own j
    rcases List.mem_cons.1 hm with rfl | hm
    · exact (BeatKept.foldl own l _).out _ (State.beat_sends hp huse hleads)
    · have hsent := ih (s := s.beat own j) hm (by rw [hbeat.inUse, huse]) (by rw [hbeat.plan, hbeat.portPlan]; exact hleads)
      have hledger : (s.beat own j).ledger = s.ledger := hbeat.only.2 .ledger (by decide)
      rwa [hbeat.portMask, hledger] at hsent

/-- Some port is in use where the mask of ports in use is not 0. -/
theorem State.exists_inUse {s : State} (h : s.portMask ≠ 0) : ∃ p < 36, s.inUse p = true := by
  by_contra hnone
  refine h ?_
  have hempty : (List.range 36).filter s.inUse = [] :=
    List.filter_eq_nil_iff.2 fun p hp huse => hnone ⟨p, List.mem_range.1 hp, huse⟩
  rw [State.portMask, hempty]
  rfl

theorem heartbeatSend_spec {s : State} {c : CablePlan} (hplan : s.net.plan = some c) (hclock : s.clocked = true) (hmask : s.portMask ≠ 0)
    (hdue : s.net.hbAt + 6250 ≤ s.now) : Answers (exec .heartbeatSend s) fun t => t.net.hbAt = s.now ∧
    s.only [.net, .out, .free] t ∧ t.net.peers = s.net.peers ∧ ∀ m ∈ c.fps.keyList, m ≠ c.own → (c.direct = true → ∃ p < 36, s.inUse p = true ∧
      ∃ e, s.portPlan p = some e ∧ e.2.2 = m) → Out.heartbeat m s.ledger.inc (BitVec.ofNat 64 s.portMask) ∈ t.out := by
  have hexec : exec .heartbeatSend s = s.when (s.clocked && s.portMask != 0 && s.after s.net.hbAt 250)
      (((c.fps.keyList.filter (· != c.own)).foldl (fun t m => t.beat c.own m) s).setNet
        { ((c.fps.keyList.filter (· != c.own)).foldl (fun t m => t.beat c.own m) s).net with hbAt := s.now }) := by
    show execHeartbeatSend s = _
    unfold execHeartbeatSend
    rw [hplan]
  rw [hexec, State.when_eq (by
    rw [hclock, Bool.true_and, Bool.and_eq_true]
    exact ⟨by simpa using hmask, decide_eq_true (by simpa [ticksPerUs] using hdue)⟩)]
  have hkept := BeatKept.foldl c.own (c.fps.keyList.filter (· != c.own)) s
  refine ⟨_, rfl, rfl, State.only_trans hkept.only ⟨rfl, fun q hq => ?_⟩, hkept.peers, fun m hm hne hdirect => ?_⟩
  · cases q <;> simp [State.same] at hq ⊢
  · have hlist : m ∈ c.fps.keyList.filter (· != c.own) := List.mem_filter.2 ⟨hm, by simpa using hne⟩
    show _ ∈ ((c.fps.keyList.filter (· != c.own)).foldl (fun t m => t.beat c.own m) s).out
    cases hd : c.direct with
    | true =>
      obtain ⟨p, hp, huse, hleads⟩ := hdirect hd
      exact State.beats_send hlist hp huse fun _ => hleads
    | false =>
      obtain ⟨p, hp, huse⟩ := State.exists_inUse hmask
      exact State.beats_send hlist hp huse fun h => by rw [hplan, Option.any_some, hd] at h; cases h

/-! ### Heartbeats that arrive -/

/-- A heartbeat of a peer that a port in use and the domain lead to. -/
def State.hears (s : State) (p : TPacket) : Prop := hType p.hdr = 8 ∧ s.clocked = true ∧ p.port < 36 ∧ s.inUse p.port = true ∧
  s.ownIndex = some (hDst p.hdr) ∧ (s.net.plan.any (·.direct) = true → ∃ e, s.portPlan p.port = some e ∧ e.2.2 = hSrc p.hdr)

/-- The peer that a heartbeat shows. -/
def Peer.shown (q : Peer) (p : TPacket) (now : Nat) : Peer :=
  { q with present := true, inc := hInc p.hdr, lastAt := now, mask := BitVec.ofNat 64 (leNat (p.payload.take 8)) }

/-- What a heartbeat finds: the state, after the end of an earlier incarnation that is still present. -/
def State.newIncarnation (s : State) (p : TPacket) : State :=
  if (s.net.peers.getD (hSrc p.hdr) Peer.init).present && (s.net.peers.getD (hSrc p.hdr) Peer.init).inc != hInc p.hdr then s.peerGone (hSrc p.hdr) else s

theorem heartbeat_eq {s : State} {p : TPacket} (h : s.hears p) : exec (.heartbeat p) s =
    if crc32c p.payload ≠ hPcrc p.hdr then .next (s.fault 0x0F none 0 p.port 0 false)
    else if hInc p.hdr ∈ ((s.newIncarnation p).net.peers.getD (hSrc p.hdr) Peer.init).dead then .next s
    else .next ((s.newIncarnation p).setNet { (s.newIncarnation p).net with
      peers := (s.newIncarnation p).net.peers.put (hSrc p.hdr) (((s.newIncarnation p).net.peers.getD (hSrc p.hdr) Peer.init).shown p s.now) }) := by
  obtain ⟨htype, hclock, hport, huse, hown, hleads⟩ := h
  have hplan : (!s.net.plan.any (·.direct) || (s.portPlan p.port).any fun e => e.2.2 = hSrc p.hdr) = true := by
    cases hdirect : s.net.plan.any (·.direct) with
    | false => rfl
    | true =>
      obtain ⟨e, he, hm⟩ := hleads hdirect
      rw [he]
      exact decide_eq_true hm
  show execHeartbeat p s = _
  have hexec : execHeartbeat p s = s.when (crc32c p.payload != hPcrc p.hdr || !((s.newIncarnation p).net.peers.getD (hSrc p.hdr) Peer.init).dead.contains (hInc p.hdr))
      (if crc32c p.payload != hPcrc p.hdr then s.fault 0x0F none 0 p.port 0 false
      else (s.newIncarnation p).setNet { (s.newIncarnation p).net with
        peers := (s.newIncarnation p).net.peers.put (hSrc p.hdr) (((s.newIncarnation p).net.peers.getD (hSrc p.hdr) Peer.init).shown p s.now) }) := by
    unfold execHeartbeat
    simp only [hplan, htype, hclock, hport, huse, hown, decide_true, Bool.true_and]
    rfl
  rw [hexec, State.when]
  by_cases hbad : crc32c p.payload = hPcrc p.hdr
  · by_cases hdead : hInc p.hdr ∈ ((s.newIncarnation p).net.peers.getD (hSrc p.hdr) Peer.init).dead <;> simp [hbad, hdead]
  · simp [hbad]

/-- A heartbeat whose payload is corrupt is counted, and nothing else. -/
theorem heartbeat_corrupt {s : State} {p : TPacket} (h : s.hears p) (hbad : crc32c p.payload ≠ hPcrc p.hdr) :
    Answers (exec (.heartbeat p) s) fun t => t.net = s.net ∧ t.health.total = s.health.total + 1 ∧ s.only [.health, .ledger, .cmd] t := by
  obtain ⟨hl, l, c, hfault, htotal⟩ := s.fault_eq 0x0F none 0 p.port (outcome := 0) false (by decide)
  rw [heartbeat_eq h, if_pos hbad, hfault]
  exact ⟨_, rfl, rfl, htotal, s.only_counted hl l c⟩

/-- A heartbeat of the incarnation that is known, or of a peer not present, shows the peer, or is discarded. -/
theorem heartbeat_known {s : State} {p : TPacket} (h : s.hears p) (hgood : crc32c p.payload = hPcrc p.hdr) {q : Peer}
    (hq : q = s.net.peers.getD (hSrc p.hdr) Peer.init) (hknown : q.present = false ∨ q.inc = hInc p.hdr) :
    (hInc p.hdr ∈ q.dead → exec (.heartbeat p) s = .next s) ∧
      (hInc p.hdr ∉ q.dead → exec (.heartbeat p) s = .next (s.setNet { s.net with peers := s.net.peers.put (hSrc p.hdr) (q.shown p s.now) })) := by
  have hsame : s.newIncarnation p = s := by
    rw [State.newIncarnation, ← hq]
    exact if_neg (by rcases hknown with hk | hk <;> simp [hk])
  rw [heartbeat_eq h, if_neg (not_not.2 hgood), hsame, ← hq]
  exact ⟨fun hdead => if_pos hdead, fun hdead => if_neg hdead⟩

/-- A heartbeat of a new incarnation ends the old one. -/
theorem heartbeat_new {s : State} {p : TPacket} (h : s.hears p) (hgood : crc32c p.payload = hPcrc p.hdr) {q : Peer}
    (hq : q = s.net.peers.getD (hSrc p.hdr) Peer.init) (hpresent : q.present = true) (hinc : q.inc ≠ hInc p.hdr) (hdead : hInc p.hdr ∉ q.dead) :
    Answers (exec (.heartbeat p) s) fun t => ∃ y, t.net.peers.get? (hSrc p.hdr) = some y ∧ y.present = true ∧
      y.inc = hInc p.hdr ∧ q.inc ∈ y.dead ∧ (∀ x ∈ t.net.unacked, x.dst ≠ hSrc p.hdr) ∧ t.health.total = s.health.total + 1 := by
  have hended : s.newIncarnation p = s.peerGone (hSrc p.hdr) := by
    rw [State.newIncarnation, ← hq]
    exact if_pos (by simp [hpresent, hinc])
  have hgone := PeerGone.peerGone s (hSrc p.hdr)
  rw [heartbeat_eq h, if_neg (not_not.2 hgood), hended]
  generalize s.peerGone (hSrc p.hdr) = u at hgone ⊢
  have hpeer : u.net.peers.getD (hSrc p.hdr) Peer.init = q.gone := by rw [hgone.peers, AMap.getD_put_self, hq]
  rw [hpeer, if_neg (show hInc p.hdr ∉ q.gone.dead from fun hin => (List.mem_cons.1 hin).elim (fun he => hinc he.symm) hdead)]
  exact ⟨_, rfl, q.gone.shown p s.now, AMap.get?_put_self _ _ _, rfl, rfl, List.mem_cons_self, hgone.unacked, hgone.total⟩

/-! ### Absence -/

/-- A peer that falls silent is declared absent. -/
theorem peerAbsent_eq {s : State} {m : Nat} {q : Peer} (hclock : s.clocked = true) (hq : s.net.peers.get? m = some q) (hpresent : q.present = true)
    (hsilent : q.lastAt + 37500 ≤ s.now ∨ s.net.plan.any (·.direct) = true ∧ ∀ p < 36, (∃ e, s.portPlan p = some e ∧ e.2.2 = m) → (s.port p).up = false) :
    exec (.peerAbsent m) s = .next (s.peerGone m) := by
  have hpeer : s.net.peers.getD m Peer.init = q := by rw [AMap.getD, hq]; rfl
  show execPeerAbsent m s = _
  unfold execPeerAbsent
  dsimp only
  rw [hpeer]
  refine State.when_eq ?_
  rw [hclock, hpresent, Bool.true_and, Bool.true_and, Bool.or_eq_true]
  refine hsilent.imp (fun hlate => decide_eq_true (by simpa [ticksPerUs] using hlate)) fun hcut => ?_
  rw [hcut.1, Bool.true_and, List.all_eq_true]
  intro p hp
  obtain ⟨hrange, hleads⟩ := List.mem_filter.1 hp
  obtain ⟨e, he, hm⟩ := (Option.any_eq_true _ _).1 hleads
  rw [hcut.2 p (List.mem_range.1 hrange) ⟨e, he, of_decide_eq_true hm⟩]
  rfl

/-! ### Grants and shootdowns -/

/-- The pages under a removed window of stash room are LOST. -/
theorem State.windowGone_spec (s : State) (src w : Nat) : s.only [.place] (s.windowGone src w) ∧ (s.windowGone src w).net = s.net ∧
    (s.windowGone src w).place = { s.place with berths := (s.windowGone src w).place.berths } ∧
    ∀ b ∈ (s.windowGone src w).place.berths, ∀ y ∈ b.2.pages,
      (src < 128 → gaSpace (pageAddr y.2.base) = 1 → gaModule (pageAddr y.2.base) = src → (∀ z ∈ s.net.mirror, z.1 / 4096 = src → z.2.getLsbD 25 = false) →
        y.2.st = .lost) ∧
      (256 ≤ src → gaSpace (pageAddr y.2.base) = 2 → pageAddr y.2.base / 2 ^ 52 % 256 = src - 256 → pageAddr y.2.base / 2 ^ 40 % 4096 = w → y.2.st = .lost) := by
  refine ⟨State.only_setPlace s _, rfl, rfl, fun b hb y hy => ?_⟩
  obtain ⟨d, _, rfl⟩ := List.mem_map.1 hb
  obtain ⟨e, _, rfl⟩ := List.mem_map.1 hy
  dsimp only
  split
  case isTrue hnear =>
    refine ⟨fun _ hspace hmod hroom => ?_, fun hfar => by omega⟩
    have hnone : (s.net.mirror.any fun e => e.1 / 4096 = src && e.2.getLsbD 25) = false := by
      rw [List.any_eq_false]
      intro z hz
      rw [Bool.and_eq_true, decide_eq_true_eq]
      rintro ⟨hz1, hz2⟩
      rw [hroom z hz hz1] at hz2
      cases hz2
    split at hspace
    · next hlost => rw [if_pos hlost]
    · next hstays =>
      rw [if_neg hstays] at hmod
      exact absurd (by rw [hnone, decide_eq_true hspace, decide_eq_true hmod]; rfl) hstays
  case isFalse hfar =>
    refine ⟨fun hnear => absurd hnear hfar, fun _ hspace hep hwin => ?_⟩
    split at hspace
    · next hlost => rw [if_pos hlost]
    · next hstays =>
      rw [if_neg hstays] at hep hwin
      exact absurd (by rw [decide_eq_true hspace, decide_eq_true hep, decide_eq_true hwin]; rfl) hstays

/-- What a window's entry does to the mirror. -/
theorem grantMirror_eq {s : State} {src w : Nat} (e : BitVec 256) (hclock : s.clocked = true) (hw : w < 4096)
    (hsrc : src < 128 ∧ s.peerPresent src = true ∨ 256 ≤ src ∧ s.farPresent (src - 256) = true) : exec (.grantMirror src w e) s =
    .next (if e.getLsbD 40 then s.setNet { s.net with mirror := s.net.mirror.put (4096 * src + w) e }
      else if (s.net.mirror.get? (4096 * src + w)).any fun o => o.getLsbD 25 then
        (s.setNet { s.net with mirror := s.net.mirror.drop (4096 * src + w) }).windowGone src w
      else s.setNet { s.net with mirror := s.net.mirror.drop (4096 * src + w) }) := by
  show execGrantMirror src w e s = _
  unfold execGrantMirror
  dsimp only
  rw [Nat.mul_comm src 4096]
  refine State.when_eq ?_
  rw [hclock, decide_eq_true hw]
  rcases hsrc with ⟨hnear, hhere⟩ | ⟨hfar, hhere⟩
  · rw [if_pos hnear, hhere]; rfl
  · rw [if_neg (by omega), hhere, decide_eq_true hfar]; rfl

/-- A shootdown removes its page's entry from every set, and no other entry. -/
theorem shootdown_spec (s : State) (h : BitVec 32) (page : Nat) (hclock : s.clocked = true) : Answers (exec (.shootdown h page) s) fun t =>
    s.only [.place] t ∧ t.place = { s.place with tcs := t.place.tcs } ∧ (∀ k l, t.place.tcs.get? k = some l → (h, page) ∉ l) ∧
      ∀ k l e, s.place.tcs.get? k = some l → e ≠ (h, page) → e ∈ l → ∃ l', t.place.tcs.get? k = some l' ∧ e ∈ l' := by
  refine ⟨_, State.when_eq hclock, State.only_setPlace s _, rfl, fun k l hl => ?_, fun k l e hl hne he => ?_⟩
  · replace hl : (s.place.tcs.mapVals fun _ ws => ws.filter (· != (h, page))).get? k = some l := hl
    rw [AMap.get?_mapVals] at hl
    obtain ⟨l', _, rfl⟩ := Option.map_eq_some_iff.1 hl
    simp
  · refine ⟨l.filter (· != (h, page)), ?_, List.mem_filter.2 ⟨he, by simpa using hne⟩⟩
    show (s.place.tcs.mapVals fun _ ws => ws.filter (· != (h, page))).get? k = _
    rw [AMap.get?_mapVals, hl]
    rfl

/-- Settles O54: an absence ends what is outstanding in the order that `State.peerGone` gives it, and none of its steps undoes another. -/
theorem presence : Obligations.Presence := by
  unfold Obligations.Presence
  refine ⟨fun s p m q hm hq htype hclock hport huse hown hleads => ?_, fun s c => heartbeatSend_spec, fun s m q hclock hq hpresent hsilent => ?_,
    fun s src w e hclock hw hsrc => ?_, fun s h page => shootdown_spec s h page⟩
  · subst hm
    have hhears : s.hears p := ⟨htype, hclock, hport, huse, hown, hleads⟩
    exact ⟨heartbeat_corrupt hhears, fun hgood hknown => heartbeat_known hhears hgood hq hknown, fun hgood => heartbeat_new hhears hgood hq⟩
  · have hgone := PeerGone.peerGone s m
    have hpeer : (s.peerGone m).net.peers.get? m = some q.gone := by
      rw [hgone.peers, AMap.get?_put_self]
      unfold AMap.getD
      rw [hq]
      rfl
    rw [peerAbsent_eq hclock hq hpresent hsilent]
    refine ⟨_, rfl, ?_, ⟨_, hpeer, List.mem_cons_self, rfl⟩, hgone.unacked, hgone.rx, hgone.mirror, hgone.total, hgone.stashIn, hgone.sent, hgone.wants,
      hgone.reads, hgone.pages⟩
    rw [State.peerPresent, hpeer]
    rfl
  · rw [grantMirror_eq e hclock hw hsrc]
    refine ⟨fun hvalid => by rw [if_pos hvalid], fun hclear hno => ?_, fun o hclear ho hroom => ?_⟩
    · rw [if_neg (by rw [hclear]; decide), if_neg]
      rintro hany
      obtain ⟨o, ho, hroom⟩ := (Option.any_eq_true _ _).1 hany
      rw [hno o ho] at hroom
      cases hroom
    · rw [if_neg (by rw [hclear]; decide), if_pos (by rw [ho]; exact hroom)]
      obtain ⟨honly, hnet, hplace, hpages⟩ := (s.setNet { s.net with mirror := s.net.mirror.drop (4096 * src + w) }).windowGone_spec src w
      have hmirror : s.only [.net, .place] (s.setNet { s.net with mirror := s.net.mirror.drop (4096 * src + w) }) := by
        refine ⟨rfl, fun p hp => ?_⟩
        cases p <;> simp [State.same] at hp ⊢
      refine ⟨_, rfl, State.only_trans hmirror (State.only_mono (by simp) honly), hnet, hplace, fun b hb y hy => ?_⟩
      rw [hnet]
      exact hpages b hb y hy

end Sys2Proof.Machine
end

section
/-! PROOFS. What the ends of instances and a forced reset leave of the units (R112, R317, R319, R336, R337): which clusters serve, the health of the
cores, and the attention causes. -/

namespace Sys2Proof.Machine

/-- From `s` to `t` every cluster's service, every core's health and the attention causes stay, and where nothing waited to start, nothing does. -/
structure UnitsKept (s t : State) : Prop where
  svc : ∀ c, (t.cluster c).svc = (s.cluster c).svc
  retire : ∀ c, (t.cluster c).retireAfter = (s.cluster c).retireAfter
  cores : t.chip.cores = s.chip.cores
  side : t.side = s.side
  starts : s.noStart → t.noStart

theorem UnitsKept.still {s t : State} (hchip : t.chip = s.chip) (hside : t.side = s.side) (hinsts : t.comp.insts = s.comp.insts) : UnitsKept s t :=
  ⟨fun c => by rw [State.cluster, hchip]; rfl, fun c => by rw [State.cluster, hchip]; rfl, by rw [hchip], hside,
    fun h e he => h e (by rwa [hinsts] at he)⟩

theorem UnitsKept.refl (s : State) : UnitsKept s s := UnitsKept.still rfl rfl rfl

theorem UnitsKept.trans {s t u : State} (h : UnitsKept s t) (g : UnitsKept t u) : UnitsKept s u where
  svc c := (g.svc c).trans (h.svc c)
  retire c := (g.retire c).trans (h.retire c)
  cores := g.cores.trans h.cores
  side := g.side.trans h.side
  starts hs := g.starts (h.starts hs)

theorem UnitsKept.ite {s t u : State} {c : Prop} [Decidable c] (h : UnitsKept s t) (g : UnitsKept s u) : UnitsKept s (if c then t else u) := by
  split
  · exact h
  · exact g

theorem UnitsKept.foldl {α : Type} {f : State → α → State} (h : ∀ s x, UnitsKept s (f s x)) (l : List α) (s : State) : UnitsKept s (l.foldl f s) := by
  induction l generalizing s with
  | nil => exact UnitsKept.refl s
  | cons x l ih => exact (h s x).trans (ih _)

theorem TouchKept.unitsKept {s t : State} (h : TouchKept s t) : UnitsKept s t := UnitsKept.still h.chip h.side (by rw [h.comp])

/-! ### Clusters and cores -/

/-- A change of a cluster that leaves its service. -/
theorem UnitsKept.updCluster (s : State) (c : Nat) {f : Cluster → Cluster} (hsvc : (f (s.cluster c)).svc = (s.cluster c).svc)
    (hretire : (f (s.cluster c)).retireAfter = (s.cluster c).retireAfter) : UnitsKept s (s.updCluster c f) := by
  refine ⟨fun j => ?_, fun j => ?_, rfl, rfl, fun h => h⟩ <;> by_cases hj : j = c
  · subst hj; rw [State.cluster_updCluster_self, hsvc]
  · rw [State.cluster_updCluster_other _ _ hj]
  · subst hj; rw [State.cluster_updCluster_self, hretire]
  · rw [State.cluster_updCluster_other _ _ hj]

theorem UnitsKept.updCore (s : State) (k : Nat) (f : Core → Core) : UnitsKept s (s.updCore k f) := UnitsKept.still rfl rfl rfl

theorem UnitsKept.nextThin (s : State) (c : Nat) : UnitsKept s (s.nextThin c) := by
  unfold State.nextThin
  refine UnitsKept.ite (UnitsKept.refl s) ?_
  split
  · exact UnitsKept.updCluster s c (by split <;> rfl) (by split <;> rfl)
  · exact UnitsKept.refl s

/-! ### A core runs nothing -/

theorem UnitsKept.dropHeld (s : State) (k : Nat) : UnitsKept s (s.dropHeld k) := by
  obtain ⟨gs, hgroups⟩ := State.updGroup_eq s k fun g => (s.coreOf k).consumed.foldl (fun g c => g.post c.1 c.2) g
  rw [State.dropHeld, hgroups]
  exact UnitsKept.still rfl rfl rfl

theorem UnitsKept.disown (s : State) (k : Nat) : UnitsKept s (s.disown k) :=
  UnitsKept.ite (UnitsKept.still rfl rfl rfl) (UnitsKept.still rfl rfl rfl)

theorem UnitsKept.freeCore (s : State) (k : Nat) : UnitsKept s (s.freeCore k) := by
  unfold State.freeCore
  extract_lets c old blank emptied comp unsent alone thin
  have hunsent : UnitsKept s unsent := UnitsKept.still rfl rfl rfl
  have halone : UnitsKept s alone := hunsent.trans (UnitsKept.disown unsent k)
  have hthin : UnitsKept alone thin := UnitsKept.ite ((UnitsKept.updCluster _ _ rfl rfl).trans (UnitsKept.nextThin _ _)) (UnitsKept.refl _)
  exact (halone.trans hthin).trans (UnitsKept.ite (UnitsKept.updCluster _ _ rfl rfl) (UnitsKept.refl _))

/-! ### Instances that end -/

/-- A change of one of the instances that makes none wait. -/
theorem UnitsKept.updInst (s : State) (i : Nat) {f : Inst → Inst} (hf : ∀ x, (f x).st = .waiting → x.st = .waiting) : UnitsKept s (s.updInst i f) := by
  unfold State.updInst
  split
  · exact UnitsKept.refl s
  · next x hx =>
    refine ⟨fun _ => rfl, fun _ => rfl, rfl, rfl, fun h e he => ?_⟩
    rcases AMap.of_mem_put he with rfl | he
    · exact fun hwaits => h (i, x) (AMap.mem_of_get? hx) (hf x hwaits)
    · exact h e he

theorem UnitsKept.launchCheck (s : State) (l : Nat) : UnitsKept s (s.launchCheck l) := by
  refine ⟨fun c => ?_, fun c => ?_, ?_, ?_, fun h e he => h e (State.launchCheck_insts s l e he)⟩ <;>
  · unfold State.launchCheck
    split
    · rfl
    · dsimp only
      split <;> rfl

theorem UnitsKept.endInst (s : State) (i status : Nat) (f : Option FaultRec) : UnitsKept s (s.endInst i status f) := by
  unfold State.endInst
  split
  · exact UnitsKept.refl s
  · refine UnitsKept.trans (UnitsKept.trans ?_ (UnitsKept.updInst _ _ fun _ h => by cases h)) (UnitsKept.launchCheck _ _)
    split
    · exact (UnitsKept.dropHeld s _).trans (UnitsKept.freeCore _ _)
    · exact UnitsKept.refl s

theorem UnitsKept.endOthers (s : State) (l status : Nat) : UnitsKept s (s.endOthers l status) := by
  refine UnitsKept.foldl (fun t e => ?_) _ s
  split
  · exact UnitsKept.updCore t _ _
  · exact UnitsKept.endInst t _ _ _

theorem UnitsKept.faultEnd (s : State) (k status : Nat) (f : FaultRec) : UnitsKept s (s.faultEnd k status f) := by
  unfold State.faultEnd
  split
  · exact UnitsKept.refl s
  · exact (UnitsKept.endInst s _ _ _).trans (UnitsKept.endOthers _ _ _)

/-- An interval put aside for a replay, after a fault that was not the core's own. -/
theorem UnitsKept.replayLater (s : State) (k : Nat) (residue : Bool) : UnitsKept s (s.replayLater k residue false) := by
  unfold State.replayLater
  split
  · exact UnitsKept.refl s
  · next i hi =>
    have hsuspend : UnitsKept s (s.suspend k) := by
      unfold State.suspend
      rw [hi]
      exact ((UnitsKept.dropHeld s k).trans (UnitsKept.freeCore _ k)).trans (UnitsKept.updInst _ i fun _ h => by cases h)
    simp only [Bool.not_false, Bool.or_true, if_true]
    exact hsuspend.trans (UnitsKept.updInst _ i fun _ h => h)

/-! ### Starting what waits -/

theorem UnitsKept.askLeave (s : State) (c : Nat) : UnitsKept s (s.askLeave c) := by
  unfold State.askLeave
  exact UnitsKept.foldl (fun t e => UnitsKept.updCore t _ _) _ s

theorem UnitsKept.askForReplay (s : State) (x : Inst) : UnitsKept s (s.askForReplay x) := by
  unfold State.askForReplay
  refine UnitsKept.ite ?_ (UnitsKept.refl s)
  split
  · exact UnitsKept.askLeave s _
  · exact UnitsKept.refl s

/-- Where none of the instances waits to start, starting what waits leaves the units as they are. -/
theorem UnitsKept.startWaiting {s : State} (h : s.noStart) : UnitsKept s s.startWaiting := by
  unfold State.startWaiting
  dsimp only
  generalize hasked : List.foldl (fun s (e : Nat × Inst) => s.askForReplay e.2) s _ = t
  have hask : UnitsKept s t := hasked ▸ UnitsKept.foldl (fun u (e : Nat × Inst) => UnitsKept.askForReplay u e.2) _ s
  have hnone : ∀ filler, t.waitingGroups filler = [] := State.waitingGroups_nil (hask.starts h)
  rw [hnone, List.foldl_nil, hnone, List.foldl_nil, ite_self]
  exact hask

end Sys2Proof.Machine
end

section
/-! PROOFS. A forced reset of a cluster (R334, R336, R337). -/

namespace Sys2Proof.Machine

theorem UnitsKept.targetReset (s : State) (k slot bundle : Nat) : UnitsKept s (s.targetReset k slot bundle) := UnitsKept.still rfl rfl rfl

theorem UnitsKept.resetAddends (s : State) (c : Nat) : UnitsKept s (s.resetAddends c) := by
  have hfew : ∀ as, UnitsKept s (s.setComp { s.comp with addends := as }) := fun _ => UnitsKept.still rfl rfl rfl
  unfold State.resetAddends
  exact (hfew _).trans (UnitsKept.foldl (fun t _ => UnitsKept.targetReset t _ _ _) _ _)

theorem UnitsKept.resetAccesses (s : State) (c k : Nat) : UnitsKept s (s.resetAccesses c k) := by
  unfold State.resetAccesses
  refine UnitsKept.ite (UnitsKept.refl s) ?_
  split
  · exact UnitsKept.refl s
  · exact (UnitsKept.updCore s k _).trans (UnitsKept.targetReset _ k _ _)

theorem UnitsKept.dropReplicas (s : State) (c : Nat) : UnitsKept s (s.dropReplicas c) := (TouchKept.dropWhere s _).unitsKept

theorem UnitsKept.dropLines (s : State) (c : Nat) : UnitsKept s (s.dropLines c) :=
  ((TouchKept.setPlace_same (by rfl)).trans (TouchKept.foldl TouchKept.lineGone _ _)).unitsKept

theorem UnitsKept.forgetCores (s : State) (c : Nat) : UnitsKept s (s.forgetCores c) := by
  refine UnitsKept.foldl (fun t k => ?_) _ s
  exact UnitsKept.still rfl rfl rfl

/-- A forced reset holds its cluster, to be retired if it was to be or is now, and leaves the service of the others. -/
theorem State.forcedReset_eq (s : State) (c : Nat) (retire : Bool) :
    ∃ t, UnitsKept s t ∧ UnitsKept (t.updCluster c fun x => { x with svc := .resetting, retireAfter := x.retireAfter || retire }) (s.forcedReset c retire) := by
  refine ⟨s.resetAddends c, UnitsKept.resetAddends s c, ?_⟩
  unfold State.forcedReset
  extract_lets t u v w hold place x
  have hv : UnitsKept u v := UnitsKept.foldl (fun s k => UnitsKept.resetAccesses s c k) _ u
  have hw : UnitsKept v w := UnitsKept.foldl (fun s _ => UnitsKept.ite (UnitsKept.replayLater s _ _) (UnitsKept.faultEnd s _ _ _)) _ v
  have hx : UnitsKept w x := UnitsKept.still rfl rfl rfl
  exact ((hv.trans hw).trans hx).trans (((UnitsKept.dropReplicas _ c).trans (UnitsKept.dropLines _ c)).trans (UnitsKept.forgetCores _ c))

theorem State.forcedReset_spec {s : State} (c : Nat) (retire : Bool) (h : s.noStart) :
    ((s.forcedReset c retire).startWaiting.cluster c).svc = .resetting ∧
      ((s.forcedReset c retire).startWaiting.cluster c).retireAfter = ((s.cluster c).retireAfter || retire) ∧
      (s.forcedReset c retire).startWaiting.side = s.side := by
  obtain ⟨t, hbefore, hafter⟩ := s.forcedReset_eq c retire
  have hstart := UnitsKept.startWaiting (hafter.starts (hbefore.starts h))
  refine ⟨?_, ?_, ?_⟩
  · rw [hstart.svc, hafter.svc, State.cluster_updCluster_self]
  · rw [hstart.retire, hafter.retire, State.cluster_updCluster_self, hbefore.retire]
  · rw [hstart.side, hafter.side]; exact hbefore.side

theorem State.noneWaiting.noStart {s : State} (h : s.noneWaiting) : s.noStart := fun e he => (h e he).1

end Sys2Proof.Machine
end

section
/-! PROOFS. What a module reset leaves (R317, R338, R342, R344, R349, R372). -/

namespace Sys2Proof.Machine

/-- Memory of which some keys are kept reads there as it did, and 0 elsewhere. -/
theorem cellGet_filter (p : Nat → Bool) (cells : List Host.Cell) (a : Nat) :
    cellGet (cells.filter fun c => p c.1) a = if p a then cellGet cells a else 0 := by
  induction cells with
  | nil => rw [List.filter_nil, cellGet, ite_self]
  | cons c cells ih =>
    by_cases hc : p c.1 = true
    · simp only [List.filter_cons, hc, if_true]
      rw [cellGet, cellGet, ih]
      by_cases ha : c.1 = a
      · rw [if_pos ha, if_pos ha, if_pos (ha ▸ hc)]
      · rw [if_neg ha, if_neg ha]
    · simp only [List.filter_cons, hc, Bool.false_eq_true, if_false]
      rw [ih, cellGet]
      by_cases ha : c.1 = a
      · rw [if_neg (ha ▸ hc), if_neg (ha ▸ hc)]
      · rw [if_neg ha]

/-! ### What volatile state is lost -/

/-- Of a reset state a start-up, or the way to recovery, changes what Cricket and the Ledger keep, and little of that. -/
structure StartKept (s t : State) : Prop where
  only : s.only [.side, .ledger] t
  wire : t.wire = s.wire
  cause : t.side.resetCause = s.side.resetCause
  inc : t.side.resetInc = s.side.resetInc
  attn : s.side.attnCause.getLsbD 5 = true → t.side.attnCause.getLsbD 5 = true
  ready : t.side.ready = s.side.ready
  pg : t.side.pg = s.side.pg
  harts : t.side.harts = s.side.harts
  snapAt : t.ledger.snapAt = s.ledger.snapAt

theorem State.only_setSideLedger (s : State) (d : Side) (l : Ledger) : s.only [.side, .ledger] ((s.setSide d).setLedger l) := by
  refine ⟨rfl, fun p hp => ?_⟩
  cases p <;> simp [State.same] at hp ⊢

theorem StartKept.setSide (s : State) {d : Side} (hcause : d.resetCause = s.side.resetCause) (hinc : d.resetInc = s.side.resetInc)
    (hattn : s.side.attnCause.getLsbD 5 = true → d.attnCause.getLsbD 5 = true) (hready : d.ready = s.side.ready) (hpg : d.pg = s.side.pg)
    (hharts : d.harts = s.side.harts) : StartKept s (s.setSide d) :=
  ⟨s.only_setSideLedger d s.ledger, rfl, hcause, hinc, hattn, hready, hpg, hharts, rfl⟩

theorem StartKept.tryStart (s : State) : StartKept s s.tryStart := by
  unfold State.tryStart
  dsimp only
  split
  · exact ⟨s.only_setSideLedger _ _, rfl, rfl, rfl, id, rfl, rfl, rfl, rfl⟩
  · exact ⟨s.only_setSideLedger s.side s.ledger, rfl, rfl, rfl, id, rfl, rfl, rfl, rfl⟩

theorem State.attn_bit (s : State) (bit i : Nat) (h : s.side.attnCause.getLsbD i = true) : (s.attn bit).side.attnCause.getLsbD i = true := by
  show (s.side.attnCause ||| BitVec.ofNat 32 (2 ^ bit)).getLsbD i = true
  rw [BitVec.getLsbD_or, h, Bool.true_or]

theorem StartKept.recovery (s : State) : StartKept s s.recovery := StartKept.setSide s rfl rfl (State.attn_bit (s.setSide _) _ 5) rfl rfl rfl

/-- What is recorded of a reset, before volatile state is lost. -/
structure ResetRecorded (cause : Nat) (s t : State) : Prop where
  only : s.only [.side, .ledger, .free] t
  wire : t.wire = s.wire
  cause : t.side.resetCause = cause
  inc : t.side.resetInc = s.ledger.inc + 1
  attn : t.side.attnCause.getLsbD 5 = true

theorem ResetRecorded.tearImage {cause : Nat} {s t : State} (h : ResetRecorded cause s t) : ResetRecorded cause s t.tearImage := by
  unfold State.tearImage
  split
  · refine ⟨State.only_trans h.only ⟨rfl, fun p hp => ?_⟩, h.wire, h.cause, h.inc, h.attn⟩
    cases p <;> simp [State.same, State.freeNext] at hp ⊢
  · exact h

/-- Losing everything volatile: units keep their fuses, trims and repairs, the flash its bytes, the networks their configuration, and Cricket its own. -/
theorem State.loseAll_spec (s : State) : s.loseAll.side = s.side.afterReset ∧ s.loseAll.chip = s.chip.afterReset ∧ s.loseAll.mem = s.mem.afterReset ∧
    s.loseAll.net = s.net.afterReset ∧ s.loseAll.wire = s.wire.afterReset ∧ s.loseAll.clk = s.clk ∧ s.loseAll.pending = s.pending :=
  by simp [State.loseAll]

theorem State.loseAll_init (s : State) : s.loseAll.comp = Comp.init ∧ s.loseAll.place = Place.init ∧ s.loseAll.cmd = Cmd.init ∧ s.loseAll.quay = Quay.init ∧
    s.loseAll.exch = Exch.init ∧ s.loseAll.coll = Colls.init ∧ s.loseAll.health = Health.init := by simp [State.loseAll]

theorem State.loseAll_ledger (s : State) : s.loseAll.ledger = s.ledger := by simp [State.loseAll]

theorem State.tearImage_ledger (s : State) : s.tearImage.ledger = s.ledger := by
  unfold State.tearImage
  split <;> rfl

/-- Once a reset is recorded and volatile state is lost, what may follow is a module reset's. -/
theorem ResetRecorded.resets {cause : Nat} {s t u : State} (h : ResetRecorded cause s t) (hstart : StartKept t.loseAll u) :
    s.resets cause u ∧ u.chip.pairs = s.chip.pairs := by
  have hsame : ∀ p, p ∉ [Part.side, .ledger, .free] → State.same p s t := h.only.2
  have hlost : ∀ p, p ∉ [Part.side, .ledger] → State.same p t.loseAll u := hstart.only.2
  obtain ⟨lside, lchip, lmem, lnet, lwire, lclk, lpending⟩ := t.loseAll_spec
  obtain ⟨lcomp, lplace, lcmd, lquay, lexch, lcoll, lhealth⟩ := t.loseAll_init
  generalize t.loseAll = v at hstart hlost lside lchip lmem lnet lwire lclk lpending lcomp lplace lcmd lquay lexch lcoll lhealth
  have umem : u.mem = s.mem.afterReset := by rw [show u.mem = v.mem from hlost .mem (by decide), lmem, show t.mem = s.mem from hsame .mem (by decide)]
  have uchip : u.chip = s.chip.afterReset := by rw [show u.chip = v.chip from hlost .chip (by decide), lchip, show t.chip = s.chip from hsame .chip (by decide)]
  have unet : u.net = s.net.afterReset := by rw [show u.net = v.net from hlost .net (by decide), lnet, show t.net = s.net from hsame .net (by decide)]
  have uclk : u.clk = s.clk := (hlost .clk (by decide)).trans (lclk.trans (hsame .clk (by decide)))
  have uattn : u.side.attnCause.getLsbD 5 = true := hstart.attn (by rw [lside]; exact h.attn)
  have ucells : ∀ a, cellGet u.mem.cells a = if flashKey 0 ≤ a ∧ a < flashKey (2 ^ 48) then cellGet s.mem.cells a else 0 := fun a => by
    rw [umem]
    refine (cellGet_filter (fun k => flashKey 0 ≤ k && k < flashKey (2 ^ 48)) s.mem.cells a).trans ?_
    simp only [Bool.and_eq_true, decide_eq_true_eq]
  refine ⟨⟨?_, ?_, uattn, ?_, ?_, ?_, (hlost .comp (by decide)).trans lcomp, (hlost .place (by decide)).trans lplace, (hlost .cmd (by decide)).trans lcmd,
    (hlost .quay (by decide)).trans lquay, (hlost .exch (by decide)).trans lexch, (hlost .coll (by decide)).trans lcoll,
    (hlost .health (by decide)).trans lhealth, unet, by rw [hstart.wire, lwire, h.wire], by rw [umem]; rfl, by rw [umem]; rfl, fun _ => ucells,
    by rw [uchip]; rfl, by rw [uchip]; rfl, by rw [uchip]; rfl, by rw [uchip]; rfl, by rw [uchip]; rfl, uclk,
    hstart.only.1.trans (lpending.trans h.only.1)⟩, by rw [uchip]; rfl⟩
  · rw [hstart.cause, lside]; exact h.cause
  · rw [hstart.inc, lside]; exact h.inc
  · rw [hstart.ready, lside]; rfl
  · rw [hstart.pg, lside]; rfl
  · rw [hstart.harts, lside]; rfl

/-- What the Ledger keeps of a reset: the snapshot is written first for the causes that ask for it, and the incarnation stays. -/
def Ledger.keptAt (l : Ledger) (snapshot : Bool) (now : Nat) (m : Ledger) : Prop := m.inc = l.inc ∧ (snapshot = true → m.snapAt = now)

theorem State.keptLedger (s : State) (cause : Nat) (data : List Byte) :
    ∃ m, (((if snapshotFirst cause then s.snapshot else s.setLedger s.ledger.lose).ord 1 0 data).bump ctrResets 1) = s.setLedger m ∧
      s.ledger.keptAt (snapshotFirst cause) s.now m := by
  split
  · exact ⟨_, rfl, rfl, fun _ => rfl⟩
  · next h => exact ⟨_, rfl, rfl, fun h' => absurd h' h⟩

theorem State.watchedLedger (s : State) {l : Ledger} {snapshot : Bool} {now : Nat} (h : l.keptAt snapshot now s.ledger) (cause : Nat) :
    ∃ m, (if cause = 2 then s.bump ctrWatchdog 1 else s) = s.setLedger m ∧ l.keptAt snapshot now m := by
  split
  · exact ⟨_, rfl, h⟩
  · exact ⟨s.ledger, rfl, h⟩

/-- What is recorded of a reset. -/
theorem ResetRecorded.of_ledger (s : State) (cause wd : Nat) {m : Ledger} (hinc : m.inc = s.ledger.inc) :
    ResetRecorded cause s (((s.setLedger m).attn causeReset).setSide
      { ((s.setLedger m).attn causeReset).side with resetCause := cause, resetInc := m.inc + 1, wdStarts := wd }) := by
  refine ⟨⟨rfl, fun p hp => ?_⟩, rfl, rfl, by rw [← hinc]; rfl, ?_⟩
  · cases p <;> simp [State.same, State.attn] at hp ⊢
  · show (s.side.attnCause ||| BitVec.ofNat 32 (2 ^ 5)).getLsbD 5 = true
    rw [BitVec.getLsbD_or]
    simp

/-- A module reset of any cause. -/
theorem State.moduleReset_resets (s : State) (cause : Nat) :
    s.resets cause (s.moduleReset cause) ∧ (s.moduleReset cause).chip.pairs = s.chip.pairs ∧
      (snapshotFirst cause = true → (s.moduleReset cause).ledger.snapAt = s.now) := by
  unfold State.moduleReset
  extract_lets kept counted watched raised early wd side recorded p lost
  obtain ⟨l, hl, hkept⟩ := s.keptLedger cause (leBytes 1 cause)
  have hcounted : counted = s.setLedger l := hl
  obtain ⟨m, hm, hinc, hsnap⟩ := State.watchedLedger counted (l := s.ledger) (by rw [hcounted]; exact hkept) cause
  have hwatched : watched = s.setLedger m := by rw [show watched = counted.setLedger m from hm, hcounted]; rfl
  have hrecorded : ResetRecorded cause s recorded ∧ recorded.ledger = m := by
    show ResetRecorded cause s (raised.setSide _) ∧ (raised.setSide _).ledger = m
    clear_value wd watched
    subst hwatched
    exact ⟨ResetRecorded.of_ledger s cause wd hinc, rfl⟩
  clear_value wd recorded p
  have hend : StartKept recorded.tearImage.loseAll (if p = .tripped || p = .recovery then lost.setSide { lost.side with pstate := p }
      else if 3 ≤ wd then lost.recovery else lost.tryStart) := by
    split
    · exact StartKept.setSide lost rfl rfl id rfl rfl rfl
    · split
      · exact StartKept.recovery lost
      · exact StartKept.tryStart lost
  obtain ⟨hresets, hpairs⟩ := hrecorded.1.tearImage.resets hend
  refine ⟨hresets, hpairs, fun hfirst => ?_⟩
  rw [hend.snapAt, State.loseAll_ledger, State.tearImage_ledger, hrecorded.2]
  exact hsnap hfirst

end Sys2Proof.Machine
end

section
/-! PROOFS. Mismatches of duplicated blocks (R314, R317, R318, R338). -/

namespace Sys2Proof.Machine

/-! ### Faults that are counted -/

/-- A fault leaves everything but what counts it and, from a reset or a retirement on, the health cause. -/
theorem State.fault_frame (s : State) (cls : Nat) (ut : Option Nat) (u : BitVec 32) (port outcome : Nat) (inj : Bool) :
    s.only [.side, .health, .ledger, .cmd] (s.fault cls ut u port outcome inj) ∧ (s.fault cls ut u port outcome inj).wire = s.wire ∧
      (s.fault cls ut u port outcome inj).ledger.inc = s.ledger.inc ∧ (s.fault cls ut u port outcome inj).health.noAccept = s.health.noAccept ∧
      (s.fault cls ut u port outcome inj).health.armed = s.health.armed ∧
      (outcome < 3 → (s.fault cls ut u port outcome inj).side = s.side) ∧
      (3 ≤ outcome → (s.fault cls ut u port outcome inj).side.attnCause.getLsbD 0 = true) := by
  have hinc : ∀ l : Ledger, l.inc = s.ledger.inc → (match ut with | some v => l.unitFault (unitKey v u cls) inj outcome | none => l).inc = s.ledger.inc := by
    intro l hl
    split
    · exact hl
    · exact hl
  unfold State.fault
  dsimp only
  split
  · next hout =>
    refine ⟨⟨rfl, fun p hp => ?_⟩, rfl, hinc _ rfl, rfl, rfl, fun h => absurd hout (by omega), fun _ => ?_⟩
    · cases p <;> simp [State.same, State.attn] at hp ⊢
    · show (s.side.attnCause ||| BitVec.ofNat 32 (2 ^ 0)).getLsbD 0 = true
      rw [BitVec.getLsbD_or]
      simp
  · next hout =>
    refine ⟨⟨rfl, fun p hp => ?_⟩, rfl, hinc _ rfl, rfl, rfl, fun _ => rfl, fun h => absurd h hout⟩
    cases p <;> simp [State.same] at hp ⊢

/-- A fault event of a lesser outcome leaves Cricket alone. -/
theorem State.only_fault (s : State) (cls : Nat) (ut : Option Nat) (u : BitVec 32) (port : Nat) {outcome : Nat} (inj : Bool) (h : outcome < 3) :
    s.only [.health, .ledger, .cmd] (s.fault cls ut u port outcome inj) := by
  obtain ⟨hl, l, c, hfault, _⟩ := s.fault_eq cls ut u port inj h
  rw [hfault]
  exact s.only_counted hl l c

/-- A masked fault of the module itself. -/
theorem State.fault_masked (s : State) (cls : Nat) (u : BitVec 32) (port : Nat) :
    (s.fault cls none u port 0 false).health.total = s.health.total + 1 ∧
      (s.fault cls none u port 0 false).counter (25 + cls) = min (2 ^ 64 - 1) (s.counter (25 + cls) + 1) ∧
      (s.fault cls none u port 0 false).cmd = { s.cmd with jobs := (s.fault cls none u port 0 false).cmd.jobs } ∧
      ((s.fault cls none u port 0 false).health.events.head?.map fun e => (e.cls, e.outcome)) = some (cls, 0) :=
  ⟨rfl, AMap.getD_put_self _ _ _ _, rfl, rfl⟩

/-! ### A hard mismatch -/

/-- A mismatch of the block of a key is hard: the third on one request, or the 16th within 1 s. -/
def State.hardAt (s : State) (key same : Nat) : Prop :=
  3 ≤ same ∨ 16 ≤ 1 + ((s.chip.mismatches.getD key []).filter fun t => s.now ≤ t + 25000000).length

/-- A mismatch is noted. -/
def State.noteMismatch (s : State) (key : Nat) : State :=
  s.setChip { s.chip with mismatches := s.chip.mismatches.put key (s.now :: (s.chip.mismatches.getD key []).filter fun t => s.now ≤ t + 25000000) }

theorem State.mismatch_hard {s : State} {key same : Nat} (h : s.hardAt key same) : s.mismatch key same false = (true, s.noteMismatch key) := by
  refine Prod.ext ?_ rfl
  rw [State.hardAt, Nat.add_comm] at h
  simpa [State.mismatch] using h

theorem State.mismatch_masked {s : State} {key same : Nat} (h : ¬ s.hardAt key same) : s.mismatch key same false = (false, s.noteMismatch key) := by
  refine Prod.ext ?_ rfl
  rw [State.hardAt] at h
  simp only [State.mismatch, Bool.false_eq_true, if_false, List.length_cons, Bool.or_eq_false_iff, decide_eq_false_iff_not]
  omega

theorem State.only_noteMismatch (s : State) (key : Nat) : s.only [.chip] (s.noteMismatch key) := by
  refine ⟨rfl, fun p hp => ?_⟩
  cases p <;> simp [State.same, State.noteMismatch] at hp ⊢

/-- Where nothing is armed nothing acts. -/
theorem State.takeInjection_unarmed {s : State} (h : s.health.armed = []) (cls : Nat) (u : BitVec 32) : s.takeInjection cls u = (false, s) := by
  rw [State.takeInjection, h]
  rfl

/-! ### Blocks whose hard fault resets the module -/

/-- What a reset leaves depends on no more of the state before it than this. -/
theorem State.resets_of {s u t : State} {cause : Nat} (h : u.resets cause t) (honly : s.only [.side, .ledger, .health, .cmd, .chip] u) (hwire : u.wire = s.wire)
    (hinc : u.ledger.inc = s.ledger.inc) (hmask : u.chip.enMask = s.chip.enMask) (hgrade : u.chip.gradeB = s.chip.gradeB) : s.resets cause t := by
  have hnet : u.net = s.net := honly.2 .net (by decide)
  have hmem : u.mem = s.mem := honly.2 .mem (by decide)
  have hclk : u.clk = s.clk := honly.2 .clk (by decide)
  unfold State.resets at h ⊢
  rwa [hnet, hmem, hclk, hwire, hinc, hmask, hgrade, honly.1] at h

theorem State.hardReset_resets {s u : State} (cls : Nat) (unit_ : BitVec 32) (cause : Nat) (inj : Bool) (honly : s.only [.side, .ledger, .health, .cmd, .chip] u)
    (hwire : u.wire = s.wire) (hinc : u.ledger.inc = s.ledger.inc) (hmask : u.chip.enMask = s.chip.enMask) (hgrade : u.chip.gradeB = s.chip.gradeB) :
    s.resets cause (u.hardReset cls unit_ cause inj) := by
  obtain ⟨fonly, fwire, finc, _⟩ := u.fault_frame cls none unit_ 0 5 inj
  have fchip : (u.fault cls none unit_ 0 5 inj).chip = u.chip := fonly.2 .chip (by decide)
  exact State.resets_of ((u.fault cls none unit_ 0 5 inj).moduleReset_resets cause).1 (State.only_trans honly (State.only_mono (by decide) fonly))
    (fwire.trans hwire) (finc.trans hinc) (by rw [fchip, hmask]) (by rw [fchip, hgrade])

/-- A mismatch of a block whose hard fault resets the module: masked, only what counts it changes. -/
theorem State.blockMismatch_masked {s : State} {key same : Nat} (h : ¬ s.hardAt key same) (cls cause : Nat) :
    let t := s.blockMismatch cls key same cause false
    s.only [.chip, .health, .ledger, .cmd] t ∧ t.health.total = s.health.total + 1 ∧ t.counter (25 + cls) = min (2 ^ 64 - 1) (s.counter (25 + cls) + 1) ∧
      t.chip = { s.chip with mismatches := t.chip.mismatches } ∧ t.cmd = { s.cmd with jobs := t.cmd.jobs } ∧
      (t.health.events.head?.map fun e => (e.cls, e.outcome)) = some (cls, 0) := by
  have heq : s.blockMismatch cls key same cause false = (s.noteMismatch key).fault cls none 0 0 0 false := by
    rw [State.blockMismatch, State.mismatch_masked h]
    rfl
  obtain ⟨htotal, hcounter, hcmd, hevent⟩ := (s.noteMismatch key).fault_masked cls 0 0
  have hfault := (s.noteMismatch key).only_fault cls none 0 0 false (outcome := 0) (by decide)
  dsimp only
  rw [heq]
  refine ⟨State.only_trans (State.only_mono (by decide) (s.only_noteMismatch key)) (State.only_mono (by decide) hfault), htotal, hcounter, ?_, hcmd, hevent⟩
  rw [show ((s.noteMismatch key).fault cls none 0 0 0 false).chip = (s.noteMismatch key).chip from hfault.2 .chip (by decide)]
  rfl

theorem State.blockMismatch_hard {s u : State} {key same : Nat} (h : u.hardAt key same) (cls cause : Nat)
    (honly : s.only [.side] u) (hwire : u.wire = s.wire) : s.resets cause (u.blockMismatch cls key same cause false) := by
  have heq : u.blockMismatch cls key same cause false = (u.noteMismatch key).hardReset cls 0 cause false := by
    rw [State.blockMismatch, State.mismatch_hard h]
    rfl
  have hledger : u.ledger = s.ledger := honly.2 .ledger (by decide)
  have hchip : u.chip = s.chip := honly.2 .chip (by decide)
  rw [heq]
  refine State.hardReset_resets cls 0 cause false (State.only_trans (State.only_mono (by decide) honly) (State.only_mono (by decide) (u.only_noteMismatch key)))
    hwire (congrArg Ledger.inc hledger) ?_ ?_
  · rw [← hchip]; rfl
  · rw [← hchip]; rfl

theorem controlMismatch_eq {s : State} {c : Instr} {cls key same cause : Nat} (h : (c, cls, key, same, cause) ∈ ([(.controlMismatch .quay same, 9, 24, same, 5),
    (.controlMismatch .ferry same, 10, 25, same, 6), (.quayMismatch false, 9, 24, 0, 5)] : List (Instr × Nat × Nat × Nat × Nat))) (hrun : s.running = true)
    (harmed : s.health.armed = []) : exec c s = .next (s.blockMismatch cls key same cause false) := by
  have hquay := State.takeInjection_unarmed harmed 9 0
  have hferry := State.takeInjection_unarmed harmed 10 0
  simp only [List.mem_cons, Prod.mk.injEq, List.not_mem_nil, or_false] at h
  rcases h with ⟨rfl, rfl, rfl, _, rfl⟩ | ⟨rfl, rfl, rfl, _, rfl⟩ | ⟨rfl, rfl, rfl, rfl, rfl⟩
  · show execControlMismatch .quay same s = _
    rw [execControlMismatch, hquay]
    exact State.when_eq hrun
  · show execControlMismatch .ferry same s = _
    rw [execControlMismatch, hferry]
    exact State.when_eq hrun
  · show execQuayMismatch false s = _
    rw [execQuayMismatch]
    exact State.when_eq (by rw [hrun]; rfl)

/-! ### Cricket -/

/-- Cricket restarts after a mismatch. -/
def State.cricketRestart (s : State) : State := s.setSide { s.side with cricketRestarts := s.side.cricketRestarts + 1 }

theorem State.only_cricketRestart (s : State) : s.only [.side] s.cricketRestart := by
  refine ⟨rfl, fun p hp => ?_⟩
  cases p <;> simp [State.same, State.cricketRestart] at hp ⊢

theorem cricketMismatch_eq {s : State} (same : Nat) (hv54 : s.side.v54 = true) (hon : s.side.pstate ≠ .off) (hfail : s.side.fail ≠ 0x11)
    (harmed : s.health.armed = []) : exec (.cricketMismatch same) s = .next (s.cricketRestart.blockMismatch 12 26 same 7 false) := by
  have hinj := State.takeInjection_unarmed harmed 12 0
  show execCricketMismatch same s = _
  rw [execCricketMismatch, hinj]
  refine State.when_eq ?_
  rw [hv54, Bool.true_and, Bool.and_eq_true]
  exact ⟨by simpa using hon, by simpa using hfail⟩

end Sys2Proof.Machine
end

section
/-! PROOFS. Mismatches of clusters, Harbourmaster pairs and core sequencers (R317, R318, R319, R321, R334, R338). -/

namespace Sys2Proof.Machine

/-! ### Clusters -/

/-- A cluster's mismatch is noted and counted. -/
def State.clusterNoted (s : State) (c : Nat) (hard : Bool) : State :=
  ((s.noteMismatch c).updCluster c fun x => { x with ctlMm := s.now :: recent s.now x.ctlMm }).fault 8 utCluster (clusterUnit c) 0 (if hard then 4 else 0) false

theorem State.clusterNoted_cluster (s : State) (c : Nat) (hard : Bool) :
    (s.clusterNoted c hard).cluster c = { s.cluster c with ctlMm := s.now :: recent s.now (s.cluster c).ctlMm } := by
  have hchip := (State.fault_frame ((s.noteMismatch c).updCluster c fun x => { x with ctlMm := s.now :: recent s.now x.ctlMm }) 8 utCluster (clusterUnit c) 0
    (if hard then 4 else 0) false).1.2 .chip (by decide)
  unfold State.cluster
  rw [show (s.clusterNoted c hard).chip = _ from hchip]
  exact State.cluster_updCluster_self (s.noteMismatch c) c _

theorem State.clusterNoted_comp (s : State) (c : Nat) (hard : Bool) : (s.clusterNoted c hard).comp = s.comp :=
  (State.fault_parts ((s.noteMismatch c).updCluster c _) 8 utCluster (clusterUnit c) 0 (if hard then 4 else 0) false).1

theorem clusterMismatch_eq {s : State} {c same : Nat} (hrun : s.running = true) (hin : s.inService c = true) (harmed : s.health.armed = []) {hard : Bool}
    (h : s.mismatch c same false = (hard, s.noteMismatch c)) : exec (.controlMismatch (.cluster c) same) s =
      .next (if !hard then s.clusterNoted c hard
        else if (s.cluster c).svc = .resetting then (s.clusterNoted c hard).updCluster c fun x => { x with retireAfter := true }
        else ((s.clusterNoted c hard).forcedReset c true).startWaiting) := by
  show execControlMismatch (.cluster c) same s = _
  rw [execControlMismatch, State.takeInjection_unarmed harmed 8 (clusterUnit c)]
  dsimp only
  rw [h]
  exact State.when_eq (by rw [hrun, hin]; rfl)

theorem clusterMismatch_masked {s : State} {c same : Nat} (hrun : s.running = true) (hin : s.inService c = true) (harmed : s.health.armed = [])
    (hsvc : (s.cluster c).svc = .inService) (h : ¬ s.hardAt c same) : Answers (exec (.controlMismatch (.cluster c) same) s) fun t =>
      s.only [.chip, .health, .ledger, .cmd] t ∧ (t.cluster c).svc = .inService ∧ (t.cluster c).ctlMm.length ≤ (s.cluster c).ctlMm.length + 1 := by
  rw [clusterMismatch_eq hrun hin harmed (State.mismatch_masked h)]
  refine ⟨_, rfl, ?_, ?_, ?_⟩
  · have hnoted : s.only [.chip, .health, .ledger, .cmd] ((s.noteMismatch c).updCluster c fun x => { x with ctlMm := s.now :: recent s.now x.ctlMm }) := by
      refine ⟨rfl, fun p hp => ?_⟩
      cases p <;> simp [State.same, State.noteMismatch, State.updCluster] at hp ⊢
    exact State.only_trans hnoted (State.only_mono (by decide) (State.only_fault _ 8 utCluster (clusterUnit c) 0 false (outcome := 0) (by decide)))
  · exact (congrArg Cluster.svc (s.clusterNoted_cluster c false)).trans hsvc
  · refine (congrArg (fun x => x.ctlMm.length) (s.clusterNoted_cluster c false)).trans_le ?_
    exact Nat.succ_le_succ (List.length_filter_le _ _)

theorem clusterMismatch_hard {s : State} {c same : Nat} (hrun : s.running = true) (hin : s.inService c = true) (harmed : s.health.armed = [])
    (hsvc : (s.cluster c).svc = .inService) (hnone : s.noStart) (h : s.hardAt c same) : Answers (exec (.controlMismatch (.cluster c) same) s) fun t =>
      (t.cluster c).svc = .resetting ∧ (t.cluster c).retireAfter = true ∧ t.side.attnCause.getLsbD 0 = true := by
  rw [clusterMismatch_eq hrun hin harmed (State.mismatch_hard h)]
  have hstart : (s.clusterNoted c true).noStart := fun e he => hnone e (by rwa [State.clusterNoted_comp] at he)
  obtain ⟨hreset, hretire, hside⟩ := State.forcedReset_spec c true hstart
  refine ⟨_, rfl, ?_⟩
  rw [if_neg (by decide), if_neg (by rw [hsvc]; decide)]
  refine ⟨hreset, by rw [hretire, Bool.or_true], ?_⟩
  rw [hside]
  obtain ⟨_, _, _, _, _, _, hcause⟩ := State.fault_frame ((s.noteMismatch c).updCluster c fun x => { x with ctlMm := s.now :: recent s.now x.ctlMm }) 8
    utCluster (clusterUnit c) 0 4 false
  exact hcause (by decide)

/-- A cluster that is being reset is to be retired as well. -/
theorem clusterMismatch_resetting {s : State} {c same : Nat} (hrun : s.running = true) (hin : s.inService c = true) (harmed : s.health.armed = [])
    (hsvc : (s.cluster c).svc = .resetting) (hsame : 3 ≤ same) : Answers (exec (.controlMismatch (.cluster c) same) s) fun t =>
      (t.cluster c).svc = .resetting ∧ (t.cluster c).retireAfter = true := by
  rw [clusterMismatch_eq hrun hin harmed (State.mismatch_hard (.inl hsame))]
  refine ⟨_, rfl, ?_⟩
  dsimp only
  rw [if_neg (by decide), if_pos hsvc, State.cluster_updCluster_self, State.clusterNoted_cluster]
  exact ⟨hsvc, rfl⟩

/-! ### Harbourmaster pairs -/

/-- A pair is lost: it is retired, which is counted and reported. -/
def State.harbourPairLost (s : State) (p : Nat) (left : BitVec 8) : State :=
  (((s.noteMismatch (32 + p)).setChip { (s.noteMismatch (32 + p)).chip with pairs := left }).fault 11 utPair (unitWord p 0 0 0 0 0) p 4 false).unitLost 4 0
    (unitWord p 0 0 0 0 0)

theorem pairMismatch_eq {s : State} {p same : Nat} (hclock : s.clocked = true) (hp : p < 8) (hpair : s.chip.pairs.getLsbD p = true) (harmed : s.health.armed = [])
    {hard : Bool} (h : s.mismatch (32 + p) same false = (hard, s.noteMismatch (32 + p))) {left : BitVec 8}
    (hleft : left = s.chip.pairs &&& ~~~(BitVec.ofNat 8 (2 ^ p))) : exec (.harbourmasterPairMismatch p same) s =
      .next (if !hard then (s.noteMismatch (32 + p)).fault 11 utPair (unitWord p 0 0 0 0 0) p 0 false
        else if left = 0 then (s.harbourPairLost p left).moduleReset 8
        else if bitCount 8 left.toNat < 4 then (s.harbourPairLost p left).setHealth { (s.harbourPairLost p left).health with noAccept := true }
        else s.harbourPairLost p left) := by
  subst hleft
  show execHarbourmasterPairMismatch p same s = _
  rw [execHarbourmasterPairMismatch]
  dsimp only
  rw [State.takeInjection_unarmed harmed 11 _]
  dsimp only
  rw [show keyPair p = 32 + p from rfl, h]
  exact State.when_eq (by rw [hclock, hpair, decide_eq_true hp]; rfl)

/-- The loss of a unit is recorded: the Ledger and the health cause alone change. -/
theorem State.unitLost_frame (s : State) (outcome reason : Nat) (u : BitVec 32) : s.only [.side, .ledger] (s.unitLost outcome reason u) ∧
    (s.unitLost outcome reason u).wire = s.wire ∧ (s.unitLost outcome reason u).ledger.inc = s.ledger.inc ∧
    (s.unitLost outcome reason u).side.attnCause.getLsbD 0 = true := by
  have hinc : ∀ e : LEvent, (s.ledger.writePerm e).inc = s.ledger.inc := by
    intro e
    unfold Ledger.writePerm Ledger.writeOrd
    split
    · rfl
    · dsimp only
      split <;> rfl
  have hcause : ((s.perm 4 u.toNat (leBytes 1 outcome ++ leBytes 1 reason)).attn causeHealth).side.attnCause.getLsbD 0 = true := by
    show (s.side.attnCause ||| BitVec.ofNat 32 (2 ^ 0)).getLsbD 0 = true
    rw [BitVec.getLsbD_or]
    simp
  have honly : ∀ (d : Side) (l : Ledger), s.only [.side, .ledger] ((s.setLedger l).setSide d) := fun d l => by
    refine ⟨rfl, fun p hp => ?_⟩
    cases p <;> simp [State.same] at hp ⊢
  unfold State.unitLost
  dsimp only
  split
  · exact ⟨honly _ _, rfl, hinc _, hcause⟩
  · exact ⟨honly _ _, rfl, hinc _, hcause⟩

theorem State.harbourPairLost_frame (s : State) (p : Nat) (left : BitVec 8) : s.only [.side, .ledger, .health, .cmd, .chip] (s.harbourPairLost p left) ∧
    (s.harbourPairLost p left).wire = s.wire ∧ (s.harbourPairLost p left).ledger.inc = s.ledger.inc ∧ (s.harbourPairLost p left).side.attnCause.getLsbD 0 = true ∧
    (s.harbourPairLost p left).health.noAccept = s.health.noAccept ∧
    (s.harbourPairLost p left).chip = { (s.noteMismatch (32 + p)).chip with pairs := left } := by
  obtain ⟨fonly, fwire, finc, faccept, _⟩ := State.fault_frame ((s.noteMismatch (32 + p)).setChip { (s.noteMismatch (32 + p)).chip with pairs := left }) 11 utPair
    (unitWord p 0 0 0 0 0) p 4 false
  unfold State.harbourPairLost
  have hset : s.only [.side, .ledger, .health, .cmd, .chip] ((s.noteMismatch (32 + p)).setChip { (s.noteMismatch (32 + p)).chip with pairs := left }) := by
    refine ⟨rfl, fun q hq => ?_⟩
    cases q <;> simp [State.same, State.noteMismatch] at hq ⊢
  generalize ((s.noteMismatch (32 + p)).setChip { (s.noteMismatch (32 + p)).chip with pairs := left }).fault 11 utPair (unitWord p 0 0 0 0 0) p 4 false = t
    at fonly fwire finc faccept ⊢
  obtain ⟨uonly, uwire, uinc, ucause⟩ := t.unitLost_frame 4 0 (unitWord p 0 0 0 0 0)
  refine ⟨State.only_trans (State.only_trans hset (State.only_mono (by decide) fonly)) (State.only_mono (by decide) uonly), uwire.trans fwire, uinc.trans finc,
    ucause, ?_, ?_⟩
  · rw [show (t.unitLost 4 0 (unitWord p 0 0 0 0 0)).health = t.health from uonly.2 .health (by decide), faccept]
    rfl
  · rw [show (t.unitLost 4 0 (unitWord p 0 0 0 0 0)).chip = t.chip from uonly.2 .chip (by decide), show t.chip = _ from fonly.2 .chip (by decide)]
    rfl

theorem pairMismatch_masked {s : State} {p same : Nat} (hclock : s.clocked = true) (hp : p < 8) (hpair : s.chip.pairs.getLsbD p = true)
    (harmed : s.health.armed = []) (h : ¬ s.hardAt (32 + p) same) : Answers (exec (.harbourmasterPairMismatch p same) s) fun t =>
      s.only [.chip, .health, .ledger, .cmd] t ∧ t.chip.pairs = s.chip.pairs ∧ t.health.noAccept = s.health.noAccept := by
  rw [pairMismatch_eq hclock hp hpair harmed (State.mismatch_masked h) rfl]
  obtain ⟨fonly, _, _, faccept, _⟩ := (s.noteMismatch (32 + p)).fault_frame 11 utPair (unitWord p 0 0 0 0 0) p 0 false
  have hfault := (s.noteMismatch (32 + p)).only_fault 11 utPair (unitWord p 0 0 0 0 0) p false (outcome := 0) (by decide)
  have hchip : ((s.noteMismatch (32 + p)).fault 11 utPair (unitWord p 0 0 0 0 0) p 0 false).chip = (s.noteMismatch (32 + p)).chip := fonly.2 .chip (by decide)
  refine ⟨_, rfl, ?_⟩
  dsimp only
  rw [if_pos (by decide)]
  exact ⟨State.only_trans (State.only_mono (by decide) (s.only_noteMismatch (32 + p))) (State.only_mono (by decide) hfault), (congrArg Chip.pairs hchip).trans rfl, faccept⟩

theorem pairMismatch_retires {s : State} {p same : Nat} (hclock : s.clocked = true) (hp : p < 8) (hpair : s.chip.pairs.getLsbD p = true)
    (harmed : s.health.armed = []) (h : s.hardAt (32 + p) same) {left : BitVec 8} (hleft : left = s.chip.pairs &&& ~~~(BitVec.ofNat 8 (2 ^ p))) (hne : left ≠ 0) :
    Answers (exec (.harbourmasterPairMismatch p same) s) fun t => t.chip.pairs = left ∧ t.side.attnCause.getLsbD 0 = true ∧
      t.health.noAccept = (s.health.noAccept || decide (((List.range 8).filter fun i => left.getLsbD i).length < 4)) := by
  rw [pairMismatch_eq hclock hp hpair harmed (State.mismatch_hard h) hleft]
  obtain ⟨_, _, _, hcause, haccept, hchip⟩ := s.harbourPairLost_frame p left
  refine ⟨_, rfl, ?_⟩
  rw [if_neg (by decide), if_neg hne]
  have hcount : bitCount 8 left.toNat = ((List.range 8).filter fun i => left.getLsbD i).length := rfl
  rw [hcount]
  split
  · next hfew => exact ⟨congrArg Chip.pairs hchip, hcause, by rw [decide_eq_true hfew, Bool.or_true]; rfl⟩
  · next hmany => exact ⟨congrArg Chip.pairs hchip, hcause, by rw [haccept, decide_eq_false hmany, Bool.or_false]⟩

theorem pairMismatch_resets {s : State} {p same : Nat} (hclock : s.clocked = true) (hp : p < 8) (hpair : s.chip.pairs.getLsbD p = true)
    (harmed : s.health.armed = []) (h : s.hardAt (32 + p) same) (hnone : s.chip.pairs &&& ~~~(BitVec.ofNat 8 (2 ^ p)) = 0) :
    Answers (exec (.harbourmasterPairMismatch p same) s) fun t => s.resets 8 t ∧ t.chip.pairs = 0 := by
  rw [pairMismatch_eq hclock hp hpair harmed (State.mismatch_hard h) hnone.symm]
  obtain ⟨honly, hwire, hinc, _, _, hchip⟩ := s.harbourPairLost_frame p 0
  obtain ⟨hresets, hpairs, _⟩ := (s.harbourPairLost p 0).moduleReset_resets 8
  refine ⟨_, rfl, ?_⟩
  rw [if_neg (by decide), if_pos rfl]
  exact ⟨State.resets_of hresets honly hwire hinc (by rw [hchip]; rfl) (by rw [hchip]; rfl), hpairs.trans (congrArg Chip.pairs hchip)⟩

/-! ### Core sequencers -/

/-- A sequencer's mismatch is noted and counted. -/
def State.sequencerNoted (s : State) (k outcome : Nat) : State :=
  ((s.noteMismatch (64 + k)).fault 7 utCore (coreUnit k) 0 outcome false).updCoreHw k fun x => { x with faults := s.now :: recent s.now x.faults }

theorem State.sequencerNoted_coreHw (s : State) (k outcome : Nat) :
    (s.sequencerNoted k outcome).coreHw k = { s.coreHw k with faults := s.now :: recent s.now (s.coreHw k).faults } := by
  have hchip : ((s.noteMismatch (64 + k)).fault 7 utCore (coreUnit k) 0 outcome false).chip = (s.noteMismatch (64 + k)).chip :=
    (State.fault_frame _ 7 utCore (coreUnit k) 0 outcome false).1.2 .chip (by decide)
  rw [State.sequencerNoted, State.coreHw_updCoreHw_self]
  unfold State.coreHw
  rw [hchip]
  rfl

theorem State.sequencerNoted_noStart {s : State} (h : s.noStart) (k outcome : Nat) : (s.sequencerNoted k outcome).noStart := fun e he =>
  h e (by
    have hcomp : (s.sequencerNoted k outcome).comp = s.comp := (State.fault_parts (s.noteMismatch (64 + k)) 7 utCore (coreUnit k) 0 outcome false).1
    rwa [hcomp] at he)

/-- What a mismatch of a core whose run is not replayed ends. -/
def State.sequencerEnded (s : State) (k outcome : Nat) : State :=
  let t := s.sequencerNoted k outcome
  if (s.coreOf k).inst.isNone then t
  else t.freeNext.faultEnd k 0x0405 ⟨t.freeVal.toNat % 255 + 1, 7, false, (t.coreOf k).pc % 4096, 0⟩

theorem UnitsKept.sequencerEnded (s : State) (k outcome : Nat) : UnitsKept (s.sequencerNoted k outcome) (s.sequencerEnded k outcome) := by
  refine UnitsKept.ite (UnitsKept.refl _) (UnitsKept.trans ?_ (UnitsKept.faultEnd _ _ _ _))
  exact UnitsKept.still rfl rfl rfl

theorem State.sequencerEnded_coreHw (s : State) (k outcome : Nat) :
    (s.sequencerEnded k outcome).coreHw k = { s.coreHw k with faults := s.now :: recent s.now (s.coreHw k).faults } := by
  rw [← s.sequencerNoted_coreHw k outcome]
  unfold State.coreHw
  rw [(UnitsKept.sequencerEnded s k outcome).cores]

theorem sequencerMismatch_eq {s : State} {k same : Nat} (hclock : s.clocked = true) (hserves : s.coreServes k = true) (harmed : s.health.armed = [])
    (hends : (s.coreOf k).inst = none ∨ s.replayable k = false) {hard : Bool} (h : s.mismatch (64 + k) same false = (hard, s.noteMismatch (64 + k))) :
    exec (.sequencerMismatch ⟨k, same⟩) s =
      .next (if hard then (s.sequencerEnded k (if hard then 3 else 1)).quarantine k 4
        else (s.sequencerEnded k (if hard then 3 else 1)).startSelfTest k false).startWaiting := by
  have hagain : ((s.coreOf k).inst.isSome && s.replayable k && (s.coreOf k).ending.isNone) = false := by
    rcases hends with hno | hno <;> rw [hno]
    · rfl
    · rw [Bool.and_false, Bool.false_and]
  show execSequencerMismatch ⟨k, same⟩ s = _
  rw [execSequencerMismatch]
  dsimp only
  rw [State.takeInjection_unarmed harmed 7 _]
  dsimp only
  rw [show keySequencer k = 64 + k from rfl, h]
  dsimp only
  rw [hagain]
  refine (State.when_eq (by rw [hclock, hserves]; rfl)).trans ?_
  unfold State.sequencerEnded
  cases hard <;> cases (s.coreOf k).inst <;> rfl

/-- After a masked mismatch the core runs its self-test. -/
theorem sequencerMismatch_masked {s : State} {k same : Nat} (hclock : s.clocked = true) (hserves : s.coreServes k = true) (harmed : s.health.armed = [])
    (hends : (s.coreOf k).inst = none ∨ s.replayable k = false) (hnone : s.noStart) (h : ¬ s.hardAt (64 + k) same) :
    Answers (exec (.sequencerMismatch ⟨k, same⟩) s) fun t => (t.coreHw k).testing = true ∧ (t.coreHw k).st = (s.coreHw k).st ∧
      (t.coreHw k).faults = s.now :: recent s.now (s.coreHw k).faults := by
  have hidle : ((s.sequencerEnded k 1).startSelfTest k false).noStart := (UnitsKept.sequencerEnded s k 1).starts (State.sequencerNoted_noStart hnone k 1)
  have hcore : (((s.sequencerEnded k 1).startSelfTest k false).startWaiting).coreHw k =
      { s.coreHw k with faults := s.now :: recent s.now (s.coreHw k).faults, testing := true } := by
    have hstarted : (((s.sequencerEnded k 1).startSelfTest k false).startWaiting).coreHw k = ((s.sequencerEnded k 1).startSelfTest k false).coreHw k := by
      unfold State.coreHw
      rw [(UnitsKept.startWaiting hidle).cores]
    rw [hstarted, State.startSelfTest, if_neg (by decide), State.coreHw_updCoreHw_self, State.sequencerEnded_coreHw]
  rw [sequencerMismatch_eq hclock hserves harmed hends (State.mismatch_masked h)]
  refine ⟨_, rfl, ?_⟩
  dsimp only
  rw [if_neg (by decide), if_neg (by decide), hcore]
  exact ⟨rfl, rfl, rfl⟩

/-- A core leaves service for good: what it is quarantined for stands with it, and the health cause is raised. -/
theorem State.quarantine_spec (s : State) (k reason : Nat) :
    (s.quarantine k reason).coreHw k = { s.coreHw k with st := .quarantined, reason := reason, testing := false } ∧
      (s.quarantine k reason).side.attnCause.getLsbD 0 = true ∧ (s.noStart → (s.quarantine k reason).noStart) := by
  unfold State.quarantine
  extract_lets c was t u
  have hcores : u.chip.cores = t.chip.cores ∧ u.comp = s.comp := by
    show (if _ then _ else _ : State).chip.cores = _ ∧ (if _ then _ else _ : State).comp = _
    split <;> exact ⟨rfl, rfl⟩
  obtain ⟨uonly, _, _, ucause⟩ := u.unitLost_frame 3 reason (coreUnit k)
  refine ⟨?_, ucause, fun hs e he => hs e ?_⟩
  · unfold State.coreHw
    rw [show (u.unitLost 3 reason (coreUnit k)).chip = u.chip from uonly.2 .chip (by decide), hcores.1]
    exact State.coreHw_updCoreHw_self s k _
  · rwa [show (u.unitLost 3 reason (coreUnit k)).comp = u.comp from uonly.2 .comp (by decide), hcores.2] at he

/-- A hard mismatch quarantines the core. -/
theorem sequencerMismatch_hard {s : State} {k same : Nat} (hclock : s.clocked = true) (hserves : s.coreServes k = true) (harmed : s.health.armed = [])
    (hends : (s.coreOf k).inst = none ∨ s.replayable k = false) (hnone : s.noStart) (h : s.hardAt (64 + k) same) :
    Answers (exec (.sequencerMismatch ⟨k, same⟩) s) fun t => (t.coreHw k).testing = false ∧ (t.coreHw k).st = .quarantined ∧ (t.coreHw k).reason = 4 ∧
      t.side.attnCause.getLsbD 0 = true := by
  obtain ⟨hcore, hcause, hidle⟩ := (s.sequencerEnded k 3).quarantine_spec k 4
  have hstart := UnitsKept.startWaiting (hidle ((UnitsKept.sequencerEnded s k 3).starts (State.sequencerNoted_noStart hnone k 3)))
  have hcore' : ((s.sequencerEnded k 3).quarantine k 4).startWaiting.coreHw k = ((s.sequencerEnded k 3).quarantine k 4).coreHw k := by
    unfold State.coreHw
    rw [hstart.cores]
  rw [sequencerMismatch_eq hclock hserves harmed hends (State.mismatch_hard h)]
  refine ⟨_, rfl, ?_⟩
  dsimp only
  rw [if_pos rfl, if_pos rfl, hcore', hcore, hstart.side]
  exact ⟨rfl, rfl, rfl, hcause⟩

end Sys2Proof.Machine
end

section
/-! PROOFS. Errors that patrols meet, and refreshes (R145, R147, R149, R150, R316, R330, R334). -/

namespace Sys2Proof.Machine

/-! ### An error of a block -/

/-- A block's error is taken up: it is no longer latent, and its two symbols poison the block. -/
def Mem.errorMet (m : Mem) (b : Nat) (two : Bool) : Mem :=
  if two then { m with errors := m.errors.drop b }.addPoison b else { m with errors := m.errors.drop b }

theorem Mem.mem_addPoison (m : Mem) (b : Nat) : b ∈ (m.addPoison b).poison := by
  unfold Mem.addPoison
  dsimp only
  split
  · next h => exact List.contains_iff_mem.1 h
  · exact List.mem_cons_self

/-- From `s` to `t` units alone changed, and no Scarab's pass began. -/
structure RowKept (s t : State) : Prop where
  health : t.health = s.health
  mem : t.mem = s.mem
  cmd : t.cmd = s.cmd
  passAt : ∀ i, (t.stack i).passAt = (s.stack i).passAt

theorem RowKept.refl (s : State) : RowKept s s := ⟨rfl, rfl, rfl, fun _ => rfl⟩

theorem RowKept.trans {s t u : State} (h : RowKept s t) (g : RowKept t u) : RowKept s u :=
  ⟨g.health.trans h.health, g.mem.trans h.mem, g.cmd.trans h.cmd, fun i => (g.passAt i).trans (h.passAt i)⟩

theorem RowKept.ite {s t u : State} {c : Prop} [Decidable c] (h : RowKept s t) (g : RowKept s u) : RowKept s (if c then t else u) := by
  split
  · exact h
  · exact g

theorem RowKept.updPc (s : State) (i : Nat) (f : Pc → Pc) : RowKept s (s.updPc i f) := ⟨rfl, rfl, rfl, fun _ => rfl⟩

theorem RowKept.updStack (s : State) (i : Nat) {f : Stack → Stack} (hf : (f (s.stack i)).passAt = (s.stack i).passAt) : RowKept s (s.updStack i f) := by
  refine ⟨rfl, rfl, rfl, fun j => ?_⟩
  by_cases hj : j = i
  · subst hj; rw [State.stack_updStack_self, hf]
  · rw [State.stack_updStack_other _ _ hj]

theorem RowKept.moveShare (s : State) (stack group : Nat) : RowKept s (s.moveShare stack group) := by
  unfold State.moveShare
  refine RowKept.ite (RowKept.refl s) ?_
  split
  · exact RowKept.updStack s stack rfl
  · exact RowKept.refl s

theorem RowKept.startRetirePc (s : State) (stack pc : Nat) : RowKept s (s.startRetirePc stack pc) := by
  have hlist : ∀ (t : State) (l : List RetUnit), RowKept t (t.setChip { t.chip with retiring := l }) := fun _ _ => ⟨rfl, rfl, rfl, fun _ => rfl⟩
  refine RowKept.ite (RowKept.refl s) ?_
  exact ((RowKept.updPc s _ _).trans (RowKept.ite (RowKept.refl _) (hlist _ _))).trans (RowKept.moveShare _ _ _)

theorem RowKept.rowFailed (s : State) (stack pc block : Nat) : RowKept s (s.rowFailed stack pc block) :=
  RowKept.ite (RowKept.startRetirePc s _ _) (RowKept.updPc s _ _)

/-- An error in a pseudo-channel is counted, for it and for its stack. -/
def State.pcFault (s : State) (stack pc cls outcome : Nat) (inj : Bool) : State :=
  let t := s.fault cls utPc (pcUnit stack pc) 0 outcome inj
  t.setLedger (t.ledger.unitFault (unitKey 0 (pcUnit stack 0) cls) inj outcome)

/-- A fault leaves the commands in progress. -/
theorem State.fault_progs (s : State) (cls : Nat) (ut : Option Nat) (u : BitVec 32) (port outcome : Nat) (inj : Bool) :
    (s.fault cls ut u port outcome inj).cmd.progs = s.cmd.progs := by
  unfold State.fault
  dsimp only
  split <;> rfl

/-- From `s` to `t` one error was counted and taken up, and no Scarab's pass began. -/
def State.errorTaken (s : State) (m : Mem) (t : State) : Prop :=
  t.health.total = s.health.total + 1 ∧ t.mem = m ∧ t.cmd.progs = s.cmd.progs ∧ ∀ i, (t.stack i).passAt = (s.stack i).passAt

theorem State.pcFault_taken (s : State) (m : Mem) (stack pc cls outcome : Nat) (inj : Bool) :
    s.errorTaken m ((s.setMem m).pcFault stack pc cls outcome inj) := by
  obtain ⟨_, hchip, hmem, htotal⟩ := (s.setMem m).fault_parts cls utPc (pcUnit stack pc) 0 outcome inj
  exact ⟨htotal, hmem, State.fault_progs _ _ _ _ _ _ _, fun i => congrArg (fun c : Chip => (c.hbm.getD i Stack.init).passAt) hchip⟩

theorem State.errorTaken.rowKept {s t u : State} {m : Mem} (h : s.errorTaken m t) (g : RowKept t u) : s.errorTaken m u := by
  obtain ⟨htotal, hmem, hprogs, hpass⟩ := h
  exact ⟨by rw [g.health, htotal], g.mem.trans hmem, by rw [g.cmd, hprogs], fun i => (g.passAt i).trans (hpass i)⟩

/-- An error of HBM is counted once, whatever becomes of its row. -/
theorem State.blockError_hbm (s : State) (stack pc b code : Nat) :
    s.errorTaken (s.mem.errorMet b (code % 4 = 2)) (s.blockError (.hbm stack pc) b code) := by
  unfold State.blockError Mem.errorMet
  dsimp only
  by_cases htwo : code % 4 = 2
  · simp only [htwo, if_true, decide_true]
    refine (s.pcFault_taken _ stack pc 2 1 (decide (4 ≤ code))).rowKept ?_
    exact (RowKept.updStack _ _ rfl).trans ((RowKept.updPc _ _ _).trans (RowKept.ite (RowKept.refl _) (RowKept.rowFailed _ _ _ _)))
  · simp only [htwo, if_false, decide_false, Bool.false_eq_true]
    refine (s.pcFault_taken _ stack pc 1 0 (decide (4 ≤ code))).rowKept ?_
    refine (RowKept.updStack _ _ rfl).trans ((RowKept.updPc _ _ _).trans (RowKept.ite (RowKept.refl _) ?_))
    exact (RowKept.ite (RowKept.rowFailed _ _ _ _) (RowKept.refl _)).trans (RowKept.ite (RowKept.startRetirePc _ _ _) (RowKept.refl _))

/-- An error of a core's memory is counted, and nothing else. -/
theorem State.blockError_core (s : State) (k b code : Nat) : (s.blockError (.core k) b code).health.total = s.health.total + 1 ∧
    (s.blockError (.core k) b code).mem = s.mem.errorMet b (code % 4 = 2) := by
  unfold State.blockError Mem.errorMet
  dsimp only
  by_cases htwo : code % 4 = 2
  · simp only [htwo, if_true, decide_true]
    obtain ⟨_, _, hmem, htotal⟩ := State.fault_parts ((s.setMem { s.mem with errors := s.mem.errors.drop b }).setMem
      ({ s.mem with errors := s.mem.errors.drop b }.addPoison b)) 4 utCore (coreUnit k) 0 1 (decide (4 ≤ code))
    exact ⟨htotal, hmem⟩
  · simp only [htwo, if_false, decide_false, Bool.false_eq_true]
    obtain ⟨_, _, hmem, htotal⟩ := State.fault_parts (s.setMem { s.mem with errors := s.mem.errors.drop b }) 4 utCore (coreUnit k) 0 0 (decide (4 ≤ code))
    exact ⟨htotal, hmem⟩

/-- A cluster whose harbour SRAM had an error, as it is counted there. -/
def Cluster.sramError (x : Cluster) (now bank : Nat) (two : Bool) : Cluster :=
  if two then { x with sramUe := min 255 (x.sramUe + 1), sramBad := (bank, now) :: x.sramBad.filter fun e => withinDay now e.2 }
  else { x with sramCe := now :: recent now x.sramCe }

/-- An error of harbour SRAM that the memory itself has is counted with its cluster. -/
theorem State.blockError_harbour (s : State) (c bank b : Nat) {code : Nat} (hown : code < 4) :
    (s.blockError (.harbour c bank) b code).health.total = s.health.total + 1 ∧
      (s.blockError (.harbour c bank) b code).cluster c = (s.cluster c).sramError s.now bank (code % 4 = 2) := by
  unfold State.blockError Cluster.sramError
  dsimp only
  by_cases htwo : code % 4 = 2
  · simp only [htwo, if_true, decide_true, Nat.not_le.2 hown, decide_false, if_false]
    exact ⟨rfl, State.cluster_updCluster_self _ c _⟩
  · simp only [htwo, if_false, decide_false, Bool.false_eq_true, Nat.not_le.2 hown]
    exact ⟨rfl, State.cluster_updCluster_self _ c _⟩

/-- An error found leaves the commands in progress. -/
theorem State.blockError_progs (s : State) (u : MemUnit) (b code : Nat) : (s.blockError u b code).cmd.progs = s.cmd.progs := by
  have hmem : ∀ m, ((if code % 4 = 2 then (s.setMem m).setMem ((s.setMem m).mem.addPoison b) else s.setMem m : State)).cmd.progs = s.cmd.progs := fun m => by
    split <;> rfl
  cases u with
  | hbm stack pc =>
    obtain ⟨_, _, hprogs, _⟩ := s.blockError_hbm stack pc b code
    exact hprogs
  | harbour c bank =>
    unfold State.blockError
    dsimp only
    split <;> exact State.fault_progs _ _ _ _ _ _ _
  | core k => exact (State.fault_progs _ _ _ _ _ _ _).trans (hmem _)
  | elsewhere => exact hmem _

/-! ### A patrol's read -/

/-- Where no error is latent, a patrol finds what its own read meets. -/
theorem State.patrolBlock_eq {s : State} (h : s.mem.errors = []) (u : MemUnit) (key : Option Nat) (code : Nat) :
    s.patrolBlock u key code = if code = 0 then s else match key with
      | none => (s.blockError u 0 code).setMem s.mem
      | some k => s.blockError u (k / 64) code := by
  unfold State.patrolBlock
  rcases key with _ | k
  · rfl
  · simp only [h]
    rfl

/-- A patrol's read changes no byte. -/
theorem State.patrolBlock_cells (s : State) (u : MemUnit) (key : Option Nat) (code : Nat) : (s.patrolBlock u key code).mem.cells = s.mem.cells := by
  unfold State.patrolBlock
  rcases key with _ | k
  · dsimp only
    split <;> rfl
  · dsimp only
    have hlatent : ∀ o : Option Nat, (match o with | some e => s.blockError u (k / 64) e | none => s : State).mem.cells = s.mem.cells := by
      rintro (_ | e)
      · rfl
      · exact (ErrKept.blockError s u _ e).cells
    split
    · exact hlatent _
    · exact (ErrKept.blockError _ u _ code).cells.trans (hlatent _)

end Sys2Proof.Machine
end

section
/-! PROOFS. Patrols, refreshes, a stack that fails, and injected faults (R143, R147, R149, R316, R332, R344, R345). -/

namespace Sys2Proof.Machine

/-! ### PATROL -/

/-- The errors that a PATROL finds are taken up one after another. -/
def State.errorsMet (s : State) (hits : AMap Nat) : State := hits.foldl (fun s e => s.blockError (s.unitOfBlock e.1) e.1 e.2) s

theorem State.errorsMet_spec (s : State) (hits : AMap Nat) : (s.errorsMet hits).mem.cells = s.mem.cells ∧ (s.errorsMet hits).cmd.progs = s.cmd.progs := by
  unfold State.errorsMet
  induction hits generalizing s with
  | nil => exact ⟨rfl, rfl⟩
  | cons e hits ih =>
    obtain ⟨hcells, hprogs⟩ := ih (s.blockError (s.unitOfBlock e.1) e.1 e.2)
    exact ⟨hcells.trans (ErrKept.blockError s _ _ _).cells, hprogs.trans (s.blockError_progs _ _ _)⟩

/-- The words that a PATROL answers. -/
def patrolWords (blocks : Nat) (hits : AMap Nat) : List W64 :=
  [BitVec.ofNat 64 blocks, BitVec.ofNat 64 (hits.filter fun e => e.2 % 4 ≠ 2).length, BitVec.ofNat 64 (hits.filter fun e => e.2 % 4 = 2).length]

theorem patrol_eq {s : State} {n : Nat} {p : Pkt} (h : s.takes n p (isOp 0x0803) patrolBad) {hits : AMap Nat}
    (hhits : hits = s.mem.errors.filter fun e => s.patrolHits p e.1) : exec (.patrol n) s =
      .next (((((s.accept p).errorsMet hits).done p (patrolWords (s.patrolBlocks p) hits)).tagWants s.wire.wants.length none (some (p.ring, p.at_))).checkHead n) := by
  have hfound : ((s.accept p).mem.errors.filter fun e => (s.accept p).patrolHits p e.1) = hits := by rw [hhits, State.accept_eq]; rfl
  have hblocks : (s.accept p).patrolBlocks p = s.patrolBlocks p := by rw [State.accept_eq]; rfl
  show execPatrol n s = _
  unfold execPatrol
  rw [State.command_takes _ h]
  dsimp only
  rw [hfound, hblocks]
  have hbne : (fun e : Nat × Nat => e.2 % 4 != 2) = fun e => decide (e.2 % 4 ≠ 2) := by
    funext e
    rw [Bool.eq_iff_iff, bne_iff_ne, decide_eq_true_iff]
  rw [hbne]
  rfl

theorem patrol_takes {s : State} {n : Nat} {p : Pkt} (h : s.takes n p (isOp 0x0803) patrolBad) {hits : AMap Nat}
    (hhits : hits = s.mem.errors.filter fun e => s.patrolHits p e.1) : Takes (exec (.patrol n) s) n fun u =>
      u.doneAt n p.at_ (patrolWords (s.patrolBlocks p) hits) ∧ s.bytesSame u ∧ (hits = [] → s.only [.cmd] u) := by
  have ⟨hpacket, _, _, _, _, _, _, hprog⟩ := h
  have hring : p.ring = n := State.packet_ring hpacket
  subst hring
  obtain ⟨hcells, hprogs⟩ := (s.accept p).errorsMet_spec hits
  have hmine : ((s.accept p).errorsMet hits).prog p.ring p.at_ = some (s.newProg p) :=
    State.prog_of_progs hprog (hprogs.trans (s.accept_progs p)) rfl rfl
  refine ⟨_, patrol_eq h hhits, ?_, fun a => ?_, fun hnone => ?_⟩
  · rw [State.tagWants_eq]
    exact State.outcomeAt_conclude hmine rfl _
  · rw [State.tagWants_eq]
    show cellGet ((s.accept p).errorsMet hits).mem.cells a = _
    rw [hcells, State.accept_mem]
  · rw [State.tagWants_eq, hnone]
    exact State.only_setWire (State.accept_conclude s p _ hprog).2.2 _

/-! ### Scarab and refresh -/

theorem State.patrolBlock_passAt (s : State) (stack pc : Nat) (key : Option Nat) (code i : Nat) :
    ((s.patrolBlock (.hbm stack pc) key code).stack i).passAt = (s.stack i).passAt := by
  have herror : ∀ (t : State) (b e : Nat), ((t.blockError (.hbm stack pc) b e).stack i).passAt = (t.stack i).passAt := fun t b e => by
    obtain ⟨_, _, _, hpass⟩ := t.blockError_hbm stack pc b e
    exact hpass i
  unfold State.patrolBlock
  rcases key with _ | k
  · dsimp only
    split
    · rfl
    · exact herror s 0 code
  · dsimp only
    have hlatent : ∀ o : Option Nat, ((match o with | some e => s.blockError (.hbm stack pc) (k / 64) e | none => s : State).stack i).passAt = (s.stack i).passAt := by
      rintro (_ | e)
      · rfl
      · exact herror s _ e
    split
    · exact hlatent _
    · exact (herror _ _ _).trans (hlatent _)

/-- What Scarab's read of a stack's block finds. -/
def State.scarabFinds (s : State) (i sym : Nat) : State :=
  if (s.stack i).scarabAt % 2 ^ 26 * 64 < s.groupSize i ((s.stack i).scarabAt / 2 ^ 26) then
    s.patrolBlock (.hbm i (s.pcOf i ((s.stack i).scarabAt / 2 ^ 26) ((s.stack i).scarabAt % 2 ^ 26 * 64)))
      (s.stackKey i ((s.stack i).scarabAt / 2 ^ 26) ((s.stack i).scarabAt % 2 ^ 26 * 64)) sym
  else s

theorem scarabRead_eq {s : State} {i sym : Nat} (hclock : s.clocked = true) (hi : i < 16) (hsym : sym ≤ 3) (hst : (s.stack i).st = .inService) :
    exec (.scarabRead i sym) s = .next ((s.scarabFinds i sym).updStack i fun x =>
      { x with scarabAt := ((s.stack i).scarabAt + 1) % 2 ^ 30, passAt := if (s.stack i).scarabAt + 1 = 2 ^ 30 then s.now else x.passAt }) := by
  show execScarabRead i sym s = _
  unfold execScarabRead
  refine State.when_eq ?_
  rw [hclock, decide_eq_true hi, decide_eq_true hsym, hst]
  rfl

theorem State.scarabFinds_cells (s : State) (i sym : Nat) : (s.scarabFinds i sym).mem.cells = s.mem.cells := by
  unfold State.scarabFinds
  split
  · exact s.patrolBlock_cells _ _ _
  · rfl

theorem State.scarabFinds_passAt (s : State) (i sym : Nat) : ((s.scarabFinds i sym).stack i).passAt = (s.stack i).passAt := by
  unfold State.scarabFinds
  split
  · exact s.patrolBlock_passAt _ _ _ _ _
  · rfl

theorem State.scarabFinds_nothing {s : State} (h : s.mem.errors = []) (i : Nat) : s.scarabFinds i 0 = s := by
  unfold State.scarabFinds
  rw [State.patrolBlock_eq h, if_pos rfl, ite_self]

/-- What Scarab's read of a block within the pages' part of its stack finds, where no error is latent. -/
theorem State.scarabFinds_block {s : State} {i key : Nat} (sym : Nat) (hin : (s.stack i).scarabAt % 2 ^ 26 * 64 < s.groupSize i ((s.stack i).scarabAt / 2 ^ 26))
    (hkey : s.stackKey i ((s.stack i).scarabAt / 2 ^ 26) ((s.stack i).scarabAt % 2 ^ 26 * 64) = some key) (h : s.mem.errors = []) :
    ∃ pc, s.scarabFinds i sym = if sym = 0 then s else s.blockError (.hbm i pc) (key / 64) sym := by
  refine ⟨s.pcOf i ((s.stack i).scarabAt / 2 ^ 26) ((s.stack i).scarabAt % 2 ^ 26 * 64), ?_⟩
  unfold State.scarabFinds
  rw [if_pos hin, State.patrolBlock_eq h, hkey]

theorem hbmError_counts (s : State) (stack pc b : Nat) {sym : Nat} (hsym : sym ≤ 3) (u : State) (hu : u = if sym = 0 then s else s.blockError (.hbm stack pc) b sym) :
    (sym = 2 → b ∈ u.mem.poison) ∧ (sym ≠ 2 → u.mem.poison = s.mem.poison) ∧ (sym ≠ 0 → u.health.total = s.health.total + 1) := by
  obtain ⟨htotal, hmem, _⟩ := s.blockError_hbm stack pc b sym
  subst hu
  refine ⟨fun htwo => ?_, fun hne => ?_, fun hne => ?_⟩
  · rw [if_neg (by omega), hmem, htwo]
    exact Mem.mem_addPoison _ _
  · split
    · rfl
    · rw [hmem, Mem.errorMet, decide_eq_false (by omega)]
      rfl
  · rw [if_neg hne, htotal]

theorem State.updStack_parts (t : State) (i : Nat) (f : Stack → Stack) :
    (t.updStack i f).mem = t.mem ∧ (t.updStack i f).health = t.health ∧ t.only [.chip] (t.updStack i f) :=
  ⟨rfl, rfl, State.only.setChip (State.only_refl t _) (by decide) _⟩

/-- Scarab's step over a block, told of any length `m` of its pass: where it stands, and when its pass was last done. -/
theorem State.scarabStep (t : State) (i n m now : Nat) :
    ((t.updStack i fun x => { x with scarabAt := n % m, passAt := if n = m then now else x.passAt }).stack i).scarabAt = n % m ∧
      ((t.updStack i fun x => { x with scarabAt := n % m, passAt := if n = m then now else x.passAt }).stack i).passAt = if n = m then now else (t.stack i).passAt := by
  rw [State.stack_updStack_self]
  exact ⟨rfl, rfl⟩

theorem scarabRead_answers {s : State} {i sym : Nat} (hclock : s.clocked = true) (hi : i < 16) (hsym : sym ≤ 3) (hst : (s.stack i).st = .inService) :
    Answers (exec (.scarabRead i sym) s) fun t => s.bytesSame t ∧
      (t.stack i).scarabAt = ((s.stack i).scarabAt + 1) % 2 ^ 30 ∧ (t.stack i).passAt = (if (s.stack i).scarabAt + 1 = 2 ^ 30 then s.now else (s.stack i).passAt) ∧
      (sym = 0 → s.mem.errors = [] → s.only [.chip] t) ∧
      (∀ key, (s.stack i).scarabAt % 2 ^ 26 * 64 < s.groupSize i ((s.stack i).scarabAt / 2 ^ 26) →
        s.stackKey i ((s.stack i).scarabAt / 2 ^ 26) ((s.stack i).scarabAt % 2 ^ 26 * 64) = some key →
        s.mem.errors = [] → (sym = 2 → key / 64 ∈ t.mem.poison) ∧ (sym ≠ 2 → t.mem.poison = s.mem.poison) ∧ (sym ≠ 0 → t.health.total = s.health.total + 1)) := by
  obtain ⟨hat, hpass⟩ := State.scarabStep (s.scarabFinds i sym) i ((s.stack i).scarabAt + 1) (2 ^ 30) s.now
  rw [State.scarabFinds_passAt] at hpass
  obtain ⟨hmem, hhealth, honly⟩ := (s.scarabFinds i sym).updStack_parts i fun x =>
    { x with scarabAt := ((s.stack i).scarabAt + 1) % 2 ^ 30, passAt := if (s.stack i).scarabAt + 1 = 2 ^ 30 then s.now else x.passAt }
  refine ⟨_, scarabRead_eq hclock hi hsym hst, fun a => ?_, hat, hpass, fun hzero hnone => ?_, fun key hin hkey hnone => ?_⟩
  · rw [hmem, State.scarabFinds_cells]
  · subst hzero
    rwa [State.scarabFinds_nothing hnone] at honly ⊢
  · obtain ⟨pc, hfinds⟩ := State.scarabFinds_block sym hin hkey hnone
    rw [hmem, hhealth]
    exact hbmError_counts s i pc (key / 64) hsym (s.scarabFinds i sym) hfinds

theorem execHbmRefresh_eq {s : State} {i pc : Nat} (bank : Nat) (hclock : s.clocked = true) (hi : i < 16) (hpc : pc < 64) (hst : (s.stack i).st ≠ .retired)
    (hpcst : (s.pc (64 * i + pc)).st ≠ .retired) : execHbmRefresh i pc bank s =
      .next (s.updPc (64 * i + pc) fun x => { x with refreshes := x.refreshes.put bank (x.refreshes.getD bank 0 + 1) }) := by
  unfold execHbmRefresh AMap.upd
  refine State.when_eq ?_
  simp [hclock, hi, hpc, hst, hpcst]

theorem exec_hbmRefresh (s : State) (i pc bank : Nat) : exec (.hbmRefresh i pc bank) s = execHbmRefresh i pc bank s := rfl

theorem hbmRefresh_eq {s : State} {i pc : Nat} (bank : Nat) (hclock : s.clocked = true) (hi : i < 16) (hpc : pc < 64) (hst : (s.stack i).st ≠ .retired)
    (hpcst : (s.pc (64 * i + pc)).st ≠ .retired) : exec (.hbmRefresh i pc bank) s =
      .next (s.updPc (64 * i + pc) fun x => { x with refreshes := x.refreshes.put bank (x.refreshes.getD bank 0 + 1) }) :=
  (exec_hbmRefresh s i pc bank).trans (execHbmRefresh_eq bank hclock hi hpc hst hpcst)

end Sys2Proof.Machine
end

section
/-! PROOFS. Patrols of harbour SRAM and of the cores' memories, a stack that fails, and injected faults (R143, R150, R316, R332, R334, R344, R345). -/

namespace Sys2Proof.Machine

/-! ### Patrols of harbour SRAM -/

/-- A patrol's read of a block of a cluster's harbour SRAM. -/
def State.harbourRead (s : State) (c b sym : Nat) : State := s.patrolBlock (.harbour c (b / 4 % 32)) (s.physKey (sramAddr c (64 * b))) sym

/-- What a patrol of harbour SRAM counts where no error is latent. -/
theorem State.harbourRead_counts {s : State} (h : s.mem.errors = []) (c b : Nat) {sym : Nat} (hsym : sym ≤ 2) :
    (sym = 0 → s.harbourRead c b sym = s) ∧ (sym ≠ 0 → (s.harbourRead c b sym).health.total = s.health.total + 1 ∧
      (s.harbourRead c b sym).cluster c = (s.cluster c).sramError s.now (b / 4 % 32) (sym % 4 = 2)) ∧ (s.harbourRead c b sym).now = s.now ∧
      (s.harbourRead c b sym).comp = s.comp := by
  unfold State.harbourRead
  rw [State.patrolBlock_eq h]
  refine ⟨fun hzero => if_pos hzero, fun hne => ?_, ?_, ?_⟩
  · rw [if_neg hne]
    rcases s.physKey (sramAddr c (64 * b)) with _ | k
    · exact s.blockError_harbour c _ 0 (by omega)
    · exact s.blockError_harbour c _ (k / 64) (by omega)
  · split
    · rfl
    · rcases s.physKey (sramAddr c (64 * b)) with _ | k
      · exact congrArg (·.counter.toNat) (ErrKept.blockError s (.harbour c (b / 4 % 32)) 0 sym).clk
      · exact congrArg (·.counter.toNat) (ErrKept.blockError s (.harbour c (b / 4 % 32)) (k / 64) sym).clk
  · split
    · rfl
    · rcases s.physKey (sramAddr c (64 * b)) with _ | k
      · exact (ErrKept.blockError s (.harbour c (b / 4 % 32)) 0 sym).comp
      · exact (ErrKept.blockError s (.harbour c (b / 4 % 32)) (k / 64) sym).comp

/-- A cluster with few poisoned blocks has not 16 in one bank. -/
theorem Cluster.manyPoisoned_few {x : Cluster} (h : x.sramBad.length < 16) (now : Nat) : x.manyPoisoned now = false := by
  unfold Cluster.manyPoisoned
  rw [List.any_eq_false]
  intro b _
  rw [decide_eq_true_eq, not_le]
  exact (List.length_filter_le _ _).trans_lt h

theorem Cluster.sramError_few {x : Cluster} (h : x.sramBad.length < 15) (now bank : Nat) (two : Bool) : (x.sramError now bank two).sramBad.length < 16 := by
  unfold Cluster.sramError
  split
  · have hkeep := List.length_filter_le (fun e : Nat × Nat => withinDay now e.2) x.sramBad
    simp only [List.length_cons]
    omega
  · exact Nat.lt_succ_of_lt h

/-- A bank's 16th poisoned block within a day. -/
theorem Cluster.sramError_many {x : Cluster} {now bank : Nat} (hbank : bank < 32)
    (h : 15 ≤ (x.sramBad.filter fun e => e.1 = bank && withinDay now e.2).length) : (x.sramError now bank true).manyPoisoned now = true := by
  unfold Cluster.manyPoisoned
  refine List.any_eq_true.2 ⟨bank, List.mem_range.2 hbank, ?_⟩
  have hnow : withinDay now now = true := by simp [withinDay]
  have hagain : (List.filter (fun e : Nat × Nat => decide (e.1 = bank) && withinDay now e.2) (x.sramBad.filter fun e => withinDay now e.2)).length =
      (x.sramBad.filter fun e => e.1 = bank && withinDay now e.2).length := by
    rw [List.filter_filter]
    simp only [Bool.and_assoc, Bool.and_self]
  rw [decide_eq_true_eq]
  simp only [Cluster.sramError, if_true, List.filter_cons, hnow, decide_true, Bool.and_self, List.length_cons, hagain]
  omega

theorem harbourPatrol_eq {s : State} {c b sym : Nat} (hclock : s.clocked = true) (hsym : sym ≤ 2) (hc : c < 24) (hb : b < 2 ^ 18) (hin : s.inService c = true) :
    exec (.sramPatrolRead (.harbour c) b sym) s = .next ((s.harbourRead c b sym).bankCheck c) := by
  show execSramPatrolRead (.harbour c) b sym s = _
  unfold execSramPatrolRead
  refine State.when_eq ?_
  rw [hclock, hin, decide_eq_true hsym, decide_eq_true hc, decide_eq_true hb]
  rfl

theorem State.bankCheck_few {s : State} {c : Nat} (h : (s.cluster c).sramBad.length < 16) : s.bankCheck c = s := by
  unfold State.bankCheck
  rw [Cluster.manyPoisoned_few h]
  rfl

theorem harbourPatrol_answers {s : State} {c b sym : Nat} (hclock : s.clocked = true) (hsym : sym ≤ 2) (hc : c < 24) (hb : b < 2 ^ 18) (hin : s.inService c = true)
    (hfew : (s.cluster c).sramBad.length < 15) (hnone : s.mem.errors = []) : Answers (exec (.sramPatrolRead (.harbour c) b sym) s) fun t =>
      s.bytesSame t ∧ (sym = 0 → t.health = s.health) ∧ (sym ≠ 0 → t.health.total = s.health.total + 1) := by
  obtain ⟨hzero, hsome, _⟩ := State.harbourRead_counts hnone c b hsym
  have hstill : (s.harbourRead c b sym).bankCheck c = s.harbourRead c b sym := by
    refine State.bankCheck_few ?_
    by_cases h0 : sym = 0
    · rw [hzero h0]
      exact Nat.lt_succ_of_lt hfew
    · rw [(hsome h0).2]
      exact Cluster.sramError_few hfew _ _ _
  rw [harbourPatrol_eq hclock hsym hc hb hin, hstill]
  refine ⟨_, rfl, fun a => ?_, fun h0 => by rw [hzero h0], fun hne => (hsome hne).1⟩
  rw [State.harbourRead, State.patrolBlock_cells]

/-- The 16th block that a bank poisons within a day resets its cluster by force, to be retired. -/
theorem harbourPatrol_resets {s : State} {c b : Nat} (hclock : s.clocked = true) (hc : c < 24) (hb : b < 2 ^ 18) (hin : s.inService c = true)
    (hsvc : (s.cluster c).svc = .inService) (hnone : s.mem.errors = []) (hidle : s.noStart)
    (hmany : 15 ≤ ((s.cluster c).sramBad.filter fun e => e.1 = b / 4 % 32 && withinDay s.now e.2).length) :
    Answers (exec (.sramPatrolRead (.harbour c) b 2) s) fun t => (t.cluster c).svc = .resetting ∧ (t.cluster c).retireAfter = true := by
  obtain ⟨_, hsome, hnow, hcomp⟩ := State.harbourRead_counts hnone c b (sym := 2) (by decide)
  obtain ⟨_, hcluster⟩ := hsome (by decide)
  have hpoisoned : ((s.harbourRead c b 2).cluster c).manyPoisoned (s.harbourRead c b 2).now = true := by
    rw [hnow, hcluster]
    exact Cluster.sramError_many (Nat.mod_lt _ (by decide)) hmany
  have hserves : ((s.harbourRead c b 2).cluster c).svc = .inService := by rw [hcluster]; exact hsvc
  have hreset : (s.harbourRead c b 2).bankCheck c = ((s.harbourRead c b 2).forcedReset c true).startWaiting := by
    unfold State.bankCheck
    refine if_pos ?_
    rw [hpoisoned, hserves, decide_eq_true rfl, Bool.true_or, Bool.and_self]
  obtain ⟨hsvc', hretire, _⟩ := State.forcedReset_spec (s := s.harbourRead c b 2) c true fun e he => hidle e (by rwa [hcomp] at he)
  rw [harbourPatrol_eq hclock (by decide) hc hb hin, hreset]
  exact ⟨_, rfl, hsvc', by rw [hretire, Bool.or_true]⟩

/-! ### Patrols of the cores' memories -/

theorem operandPatrol_answers {s : State} {k b sym : Nat} (hclock : s.clocked = true) (hsym : sym ≤ 2) (hk : k < 408) (hon : s.enabled (clusterOf k) = true)
    (hb : b < 2 ^ 14) (hnone : s.mem.errors = []) : Answers (exec (.sramPatrolRead (.operand k) b sym) s) fun t =>
      s.bytesSame t ∧ (sym = 0 → t.health = s.health) ∧ (sym ≠ 0 → t.health.total = s.health.total + 1) ∧ (sym = 2 → sramKey k (64 * b) / 64 ∈ t.mem.poison) := by
  have heq : exec (.sramPatrolRead (.operand k) b sym) s = .next (s.patrolBlock (.core k) (some (sramKey k (64 * b))) sym) := by
    show execSramPatrolRead (.operand k) b sym s = _
    unfold execSramPatrolRead
    refine State.when_eq ?_
    simp [hclock, hon, hsym, hk]
    simpa using hb
  obtain ⟨htotal, hmem⟩ := s.blockError_core k (sramKey k (64 * b) / 64) sym
  rw [heq]
  refine ⟨_, rfl, fun a => by rw [State.patrolBlock_cells], ?_⟩
  rw [State.patrolBlock_eq hnone]
  refine ⟨fun h0 => by rw [if_pos h0], fun hne => by rw [if_neg hne, htotal], fun htwo => ?_⟩
  rw [if_neg (by omega), hmem, htwo]
  exact Mem.mem_addPoison _ _

theorem accumulatorPatrol_answers {s : State} {k b sym : Nat} (hclock : s.clocked = true) (hsym : sym ≤ 2) (hk : k < 408) (hon : s.enabled (clusterOf k) = true)
    (hb : b < 8192) : Answers (exec (.sramPatrolRead (.accumulator k) b sym) s) fun t =>
      s.bytesSame t ∧ (sym = 0 → t.health = s.health) ∧ (sym ≠ 0 → t.health.total = s.health.total + 1) ∧
        (sym = 2 → b % 1024 ∈ ((t.coreOf k).tiles.getD (b / 1024) Tile.init).bad) := by
  have heq : exec (.sramPatrolRead (.accumulator k) b sym) s = .next (s.patrolTile k b sym) := by
    show execSramPatrolRead (.accumulator k) b sym s = _
    unfold execSramPatrolRead
    refine State.when_eq ?_
    simp [hclock, hon, hsym, hk, hb]
  rw [heq]
  refine ⟨_, rfl, ?_⟩
  unfold State.patrolTile
  by_cases h0 : sym = 0
  · rw [if_pos h0]
    exact ⟨fun _ => rfl, fun _ => rfl, fun hne => absurd h0 hne, fun htwo => by omega⟩
  · obtain ⟨_, _, hmem, htotal⟩ := s.fault_parts 4 utCore (coreUnit k) 0 (if sym = 2 then 1 else 0) false
    rw [if_neg h0]
    dsimp only
    by_cases htwo : sym = 2
    · rw [if_pos htwo]
      refine ⟨fun a => congrArg (fun m : Mem => cellGet m.cells a) hmem, fun h => absurd h h0, fun _ => htotal, fun _ => ?_⟩
      rw [State.coreOf_updCore_self]
      show b % 1024 ∈ (AMap.getD (AMap.put _ (b / 1024) _) (b / 1024) Tile.init).bad
      rw [AMap.getD_put_self, List.mem_dedup]
      exact List.mem_cons_self
    · rw [if_neg htwo]
      exact ⟨fun a => congrArg (fun m : Mem => cellGet m.cells a) hmem, fun h => absurd h h0, fun _ => htotal, fun h => absurd h htwo⟩

theorem instructionPatrol_answers {s : State} {k b sym : Nat} (hclock : s.clocked = true) (hsym : sym ≤ 2) (hk : k < 408) (hon : s.enabled (clusterOf k) = true)
    (hb : b < 4096) (hnone : s.mem.errors = []) : Answers (exec (.sramPatrolRead (.instruction k) b sym) s) fun t =>
      s.bytesSame t ∧ (sym = 0 → t.health = s.health) ∧ (sym ≠ 0 → t.health.total = s.health.total + 1) ∧ imemKey k (64 * b) / 64 ∉ t.mem.poison := by
  have heq : exec (.sramPatrolRead (.instruction k) b sym) s = .next (s.patrolImem k b sym) := by
    show execSramPatrolRead (.instruction k) b sym s = _
    unfold execSramPatrolRead
    refine State.when_eq ?_
    simp [hclock, hon, hsym, hk, hb]
  obtain ⟨_, _, hmem, htotal⟩ := s.fault_parts 4 utCore (coreUnit k) 0 0 (decide (4 ≤ sym))
  have hread : ∀ u : State, u.mem = s.mem → ∀ v, v = u.setMem
      { u.mem with
        errors := u.mem.errors.drop (imemKey k (64 * b) / 64)
        poison := u.mem.poison.filter (· != imemKey k (64 * b) / 64) } → s.bytesSame v ∧ imemKey k (64 * b) / 64 ∉ v.mem.poison := by
    rintro u hu v rfl
    refine ⟨fun a => ?_, fun hin => by simpa using (List.mem_filter.1 hin).2⟩
    show cellGet u.mem.cells a = _
    rw [hu]
  rw [heq]
  refine ⟨_, rfl, ?_⟩
  unfold State.patrolImem
  by_cases h0 : sym = 0
  · obtain ⟨hbytes, hclear⟩ := hread s rfl _ rfl
    subst h0
    rw [hnone] at *
    exact ⟨hbytes, fun _ => rfl, fun hne => absurd rfl hne, hclear⟩
  · obtain ⟨hbytes, hclear⟩ := hread _ hmem _ rfl
    have hcode : (if (sym != 0) = true then sym else (s.mem.errors.get? (imemKey k (64 * b) / 64)).getD 0) = sym := if_pos (bne_iff_ne.2 h0)
    dsimp only
    rw [hcode, if_neg h0]
    exact ⟨hbytes, fun h => absurd h h0, fun _ => htotal, hclear⟩

/-! ### A stack that fails -/

/-- From `s` to `t` blocks were poisoned: no byte changed, and no mark was taken away. -/
structure Poisoned (s t : State) : Prop where
  cells : t.mem.cells = s.mem.cells
  chip : t.chip = s.chip
  kept : ∀ b ∈ s.mem.poison, b ∈ t.mem.poison

theorem Poisoned.refl (s : State) : Poisoned s s := ⟨rfl, rfl, fun _ h => h⟩

theorem Poisoned.trans {s t u : State} (h : Poisoned s t) (g : Poisoned t u) : Poisoned s u :=
  ⟨g.cells.trans h.cells, g.chip.trans h.chip, fun b hb => g.kept b (h.kept b hb)⟩

theorem Mem.foldl_addPoison (bs : List Nat) (m : Mem) : (bs.foldl Mem.addPoison m).cells = m.cells ∧
    ∀ b, b ∈ bs ∨ b ∈ m.poison → b ∈ (bs.foldl Mem.addPoison m).poison := by
  induction bs generalizing m with
  | nil => exact ⟨rfl, fun b hb => hb.resolve_left List.not_mem_nil⟩
  | cons c bs ih =>
    obtain ⟨hcells, hpoison⟩ := ih (m.addPoison c)
    refine ⟨hcells, fun b hb => hpoison b ?_⟩
    rcases hb with hb | hb
    · rcases List.mem_cons.1 hb with rfl | hb
      · exact .inr (Mem.mem_addPoison m b)
      · exact .inl hb
    · refine .inr ?_
      unfold Mem.addPoison
      dsimp only
      split
      · exact hb
      · exact List.mem_cons_of_mem c hb

theorem Poisoned.poisonBlocks (s : State) (bs : List Nat) : Poisoned s (s.poisonBlocks bs) :=
  ⟨(Mem.foldl_addPoison bs s.mem).1, rfl, fun b hb => (Mem.foldl_addPoison bs s.mem).2 b (.inr hb)⟩

theorem Poisoned.foldl {α : Type} (f : α → List Nat) (l : List α) (s : State) : Poisoned s (l.foldl (fun s x => s.poisonBlocks (f x)) s) := by
  induction l generalizing s with
  | nil => exact Poisoned.refl s
  | cons x l ih => exact (Poisoned.poisonBlocks s _).trans (ih _)

theorem State.layShares_retiring (s : State) : s.layShares.chip.retiring = s.chip.retiring := by
  have hfold : ∀ (f : Nat → Nat) (l : List Nat) (t : State),
      (l.foldl (fun s i => s.updStack i fun x => { x with sysUnits := f i }) t).chip.retiring = t.chip.retiring := by
    intro f l t
    induction l generalizing t with
    | nil => rfl
    | cons i l ih => rw [List.foldl_cons, ih]; rfl
  exact hfold _ _ s

/-- A failed stack is emptied: it is to be retired, and holds no share of the system region. -/
theorem State.emptyStack_failed {s : State} {i : Nat} (hi : i < 16) (hst : (s.stack i).st = .failed) :
    ((s.emptyStack i).stack i).st = .failed ∧ ((s.emptyStack i).stack i).sysUnits = 0 ∧ (s.emptyStack i).chip.retiring.contains (.stack i) = true ∧
      (s.emptyStack i).mem = s.mem ∧ (s.emptyStack i).side = s.side := by
  have hlisted : ∃ l, RetUnit.stack i ∈ l ∧ s.emptyStack i = (s.setChip { s.chip with retiring := l }).layShares := by
    unfold State.emptyStack
    rw [if_neg (by rw [hst]; decide)]
    dsimp only
    split
    · next hin => exact ⟨s.chip.retiring, List.contains_iff_mem.1 hin, rfl⟩
    · exact ⟨_, List.mem_append_right _ (List.mem_singleton_self _), rfl⟩
  obtain ⟨l, hl, heq⟩ := hlisted
  have hlaid := SharesLaid.layShares (s.setChip { s.chip with retiring := l })
  rw [heq]
  refine ⟨(hlaid.st i).trans hst, ?_, ?_, hlaid.only.2 .mem (by decide), hlaid.side⟩
  · rw [hlaid.units i (List.mem_range.2 hi), shareOf, if_neg]
    rw [List.contains_eq_mem, decide_eq_true_iff, List.mem_filter]
    rintro ⟨_, hin⟩
    have hfailed : ((s.setChip { s.chip with retiring := l }).stack i).st = .failed := hst
    rw [hfailed] at hin
    exact absurd hin (by decide)
  · rw [State.layShares_retiring]
    exact List.contains_iff_mem.2 hl

theorem stackLinkError_answers {s : State} {i : Nat} (hclock : s.clocked = true) (hi : i < 16) (hst : (s.stack i).st = .inService) :
    Answers (exec (.stackLinkError i false) s) fun t => (t.stack i).st = .failed ∧ (t.stack i).sysUnits = 0 ∧
      t.chip.retiring.contains (.stack i) = true ∧ t.side.attnCause.getLsbD 0 = true ∧ s.bytesSame t ∧ ∀ b ∈ s.systemBlocks i, b ∈ t.mem.poison := by
  have heq : exec (.stackLinkError i false) s = .next (s.failStack i) := by
    show execStackLinkError i false s = _
    refine State.when_eq ?_
    rw [hclock, decide_eq_true hi, hst]
    rfl
  rw [heq]
  refine ⟨_, rfl, ?_⟩
  unfold State.failStack
  extract_lets own peers poisoned failed
  have hpoisoned : Poisoned s poisoned := (Poisoned.poisonBlocks s _).trans (Poisoned.foldl _ peers own)
  have hblocks : ∀ b ∈ s.systemBlocks i, b ∈ poisoned.mem.poison := fun b hb =>
    (Poisoned.foldl (fun f : Nat × Nat => blocksOf (stashKey f.1 0) (2 ^ 21)) peers own).kept b ((Mem.foldl_addPoison _ s.mem).2 b (.inl hb))
  have hfailed : (failed.stack i).st = .failed := by
    show ((poisoned.updStack i fun x => { x with st := .failed }).stack i).st = _
    rw [State.stack_updStack_self]
  obtain ⟨hst', hunits, hlisted, hmem, hside⟩ := State.emptyStack_failed hi hfailed
  refine ⟨hst', hunits, hlisted, ?_, fun a => ?_, fun b hb => ?_⟩
  · rw [hside]
    show (poisoned.side.attnCause ||| BitVec.ofNat 32 (2 ^ 0)).getLsbD 0 = true
    rw [BitVec.getLsbD_or]
    simp
  · rw [hmem]
    exact congrArg (fun x => cellGet x a) hpoisoned.cells
  · rw [hmem]
    exact hblocks b hb

/-! ### FAULT_INJECT -/

/-- A reset that FAULT_INJECT asks for. -/
theorem faultInject_resets {s : State} {p : Pkt} (h : s.takes 256 p (isOp 0x0804) faultInjectBad) (hcls : p.f 0 7 0 = 19) :
    Takes (exec .faultInject s) 256 fun u => s.resets 9 u ∧ u.ledger.snapAt = s.now := by
  have heq : exec .faultInject s = .next ((((s.accept p).hardReset 0x13 0 9 true).tagWants s.wire.wants.length none (some (p.ring, p.at_))).checkHead 256) := by
    show execFaultInject s = _
    unfold execFaultInject
    rw [show adminRing = 256 from rfl, State.command_takes _ h]
    dsimp only
    rw [if_pos hcls]
  have hresets : s.resets 9 ((s.accept p).hardReset 0x13 0 9 true) :=
    State.hardReset_resets 0x13 0 9 true (State.only_mono (by decide) (s.accept_only p)) (s.accept_wire p) (by rw [State.accept_ledger])
      (by rw [State.accept_chip]) (by rw [State.accept_chip])
  have htags : ((s.accept p).hardReset 0x13 0 9 true).tagWants s.wire.wants.length none (some (p.ring, p.at_)) = (s.accept p).hardReset 0x13 0 9 true := by
    have hwire := hresets.2.2.2.2.2.2.2.2.2.2.2.2.2.2.1
    unfold State.tagWants
    rw [hwire]
    rfl
  refine ⟨_, heq, ?_⟩
  rw [htags]
  refine ⟨hresets, ?_⟩
  have hsnap := (((s.accept p).fault 0x13 none 0 0 5 true).moduleReset_resets 9).2.2 (by decide)
  have hclk : ((s.accept p).fault 0x13 none 0 0 5 true).clk = s.clk := ((State.fault_frame _ _ _ _ _ _ _).1.2 .clk (by decide)).trans (s.accept_clk p)
  exact hsnap.trans (congrArg (·.counter.toNat) hclk)

/-- Faults of another class are armed. -/
theorem faultInject_arms {s : State} {p : Pkt} (h : s.takes 256 p (isOp 0x0804) faultInjectBad) (hcls : p.f 0 7 0 ≠ 19) :
    Takes (exec .faultInject s) 256 fun u => s.inProgress p u ∧ s.only [.cmd, .health] u ∧ u.outcomeAt 256 p.at_ = none ∧
      u.health = { s.health with armed := s.health.armed ++ [(p.f 0 7 0, p.lo 1, (p.w 2).toNat)] } := by
  have ⟨hpacket, _, _, _, _, _, _, hprog⟩ := h
  have hring : p.ring = 256 := State.packet_ring hpacket
  have heq : exec .faultInject s = .next ((((s.accept p).setHealth { (s.accept p).health with
      armed := (s.accept p).health.armed ++ [(p.f 0 7 0, p.target, (p.w 2).toNat)] }).tagWants s.wire.wants.length none (some (p.ring, p.at_))).checkHead 256) := by
    show execFaultInject s = _
    unfold execFaultInject
    rw [show adminRing = 256 from rfl, State.command_takes _ h]
    dsimp only
    rw [if_neg hcls]
  have honly : s.only [.cmd, .health] ((s.accept p).setHealth { (s.accept p).health with
      armed := (s.accept p).health.armed ++ [(p.f 0 7 0, p.target, (p.w 2).toNat)] }) := by
    refine State.only_trans (State.only_mono (by decide) (s.accept_only p)) ⟨rfl, fun q hq => ?_⟩
    cases q <;> simp [State.same] at hq ⊢
  obtain ⟨hin, hout⟩ := State.inProgress_of_cmd (u := (s.accept p).setHealth { (s.accept p).health with
      armed := (s.accept p).health.armed ++ [(p.f 0 7 0, p.target, (p.w 2).toNat)] }) (by rw [hring]; exact hprog) rfl
  refine ⟨_, heq, ?_⟩
  rw [State.tagWants_eq]
  refine ⟨hin, State.only_setWire honly _, ?_, ?_⟩
  · rw [hring] at hout
    exact hout
  · show ({ (s.accept p).health with armed := _ } : Health) = _
    rw [State.accept_health]
    rfl

/-- A FAULT_INJECT answers once its faults are made or 1 s has passed. -/
theorem faultInject_outcome {s : State} {g : Prog} {left : Nat} (hop : phOp g.hdr = 0x0804) (hwork : g.work = .none) (hopen : g.outcome = none)
    (hleft : left = ((s.health.armed.filter fun a => a.1 = g.pkt.f 0 7 0 && a.2.1 = g.pkt.lo 1).map (·.2.2)).sum) :
    (left = 0 ∨ g.acceptedAt + 25000000 ≤ s.now →
      s.progOutcome g = some { status := 0, note := 0, detail := 0, results := [BitVec.ofNat 64 ((g.pkt.w 2).toNat - left)] }) ∧
    (left ≠ 0 → s.now < g.acceptedAt + 25000000 → s.progOutcome g = none) := by
  have heq : s.progOutcome g = s.injectOutcome g := by
    unfold State.progOutcome
    rw [hopen, hwork, hop]
    rfl
  have hinject : s.injectLeft g = left := hleft.symm
  rw [heq, State.injectOutcome, hinject]
  refine ⟨fun h => if_pos ?_, fun hne hearly => if_neg ?_⟩
  · rw [Bool.or_eq_true, decide_eq_true_iff]
    exact h.imp_right fun hlate => decide_eq_true (by simpa [ticksPerUs] using hlate)
  · rw [Bool.or_eq_true, decide_eq_true_iff, not_or]
    refine ⟨hne, fun hlate => ?_⟩
    have hpast : g.acceptedAt + 1000000 * ticksPerUs ≤ s.now := of_decide_eq_true hlate
    rw [ticksPerUs] at hpast
    omega

end Sys2Proof.Machine
end

section
/-! PROOFS. Patrols of memory, and mismatches of the duplicated blocks (R147, R149, R150, R316 to R318, R344). -/

namespace Sys2Proof.Machine

theorem sramPatrol_answers {s : State} {u : SramUnit} {b sym : Nat} (hclock : s.clocked = true) (hsym : sym ≤ 2)
    (hu : match u with
      | .harbour c => c < 24 ∧ b < 2 ^ 18 ∧ s.inService c = true ∧ (s.cluster c).sramBad.length < 15
      | .operand k => k < 408 ∧ s.enabled (clusterOf k) = true ∧ b < 2 ^ 14
      | .accumulator k => k < 408 ∧ s.enabled (clusterOf k) = true ∧ b < 8192
      | .instruction k => k < 408 ∧ s.enabled (clusterOf k) = true ∧ b < 4096) (hnone : s.mem.errors = []) :
    Answers (exec (.sramPatrolRead u b sym) s) fun t => s.bytesSame t ∧ (sym = 0 → t.health = s.health) ∧ (sym ≠ 0 → t.health.total = s.health.total + 1) ∧
      (∀ k, u = .operand k → sym = 2 → sramKey k (64 * b) / 64 ∈ t.mem.poison) ∧
      (∀ k, u = .accumulator k → sym = 2 → b % 1024 ∈ ((t.coreOf k).tiles.getD (b / 1024) Tile.init).bad) ∧
      (∀ k, u = .instruction k → imemKey k (64 * b) / 64 ∉ t.mem.poison) := by
  cases u with
  | harbour c =>
    obtain ⟨hc, hb, hin, hfew⟩ := hu
    obtain ⟨t, ht, hbytes, hzero, hsome⟩ := harbourPatrol_answers hclock hsym hc hb hin hfew hnone
    exact ⟨t, ht, hbytes, hzero, hsome, nofun, nofun, nofun⟩
  | operand k =>
    obtain ⟨hk, hon, hb⟩ := hu
    obtain ⟨t, ht, hbytes, hzero, hsome, hpoison⟩ := operandPatrol_answers hclock hsym hk hon hb hnone
    exact ⟨t, ht, hbytes, hzero, hsome, fun _ h => SramUnit.operand.inj h ▸ hpoison, nofun, nofun⟩
  | accumulator k =>
    obtain ⟨hk, hon, hb⟩ := hu
    obtain ⟨t, ht, hbytes, hzero, hsome, hbad⟩ := accumulatorPatrol_answers hclock hsym hk hon hb
    exact ⟨t, ht, hbytes, hzero, hsome, nofun, fun _ h => SramUnit.accumulator.inj h ▸ hbad, nofun⟩
  | instruction k =>
    obtain ⟨hk, hon, hb⟩ := hu
    obtain ⟨t, ht, hbytes, hzero, hsome, hclear⟩ := instructionPatrol_answers hclock hsym hk hon hb hnone
    exact ⟨t, ht, hbytes, hzero, hsome, nofun, nofun, fun _ h => SramUnit.instruction.inj h ▸ hclear⟩

theorem cricketMismatch_masked {s : State} {same : Nat} (hv54 : s.side.v54 = true) (hon : s.side.pstate ≠ .off) (hfail : s.side.fail ≠ 0x11)
    (harmed : s.health.armed = []) (h : ¬ s.hardAt 26 same) : Answers (exec (.cricketMismatch same) s) fun t =>
      t.side = { s.side with cricketRestarts := s.side.cricketRestarts + 1 } ∧ t.health.total = s.health.total + 1 ∧ s.only [.side, .chip, .health, .ledger, .cmd] t := by
  have hmasked : ¬ s.cricketRestart.hardAt 26 same := h
  obtain ⟨honly, htotal, _⟩ := State.blockMismatch_masked hmasked 12 7
  exact ⟨_, cricketMismatch_eq same hv54 hon hfail harmed, honly.2 .side (by decide), htotal,
    State.only_trans (State.only_mono (by decide) s.only_cricketRestart) (State.only_mono (by decide) honly)⟩

theorem cricketMismatch_hard {s : State} {same : Nat} (hv54 : s.side.v54 = true) (hon : s.side.pstate ≠ .off) (hfail : s.side.fail ≠ 0x11)
    (harmed : s.health.armed = []) (h : s.hardAt 26 same) : Answers (exec (.cricketMismatch same) s) fun t => s.resets 7 t := by
  have hhard : s.cricketRestart.hardAt 26 same := h
  exact ⟨_, cricketMismatch_eq same hv54 hon hfail harmed, State.blockMismatch_hard hhard 12 7 s.only_cricketRestart rfl⟩

/-- Settles O46: each patrol, refresh and injected fault by the rule of its instruction, and each mismatch by whether it is the third on one request
or the 16th within 1 s. -/
theorem patrolsAndMismatches : Obligations.PatrolsAndMismatches := by
  unfold Obligations.PatrolsAndMismatches
  refine ⟨⟨?patrol, ?scarab, ?refresh, ?sram, ?manyPoisoned, ?stack, ?inject, ?injected⟩, ?blocks, ?cricket, ?cluster, ?resetting, ?pairs, ?sequencers⟩
  case patrol => exact fun s n p h hits hhits => patrol_takes h hhits
  case scarab => exact fun s i sym hclock hi hsym hst => scarabRead_answers hclock hi hsym hst
  case refresh => exact fun s i pc bank hclock hi hpc hst hpcst => hbmRefresh_eq bank hclock hi hpc hst hpcst
  case sram => exact fun s u b sym hclock hsym hu hnone => sramPatrol_answers hclock hsym hu hnone
  case manyPoisoned => exact fun s c b hclock hc hb hin hsvc hnone hidle hmany => harbourPatrol_resets hclock hc hb hin hsvc hnone hidle.noStart hmany
  case stack => exact fun s i hclock hi hst => stackLinkError_answers hclock hi hst
  case inject => exact fun s p h => ⟨faultInject_arms h, faultInject_resets h⟩
  case injected => exact fun s g left hop hwork hopen hleft => faultInject_outcome hop hwork hopen hleft
  case blocks =>
    rintro s c cls key same cause hc hrun harmed hard rfl
    rw [controlMismatch_eq hc hrun harmed]
    exact ⟨fun hmasked => ⟨_, rfl, State.blockMismatch_masked hmasked cls cause⟩,
      fun hhard => ⟨_, rfl, State.blockMismatch_hard hhard cls cause (State.only_refl s _) rfl⟩⟩
  case cricket =>
    rintro s same hv54 hon hfail harmed hard rfl
    exact ⟨cricketMismatch_masked hv54 hon hfail harmed, cricketMismatch_hard hv54 hon hfail harmed⟩
  case cluster =>
    rintro s c same hrun hin harmed hsvc hidle hard rfl
    exact ⟨clusterMismatch_masked hrun hin harmed hsvc, clusterMismatch_hard hrun hin harmed hsvc hidle.noStart⟩
  case resetting => exact fun s c same hrun hin harmed hsvc hsame => clusterMismatch_resetting hrun hin harmed hsvc hsame
  case pairs =>
    rintro s p same hclock hp hpair harmed hard left rfl rfl
    exact ⟨pairMismatch_masked hclock hp hpair harmed, fun hhard hne => pairMismatch_retires hclock hp hpair harmed hhard rfl hne,
      fun hhard hnone => pairMismatch_resets hclock hp hpair harmed hhard hnone⟩
  case sequencers =>
    rintro s k same hclock hserves harmed hinst hidle hard rfl
    exact ⟨sequencerMismatch_masked hclock hserves harmed hinst hidle.noStart, sequencerMismatch_hard hclock hserves harmed hinst hidle.noStart⟩

end Sys2Proof.Machine
end
